-- ==== Sys2Proof/Word.lean ====
section
/-!
DEFINITION. Sys2Proof/Word.lean: the word types of the machine.
-/

namespace Sys2Proof

/-- A byte of memory. -/
abbrev Byte := BitVec 8

/-- A lane element, a mask, an instruction word (00 R2, 01 R12). -/
abbrev W32 := BitVec 32

/-- A scalar register, a PC, a doubleword (02 R38). -/
abbrev W64 := BitVec 64

/-- A vector register or a channel entry: 32 lanes of 32 bits (02 R38, 07 R137). -/
abbrev Vec := Vector W32 32

end Sys2Proof
end

