-- ==== Sys2Proof/Config.lean ====
section
/-!
DEFINITION. Sys2Proof/Config.lean: what a form of the part fixes, and the free values.

A free value (00 R5) is a constant without a body: no proof can learn what it is.  Each is applied to the counter
`State.free`, which every use advances, or to the operands that the value depends on (log entries 3, 7, 9, 14).
-/

namespace Sys2Proof.Config

/-- Which of n candidates moves next, where the spec gives no order among agents (log entry 3). -/
opaque agentChoice : Nat → Nat

/-- 01 R25, R97: whether an under-counted read of one lane (or of a scalar) returns the new value (log entry 7). -/
opaque readsNew : Nat → Bool

/-- 00 R5: an undefined byte (09 R188, 13 R239, 15 R262, 05 R109) (log entry 7). -/
opaque anyByte : Nat → Byte

/-- 19 R317: which of 16 disagreeing entries of a 64 KiB page translates an access (log entry 7). -/
opaque contiguousChoice : Nat → Nat

/-- 22 R362: the status with which a peer package ends a remote copy (log entry 9). -/
opaque remoteStatus : Nat → Nat

/-- 22 R362: the bytes that a remote pull reads from the peer's window (log entry 9). -/
opaque remoteByte : Nat → Byte

/-- 22 R366 to R368: SHA3-512 of a byte string, named and not given by the spec (log entry 14). -/
opaque sha3 : List Byte → BitVec 512

/-- 22 R367: the response of the on-die physically unclonable source, and the sealed blob's secret (log entry 14). -/
opaque pufResponse : List Byte
opaque blobSecret : List Byte

/-- 22 R367: the ML-DSA-87 key pair of a 32-byte seed: the private key, the public key (log entry 14). -/
opaque identityKey : List Byte → List Byte × List Byte

/-- 22 R368: the ML-DSA-87 signature of a digest under a private key, 4,627 bytes as one number (log entry 14). -/
opaque sign : List Byte → BitVec 512 → BitVec (8 * 4627)

/-- 23 R375, 00 R1: FORM, true for the TZ960M; the model is of either form (log entry 1). -/
opaque form : Bool

/-- 23 R370: the package power limit in W of the form. -/
def powerLimit : Nat := if form then 1950 else 1800

/-- 05 R109: an unread byte of a vstnt: whether the strand's own load sees the written byte before a drain (log entry 7). -/
opaque sawNonTemporal : Nat → Bool

/-- 11 R209: whether a line of a core that a containment reset kills had gone home before it (log entries 3, 7). -/
opaque evictsEarly : Nat → Bool

/-- 09 R188: whether a copy that crosses dies ends with a CRC-32C mismatch after its one reissue (log entry 7). -/
opaque crcFails : Nat → Bool

/-- 13 R240, R244: the DRAM row of a die that stores a sector; the spec gives the rows no size and no order (log entry 7). -/
opaque rowOf : Nat → Nat

/-- 23 R376: whether a rail comes up in step 1 of a bring-up, and whether the clocks lock in step 2 (log entry 7). -/
opaque railsUp : Nat → Bool

/-- 23 R376: whether a test of step 4 finds a unit worn; whether the check of step 5 finds the spare map as the sealed blob has it; whether a
link or a port trains in step 6 (log entry 57). -/
opaque testFails : Nat → Bool
opaque mapIntact : Nat → Bool
opaque trains : Nat → Bool

/-- 19 R333: which GiB of a die's DRAM the operator has set aside for its dump region (log entry 27). -/
opaque dumpPlace : Nat → Nat

/-- 12 R215: the die on which the package sow unit and the fabric unit stand (log entry 56). -/
opaque packageDie : Nat

/-- 22 R359, R360: whether the network delivers a notification (log entry 58). -/
opaque delivered : Nat → Bool

/-- 19 R309: whether a link's retraining fails (log entry 56). -/
opaque retrainFails : Nat → Bool

/-- 19 R308: whether the acknowledgement of a flit fails to come (log entry 56). -/
opaque ackMissing : Nat → Bool

/-- 19 R308, R309: whether the replay that a link makes fails again (log entry 56). -/
opaque replayFails : Nat → Bool

/-- 19 R332: whether a bring-up finds a crossbar wire or an SRAM row of a die to swap (log entry 57). -/
opaque swapAtBringUp : Nat → Bool

/-- 22 R352: the package's fabric address, and the MAC address of each port (log entry 59). -/
opaque fabricAddress : BitVec 128
opaque portMac : Nat → BitVec 48

end Sys2Proof.Config
end

