-- ==== Sys2Proof/Syntax.lean ====
section
/-!
DEFINITION. Sys2Proof/Syntax.lean: every row of spec/opcode_table.json as one constructor of `Instr`.

* A strand word (01 R12 to R37) and a transducer word (15 R265) keep the RAW bit fields that the table cuts out of the
  word, so that no bit is lost and the word can be given back in TVAL (01 R31).  Which field values the spec allows is
  `Instr.wellFormed`.
* The other rows are the part's steps that no word encodes (spec/95_what_each_step_holds.md): what a queue port does
  inside an instruction, engine and memory steps, the scheduler, host operations and management commands, resets.
  Their arguments name the unit that moves, or carry what comes from outside the package.
-/

namespace Sys2Proof

/-- Who waits for a translation (19 R321): a strand, or an engine operation. -/
inductive AgentRef where
  | strand (id : Nat)
  | engine (op : Nat)
  deriving DecidableEq, Repr

/-- A node of the sow tree (12 R215): a core's sow unit, a cluster's, a die's, the package's, the fabric unit; a peer package,
a child of the fabric unit (22 R363). -/
inductive TreeNode where
  | core (id : Nat)
  | cluster (id : Nat)
  | die (id : Nat)
  | package
  | fabric
  | peer (idx : Nat)
  deriving DecidableEq, Repr

/-- Where an ECC check looks (13 R242, 19 R330): a sector as DRAM or near store holds it, the slice's copy of it, the slice's tag of
its line, the length code of its block (15 R261), the L1 of a core; or, with the number in the event's first operand, a doubleword of a
window, a register, a byte of a plane, an element of a tile, an entry of the translation caches. -/
inductive EccPlace where
  | stored
  | cached
  | tag
  | code
  | l1 (core : Nat)
  | window (block : Nat)
  | register (strand : Nat)
  | plane (block p : Nat)
  | tile (block t : Nat)
  | translation
  deriving DecidableEq, Repr

/-- What an ECC check finds (13 R242 to R244): the patrol scrubber's find in a sector, or that of an access at another place. -/
inductive EccFinding where
  | clean
  | corrected (at_ : EccPlace)
  | uncorrectable (at_ : EccPlace)
  deriving DecidableEq, Repr

/-- A device operation that arrives at a fabric port (22 R354): the header fields, what the delivery says of the sender, and the
payload bytes; `opcode` is the header's op. `secure` is the virtual device of the sender's secure domain; `peer` is the
sender's own pair (fabric address, virtual device), none for a host; `tag` tells the operation from every other one, `conn` is
the ROD connection that it came on (22 R356), none for RUD. -/
structure HostOp where
  tag     : Nat
  conn    : Option Nat
  secure  : Nat
  peer    : Option (BitVec 128 × Nat)
  opcode  : Nat
  vd      : Nat
  index   : Nat
  length  : Nat
  offset  : Nat
  payload : List (BitVec 8)
  ownerChannel : Bool
  deriving DecidableEq, Repr

/-- A sow that comes from a peer package (22 R364): the peer, the bed, the payload, whether it is unordered. -/
structure PeerSow where
  addr    : BitVec 128
  bed     : BitVec 32
  payload : List (BitVec 64)
  unord   : Bool
  deriving DecidableEq, Repr

/-- A virtual device of a package (22 R363). -/
structure PeerDevice where
  addr : BitVec 128
  vd   : Nat
  deriving DecidableEq, Repr

/-- What arrives at a node: a sow of this package's trees, or one that a peer sends. -/
inductive SowMove where
  | sow (op : Nat)
  | incoming (p : PeerSow)
  deriving DecidableEq, Repr

/-- A management command (22 R354 op 3, R357): its payload, the header it came with, and who sent it: the owner of virtual device
`sender`, or the operator through his management virtual device. -/
structure MgmtCmd where
  tag      : Nat
  conn     : Option Nat
  operator : Bool
  sender   : Nat
  opcode   : Nat
  index    : Nat
  length   : Nat
  offset   : Nat
  bytes    : List (BitVec 8)
  deriving DecidableEq, Repr

/-- A firmware image that reaches the management controller (22 R366): its body and its signature, whether the key matches
the digest in mask ROM, whether the signature verifies, and its version. -/
structure FirmwareImage where
  body      : List (BitVec 8)
  signature : List (BitVec 8)
  keyOk     : Bool
  signedOk  : Bool
  version   : Nat
  deriving DecidableEq, Repr

/-- What comes over the sideband (23 R375): an image while none has passed verification; the successor of a running firmware, with the least
version that this sets once it has verified it (22 R366); a write to the status register. -/
inductive Sideband where
  | image (i : FirmwareImage)
  | successor (i : FirmwareImage) (least : Nat)
  | status (x : BitVec 32)
  deriving DecidableEq, Repr

/-- A register or storage of a stopped strand or its block that a debug session names (21 R351): `stack` an entry of the active-mask
stack with its part, `window` a doubleword, `plane` a byte, `planeScale` a scale code, `planeInfo` what was latched with it, `tray` a field, `channel` a
lane of an entry, `channelEnd` a field of a channel, `barrier` the slots that have arrived, `barrierState` its other fields, `batches` the
counters of an engine's batches, `hint` a pending hint, `stall` a count of the coverage, `micro` word j of entry i of what the micro view
shows: 8 times the partition plus 0 pairing queues, 1 bed table, 2 sow trace, 3 walk trace, 4 graft log. -/
inductive DebugTarget where
  | pc
  | scalar (r : Nat)
  | lane (r lane : Nat)
  | mask (r : Nat)
  | special (n : Nat)
  | stack (entry part : Nat)
  | window (offset : Nat)
  | tileA (tile row col : Nat)
  | tileRw (tile row col : Nat)
  | tileNan (tile row col : Nat)
  | tileRu (tile row col : Nat)
  | plane (p offset : Nat)
  | tray (t field : Nat)
  | channel (c entry lane : Nat)
  | barrier (b : Nat)
  | barrierState (b field : Nat)
  | channelEnd (c field : Nat)
  | planeInfo (p field : Nat)
  | planeScale (p offset : Nat)
  | batches (engine field : Nat)
  | hint (field : Nat)
  | stall (i : Nat)
  | micro (what i j : Nat)
  | pcMatch (i : Nat) (enable : Bool)
  | pcMatchEnable (i : Nat)
  deriving DecidableEq, Repr

/-- A debugger access (21 R351): a read, or a write of a value. -/
inductive DebugAccess where
  | read (t : DebugTarget)
  | write (t : DebugTarget) (value : BitVec 64)
  deriving DecidableEq, Repr

/-- One constructor per row of spec/opcode_table.json. -/
inductive Instr where
  /-- R322. Reading qpage pops a page request. -/
  | qpageRead (d : BitVec 6)
  /-- R323. Writing qpage publishes at package scope and pushes a page reply. -/
  | qpageWrite (a : BitVec 6)
  /-- R329. Reading qfault pops a fault record doubleword. -/
  | qfaultRead (d : BitVec 6)
  /-- R347. Writing qevent pushes a marker record. -/
  | qeventWrite (a : BitVec 6)
  /-- R347. Reading qevent pops a ring notification. -/
  | qeventRead (d : BitVec 6)
  /-- R360. Reading qmgmt pops the inbound mailbox. -/
  | qmgmtRead (d : BitVec 6)
  /-- R360. Writing qmgmt pushes to the outbound mailbox. -/
  | qmgmtWrite (a : BitVec 6)
  /-- R378. A fetch-buffer line arrives and the strand may issue from it. -/
  | fetchLineFill (strand : Nat)
  /-- R106. A load line reply arrives and lanes are written when all have data. -/
  | memoryReply (strand : Nat)
  /-- R115. An atomic's old values arrive and are written. -/
  | atomicReply (strand : Nat)
  /-- R120. A home or peer acknowledges a write, possibly completing a release. -/
  | storeAcknowledge (strand : Nat)
  /-- R321. A translation miss enters its page-request queue, waiting for room. -/
  | pageRequest (agent : AgentRef)
  /-- R320. A two-stage walk completes and the waiting agents replay or fault. -/
  | translationWalk (agent : AgentRef)
  /-- R75. A sleep's time limit expires. -/
  | sleepTimeout (strand : Nat)
  /-- R74. The 8 ac of a yield expire. -/
  | yieldEnd (strand : Nat)
  /-- R47. An active-mask stack entry returns from the context store. -/
  | maskStackRefill (strand : Nat)
  /-- R349. A PC match register fires before the matched word issues. -/
  | pcMatch (strand : Nat)
  /-- R139. The copy engine reserves a tray slot when FREE allows. -/
  | trayReserve (op : Nat)
  /-- R186. A copy chunk lands at the core side or home. -/
  | copyChunkLand (op : Nat)
  /-- R186. A copy updates its barrier, writes its completion word and completes. -/
  | copyComplete (op : Nat)
  /-- R175. All gang members joined and the array queue has room: the operation is forked. -/
  | gangRendezvous (block : Nat)
  /-- R176. The array is free; pairings are checked and the tile zeroed for mma. -/
  | matrixOpStart (op : Nat)
  /-- R176. A filled slot streams its rows against a plane and may be popped. -/
  | matrixSlotStream (op : Nat)
  /-- R162. A tile partial arrives at a column's pairing stage. -/
  | partialArrival (op row col : Nat) (t : Int)
  /-- R164. After its last arrival a stage drains its queues. -/
  | columnDrain (op col : Nat)
  /-- R169. Elements are range-tested or saturated and the operation completes. -/
  | matrixOpComplete (op : Nat)
  /-- R145. A block barrier's time-out expires; waiters trap. -/
  | blockBarrierTimeout (block b : Nat)
  /-- R201. The cluster barrier's time-out expires; waiters trap. -/
  | clusterBarrierTimeout (group : Nat)
  /-- R329. A held fault record is pushed whole when the queue has room. -/
  | faultRecordPush (vd : Nat)
  /-- R70. A block completes once strands ended and engine work and vstnt are done. -/
  | blockComplete (block : Nat)
  /-- R149. An eviction request moves a block to STOPPING. -/
  | evictionRequest (block : Nat)
  /-- R149. All strands at safe points; engines and accesses drain. -/
  | draining (block : Nat)
  /-- R149. Draining done; the block's state is written to its save area. -/
  | saving (block : Nat)
  /-- R149. Save writes acknowledged; resources freed. -/
  | evicted (block : Nat)
  /-- R149. The scheduler resumes the block and its state is read back. -/
  | restoring (block : Nat)
  /-- R149. Restore reads complete and the block runs again. -/
  | running (block : Nat)
  /-- R298. A masked deferral passes 2^20 ac; record posted and strand stopped. -/
  | maskoverrun (strand : Nat)
  /-- R202. A crossbar packet performs an access in a peer window. -/
  | peerLocalAccess (core : Nat)
  /-- R199. The management controller swaps a spare core into a cluster. -/
  | spareSwap (cluster core : Nat)
  /-- R208. A containment reset isolates a cluster and ends its blocks. -/
  | clusterReset (cluster : Nat)
  /-- R208. A packet's tail misses its 256 cc window and is discarded. -/
  | reassemblyTimeout (cluster packet : Nat)
  /-- R208. Allowances return to initial values and the cluster goes offline. -/
  | containmentHandshake (cluster : Nat)
  /-- R210. An illegal scheduling state stops issue and rebuilds the machines. -/
  | drainAndRebuild (cluster : Nat)
  /-- R210. Queued events are applied and issue resumes after a rebuild. -/
  | issueResume (cluster : Nat)
  /-- R216. A sow reaches a tree node and is steered. -/
  | sowAtNode (op : SowMove)
  /-- R215. A child's readiness count arrives at its parent. -/
  | readinessReport (node : TreeNode) (bed : BitVec 32)
  /-- R220. A held ordered sow departs once its predecessor has ended. -/
  | sowSend (op : Nat)
  /-- R235. A read request is served at its slice or near store. -/
  | homeRead (pa : Nat) (use : Nat) (free : Bool)
  /-- R235. Written bytes are performed at their home. -/
  | homeWrite (core line : Nat)
  /-- R115. An atomic is performed indivisibly at its perform place. -/
  | atomicPerform (strand : Nat)
  /-- R268. Sectors arrive from DRAM; a grafted block is checked and decoded. -/
  | dramReadComplete (line : Nat)
  /-- R269. A block is assembled, encoded, verified and stored or stored raw. -/
  | writeBackSequence (line : Nat)
  /-- R263. A transducer run starts on one block. -/
  | transducerRun (line : Nat) (encode : Bool)
  /-- R264. A run's step budget would be exceeded and it faults. -/
  | budget
  /-- R276. The forked conversion rewrites one block under the target. -/
  | gconvBlock (op : Nat)
  /-- R236. A near-store carve changes at a drain point. -/
  | carveChange (die steps : Nat)
  /-- R240. A worn slice is swapped for its spare. -/
  | sliceSwap (die unit : Nat)
  /-- R240. Copying a worn channel into the spare begins. -/
  | channelSwap (die unit : Nat)
  /-- R240. The channel copy ends and the map is rewritten. -/
  | channelCopyEnd (die : Nat)
  /-- R240. A DRAM row is replaced by a spare row. -/
  | rowRepair (die row : Nat)
  /-- R244. The scrubber reads and corrects a sector. -/
  | patrolScrub (sector : Nat) (found : EccFinding)
  /-- R308. A CRC failure replays from the first unacknowledged flit. -/
  | linkReplay (link : Nat)
  /-- R308. A missing acknowledgement after 64 cc forces a replay. -/
  | linkAckTimeout (link : Nat)
  /-- R309. After 8 failed replays the link retrains onto spare lanes. -/
  | linkRetrain (link : Nat) (laneFailed : Bool)
  /-- R333. The package stops, writes back and dumps. -/
  | fatalError (cause : Nat)
  /-- R354. Device operation op 0 writes a message into a work queue. -/
  | workQueueMessage (op : HostOp)
  /-- R281. The scheduler takes the next message when its launch table has room. -/
  | schedulerTake (queue : Nat)
  /-- R292. The ready pool sows a ready group into its class bed. -/
  | readyPoolSow (die : Nat)
  /-- R289. A record node's flush time-out launches an run. -/
  | flushTimeout (die node : Nat)
  /-- R290. A node completes and decrements its successors. -/
  | nodeComplete (die node : Nat)
  /-- R294. A completion record is written to the event ring when room allows. -/
  | completionRecord (vd : Nat)
  /-- R295. Coalesced notification sent on count or time trigger. -/
  | notification (vd : Nat)
  /-- R282. Each 1 ms of waiting raises a unit's priority. -/
  | aging (die : Nat)
  /-- R297. A time slice ends and contexts are swapped. -/
  | sliceEnd (cluster : Nat)
  /-- R299. A higher-priority ready group evicts lower-priority blocks. -/
  | preEmption (die : Nat)
  /-- R341. A core samples one eligible strand's PC and stall reason. -/
  | sample (core : Nat)
  /-- R345. A periodic or requested snapshot writes 16 counter records. -/
  | counterSnapshot (vd : Nat)
  /-- R348. A debugger stop request stops the block's strands. -/
  | debugStop (block : Nat)
  /-- R348. A continue resumes every strand of the block. -/
  | debugContinue (block : Nat)
  /-- R350. One stopped strand issues one instruction. -/
  | debugStep (strand : Nat)
  /-- R351. The debugger reads or writes a stopped strand's state. -/
  | debugStateAccess (strand : Nat) (access : DebugAccess)
  /-- R355. Device operation op 1 writes through a memory window. -/
  | windowWrite (op : HostOp)
  /-- R355. Device operation op 2 reads through a memory window. -/
  | windowRead (op : HostOp)
  /-- R358. Management command 1 opens, changes or closes a window. -/
  | window (cmd : MgmtCmd)
  /-- R358. Management command 2 sets the event ring. -/
  | ring (cmd : MgmtCmd)
  /-- R358. Management command 3 sets the notification endpoint and coalescing. -/
  | notify (cmd : MgmtCmd)
  /-- R358. Management command 4 opens or closes a debug session. -/
  | debug (cmd : MgmtCmd)
  /-- R368. Management command 5 returns a signed attestation report. -/
  | attest (cmd : MgmtCmd)
  /-- R312. Management command 6 configures, enables or disables a virtual device. -/
  | vdcfg (cmd : MgmtCmd)
  /-- R363. Management command 7 edits the fabric-scope membership list. -/
  | fabbed (cmd : MgmtCmd)
  /-- R358. Management command 8 assigns a work queue and PRIV mark. -/
  | queue (cmd : MgmtCmd)
  /-- R360. Management command 9 pushes doublewords to the inbound mailbox. -/
  | mailbox (cmd : MgmtCmd)
  /-- R364. A peer fabric unit's package count reaches the root. -/
  | fabricReadinessReport (peer : Nat) (bed : BitVec 32) (count : Nat)
  /-- R365. No delivery to a peer for 100 ms; sows end LOST. -/
  | peerUnreachable (addr : BitVec 128)
  /-- R353. A fabric port retrains onto its spare lane. -/
  | portLaneFailure (port : Nat)
  /-- R353. A port without spares is taken out at a drain point. -/
  | portOutOfService (port : Nat)
  /-- R376. VAUX comes up and bring-up runs. -/
  | powerOn
  /-- R375. Reset held low 10 ms restarts bring-up. -/
  | coldReset
  /-- R366. A firmware image arrives over the sideband. -/
  | firmwareImageTransfer (image : Sideband)
  /-- R373. Rail power is measured every 10 µs. -/
  | powerSample (watts : Nat)
  /-- R373. Each 1 ms the throttle level rises or falls one step. -/
  | throttleStep
  /-- R374. Thermal sensors are read; 105 or 115 °C acts. -/
  | thermalSample (celsius : Nat)
  /-- R375. Writing 1 to ALARM clears it. -/
  | alarmClear
  /-- R375. Writing 0 to FATAL clears it. -/
  | fatalClear
  /-- R32. A fetched word of a reserved major, an unlisted fn code or an unlisted hint kind traps ILLEGAL with no effect. -/
  | unallocatedEncoding (w : BitVec 32)
  /-- R309. A die-to-die link finishes retraining onto spare lanes within 2 µs and releases the traffic it held in both directions. -/
  | linkRetrainComplete (link : Nat)
  /-- R365. A peer package that was unreachable becomes reachable again, and the fabric root stops holding that child's count at 0. -/
  | peerReachable (addr : BitVec 128)
  /-- R363. A peer package receives the registration of a fab-scope bed number and accepts it for the listed partition or refuses it. -/
  | bedRegistration (root : PeerDevice) (vd : Nat) (bed : BitVec 32)
  /-- R208. The management controller finishes testing an offline cluster and brings it back, after which its cores advertise readiness anew. -/
  | clusterBackOnline (cluster : Nat)
  /-- R265. Read the next input byte or set EOF. -/
  | xdGetb (d : BitVec 4)
  /-- R265. Read an input byte ahead without advancing. -/
  | xdPeekb (d : BitVec 4) (i : BitVec 15)
  /-- R265. Write one output byte. -/
  | xdPutb (a : BitVec 4)
  /-- R265. Write a byte repeated G[b] times. -/
  | xdPutn (a : BitVec 4) (b : BitVec 4)
  /-- R265. Copy input bytes to output. -/
  | xdCpin (a : BitVec 4)
  /-- R265. Copy earlier output bytes at a distance. -/
  | xdBack (a : BitVec 4) (b : BitVec 4)
  /-- R265. Add immediate. -/
  | xdAddi (d : BitVec 4) (a : BitVec 4) (i : BitVec 15)
  /-- R265. Add registers. -/
  | xdAdd (d : BitVec 4) (a : BitVec 4) (b : BitVec 4)
  /-- R265. Subtract registers. -/
  | xdSub (d : BitVec 4) (a : BitVec 4) (b : BitVec 4)
  /-- R265. AND registers. -/
  | xdAnd (d : BitVec 4) (a : BitVec 4) (b : BitVec 4)
  /-- R265. OR registers. -/
  | xdOr (d : BitVec 4) (a : BitVec 4) (b : BitVec 4)
  /-- R265. XOR registers. -/
  | xdXor (d : BitVec 4) (a : BitVec 4) (b : BitVec 4)
  /-- R265. Shift left. -/
  | xdShl (d : BitVec 4) (a : BitVec 4) (b : BitVec 4)
  /-- R265. Logical shift right. -/
  | xdShr (d : BitVec 4) (a : BitVec 4) (b : BitVec 4)
  /-- R265. Table lookup. -/
  | xdTbl (d : BitVec 4) (a : BitVec 4)
  /-- R265. Branch if equal. -/
  | xdBeq (a : BitVec 4) (b : BitVec 4) (i : BitVec 15)
  /-- R265. Branch if not equal. -/
  | xdBne (a : BitVec 4) (b : BitVec 4) (i : BitVec 15)
  /-- R265. Branch if unsigned less. -/
  | xdBltn (a : BitVec 4) (b : BitVec 4) (i : BitVec 15)
  /-- R265. Branch at end of input. -/
  | xdBeof (i : BitVec 15)
  /-- R265. Unconditional branch. -/
  | xdJmp (i : BitVec 15)
  /-- R265. Remaining input length. -/
  | xdLen (d : BitVec 4)
  /-- R265. Current output position. -/
  | xdOpos (d : BitVec 4)
  /-- R265. End the run with success or SHORT. -/
  | xdHalt
  /-- R265. End the run with FAIL and an immediate. -/
  | xdFail (i : BitVec 15)
  /-- R32. Any word of major 0x00 traps ILLEGAL with no effect. -/
  | ill (x : BitVec 26)
  /-- R59. Scalar add of sa and sb, 64-bit or 32-bit sign-extended. -/
  | add (d : BitVec 6) (a : BitVec 6) (b : BitVec 6) (w : BitVec 1)
  /-- R59. Scalar subtract. -/
  | sub (d : BitVec 6) (a : BitVec 6) (b : BitVec 6) (w : BitVec 1)
  /-- R59. Scalar bitwise AND. -/
  | and (d : BitVec 6) (a : BitVec 6) (b : BitVec 6) (w : BitVec 1)
  /-- R59. Scalar bitwise OR. -/
  | or (d : BitVec 6) (a : BitVec 6) (b : BitVec 6) (w : BitVec 1)
  /-- R59. Scalar bitwise XOR. -/
  | xor (d : BitVec 6) (a : BitVec 6) (b : BitVec 6) (w : BitVec 1)
  /-- R59. Scalar a AND NOT b. -/
  | andn (d : BitVec 6) (a : BitVec 6) (b : BitVec 6) (w : BitVec 1)
  /-- R59. Scalar shift left by b mod n. -/
  | shl (d : BitVec 6) (a : BitVec 6) (b : BitVec 6) (w : BitVec 1)
  /-- R59. Scalar logical shift right. -/
  | shr (d : BitVec 6) (a : BitVec 6) (b : BitVec 6) (w : BitVec 1)
  /-- R59. Scalar arithmetic shift right. -/
  | sar (d : BitVec 6) (a : BitVec 6) (b : BitVec 6) (w : BitVec 1)
  /-- R59. Scalar multiply, low bits. -/
  | mul (d : BitVec 6) (a : BitVec 6) (b : BitVec 6) (w : BitVec 1)
  /-- R59. Scalar signed multiply high. -/
  | mulh (d : BitVec 6) (a : BitVec 6) (b : BitVec 6) (w : BitVec 1)
  /-- R59. Scalar unsigned multiply high. -/
  | mulhn (d : BitVec 6) (a : BitVec 6) (b : BitVec 6) (w : BitVec 1)
  /-- R59. Scalar signed minimum. -/
  | min (d : BitVec 6) (a : BitVec 6) (b : BitVec 6) (w : BitVec 1)
  /-- R59. Scalar signed maximum. -/
  | max (d : BitVec 6) (a : BitVec 6) (b : BitVec 6) (w : BitVec 1)
  /-- R59. Scalar unsigned minimum. -/
  | minn (d : BitVec 6) (a : BitVec 6) (b : BitVec 6) (w : BitVec 1)
  /-- R59. Scalar unsigned maximum. -/
  | maxn (d : BitVec 6) (a : BitVec 6) (b : BitVec 6) (w : BitVec 1)
  /-- R59. Set 1 if signed a < b. -/
  | slt (d : BitVec 6) (a : BitVec 6) (b : BitVec 6) (w : BitVec 1)
  /-- R59. Set 1 if unsigned a < b. -/
  | sltn (d : BitVec 6) (a : BitVec 6) (b : BitVec 6) (w : BitVec 1)
  /-- R59. Set 1 if a = b. -/
  | seq (d : BitVec 6) (a : BitVec 6) (b : BitVec 6) (w : BitVec 1)
  /-- R59. Set 1 if a differs from b. -/
  | sne (d : BitVec 6) (a : BitVec 6) (b : BitVec 6) (w : BitVec 1)
  /-- R59. Signed divide truncated toward zero, no trap. -/
  | div (d : BitVec 6) (a : BitVec 6) (b : BitVec 6) (w : BitVec 1)
  /-- R59. Unsigned divide. -/
  | divn (d : BitVec 6) (a : BitVec 6) (b : BitVec 6) (w : BitVec 1)
  /-- R59. Signed remainder with sign of the dividend. -/
  | rem (d : BitVec 6) (a : BitVec 6) (b : BitVec 6) (w : BitVec 1)
  /-- R59. Unsigned remainder. -/
  | remn (d : BitVec 6) (a : BitVec 6) (b : BitVec 6) (w : BitVec 1)
  /-- R59. Count leading zero bits. -/
  | clz (d : BitVec 6) (a : BitVec 6) (w : BitVec 1)
  /-- R59. Count trailing zero bits. -/
  | ctz (d : BitVec 6) (a : BitVec 6) (w : BitVec 1)
  /-- R59. Count set bits. -/
  | popc (d : BitVec 6) (a : BitVec 6) (w : BitVec 1)
  /-- R59. Extract a bit field described by sb. -/
  | bext (d : BitVec 6) (a : BitVec 6) (b : BitVec 6) (w : BitVec 1)
  /-- R59. Insert a bit field into sd. -/
  | bins (d : BitVec 6) (a : BitVec 6) (b : BitVec 6) (w : BitVec 1)
  /-- R60. Add sign-extended immediate. -/
  | addi (d : BitVec 6) (a : BitVec 6) (i : BitVec 14)
  /-- R60. AND with immediate. -/
  | andi (d : BitVec 6) (a : BitVec 6) (i : BitVec 14)
  /-- R60. OR with immediate. -/
  | ori (d : BitVec 6) (a : BitVec 6) (i : BitVec 14)
  /-- R60. XOR with immediate. -/
  | xori (d : BitVec 6) (a : BitVec 6) (i : BitVec 14)
  /-- R60. Shift left by immediate amount. -/
  | shli (d : BitVec 6) (a : BitVec 6) (w : BitVec 1) (n : BitVec 6)
  /-- R60. Logical shift right by immediate. -/
  | shri (d : BitVec 6) (a : BitVec 6) (w : BitVec 1) (n : BitVec 6)
  /-- R60. Arithmetic shift right by immediate. -/
  | sari (d : BitVec 6) (a : BitVec 6) (w : BitVec 1) (n : BitVec 6)
  /-- R60. Rotate right by immediate. -/
  | rotri (d : BitVec 6) (a : BitVec 6) (w : BitVec 1) (n : BitVec 6)
  /-- R60. Set 1 if signed sa < immediate. -/
  | slti (d : BitVec 6) (a : BitVec 6) (i : BitVec 14)
  /-- R60. Set 1 if unsigned sa < sign-extended immediate. -/
  | sltni (d : BitVec 6) (a : BitVec 6) (i : BitVec 14)
  /-- R61. Load sign-extended 20-bit immediate. -/
  | li (d : BitVec 6) (i : BitVec 20)
  /-- R61. Write PC plus scaled immediate. -/
  | addpc (d : BitVec 6) (i : BitVec 20)
  /-- R62. Scalar load from global or local memory. -/
  | sld (p : BitVec 1) (z : BitVec 3) (d : BitVec 6) (a : BitVec 6) (i : BitVec 10)
  /-- R62. Scalar store to global or local memory. -/
  | sst (p : BitVec 1) (z : BitVec 2) (d : BitVec 6) (a : BitVec 6) (i : BitVec 10)
  /-- R64. Branch on a comparison of sa with zero. -/
  | br (c : BitVec 4) (a : BitVec 6) (o : BitVec 16)
  /-- R64. Branch on a comparison of sa with sb. -/
  | brr (c : BitVec 4) (a : BitVec 6) (b : BitVec 6) (o : BitVec 10)
  /-- R65. PC-relative jump. -/
  | j (o : BitVec 26)
  /-- R65. PC-relative call writing the link to s1. -/
  | call (o : BitVec 26)
  /-- R65. Indirect jump to sa. -/
  | jr (a : BitVec 6)
  /-- R65. Indirect call to sa, writing s1. -/
  | callr (a : BitVec 6)
  /-- R65. Return to the address in s1. -/
  | ret
  /-- R45. Push an IF entry and narrow m0, or jump when no lane is selected. -/
  | mif (m : BitVec 3) (o : BitVec 16)
  /-- R45. Switch m0 to the pending else lanes, or restore and jump. -/
  | melse (o : BitVec 16)
  /-- R45. Restore the outer mask and pop an IF entry. -/
  | mend
  /-- R45. Push a LOOP entry. -/
  | mpush (o : BitVec 16)
  /-- R45. Narrow m0 in a loop, or jump to RCV when no lane is left. -/
  | mlimit (m : BitVec 3)
  /-- R45. Restore the outer mask and pop a LOOP entry. -/
  | mpop
  /-- R68. Branch if any active lane of m is set. -/
  | bany (m : BitVec 3) (o : BitVec 16)
  /-- R68. Branch if m covers every active lane. -/
  | ball (m : BitVec 3) (o : BitVec 16)
  /-- R68. Branch if no active lane of m is set. -/
  | bnone (m : BitVec 3) (o : BitVec 16)
  /-- R69. Mask AND. -/
  | mand (d : BitVec 3) (a : BitVec 3) (b : BitVec 3)
  /-- R69. Mask OR. -/
  | mor (d : BitVec 3) (a : BitVec 3) (b : BitVec 3)
  /-- R69. Mask XOR. -/
  | mxor (d : BitVec 3) (a : BitVec 3) (b : BitVec 3)
  /-- R69. Mask AND NOT. -/
  | mandn (d : BitVec 3) (a : BitVec 3) (b : BitVec 3)
  /-- R69. Mask complement within visible lanes. -/
  | mnot (d : BitVec 3) (a : BitVec 3)
  /-- R69. Mask copy. -/
  | mmov (d : BitVec 3) (a : BitVec 3)
  /-- R69. Mask from scalar register. -/
  | mfrom (d : BitVec 3) (s : BitVec 6)
  /-- R69. Scalar from mask register. -/
  | mto (a : BitVec 3) (s : BitVec 6)
  /-- R69. Count set bits of a mask. -/
  | mcount (a : BitVec 3) (s : BitVec 6)
  /-- R69. Index of the lowest set bit of a mask. -/
  | mfirst (a : BitVec 3) (s : BitVec 6)
  /-- R70. No effect. -/
  | nop
  /-- R70. End the strand, sealing final batches. -/
  | exit
  /-- R71. Raise SOFTWARE with TVAL = imm20. -/
  | trap (i : BitVec 20)
  /-- R54. Return from a handler to TPC under m0 AND TLANES. -/
  | tret
  /-- R71. Raise a breakpoint to debugger or handler. -/
  | brk (i : BitVec 20)
  /-- R73. Read a special register into sd. -/
  | sread (d : BitVec 6) (r : BitVec 10)
  /-- R73. Write a special register from sa. -/
  | swrite (a : BitVec 6) (r : BitVec 10)
  /-- R72. Set CTRL.TMASKED. -/
  | tmask
  /-- R72. Clear CTRL.TMASKED and let deferred pre-emption proceed. -/
  | tunmask
  /-- R74. Safe point; otherwise not selected for 8 ac. -/
  | yield
  /-- R75. Stop issue until a time limit or a wake event. -/
  | sleep (a : BitVec 6)
  /-- R80. Vector integer add, optionally saturating. -/
  | vadd (d : BitVec 7) (a : BitVec 7) (b : BitVec 7) (k : BitVec 1)
  /-- R80. Vector integer subtract. -/
  | vsub (d : BitVec 7) (a : BitVec 7) (b : BitVec 7) (k : BitVec 1)
  /-- R80. Vector multiply low. -/
  | vmul (d : BitVec 7) (a : BitVec 7) (b : BitVec 7) (k : BitVec 1)
  /-- R80. Vector signed multiply high. -/
  | vmulh (d : BitVec 7) (a : BitVec 7) (b : BitVec 7) (k : BitVec 1)
  /-- R80. Vector unsigned multiply high. -/
  | vmulhn (d : BitVec 7) (a : BitVec 7) (b : BitVec 7) (k : BitVec 1)
  /-- R80. Vector signed minimum. -/
  | vmin (d : BitVec 7) (a : BitVec 7) (b : BitVec 7) (k : BitVec 1)
  /-- R80. Vector signed maximum. -/
  | vmax (d : BitVec 7) (a : BitVec 7) (b : BitVec 7) (k : BitVec 1)
  /-- R80. Vector unsigned minimum. -/
  | vminn (d : BitVec 7) (a : BitVec 7) (b : BitVec 7) (k : BitVec 1)
  /-- R80. Vector unsigned maximum. -/
  | vmaxn (d : BitVec 7) (a : BitVec 7) (b : BitVec 7) (k : BitVec 1)
  /-- R80. Vector AND. -/
  | vand (d : BitVec 7) (a : BitVec 7) (b : BitVec 7) (k : BitVec 1)
  /-- R80. Vector OR. -/
  | vor (d : BitVec 7) (a : BitVec 7) (b : BitVec 7) (k : BitVec 1)
  /-- R80. Vector XOR. -/
  | vxor (d : BitVec 7) (a : BitVec 7) (b : BitVec 7) (k : BitVec 1)
  /-- R80. Vector shift left. -/
  | vshl (d : BitVec 7) (a : BitVec 7) (b : BitVec 7) (k : BitVec 1)
  /-- R80. Vector logical shift right. -/
  | vshr (d : BitVec 7) (a : BitVec 7) (b : BitVec 7) (k : BitVec 1)
  /-- R80. Vector arithmetic shift right. -/
  | vsar (d : BitVec 7) (a : BitVec 7) (b : BitVec 7) (k : BitVec 1)
  /-- R80. Vector absolute difference. -/
  | vabsd (d : BitVec 7) (a : BitVec 7) (b : BitVec 7) (k : BitVec 1)
  /-- R81. Vector integer compare writing a mask, inactive bits 0. -/
  | vcmp (c : BitVec 3) (m : BitVec 3) (a : BitVec 7) (b : BitVec 7)
  /-- R82. Vector multiply-add modulo 2^32. -/
  | vmad (d : BitVec 6) (a : BitVec 6) (b : BitVec 6) (c : BitVec 6)
  /-- R82. Vector funnel shift left. -/
  | vfsl (d : BitVec 6) (a : BitVec 6) (b : BitVec 6) (c : BitVec 6)
  /-- R82. Vector funnel shift right. -/
  | vfsr (d : BitVec 6) (a : BitVec 6) (b : BitVec 6) (c : BitVec 6)
  /-- R82. Vector bit select. -/
  | vbsel (d : BitVec 6) (a : BitVec 6) (b : BitVec 6) (c : BitVec 6)
  /-- R83. FP32 fused multiply-add. -/
  | vfma (d : BitVec 6) (a : BitVec 6) (b : BitVec 6) (c : BitVec 6)
  /-- R83. FP32 fused multiply-subtract. -/
  | vfms (d : BitVec 6) (a : BitVec 6) (b : BitVec 6) (c : BitVec 6)
  /-- R83. FP32 fused negated multiply-add. -/
  | vfnma (d : BitVec 6) (a : BitVec 6) (b : BitVec 6) (c : BitVec 6)
  /-- R84. Vector add immediate. -/
  | vaddi (d : BitVec 7) (a : BitVec 7) (i : BitVec 8)
  /-- R84. Vector AND immediate. -/
  | vandi (d : BitVec 7) (a : BitVec 7) (i : BitVec 8)
  /-- R84. Vector OR immediate. -/
  | vori (d : BitVec 7) (a : BitVec 7) (i : BitVec 8)
  /-- R84. Vector XOR immediate. -/
  | vxori (d : BitVec 7) (a : BitVec 7) (i : BitVec 8)
  /-- R84. Vector shift left by immediate. -/
  | vshli (d : BitVec 7) (a : BitVec 7) (i : BitVec 8)
  /-- R84. Vector logical shift right by immediate. -/
  | vshri (d : BitVec 7) (a : BitVec 7) (i : BitVec 8)
  /-- R84. Vector arithmetic shift right by immediate. -/
  | vsari (d : BitVec 7) (a : BitVec 7) (i : BitVec 8)
  /-- R84. Vector move immediate. -/
  | vmovi (d : BitVec 7) (i : BitVec 8)
  /-- R85. Broadcast a scalar half to active lanes. -/
  | vbcast (d : BitVec 7) (s : BitVec 6) (m : BitVec 2)
  /-- R85. Vector add scalar. -/
  | vadds (d : BitVec 7) (a : BitVec 7) (s : BitVec 6) (m : BitVec 2)
  /-- R85. Vector multiply by scalar. -/
  | vmuls (d : BitVec 7) (a : BitVec 7) (s : BitVec 6) (m : BitVec 2)
  /-- R85. Vector unsigned multiply high by scalar. -/
  | vmulhns (d : BitVec 7) (a : BitVec 7) (s : BitVec 6) (m : BitVec 2)
  /-- R85. Vector shift left by scalar. -/
  | vshls (d : BitVec 7) (a : BitVec 7) (s : BitVec 6) (m : BitVec 2)
  /-- R85. Vector logical shift right by scalar. -/
  | vshrs (d : BitVec 7) (a : BitVec 7) (s : BitVec 6) (m : BitVec 2)
  /-- R85. Write lane number plus scalar. -/
  | vlaneid (d : BitVec 7) (s : BitVec 6) (m : BitVec 2)
  /-- R86. Exchange lanes at XOR distance d. -/
  | vxch (d : BitVec 7) (a : BitVec 7) (i : BitVec 8)
  /-- R86. Rotate lanes by k. -/
  | vrot (d : BitVec 7) (a : BitVec 7) (k : BitVec 5)
  /-- R86. Permute lanes by index vector. -/
  | vperm (d : BitVec 7) (a : BitVec 7) (b : BitVec 7) (k : BitVec 1)
  /-- R86. Extract one lane to a scalar. -/
  | vextl (d : BitVec 6) (a : BitVec 7) (l : BitVec 8)
  /-- R86. Insert a scalar into one lane. -/
  | vinsl (d : BitVec 7) (l : BitVec 5) (s : BitVec 6) (m : BitVec 2)
  /-- R87. Tree-reduce active lanes by exact sum to a scalar. -/
  | vradd (d : BitVec 6) (a : BitVec 7)
  /-- R87. Reduce by signed maximum to a scalar. -/
  | vrmax (d : BitVec 6) (a : BitVec 7)
  /-- R87. Reduce by signed minimum to a scalar. -/
  | vrmin (d : BitVec 6) (a : BitVec 7)
  /-- R87. Reduce by unsigned maximum to a scalar. -/
  | vrmaxn (d : BitVec 6) (a : BitVec 7)
  /-- R87. Reduce by FP32 addition in the fixed tree. -/
  | vrfadd (d : BitVec 6) (a : BitVec 7)
  /-- R87. Reduce by FP32 maximum. -/
  | vrfmax (d : BitVec 6) (a : BitVec 7)
  /-- R88. Group sum within groups of g lanes. -/
  | vgadd (d : BitVec 7) (a : BitVec 7) (g : BitVec 8)
  /-- R88. Group signed maximum. -/
  | vgmax (d : BitVec 7) (a : BitVec 7) (g : BitVec 8)
  /-- R88. Group unsigned maximum. -/
  | vgmaxn (d : BitVec 7) (a : BitVec 7) (g : BitVec 8)
  /-- R88. Group OR. -/
  | vgor (d : BitVec 7) (a : BitVec 7) (g : BitVec 8)
  /-- R88. Inclusive prefix sum within groups. -/
  | vscan (d : BitVec 7) (a : BitVec 7) (g : BitVec 8)
  /-- R89. FP32 add. -/
  | vfadd (d : BitVec 7) (a : BitVec 7) (b : BitVec 7) (k : BitVec 1)
  /-- R89. FP32 subtract. -/
  | vfsub (d : BitVec 7) (a : BitVec 7) (b : BitVec 7) (k : BitVec 1)
  /-- R89. FP32 multiply. -/
  | vfmul (d : BitVec 7) (a : BitVec 7) (b : BitVec 7) (k : BitVec 1)
  /-- R89. FP32 minimum. -/
  | vfmin (d : BitVec 7) (a : BitVec 7) (b : BitVec 7) (k : BitVec 1)
  /-- R89. FP32 maximum. -/
  | vfmax (d : BitVec 7) (a : BitVec 7) (b : BitVec 7) (k : BitVec 1)
  /-- R89. FP32 absolute value by sign bit. -/
  | vfabs (d : BitVec 7) (a : BitVec 7) (k : BitVec 1)
  /-- R89. FP32 negate by sign bit. -/
  | vfneg (d : BitVec 7) (a : BitVec 7) (k : BitVec 1)
  /-- R90. Correctly rounded reciprocal. -/
  | vfrcp (d : BitVec 7) (a : BitVec 7) (k : BitVec 1)
  /-- R90. Correctly rounded reciprocal square root. -/
  | vfrsq (d : BitVec 7) (a : BitVec 7) (k : BitVec 1)
  /-- R90. Square root rounded in M. -/
  | vfsqrt (d : BitVec 7) (a : BitVec 7) (k : BitVec 1)
  /-- R90. Correctly rounded 2^x. -/
  | vfexp2 (d : BitVec 7) (a : BitVec 7) (k : BitVec 1)
  /-- R90. Correctly rounded log2. -/
  | vflog2 (d : BitVec 7) (a : BitVec 7) (k : BitVec 1)
  /-- R90. Correctly rounded sine. -/
  | vfsin (d : BitVec 7) (a : BitVec 7) (k : BitVec 1)
  /-- R90. Correctly rounded cosine. -/
  | vfcos (d : BitVec 7) (a : BitVec 7) (k : BitVec 1)
  /-- R89. Multiply by a power of two, rounded once. -/
  | vfscale (d : BitVec 7) (a : BitVec 7) (b : BitVec 7) (k : BitVec 1)
  /-- R91. Write the class code of each element. -/
  | vfclass (d : BitVec 7) (a : BitVec 7) (k : BitVec 1)
  /-- R92. FP32 compare writing a mask. -/
  | vfcmp (c : BitVec 3) (m : BitVec 3) (a : BitVec 7) (b : BitVec 7)
  /-- R93. Signed integer to FP32. -/
  | vcvtF32I32 (d : BitVec 7) (a : BitVec 7) (r : BitVec 3)
  /-- R93. FP32 to saturated signed integer. -/
  | vcvtI32F32 (d : BitVec 7) (a : BitVec 7) (r : BitVec 3)
  /-- R93. Unsigned integer to FP32. -/
  | vcvtF32N32 (d : BitVec 7) (a : BitVec 7) (r : BitVec 3)
  /-- R93. FP32 to saturated unsigned integer. -/
  | vcvtN32F32 (d : BitVec 7) (a : BitVec 7) (r : BitVec 3)
  /-- R93. Pack two FP32 registers into BF16 pairs. -/
  | vcvtBf16F32 (d : BitVec 7) (a : BitVec 7) (r : BitVec 3)
  /-- R93. Widen one BF16 half to FP32 exactly. -/
  | vcvtF32Bf16 (d : BitVec 7) (a : BitVec 7) (h : BitVec 1)
  /-- R93. Pack two FP32 registers into binary16 pairs. -/
  | vcvtF16F32 (d : BitVec 7) (a : BitVec 7) (r : BitVec 3)
  /-- R93. Widen one binary16 half to FP32 exactly. -/
  | vcvtF32F16 (d : BitVec 7) (a : BitVec 7) (h : BitVec 1)
  /-- R95. Encode FP32 into a narrow format from FMT. -/
  | vcvtNfF32 (d : BitVec 7) (a : BitVec 7) (f : BitVec 3) (r : BitVec 3)
  /-- R95. Decode a narrow element to FP32. -/
  | vcvtF32Nf (d : BitVec 7) (a : BitVec 7) (f : BitVec 3) (r : BitVec 3)
  /-- R93. Round FP32 to an integral value. -/
  | vcvtRint (d : BitVec 7) (a : BitVec 7) (r : BitVec 3)
  /-- R106. Gather load, one address per lane. -/
  | vldIndexed (p : BitVec 1) (d : BitVec 7) (s : BitVec 6) (o : BitVec 7) (z : BitVec 3)
  /-- R106. Unit-stride vector load. -/
  | vldUnit (p : BitVec 1) (d : BitVec 7) (s : BitVec 6) (z : BitVec 3)
  /-- R106. Load one element to every active lane. -/
  | vldBroadcast (p : BitVec 1) (d : BitVec 7) (s : BitVec 6) (z : BitVec 3)
  /-- R107. Scatter store. -/
  | vstIndexed (p : BitVec 1) (d : BitVec 7) (s : BitVec 6) (o : BitVec 7) (z : BitVec 3)
  /-- R107. Unit-stride vector store. -/
  | vstUnit (p : BitVec 1) (d : BitVec 7) (s : BitVec 6) (z : BitVec 3)
  /-- R109. Non-temporal unit store bypassing the L1. -/
  | vstnt (d : BitVec 7) (s : BitVec 6) (z : BitVec 3)
  /-- R108. Byte-masked unaligned store. -/
  | vstbm (p : BitVec 1) (d : BitVec 7) (s : BitVec 6) (o : BitVec 7)
  /-- R115. Vector atomic add. -/
  | vatmAdd (d : BitVec 6) (b : BitVec 6) (o : BitVec 6) (s : BitVec 3) (r : BitVec 2)
  /-- R115. Vector atomic signed minimum. -/
  | vatmMin (d : BitVec 6) (b : BitVec 6) (o : BitVec 6) (s : BitVec 3) (r : BitVec 2)
  /-- R115. Vector atomic signed maximum. -/
  | vatmMax (d : BitVec 6) (b : BitVec 6) (o : BitVec 6) (s : BitVec 3) (r : BitVec 2)
  /-- R115. Vector atomic unsigned minimum. -/
  | vatmMinn (d : BitVec 6) (b : BitVec 6) (o : BitVec 6) (s : BitVec 3) (r : BitVec 2)
  /-- R115. Vector atomic unsigned maximum. -/
  | vatmMaxn (d : BitVec 6) (b : BitVec 6) (o : BitVec 6) (s : BitVec 3) (r : BitVec 2)
  /-- R115. Vector atomic exchange. -/
  | vatmXchg (d : BitVec 6) (b : BitVec 6) (o : BitVec 6) (s : BitVec 3) (r : BitVec 2)
  /-- R115. Vector atomic compare-and-swap. -/
  | vatmCas (d : BitVec 6) (b : BitVec 6) (o : BitVec 6) (s : BitVec 3) (r : BitVec 2)
  /-- R115. Vector atomic FP32 add. -/
  | vatmFadd (d : BitVec 6) (b : BitVec 6) (o : BitVec 6) (s : BitVec 3) (r : BitVec 2)
  /-- R115. Vector atomic AND. -/
  | vatmAnd (d : BitVec 6) (b : BitVec 6) (o : BitVec 6) (s : BitVec 3) (r : BitVec 2)
  /-- R115. Vector atomic OR. -/
  | vatmOr (d : BitVec 6) (b : BitVec 6) (o : BitVec 6) (s : BitVec 3) (r : BitVec 2)
  /-- R115. Vector atomic XOR. -/
  | vatmXor (d : BitVec 6) (b : BitVec 6) (o : BitVec 6) (s : BitVec 3) (r : BitVec 2)
  /-- R115. Vector atomic wrapping increment. -/
  | vatmIncw (d : BitVec 6) (b : BitVec 6) (o : BitVec 6) (s : BitVec 3) (r : BitVec 2)
  /-- R115. Vector atomic wrapping decrement. -/
  | vatmDecw (d : BitVec 6) (b : BitVec 6) (o : BitVec 6) (s : BitVec 3) (r : BitVec 2)
  /-- R116. Scalar 64-bit atomic add. -/
  | satmAdd (d : BitVec 6) (a : BitVec 6) (b : BitVec 6) (s : BitVec 3) (r : BitVec 2)
  /-- R116. Scalar atomic signed minimum. -/
  | satmMin (d : BitVec 6) (a : BitVec 6) (b : BitVec 6) (s : BitVec 3) (r : BitVec 2)
  /-- R116. Scalar atomic signed maximum. -/
  | satmMax (d : BitVec 6) (a : BitVec 6) (b : BitVec 6) (s : BitVec 3) (r : BitVec 2)
  /-- R116. Scalar atomic exchange. -/
  | satmXchg (d : BitVec 6) (a : BitVec 6) (b : BitVec 6) (s : BitVec 3) (r : BitVec 2)
  /-- R116. Scalar atomic compare-and-swap. -/
  | satmCas (d : BitVec 6) (a : BitVec 6) (b : BitVec 6) (s : BitVec 3) (r : BitVec 2)
  /-- R116. Scalar atomic AND. -/
  | satmAnd (d : BitVec 6) (a : BitVec 6) (b : BitVec 6) (s : BitVec 3) (r : BitVec 2)
  /-- R116. Scalar atomic OR. -/
  | satmOr (d : BitVec 6) (a : BitVec 6) (b : BitVec 6) (s : BitVec 3) (r : BitVec 2)
  /-- R116. Scalar atomic XOR. -/
  | satmXor (d : BitVec 6) (a : BitVec 6) (b : BitVec 6) (s : BitVec 3) (r : BitVec 2)
  /-- R120. Publish the core's stores at a scope, writing back the L1. -/
  | pub (s : BitVec 3)
  /-- R121. Refresh the view by invalidating clean L1 sectors. -/
  | acq (s : BitVec 3)
  /-- R121. Publish then acquire at a scope. -/
  | pubacq (s : BitVec 3)
  /-- R122. Wait until earlier vstnt stores are performed at home. -/
  | drain (s : BitVec 3)
  /-- R123. Write one line's dirty bytes home and to DRAM at wide scopes. -/
  | clean (s : BitVec 3) (a : BitVec 6)
  /-- R124. Drop clean copies of one line. -/
  | inval (s : BitVec 3) (a : BitVec 6)
  /-- R176. Gang-issued matrix operation zeroing the tile first. -/
  | mma (a : BitVec 3) (w : BitVec 7) (r : BitVec 4) (k : BitVec 4) (x : BitVec 1) (y : BitVec 1) (p : BitVec 1)
  /-- R176. Gang-issued matrix operation accumulating into the tile. -/
  | mmac (a : BitVec 3) (w : BitVec 7) (r : BitVec 4) (k : BitVec 4) (x : BitVec 1) (y : BitVec 1) (p : BitVec 1)
  /-- R178. Read out 32 columns of a tile row scaled to FP32. -/
  | aread (d : BitVec 7) (a : BitVec 3) (r : BitVec 4) (g : BitVec 2) (s : BitVec 6)
  /-- R178. Read out A, Rw and flags of a tile row. -/
  | areadRaw (d : BitVec 7) (a : BitVec 3) (r : BitVec 4) (g : BitVec 2)
  /-- R178. Zero a tile and its residue counter. -/
  | azero (a : BitVec 3)
  /-- R178. Set a tile's anchor G. -/
  | aanchor (a : BitVec 3) (s : BitVec 6)
  /-- R178. Set a tile's declared range D. -/
  | arange (a : BitVec 3) (e : BitVec 6)
  /-- R178. Read a tile's status summary. -/
  | astat (d : BitVec 6) (a : BitVec 3)
  /-- R147. Close unsealed engine operations into a numbered batch. -/
  | seal (d : BitVec 6) (e : BitVec 2)
  /-- R180. Wait until at most n batches are open, reporting faults. -/
  | waitb (e : BitVec 2) (n : BitVec 4)
  /-- R179. Return the highest complete batch number, reporting faults. -/
  | testb (d : BitVec 6) (e : BitVec 2)
  /-- R181. Set the GANG slot mask. -/
  | gangset (a : BitVec 6)
  /-- R181. Clear the GANG slot mask. -/
  | gangclr
  /-- R186. Fork a copy of a box from global memory to window, tray or plane. -/
  | cpg (l : BitVec 6) (c : BitVec 6) (d : BitVec 6) (q : BitVec 6)
  /-- R186. Fork a copy from the local window to global memory. -/
  | cps (l : BitVec 6) (c : BitVec 6) (d : BitVec 6) (q : BitVec 6)
  /-- R189. Fork a multicast copy to a rectangle of cores. -/
  | cpm (l : BitVec 6) (c : BitVec 6) (d : BitVec 6) (q : BitVec 6)
  /-- R361. Fork a copy to or from another package's window. -/
  | cpx (l : BitVec 6) (c : BitVec 6) (d : BitVec 6) (q : BitVec 6)
  /-- R190. Initialise a tray from a descriptor after outstanding users end. -/
  | tinit (t : BitVec 4) (s : BitVec 6)
  /-- R191. Wait until a tray slot is filled. -/
  | twait (t : BitVec 4)
  /-- R256. Pop the head slot of a tray as a core-scope release. -/
  | tpop (t : BitVec 4)
  /-- R191. Read tray counters without waiting. -/
  | tfilled (t : BitVec 4) (d : BitVec 6)
  /-- R191. Reserve and land the tail slot from the strand's stores. -/
  | tcommit (t : BitVec 4)
  /-- R193. Initialise a phase-bit barrier. -/
  | barinit (a : BitVec 6) (b : BitVec 6)
  /-- R193. Arrive at a phase-bit barrier. -/
  | bararr (a : BitVec 6)
  /-- R193. Wait until a barrier's round differs from the named one. -/
  | barwait (a : BitVec 6) (b : BitVec 6)
  /-- R193. Raise a barrier's expected transfer. -/
  | barexp (a : BitVec 6) (b : BitVec 6)
  /-- R144. Arrive and wait at a block barrier. -/
  | barsync (b : BitVec 4)
  /-- R201. Publish, arrive and wait at the cluster barrier, then acquire. -/
  | cbarsync
  /-- R194. Bind the slot to a channel end. -/
  | chbind (c : BitVec 6) (s : BitVec 6)
  /-- R194. Release the slot's channel ends. -/
  | chclose (c : BitVec 6)
  /-- R194. Read a channel's entry count. -/
  | chlen (c : BitVec 6) (d : BitVec 6)
  /-- R224. Add take-mode offers for a bed. -/
  | offerTake (d : BitVec 6) (a : BitVec 6) (b : BitVec 6)
  /-- R224. Add spawn-mode offers reserving slots. -/
  | offerSpawn (d : BitVec 6) (a : BitVec 6) (b : BitVec 6)
  /-- R225. Remove unclaimed offers for a bed. -/
  | withdraw (d : BitVec 6) (a : BitVec 6) (b : BitVec 6)
  /-- R227. Publish and fork a sow to a bed. -/
  | sow (q : BitVec 6) (a : BitVec 6) (b : BitVec 6) (n : BitVec 3) (u : BitVec 1)
  /-- R226. Pop an accepted sow from the block's take queue. -/
  | take (d : BitVec 6) (a : BitVec 6) (n : BitVec 3)
  /-- R229. Create, change or delete a bed from a descriptor. -/
  | bedcfg (d : BitVec 6) (a : BitVec 6)
  /-- R301. Publish and append a record to a successor node's queue. -/
  | emit (q : BitVec 4) (a : BitVec 6)
  /-- R302. Publish and write a message into a work queue. -/
  | spawn (a : BitVec 6) (b : BitVec 6)
  /-- R303. Flush a successor node's records emitted so far. -/
  | tdone (q : BitVec 4)
  /-- R274. Load or unload a transducer image. -/
  | gload (d : BitVec 6) (a : BitVec 6) (b : BitVec 6)
  /-- R275. Bind regions to a transducer pair. -/
  | gbind (d : BitVec 6) (a : BitVec 6) (b : BitVec 6)
  /-- R275. Unbind all-raw regions. -/
  | gunbind (d : BitVec 6) (a : BitVec 6) (b : BitVec 6)
  /-- R276. Fork a conversion of regions to a new pair or raw. -/
  | gconv (q : BitVec 6) (a : BitVec 6) (b : BitVec 6)
  /-- R277. Read graft region, block, event or quota status. -/
  | gstat (d : BitVec 6) (a : BitVec 6) (b : BitVec 6)
  /-- R326. Publish and drop translation cache entries within a scope. -/
  | tlbinv (s : BitVec 3) (a : BitVec 6) (b : BitVec 6)
  /-- R327. Evict a named block and hold it. -/
  | evict (a : BitVec 6) (b : BitVec 6)
  /-- R327. Hand a held block back to the scheduler. -/
  | resume (a : BitVec 6) (b : BitVec 6)
  /-- R328. Write a measurement item of the partition. -/
  | pmcfg (a : BitVec 6) (b : BitVec 6)
  /-- R25. Set stall counts for the next seven instructions. -/
  | hintStall (g : BitVec 3) (f : BitVec 3) (e : BitVec 3) (d : BitVec 3) (c : BitVec 3) (b : BitVec 3) (a : BitVec 3)
  /-- R27. Extend the next instruction's immediate. -/
  | hintXimm (x : BitVec 22)
  /-- R28. Attach use count, free flag and no-allocate to the next access. -/
  | hintMem (n : BitVec 1) (f : BitVec 1) (u : BitVec 6)
  /-- R28. Override rounding or set saturation for the next instruction. -/
  | hintMod (s : BitVec 1) (r : BitVec 3)
  /-- R28. Demote the strand to lowest selection priority. -/
  | hintSpin
  /-- R28. Prefetch a line into the L1. -/
  | hintPref (a : BitVec 6)
  deriving DecidableEq, Repr

end Sys2Proof
end

