-- ==== Sys2Proof/WellFormed.lean ====
section
/-!
DEFINITION. Sys2Proof/WellFormed.lean: which field values of an allocated word the spec allows.

A word that matches a row of the opcode table and is not well-formed traps ILLEGAL with no effect (01 R32): a code field
with an unlisted value (R18), a member-specific value out of its set (R21, R23, R28, 03 R60), a channel where the member
needs a register (04 R93, 09 R178), a misused K bit (R15).
Checks that need the strand (protected mode, budget, port names) are made at issue (Machine/Operands.lean).
-/

namespace Sys2Proof

/-- The encoding checks of 01 R32 that the fields alone decide. -/
def Instr.wellFormed (i : Instr) : Bool :=
  match i with
  | .shli _ _ w n => decide ((w = 1#1 → n.toNat < 32))
  | .shri _ _ w n => decide ((w = 1#1 → n.toNat < 32))
  | .sari _ _ w n => decide ((w = 1#1 → n.toNat < 32))
  | .rotri _ _ w n => decide ((w = 1#1 → n.toNat < 32))
  | .sld _ z _ _ _ => decide (z.toNat ≤ 6)
  | .br c _ _ => decide (c.toNat ≤ 5)
  | .brr c _ _ _ => decide (c.toNat ≤ 5)
  | .vadd _ a b k => decide ((k = 1#1 → 64 ≤ a.toNat ∨ 64 ≤ b.toNat))
  | .vsub _ a b k => decide ((k = 1#1 → 64 ≤ a.toNat ∨ 64 ≤ b.toNat))
  | .vmul _ a b k => decide ((k = 1#1 → 64 ≤ a.toNat ∨ 64 ≤ b.toNat))
  | .vmulh _ a b k => decide ((k = 1#1 → 64 ≤ a.toNat ∨ 64 ≤ b.toNat))
  | .vmulhn _ a b k => decide ((k = 1#1 → 64 ≤ a.toNat ∨ 64 ≤ b.toNat))
  | .vmin _ a b k => decide ((k = 1#1 → 64 ≤ a.toNat ∨ 64 ≤ b.toNat))
  | .vmax _ a b k => decide ((k = 1#1 → 64 ≤ a.toNat ∨ 64 ≤ b.toNat))
  | .vminn _ a b k => decide ((k = 1#1 → 64 ≤ a.toNat ∨ 64 ≤ b.toNat))
  | .vmaxn _ a b k => decide ((k = 1#1 → 64 ≤ a.toNat ∨ 64 ≤ b.toNat))
  | .vand _ a b k => decide ((k = 1#1 → 64 ≤ a.toNat ∨ 64 ≤ b.toNat))
  | .vor _ a b k => decide ((k = 1#1 → 64 ≤ a.toNat ∨ 64 ≤ b.toNat))
  | .vxor _ a b k => decide ((k = 1#1 → 64 ≤ a.toNat ∨ 64 ≤ b.toNat))
  | .vshl _ a b k => decide ((k = 1#1 → 64 ≤ a.toNat ∨ 64 ≤ b.toNat))
  | .vshr _ a b k => decide ((k = 1#1 → 64 ≤ a.toNat ∨ 64 ≤ b.toNat))
  | .vsar _ a b k => decide ((k = 1#1 → 64 ≤ a.toNat ∨ 64 ≤ b.toNat))
  | .vabsd _ a b k => decide ((k = 1#1 → 64 ≤ a.toNat ∨ 64 ≤ b.toNat))
  | .vcmp c _ _ _ => decide (c.toNat ≤ 5)
  | .vbcast _ _ m => decide (m.toNat ≤ 1)
  | .vadds _ _ _ m => decide (m.toNat ≤ 1)
  | .vmuls _ _ _ m => decide (m.toNat ≤ 1)
  | .vmulhns _ _ _ m => decide (m.toNat ≤ 1)
  | .vshls _ _ _ m => decide (m.toNat ≤ 1)
  | .vshrs _ _ _ m => decide (m.toNat ≤ 1)
  | .vlaneid _ _ m => decide (m.toNat ≤ 1)
  | .vxch _ _ i => decide (i.toNat ∈ [1, 2, 4, 8, 16])
  | .vperm _ a b k => decide ((k = 1#1 → 64 ≤ a.toNat ∨ 64 ≤ b.toNat))
  | .vextl _ _ l => decide (l.toNat < 32)
  | .vinsl _ _ _ m => decide (m.toNat ≤ 1)
  | .vgadd _ _ g => decide (g.toNat ∈ [2, 4, 8, 16, 32])
  | .vgmax _ _ g => decide (g.toNat ∈ [2, 4, 8, 16, 32])
  | .vgmaxn _ _ g => decide (g.toNat ∈ [2, 4, 8, 16, 32])
  | .vgor _ _ g => decide (g.toNat ∈ [2, 4, 8, 16, 32])
  | .vscan _ _ g => decide (g.toNat ∈ [2, 4, 8, 16, 32])
  | .vfadd _ a b k => decide ((k = 1#1 → 64 ≤ a.toNat ∨ 64 ≤ b.toNat))
  | .vfsub _ a b k => decide ((k = 1#1 → 64 ≤ a.toNat ∨ 64 ≤ b.toNat))
  | .vfmul _ a b k => decide ((k = 1#1 → 64 ≤ a.toNat ∨ 64 ≤ b.toNat))
  | .vfmin _ a b k => decide ((k = 1#1 → 64 ≤ a.toNat ∨ 64 ≤ b.toNat))
  | .vfmax _ a b k => decide ((k = 1#1 → 64 ≤ a.toNat ∨ 64 ≤ b.toNat))
  | .vfabs _ a k => decide ((k = 1#1 → 64 ≤ a.toNat))
  | .vfneg _ a k => decide ((k = 1#1 → 64 ≤ a.toNat))
  | .vfrcp _ a k => decide ((k = 1#1 → 64 ≤ a.toNat))
  | .vfrsq _ a k => decide ((k = 1#1 → 64 ≤ a.toNat))
  | .vfsqrt _ a k => decide ((k = 1#1 → 64 ≤ a.toNat))
  | .vfexp2 _ a k => decide ((k = 1#1 → 64 ≤ a.toNat))
  | .vflog2 _ a k => decide ((k = 1#1 → 64 ≤ a.toNat))
  | .vfsin _ a k => decide ((k = 1#1 → 64 ≤ a.toNat))
  | .vfcos _ a k => decide ((k = 1#1 → 64 ≤ a.toNat))
  | .vfscale _ a b k => decide ((k = 1#1 → 64 ≤ a.toNat ∨ 64 ≤ b.toNat))
  | .vfclass _ a k => decide ((k = 1#1 → 64 ≤ a.toNat))
  | .vfcmp c _ _ _ => decide (c.toNat ≤ 4)
  | .vcvtF32I32 _ _ r => decide (r.toNat ≤ 5)
  | .vcvtI32F32 _ _ r => decide (r.toNat ≤ 5)
  | .vcvtF32N32 _ _ r => decide (r.toNat ≤ 5)
  | .vcvtN32F32 _ _ r => decide (r.toNat ≤ 5)
  | .vcvtBf16F32 _ a r => decide ((r.toNat ≤ 5 ∧ a.toNat < 64))
  | .vcvtF16F32 _ a r => decide ((r.toNat ≤ 5 ∧ a.toNat < 64))
  | .vcvtNfF32 _ _ _ r => decide (r.toNat ≤ 5)
  | .vcvtF32Nf _ _ _ r => decide (r.toNat ≤ 5)
  | .vcvtRint _ _ r => decide (r.toNat ≤ 5)
  | .vldIndexed _ _ _ _ z => decide (z.toNat ≤ 4)
  | .vldUnit _ _ _ z => decide (z.toNat ≤ 4)
  | .vldBroadcast _ _ _ z => decide (z.toNat ≤ 4)
  | .vstIndexed _ _ _ _ z => decide (z.toNat ∈ [0, 2, 4])
  | .vstUnit _ _ _ z => decide (z.toNat ∈ [0, 2, 4])
  | .vstnt _ _ z => decide (z.toNat ∈ [0, 2, 4])
  | .vatmAdd _ _ _ s _ => decide (s.toNat ≤ 5)
  | .vatmMin _ _ _ s _ => decide (s.toNat ≤ 5)
  | .vatmMax _ _ _ s _ => decide (s.toNat ≤ 5)
  | .vatmMinn _ _ _ s _ => decide (s.toNat ≤ 5)
  | .vatmMaxn _ _ _ s _ => decide (s.toNat ≤ 5)
  | .vatmXchg _ _ _ s _ => decide (s.toNat ≤ 5)
  | .vatmCas _ _ _ s _ => decide (s.toNat ≤ 5)
  | .vatmFadd _ _ _ s _ => decide (s.toNat ≤ 5)
  | .vatmAnd _ _ _ s _ => decide (s.toNat ≤ 5)
  | .vatmOr _ _ _ s _ => decide (s.toNat ≤ 5)
  | .vatmXor _ _ _ s _ => decide (s.toNat ≤ 5)
  | .vatmIncw _ _ _ s _ => decide (s.toNat ≤ 5)
  | .vatmDecw _ _ _ s _ => decide (s.toNat ≤ 5)
  | .satmAdd _ _ _ s _ => decide (s.toNat ≤ 5)
  | .satmMin _ _ _ s _ => decide (s.toNat ≤ 5)
  | .satmMax _ _ _ s _ => decide (s.toNat ≤ 5)
  | .satmXchg _ _ _ s _ => decide (s.toNat ≤ 5)
  | .satmCas _ _ _ s _ => decide (s.toNat ≤ 5)
  | .satmAnd _ _ _ s _ => decide (s.toNat ≤ 5)
  | .satmOr _ _ _ s _ => decide (s.toNat ≤ 5)
  | .satmXor _ _ _ s _ => decide (s.toNat ≤ 5)
  | .pub s => decide (s.toNat ≤ 5)
  | .acq s => decide (s.toNat ≤ 5)
  | .pubacq s => decide (s.toNat ≤ 5)
  | .drain s => decide (s.toNat ≤ 5)
  | .clean s _ => decide (s.toNat ≤ 5)
  | .inval s _ => decide (s.toNat ≤ 5)
  | .areadRaw d _ _ _ => decide (d.toNat < 64)
  | .arange _ e => decide (e.toNat ∈ [20, 24, 28, 32, 36, 41])
  | .seal _ e => decide (e.toNat ≤ 2)
  | .waitb e _ => decide (e.toNat ≤ 2)
  | .testb _ e => decide (e.toNat ≤ 2)
  | .tlbinv s _ _ => decide (s.toNat ∈ [1, 2, 3, 4])
  | .hintMod _ r => decide ((r.toNat ≤ 3 ∨ r.toNat = 7))
  | .ill .. | .add .. | .sub .. | .and .. | .or .. | .xor .. | .andn .. | .shl ..
  | .shr .. | .sar .. | .mul .. | .mulh .. | .mulhn .. | .min .. | .max .. | .minn ..
  | .maxn .. | .slt .. | .sltn .. | .seq .. | .sne .. | .div .. | .divn .. | .rem ..
  | .remn .. | .clz .. | .ctz .. | .popc .. | .bext .. | .bins .. | .addi .. | .andi ..
  | .ori .. | .xori .. | .slti .. | .sltni .. | .li .. | .addpc .. | .sst .. | .j ..
  | .call .. | .jr .. | .callr .. | .ret | .mif .. | .melse .. | .mend | .mpush ..
  | .mlimit .. | .mpop | .bany .. | .ball .. | .bnone .. | .mand .. | .mor .. | .mxor ..
  | .mandn .. | .mnot .. | .mmov .. | .mfrom .. | .mto .. | .mcount .. | .mfirst .. | .nop
  | .exit | .trap .. | .tret | .brk .. | .sread .. | .swrite .. | .tmask | .tunmask
  | .yield | .sleep .. | .vmad .. | .vfsl .. | .vfsr .. | .vbsel .. | .vfma .. | .vfms ..
  | .vfnma .. | .vaddi .. | .vandi .. | .vori .. | .vxori .. | .vshli .. | .vshri .. | .vsari ..
  | .vmovi .. | .vrot .. | .vradd .. | .vrmax .. | .vrmin .. | .vrmaxn .. | .vrfadd .. | .vrfmax ..
  | .vcvtF32Bf16 .. | .vcvtF32F16 .. | .vstbm .. | .mma .. | .mmac .. | .aread .. | .azero .. | .aanchor ..
  | .astat .. | .gangset .. | .gangclr | .cpg .. | .cps .. | .cpm .. | .cpx .. | .tinit ..
  | .twait .. | .tpop .. | .tfilled .. | .tcommit .. | .barinit .. | .bararr .. | .barwait .. | .barexp ..
  | .barsync .. | .cbarsync | .chbind .. | .chclose .. | .chlen .. | .offerTake .. | .offerSpawn .. | .withdraw ..
  | .sow .. | .take .. | .bedcfg .. | .emit .. | .spawn .. | .tdone .. | .gload .. | .gbind ..
  | .gunbind .. | .gconv .. | .gstat .. | .evict .. | .resume .. | .pmcfg .. | .hintStall .. | .hintXimm ..
  | .hintMem .. | .hintSpin | .hintPref .. | .qpageRead .. | .qpageWrite .. | .qfaultRead .. | .qeventWrite .. | .qeventRead ..
  | .qmgmtRead .. | .qmgmtWrite .. | .fetchLineFill .. | .memoryReply .. | .atomicReply .. | .storeAcknowledge .. | .pageRequest .. | .translationWalk ..
  | .sleepTimeout .. | .yieldEnd .. | .maskStackRefill .. | .pcMatch .. | .trayReserve .. | .copyChunkLand .. | .copyComplete .. | .gangRendezvous ..
  | .matrixOpStart .. | .matrixSlotStream .. | .partialArrival .. | .columnDrain .. | .matrixOpComplete .. | .blockBarrierTimeout .. | .clusterBarrierTimeout .. | .faultRecordPush ..
  | .blockComplete .. | .evictionRequest .. | .draining .. | .saving .. | .evicted .. | .restoring .. | .running .. | .maskoverrun ..
  | .peerLocalAccess .. | .spareSwap .. | .clusterReset .. | .reassemblyTimeout .. | .containmentHandshake .. | .drainAndRebuild .. | .issueResume .. | .sowAtNode ..
  | .readinessReport .. | .sowSend .. | .homeRead .. | .homeWrite .. | .atomicPerform .. | .dramReadComplete .. | .writeBackSequence .. | .transducerRun ..
  | .budget | .gconvBlock .. | .carveChange .. | .sliceSwap .. | .channelSwap .. | .channelCopyEnd .. | .rowRepair .. | .patrolScrub ..
  | .linkReplay .. | .linkAckTimeout .. | .linkRetrain .. | .fatalError .. | .workQueueMessage .. | .schedulerTake .. | .readyPoolSow .. | .flushTimeout ..
  | .nodeComplete .. | .completionRecord .. | .notification .. | .aging .. | .sliceEnd .. | .preEmption .. | .sample .. | .counterSnapshot ..
  | .debugStop .. | .debugContinue .. | .debugStep .. | .debugStateAccess .. | .windowWrite .. | .windowRead .. | .window .. | .ring ..
  | .notify .. | .debug .. | .attest .. | .vdcfg .. | .fabbed .. | .queue .. | .mailbox .. | .fabricReadinessReport ..
  | .peerUnreachable .. | .portLaneFailure .. | .portOutOfService .. | .powerOn | .coldReset | .firmwareImageTransfer .. | .powerSample .. | .throttleStep
  | .thermalSample .. | .alarmClear | .fatalClear | .xdGetb .. | .xdPeekb .. | .xdPutb .. | .xdPutn .. | .xdCpin ..
  | .xdBack .. | .xdAddi .. | .xdAdd .. | .xdSub .. | .xdAnd .. | .xdOr .. | .xdXor .. | .xdShl ..
  | .xdShr .. | .xdTbl .. | .xdBeq .. | .xdBne .. | .xdBltn .. | .xdBeof .. | .xdJmp .. | .xdLen ..
  | .xdOpos .. | .xdHalt | .xdFail .. | .unallocatedEncoding .. | .linkRetrainComplete .. | .peerReachable .. | .bedRegistration .. | .clusterBackOnline .. => true

end Sys2Proof
end

