-- ==== Sys2Proof/Decode.lean ====
section
/-!
DEFINITION. Sys2Proof/Decode.lean: from bits to an instruction and back (01 R12, R13, R21 to R24; 15 R265).

(The decoder is marked noncomputable only because Lean's run-time has no more than 245 constructor tags and `Instr` has
386 constructors; the kernel evaluates it.)  `decode` is total: every word is a constructor of `Instr`, a word that no row of the opcode table matches is
`unallocatedEncoding`, which traps ILLEGAL (01 R32).  Fields are cut out here, once, as raw bits.
-/

namespace Sys2Proof

/-- 00 R6: the number in bits [lo + n - 1 : lo] of a word. -/
def fld (w : W32) (lo n : Nat) : Nat := w.toNat / 2 ^ lo % 2 ^ n

/-- The same bits as a field of n bits. -/
def bits (w : W32) (lo n : Nat) : BitVec n := BitVec.ofNat n (fld w lo n)

/-- Why bytes are no instruction: fewer than four are left. -/
inductive DecodeError where
  | truncated
  deriving DecidableEq, Repr

/-- 00 R6: four bytes, little-endian, make a word. -/
def wordOfBytes (b0 b1 b2 b3 : Byte) : W32 :=
  BitVec.ofNat 32 (b0.toNat + b1.toNat * 2 ^ 8 + b2.toNat * 2 ^ 16 + b3.toNat * 2 ^ 24)

/-- The k-th byte of a word, byte 0 at the lowest address (00 R6). -/
def byteOfWord (w : W32) (k : Nat) : Byte := BitVec.ofNat 8 (w.toNat / 2 ^ (8 * k))

/-- The rows of major 0x00 (01 R22). -/
noncomputable def decodeMajor00 (w : W32) : Instr :=
  .ill (bits w 0 26)

/-- The rows of major 0x01 (01 R22). -/
noncomputable def decodeMajor01 (w : W32) : Instr :=
  if fld w 1 3 = 0 ∧ fld w 22 4 = 0 then .add (bits w 16 6) (bits w 10 6) (bits w 4 6) (bits w 0 1)
  else if fld w 1 3 = 0 ∧ fld w 22 4 = 1 then .sub (bits w 16 6) (bits w 10 6) (bits w 4 6) (bits w 0 1)
  else if fld w 1 3 = 0 ∧ fld w 22 4 = 2 then .and (bits w 16 6) (bits w 10 6) (bits w 4 6) (bits w 0 1)
  else if fld w 1 3 = 0 ∧ fld w 22 4 = 3 then .or (bits w 16 6) (bits w 10 6) (bits w 4 6) (bits w 0 1)
  else if fld w 1 3 = 0 ∧ fld w 22 4 = 4 then .xor (bits w 16 6) (bits w 10 6) (bits w 4 6) (bits w 0 1)
  else if fld w 1 3 = 0 ∧ fld w 22 4 = 5 then .andn (bits w 16 6) (bits w 10 6) (bits w 4 6) (bits w 0 1)
  else if fld w 1 3 = 0 ∧ fld w 22 4 = 6 then .shl (bits w 16 6) (bits w 10 6) (bits w 4 6) (bits w 0 1)
  else if fld w 1 3 = 0 ∧ fld w 22 4 = 7 then .shr (bits w 16 6) (bits w 10 6) (bits w 4 6) (bits w 0 1)
  else if fld w 1 3 = 0 ∧ fld w 22 4 = 8 then .sar (bits w 16 6) (bits w 10 6) (bits w 4 6) (bits w 0 1)
  else if fld w 1 3 = 0 ∧ fld w 22 4 = 9 then .mul (bits w 16 6) (bits w 10 6) (bits w 4 6) (bits w 0 1)
  else if fld w 1 3 = 0 ∧ fld w 22 4 = 10 then .mulh (bits w 16 6) (bits w 10 6) (bits w 4 6) (bits w 0 1)
  else if fld w 1 3 = 0 ∧ fld w 22 4 = 11 then .mulhn (bits w 16 6) (bits w 10 6) (bits w 4 6) (bits w 0 1)
  else if fld w 1 3 = 0 ∧ fld w 22 4 = 12 then .min (bits w 16 6) (bits w 10 6) (bits w 4 6) (bits w 0 1)
  else if fld w 1 3 = 0 ∧ fld w 22 4 = 13 then .max (bits w 16 6) (bits w 10 6) (bits w 4 6) (bits w 0 1)
  else if fld w 1 3 = 0 ∧ fld w 22 4 = 14 then .minn (bits w 16 6) (bits w 10 6) (bits w 4 6) (bits w 0 1)
  else if fld w 1 3 = 0 ∧ fld w 22 4 = 15 then .maxn (bits w 16 6) (bits w 10 6) (bits w 4 6) (bits w 0 1)
  else .unallocatedEncoding w

/-- The rows of major 0x02 (01 R22). -/
noncomputable def decodeMajor02 (w : W32) : Instr :=
  if fld w 1 3 = 0 ∧ fld w 22 4 = 0 then .slt (bits w 16 6) (bits w 10 6) (bits w 4 6) (bits w 0 1)
  else if fld w 1 3 = 0 ∧ fld w 22 4 = 1 then .sltn (bits w 16 6) (bits w 10 6) (bits w 4 6) (bits w 0 1)
  else if fld w 1 3 = 0 ∧ fld w 22 4 = 2 then .seq (bits w 16 6) (bits w 10 6) (bits w 4 6) (bits w 0 1)
  else if fld w 1 3 = 0 ∧ fld w 22 4 = 3 then .sne (bits w 16 6) (bits w 10 6) (bits w 4 6) (bits w 0 1)
  else if fld w 1 3 = 0 ∧ fld w 22 4 = 4 then .div (bits w 16 6) (bits w 10 6) (bits w 4 6) (bits w 0 1)
  else if fld w 1 3 = 0 ∧ fld w 22 4 = 5 then .divn (bits w 16 6) (bits w 10 6) (bits w 4 6) (bits w 0 1)
  else if fld w 1 3 = 0 ∧ fld w 22 4 = 6 then .rem (bits w 16 6) (bits w 10 6) (bits w 4 6) (bits w 0 1)
  else if fld w 1 3 = 0 ∧ fld w 22 4 = 7 then .remn (bits w 16 6) (bits w 10 6) (bits w 4 6) (bits w 0 1)
  else if fld w 1 9 = 0 ∧ fld w 22 4 = 8 then .clz (bits w 16 6) (bits w 10 6) (bits w 0 1)
  else if fld w 1 9 = 0 ∧ fld w 22 4 = 9 then .ctz (bits w 16 6) (bits w 10 6) (bits w 0 1)
  else if fld w 1 9 = 0 ∧ fld w 22 4 = 10 then .popc (bits w 16 6) (bits w 10 6) (bits w 0 1)
  else if fld w 1 3 = 0 ∧ fld w 22 4 = 11 then .bext (bits w 16 6) (bits w 10 6) (bits w 4 6) (bits w 0 1)
  else if fld w 1 3 = 0 ∧ fld w 22 4 = 12 then .bins (bits w 16 6) (bits w 10 6) (bits w 4 6) (bits w 0 1)
  else .unallocatedEncoding w

/-- The rows of major 0x03 (01 R22). -/
noncomputable def decodeMajor03 (w : W32) : Instr :=
  .addi (bits w 20 6) (bits w 14 6) (bits w 0 14)

/-- The rows of major 0x04 (01 R22). -/
noncomputable def decodeMajor04 (w : W32) : Instr :=
  .andi (bits w 20 6) (bits w 14 6) (bits w 0 14)

/-- The rows of major 0x05 (01 R22). -/
noncomputable def decodeMajor05 (w : W32) : Instr :=
  .ori (bits w 20 6) (bits w 14 6) (bits w 0 14)

/-- The rows of major 0x06 (01 R22). -/
noncomputable def decodeMajor06 (w : W32) : Instr :=
  .xori (bits w 20 6) (bits w 14 6) (bits w 0 14)

/-- The rows of major 0x07 (01 R22). -/
noncomputable def decodeMajor07 (w : W32) : Instr :=
  if fld w 7 7 = 0 then .shli (bits w 20 6) (bits w 14 6) (bits w 6 1) (bits w 0 6)
  else if fld w 7 7 = 32 then .shri (bits w 20 6) (bits w 14 6) (bits w 6 1) (bits w 0 6)
  else if fld w 7 7 = 64 then .sari (bits w 20 6) (bits w 14 6) (bits w 6 1) (bits w 0 6)
  else if fld w 7 7 = 96 then .rotri (bits w 20 6) (bits w 14 6) (bits w 6 1) (bits w 0 6)
  else .unallocatedEncoding w

/-- The rows of major 0x08 (01 R22). -/
noncomputable def decodeMajor08 (w : W32) : Instr :=
  .slti (bits w 20 6) (bits w 14 6) (bits w 0 14)

/-- The rows of major 0x09 (01 R22). -/
noncomputable def decodeMajor09 (w : W32) : Instr :=
  .sltni (bits w 20 6) (bits w 14 6) (bits w 0 14)

/-- The rows of major 0x0A (01 R22). -/
noncomputable def decodeMajor0A (w : W32) : Instr :=
  .li (bits w 20 6) (bits w 0 20)

/-- The rows of major 0x0B (01 R22). -/
noncomputable def decodeMajor0B (w : W32) : Instr :=
  .addpc (bits w 20 6) (bits w 0 20)

/-- The rows of major 0x0C (01 R22). -/
noncomputable def decodeMajor0C (w : W32) : Instr :=
  .sld (bits w 25 1) (bits w 22 3) (bits w 16 6) (bits w 10 6) (bits w 0 10)

/-- The rows of major 0x0D (01 R22). -/
noncomputable def decodeMajor0D (w : W32) : Instr :=
  if fld w 24 1 = 0 then .sst (bits w 25 1) (bits w 22 2) (bits w 16 6) (bits w 10 6) (bits w 0 10)
  else .unallocatedEncoding w

/-- The rows of major 0x0E (01 R22). -/
noncomputable def decodeMajor0E (w : W32) : Instr :=
  .br (bits w 22 4) (bits w 16 6) (bits w 0 16)

/-- The rows of major 0x0F (01 R22). -/
noncomputable def decodeMajor0F (w : W32) : Instr :=
  .brr (bits w 22 4) (bits w 16 6) (bits w 10 6) (bits w 0 10)

/-- The rows of major 0x10 (01 R22). -/
noncomputable def decodeMajor10 (w : W32) : Instr :=
  .j (bits w 0 26)

/-- The rows of major 0x11 (01 R22). -/
noncomputable def decodeMajor11 (w : W32) : Instr :=
  .call (bits w 0 26)

/-- The rows of major 0x12 (01 R22). -/
noncomputable def decodeMajor12 (w : W32) : Instr :=
  if fld w 0 10 = 0 ∧ fld w 16 10 = 0 then .jr (bits w 10 6)
  else if fld w 0 10 = 0 ∧ fld w 16 10 = 64 then .callr (bits w 10 6)
  else if fld w 0 26 = 8389632 then .ret
  else .unallocatedEncoding w

/-- The rows of major 0x13 (01 R22). -/
noncomputable def decodeMajor13 (w : W32) : Instr :=
  if fld w 16 3 = 0 ∧ fld w 22 4 = 0 then .mif (bits w 19 3) (bits w 0 16)
  else if fld w 16 10 = 64 then .melse (bits w 0 16)
  else if fld w 0 26 = 8388608 then .mend
  else if fld w 16 10 = 192 then .mpush (bits w 0 16)
  else if fld w 0 19 = 0 ∧ fld w 22 4 = 4 then .mlimit (bits w 19 3)
  else if fld w 0 26 = 20971520 then .mpop
  else if fld w 16 3 = 0 ∧ fld w 22 4 = 6 then .bany (bits w 19 3) (bits w 0 16)
  else if fld w 16 3 = 0 ∧ fld w 22 4 = 7 then .ball (bits w 19 3) (bits w 0 16)
  else if fld w 16 3 = 0 ∧ fld w 22 4 = 8 then .bnone (bits w 19 3) (bits w 0 16)
  else .unallocatedEncoding w

/-- The rows of major 0x14 (01 R22). -/
noncomputable def decodeMajor14 (w : W32) : Instr :=
  if fld w 0 13 = 0 ∧ fld w 22 4 = 0 then .mand (bits w 19 3) (bits w 16 3) (bits w 13 3)
  else if fld w 0 13 = 0 ∧ fld w 22 4 = 1 then .mor (bits w 19 3) (bits w 16 3) (bits w 13 3)
  else if fld w 0 13 = 0 ∧ fld w 22 4 = 2 then .mxor (bits w 19 3) (bits w 16 3) (bits w 13 3)
  else if fld w 0 13 = 0 ∧ fld w 22 4 = 3 then .mandn (bits w 19 3) (bits w 16 3) (bits w 13 3)
  else if fld w 0 16 = 0 ∧ fld w 22 4 = 4 then .mnot (bits w 19 3) (bits w 16 3)
  else if fld w 0 16 = 0 ∧ fld w 22 4 = 5 then .mmov (bits w 19 3) (bits w 16 3)
  else if fld w 0 7 = 0 ∧ fld w 13 6 = 0 ∧ fld w 22 4 = 6 then .mfrom (bits w 19 3) (bits w 7 6)
  else if fld w 0 7 = 0 ∧ fld w 13 3 = 0 ∧ fld w 19 7 = 56 then .mto (bits w 16 3) (bits w 7 6)
  else if fld w 0 7 = 0 ∧ fld w 13 3 = 0 ∧ fld w 19 7 = 64 then .mcount (bits w 16 3) (bits w 7 6)
  else if fld w 0 7 = 0 ∧ fld w 13 3 = 0 ∧ fld w 19 7 = 72 then .mfirst (bits w 16 3) (bits w 7 6)
  else .unallocatedEncoding w

/-- The rows of major 0x15 (01 R22). -/
noncomputable def decodeMajor15 (w : W32) : Instr :=
  if fld w 0 26 = 0 then .nop
  else if fld w 0 26 = 1048576 then .exit
  else if fld w 20 6 = 2 then .trap (bits w 0 20)
  else if fld w 0 26 = 3145728 then .tret
  else if fld w 20 6 = 4 then .brk (bits w 0 20)
  else if fld w 10 4 = 0 ∧ fld w 20 6 = 5 then .sread (bits w 14 6) (bits w 0 10)
  else if fld w 10 4 = 0 ∧ fld w 20 6 = 6 then .swrite (bits w 14 6) (bits w 0 10)
  else if fld w 0 26 = 7340032 then .tmask
  else if fld w 0 26 = 8388608 then .tunmask
  else if fld w 0 26 = 9437184 then .yield
  else if fld w 0 14 = 0 ∧ fld w 20 6 = 10 then .sleep (bits w 14 6)
  else .unallocatedEncoding w

/-- The rows of major 0x18 (01 R22). -/
noncomputable def decodeMajor18 (w : W32) : Instr :=
  if fld w 22 4 = 0 then .vadd (bits w 15 7) (bits w 8 7) (bits w 1 7) (bits w 0 1)
  else if fld w 22 4 = 1 then .vsub (bits w 15 7) (bits w 8 7) (bits w 1 7) (bits w 0 1)
  else if fld w 22 4 = 2 then .vmul (bits w 15 7) (bits w 8 7) (bits w 1 7) (bits w 0 1)
  else if fld w 22 4 = 3 then .vmulh (bits w 15 7) (bits w 8 7) (bits w 1 7) (bits w 0 1)
  else if fld w 22 4 = 4 then .vmulhn (bits w 15 7) (bits w 8 7) (bits w 1 7) (bits w 0 1)
  else if fld w 22 4 = 5 then .vmin (bits w 15 7) (bits w 8 7) (bits w 1 7) (bits w 0 1)
  else if fld w 22 4 = 6 then .vmax (bits w 15 7) (bits w 8 7) (bits w 1 7) (bits w 0 1)
  else if fld w 22 4 = 7 then .vminn (bits w 15 7) (bits w 8 7) (bits w 1 7) (bits w 0 1)
  else if fld w 22 4 = 8 then .vmaxn (bits w 15 7) (bits w 8 7) (bits w 1 7) (bits w 0 1)
  else if fld w 22 4 = 9 then .vand (bits w 15 7) (bits w 8 7) (bits w 1 7) (bits w 0 1)
  else if fld w 22 4 = 10 then .vor (bits w 15 7) (bits w 8 7) (bits w 1 7) (bits w 0 1)
  else if fld w 22 4 = 11 then .vxor (bits w 15 7) (bits w 8 7) (bits w 1 7) (bits w 0 1)
  else if fld w 22 4 = 12 then .vshl (bits w 15 7) (bits w 8 7) (bits w 1 7) (bits w 0 1)
  else if fld w 22 4 = 13 then .vshr (bits w 15 7) (bits w 8 7) (bits w 1 7) (bits w 0 1)
  else if fld w 22 4 = 14 then .vsar (bits w 15 7) (bits w 8 7) (bits w 1 7) (bits w 0 1)
  else if fld w 22 4 = 15 then .vabsd (bits w 15 7) (bits w 8 7) (bits w 1 7) (bits w 0 1)
  else .unallocatedEncoding w

/-- The rows of major 0x19 (01 R22). -/
noncomputable def decodeMajor19 (w : W32) : Instr :=
  if fld w 0 6 = 0 then .vcmp (bits w 23 3) (bits w 20 3) (bits w 13 7) (bits w 6 7)
  else .unallocatedEncoding w

/-- The rows of major 0x1A (01 R22). -/
noncomputable def decodeMajor1A (w : W32) : Instr :=
  if fld w 24 2 = 0 then .vmad (bits w 18 6) (bits w 12 6) (bits w 6 6) (bits w 0 6)
  else if fld w 24 2 = 1 then .vfsl (bits w 18 6) (bits w 12 6) (bits w 6 6) (bits w 0 6)
  else if fld w 24 2 = 2 then .vfsr (bits w 18 6) (bits w 12 6) (bits w 6 6) (bits w 0 6)
  else if fld w 24 2 = 3 then .vbsel (bits w 18 6) (bits w 12 6) (bits w 6 6) (bits w 0 6)
  else .unallocatedEncoding w

/-- The rows of major 0x1B (01 R22). -/
noncomputable def decodeMajor1B (w : W32) : Instr :=
  if fld w 24 2 = 0 then .vfma (bits w 18 6) (bits w 12 6) (bits w 6 6) (bits w 0 6)
  else if fld w 24 2 = 1 then .vfms (bits w 18 6) (bits w 12 6) (bits w 6 6) (bits w 0 6)
  else if fld w 24 2 = 2 then .vfnma (bits w 18 6) (bits w 12 6) (bits w 6 6) (bits w 0 6)
  else .unallocatedEncoding w

/-- The rows of major 0x1C (01 R22). -/
noncomputable def decodeMajor1C (w : W32) : Instr :=
  if fld w 22 4 = 0 then .vaddi (bits w 15 7) (bits w 8 7) (bits w 0 8)
  else if fld w 22 4 = 1 then .vandi (bits w 15 7) (bits w 8 7) (bits w 0 8)
  else if fld w 22 4 = 2 then .vori (bits w 15 7) (bits w 8 7) (bits w 0 8)
  else if fld w 22 4 = 3 then .vxori (bits w 15 7) (bits w 8 7) (bits w 0 8)
  else if fld w 22 4 = 4 then .vshli (bits w 15 7) (bits w 8 7) (bits w 0 8)
  else if fld w 22 4 = 5 then .vshri (bits w 15 7) (bits w 8 7) (bits w 0 8)
  else if fld w 22 4 = 6 then .vsari (bits w 15 7) (bits w 8 7) (bits w 0 8)
  else if fld w 8 7 = 0 ∧ fld w 22 4 = 7 then .vmovi (bits w 15 7) (bits w 0 8)
  else .unallocatedEncoding w

/-- The rows of major 0x1D (01 R22). -/
noncomputable def decodeMajor1D (w : W32) : Instr :=
  if fld w 8 7 = 0 ∧ fld w 22 4 = 0 then .vbcast (bits w 15 7) (bits w 2 6) (bits w 0 2)
  else if fld w 22 4 = 1 then .vadds (bits w 15 7) (bits w 8 7) (bits w 2 6) (bits w 0 2)
  else if fld w 22 4 = 2 then .vmuls (bits w 15 7) (bits w 8 7) (bits w 2 6) (bits w 0 2)
  else if fld w 22 4 = 3 then .vmulhns (bits w 15 7) (bits w 8 7) (bits w 2 6) (bits w 0 2)
  else if fld w 22 4 = 4 then .vshls (bits w 15 7) (bits w 8 7) (bits w 2 6) (bits w 0 2)
  else if fld w 22 4 = 5 then .vshrs (bits w 15 7) (bits w 8 7) (bits w 2 6) (bits w 0 2)
  else if fld w 8 7 = 0 ∧ fld w 22 4 = 6 then .vlaneid (bits w 15 7) (bits w 2 6) (bits w 0 2)
  else .unallocatedEncoding w

/-- The rows of major 0x1E (01 R22). -/
noncomputable def decodeMajor1E (w : W32) : Instr :=
  if fld w 22 4 = 0 then .vxch (bits w 15 7) (bits w 8 7) (bits w 0 8)
  else if fld w 5 3 = 0 ∧ fld w 22 4 = 1 then .vrot (bits w 15 7) (bits w 8 7) (bits w 0 5)
  else if fld w 22 4 = 2 then .vperm (bits w 15 7) (bits w 8 7) (bits w 1 7) (bits w 0 1)
  else if fld w 21 5 = 6 then .vextl (bits w 15 6) (bits w 8 7) (bits w 0 8)
  else if fld w 13 2 = 0 ∧ fld w 22 4 = 4 then .vinsl (bits w 15 7) (bits w 8 5) (bits w 2 6) (bits w 0 2)
  else .unallocatedEncoding w

/-- The rows of major 0x1F (01 R22). -/
noncomputable def decodeMajor1F (w : W32) : Instr :=
  if fld w 0 8 = 0 ∧ fld w 21 5 = 0 then .vradd (bits w 15 6) (bits w 8 7)
  else if fld w 0 8 = 0 ∧ fld w 21 5 = 2 then .vrmax (bits w 15 6) (bits w 8 7)
  else if fld w 0 8 = 0 ∧ fld w 21 5 = 4 then .vrmin (bits w 15 6) (bits w 8 7)
  else if fld w 0 8 = 0 ∧ fld w 21 5 = 6 then .vrmaxn (bits w 15 6) (bits w 8 7)
  else if fld w 0 8 = 0 ∧ fld w 21 5 = 8 then .vrfadd (bits w 15 6) (bits w 8 7)
  else if fld w 0 8 = 0 ∧ fld w 21 5 = 10 then .vrfmax (bits w 15 6) (bits w 8 7)
  else if fld w 22 4 = 8 then .vgadd (bits w 15 7) (bits w 8 7) (bits w 0 8)
  else if fld w 22 4 = 9 then .vgmax (bits w 15 7) (bits w 8 7) (bits w 0 8)
  else if fld w 22 4 = 10 then .vgmaxn (bits w 15 7) (bits w 8 7) (bits w 0 8)
  else if fld w 22 4 = 11 then .vgor (bits w 15 7) (bits w 8 7) (bits w 0 8)
  else if fld w 22 4 = 12 then .vscan (bits w 15 7) (bits w 8 7) (bits w 0 8)
  else .unallocatedEncoding w

/-- The rows of major 0x20 (01 R22). -/
noncomputable def decodeMajor20 (w : W32) : Instr :=
  if fld w 22 4 = 0 then .vfadd (bits w 15 7) (bits w 8 7) (bits w 1 7) (bits w 0 1)
  else if fld w 22 4 = 1 then .vfsub (bits w 15 7) (bits w 8 7) (bits w 1 7) (bits w 0 1)
  else if fld w 22 4 = 2 then .vfmul (bits w 15 7) (bits w 8 7) (bits w 1 7) (bits w 0 1)
  else if fld w 22 4 = 3 then .vfmin (bits w 15 7) (bits w 8 7) (bits w 1 7) (bits w 0 1)
  else if fld w 22 4 = 4 then .vfmax (bits w 15 7) (bits w 8 7) (bits w 1 7) (bits w 0 1)
  else if fld w 1 7 = 0 ∧ fld w 22 4 = 5 then .vfabs (bits w 15 7) (bits w 8 7) (bits w 0 1)
  else if fld w 1 7 = 0 ∧ fld w 22 4 = 6 then .vfneg (bits w 15 7) (bits w 8 7) (bits w 0 1)
  else if fld w 1 7 = 0 ∧ fld w 22 4 = 7 then .vfrcp (bits w 15 7) (bits w 8 7) (bits w 0 1)
  else if fld w 1 7 = 0 ∧ fld w 22 4 = 8 then .vfrsq (bits w 15 7) (bits w 8 7) (bits w 0 1)
  else if fld w 1 7 = 0 ∧ fld w 22 4 = 9 then .vfsqrt (bits w 15 7) (bits w 8 7) (bits w 0 1)
  else if fld w 1 7 = 0 ∧ fld w 22 4 = 10 then .vfexp2 (bits w 15 7) (bits w 8 7) (bits w 0 1)
  else if fld w 1 7 = 0 ∧ fld w 22 4 = 11 then .vflog2 (bits w 15 7) (bits w 8 7) (bits w 0 1)
  else if fld w 1 7 = 0 ∧ fld w 22 4 = 12 then .vfsin (bits w 15 7) (bits w 8 7) (bits w 0 1)
  else if fld w 1 7 = 0 ∧ fld w 22 4 = 13 then .vfcos (bits w 15 7) (bits w 8 7) (bits w 0 1)
  else if fld w 22 4 = 14 then .vfscale (bits w 15 7) (bits w 8 7) (bits w 1 7) (bits w 0 1)
  else if fld w 1 7 = 0 ∧ fld w 22 4 = 15 then .vfclass (bits w 15 7) (bits w 8 7) (bits w 0 1)
  else .unallocatedEncoding w

/-- The rows of major 0x21 (01 R22). -/
noncomputable def decodeMajor21 (w : W32) : Instr :=
  if fld w 0 6 = 0 then .vfcmp (bits w 23 3) (bits w 20 3) (bits w 13 7) (bits w 6 7)
  else .unallocatedEncoding w

/-- The rows of major 0x22 (01 R22). -/
noncomputable def decodeMajor22 (w : W32) : Instr :=
  if fld w 0 1 = 0 ∧ fld w 4 3 = 0 ∧ fld w 21 5 = 0 then .vcvtF32I32 (bits w 14 7) (bits w 7 7) (bits w 1 3)
  else if fld w 0 1 = 0 ∧ fld w 4 3 = 0 ∧ fld w 21 5 = 1 then .vcvtI32F32 (bits w 14 7) (bits w 7 7) (bits w 1 3)
  else if fld w 0 1 = 0 ∧ fld w 4 3 = 0 ∧ fld w 21 5 = 2 then .vcvtF32N32 (bits w 14 7) (bits w 7 7) (bits w 1 3)
  else if fld w 0 1 = 0 ∧ fld w 4 3 = 0 ∧ fld w 21 5 = 3 then .vcvtN32F32 (bits w 14 7) (bits w 7 7) (bits w 1 3)
  else if fld w 0 1 = 0 ∧ fld w 4 3 = 0 ∧ fld w 21 5 = 4 then .vcvtBf16F32 (bits w 14 7) (bits w 7 7) (bits w 1 3)
  else if fld w 0 4 = 0 ∧ fld w 5 2 = 0 ∧ fld w 21 5 = 5 then .vcvtF32Bf16 (bits w 14 7) (bits w 7 7) (bits w 4 1)
  else if fld w 0 1 = 0 ∧ fld w 4 3 = 0 ∧ fld w 21 5 = 6 then .vcvtF16F32 (bits w 14 7) (bits w 7 7) (bits w 1 3)
  else if fld w 0 4 = 0 ∧ fld w 5 2 = 0 ∧ fld w 21 5 = 7 then .vcvtF32F16 (bits w 14 7) (bits w 7 7) (bits w 4 1)
  else if fld w 0 1 = 0 ∧ fld w 21 5 = 8 then .vcvtNfF32 (bits w 14 7) (bits w 7 7) (bits w 4 3) (bits w 1 3)
  else if fld w 0 1 = 0 ∧ fld w 21 5 = 9 then .vcvtF32Nf (bits w 14 7) (bits w 7 7) (bits w 4 3) (bits w 1 3)
  else if fld w 0 1 = 0 ∧ fld w 4 3 = 0 ∧ fld w 21 5 = 10 then .vcvtRint (bits w 14 7) (bits w 7 7) (bits w 1 3)
  else .unallocatedEncoding w

/-- The rows of major 0x24 (01 R22). -/
noncomputable def decodeMajor24 (w : W32) : Instr :=
  if fld w 23 2 = 0 then .vldIndexed (bits w 25 1) (bits w 16 7) (bits w 10 6) (bits w 3 7) (bits w 0 3)
  else if fld w 3 7 = 0 ∧ fld w 23 2 = 1 then .vldUnit (bits w 25 1) (bits w 16 7) (bits w 10 6) (bits w 0 3)
  else if fld w 3 7 = 0 ∧ fld w 23 2 = 2 then .vldBroadcast (bits w 25 1) (bits w 16 7) (bits w 10 6) (bits w 0 3)
  else .unallocatedEncoding w

/-- The rows of major 0x25 (01 R22). -/
noncomputable def decodeMajor25 (w : W32) : Instr :=
  if fld w 23 2 = 0 then .vstIndexed (bits w 25 1) (bits w 16 7) (bits w 10 6) (bits w 3 7) (bits w 0 3)
  else if fld w 3 7 = 0 ∧ fld w 23 2 = 1 then .vstUnit (bits w 25 1) (bits w 16 7) (bits w 10 6) (bits w 0 3)
  else if fld w 3 7 = 0 ∧ fld w 23 3 = 2 then .vstnt (bits w 16 7) (bits w 10 6) (bits w 0 3)
  else if fld w 0 3 = 4 ∧ fld w 23 2 = 3 then .vstbm (bits w 25 1) (bits w 16 7) (bits w 10 6) (bits w 3 7)
  else .unallocatedEncoding w

/-- The rows of major 0x26 (01 R22). -/
noncomputable def decodeMajor26 (w : W32) : Instr :=
  if fld w 23 3 = 0 then .vatmAdd (bits w 17 6) (bits w 11 6) (bits w 5 6) (bits w 2 3) (bits w 0 2)
  else if fld w 23 3 = 1 then .vatmMin (bits w 17 6) (bits w 11 6) (bits w 5 6) (bits w 2 3) (bits w 0 2)
  else if fld w 23 3 = 2 then .vatmMax (bits w 17 6) (bits w 11 6) (bits w 5 6) (bits w 2 3) (bits w 0 2)
  else if fld w 23 3 = 3 then .vatmMinn (bits w 17 6) (bits w 11 6) (bits w 5 6) (bits w 2 3) (bits w 0 2)
  else if fld w 23 3 = 4 then .vatmMaxn (bits w 17 6) (bits w 11 6) (bits w 5 6) (bits w 2 3) (bits w 0 2)
  else if fld w 23 3 = 5 then .vatmXchg (bits w 17 6) (bits w 11 6) (bits w 5 6) (bits w 2 3) (bits w 0 2)
  else if fld w 23 3 = 6 then .vatmCas (bits w 17 6) (bits w 11 6) (bits w 5 6) (bits w 2 3) (bits w 0 2)
  else if fld w 23 3 = 7 then .vatmFadd (bits w 17 6) (bits w 11 6) (bits w 5 6) (bits w 2 3) (bits w 0 2)
  else .unallocatedEncoding w

/-- The rows of major 0x27 (01 R22). -/
noncomputable def decodeMajor27 (w : W32) : Instr :=
  if fld w 23 3 = 0 then .vatmAnd (bits w 17 6) (bits w 11 6) (bits w 5 6) (bits w 2 3) (bits w 0 2)
  else if fld w 23 3 = 1 then .vatmOr (bits w 17 6) (bits w 11 6) (bits w 5 6) (bits w 2 3) (bits w 0 2)
  else if fld w 23 3 = 2 then .vatmXor (bits w 17 6) (bits w 11 6) (bits w 5 6) (bits w 2 3) (bits w 0 2)
  else if fld w 23 3 = 3 then .vatmIncw (bits w 17 6) (bits w 11 6) (bits w 5 6) (bits w 2 3) (bits w 0 2)
  else if fld w 23 3 = 4 then .vatmDecw (bits w 17 6) (bits w 11 6) (bits w 5 6) (bits w 2 3) (bits w 0 2)
  else .unallocatedEncoding w

/-- The rows of major 0x28 (01 R22). -/
noncomputable def decodeMajor28 (w : W32) : Instr :=
  if fld w 23 3 = 0 then .satmAdd (bits w 17 6) (bits w 11 6) (bits w 5 6) (bits w 2 3) (bits w 0 2)
  else if fld w 23 3 = 1 then .satmMin (bits w 17 6) (bits w 11 6) (bits w 5 6) (bits w 2 3) (bits w 0 2)
  else if fld w 23 3 = 2 then .satmMax (bits w 17 6) (bits w 11 6) (bits w 5 6) (bits w 2 3) (bits w 0 2)
  else if fld w 23 3 = 3 then .satmXchg (bits w 17 6) (bits w 11 6) (bits w 5 6) (bits w 2 3) (bits w 0 2)
  else if fld w 23 3 = 4 then .satmCas (bits w 17 6) (bits w 11 6) (bits w 5 6) (bits w 2 3) (bits w 0 2)
  else if fld w 23 3 = 5 then .satmAnd (bits w 17 6) (bits w 11 6) (bits w 5 6) (bits w 2 3) (bits w 0 2)
  else if fld w 23 3 = 6 then .satmOr (bits w 17 6) (bits w 11 6) (bits w 5 6) (bits w 2 3) (bits w 0 2)
  else if fld w 23 3 = 7 then .satmXor (bits w 17 6) (bits w 11 6) (bits w 5 6) (bits w 2 3) (bits w 0 2)
  else .unallocatedEncoding w

/-- The rows of major 0x29 (01 R22). -/
noncomputable def decodeMajor29 (w : W32) : Instr :=
  if fld w 0 17 = 0 ∧ fld w 20 6 = 0 then .pub (bits w 17 3)
  else if fld w 0 17 = 0 ∧ fld w 20 6 = 1 then .acq (bits w 17 3)
  else if fld w 0 17 = 0 ∧ fld w 20 6 = 2 then .pubacq (bits w 17 3)
  else if fld w 0 17 = 0 ∧ fld w 20 6 = 3 then .drain (bits w 17 3)
  else if fld w 0 11 = 0 ∧ fld w 20 6 = 4 then .clean (bits w 17 3) (bits w 11 6)
  else if fld w 0 11 = 0 ∧ fld w 20 6 = 5 then .inval (bits w 17 3) (bits w 11 6)
  else .unallocatedEncoding w

/-- The rows of major 0x30 (01 R22). -/
noncomputable def decodeMajor30 (w : W32) : Instr :=
  if fld w 0 2 = 0 ∧ fld w 23 3 = 0 then .mma (bits w 20 3) (bits w 13 7) (bits w 9 4) (bits w 5 4) (bits w 4 1) (bits w 3 1) (bits w 2 1)
  else if fld w 0 2 = 0 ∧ fld w 23 3 = 1 then .mmac (bits w 20 3) (bits w 13 7) (bits w 9 4) (bits w 5 4) (bits w 4 1) (bits w 3 1) (bits w 2 1)
  else .unallocatedEncoding w

/-- The rows of major 0x31 (01 R22). -/
noncomputable def decodeMajor31 (w : W32) : Instr :=
  if fld w 22 4 = 0 then .aread (bits w 15 7) (bits w 12 3) (bits w 8 4) (bits w 6 2) (bits w 0 6)
  else if fld w 0 6 = 0 ∧ fld w 22 4 = 1 then .areadRaw (bits w 15 7) (bits w 12 3) (bits w 8 4) (bits w 6 2)
  else if fld w 0 12 = 0 ∧ fld w 15 11 = 256 then .azero (bits w 12 3)
  else if fld w 6 6 = 0 ∧ fld w 15 11 = 384 then .aanchor (bits w 12 3) (bits w 0 6)
  else if fld w 6 6 = 0 ∧ fld w 15 11 = 512 then .arange (bits w 12 3) (bits w 0 6)
  else if fld w 0 12 = 0 ∧ fld w 21 5 = 10 then .astat (bits w 15 6) (bits w 12 3)
  else .unallocatedEncoding w

/-- The rows of major 0x32 (01 R22). -/
noncomputable def decodeMajor32 (w : W32) : Instr :=
  if fld w 0 14 = 0 ∧ fld w 22 4 = 0 then .seal (bits w 16 6) (bits w 14 2)
  else if fld w 0 10 = 0 ∧ fld w 16 10 = 64 then .waitb (bits w 14 2) (bits w 10 4)
  else if fld w 0 14 = 0 ∧ fld w 22 4 = 2 then .testb (bits w 16 6) (bits w 14 2)
  else .unallocatedEncoding w

/-- The rows of major 0x33 (01 R22). -/
noncomputable def decodeMajor33 (w : W32) : Instr :=
  if fld w 0 16 = 0 ∧ fld w 22 4 = 0 then .gangset (bits w 16 6)
  else if fld w 0 26 = 4194304 then .gangclr
  else .unallocatedEncoding w

/-- The rows of major 0x34 (01 R22). -/
noncomputable def decodeMajor34 (w : W32) : Instr :=
  if fld w 24 2 = 0 then .cpg (bits w 18 6) (bits w 12 6) (bits w 6 6) (bits w 0 6)
  else if fld w 24 2 = 1 then .cps (bits w 18 6) (bits w 12 6) (bits w 6 6) (bits w 0 6)
  else if fld w 24 2 = 2 then .cpm (bits w 18 6) (bits w 12 6) (bits w 6 6) (bits w 0 6)
  else if fld w 24 2 = 3 then .cpx (bits w 18 6) (bits w 12 6) (bits w 6 6) (bits w 0 6)
  else .unallocatedEncoding w

/-- The rows of major 0x35 (01 R22). -/
noncomputable def decodeMajor35 (w : W32) : Instr :=
  if fld w 0 12 = 0 ∧ fld w 22 4 = 0 then .tinit (bits w 18 4) (bits w 12 6)
  else if fld w 0 18 = 0 ∧ fld w 22 4 = 1 then .twait (bits w 18 4)
  else if fld w 0 18 = 0 ∧ fld w 22 4 = 2 then .tpop (bits w 18 4)
  else if fld w 0 12 = 0 ∧ fld w 22 4 = 3 then .tfilled (bits w 18 4) (bits w 12 6)
  else if fld w 0 18 = 0 ∧ fld w 22 4 = 4 then .tcommit (bits w 18 4)
  else .unallocatedEncoding w

/-- The rows of major 0x36 (01 R22). -/
noncomputable def decodeMajor36 (w : W32) : Instr :=
  if fld w 0 6 = 0 ∧ fld w 18 8 = 0 then .barinit (bits w 12 6) (bits w 6 6)
  else if fld w 0 12 = 0 ∧ fld w 18 8 = 16 then .bararr (bits w 12 6)
  else if fld w 0 6 = 0 ∧ fld w 18 8 = 32 then .barwait (bits w 12 6) (bits w 6 6)
  else if fld w 0 6 = 0 ∧ fld w 18 8 = 48 then .barexp (bits w 12 6) (bits w 6 6)
  else if fld w 0 18 = 0 ∧ fld w 22 4 = 4 then .barsync (bits w 18 4)
  else if fld w 0 26 = 20971520 then .cbarsync
  else .unallocatedEncoding w

/-- The rows of major 0x37 (01 R22). -/
noncomputable def decodeMajor37 (w : W32) : Instr :=
  if fld w 0 10 = 0 ∧ fld w 22 4 = 0 then .chbind (bits w 16 6) (bits w 10 6)
  else if fld w 0 16 = 0 ∧ fld w 22 4 = 1 then .chclose (bits w 16 6)
  else if fld w 0 10 = 0 ∧ fld w 22 4 = 2 then .chlen (bits w 16 6) (bits w 10 6)
  else .unallocatedEncoding w

/-- The rows of major 0x38 (01 R22). -/
noncomputable def decodeMajor38 (w : W32) : Instr :=
  if fld w 0 4 = 0 ∧ fld w 22 4 = 0 then .offerTake (bits w 16 6) (bits w 10 6) (bits w 4 6)
  else if fld w 0 4 = 1 ∧ fld w 22 4 = 0 then .offerSpawn (bits w 16 6) (bits w 10 6) (bits w 4 6)
  else if fld w 0 4 = 0 ∧ fld w 22 4 = 1 then .withdraw (bits w 16 6) (bits w 10 6) (bits w 4 6)
  else if fld w 22 4 = 2 then .sow (bits w 16 6) (bits w 10 6) (bits w 4 6) (bits w 1 3) (bits w 0 1)
  else if fld w 0 1 = 0 ∧ fld w 4 6 = 0 ∧ fld w 22 4 = 3 then .take (bits w 16 6) (bits w 10 6) (bits w 1 3)
  else if fld w 0 10 = 0 ∧ fld w 22 4 = 4 then .bedcfg (bits w 16 6) (bits w 10 6)
  else .unallocatedEncoding w

/-- The rows of major 0x39 (01 R22). -/
noncomputable def decodeMajor39 (w : W32) : Instr :=
  if fld w 0 12 = 0 ∧ fld w 22 4 = 0 then .emit (bits w 18 4) (bits w 12 6)
  else if fld w 0 6 = 0 ∧ fld w 18 8 = 16 then .spawn (bits w 12 6) (bits w 6 6)
  else if fld w 0 18 = 0 ∧ fld w 22 4 = 2 then .tdone (bits w 18 4)
  else .unallocatedEncoding w

/-- The rows of major 0x3A (01 R22). -/
noncomputable def decodeMajor3A (w : W32) : Instr :=
  if fld w 0 4 = 0 ∧ fld w 22 4 = 0 then .gload (bits w 16 6) (bits w 10 6) (bits w 4 6)
  else if fld w 0 4 = 0 ∧ fld w 22 4 = 1 then .gbind (bits w 16 6) (bits w 10 6) (bits w 4 6)
  else if fld w 0 4 = 0 ∧ fld w 22 4 = 2 then .gunbind (bits w 16 6) (bits w 10 6) (bits w 4 6)
  else if fld w 0 4 = 0 ∧ fld w 22 4 = 3 then .gconv (bits w 16 6) (bits w 10 6) (bits w 4 6)
  else if fld w 0 4 = 0 ∧ fld w 22 4 = 4 then .gstat (bits w 16 6) (bits w 10 6) (bits w 4 6)
  else .unallocatedEncoding w

/-- The rows of major 0x3B (01 R22). -/
noncomputable def decodeMajor3B (w : W32) : Instr :=
  if fld w 0 4 = 0 ∧ fld w 16 3 = 0 ∧ fld w 22 4 = 0 then .tlbinv (bits w 19 3) (bits w 10 6) (bits w 4 6)
  else if fld w 0 4 = 0 ∧ fld w 16 10 = 64 then .evict (bits w 10 6) (bits w 4 6)
  else if fld w 0 4 = 0 ∧ fld w 16 10 = 128 then .resume (bits w 10 6) (bits w 4 6)
  else if fld w 0 4 = 0 ∧ fld w 16 10 = 192 then .pmcfg (bits w 10 6) (bits w 4 6)
  else .unallocatedEncoding w

/-- The rows of major 0x3F (01 R22). -/
noncomputable def decodeMajor3F (w : W32) : Instr :=
  if fld w 21 5 = 0 then .hintStall (bits w 18 3) (bits w 15 3) (bits w 12 3) (bits w 9 3) (bits w 6 3) (bits w 3 3) (bits w 0 3)
  else if fld w 22 4 = 1 then .hintXimm (bits w 0 22)
  else if fld w 8 18 = 32768 then .hintMem (bits w 7 1) (bits w 6 1) (bits w 0 6)
  else if fld w 4 22 = 786432 then .hintMod (bits w 3 1) (bits w 0 3)
  else if fld w 0 26 = 16777216 then .hintSpin
  else if fld w 0 16 = 0 ∧ fld w 22 4 = 5 then .hintPref (bits w 16 6)
  else .unallocatedEncoding w

/-- 01 R12, R22: the meaning of every 32-bit word of strand code; a reserved major, an unlisted fn or kind and a nonzero
zero-field are the unallocated encoding (R7, R32). -/
noncomputable def decode (w : W32) : Instr :=
  match fld w 26 6 with
  | 0 => decodeMajor00 w
  | 1 => decodeMajor01 w
  | 2 => decodeMajor02 w
  | 3 => decodeMajor03 w
  | 4 => decodeMajor04 w
  | 5 => decodeMajor05 w
  | 6 => decodeMajor06 w
  | 7 => decodeMajor07 w
  | 8 => decodeMajor08 w
  | 9 => decodeMajor09 w
  | 10 => decodeMajor0A w
  | 11 => decodeMajor0B w
  | 12 => decodeMajor0C w
  | 13 => decodeMajor0D w
  | 14 => decodeMajor0E w
  | 15 => decodeMajor0F w
  | 16 => decodeMajor10 w
  | 17 => decodeMajor11 w
  | 18 => decodeMajor12 w
  | 19 => decodeMajor13 w
  | 20 => decodeMajor14 w
  | 21 => decodeMajor15 w
  | 24 => decodeMajor18 w
  | 25 => decodeMajor19 w
  | 26 => decodeMajor1A w
  | 27 => decodeMajor1B w
  | 28 => decodeMajor1C w
  | 29 => decodeMajor1D w
  | 30 => decodeMajor1E w
  | 31 => decodeMajor1F w
  | 32 => decodeMajor20 w
  | 33 => decodeMajor21 w
  | 34 => decodeMajor22 w
  | 36 => decodeMajor24 w
  | 37 => decodeMajor25 w
  | 38 => decodeMajor26 w
  | 39 => decodeMajor27 w
  | 40 => decodeMajor28 w
  | 41 => decodeMajor29 w
  | 48 => decodeMajor30 w
  | 49 => decodeMajor31 w
  | 50 => decodeMajor32 w
  | 51 => decodeMajor33 w
  | 52 => decodeMajor34 w
  | 53 => decodeMajor35 w
  | 54 => decodeMajor36 w
  | 55 => decodeMajor37 w
  | 56 => decodeMajor38 w
  | 57 => decodeMajor39 w
  | 58 => decodeMajor3A w
  | 59 => decodeMajor3B w
  | 63 => decodeMajor3F w
  | _ => .unallocatedEncoding w

/-- 15 R265: a transducer word; `none` is the UNDEF of R264 (an undefined op, or a nonzero field that the op does not
use). -/
def xdDecode (w : W32) : Option Instr :=
  if fld w 0 23 = 0 ∧ fld w 27 5 = 1 then some (.xdGetb (bits w 23 4))
  else if fld w 15 8 = 0 ∧ fld w 27 5 = 2 then some (.xdPeekb (bits w 23 4) (bits w 0 15))
  else if fld w 0 19 = 0 ∧ fld w 23 9 = 48 then some (.xdPutb (bits w 19 4))
  else if fld w 0 15 = 0 ∧ fld w 23 9 = 64 then some (.xdPutn (bits w 19 4) (bits w 15 4))
  else if fld w 0 19 = 0 ∧ fld w 23 9 = 80 then some (.xdCpin (bits w 19 4))
  else if fld w 0 15 = 0 ∧ fld w 23 9 = 96 then some (.xdBack (bits w 19 4) (bits w 15 4))
  else if fld w 15 4 = 0 ∧ fld w 27 5 = 7 then some (.xdAddi (bits w 23 4) (bits w 19 4) (bits w 0 15))
  else if fld w 0 15 = 0 ∧ fld w 27 5 = 8 then some (.xdAdd (bits w 23 4) (bits w 19 4) (bits w 15 4))
  else if fld w 0 15 = 0 ∧ fld w 27 5 = 9 then some (.xdSub (bits w 23 4) (bits w 19 4) (bits w 15 4))
  else if fld w 0 15 = 0 ∧ fld w 27 5 = 10 then some (.xdAnd (bits w 23 4) (bits w 19 4) (bits w 15 4))
  else if fld w 0 15 = 0 ∧ fld w 27 5 = 11 then some (.xdOr (bits w 23 4) (bits w 19 4) (bits w 15 4))
  else if fld w 0 15 = 0 ∧ fld w 27 5 = 12 then some (.xdXor (bits w 23 4) (bits w 19 4) (bits w 15 4))
  else if fld w 0 15 = 0 ∧ fld w 27 5 = 13 then some (.xdShl (bits w 23 4) (bits w 19 4) (bits w 15 4))
  else if fld w 0 15 = 0 ∧ fld w 27 5 = 14 then some (.xdShr (bits w 23 4) (bits w 19 4) (bits w 15 4))
  else if fld w 0 19 = 0 ∧ fld w 27 5 = 15 then some (.xdTbl (bits w 23 4) (bits w 19 4))
  else if fld w 23 9 = 256 then some (.xdBeq (bits w 19 4) (bits w 15 4) (bits w 0 15))
  else if fld w 23 9 = 272 then some (.xdBne (bits w 19 4) (bits w 15 4) (bits w 0 15))
  else if fld w 23 9 = 288 then some (.xdBltn (bits w 19 4) (bits w 15 4) (bits w 0 15))
  else if fld w 15 17 = 77824 then some (.xdBeof (bits w 0 15))
  else if fld w 15 17 = 81920 then some (.xdJmp (bits w 0 15))
  else if fld w 0 23 = 0 ∧ fld w 27 5 = 21 then some (.xdLen (bits w 23 4))
  else if fld w 0 23 = 0 ∧ fld w 27 5 = 22 then some (.xdOpos (bits w 23 4))
  else if fld w 0 32 = 3087007744 then some (.xdHalt)
  else if fld w 15 17 = 98304 then some (.xdFail (bits w 0 15))
  else none

/-- Is this one of the words that a strand fetches (and not a transducer word or an event)? -/
def Instr.isWord (i : Instr) : Bool :=
  match i with
  | .ill .. | .add .. | .sub .. | .and .. | .or .. | .xor .. | .andn .. | .shl ..
  | .shr .. | .sar .. | .mul .. | .mulh .. | .mulhn .. | .min .. | .max .. | .minn ..
  | .maxn .. | .slt .. | .sltn .. | .seq .. | .sne .. | .div .. | .divn .. | .rem ..
  | .remn .. | .clz .. | .ctz .. | .popc .. | .bext .. | .bins .. | .addi .. | .andi ..
  | .ori .. | .xori .. | .shli .. | .shri .. | .sari .. | .rotri .. | .slti .. | .sltni ..
  | .li .. | .addpc .. | .sld .. | .sst .. | .br .. | .brr .. | .j .. | .call ..
  | .jr .. | .callr .. | .ret | .mif .. | .melse .. | .mend | .mpush .. | .mlimit ..
  | .mpop | .bany .. | .ball .. | .bnone .. | .mand .. | .mor .. | .mxor .. | .mandn ..
  | .mnot .. | .mmov .. | .mfrom .. | .mto .. | .mcount .. | .mfirst .. | .nop | .exit
  | .trap .. | .tret | .brk .. | .sread .. | .swrite .. | .tmask | .tunmask | .yield
  | .sleep .. | .vadd .. | .vsub .. | .vmul .. | .vmulh .. | .vmulhn .. | .vmin .. | .vmax ..
  | .vminn .. | .vmaxn .. | .vand .. | .vor .. | .vxor .. | .vshl .. | .vshr .. | .vsar ..
  | .vabsd .. | .vcmp .. | .vmad .. | .vfsl .. | .vfsr .. | .vbsel .. | .vfma .. | .vfms ..
  | .vfnma .. | .vaddi .. | .vandi .. | .vori .. | .vxori .. | .vshli .. | .vshri .. | .vsari ..
  | .vmovi .. | .vbcast .. | .vadds .. | .vmuls .. | .vmulhns .. | .vshls .. | .vshrs .. | .vlaneid ..
  | .vxch .. | .vrot .. | .vperm .. | .vextl .. | .vinsl .. | .vradd .. | .vrmax .. | .vrmin ..
  | .vrmaxn .. | .vrfadd .. | .vrfmax .. | .vgadd .. | .vgmax .. | .vgmaxn .. | .vgor .. | .vscan ..
  | .vfadd .. | .vfsub .. | .vfmul .. | .vfmin .. | .vfmax .. | .vfabs .. | .vfneg .. | .vfrcp ..
  | .vfrsq .. | .vfsqrt .. | .vfexp2 .. | .vflog2 .. | .vfsin .. | .vfcos .. | .vfscale .. | .vfclass ..
  | .vfcmp .. | .vcvtF32I32 .. | .vcvtI32F32 .. | .vcvtF32N32 .. | .vcvtN32F32 .. | .vcvtBf16F32 .. | .vcvtF32Bf16 .. | .vcvtF16F32 ..
  | .vcvtF32F16 .. | .vcvtNfF32 .. | .vcvtF32Nf .. | .vcvtRint .. | .vldIndexed .. | .vldUnit .. | .vldBroadcast .. | .vstIndexed ..
  | .vstUnit .. | .vstnt .. | .vstbm .. | .vatmAdd .. | .vatmMin .. | .vatmMax .. | .vatmMinn .. | .vatmMaxn ..
  | .vatmXchg .. | .vatmCas .. | .vatmFadd .. | .vatmAnd .. | .vatmOr .. | .vatmXor .. | .vatmIncw .. | .vatmDecw ..
  | .satmAdd .. | .satmMin .. | .satmMax .. | .satmXchg .. | .satmCas .. | .satmAnd .. | .satmOr .. | .satmXor ..
  | .pub .. | .acq .. | .pubacq .. | .drain .. | .clean .. | .inval .. | .mma .. | .mmac ..
  | .aread .. | .areadRaw .. | .azero .. | .aanchor .. | .arange .. | .astat .. | .seal .. | .waitb ..
  | .testb .. | .gangset .. | .gangclr | .cpg .. | .cps .. | .cpm .. | .cpx .. | .tinit ..
  | .twait .. | .tpop .. | .tfilled .. | .tcommit .. | .barinit .. | .bararr .. | .barwait .. | .barexp ..
  | .barsync .. | .cbarsync | .chbind .. | .chclose .. | .chlen .. | .offerTake .. | .offerSpawn .. | .withdraw ..
  | .sow .. | .take .. | .bedcfg .. | .emit .. | .spawn .. | .tdone .. | .gload .. | .gbind ..
  | .gunbind .. | .gconv .. | .gstat .. | .tlbinv .. | .evict .. | .resume .. | .pmcfg .. | .hintStall ..
  | .hintXimm .. | .hintMem .. | .hintMod .. | .hintSpin | .hintPref .. | .unallocatedEncoding .. => true
  | .xdGetb .. | .xdPeekb .. | .xdPutb .. | .xdPutn .. | .xdCpin .. | .xdBack .. | .xdAddi .. | .xdAdd ..
  | .xdSub .. | .xdAnd .. | .xdOr .. | .xdXor .. | .xdShl .. | .xdShr .. | .xdTbl .. | .xdBeq ..
  | .xdBne .. | .xdBltn .. | .xdBeof .. | .xdJmp .. | .xdLen .. | .xdOpos .. | .xdHalt | .xdFail ..
  | .qpageRead .. | .qpageWrite .. | .qfaultRead .. | .qeventWrite .. | .qeventRead .. | .qmgmtRead .. | .qmgmtWrite .. | .fetchLineFill ..
  | .memoryReply .. | .atomicReply .. | .storeAcknowledge .. | .pageRequest .. | .translationWalk .. | .sleepTimeout .. | .yieldEnd .. | .maskStackRefill ..
  | .pcMatch .. | .trayReserve .. | .copyChunkLand .. | .copyComplete .. | .gangRendezvous .. | .matrixOpStart .. | .matrixSlotStream .. | .partialArrival ..
  | .columnDrain .. | .matrixOpComplete .. | .blockBarrierTimeout .. | .clusterBarrierTimeout .. | .faultRecordPush .. | .blockComplete .. | .evictionRequest .. | .draining ..
  | .saving .. | .evicted .. | .restoring .. | .running .. | .maskoverrun .. | .peerLocalAccess .. | .spareSwap .. | .clusterReset ..
  | .reassemblyTimeout .. | .containmentHandshake .. | .drainAndRebuild .. | .issueResume .. | .sowAtNode .. | .readinessReport .. | .sowSend .. | .homeRead ..
  | .homeWrite .. | .atomicPerform .. | .dramReadComplete .. | .writeBackSequence .. | .transducerRun .. | .budget | .gconvBlock .. | .carveChange ..
  | .sliceSwap .. | .channelSwap .. | .channelCopyEnd .. | .rowRepair .. | .patrolScrub .. | .linkReplay .. | .linkAckTimeout .. | .linkRetrain ..
  | .fatalError .. | .workQueueMessage .. | .schedulerTake .. | .readyPoolSow .. | .flushTimeout .. | .nodeComplete .. | .completionRecord .. | .notification ..
  | .aging .. | .sliceEnd .. | .preEmption .. | .sample .. | .counterSnapshot .. | .debugStop .. | .debugContinue .. | .debugStep ..
  | .debugStateAccess .. | .windowWrite .. | .windowRead .. | .window .. | .ring .. | .notify .. | .debug .. | .attest ..
  | .vdcfg .. | .fabbed .. | .queue .. | .mailbox .. | .fabricReadinessReport .. | .peerUnreachable .. | .portLaneFailure .. | .portOutOfService ..
  | .powerOn | .coldReset | .firmwareImageTransfer .. | .powerSample .. | .throttleStep | .thermalSample .. | .alarmClear | .fatalClear
  | .linkRetrainComplete .. | .peerReachable .. | .bedRegistration .. | .clusterBackOnline .. => false

/-- A word from its fixed bits and its fields, each with the place of its lowest bit (01 R13). -/
def assemble (base : Nat) (fields : List (Nat × Nat)) : W32 :=
  BitVec.ofNat 32 (fields.foldl (fun acc f => acc + f.1 * 2 ^ f.2) base)

/-- The word of an instruction, from the same encoding tables; an event has no encoding and gives 0. -/
def encode (i : Instr) : W32 :=
  match i with
  | .ill x => assemble 0x00000000 [(x.toNat, 0)]
  | .add d a b w => assemble 0x04000000 [(d.toNat, 16), (a.toNat, 10), (b.toNat, 4), (w.toNat, 0)]
  | .sub d a b w => assemble 0x04400000 [(d.toNat, 16), (a.toNat, 10), (b.toNat, 4), (w.toNat, 0)]
  | .and d a b w => assemble 0x04800000 [(d.toNat, 16), (a.toNat, 10), (b.toNat, 4), (w.toNat, 0)]
  | .or d a b w => assemble 0x04C00000 [(d.toNat, 16), (a.toNat, 10), (b.toNat, 4), (w.toNat, 0)]
  | .xor d a b w => assemble 0x05000000 [(d.toNat, 16), (a.toNat, 10), (b.toNat, 4), (w.toNat, 0)]
  | .andn d a b w => assemble 0x05400000 [(d.toNat, 16), (a.toNat, 10), (b.toNat, 4), (w.toNat, 0)]
  | .shl d a b w => assemble 0x05800000 [(d.toNat, 16), (a.toNat, 10), (b.toNat, 4), (w.toNat, 0)]
  | .shr d a b w => assemble 0x05C00000 [(d.toNat, 16), (a.toNat, 10), (b.toNat, 4), (w.toNat, 0)]
  | .sar d a b w => assemble 0x06000000 [(d.toNat, 16), (a.toNat, 10), (b.toNat, 4), (w.toNat, 0)]
  | .mul d a b w => assemble 0x06400000 [(d.toNat, 16), (a.toNat, 10), (b.toNat, 4), (w.toNat, 0)]
  | .mulh d a b w => assemble 0x06800000 [(d.toNat, 16), (a.toNat, 10), (b.toNat, 4), (w.toNat, 0)]
  | .mulhn d a b w => assemble 0x06C00000 [(d.toNat, 16), (a.toNat, 10), (b.toNat, 4), (w.toNat, 0)]
  | .min d a b w => assemble 0x07000000 [(d.toNat, 16), (a.toNat, 10), (b.toNat, 4), (w.toNat, 0)]
  | .max d a b w => assemble 0x07400000 [(d.toNat, 16), (a.toNat, 10), (b.toNat, 4), (w.toNat, 0)]
  | .minn d a b w => assemble 0x07800000 [(d.toNat, 16), (a.toNat, 10), (b.toNat, 4), (w.toNat, 0)]
  | .maxn d a b w => assemble 0x07C00000 [(d.toNat, 16), (a.toNat, 10), (b.toNat, 4), (w.toNat, 0)]
  | .slt d a b w => assemble 0x08000000 [(d.toNat, 16), (a.toNat, 10), (b.toNat, 4), (w.toNat, 0)]
  | .sltn d a b w => assemble 0x08400000 [(d.toNat, 16), (a.toNat, 10), (b.toNat, 4), (w.toNat, 0)]
  | .seq d a b w => assemble 0x08800000 [(d.toNat, 16), (a.toNat, 10), (b.toNat, 4), (w.toNat, 0)]
  | .sne d a b w => assemble 0x08C00000 [(d.toNat, 16), (a.toNat, 10), (b.toNat, 4), (w.toNat, 0)]
  | .div d a b w => assemble 0x09000000 [(d.toNat, 16), (a.toNat, 10), (b.toNat, 4), (w.toNat, 0)]
  | .divn d a b w => assemble 0x09400000 [(d.toNat, 16), (a.toNat, 10), (b.toNat, 4), (w.toNat, 0)]
  | .rem d a b w => assemble 0x09800000 [(d.toNat, 16), (a.toNat, 10), (b.toNat, 4), (w.toNat, 0)]
  | .remn d a b w => assemble 0x09C00000 [(d.toNat, 16), (a.toNat, 10), (b.toNat, 4), (w.toNat, 0)]
  | .clz d a w => assemble 0x0A000000 [(d.toNat, 16), (a.toNat, 10), (w.toNat, 0)]
  | .ctz d a w => assemble 0x0A400000 [(d.toNat, 16), (a.toNat, 10), (w.toNat, 0)]
  | .popc d a w => assemble 0x0A800000 [(d.toNat, 16), (a.toNat, 10), (w.toNat, 0)]
  | .bext d a b w => assemble 0x0AC00000 [(d.toNat, 16), (a.toNat, 10), (b.toNat, 4), (w.toNat, 0)]
  | .bins d a b w => assemble 0x0B000000 [(d.toNat, 16), (a.toNat, 10), (b.toNat, 4), (w.toNat, 0)]
  | .addi d a i => assemble 0x0C000000 [(d.toNat, 20), (a.toNat, 14), (i.toNat, 0)]
  | .andi d a i => assemble 0x10000000 [(d.toNat, 20), (a.toNat, 14), (i.toNat, 0)]
  | .ori d a i => assemble 0x14000000 [(d.toNat, 20), (a.toNat, 14), (i.toNat, 0)]
  | .xori d a i => assemble 0x18000000 [(d.toNat, 20), (a.toNat, 14), (i.toNat, 0)]
  | .shli d a w n => assemble 0x1C000000 [(d.toNat, 20), (a.toNat, 14), (w.toNat, 6), (n.toNat, 0)]
  | .shri d a w n => assemble 0x1C001000 [(d.toNat, 20), (a.toNat, 14), (w.toNat, 6), (n.toNat, 0)]
  | .sari d a w n => assemble 0x1C002000 [(d.toNat, 20), (a.toNat, 14), (w.toNat, 6), (n.toNat, 0)]
  | .rotri d a w n => assemble 0x1C003000 [(d.toNat, 20), (a.toNat, 14), (w.toNat, 6), (n.toNat, 0)]
  | .slti d a i => assemble 0x20000000 [(d.toNat, 20), (a.toNat, 14), (i.toNat, 0)]
  | .sltni d a i => assemble 0x24000000 [(d.toNat, 20), (a.toNat, 14), (i.toNat, 0)]
  | .li d i => assemble 0x28000000 [(d.toNat, 20), (i.toNat, 0)]
  | .addpc d i => assemble 0x2C000000 [(d.toNat, 20), (i.toNat, 0)]
  | .sld p z d a i => assemble 0x30000000 [(p.toNat, 25), (z.toNat, 22), (d.toNat, 16), (a.toNat, 10), (i.toNat, 0)]
  | .sst p z d a i => assemble 0x34000000 [(p.toNat, 25), (z.toNat, 22), (d.toNat, 16), (a.toNat, 10), (i.toNat, 0)]
  | .br c a o => assemble 0x38000000 [(c.toNat, 22), (a.toNat, 16), (o.toNat, 0)]
  | .brr c a b o => assemble 0x3C000000 [(c.toNat, 22), (a.toNat, 16), (b.toNat, 10), (o.toNat, 0)]
  | .j o => assemble 0x40000000 [(o.toNat, 0)]
  | .call o => assemble 0x44000000 [(o.toNat, 0)]
  | .jr a => assemble 0x48000000 [(a.toNat, 10)]
  | .callr a => assemble 0x48400000 [(a.toNat, 10)]
  | .ret => assemble 0x48800400 []
  | .mif m o => assemble 0x4C000000 [(m.toNat, 19), (o.toNat, 0)]
  | .melse o => assemble 0x4C400000 [(o.toNat, 0)]
  | .mend => assemble 0x4C800000 []
  | .mpush o => assemble 0x4CC00000 [(o.toNat, 0)]
  | .mlimit m => assemble 0x4D000000 [(m.toNat, 19)]
  | .mpop => assemble 0x4D400000 []
  | .bany m o => assemble 0x4D800000 [(m.toNat, 19), (o.toNat, 0)]
  | .ball m o => assemble 0x4DC00000 [(m.toNat, 19), (o.toNat, 0)]
  | .bnone m o => assemble 0x4E000000 [(m.toNat, 19), (o.toNat, 0)]
  | .mand d a b => assemble 0x50000000 [(d.toNat, 19), (a.toNat, 16), (b.toNat, 13)]
  | .mor d a b => assemble 0x50400000 [(d.toNat, 19), (a.toNat, 16), (b.toNat, 13)]
  | .mxor d a b => assemble 0x50800000 [(d.toNat, 19), (a.toNat, 16), (b.toNat, 13)]
  | .mandn d a b => assemble 0x50C00000 [(d.toNat, 19), (a.toNat, 16), (b.toNat, 13)]
  | .mnot d a => assemble 0x51000000 [(d.toNat, 19), (a.toNat, 16)]
  | .mmov d a => assemble 0x51400000 [(d.toNat, 19), (a.toNat, 16)]
  | .mfrom d s => assemble 0x51800000 [(d.toNat, 19), (s.toNat, 7)]
  | .mto a s => assemble 0x51C00000 [(a.toNat, 16), (s.toNat, 7)]
  | .mcount a s => assemble 0x52000000 [(a.toNat, 16), (s.toNat, 7)]
  | .mfirst a s => assemble 0x52400000 [(a.toNat, 16), (s.toNat, 7)]
  | .nop => assemble 0x54000000 []
  | .exit => assemble 0x54100000 []
  | .trap i => assemble 0x54200000 [(i.toNat, 0)]
  | .tret => assemble 0x54300000 []
  | .brk i => assemble 0x54400000 [(i.toNat, 0)]
  | .sread d r => assemble 0x54500000 [(d.toNat, 14), (r.toNat, 0)]
  | .swrite a r => assemble 0x54600000 [(a.toNat, 14), (r.toNat, 0)]
  | .tmask => assemble 0x54700000 []
  | .tunmask => assemble 0x54800000 []
  | .yield => assemble 0x54900000 []
  | .sleep a => assemble 0x54A00000 [(a.toNat, 14)]
  | .vadd d a b k => assemble 0x60000000 [(d.toNat, 15), (a.toNat, 8), (b.toNat, 1), (k.toNat, 0)]
  | .vsub d a b k => assemble 0x60400000 [(d.toNat, 15), (a.toNat, 8), (b.toNat, 1), (k.toNat, 0)]
  | .vmul d a b k => assemble 0x60800000 [(d.toNat, 15), (a.toNat, 8), (b.toNat, 1), (k.toNat, 0)]
  | .vmulh d a b k => assemble 0x60C00000 [(d.toNat, 15), (a.toNat, 8), (b.toNat, 1), (k.toNat, 0)]
  | .vmulhn d a b k => assemble 0x61000000 [(d.toNat, 15), (a.toNat, 8), (b.toNat, 1), (k.toNat, 0)]
  | .vmin d a b k => assemble 0x61400000 [(d.toNat, 15), (a.toNat, 8), (b.toNat, 1), (k.toNat, 0)]
  | .vmax d a b k => assemble 0x61800000 [(d.toNat, 15), (a.toNat, 8), (b.toNat, 1), (k.toNat, 0)]
  | .vminn d a b k => assemble 0x61C00000 [(d.toNat, 15), (a.toNat, 8), (b.toNat, 1), (k.toNat, 0)]
  | .vmaxn d a b k => assemble 0x62000000 [(d.toNat, 15), (a.toNat, 8), (b.toNat, 1), (k.toNat, 0)]
  | .vand d a b k => assemble 0x62400000 [(d.toNat, 15), (a.toNat, 8), (b.toNat, 1), (k.toNat, 0)]
  | .vor d a b k => assemble 0x62800000 [(d.toNat, 15), (a.toNat, 8), (b.toNat, 1), (k.toNat, 0)]
  | .vxor d a b k => assemble 0x62C00000 [(d.toNat, 15), (a.toNat, 8), (b.toNat, 1), (k.toNat, 0)]
  | .vshl d a b k => assemble 0x63000000 [(d.toNat, 15), (a.toNat, 8), (b.toNat, 1), (k.toNat, 0)]
  | .vshr d a b k => assemble 0x63400000 [(d.toNat, 15), (a.toNat, 8), (b.toNat, 1), (k.toNat, 0)]
  | .vsar d a b k => assemble 0x63800000 [(d.toNat, 15), (a.toNat, 8), (b.toNat, 1), (k.toNat, 0)]
  | .vabsd d a b k => assemble 0x63C00000 [(d.toNat, 15), (a.toNat, 8), (b.toNat, 1), (k.toNat, 0)]
  | .vcmp c m a b => assemble 0x64000000 [(c.toNat, 23), (m.toNat, 20), (a.toNat, 13), (b.toNat, 6)]
  | .vmad d a b c => assemble 0x68000000 [(d.toNat, 18), (a.toNat, 12), (b.toNat, 6), (c.toNat, 0)]
  | .vfsl d a b c => assemble 0x69000000 [(d.toNat, 18), (a.toNat, 12), (b.toNat, 6), (c.toNat, 0)]
  | .vfsr d a b c => assemble 0x6A000000 [(d.toNat, 18), (a.toNat, 12), (b.toNat, 6), (c.toNat, 0)]
  | .vbsel d a b c => assemble 0x6B000000 [(d.toNat, 18), (a.toNat, 12), (b.toNat, 6), (c.toNat, 0)]
  | .vfma d a b c => assemble 0x6C000000 [(d.toNat, 18), (a.toNat, 12), (b.toNat, 6), (c.toNat, 0)]
  | .vfms d a b c => assemble 0x6D000000 [(d.toNat, 18), (a.toNat, 12), (b.toNat, 6), (c.toNat, 0)]
  | .vfnma d a b c => assemble 0x6E000000 [(d.toNat, 18), (a.toNat, 12), (b.toNat, 6), (c.toNat, 0)]
  | .vaddi d a i => assemble 0x70000000 [(d.toNat, 15), (a.toNat, 8), (i.toNat, 0)]
  | .vandi d a i => assemble 0x70400000 [(d.toNat, 15), (a.toNat, 8), (i.toNat, 0)]
  | .vori d a i => assemble 0x70800000 [(d.toNat, 15), (a.toNat, 8), (i.toNat, 0)]
  | .vxori d a i => assemble 0x70C00000 [(d.toNat, 15), (a.toNat, 8), (i.toNat, 0)]
  | .vshli d a i => assemble 0x71000000 [(d.toNat, 15), (a.toNat, 8), (i.toNat, 0)]
  | .vshri d a i => assemble 0x71400000 [(d.toNat, 15), (a.toNat, 8), (i.toNat, 0)]
  | .vsari d a i => assemble 0x71800000 [(d.toNat, 15), (a.toNat, 8), (i.toNat, 0)]
  | .vmovi d i => assemble 0x71C00000 [(d.toNat, 15), (i.toNat, 0)]
  | .vbcast d s m => assemble 0x74000000 [(d.toNat, 15), (s.toNat, 2), (m.toNat, 0)]
  | .vadds d a s m => assemble 0x74400000 [(d.toNat, 15), (a.toNat, 8), (s.toNat, 2), (m.toNat, 0)]
  | .vmuls d a s m => assemble 0x74800000 [(d.toNat, 15), (a.toNat, 8), (s.toNat, 2), (m.toNat, 0)]
  | .vmulhns d a s m => assemble 0x74C00000 [(d.toNat, 15), (a.toNat, 8), (s.toNat, 2), (m.toNat, 0)]
  | .vshls d a s m => assemble 0x75000000 [(d.toNat, 15), (a.toNat, 8), (s.toNat, 2), (m.toNat, 0)]
  | .vshrs d a s m => assemble 0x75400000 [(d.toNat, 15), (a.toNat, 8), (s.toNat, 2), (m.toNat, 0)]
  | .vlaneid d s m => assemble 0x75800000 [(d.toNat, 15), (s.toNat, 2), (m.toNat, 0)]
  | .vxch d a i => assemble 0x78000000 [(d.toNat, 15), (a.toNat, 8), (i.toNat, 0)]
  | .vrot d a k => assemble 0x78400000 [(d.toNat, 15), (a.toNat, 8), (k.toNat, 0)]
  | .vperm d a b k => assemble 0x78800000 [(d.toNat, 15), (a.toNat, 8), (b.toNat, 1), (k.toNat, 0)]
  | .vextl d a l => assemble 0x78C00000 [(d.toNat, 15), (a.toNat, 8), (l.toNat, 0)]
  | .vinsl d l s m => assemble 0x79000000 [(d.toNat, 15), (l.toNat, 8), (s.toNat, 2), (m.toNat, 0)]
  | .vradd d a => assemble 0x7C000000 [(d.toNat, 15), (a.toNat, 8)]
  | .vrmax d a => assemble 0x7C400000 [(d.toNat, 15), (a.toNat, 8)]
  | .vrmin d a => assemble 0x7C800000 [(d.toNat, 15), (a.toNat, 8)]
  | .vrmaxn d a => assemble 0x7CC00000 [(d.toNat, 15), (a.toNat, 8)]
  | .vrfadd d a => assemble 0x7D000000 [(d.toNat, 15), (a.toNat, 8)]
  | .vrfmax d a => assemble 0x7D400000 [(d.toNat, 15), (a.toNat, 8)]
  | .vgadd d a g => assemble 0x7E000000 [(d.toNat, 15), (a.toNat, 8), (g.toNat, 0)]
  | .vgmax d a g => assemble 0x7E400000 [(d.toNat, 15), (a.toNat, 8), (g.toNat, 0)]
  | .vgmaxn d a g => assemble 0x7E800000 [(d.toNat, 15), (a.toNat, 8), (g.toNat, 0)]
  | .vgor d a g => assemble 0x7EC00000 [(d.toNat, 15), (a.toNat, 8), (g.toNat, 0)]
  | .vscan d a g => assemble 0x7F000000 [(d.toNat, 15), (a.toNat, 8), (g.toNat, 0)]
  | .vfadd d a b k => assemble 0x80000000 [(d.toNat, 15), (a.toNat, 8), (b.toNat, 1), (k.toNat, 0)]
  | .vfsub d a b k => assemble 0x80400000 [(d.toNat, 15), (a.toNat, 8), (b.toNat, 1), (k.toNat, 0)]
  | .vfmul d a b k => assemble 0x80800000 [(d.toNat, 15), (a.toNat, 8), (b.toNat, 1), (k.toNat, 0)]
  | .vfmin d a b k => assemble 0x80C00000 [(d.toNat, 15), (a.toNat, 8), (b.toNat, 1), (k.toNat, 0)]
  | .vfmax d a b k => assemble 0x81000000 [(d.toNat, 15), (a.toNat, 8), (b.toNat, 1), (k.toNat, 0)]
  | .vfabs d a k => assemble 0x81400000 [(d.toNat, 15), (a.toNat, 8), (k.toNat, 0)]
  | .vfneg d a k => assemble 0x81800000 [(d.toNat, 15), (a.toNat, 8), (k.toNat, 0)]
  | .vfrcp d a k => assemble 0x81C00000 [(d.toNat, 15), (a.toNat, 8), (k.toNat, 0)]
  | .vfrsq d a k => assemble 0x82000000 [(d.toNat, 15), (a.toNat, 8), (k.toNat, 0)]
  | .vfsqrt d a k => assemble 0x82400000 [(d.toNat, 15), (a.toNat, 8), (k.toNat, 0)]
  | .vfexp2 d a k => assemble 0x82800000 [(d.toNat, 15), (a.toNat, 8), (k.toNat, 0)]
  | .vflog2 d a k => assemble 0x82C00000 [(d.toNat, 15), (a.toNat, 8), (k.toNat, 0)]
  | .vfsin d a k => assemble 0x83000000 [(d.toNat, 15), (a.toNat, 8), (k.toNat, 0)]
  | .vfcos d a k => assemble 0x83400000 [(d.toNat, 15), (a.toNat, 8), (k.toNat, 0)]
  | .vfscale d a b k => assemble 0x83800000 [(d.toNat, 15), (a.toNat, 8), (b.toNat, 1), (k.toNat, 0)]
  | .vfclass d a k => assemble 0x83C00000 [(d.toNat, 15), (a.toNat, 8), (k.toNat, 0)]
  | .vfcmp c m a b => assemble 0x84000000 [(c.toNat, 23), (m.toNat, 20), (a.toNat, 13), (b.toNat, 6)]
  | .vcvtF32I32 d a r => assemble 0x88000000 [(d.toNat, 14), (a.toNat, 7), (r.toNat, 1)]
  | .vcvtI32F32 d a r => assemble 0x88200000 [(d.toNat, 14), (a.toNat, 7), (r.toNat, 1)]
  | .vcvtF32N32 d a r => assemble 0x88400000 [(d.toNat, 14), (a.toNat, 7), (r.toNat, 1)]
  | .vcvtN32F32 d a r => assemble 0x88600000 [(d.toNat, 14), (a.toNat, 7), (r.toNat, 1)]
  | .vcvtBf16F32 d a r => assemble 0x88800000 [(d.toNat, 14), (a.toNat, 7), (r.toNat, 1)]
  | .vcvtF32Bf16 d a h => assemble 0x88A00000 [(d.toNat, 14), (a.toNat, 7), (h.toNat, 4)]
  | .vcvtF16F32 d a r => assemble 0x88C00000 [(d.toNat, 14), (a.toNat, 7), (r.toNat, 1)]
  | .vcvtF32F16 d a h => assemble 0x88E00000 [(d.toNat, 14), (a.toNat, 7), (h.toNat, 4)]
  | .vcvtNfF32 d a f r => assemble 0x89000000 [(d.toNat, 14), (a.toNat, 7), (f.toNat, 4), (r.toNat, 1)]
  | .vcvtF32Nf d a f r => assemble 0x89200000 [(d.toNat, 14), (a.toNat, 7), (f.toNat, 4), (r.toNat, 1)]
  | .vcvtRint d a r => assemble 0x89400000 [(d.toNat, 14), (a.toNat, 7), (r.toNat, 1)]
  | .vldIndexed p d s o z => assemble 0x90000000 [(p.toNat, 25), (d.toNat, 16), (s.toNat, 10), (o.toNat, 3), (z.toNat, 0)]
  | .vldUnit p d s z => assemble 0x90800000 [(p.toNat, 25), (d.toNat, 16), (s.toNat, 10), (z.toNat, 0)]
  | .vldBroadcast p d s z => assemble 0x91000000 [(p.toNat, 25), (d.toNat, 16), (s.toNat, 10), (z.toNat, 0)]
  | .vstIndexed p d s o z => assemble 0x94000000 [(p.toNat, 25), (d.toNat, 16), (s.toNat, 10), (o.toNat, 3), (z.toNat, 0)]
  | .vstUnit p d s z => assemble 0x94800000 [(p.toNat, 25), (d.toNat, 16), (s.toNat, 10), (z.toNat, 0)]
  | .vstnt d s z => assemble 0x95000000 [(d.toNat, 16), (s.toNat, 10), (z.toNat, 0)]
  | .vstbm p d s o => assemble 0x95800004 [(p.toNat, 25), (d.toNat, 16), (s.toNat, 10), (o.toNat, 3)]
  | .vatmAdd d b o s r => assemble 0x98000000 [(d.toNat, 17), (b.toNat, 11), (o.toNat, 5), (s.toNat, 2), (r.toNat, 0)]
  | .vatmMin d b o s r => assemble 0x98800000 [(d.toNat, 17), (b.toNat, 11), (o.toNat, 5), (s.toNat, 2), (r.toNat, 0)]
  | .vatmMax d b o s r => assemble 0x99000000 [(d.toNat, 17), (b.toNat, 11), (o.toNat, 5), (s.toNat, 2), (r.toNat, 0)]
  | .vatmMinn d b o s r => assemble 0x99800000 [(d.toNat, 17), (b.toNat, 11), (o.toNat, 5), (s.toNat, 2), (r.toNat, 0)]
  | .vatmMaxn d b o s r => assemble 0x9A000000 [(d.toNat, 17), (b.toNat, 11), (o.toNat, 5), (s.toNat, 2), (r.toNat, 0)]
  | .vatmXchg d b o s r => assemble 0x9A800000 [(d.toNat, 17), (b.toNat, 11), (o.toNat, 5), (s.toNat, 2), (r.toNat, 0)]
  | .vatmCas d b o s r => assemble 0x9B000000 [(d.toNat, 17), (b.toNat, 11), (o.toNat, 5), (s.toNat, 2), (r.toNat, 0)]
  | .vatmFadd d b o s r => assemble 0x9B800000 [(d.toNat, 17), (b.toNat, 11), (o.toNat, 5), (s.toNat, 2), (r.toNat, 0)]
  | .vatmAnd d b o s r => assemble 0x9C000000 [(d.toNat, 17), (b.toNat, 11), (o.toNat, 5), (s.toNat, 2), (r.toNat, 0)]
  | .vatmOr d b o s r => assemble 0x9C800000 [(d.toNat, 17), (b.toNat, 11), (o.toNat, 5), (s.toNat, 2), (r.toNat, 0)]
  | .vatmXor d b o s r => assemble 0x9D000000 [(d.toNat, 17), (b.toNat, 11), (o.toNat, 5), (s.toNat, 2), (r.toNat, 0)]
  | .vatmIncw d b o s r => assemble 0x9D800000 [(d.toNat, 17), (b.toNat, 11), (o.toNat, 5), (s.toNat, 2), (r.toNat, 0)]
  | .vatmDecw d b o s r => assemble 0x9E000000 [(d.toNat, 17), (b.toNat, 11), (o.toNat, 5), (s.toNat, 2), (r.toNat, 0)]
  | .satmAdd d a b s r => assemble 0xA0000000 [(d.toNat, 17), (a.toNat, 11), (b.toNat, 5), (s.toNat, 2), (r.toNat, 0)]
  | .satmMin d a b s r => assemble 0xA0800000 [(d.toNat, 17), (a.toNat, 11), (b.toNat, 5), (s.toNat, 2), (r.toNat, 0)]
  | .satmMax d a b s r => assemble 0xA1000000 [(d.toNat, 17), (a.toNat, 11), (b.toNat, 5), (s.toNat, 2), (r.toNat, 0)]
  | .satmXchg d a b s r => assemble 0xA1800000 [(d.toNat, 17), (a.toNat, 11), (b.toNat, 5), (s.toNat, 2), (r.toNat, 0)]
  | .satmCas d a b s r => assemble 0xA2000000 [(d.toNat, 17), (a.toNat, 11), (b.toNat, 5), (s.toNat, 2), (r.toNat, 0)]
  | .satmAnd d a b s r => assemble 0xA2800000 [(d.toNat, 17), (a.toNat, 11), (b.toNat, 5), (s.toNat, 2), (r.toNat, 0)]
  | .satmOr d a b s r => assemble 0xA3000000 [(d.toNat, 17), (a.toNat, 11), (b.toNat, 5), (s.toNat, 2), (r.toNat, 0)]
  | .satmXor d a b s r => assemble 0xA3800000 [(d.toNat, 17), (a.toNat, 11), (b.toNat, 5), (s.toNat, 2), (r.toNat, 0)]
  | .pub s => assemble 0xA4000000 [(s.toNat, 17)]
  | .acq s => assemble 0xA4100000 [(s.toNat, 17)]
  | .pubacq s => assemble 0xA4200000 [(s.toNat, 17)]
  | .drain s => assemble 0xA4300000 [(s.toNat, 17)]
  | .clean s a => assemble 0xA4400000 [(s.toNat, 17), (a.toNat, 11)]
  | .inval s a => assemble 0xA4500000 [(s.toNat, 17), (a.toNat, 11)]
  | .mma a w r k x y p => assemble 0xC0000000 [(a.toNat, 20), (w.toNat, 13), (r.toNat, 9), (k.toNat, 5), (x.toNat, 4), (y.toNat, 3), (p.toNat, 2)]
  | .mmac a w r k x y p => assemble 0xC0800000 [(a.toNat, 20), (w.toNat, 13), (r.toNat, 9), (k.toNat, 5), (x.toNat, 4), (y.toNat, 3), (p.toNat, 2)]
  | .aread d a r g s => assemble 0xC4000000 [(d.toNat, 15), (a.toNat, 12), (r.toNat, 8), (g.toNat, 6), (s.toNat, 0)]
  | .areadRaw d a r g => assemble 0xC4400000 [(d.toNat, 15), (a.toNat, 12), (r.toNat, 8), (g.toNat, 6)]
  | .azero a => assemble 0xC4800000 [(a.toNat, 12)]
  | .aanchor a s => assemble 0xC4C00000 [(a.toNat, 12), (s.toNat, 0)]
  | .arange a e => assemble 0xC5000000 [(a.toNat, 12), (e.toNat, 0)]
  | .astat d a => assemble 0xC5400000 [(d.toNat, 15), (a.toNat, 12)]
  | .seal d e => assemble 0xC8000000 [(d.toNat, 16), (e.toNat, 14)]
  | .waitb e n => assemble 0xC8400000 [(e.toNat, 14), (n.toNat, 10)]
  | .testb d e => assemble 0xC8800000 [(d.toNat, 16), (e.toNat, 14)]
  | .gangset a => assemble 0xCC000000 [(a.toNat, 16)]
  | .gangclr => assemble 0xCC400000 []
  | .cpg l c d q => assemble 0xD0000000 [(l.toNat, 18), (c.toNat, 12), (d.toNat, 6), (q.toNat, 0)]
  | .cps l c d q => assemble 0xD1000000 [(l.toNat, 18), (c.toNat, 12), (d.toNat, 6), (q.toNat, 0)]
  | .cpm l c d q => assemble 0xD2000000 [(l.toNat, 18), (c.toNat, 12), (d.toNat, 6), (q.toNat, 0)]
  | .cpx l c d q => assemble 0xD3000000 [(l.toNat, 18), (c.toNat, 12), (d.toNat, 6), (q.toNat, 0)]
  | .tinit t s => assemble 0xD4000000 [(t.toNat, 18), (s.toNat, 12)]
  | .twait t => assemble 0xD4400000 [(t.toNat, 18)]
  | .tpop t => assemble 0xD4800000 [(t.toNat, 18)]
  | .tfilled t d => assemble 0xD4C00000 [(t.toNat, 18), (d.toNat, 12)]
  | .tcommit t => assemble 0xD5000000 [(t.toNat, 18)]
  | .barinit a b => assemble 0xD8000000 [(a.toNat, 12), (b.toNat, 6)]
  | .bararr a => assemble 0xD8400000 [(a.toNat, 12)]
  | .barwait a b => assemble 0xD8800000 [(a.toNat, 12), (b.toNat, 6)]
  | .barexp a b => assemble 0xD8C00000 [(a.toNat, 12), (b.toNat, 6)]
  | .barsync b => assemble 0xD9000000 [(b.toNat, 18)]
  | .cbarsync => assemble 0xD9400000 []
  | .chbind c s => assemble 0xDC000000 [(c.toNat, 16), (s.toNat, 10)]
  | .chclose c => assemble 0xDC400000 [(c.toNat, 16)]
  | .chlen c d => assemble 0xDC800000 [(c.toNat, 16), (d.toNat, 10)]
  | .offerTake d a b => assemble 0xE0000000 [(d.toNat, 16), (a.toNat, 10), (b.toNat, 4)]
  | .offerSpawn d a b => assemble 0xE0000001 [(d.toNat, 16), (a.toNat, 10), (b.toNat, 4)]
  | .withdraw d a b => assemble 0xE0400000 [(d.toNat, 16), (a.toNat, 10), (b.toNat, 4)]
  | .sow q a b n u => assemble 0xE0800000 [(q.toNat, 16), (a.toNat, 10), (b.toNat, 4), (n.toNat, 1), (u.toNat, 0)]
  | .take d a n => assemble 0xE0C00000 [(d.toNat, 16), (a.toNat, 10), (n.toNat, 1)]
  | .bedcfg d a => assemble 0xE1000000 [(d.toNat, 16), (a.toNat, 10)]
  | .emit q a => assemble 0xE4000000 [(q.toNat, 18), (a.toNat, 12)]
  | .spawn a b => assemble 0xE4400000 [(a.toNat, 12), (b.toNat, 6)]
  | .tdone q => assemble 0xE4800000 [(q.toNat, 18)]
  | .gload d a b => assemble 0xE8000000 [(d.toNat, 16), (a.toNat, 10), (b.toNat, 4)]
  | .gbind d a b => assemble 0xE8400000 [(d.toNat, 16), (a.toNat, 10), (b.toNat, 4)]
  | .gunbind d a b => assemble 0xE8800000 [(d.toNat, 16), (a.toNat, 10), (b.toNat, 4)]
  | .gconv q a b => assemble 0xE8C00000 [(q.toNat, 16), (a.toNat, 10), (b.toNat, 4)]
  | .gstat d a b => assemble 0xE9000000 [(d.toNat, 16), (a.toNat, 10), (b.toNat, 4)]
  | .tlbinv s a b => assemble 0xEC000000 [(s.toNat, 19), (a.toNat, 10), (b.toNat, 4)]
  | .evict a b => assemble 0xEC400000 [(a.toNat, 10), (b.toNat, 4)]
  | .resume a b => assemble 0xEC800000 [(a.toNat, 10), (b.toNat, 4)]
  | .pmcfg a b => assemble 0xECC00000 [(a.toNat, 10), (b.toNat, 4)]
  | .hintStall g f e d c b a => assemble 0xFC000000 [(g.toNat, 18), (f.toNat, 15), (e.toNat, 12), (d.toNat, 9), (c.toNat, 6), (b.toNat, 3), (a.toNat, 0)]
  | .hintXimm x => assemble 0xFC400000 [(x.toNat, 0)]
  | .hintMem n f u => assemble 0xFC800000 [(n.toNat, 7), (f.toNat, 6), (u.toNat, 0)]
  | .hintMod s r => assemble 0xFCC00000 [(s.toNat, 3), (r.toNat, 0)]
  | .hintSpin => assemble 0xFD000000 []
  | .hintPref a => assemble 0xFD400000 [(a.toNat, 16)]
  | .xdGetb d => assemble 0x08000000 [(d.toNat, 23)]
  | .xdPeekb d i => assemble 0x10000000 [(d.toNat, 23), (i.toNat, 0)]
  | .xdPutb a => assemble 0x18000000 [(a.toNat, 19)]
  | .xdPutn a b => assemble 0x20000000 [(a.toNat, 19), (b.toNat, 15)]
  | .xdCpin a => assemble 0x28000000 [(a.toNat, 19)]
  | .xdBack a b => assemble 0x30000000 [(a.toNat, 19), (b.toNat, 15)]
  | .xdAddi d a i => assemble 0x38000000 [(d.toNat, 23), (a.toNat, 19), (i.toNat, 0)]
  | .xdAdd d a b => assemble 0x40000000 [(d.toNat, 23), (a.toNat, 19), (b.toNat, 15)]
  | .xdSub d a b => assemble 0x48000000 [(d.toNat, 23), (a.toNat, 19), (b.toNat, 15)]
  | .xdAnd d a b => assemble 0x50000000 [(d.toNat, 23), (a.toNat, 19), (b.toNat, 15)]
  | .xdOr d a b => assemble 0x58000000 [(d.toNat, 23), (a.toNat, 19), (b.toNat, 15)]
  | .xdXor d a b => assemble 0x60000000 [(d.toNat, 23), (a.toNat, 19), (b.toNat, 15)]
  | .xdShl d a b => assemble 0x68000000 [(d.toNat, 23), (a.toNat, 19), (b.toNat, 15)]
  | .xdShr d a b => assemble 0x70000000 [(d.toNat, 23), (a.toNat, 19), (b.toNat, 15)]
  | .xdTbl d a => assemble 0x78000000 [(d.toNat, 23), (a.toNat, 19)]
  | .xdBeq a b i => assemble 0x80000000 [(a.toNat, 19), (b.toNat, 15), (i.toNat, 0)]
  | .xdBne a b i => assemble 0x88000000 [(a.toNat, 19), (b.toNat, 15), (i.toNat, 0)]
  | .xdBltn a b i => assemble 0x90000000 [(a.toNat, 19), (b.toNat, 15), (i.toNat, 0)]
  | .xdBeof i => assemble 0x98000000 [(i.toNat, 0)]
  | .xdJmp i => assemble 0xA0000000 [(i.toNat, 0)]
  | .xdLen d => assemble 0xA8000000 [(d.toNat, 23)]
  | .xdOpos d => assemble 0xB0000000 [(d.toNat, 23)]
  | .xdHalt => assemble 0xB8000000 []
  | .xdFail i => assemble 0xC0000000 [(i.toNat, 0)]
  | .unallocatedEncoding w => w
  | .qpageRead .. | .qpageWrite .. | .qfaultRead .. | .qeventWrite .. | .qeventRead .. | .qmgmtRead .. | .qmgmtWrite ..
  | .fetchLineFill .. | .memoryReply .. | .atomicReply .. | .storeAcknowledge .. | .pageRequest .. | .translationWalk .. | .sleepTimeout ..
  | .yieldEnd .. | .maskStackRefill .. | .pcMatch .. | .trayReserve .. | .copyChunkLand .. | .copyComplete .. | .gangRendezvous ..
  | .matrixOpStart .. | .matrixSlotStream .. | .partialArrival .. | .columnDrain .. | .matrixOpComplete .. | .blockBarrierTimeout .. | .clusterBarrierTimeout ..
  | .faultRecordPush .. | .blockComplete .. | .evictionRequest .. | .draining .. | .saving .. | .evicted .. | .restoring ..
  | .running .. | .maskoverrun .. | .peerLocalAccess .. | .spareSwap .. | .clusterReset .. | .reassemblyTimeout .. | .containmentHandshake ..
  | .drainAndRebuild .. | .issueResume .. | .sowAtNode .. | .readinessReport .. | .sowSend .. | .homeRead .. | .homeWrite ..
  | .atomicPerform .. | .dramReadComplete .. | .writeBackSequence .. | .transducerRun .. | .budget | .gconvBlock .. | .carveChange ..
  | .sliceSwap .. | .channelSwap .. | .channelCopyEnd .. | .rowRepair .. | .patrolScrub .. | .linkReplay .. | .linkAckTimeout ..
  | .linkRetrain .. | .fatalError .. | .workQueueMessage .. | .schedulerTake .. | .readyPoolSow .. | .flushTimeout .. | .nodeComplete ..
  | .completionRecord .. | .notification .. | .aging .. | .sliceEnd .. | .preEmption .. | .sample .. | .counterSnapshot ..
  | .debugStop .. | .debugContinue .. | .debugStep .. | .debugStateAccess .. | .windowWrite .. | .windowRead .. | .window ..
  | .ring .. | .notify .. | .debug .. | .attest .. | .vdcfg .. | .fabbed .. | .queue ..
  | .mailbox .. | .fabricReadinessReport .. | .peerUnreachable .. | .portLaneFailure .. | .portOutOfService .. | .powerOn | .coldReset
  | .firmwareImageTransfer .. | .powerSample .. | .throttleStep | .thermalSample .. | .alarmClear | .fatalClear | .linkRetrainComplete ..
  | .peerReachable .. | .bedRegistration .. | .clusterBackOnline .. => 0#32

/-- 01 R12: the instruction at the head of a list of bytes, with the bytes after it. -/
noncomputable def decodeBytes (bs : List Byte) : Except DecodeError (Instr × List Byte) :=
  match bs with
  | b0 :: b1 :: b2 :: b3 :: rest => .ok (decode (wordOfBytes b0 b1 b2 b3), rest)
  | _ => .error .truncated

/-- The bytes of an instruction as memory holds them. -/
def encodeBytes (i : Instr) : List Byte :=
  [byteOfWord (encode i) 0, byteOfWord (encode i) 1, byteOfWord (encode i) 2, byteOfWord (encode i) 3]

/-- What the decoder reads from an instruction whose bits are w, numbered as spec/opcode_table.json numbers them.  Every
instruction is one word of 32 bits; bits above nbits are zero. -/
noncomputable def decodeTableWord (nbits w : Nat) : Option Instr :=
  if 32 < nbits then none
  else
    let x := BitVec.ofNat 32 (w % 2 ^ nbits)
    match decodeBytes [byteOfWord x 0, byteOfWord x 1, byteOfWord x 2, byteOfWord x 3] with
    | .ok (i, _) => some i
    | .error _ => none

end Sys2Proof
end

