-- ==== Sys2Proof/Machine/State.lean ====
section
/-!
DEFINITION. Sys2Proof/Machine/State.lean: the whole state of the package as plain data, and the state after reset.

One strand issues at a time: it stands in `State.me`, its block in `State.blk`, its core in `State.core` (the FOCUS); the
other strands, blocks and cores stand in lists.  Everything of the package stands beside them.  Units that are idle and
empty are not listed: a core that is in no list has an empty L1, a virtual device that is not listed is not configured.
-/

namespace Sys2Proof.Machine

/-! ## The strand (02 R38) -/

/-- Why the machine stops with a fault.  None of these is a behaviour of the spec: each names a use of `exec` that no
step of the machine makes. -/
inductive Fault where
  /-- A strand word was executed in a state whose focus holds no running strand.  Raised by `issue` only.  Safe: `step`
  issues only for a running strand, and the spec gives a halted or absent strand no instruction (02 R56). -/
  | noStrand
  /-- A transducer word was executed while no run is in progress.  Raised by the transducer meanings.  Safe: `step`
  executes a transducer word only for a run (15 R263). -/
  | noRun
  deriving DecidableEq, Repr

/-- Why the machine gives an instruction no meaning. -/
inductive Refusal where
  /-- An instruction that has no meaning yet; raised by `exec`'s own arms only, by name.  Safe: the machine stops. -/
  | notModelled (mnemonic : String)
  deriving DecidableEq, Repr

/-- 01 R31: the trap causes. -/
inductive Cause where
  | none | illegal | privileged | misaligned | translation | permission | poison | decode | stallcount | maskstack
  | barrierTimeout | matrixOverflow | matrixWindow | protectMismatch | channel | gang | software | breakpoint | bed
  | batch | format | abandoned
  deriving DecidableEq, Repr

/-- 02 R45: IF, pushed by `mif`, or LOOP, pushed by `mpush`. -/
inductive MaskKind where
  | ifs | loop
  deriving DecidableEq, Repr

/-- 02 R45: an entry of the active-mask stack. -/
structure MaskEntry where
  kind  : MaskKind
  outer : W32
  pend  : W32
  pc    : W64
  rcv   : W64
  deriving DecidableEq, Repr

/-- 09 R180: what a batch reports where it is observed. -/
structure BatchFault where
  cause : Cause
  tval  : W64
  taddr : W64
  deriving DecidableEq, Repr

/-- 07 R147: one engine operation of a batch; `join` is the scope at which its join acquires (14 R253). -/
structure BatchOp where
  op    : Nat
  join  : BitVec 3
  done  : Bool
  fault : Option BatchFault
  deriving DecidableEq, Repr

/-- 07 R147: a sealed batch; `joined` once its completion has been observed. -/
structure Batch where
  num      : Nat
  ops      : List BatchOp
  reported : Bool
  joined   : Bool
  deriving DecidableEq, Repr

/-- 07 R147: one engine's batches of a strand: the last number given, the batches, the operations not yet sealed. -/
structure Batches where
  last     : Nat
  batches  : List Batch
  unsealed : List BatchOp
  deriving DecidableEq, Repr

/-- A register that a fixed-latency or interlocked result writes (01 R26), or a channel. -/
inductive RegName where
  | scalar (i : Nat)
  | vector (i : Nat)
  | mask (i : Nat)
  | channel (i : Nat)
  deriving DecidableEq, Repr

/-- What a register held before a pending result (01 R25, 04 R97). -/
inductive OldValue where
  | scalar (x : W64)
  | vector (x : Vec)
  | mask (x : W32)
  deriving DecidableEq, Repr

/-- 02 R50, R377: a result whose time has not come: the register, its time in eighths of a ns, what it held, and
whether stall counts may shorten it (fixed latency) or not. -/
structure PendReg where
  reg   : RegName
  ready : Nat
  old   : OldValue
  fixed : Bool
  deriving DecidableEq, Repr

/-- 02 R56, 03 R70, 21 R348: what a strand is. -/
inductive RunState where
  | free | running | exited | halted | stopped
  deriving DecidableEq, Repr

/-- 05 R112: a lane that failed, with its cause and effective address. -/
structure LaneFault where
  lane  : Nat
  cause : Cause
  ea    : W64
  deriving DecidableEq, Repr

/-- 05 R111: a lane that waits on a page request: stage-2 queue or not, and the id (none while the queue is full). -/
structure LaneWait where
  lane   : Nat
  ea     : W64
  stage2 : Bool
  id     : Option Nat
  deriving DecidableEq, Repr

/-- 19 R317, R322: what an access needs of its page; a range member of 15 R273 needs write permission, of memory of any kind. -/
inductive Acc where
  | read | write | exec | atomic | range
  deriving DecidableEq, Repr

/-- 05 R111: a unit of a memory instruction (a lane, or a byte of `vstbm`) whose translation is there: its physical
address, whether its page is RAW or DISCARD (15 R272, 13 R238), and the size of its page (15 R273). -/
structure UnitPa where
  unit    : Nat
  pa      : Nat
  raw     : Bool
  discard : Bool
  ea      : W64 := 0
  page    : Nat := 0
  deriving DecidableEq, Repr

/-- 05 R111, R114: the progress of a memory instruction whose lanes wait for translations: the units that are translated and not yet
performed, those that failed, those that wait, the units whose store has been performed, the values that units have read. -/
structure MemWait where
  acc     : Acc
  ok      : List UnitPa
  failed  : List LaneFault
  waiting : List LaneWait
  stored  : List UnitPa := []
  got     : List (Nat × Nat) := []
  deriving DecidableEq, Repr

/-- 05 R115: one lane of an atomic: its address, its operand, and the new value of a compare. -/
structure AtomLane where
  lane : Nat
  pa   : Nat
  v    : W64
  w    : W64
  deriving DecidableEq, Repr

/-- 05 R103, R110, R115: a memory access of the strand that awaits a reply. -/
inductive Flight where
  /-- A load whose sectors are not all in the L1 (MEMORY_REPLY). -/
  | load (units : List UnitPa) (size use : Nat) (free noAlloc : Bool)
  /-- A load from peers' windows: lane, block, offset (PEER_LOCAL_ACCESS). -/
  | peerLoad (lanes : List (Nat × Nat × Nat)) (size : Nat) (got : List (Nat × Nat))
  /-- An atomic at die scope or wider on its way to the home (ATOMIC_PERFORM), or at a peer's local memory. -/
  | atomic (fn size : Nat) (lanes : List AtomLane)
  | peerAtomic (fn size : Nat) (lanes : List (AtomLane × Nat)) (got : List (Nat × Nat))
  /-- An atomic that has been performed; the old values travel back (ATOMIC_REPLY). -/
  | performed (vals : List (Nat × Nat)) (decode poison : List Nat)
  /-- The reply: the value of each lane, the lanes that consumed a DECODE mark, those that consumed poison. -/
  | loaded (vals : List (Nat × Nat)) (decode poison : List Nat)
  /-- 17 R301, R302: a record or a message that has been read and waits for room in its queue. -/
  | message (bytes : List Byte)
  deriving DecidableEq, Repr

/-- What a strand waits for at its instruction, beyond trying again. -/
inductive Wait where
  | none
  | blockBarrier (b : Nat)
  | clusterBarrier
  | gang
  | released
  | sleeping
  | yielding
  deriving DecidableEq, Repr

/-- 21 R349: a PC match register. -/
structure Match where
  addr   : W64
  enable : Bool
  deriving DecidableEq, Repr

/-- 07 R378: a line of the fetch buffer: its virtual line number, its nonzero bytes by virtual address, the sectors that came
with a DECODE mark or poison (sector 0 in bit 0), when it is there, and the sectors for which it holds miss entries until then. -/
structure FetchLine where
  line   : Nat
  cells  : List Host.Cell
  marks  : BitVec 4
  poison : BitVec 4
  ready  : Nat := 0
  entries : List Nat := []
  deriving DecidableEq, Repr

/-- 01 R24: the modifying hints that wait for their target. -/
structure Hints where
  first : Option W64
  ximm  : Option (BitVec 22)
  mem   : Option (BitVec 6 × Bool × Bool)
  mod   : Option (BitVec 3 × Bool)
  deriving DecidableEq, Repr

/-- 02 R38: a strand.  `stopPc` is the address at which the debugger last stopped it (21 R349); `lastIssue` is when a
word of it, hint or not, last issued (21 R342), `issuedAt` when one that is no hint did (01 R25); `corrupt` are the registers that hold
an uncorrectable error (19 R330). -/
structure Strand where
  id        : Nat
  block     : Nat
  run       : RunState
  pc        : W64
  s         : Vector W64 64
  v         : Vector Vec 64
  m         : Vector W32 8
  stack     : List MaskEntry
  near      : Nat
  mx        : Batches
  cp        : Batches
  sw        : Batches
  tpc       : W64
  tcause    : BitVec 8
  tlanes    : W32
  taddr     : W64
  tval      : W64
  fmt       : Vector (BitVec 16) 8
  gang      : W32
  sowfrom   : BitVec 16
  rm        : BitVec 2
  chk       : Bool
  prot      : Bool
  tmasked   : Bool
  wid       : W64
  slot      : Nat
  role      : Nat
  kind      : Nat
  budget    : Nat
  priv      : Nat
  handler   : Bool
  launchAt  : Nat
  hints     : Hints
  stall     : List Nat
  pending   : List PendReg
  readyAt   : Nat
  issuedAt  : Nat
  tretMask  : Option W32
  wake      : Bool
  wait      : Wait
  reason    : Nat
  memWait   : Option MemWait
  flight    : Option Flight
  spin      : Bool
  matched   : Bool
  pcMatch   : Vector Match 4
  fetch     : List FetchLine
  issuedPc  : W64
  lastIssue : Nat
  issued    : Bool
  latch     : List (RegName × OldValue)
  shadow    : W32
  peerStores : Nat
  overrun   : Bool
  stepping  : Bool
  stopPc    : W64
  corrupt   : List RegName
  deriving DecidableEq, Repr

/-! ## The block (07 R128 to R151) -/

/-- 08 R161: an accumulator element between operations: (A, Rw, NAN, RU). -/
structure Elem where
  a   : BitVec 28
  rw  : BitVec 16
  nan : Bool
  ru  : Bool
  deriving DecidableEq, Repr

/-- 08 R157, R161, R172: an accumulator tile; elements that are not listed are (0, 0, 0, 0). -/
structure Tile where
  elems  : List (Nat × Elem)
  poison : List Nat
  g      : BitVec 10
  d      : Nat
  rcount : W32
  deriving DecidableEq, Repr

/-- 07 R148, 09 R186: a B-store plane: its bytes, and the type, format, block size and scale codes latched with them; the bytes that hold
an uncorrectable error (08 R172). -/
structure Plane where
  bytes  : List Host.Cell
  ptype  : Nat
  fmt    : BitVec 16
  block  : Nat
  scales : List Host.Cell
  corrupt : List Nat
  deriving DecidableEq, Repr

/-- 07 R138, 09 R190: a tray; `unit` is the core's tray that was granted for it (R129). -/
structure Tray where
  base   : Nat
  slot   : Nat
  nslot  : Nat
  atype  : Nat
  afmt   : BitVec 16
  scale  : Nat
  stream : Bool
  kslot  : Nat
  layout : W64
  step   : Nat
  count  : Nat
  head   : Nat
  tail   : Nat
  free   : Nat
  res    : Nat
  filled : Nat
  landed : List Nat
  gen    : BitVec 16
  fetched : Nat
  unit   : Nat
  deriving DecidableEq, Repr

/-- 07 R137, 09 R194: a channel: depth, entries in push order, the slots bound to its ends, and the ends that were bound
and are closed. -/
structure Channel where
  depth        : Nat
  entries      : List Vec
  reader       : Option Nat
  writer       : Option Nat
  readerClosed : Bool
  writerClosed : Bool
  deriving DecidableEq, Repr

/-- 07 R144, R145: a block barrier: the slots that have arrived, when the first of the phase did, those released, and those
the time-out ended. -/
structure Barrier where
  arrived  : List Nat
  firstAt  : Option Nat
  released : List Nat
  timedOut : List Nat
  deriving DecidableEq, Repr

/-- 09 R175: the rendezvous latch, when it is open: the word, the GANG value, the slots that have joined. -/
structure Latch where
  word   : W32
  gang   : W32
  joined : List Nat
  deriving DecidableEq, Repr

/-- 12 R214, R224: what a spawn-mode offer reserves, and what its handler strand takes from the strand that offered. -/
structure Reservation where
  slot   : Nat
  role   : Nat
  kind   : Nat
  budget : Nat
  wid    : W64
  priv   : Nat
  deriving DecidableEq, Repr

/-- 12 R214: what a block holds for a bed: mode, unclaimed offers, accepted sows in order, since when (a rank) it has held
offers, the reservations of the offers in spawn mode. -/
structure Offer where
  bed      : BitVec 32
  spawn    : Bool
  count    : Nat
  queue    : List Nat
  since    : Nat
  reserved : List Reservation
  deriving DecidableEq, Repr

/-- 07 R149. -/
inductive Phase where
  | running | stopping | draining | saving | evicted | restoring | ended
  deriving DecidableEq, Repr

/-- 14 R253: which scope a join of a round of a phase-bit barrier acquires at: the barrier's offset, the round that ended, the widest
scope of the copies that ended it. -/
structure RoundScope where
  off   : Nat
  round : Nat
  scope : BitVec 3
  deriving DecidableEq, Repr

/-- 07 R128, 17 R283, R293: a block: what it was launched with and the units it holds; `corrupt` are the doublewords of its window that
hold an uncorrectable error (19 R330). -/
structure Block where
  id        : Nat
  core      : Nat
  index     : Nat
  vd        : Nat
  die       : Nat
  launch    : Nat
  group     : Nat
  pos       : Nat
  groupX    : Nat
  groupY    : Nat
  extent    : Nat
  handler   : W64
  widf      : W64
  prot      : Bool
  chk       : Bool
  relaunch  : Bool
  sampleOn  : Bool
  eventOn   : Bool
  timeout   : Nat
  priority  : Nat
  hasNode   : Option (Nat × Nat)
  launchAt  : Nat
  windowSize : Nat
  window    : List Host.Cell
  tiles     : List Tile
  planes    : List Plane
  trays     : List Tray
  channels  : List Channel
  barriers  : List Barrier
  latch     : Option Latch
  offers    : List Offer
  phase     : Phase
  held      : Bool
  debug     : Bool
  failed    : Option Cause
  nfault    : Nat
  firstPlace : BitVec 14
  stopAt    : Nat
  frozenAt  : Nat
  corrupt   : List Nat
  rounds    : List RoundScope
  deriving DecidableEq, Repr

/-! ## The core -/

/-- 11 R203, 05 R120: a packet to a peer's window: the sender, the block, the offset, the bytes, what it does (0 a store, 1 a barrier
arrival, 2 a barrier expectation, 3 the load or the atomic that the sender has in flight) and its amount. -/
structure PeerStore where
  strand : Nat
  block  : Nat
  off    : Nat
  bytes  : List Byte
  act    : Nat
  amount : Nat
  deriving DecidableEq, Repr

/-- 05 R109: a byte of a `vstnt` in the write-combining buffer: whose it is, and whether a load of that strand has seen it. -/
structure NtByte where
  strand : Nat
  addr   : Nat
  byte   : Byte
  seen   : Bool
  deriving DecidableEq, Repr

/-- 05 R101, R109, 11 R203, 14 R249: what a core holds beside its blocks: the L1 (valid sectors and their clean bytes,
dirty bytes, use-count tags of dirty lines, when each line was last used, the sectors that hold an uncorrectable error), the
write-combining buffer, the packets to peers, the record cache, the generations of its trays that have left 0 (07 R138), the slot that it
last sampled (21 R341), the copy that its engine last served (07 R146), the events that wait for a rebuild (11 R210). -/
structure Core where
  id      : Nat
  valid   : List Nat
  clean   : List Host.Cell
  dirty   : List Host.Cell
  useTags : List (Nat × Nat × Bool)
  used    : List (Nat × Nat)
  corrupt : List Nat
  nt      : List NtByte
  packets : List PeerStore
  records : List (Nat × List Byte)
  trayGens : List (Nat × BitVec 16)
  lastSampled : Nat
  copyAt  : Nat
  events  : List Instr
  deriving DecidableEq, Repr

/-! ## Memory homes, grafts -/

/-- 13 R235, R238, 15 R268: a line that a slice holds: valid and dirty sectors, bytes, use count, free flag, DECODE marks
and poison (four bits each, sector 0 in bit 0), the way it stands in (R236) and when it was last used. -/
structure SliceLine where
  line  : Nat
  valid : BitVec 4
  dirty : BitVec 4
  cells : List Host.Cell
  use   : Nat
  free  : Bool
  marks : BitVec 4
  poison : BitVec 4
  way   : Nat
  used  : Nat
  deriving DecidableEq, Repr

/-- 15 R274: a graft image: 256 code words and 256 table words. -/
structure Image where
  handle : Nat
  owner  : Nat
  words  : List W32
  deriving DecidableEq, Repr

/-- 15 R260, R270: the binding of a 64 KiB region. `encoded` lists the blocks stored encoded, with n - 1. -/
structure Binding where
  region  : Nat
  rawmode : Bool
  blk1k   : Bool
  enc     : Nat
  dec     : Nat
  owner   : Nat
  encoded : List (Nat × Nat)
  conv    : Bool
  next    : Nat
  enc2    : Nat
  dec2    : Nat
  blk2    : Bool
  raw2    : Bool
  va      : W64
  fallbacks : Nat
  fetchFaults : Nat
  lastCode  : Nat
  lastPhase : Nat
  deriving DecidableEq, Repr

/-- 15 R264: how a run ends. -/
inductive XdEnd where
  | success
  | fault (code : Nat) (imm : BitVec 15)
  deriving DecidableEq, Repr

/-- 15 R263: a transducer run. -/
structure XdRun where
  pc      : Nat
  g       : Vector W32 16
  ic      : Nat
  oc      : Nat
  eof     : Bool
  steps   : Nat
  input   : List Byte
  output  : List Byte
  outlim  : Nat
  size    : Nat
  encode  : Bool
  code    : List W32
  table   : List W32
  ended   : Option XdEnd
  deriving DecidableEq, Repr

/-! ## Engine operations -/

/-- 09 R182: a layout record as read. -/
structure Layout where
  base   : W64
  gfmt   : BitVec 16
  gtype  : Nat
  ctype  : Nat
  cfmt   : BitVec 16
  rnd    : Nat
  block  : Nat
  compute : Bool
  seed   : W32
  ndim   : Nat
  kdim   : Nat
  ext    : List Nat
  stride : List W64
  box    : List Nat
  pad    : W32
  sbase  : W64
  cpitch : Nat
  cpitch2 : Nat
  deriving DecidableEq, Repr

/-- 09, 15 R276, 22 R361: what a copy is. -/
inductive CopyKind where
  | cpg | cps | cpm | cpx (pull : Bool) | gconv
  deriving DecidableEq, Repr

/-- 09 R184: where the core side of a copy is. -/
inductive CoreSide where
  | window (off : Nat)
  | tray (t : Nat)
  | plane (p : Nat)
  deriving DecidableEq, Repr

/-- 11 R204: what a multicast position decided. -/
inductive Decision where
  | accept (block slot : Nat)
  | refuse (reason : Nat)
  deriving DecidableEq, Repr

/-- 09 R186: a copy (or a conversion of 15 R276) in flight: `next` is the first element not yet landed, `bytes` the BITS
landed on the core side of one receiver, `cross` whether it has crossed dies; of a `cpx` (22 R361, R362) the
record `remote`, with which status, after how many elements, the peer ends it, and what its free bytes are drawn by. -/
structure CopyOp where
  id      : Nat
  kind    : CopyKind
  strand  : Nat
  block   : Nat
  core    : Nat
  vd      : Nat
  priv    : Nat
  lay     : Layout
  origin  : List Int
  side    : CoreSide
  desc    : W64
  bar     : Option Nat
  arr     : Bool
  gen     : Option Nat
  cw      : Option Nat
  next    : Nat
  bytes   : Nat
  status  : Nat
  tval    : W64
  taddr   : W64
  slot    : Option Nat
  decided : List Decision
  stream  : Bool
  issuedAt : Nat
  waiting : Option LaneWait
  finished : Bool
  rawn    : Nat
  remote  : List Byte
  remoteEnd : Option (Nat × Nat)
  cross   : Bool
  drawn   : Nat := 0
  deriving DecidableEq, Repr

/-- 09 R176: a matrix operation in flight; `queues` holds PQ and NQ of the elements of the tile by index
128 x row + column, oldest first; `arrivals` the partials on their way to the column stages: row, column, value. -/
structure MxOp where
  id      : Nat
  block   : Nat
  members : List Nat
  mmac    : Bool
  acc     : Nat
  plane   : Nat
  tray    : Nat
  kcnt    : Nat
  t       : Bool
  s       : Bool
  p       : Bool
  started : Bool
  next    : Nat
  drained : Nat
  queues  : List (Nat × List Int × List Int)
  arrivals : List (Nat × Nat × Int)
  rovf    : List Nat
  fault   : Option BatchFault
  issuedAt : Nat
  done    : Bool
  deriving DecidableEq, Repr

/-- 12 R216 to R220: where a sow is; `abroad` on its way to a peer package, none the root of a bed that a peer holds. -/
inductive SowPhase where
  | held | climbing | descending | parked | queued | abroad (peer : Option Nat) | ended
  deriving DecidableEq, Repr

/-- 12 R218: a sow: `fromCore` while it has started at its sender's core (R216), `bounced` the child that it bounced from,
`returned` once it has come back from an ended block, `gone` when its bed was absent or has been deleted, `foreign` the peer package
that sent it (22 R364), `accepted` once a peer has reported that a block there has it in its take queue, `result` how it has ended while
its completion waits in the event buffer of its core (11 R210): the status and the core that took it. -/
structure SowOp where
  id      : Nat
  bed     : BitVec 32
  vd      : Nat
  strand  : Nat
  block   : Nat
  core    : Nat
  priv    : Nat
  scope   : BitVec 3
  payload : List W64
  unord   : Bool
  cw      : Option Nat
  node    : TreeNode
  fromCore : Bool
  bounced : Option TreeNode
  phase   : SowPhase
  bounces : Nat
  parked  : Bool
  returned : Bool
  gone    : Bool
  foreign : Option (BitVec 128)
  accepted : Bool := false
  result  : Option (Nat × Option Nat) := none
  deriving DecidableEq, Repr

/-- 12 R215: a report on its way to the parent: the child, when its report slot serves it, the count. -/
structure Report where
  node : TreeNode
  slot : Nat
  count : Nat
  deriving DecidableEq, Repr

/-- 12 R212 to R219: an entry of the bed table: the descriptor, the root as a node, the parents' copies of their children's
counts, the reports on their way, the round-robin pointers, the cold frame oldest first, the cold capacities that sows issued before a
change of it still meet (R229: the first sow issued after the change, the capacity before); `foreign` is the peer package that holds the root of a bed
that it has registered here (22 R363). -/
structure Bed where
  number  : BitVec 32
  scope   : Nat
  unord   : Bool
  cold    : Nat
  handler : W64
  part    : Nat
  root    : TreeNode
  copies  : List (TreeNode × Nat)
  pointers : List (TreeNode × Nat)
  frame   : List Nat
  reports : List Report
  colds   : List (Nat × Nat)
  foreign : Option (BitVec 128)
  deriving DecidableEq, Repr

/-! ## Virtual devices, translation -/

/-- 19 R321, R322: a page request: page of the VA or IPA, access code, virtual device, id; `popped` once a supervisor has read
it. -/
structure PageReq where
  page   : Nat
  acc    : Nat
  vd     : Nat
  id     : Nat
  popped : Bool
  deriving DecidableEq, Repr

/-- 19 R319: a complete translation in a TLB: where it stands, its tag, the page's first input address and size, the first
physical address, attributes of both stages together, when it was last used, whether its ECC check failed (R330), and how many of its first
bytes have an IPA below ipalim (R314). -/
structure TlbEntry where
  place  : TreeNode
  fabric : Bool
  vd     : Nat
  hyper  : Bool
  va     : Nat
  size   : Nat
  pa     : Nat
  r      : Bool
  w      : Bool
  x      : Bool
  u      : Bool
  raw    : Bool
  discard : Bool
  used   : Nat
  bad    : Bool
  reach  : Nat := 2 ^ 64
  deriving DecidableEq, Repr

/-- A leaf of one stage: the output of the page's first byte, its size, its attributes (19 R316). -/
structure Leaf where
  oa      : Nat
  size    : Nat
  r       : Bool
  w       : Bool
  x       : Bool
  u       : Bool
  raw     : Bool
  discard : Bool
  deriving DecidableEq, Repr

/-- 19 R319: an entry of a die's walk caches: its tag, its level, the input addresses it covers, and the next table or (stage 2
alone) the leaf; when it was last used, and whether its ECC check failed (R330). -/
structure WalkEntry where
  die    : Nat
  stage2 : Bool
  vd     : Nat
  hyper  : Bool
  level  : Nat
  first  : Nat
  size   : Nat
  table  : Nat
  leaf   : Option Leaf
  used   : Nat
  bad    : Bool
  deriving DecidableEq, Repr

/-- 21 R339, R343: a measurement ring. -/
structure Ring where
  base   : W64
  size   : Nat
  head   : Nat
  drops  : Nat
  half   : Bool
  dropping : Bool
  deriving DecidableEq, Repr

/-- 21 R343, R344: the measurement unit of a partition; `snapReq` while a requested snapshot has not been written, `snapAt` when the next
periodic one is due. -/
structure Measure where
  select : Vector (BitVec 9) 32
  count  : Vector (BitVec 48) 32
  enable : W32
  sen    : Bool
  een    : Bool
  k      : Nat
  snapj  : Nat
  snapReq : Bool
  snapAt : Option Nat
  sample : Ring
  event  : Ring
  notices : List W64
  deriving DecidableEq, Repr

/-- 22 R355, R358: a memory window. -/
structure Window where
  num   : Nat
  base  : W64
  size  : W64
  r     : Bool
  w     : Bool
  any   : Bool
  peer  : BitVec 128 × Nat
  cmd   : List Byte
  deriving DecidableEq, Repr

/-- 22 R363, R365: a listed peer; `reachable` is false after R365. -/
structure Peer where
  idx   : Nat
  addr  : BitVec 128
  vd    : Nat
  cmd   : List Byte
  reachable : Bool
  deriving DecidableEq, Repr

/-- 17 R294: a completion record that waits to be written. -/
structure Completion where
  die   : Nat
  time  : W64
  tag   : W32
  node  : BitVec 16
  queue : BitVec 16
  inst  : W32
  status : Nat
  cause : Nat
  place : BitVec 14
  nfault : Nat
  relaunch : Nat
  deriving DecidableEq, Repr

/-- 19 R310 to R313: a virtual device and everything that is kept by virtual device; `owed` while a ring-head notification could not be
delivered (22 R359), `mailHeld` while the oldest outbound doubleword could not (R360). -/
structure VDev where
  num      : Nat
  enabled  : Bool
  mgmt     : Bool
  s2root   : W64
  s1root   : W64
  ipalim   : W64
  x0       : Nat
  y0       : Nat
  width    : Nat
  height   : Nat
  gquota   : Nat
  slice    : Nat
  shared   : W64
  cmd      : List Byte
  windows  : List Window
  ringBase : W64
  ringCount : Nat
  ringHead : Nat
  held     : List Completion
  notifyTo : List Byte
  notifyN  : Nat
  notifyT  : Nat
  sinceN   : Nat
  sinceAt  : Option Nat
  owed     : Bool
  mailHeld : Bool
  mailIn   : List W64
  mailOut  : List W64
  pageReqs : List PageReq
  faultQ   : List W64
  heldFaults : List (List W64)
  measure  : Measure
  peers    : List Peer
  debug    : Bool
  microVds : W64
  discarded : Nat
  stray    : Nat
  deriving DecidableEq, Repr

/-! ## The scheduler (17) -/

/-- 17 R281: an accepted message: its bytes, when it was accepted, the privilege level of its sender. -/
structure Message where
  bytes : List Byte
  at_   : Nat
  priv  : Nat
  deriving DecidableEq, Repr

/-- 17 R280: an assigned work queue. -/
structure WorkQueue where
  num   : Nat
  vd    : Nat
  vnum  : Nat
  priv  : Nat
  cmd   : List Byte
  msgs  : List Message
  deriving DecidableEq, Repr

/-- 17 R293: an entry of a die's launch table: `recBlock` is the index of its record block in the scheduler's SRAM; of `total` groups, `next` is the first that has no task record yet, `left` have
not ended. -/
structure Launch where
  idx    : Nat
  die    : Nat
  vd     : Nat
  header : List Byte
  trays  : List Byte
  chans  : List Byte
  args   : List W64
  recs   : List (List Byte)
  recBlock : Nat
  ext    : List Nat
  tag    : W32
  queue  : Option Nat
  node   : Option (Nat × Nat)
  inst   : Nat
  priv   : Nat
  priority : Nat
  debug  : Bool
  total  : Nat
  next   : Nat
  left   : Nat
  readyAt : Nat
  failed : Bool
  cause  : Nat
  place  : BitVec 14
  nfault : Nat
  relaunches : Nat
  deriving DecidableEq, Repr

/-- 17 R293: the task record of a group; `age` is what it had waited when it was last placed (R282), `cls` its resource class once it has
one (R291). -/
structure Task where
  id       : Nat
  launch   : Nat
  die      : Nat
  isRelaunch : Bool
  relaunch : Nat
  inst     : Nat
  wid      : List Nat
  recs     : Nat
  nrec     : Nat
  ofRecords : Bool
  cls      : Option Nat
  readyAt  : Nat
  priority : Nat
  age      : Nat
  placed   : Bool
  blocksLeft : Nat
  failed   : Option Nat
  place    : BitVec 14
  nfault   : Nat
  deriving DecidableEq, Repr

/-- What a block, or a group's every block, takes of a core (07 R128). -/
structure Need where
  slots  : Nat
  vregs  : Nat
  bytes  : Nat
  tiles  : Nat
  planes : Nat
  trays  : Nat
  bars   : Nat
  chans  : Nat
  depth  : Nat
  deriving DecidableEq, Repr

/-- 17 R291: a resource class of a die and its bed: the block's take, the group size, the protected flag; the offers that its leaves
hold, the parents' copies of their children's counts, the reports on their way, the round-robin pointers. -/
structure ClassBed where
  die    : Nat
  num    : Nat
  need   : Need
  ext    : Nat
  prot   : Bool
  offers : List (TreeNode × Nat)
  copies : List (TreeNode × Nat)
  reports : List Report
  pointers : List (TreeNode × Nat)
  deriving DecidableEq, Repr

/-- 17 R286 to R290: a graph node: its queue of records (bytes, arrival, emitting strand), the instances that wait for room in
the launch table (number, since when, records), those that run. -/
structure Node where
  die    : Nat
  idx    : Nat
  vd     : Nat
  header : W64
  pred   : Nat
  thresh : Nat
  flush  : Nat
  nsucc  : Nat
  rearm  : Bool
  succ   : List (BitVec 16)
  args   : List W64
  priv   : Nat
  counter : Nat
  recs   : List (List Byte × Nat × Nat)
  insts  : Nat
  waiting : List (Nat × Nat × List (List Byte))
  running : Nat
  failed : Bool
  done   : Bool
  cause  : Nat
  place  : BitVec 14
  nfault : Nat
  relaunches : Nat
  deriving DecidableEq, Repr

/-- 11 R201: a cluster barrier unit of a group: the strands that have arrived, when the first of the phase did, those released,
those the time-out ended, whether a strand of the group has halted, and since when its clock stands still. -/
structure GroupBarrier where
  group    : Nat
  arrived  : List Nat
  firstAt  : Option Nat
  stoppedAt : Option Nat
  released : List Nat
  timedOut : List Nat
  halted   : Bool
  deriving DecidableEq, Repr

/-- 11 R199, R208, R210: what a cluster is doing. -/
inductive ClusterState where
  | online | swapping | resetting (at_ : Nat) | offline | draining (at_ : Nat)
  deriving DecidableEq, Repr

/-- A cluster that is not plainly online, or whose spare is used, or that is time-shared: 11 R198, R208, R210, 17 R297. -/
structure Cluster where
  id     : Nat
  state  : ClusterState
  spare  : Option Nat
  withdrawn : Bool
  context : Option Nat
  incoming : Option Nat
  sliceAt : Nat
  drainedAt : Nat
  debts  : List (Nat × Nat)
  deriving DecidableEq, Repr

/-- 13 R236, R240, R242, 19 R332: a die's carve, spares (slice, channel, rows, crossbar wires, SRAM redundancy rows), corrected-error
count, and the units that are retired (kind 1 a slice, 2 a channel; number). -/
structure DieUnits where
  carve     : Nat
  slice     : Option Nat
  channel   : Option Nat
  copying   : Option Nat
  rows      : List Nat
  wires     : List Nat
  srams     : List Nat
  corrected : Nat
  rowErrors : List (Nat × Nat)
  retired   : List (Nat × Nat) := []
  deriving DecidableEq, Repr

/-- 19 R308, R309: a die-to-die link: the replays that failed in a row, all replays, the spare lanes of each direction, whether it
retrains, whether it is lost, the replay buffer of each direction (when each flit is acknowledged). -/
structure Link where
  fails    : Nat
  replays  : Nat
  sparesUp : Nat
  sparesDown : Nat
  retrain  : Bool
  lost     : Bool
  flitsUp  : List Nat
  flitsDown : List Nat
  deriving DecidableEq, Repr

/-- 22 R352, R353: a fabric port: its MAC address, whether its spare lane is in use, whether it runs at the remaining width, whether it
is in service. -/
structure Port where
  mac      : BitVec 48
  spare    : Bool
  narrowed : Bool
  inService : Bool
  deriving DecidableEq, Repr

/-- 19 R334: a die's dump region, part by part: the header (cause, time, die, the faulting unit), the strands with their active-mask
stacks and trap registers, the blocks with their windows, tiles, planes, channels, trays and barriers, near store, the scheduler's SRAM,
the sow tables, the page-request queues, the slice lines that were lost with their tags. -/
structure DumpRegion where
  cause   : Nat
  time    : Nat
  die     : Nat
  unit    : Nat
  strands : List Strand
  blocks  : List Block
  near    : List Host.Cell
  queues  : List WorkQueue
  launches : List Launch
  tasks   : List Task
  nodes   : List Node
  classes : List ClassBed
  beds    : List Bed
  sows    : List SowOp
  pageReqs : List PageReq
  lost    : List Nat
  deriving DecidableEq, Repr

/-- 23 R371: the five rails. -/
inductive Rail where
  | vaux | vsram | vcore | vdram | vser
  deriving DecidableEq, Repr

/-- The order in which they come up. -/
def railOrder : List Rail := [.vaux, .vsram, .vcore, .vdram, .vser]

/-- 23 R371 to R376, 22 R366: the management controller: the sideband fields, the throttle, the firmware. `rails` are up, in the order in which
they came up; `railLog` holds every rail that it has taken up (true) or down since power-on, in order; `thr` is the level of R373
alone; `minVersion` is the sealed blob's (22 R366); `image` is the firmware image that is at hand for verification, `dump` the dump regions of the dies (19 R334), `address` the
package's fabric address (22 R352), `lostTags` the slice lines whose tag was lost, `lostPeers` the packages that the fabric units do not
reach (22 R365). -/
structure Control where
  temp     : BitVec 8
  thr      : Nat
  pwr      : BitVec 12
  alarm    : Bool
  fatal    : Bool
  nofw     : Bool
  ready    : Bool
  rails    : List Rail
  railLog  : List (Bool × Rail)
  overLimit : List Nat
  hot      : Bool
  stopped  : Bool
  minVersion : Nat
  version  : Nat
  image    : Option FirmwareImage
  firmware : Option (BitVec 512)
  dump     : List DumpRegion
  address  : BitVec 128
  lostTags : List Nat
  lostPeers : List (BitVec 128)
  deriving DecidableEq, Repr

/-- 22 R355, R356: a device operation that waits: for a page (19 R321), or for an earlier one of its connection; `next` bytes have
been performed, by the die that received its packet number `packet`; `kind` is the operation's number in R354. -/
structure HostWait where
  kind    : Nat
  op      : HostOp
  die     : Nat
  next    : Nat
  data    : List Byte
  wait    : Option LaneWait
  invalid : Bool
  packet  : Nat := 0
  deriving DecidableEq, Repr

/-- What leaves the package (22 R354, R359, R362, R363; 23 R375); `retired` reports a unit without a spare, 0 a core, 1 a slice, 2 a
channel, 3 a port (19 R332, 22 R353); `register` asks a listed peer to take a bed number for the bed of a device `vd`, `registered` answers such a registration (22 R363), `sowEnd`
reports how a peer's sow ended, `sowAccepted` that it stands in a take queue (22 R364), `dump` serves a dump region (19 R333). -/
inductive OutMsg where
  | code (op : Nat) (vd : Nat) (code : Nat) (data : List Byte)
  | notice (vd : Nat) (endpoint : List Byte) (kind : Nat) (value : W64)
  | remote (vd : Nat) (addr : BitVec 128) (peerVd window offset : Nat) (bytes : List Byte)
  | register (addr : BitVec 128) (peerVd : Nat) (bed : BitVec 32) (vd : Nat)
  | sow (addr : BitVec 128) (bed : BitVec 32) (payload : List W64)
  | ready (addr : BitVec 128) (bed : BitVec 32) (count : Nat)
  | alarm
  | sowEnd (addr : BitVec 128) (bed : BitVec 32) (status : Nat)
  | fatal (cause : Nat)
  | dump (region : DumpRegion)
  | retired (kind die unit : Nat)
  | registered (addr : BitVec 128) (peerVd : Nat) (bed : BitVec 32) (taken : Bool)
  | sowAccepted (addr : BitVec 128) (bed : BitVec 32)
  deriving DecidableEq, Repr

/-- An event that is due: when, in eighths of a ns, and which. -/
structure Due where
  at_ : Nat
  ev  : Instr
  deriving DecidableEq, Repr

/-! ## What an effect answers -/

/-- 02 R53: a trap: its cause, TVAL, the lanes of TLANES, TADDR; `word` where TPC is the word itself whatever hints stand before it
(`trap` and `brk`). -/
structure Trap where
  cause : Cause
  tval  : W64
  lanes : W32
  taddr : W64
  word  : Bool := false
  deriving DecidableEq, Repr

/-! ## The package -/

/-- The whole package. -/
structure State where
  now      : Nat
  me       : Strand
  blk      : Block
  core     : Core
  strands  : List Strand
  blocks   : List Block
  cores    : List Core
  agenda   : List Due
  free     : Nat
  nextId   : Nat
  dram     : List Host.Cell
  slices   : List SliceLine
  poison   : List Nat
  graftLog : List (Nat × List W64)
  dies     : Vector DieUnits 4
  links    : Vector Link 6
  ports    : Vector Port 8
  clusters : List Cluster
  groupBars : List GroupBarrier
  images   : List Image
  bindings : List Binding
  xd       : Option XdRun
  copies   : List CopyOp
  mxops    : List MxOp
  sows     : List SowOp
  beds     : List Bed
  vds      : List VDev
  stage2   : List PageReq
  pkgFaults : List W64
  tlb      : List TlbEntry
  walks    : List WalkEntry
  uses     : Nat
  queues   : List WorkQueue
  launches : List Launch
  tasks    : List Task
  nodes    : List Node
  classes  : List ClassBed
  control  : Control
  hostOps  : List HostWait
  outbox   : List OutMsg
  deriving DecidableEq, Repr

/-! ## Reset -/

def Batches.init : Batches := { last := 0, batches := [], unsealed := [] }

def Hints.none : Hints := { first := .none, ximm := .none, mem := .none, mod := .none }

/-- A vector of 32 equal lanes. -/
def Vec.splat (x : W32) : Vec := Vector.replicate 32 x

/-- 02 R38: a strand as at launch, before the launch's own values are put in; as it stands here, the idle strand that the
focus holds while no strand is resident (log entry 1). -/
def Strand.init : Strand :=
  { id := 0, block := 0, run := .free, pc := 0, s := Vector.replicate 64 0, v := Vector.replicate 64 (Vec.splat 0),
    m := #v[0xFFFFFFFF#32, 0, 0, 0, 0, 0, 0, 0], stack := [], near := 0, mx := .init, cp := .init, sw := .init,
    tpc := 0, tcause := 0, tlanes := 0, taddr := 0, tval := 0, fmt := Vector.replicate 8 0, gang := 0, sowfrom := 0,
    rm := 0, chk := false, prot := false, tmasked := false, wid := 0, slot := 0, role := 0, kind := 3, budget := 0,
    priv := 0, handler := false, launchAt := 0, hints := .none, stall := [], pending := [], readyAt := 0, issuedAt := 0,
    tretMask := none, wake := false, wait := .none, reason := 0, memWait := none, flight := none, spin := false,
    matched := false, pcMatch := Vector.replicate 4 { addr := 0, enable := false }, fetch := [],
    issuedPc := 0, lastIssue := 0, issued := false, latch := [], shadow := 0, peerStores := 0,
    overrun := false, stepping := false, stopPc := 0, corrupt := [] }

/-- A block that holds nothing; the focus holds it while no strand is resident. -/
def Block.init : Block :=
  { id := 0, core := 0, index := 0, vd := 0, die := 0, launch := 0, group := 0, pos := 0, groupX := 0, groupY := 0,
    extent := 1, handler := 0, widf := 0, prot := false, chk := false, relaunch := false, sampleOn := false, eventOn := false,
    timeout := 2 ^ 24, priority := 0, hasNode := none, launchAt := 0, windowSize := 0, window := [], tiles := [],
    planes := [], trays := [], channels := [], barriers := [], latch := none, offers := [], phase := .running,
    held := false, debug := false, failed := none, nfault := 0, firstPlace := 0, stopAt := 0, frozenAt := 0, corrupt := [],
    rounds := [] }

/-- An idle core: an empty L1 (11 R199). -/
def Core.init (id : Nat) : Core :=
  { id := id, valid := [], clean := [], dirty := [], useTags := [], used := [], corrupt := [], nt := [], packets := [], records := [],
    trayGens := [], lastSampled := 31, copyAt := 0, events := [] }

/-- 08 R157: a tile at launch. -/
def Tile.init : Tile := { elems := [], poison := [], g := 0, d := 28, rcount := 0 }

/-- A plane that no copy has written (log entry 1). -/
def Plane.init : Plane := { bytes := [], ptype := 0, fmt := 0, block := 0, scales := [], corrupt := [] }

/-- A tray of a block whose launch gave it no descriptor (log entry 6). -/
def Tray.init : Tray :=
  { base := 0, slot := 64, nslot := 1, atype := 3, afmt := 0, scale := 0, stream := false, kslot := 0, layout := 0,
    step := 0, count := 0, head := 0, tail := 0, free := 1, res := 0, filled := 0, landed := [], gen := 1, fetched := 0, unit := 0 }

/-- A channel that is not bound (02 R38). -/
def Channel.init : Channel :=
  { depth := 8, entries := [], reader := none, writer := none, readerClosed := false, writerClosed := false }

/-- 07 R144: no arrivals. -/
def Barrier.init : Barrier := { arrived := [], firstAt := none, released := [], timedOut := [] }

/-- 21 R343: a measurement unit at its reset values. -/
def Ring.init : Ring := { base := 0, size := 0, head := 0, drops := 0, half := false, dropping := false }

def Measure.init : Measure :=
  { select := Vector.replicate 32 0, count := Vector.replicate 32 0, enable := 0, sen := false, een := false, k := 6,
    snapj := 0, snapReq := false, snapAt := none, sample := .init, event := .init, notices := [] }

def DieUnits.init : DieUnits :=
  { carve := 0, slice := none, channel := none, copying := none, rows := [], wires := [], srams := [], corrected := 0, rowErrors := [] }

/-- Whether every rail is up. -/
def Control.railsOn (c : Control) : Bool := decide (c.rails = railOrder)

/-- 23 R371: a rail comes up, or goes down. -/
def Control.railUp (r : Rail) (c : Control) : Control := { c with rails := c.rails ++ [r], railLog := c.railLog ++ [(true, r)] }
def Control.railDown (c : Control) (r : Rail) : Control :=
  { c with rails := c.rails.filter (fun x => decide (x ≠ r)), railLog := c.railLog ++ [(false, r)] }

/-- The rails that are up go down in the reverse order. -/
def Control.railsDown (c : Control) : Control := c.rails.reverse.foldl Control.railDown c

/-- 23 R375: the sideband fields at their reset values; the rails are down, no image is at hand (log entry 1). -/
def Control.init : Control :=
  { temp := 0, thr := 0, pwr := 0, alarm := false, fatal := false, nofw := false, ready := false, rails := [], railLog := [],
    overLimit := [], hot := false, stopped := false, minVersion := 0, version := 0, image := none, firmware := none,
    dump := [], address := 0, lostTags := [], lostPeers := [] }

/-- The package before bring-up step 1 (23 R375, R376): VAUX is about to come up, no virtual device is configured, no strand is
resident, no byte of memory has been written (log entries 1, 4, 6). -/
def State.reset : State :=
  { now := 0, me := .init, blk := .init, core := .init 0, strands := [], blocks := [], cores := [],
    agenda := [{ at_ := 0, ev := .powerOn }], free := 0, nextId := 1, dram := [], slices := [], poison := [], graftLog := [], dies := Vector.replicate 4 .init,
    links := Vector.replicate 6 { fails := 0, replays := 0, sparesUp := 2, sparesDown := 2, retrain := false, lost := false, flitsUp := [], flitsDown := [] },
    ports := Vector.replicate 8 { mac := 0, spare := false, narrowed := false, inService := true },
    clusters := [], groupBars := [], images := [], bindings := [], xd := none, copies := [], mxops := [], sows := [],
    beds := [], vds := [], stage2 := [], pkgFaults := [], tlb := [], walks := [], uses := 0, queues := [], launches := [],
    tasks := [], nodes := [], classes := [], control := .init, hostOps := [], outbox := [] }

/-- How the effect of a word ends: the strand goes on at the next word or at another PC (`cost` is the least distance in ac
to its next issue, 03 R57); it traps (02 R53); it stays at the word and waits with a stall reason (21 R342); or it issues
nothing further by itself. -/
inductive Result where
  | done (s : State)
  | jump (pc : W64) (cost : Nat) (s : State)
  | trap (t : Trap) (s : State)
  | stall (reason : Nat) (s : State)
  | ended (s : State)
  deriving DecidableEq, Repr

end Sys2Proof.Machine
end

