-- ==== Sys2Proof/Machine/Ops.lean ====
section
/-!
DEFINITION. Sys2Proof/Machine/Ops.lean: the named operations that the meanings share.

Bytes and sparse memory in canonical form; lanes; the lists of strands, blocks, cores and virtual devices; the focus;
what becomes due; places; fault records; taking a trap, halting, breakpoints and the return from a trap (02 R51 to R56).
-/

namespace Sys2Proof.Machine

/-! ## Numbers and bytes -/

/-- Bit i of a bit vector, as a Bool; false past its width. -/
def bit {n : Nat} (x : BitVec n) (i : Nat) : Bool := x.getLsbD i

/-- x[hi:lo] as a number (00 R6). -/
def slice {n : Nat} (x : BitVec n) (hi lo : Nat) : Nat := x.toNat / 2 ^ lo % 2 ^ (hi + 1 - lo)

/-- x[hi:lo] of a number. -/
def nslice (x hi lo : Nat) : Nat := x / 2 ^ lo % 2 ^ (hi + 1 - lo)

/-- The n low bytes of a number, lowest address first (00 R6). -/
def natBytes : Nat → Nat → List Byte
  | 0, _ => []
  | n + 1, x => BitVec.ofNat 8 x :: natBytes n (x / 256)

/-- The number that bytes hold, lowest address first (00 R6). -/
def bytesNat : List Byte → Nat
  | [] => 0
  | b :: r => b.toNat + 256 * bytesNat r

/-- ceil(a / b). -/
def ceilDiv (a b : Nat) : Nat := (a + b - 1) / b

/-- A field of a record's bytes: `size` bytes at `off`, little-endian; bytes past the end read 0. -/
def recField (bs : List Byte) (off size : Nat) : Nat := bytesNat ((bs.drop off).take size)

/-- The two's-complement reading of the low n bits of a number. -/
def signedOf (n x : Nat) : Int :=
  let y := x % 2 ^ n
  if y < 2 ^ (n - 1) then (y : Int) else (y : Int) - (2 ^ n : Nat)

/-- Doublewords as bytes, and bytes as doublewords. -/
def dwordsBytes (ws : List W64) : List Byte := ws.flatMap (fun w => natBytes 8 w.toNat)

def bytesDwords : Nat → List Byte → List W64
  | 0, _ => []
  | n + 1, bs => BitVec.ofNat 64 (bytesNat (bs.take 8)) :: bytesDwords n (bs.drop 8)

/-! ## Sparse memory -/

/-- Memory as a list of cells; an address that is not listed reads 0 (log entry 4). -/
abbrev Memory := List Host.Cell

/-- The canonical form: addresses strictly rise and no listed byte is 0. -/
def Memory.wf : Memory → Bool
  | [] => true
  | [(_, b)] => b != 0
  | (a, b) :: (a', b') :: r => b != 0 && decide (a < a') && Memory.wf ((a', b') :: r)

def Memory.get : Memory → Nat → Byte
  | [], _ => 0
  | (x, b) :: r, a => if x = a then b else Memory.get r a

def Memory.set : Memory → Nat → Byte → Memory
  | [], a, b => if b = 0 then [] else [(a, b)]
  | (x, c) :: r, a, b =>
    if a < x then (if b = 0 then (x, c) :: r else (a, b) :: (x, c) :: r)
    else if a = x then (if b = 0 then r else (a, b) :: r)
    else (x, c) :: Memory.set r a b

def Memory.read (m : Memory) (a : Nat) : Nat → List Byte
  | 0 => []
  | n + 1 => Memory.get m a :: Memory.read m (a + 1) n

def Memory.write (m : Memory) (a : Nat) : List Byte → Memory
  | [] => m
  | b :: r => Memory.write (Memory.set m a b) (a + 1) r

/-- Makes the n bytes from a read as unlisted. -/
def Memory.clear (m : Memory) (a n : Nat) : Memory := m.filter (fun c => decide (c.1 < a ∨ a + n ≤ c.1))

/-- Presence maps (dirty bytes): a listed byte is present, whatever its value; addresses strictly rise. -/
def Cells.find : List Host.Cell → Nat → Option Byte
  | [], _ => none
  | (x, b) :: r, a => if x = a then some b else Cells.find r a

def Cells.put : List Host.Cell → Nat → Byte → List Host.Cell
  | [], a, b => [(a, b)]
  | (x, c) :: r, a, b =>
    if a < x then (a, b) :: (x, c) :: r
    else if a = x then (a, b) :: r
    else (x, c) :: Cells.put r a b

def Cells.putAll (m : List Host.Cell) (a : Nat) : List Byte → List Host.Cell
  | [] => m
  | b :: r => Cells.putAll (Cells.put m a b) (a + 1) r

/-- A set of numbers as a list that strictly rises. -/
def setInsert : List Nat → Nat → List Nat
  | [], a => [a]
  | x :: r, a => if a < x then a :: x :: r else if a = x then x :: r else x :: setInsert r a

/-- The value of a key in an association list. -/
def lookupD {α : Type} (l : List (Nat × α)) (k : Nat) (d : α) : α :=
  match l with
  | [] => d
  | (x, v) :: r => if x = k then v else lookupD r k d

/-- Sets the value of a key in an association list. -/
def assocSet {α : Type} (l : List (Nat × α)) (k : Nat) (v : α) : List (Nat × α) :=
  match l with
  | [] => [(k, v)]
  | (x, w) :: r => if x = k then (k, v) :: r else (x, w) :: assocSet r k v

/-- Rewrites the members of a list that a test picks. -/
def updIf {α : Type} (p : α → Bool) (f : α → α) (l : List α) : List α := l.map (fun x => if p x then f x else x)

/-- Rewrites member n of a list. -/
def updAt {α : Type} (l : List α) (n : Nat) (f : α → α) : List α :=
  match l, n with
  | [], _ => []
  | x :: r, 0 => f x :: r
  | x :: r, k + 1 => x :: updAt r k f

/-! ## Lanes -/

/-- Element L of a vector of 32 lanes. -/
def Vec.lane (v : Vec) (L : Nat) : W32 := v[L]?.getD 0

/-- The vector whose lane L holds f L. -/
def Vec.tab (f : Nat → W32) : Vec := ⟨((List.range 32).map f).toArray, by simp⟩

/-- A mask from a test of each lane. -/
def maskOf (p : Nat → Bool) : W32 :=
  BitVec.ofNat 32 ((List.range 32).foldl (fun acc L => if p L then acc + 2 ^ L else acc) 0)

/-- The lanes that a mask names, lowest first. -/
def lanesOf (m : W32) : List Nat := (List.range 32).filter (fun L => bit m L)

/-- The bytes of a vector or channel entry, and back. -/
def Vec.bytes (v : Vec) : List Byte := (List.range 32).flatMap (fun L => natBytes 4 (Vec.lane v L).toNat)

def Vec.ofBytes (bs : List Byte) : Vec := Vec.tab (fun L => BitVec.ofNat 32 (recField bs (4 * L) 4))

/-! ## The lists of the package -/

/-- Rewrites the strand that issues. -/
def State.mapMe (f : Strand → Strand) (s : State) : State := { s with me := f s.me }

def State.mapBlk (f : Block → Block) (s : State) : State := { s with blk := f s.blk }

def State.mapCore (f : Core → Core) (s : State) : State := { s with core := f s.core }

/-- The strand of an identity, in the focus or not. -/
def State.strand? (s : State) (id : Nat) : Option Strand :=
  if s.me.id = id then some s.me else s.strands.find? (fun t => t.id == id)

/-- Rewrites the strands that a test picks. -/
def State.mapStrands (p : Strand → Bool) (f : Strand → Strand) (s : State) : State :=
  { s with me := if p s.me then f s.me else s.me, strands := updIf p f s.strands }

def State.mapStrand (id : Nat) (f : Strand → Strand) (s : State) : State := s.mapStrands (fun t => t.id == id) f

/-- All resident strands. -/
def State.allStrands (s : State) : List Strand := (if s.me.run = .free then [] else [s.me]) ++ s.strands

def State.block? (s : State) (id : Nat) : Option Block :=
  if s.blk.id = id then some s.blk else s.blocks.find? (fun b => b.id == id)

def State.mapBlocks (p : Block → Bool) (f : Block → Block) (s : State) : State :=
  { s with blk := if p s.blk then f s.blk else s.blk, blocks := updIf p f s.blocks }

def State.mapBlock (id : Nat) (f : Block → Block) (s : State) : State := s.mapBlocks (fun b => b.id == id) f

def State.allBlocks (s : State) : List Block := (if s.blk.id = 0 then [] else [s.blk]) ++ s.blocks

/-- The strands of a block, in slot order as listed. -/
def State.strandsOf (s : State) (block : Nat) : List Strand := s.allStrands.filter (fun t => t.block == block)

def State.coreOf (s : State) (id : Nat) : Core :=
  if s.core.id = id then s.core else (s.cores.find? (fun c => c.id == id)).getD (Core.init id)

/-- Rewrites a core; a core that is not listed is idle and is listed from now on. -/
def State.mapCoreOf (id : Nat) (f : Core → Core) (s : State) : State :=
  if s.core.id = id then { s with core := f s.core }
  else if s.cores.any (fun c => c.id == id) then { s with cores := updIf (fun c => c.id == id) f s.cores }
  else { s with cores := f (Core.init id) :: s.cores }

def State.vd? (s : State) (n : Nat) : Option VDev := s.vds.find? (fun v => v.num == n)

def State.mapVd (n : Nat) (f : VDev → VDev) (s : State) : State := { s with vds := updIf (fun v => v.num == n) f s.vds }

/-- Rewrites a die's units. -/
def State.mapDie (die : Nat) (f : DieUnits → DieUnits) (s : State) : State :=
  { s with dies := s.dies.mapFinIdx (fun k d _ => if k = die then f d else d) }

def State.mapLink (link : Nat) (f : Link → Link) (s : State) : State :=
  { s with links := s.links.mapFinIdx (fun k d _ => if k = link then f d else d) }

def State.mapPort (port : Nat) (f : Port → Port) (s : State) : State :=
  { s with ports := s.ports.mapFinIdx (fun k d _ => if k = port then f d else d) }

/-! ## The focus -/

/-- Brings the block into the focus, with its core. -/
def State.focusBlock (id : Nat) (s : State) : State :=
  let s1 :=
    if s.blk.id = id then s
    else match s.blocks.find? (fun b => b.id == id) with
      | none => s
      | some b =>
        { s with blk := b,
                 blocks := (if s.blk.id = 0 then [] else [s.blk]) ++ s.blocks.filter (fun c => c.id != id) }
  if s1.core.id = s1.blk.core then s1
  else { s1 with core := s1.coreOf s1.blk.core,
                 cores := s1.core :: s1.cores.filter (fun c => c.id != s1.blk.core) }

/-- Brings a strand into the focus, with its block and its core. -/
def State.focus (id : Nat) (s : State) : State :=
  if s.me.id = id then s.focusBlock s.me.block
  else match s.strands.find? (fun t => t.id == id) with
    | none => s
    | some t =>
      { s with me := t,
               strands := (if s.me.run = .free then [] else [s.me]) ++ s.strands.filter (fun u => u.id != id)
      : State }.focusBlock t.block

/-! ## Time and what is due -/

/-- One ac, cc and ns in the ticks of State.now (00: ac 1.25 ns, cc 0.625 ns). -/
def acTicks : Nat := 10
def ccTicks : Nat := 5
def nsTicks : Nat := 8

/-- The package timer in ns (01 R29). -/
def State.timeNs (s : State) : W64 := BitVec.ofNat 64 (s.now / nsTicks)

/-- Makes an event due `dt` ticks from now. -/
def State.due (dt : Nat) (ev : Instr) (s : State) : State := { s with agenda := s.agenda ++ [{ at_ := s.now + dt, ev := ev }] }

/-- Makes an event due `dt` ticks from now, unless it is due by then already. -/
def State.dueOnce (dt : Nat) (ev : Instr) (s : State) : State :=
  if s.agenda.any (fun d => decide (d.ev = ev ∧ d.at_ ≤ s.now + dt)) then s else s.due dt ev

/-- Removes an event that no longer comes. -/
def State.undue (ev : Instr) (s : State) : State := { s with agenda := s.agenda.filter (fun d => !decide (d.ev = ev)) }

/-- A fresh identity. -/
def State.fresh (s : State) : Nat × State := (s.nextId, { s with nextId := s.nextId + 1 })

/-- The counter that the free values are applied to, and the state that has used it. -/
def State.draw (s : State) : Nat × State := (s.free, { s with free := s.free + 1 })

/-! ## Places (01 R19, R30; 11 R198; 19 R310) -/

/-- Logical cores are numbered ((die x 16 + cluster) x 8 + core), row-major at each level. -/
def coreDie (c : Nat) : Nat := c / 128
def coreCluster (c : Nat) : Nat := c / 8
def coreKx (c : Nat) : Nat := c % 4
def coreKy (c : Nat) : Nat := c % 8 / 4

/-- Package cluster coordinates (19 R311). -/
def clusterX (cl : Nat) : Nat := 4 * (cl / 16 % 2) + cl % 4
def clusterY (cl : Nat) : Nat := 4 * (cl / 32) + cl % 16 / 4

/-- The cluster at package coordinates. -/
def clusterAt (x y : Nat) : Nat := ((y / 4 * 2 + x / 4) * 16) + y % 4 * 4 + x % 4

/-- Whether a cluster lies in the rectangle of a virtual device. -/
def VDev.holds (v : VDev) (cl : Nat) : Bool :=
  decide (v.x0 ≤ clusterX cl ∧ clusterX cl < v.x0 + v.width ∧ v.y0 ≤ clusterY cl ∧ clusterY cl < v.y0 + v.height)

/-- PLACE[13:0] of core (kx, ky) of the cluster at (x, y), numbered from the corner (x0, y0). -/
def placeBits (x0 y0 x y kx ky : Nat) : BitVec 14 :=
  let dx := x / 4 - x0 / 4
  let dy := y / 4 - y0 / 4
  let cx := x - Nat.max x0 (x / 4 * 4)
  let cy := y - Nat.max y0 (y / 4 * 4)
  BitVec.ofNat 14 (dy % 2 * 8192 + dx % 2 * 4096 + cy % 4 * 1024 + cx % 4 * 256 + ky * 32 + kx)

/-- PLACE of a core, as its virtual device numbers it; the absolute place where no device holds it. -/
def State.placeOf (s : State) (vd core : Nat) : BitVec 14 :=
  let (x0, y0) := match s.vd? vd with
    | some v => (v.x0, v.y0)
    | none => (0, 0)
  placeBits x0 y0 (clusterX (coreCluster core)) (clusterY (coreCluster core)) (coreKx core) (coreKy core)

/-- The core that a PLACE value names in a virtual device's rectangle, if it lies in it. -/
def VDev.coreAt (v : VDev) (place : Nat) : Option Nat :=
  let dx := nslice place 12 12
  let dy := nslice place 13 13
  let x := (if dx = 0 then v.x0 else (v.x0 / 4 + dx) * 4) + nslice place 9 8
  let y := (if dy = 0 then v.y0 else (v.y0 / 4 + dy) * 4) + nslice place 11 10
  if x < 8 ∧ y < 8 ∧ v.holds (clusterAt x y) then
    some (clusterAt x y * 8 + nslice place 5 5 * 4 + nslice place 2 0)
  else none

/-- 01 R19: the six offsets of the place of `core` seen from `here`. -/
def placeOffset (here core : Nat) : BitVec 16 :=
  let f (w : Nat) (a b : Nat) : Nat := (((a : Int) - (b : Int)) % (2 ^ w : Nat)).toNat
  let d (c : Nat) := coreDie c
  let cl (c : Nat) := coreCluster c % 16
  BitVec.ofNat 16
    (f 2 (d core / 2) (d here / 2) * 8192 + f 2 (d core % 2) (d here % 2) * 2048
      + f 3 (cl core / 4) (cl here / 4) * 256 + f 3 (cl core % 4) (cl here % 4) * 32
      + f 2 (coreKy core) (coreKy here) * 8 + f 3 (coreKx core) (coreKx here))

/-! ## Fault records (19 R329) -/

/-- Word 0 of a record: the layout of 07 R145. -/
def recordWord (place : BitVec 14) (block kind words code : Nat) : W64 :=
  BitVec.ofNat 64 (place.toNat * 2 ^ 32 + block % 32 * 2 ^ 20 + kind % 16 * 2 ^ 16 + words % 256 * 256 + code % 256)

/-- 19 R329: a record of a partition is pushed whole, or waits while its queue lacks room. -/
def State.postFault (vd : Nat) (ws : List W64) (s : State) : State :=
  s.mapVd vd (fun v =>
    if v.heldFaults = [] ∧ v.faultQ.length + ws.length ≤ 256 then { v with faultQ := v.faultQ ++ ws }
    else { v with heldFaults := v.heldFaults ++ [ws] })

/-- 19 R329: a package record. -/
def State.postPackageFault (ws : List W64) (s : State) : State := { s with pkgFaults := s.pkgFaults ++ ws }

/-! ## The strand's masks and causes -/

/-- 01 R31. -/
def Cause.code : Cause → Nat
  | .none => 0x00 | .illegal => 0x01 | .privileged => 0x02 | .misaligned => 0x03 | .translation => 0x04
  | .permission => 0x05 | .poison => 0x06 | .decode => 0x07 | .stallcount => 0x08 | .maskstack => 0x09
  | .barrierTimeout => 0x0A | .matrixOverflow => 0x0B | .matrixWindow => 0x0C | .protectMismatch => 0x0D
  | .channel => 0x0E | .gang => 0x0F | .software => 0x10 | .breakpoint => 0x11 | .bed => 0x12 | .batch => 0x13
  | .format => 0x14 | .abandoned => 0x15

/-- LANES (01 R29, 02 R48). -/
def Strand.lanes (t : Strand) : Nat := if t.prot then 16 else 32

/-- 2^LANES - 1: the visible lanes. -/
def Strand.visible (t : Strand) : W32 := if t.prot then 0x0000FFFF#32 else 0xFFFFFFFF#32

/-- The active mask m0. -/
def Strand.m0 (t : Strand) : W32 := t.m[0]?.getD 0

/-- 02 R54: the mask a vector instruction runs under: m0, or m0 AND TLANES for the first instruction after `tret`. -/
def State.active (s : State) : W32 :=
  match s.me.tretMask with
  | some k => s.me.m0 &&& k
  | none => s.me.m0

/-- A trap that no lane completes (02 R52). -/
def State.trapAll (s : State) (c : Cause) (tval taddr : W64) : Trap :=
  { cause := c, tval := tval, lanes := s.me.visible, taddr := taddr }

/-! ## Wake events (03 R75) -/

/-- 03 R75: a wake event ends a sleep and is consumed by it; else it sets the wake flag. -/
def Strand.woken (t : Strand) : Strand :=
  if t.wait = .sleeping then { t with wait := .none, reason := 0 } else { t with wake := true }

def State.wakeStrands (p : Strand → Bool) (s : State) : State := s.mapStrands p Strand.woken

/-! ## Block completion (03 R70) -/

def Strand.over (t : Strand) : Bool := decide (t.run = .exited ∨ t.run = .halted)

/-- Whether every strand has ended, every engine operation has completed and every vstnt has been performed. -/
def State.blockDone (s : State) (b : Nat) : Bool :=
  (s.strandsOf b).all Strand.over
    && s.copies.all (fun c => c.block != b || c.finished || c.stream)
    && s.mxops.all (fun m => m.block != b || m.done)
    && s.sows.all (fun o => o.block != b || decide (o.phase = .ended))
    && (s.strandsOf b).all (fun t => (s.core :: s.cores).all (fun c => c.nt.all (fun e => e.strand != t.id)))

/-- Makes BLOCK_COMPLETE due once the last strand has ended (12 R222) and once the block is done. -/
def State.checkBlock (b : Nat) (s : State) : State :=
  if (s.strandsOf b).all Strand.over then s.dueOnce 0 (.blockComplete b) else s

/-! ## Taking a trap, halting, returning (02 R53 to R56) -/

/-- 02 R53 step 1: the fixed-latency results of the strand are written before it goes on; its next word issues in a later ac (02
R39, 03 R57). -/
def State.settle (s : State) : State :=
  s.mapMe (fun t => { t with readyAt := t.pending.foldl (fun m p => Nat.max m p.ready) (Nat.max t.readyAt (s.now + acTicks)), pending := [] })

/-- The state of the strand that one instruction holds while it runs, put back to nothing. -/
def Strand.clearInstr (t : Strand) : Strand :=
  { t with issued := false, latch := [], memWait := none, flight := none, wait := .none, tretMask := none }

/-- 01 R24, 02 R53: TPC names the trapping instruction, or the first modifying hint before it.  A fetch fault (01 R12) that pending
hints stand before is read so too: TADDR then holds the unfetchable address (log entry 41). -/
def Strand.trapPc (t : Strand) : W64 := t.hints.first.getD t.pc

/-- TPC of a trap: `trap` and `brk` give the word itself (02 R53, 03 R71). -/
def Trap.pc (x : Trap) (t : Strand) : W64 := if x.word then t.pc else t.trapPc

/-- The trap registers of an entry or a halt (02 R53 step 2). -/
def Strand.setTrap (x : Trap) (t : Strand) : Strand :=
  { t with tpc := x.pc t, tcause := BitVec.ofNat 8 x.cause.code, tlanes := x.lanes &&& t.visible, taddr := x.taddr,
           tval := x.tval }

/-- 02 R56: the strand halts: it issues nothing further, a record is posted, the block has failed.  Siblings that wait for
it find it halted when they next try (ABANDONED).  NESTED is set for every halt of a strand whose traps are masked, those that
02 R55 excepts and the causes that only report among them: the model's choice (log entry 60). -/
def State.halt (x : Trap) (s : State) : State :=
  let s := s.settle
  let t := s.me
  let word := recordWord (s.placeOf s.blk.vd s.blk.core) s.blk.index 0 4 x.cause.code
  let w2 : W64 := BitVec.ofNat 64 (t.m0.toNat * 2 ^ 32 + (if t.tmasked then 32 else 0) + t.slot % 32)
  let s1 := s.mapMe (fun t => { (t.setTrap x).clearInstr with run := .halted, hints := .none, stall := [] })
  let s2 := s1.mapBlk (fun b =>
    { b with failed := some (b.failed.getD x.cause), nfault := b.nfault + 1,
             firstPlace := if b.nfault = 0 then s.placeOf b.vd b.core else b.firstPlace })
  (s2.postFault s.blk.vd [word, x.pc t, w2, BitVec.ofNat 64 (x.lanes &&& t.visible).toNat, x.taddr]).checkBlock t.block

/-- 21 R348, R350: a step is complete: the strand stops where it stands, and the strands of its block stop too. -/
def State.stepEnd (s : State) : State :=
  if s.me.stepping then
    (s.mapMe (fun t => { t with stepping := false, run := .stopped, stopPc := t.pc, wake := true })).dueOnce 0 (.debugStop s.me.block)
  else s

/-- 02 R53: trap entry, as one step at the instruction boundary.  A masked trap, and a trap without a handler, halt (R55). -/
def State.takeTrap (x : Trap) (s : State) : State :=
  if s.me.tmasked ∨ s.blk.handler = 0 then s.halt x
  else
    (s.settle.mapMe (fun t =>
      { (t.setTrap x).clearInstr with
        tmasked := true, stall := [], hints := .none, pc := s.blk.handler, fetch := [], spin := false, reason := 0,
        matched := false })).stepEnd

/-- 02 R55: a breakpoint, whose strand resumes at `resume` after a debugger's stop: to the debugger when a session holds the
block, whose other strands then stop too (21 R348), else to the handler, else a halt. -/
def State.breakpoint (tval : W64) (resume : W64) (matched : Bool) (s : State) : State :=
  let x := { s.trapAll .breakpoint tval 0 with word := !matched }
  if s.blk.debug then
    s.settle.mapMe (fun t =>
      { t.clearInstr with run := .stopped, stepping := false, tpc := x.pc t, tval := tval, pc := resume, matched := matched, reason := 0,
                          stopPc := t.pc, wake := true,
                          tretMask := if matched then t.tretMask else none,
                          hints := if matched then t.hints else .none,
                          stall := if matched then t.stall else t.stall.tail })
      |>.dueOnce 0 (.debugStop s.me.block)
  else s.takeTrap x

/-! ## The end of an instruction -/

/-- Moves the strand on: the instruction has completed, the next word stands at `pc`, and issues no earlier than `cost` ac
after this one (03 R57), later where a bank conflict holds it (reason 3, 07 R135).  `hint` keeps what only a target ends. -/
def State.retire (pc : W64) (cost : Nat) (hint : Bool) (s : State) : State :=
  if hint then
    s.mapMe (fun t => { t with pc := pc, readyAt := s.now + cost * acTicks, issued := false, latch := [], reason := 0, matched := false })
  else
    (s.mapMe (fun t =>
      { t with pc := pc, readyAt := Nat.max t.readyAt (s.now + cost * acTicks), issued := false, latch := [],
               reason := if t.reason = 3 then 3 else 0, hints := .none, memWait := none, flight := none, matched := false, tretMask := none })).stepEnd

/-- 02 R54: the return from a handler; a TPC that is not a multiple of 4 traps before any effect (01 R12). -/
def State.trapReturn (s : State) : Result :=
  if s.me.tpc.toNat % 4 ≠ 0 then .trap (s.trapAll .misaligned 0 s.me.tpc) s
  else
    .ended ((s.retire s.me.tpc 3 false).mapMe (fun t =>
      { t with tmasked := false, stall := [], fetch := [], tretMask := some t.tlanes }))

end Sys2Proof.Machine
end

