-- ==== Sys2Proof/Machine/Transducer.lean ====
section
/-!
DEFINITION. Sys2Proof/Machine/Transducer.lean: the transducer machine (15 R263 to R265) and its 24 instructions.

Each instruction is a function of a run; the port's own runs (15 R268, R269) and the instructions of `exec` share them.
-/

namespace Sys2Proof.Machine

/-- 15 R264: the fault codes. -/
inductive XdFault where
  | undef | pcrange | budget | overrun | input | backref | short | fail | mismatch | length
  deriving DecidableEq, Repr

def XdFault.code : XdFault → Nat
  | .undef => 1 | .pcrange => 2 | .budget => 3 | .overrun => 4 | .input => 5 | .backref => 6 | .short => 7 | .fail => 8
  | .mismatch => 9 | .length => 10

/-- 15 R263: a run at its start on one block. -/
def XdRun.start (encode : Bool) (size : Nat) (input : List Byte) (words : List W32) : XdRun :=
  { pc := 0, g := (Vector.replicate 16 (0 : W32)).set 15 (BitVec.ofNat 32 size), ic := 0, oc := 0, eof := false,
    steps := 0, input := input, output := [], outlim := if encode then size - 66 else size, size := size,
    encode := encode, code := words.take 256, table := words.drop 256, ended := none }

/-- 15 R264: the run ends with a fault; the faulting instruction has no effect. -/
def XdRun.fault (r : XdRun) (f : XdFault) (imm : BitVec 15) : XdRun := { r with ended := some (.fault f.code imm) }

/-- 15 R264: the budget of a run. -/
def XdRun.budget (r : XdRun) : Nat := if r.encode then 64 * r.size else 32 * r.size

/-- G[x]; g0 reads zero (15 R263). -/
def XdRun.get (r : XdRun) (x : BitVec 4) : W32 := if x = 0 then 0 else r.g[x.toNat]?.getD 0

/-- G[x] becomes v; g0 ignores writes. -/
def XdRun.put (r : XdRun) (x : BitVec 4) (v : W32) : XdRun :=
  if x = 0 then r else { r with g := ⟨r.g.toArray.set! x.toNat v, by simp⟩ }

/-- 15 R264: an instruction of cost n is executed when the budget allows it; PC then moves to `target`, which must lie
in 0..255, or the instruction faults PCRANGE without effect. -/
def XdRun.act (r : XdRun) (n : Nat) (target : Int) (r' : XdRun) : XdRun :=
  if r.steps + n > r.budget then r.fault .budget 0
  else if target < 0 ∨ 255 < target then r.fault .pcrange 0
  else { r' with steps := r.steps + n, pc := target.toNat }

/-- The next word (15 R265: otherwise PC + 1). -/
def XdRun.next (r : XdRun) : Int := (r.pc : Int) + 1

/-- A branch target, counted from the branch itself. -/
def XdRun.target (r : XdRun) (i : BitVec 15) : Int := (r.pc : Int) + i.toInt

/-- 15 R264: the cost of `putn`, `cpin`, `back`. -/
def xdCost (n : Nat) : Nat := if n = 0 then 1 else n

def xdGetb (d : BitVec 4) (r : XdRun) : XdRun :=
  r.act 1 r.next
    (match r.input[r.ic]? with
     | some b => { r.put d (b.setWidth 32) with ic := r.ic + 1 }
     | none => { r.put d 0 with eof := true })

def xdPeekb (d : BitVec 4) (i : BitVec 15) (r : XdRun) : XdRun :=
  r.act 1 r.next (r.put d ((r.input[r.ic + i.toNat]?.getD 0).setWidth 32))

def xdPutb (a : BitVec 4) (r : XdRun) : XdRun :=
  if r.steps + 1 > r.budget then r.fault .budget 0
  else if r.outlim ≤ r.oc then r.fault .overrun 0
  else r.act 1 r.next { r with output := r.output ++ [(r.get a).setWidth 8], oc := r.oc + 1 }

def xdPutn (a b : BitVec 4) (r : XdRun) : XdRun :=
  let n := (r.get b).toNat
  if r.steps + xdCost n > r.budget then r.fault .budget 0
  else if r.outlim < r.oc + n then r.fault .overrun 0
  else r.act (xdCost n) r.next { r with output := r.output ++ List.replicate n ((r.get a).setWidth 8), oc := r.oc + n }

/-- 15 R265: OUTLIM is checked before INLEN. -/
def xdCpin (a : BitVec 4) (r : XdRun) : XdRun :=
  let n := (r.get a).toNat
  if r.steps + xdCost n > r.budget then r.fault .budget 0
  else if r.outlim < r.oc + n then r.fault .overrun 0
  else if r.input.length < r.ic + n then r.fault .input 0
  else r.act (xdCost n) r.next
    { r with output := r.output ++ (r.input.drop r.ic).take n, ic := r.ic + n, oc := r.oc + n }

/-- n bytes copied one after another at a distance, so that overlapping copies repeat bytes. -/
def xdCopyBack (dist : Nat) : Nat → List Byte → List Byte
  | 0, out => out
  | n + 1, out => xdCopyBack dist n (out ++ [out[out.length - dist]?.getD 0])

/-- 15 R265: the distance is checked first. -/
def xdBack (a b : BitVec 4) (r : XdRun) : XdRun :=
  let n := (r.get b).toNat
  let dist := (r.get a).toNat
  if r.steps + xdCost n > r.budget then r.fault .budget 0
  else if dist = 0 ∨ r.oc < dist then r.fault .backref 0
  else if r.outlim < r.oc + n then r.fault .overrun 0
  else r.act (xdCost n) r.next { r with output := xdCopyBack dist n r.output, oc := r.oc + n }

def xdAddi (d a : BitVec 4) (i : BitVec 15) (r : XdRun) : XdRun :=
  r.act 1 r.next (r.put d (r.get a + i.signExtend 32))

def xdAdd (d a b : BitVec 4) (r : XdRun) : XdRun := r.act 1 r.next (r.put d (r.get a + r.get b))
def xdSub (d a b : BitVec 4) (r : XdRun) : XdRun := r.act 1 r.next (r.put d (r.get a - r.get b))
def xdAnd (d a b : BitVec 4) (r : XdRun) : XdRun := r.act 1 r.next (r.put d (r.get a &&& r.get b))
def xdOr (d a b : BitVec 4) (r : XdRun) : XdRun := r.act 1 r.next (r.put d (r.get a ||| r.get b))
def xdXor (d a b : BitVec 4) (r : XdRun) : XdRun := r.act 1 r.next (r.put d (r.get a ^^^ r.get b))

def xdShl (d a b : BitVec 4) (r : XdRun) : XdRun :=
  r.act 1 r.next (r.put d (r.get a <<< ((r.get b).toNat % 32)))

def xdShr (d a b : BitVec 4) (r : XdRun) : XdRun :=
  r.act 1 r.next (r.put d (r.get a >>> ((r.get b).toNat % 32)))

def xdTbl (d a : BitVec 4) (r : XdRun) : XdRun :=
  r.act 1 r.next (r.put d (r.table[(r.get a).toNat % 256]?.getD 0))

def xdBeq (a b : BitVec 4) (i : BitVec 15) (r : XdRun) : XdRun :=
  r.act 1 (if r.get a = r.get b then r.target i else r.next) r

def xdBne (a b : BitVec 4) (i : BitVec 15) (r : XdRun) : XdRun :=
  r.act 1 (if r.get a ≠ r.get b then r.target i else r.next) r

def xdBltn (a b : BitVec 4) (i : BitVec 15) (r : XdRun) : XdRun :=
  r.act 1 (if (r.get a).toNat < (r.get b).toNat then r.target i else r.next) r

def xdBeof (i : BitVec 15) (r : XdRun) : XdRun :=
  r.act 1 (if r.eof ∨ r.ic = r.input.length then r.target i else r.next) r

def xdJmp (i : BitVec 15) (r : XdRun) : XdRun := r.act 1 (r.target i) r

def xdLen (d : BitVec 4) (r : XdRun) : XdRun := r.act 1 r.next (r.put d (BitVec.ofNat 32 (r.input.length - r.ic)))

def xdOpos (d : BitVec 4) (r : XdRun) : XdRun := r.act 1 r.next (r.put d (BitVec.ofNat 32 r.oc))

/-- 15 R264: a run ends with success only here; a decode that has not written the whole block is SHORT. -/
def xdHalt (r : XdRun) : XdRun :=
  if r.steps + 1 > r.budget then r.fault .budget 0
  else if r.encode = false ∧ r.oc ≠ r.size then r.fault .short 0
  else { r with steps := r.steps + 1, ended := some .success }

def xdFail (i : BitVec 15) (r : XdRun) : XdRun :=
  if r.steps + 1 > r.budget then r.fault .budget 0 else r.fault .fail i

/-- One transducer instruction on a run; anything else than a transducer instruction is undefined (15 R264). -/
def xdApply (i : Instr) (r : XdRun) : XdRun :=
  match i with
  | .xdGetb d => xdGetb d r
  | .xdPeekb d k => xdPeekb d k r
  | .xdPutb a => xdPutb a r
  | .xdPutn a b => xdPutn a b r
  | .xdCpin a => xdCpin a r
  | .xdBack a b => xdBack a b r
  | .xdAddi d a k => xdAddi d a k r
  | .xdAdd d a b => xdAdd d a b r
  | .xdSub d a b => xdSub d a b r
  | .xdAnd d a b => xdAnd d a b r
  | .xdOr d a b => xdOr d a b r
  | .xdXor d a b => xdXor d a b r
  | .xdShl d a b => xdShl d a b r
  | .xdShr d a b => xdShr d a b r
  | .xdTbl d a => xdTbl d a r
  | .xdBeq a b k => xdBeq a b k r
  | .xdBne a b k => xdBne a b k r
  | .xdBltn a b k => xdBltn a b k r
  | .xdBeof k => xdBeof k r
  | .xdJmp k => xdJmp k r
  | .xdLen d => xdLen d r
  | .xdOpos d => xdOpos d r
  | .xdHalt => xdHalt r
  | .xdFail k => xdFail k r
  | _ => r.fault .undef 0

/-- 15 R264, R265: the next instruction of a run: the word at PC, UNDEF where it is no instruction. -/
def XdRun.step (r : XdRun) : XdRun :=
  match r.ended with
  | some _ => r
  | none =>
    match xdDecode (r.code[r.pc]?.getD 0) with
    | some i => xdApply i r
    | none => r.fault .undef 0

/-- A run to its end.  Every instruction takes at least one step of the budget, so `fuel` beyond it is never used up. -/
def XdRun.go : Nat → XdRun → XdRun
  | 0, r => r
  | fuel + 1, r => match r.ended with
    | some _ => r
    | none => XdRun.go fuel r.step

/-- The whole run of one block. -/
def xdRunBlock (encode : Bool) (size : Nat) (input : List Byte) (words : List W32) : XdRun :=
  XdRun.go ((if encode then 64 else 32) * size + 2) (XdRun.start encode size input words)

/-- 15 R267: the cc of a run's instructions: one each, ceil(n / 16) for `putn`, `cpin` and `back`. -/
def XdRun.cycles : Nat → XdRun → Nat
  | 0, _ => 0
  | fuel + 1, r => match r.ended with
    | some _ => 0
    | none => let r1 := r.step; (r1.steps - r.steps + 15) / 16 + XdRun.cycles fuel r1

/-- 15 R267, 21 R346: the time of a run in ns: 8 cc to start, and its instructions. -/
def xdRunTime (encode : Bool) (size : Nat) (input : List Byte) (words : List W32) : Nat :=
  (8 + XdRun.cycles ((if encode then 64 else 32) * size + 2) (XdRun.start encode size input words)) * 5 / 8

/-- 15 R264: the fault of a code. -/
def XdFault.ofCode (c : Nat) : XdFault :=
  match c with
  | 1 => .undef | 2 => .pcrange | 3 => .budget | 4 => .overrun | 5 => .input | 6 => .backref | 7 => .short | _ => .fail

end Sys2Proof.Machine
end

