-- ==== Sys2Proof/Machine/Home.lean ====
section
/-!
DEFINITION. Sys2Proof/Machine/Home.lean: the homes of global bytes (13) and the L1 (05 R101 to R124).

A global byte is performed at its home alone (13 R233): the slice line that holds it, else what DRAM stores, decoded where
the block is stored encoded (15 R268).  A core's L1 holds valid sectors with their clean bytes, and dirty bytes.
-/

namespace Sys2Proof.Machine

/-! ## The physical map (13 R230, R231, R236) -/

def nearBase : Nat := 0x4000000000
def nearLimit : Nat := 0x4040000000

/-- DRAM: die d = PA[37:36]. -/
def isDram (pa : Nat) : Bool := decide (pa < nearBase)

def isNear (pa : Nat) : Bool := decide (nearBase ≤ pa ∧ pa < nearLimit)

/-- The die of an address. -/
def homeDie (pa : Nat) : Nat := if pa < nearBase then pa / 2 ^ 36 else (pa - nearBase) / 2 ^ 28

/-- The offset from which a die's DRAM is reserved for firmware. -/
def firmwareOffset : Nat := 0xFE0000000

/-! ## The links between dies (13 R232, R233, 19 R308, R309) -/

/-- The link of two dies, and none within one. -/
def linkOf (a b : Nat) : Option Nat :=
  let x := Nat.min a b
  let y := Nat.max a b
  if x = y then none else if x = 0 then some (y - 1) else if x = 1 then some (y + 1) else some 5

/-- The replay buffer of the direction from die a to die b: what is not acknowledged yet. -/
def Link.unacked (a b now : Nat) (l : Link) : List Nat := (if a < b then l.flitsUp else l.flitsDown).filter (fun t => decide (now < t))

/-- Whether traffic from die a to die b is held: its link retrains or is lost, or the replay buffer holds 256 flits. -/
def State.linkHeld (s : State) (a b : Nat) : Bool :=
  ((linkOf a b).bind (fun k => s.links[k]?)).any (fun l => l.retrain || l.lost || decide (256 ≤ (l.unacked a b s.now).length))

/-- Whether an access of a core to some physical addresses is held at a link. -/
def State.heldBack (s : State) (core : Nat) (pas : List Nat) : Bool :=
  pas.any (fun pa => s.linkHeld (coreDie core) (homeDie pa) || s.linkHeld (homeDie pa) (coreDie core))

/-- R308: a flit stands in the replay buffer until it is acknowledged, within 64 cc; where no acknowledgement comes, as a free value says
(log entry 56), the sender replays. -/
def State.sendFlit (a b : Nat) (s : State) : State :=
  match linkOf a b with
  | none => s
  | some k =>
    let (j, s1) := s.draw
    let missing := Config.ackMissing j
    let at_ := s.now + (if missing then 64 * ccTicks else Config.agentChoice j % (64 * ccTicks))
    let s2 := s1.mapLink k (fun l =>
      if a < b then { l with flitsUp := l.unacked a b s.now ++ [at_] } else { l with flitsDown := l.unacked a b s.now ++ [at_] })
    if missing then s2.due (64 * ccTicks) (.linkAckTimeout k) else s2

/-- An access of an agent of a die crosses a link with each sector whose home is another die: `out` toward the home. -/
def State.crossFrom (die : Nat) (out : Bool) (pas : List Nat) (s : State) : State :=
  (pas.foldl (fun l pa => setInsert l (pa / 64)) []).foldl (fun s k =>
    if out then s.sendFlit die (homeDie (k * 64)) else s.sendFlit (homeDie (k * 64)) die) s

def State.crossLinks (core : Nat) (out : Bool) (pas : List Nat) (s : State) : State := s.crossFrom (coreDie core) out pas

/-- An event that moves sectors between a core and their homes: a link that holds its traffic delays it. -/
def State.overLinks (core : Nat) (out : Bool) (pas : List Nat) (again : Instr) (f : State → State) (s : State) : State :=
  if s.heldBack core pas then s.dueOnce acTicks again else f (s.crossLinks core out pas)

/-- 13 R231: backed, not reserved, and inside the carve. -/
def State.backed (s : State) (pa : Nat) : Bool :=
  if isDram pa then decide (pa % 2 ^ 36 < firmwareOffset)
  else isNear pa && decide ((pa - nearBase) % 2 ^ 28 < (s.dies[homeDie pa]?.getD .init).carve * 2 ^ 23)

/-- 13 R234: the logical slice of a DRAM address, and the byte address within its channel. -/
def sliceOf (pa : Nat) : Nat :=
  let g := pa % 2 ^ 36 / 4096
  (g % 32) ^^^ (g / 2 ^ 5 % 32) ^^^ (g / 2 ^ 10 % 32) ^^^ (g / 2 ^ 15 % 32) ^^^ (g / 2 ^ 20 % 16)

def channelAddress (pa : Nat) : Nat := pa % 2 ^ 36 / 4096 / 32 * 4096 + pa % 4096

/-- 13 R235: the set of a DRAM line in its slice: die, slice, set. -/
def sliceSet (line : Nat) : Nat × Nat × Nat := (homeDie (line * 256), sliceOf (line * 256), channelAddress (line * 256) / 256 % 1024)

/-- 13 R236: the slice of a near-store window offset, and its way among the slice's 48. -/
def nearSlice (x : Nat) : Nat := (x / 2 ^ 12 % 32) ^^^ (x / 2 ^ 17 % 32) ^^^ (x / 2 ^ 22 % 32)
def nearWay (x : Nat) : Nat := x / 2 ^ 23 % 32 + 16

/-- 13 R236: a carve of c steps takes the ways from 16 on, so that 48 - c cache. -/
def cachingWays (carve : Nat) : List Nat := (List.range 48).filter (fun w => decide (w < 16 ∨ 16 + carve ≤ w))

/-! ## Grafted blocks (15 R259 to R262) -/

def State.binding? (s : State) (pa : Nat) : Option Binding := s.bindings.find? (fun b => b.region == pa / 65536)

/-- 15 R271: the pair, block size and raw mode that govern an address: a conversion's blocks below NEXT are under its
target. -/
structure GraftView where
  enc  : Nat
  dec  : Nat
  size : Nat
  raw  : Bool
  deriving DecidableEq, Repr

def Binding.size2 (b : Binding) : Nat := if b.blk2 then 1024 else 256

def Binding.view (b : Binding) (pa : Nat) : GraftView :=
  if b.conv ∧ pa % 65536 < b.next * b.size2 then { enc := b.enc2, dec := b.dec2, size := b.size2, raw := b.raw2 }
  else { enc := b.enc, dec := b.dec, size := if b.blk1k then 1024 else 256, raw := b.rawmode }

/-- The words of a loaded image. -/
def State.imageWords (s : State) (h : Nat) : List W32 :=
  match s.images.find? (fun i => i.handle == h) with
  | some i => i.words
  | none => []

/-- 15 R261: the length code of the block at `start`, when it is stored encoded. -/
def Binding.code? (b : Binding) (start : Nat) : Option Nat := (b.encoded.find? (fun e => e.1 == start)).map (·.2)

/-- 15 R270: what a graft fault records: the fault, the phase (0 encode, 1 verify, 2 fetch), FAIL's imm, the ns of the failing run. -/
structure GraftFault where
  fault : XdFault
  phase : Nat
  imm   : BitVec 15
  dur   : Nat
  deriving DecidableEq, Repr

/-- How a finished run of a block ends for its port. -/
def runOutcome (encode : Bool) (phase size : Nat) (input : List Byte) (words : List W32) : Except GraftFault (List Byte) :=
  let r := xdRunBlock encode size input words
  match r.ended with
  | some .success => .ok r.output
  | some (.fault c imm) => .error { fault := .ofCode c, phase := phase, imm := imm, dur := xdRunTime encode size input words }
  | none => .error { fault := .budget, phase := phase, imm := 0, dur := xdRunTime encode size input words }

/-- 15 R268 steps 2 and 3: an encoded block, checked and decoded. -/
def State.decodeBlock (s : State) (v : GraftView) (start code : Nat) : Except GraftFault (List Byte) :=
  let h := bytesNat (Memory.read s.dram start 2)
  let len := h % 1024
  if h / 1024 ≠ 0 ∨ v.size - 66 < len ∨ ceilDiv (2 + len) 64 ≠ code + 1 ∨ (v.size = 256 ∧ 2 < code) then
    .error { fault := .length, phase := 2, imm := 0, dur := 0 }
  else runOutcome false 2 v.size (Memory.read s.dram (start + 2) len) (s.imageWords v.dec)

/-- Where the block that holds an address starts, if the address is bound, and how it is stored. -/
def State.blockAt (s : State) (pa : Nat) : Option (Binding × GraftView × Nat) :=
  match s.binding? pa with
  | none => none
  | some b => let v := b.view pa; some (b, v, pa / v.size * v.size)

/-! ## Slice lines (13 R235, R238) -/

def SliceLine.init (line : Nat) : SliceLine :=
  { line := line, valid := 0, dirty := 0, cells := [], use := 0, free := false, marks := 0, poison := 0,
    way := 0, used := 0 }

def State.sliceLine (s : State) (line : Nat) : SliceLine :=
  (s.slices.find? (fun l => l.line == line)).getD (SliceLine.init line)

/-- The lines that stand in the set of a line. -/
def State.setLines (s : State) (line : Nat) : List SliceLine := s.slices.filter (fun k => decide (sliceSet k.line = sliceSet line))

/-- The ways of the set of a line that cache and are free; a line goes into the first. -/
def State.freeWays (s : State) (line : Nat) : List Nat :=
  (cachingWays (s.dies[homeDie (line * 256)]?.getD .init).carve).filter (fun w => (s.setLines line).all (fun k => decide (k.way ≠ w)))

/-- Stores a slice line, in the way it stands in, or in a free way; one that holds nothing is not listed. -/
def State.putSlice (l : SliceLine) (s : State) : State :=
  let rest := s.slices.filter (fun k => k.line != l.line)
  let way := match s.slices.find? (fun k => k.line == l.line) with
    | some k => k.way
    | none => (s.freeWays l.line).headD 0
  if l.valid = 0 ∧ l.marks = 0 ∧ l.use = 0 then { s with slices := rest }
  else { s with slices := rest ++ [{ l with way := way }] }

/-- A request uses a line of a slice. -/
def State.touchSlice (line : Nat) (s : State) : State :=
  { s with slices := updIf (fun k => k.line == line) (fun k => { k with used := s.uses }) s.slices, uses := s.uses + 1 }

/-- The bytes of DRAM, or of the decoded block, that a fetch of line `line` finds (15 R268), without any effect. -/
def State.plainByte (s : State) (pa : Nat) : Byte :=
  let l := s.sliceLine (pa / 256)
  if bit l.valid (pa / 64 % 4) then Memory.get l.cells pa
  else match s.blockAt pa with
    | some (b, v, start) => match b.code? start with
      | some c => match s.decodeBlock v start c with
        | .ok bs => bs[pa - start]?.getD 0
        | .error _ => 0
      | none => Memory.get s.dram pa
    | none => Memory.get s.dram pa

def State.plainRead (s : State) (pa n : Nat) : List Byte := (List.range n).map (fun k => s.plainByte (pa + k))

/-- 15 R270: a graft event: the binding counts it, and it enters the owner's event stream (21). -/
def State.graftEvent (region block : Nat) (f : GraftFault) (s : State) : State :=
  let owner := ((s.bindings.find? (fun b => b.region == region)).map (·.owner)).getD 0
  { s with
    bindings := updIf (fun b => b.region == region) (fun b =>
      { b with fallbacks := if f.phase = 2 then b.fallbacks else Nat.min (b.fallbacks + 1) (2 ^ 32 - 1),
               fetchFaults := if f.phase = 2 then Nat.min (b.fetchFaults + 1) 65535 else b.fetchFaults,
               lastCode := f.fault.code, lastPhase := f.phase }) s.bindings,
    graftLog := s.graftLog ++ [(owner, [BitVec.ofNat 64 (region * 65536), BitVec.ofNat 64 block,
      BitVec.ofNat 64 f.fault.code, BitVec.ofNat 64 f.phase, f.imm.setWidth 64, BitVec.ofNat 64 f.dur])] }

/-- Puts plain bytes into the sectors `mask` of a slice line, clean, where the line does not hold them yet. -/
def SliceLine.fill (mask : BitVec 4) (byte : Nat → Byte) (poisoned : Nat → Bool) (l : SliceLine) : SliceLine :=
  (List.range 4).foldl (fun l k =>
    if bit mask k ∧ ¬ bit l.valid k then
      { l with valid := l.valid ||| (1#4 <<< k), marks := l.marks &&& ~~~(1#4 <<< k),
               poison := if poisoned (l.line * 4 + k) then l.poison ||| (1#4 <<< k) else l.poison &&& ~~~(1#4 <<< k),
               cells := Memory.write (Memory.clear l.cells (l.line * 256 + k * 64) 64) (l.line * 256 + k * 64)
                 ((List.range 64).map (fun j => byte (l.line * 256 + k * 64 + j))) }
    else l) l

/-- 15 R268 step 5: the DECODE mark on every sector that the line does not hold. -/
def SliceLine.markAll (l : SliceLine) : SliceLine :=
  (List.range 4).foldl (fun l k =>
    if bit l.valid k then l
    else { l with valid := l.valid ||| (1#4 <<< k), marks := l.marks ||| (1#4 <<< k),
                  cells := Memory.clear l.cells (l.line * 256 + k * 64) 64 }) l

/-- The lines of a block. -/
def blockLines (start size : Nat) : List Nat := (List.range (size / 256)).map (fun k => start / 256 + k)

/-- The lines that a fetch of a line fills: those of its block when that is stored encoded. -/
def State.linesFilled (s : State) (line : Nat) : List Nat :=
  match s.blockAt (line * 256) with
  | some (b, v, start) => if (b.code? start).isSome then blockLines start v.size else [line]
  | none => [line]

/-- 13 R235, 15 R268: makes the sectors `mask` of a DRAM line valid in its slice, whose set has room. -/
def State.fillLine (line : Nat) (mask : BitVec 4) (s : State) : State :=
  let l := s.sliceLine line
  if mask &&& ~~~l.valid = 0 then s
  else
    let raw (s : State) := s.putSlice (l.fill mask (Memory.get s.dram) (fun k => s.poison.contains k))
    match s.blockAt (line * 256) with
    | none => raw s
    | some (b, v, start) => match b.code? start with
      | none => raw s
      | some c =>
        let lines := blockLines start v.size
        if (List.range (c + 1)).any (fun k => s.poison.contains (start / 64 + k)) then
          lines.foldl (fun s n => s.putSlice ((s.sliceLine n).fill 15 (fun _ => 0) (fun _ => true))) s
        else match s.decodeBlock v start c with
          | .ok bs => lines.foldl (fun s n =>
              s.putSlice ((s.sliceLine n).fill 15 (fun a => bs[a - start]?.getD 0) (fun _ => false))) s
          | .error f =>
            (lines.foldl (fun s n => s.putSlice (s.sliceLine n).markAll) s).graftEvent b.region
              ((start - b.region * 65536) / v.size) f

/-! ## Write-back (13 R235, 15 R269) -/

/-- Stores a sector's plain bytes in DRAM, or the poison pattern. -/
def State.storeSector (sector : Nat) (bytes : List Byte) (poisoned : Bool) (s : State) : State :=
  { s with dram := Memory.write s.dram (sector * 64) bytes,
           poison := if poisoned then setInsert s.poison sector else s.poison.filter (fun k => k != sector) }

/-- DONE: the lines that were dirty become clean. -/
def State.cleanLine (line : Nat) (s : State) : State := s.putSlice { s.sliceLine line with dirty := 0 }

/-- The write-back of one line of a plain region: its dirty sectors. -/
def State.writeBackPlain (line : Nat) (s : State) : State :=
  let l := s.sliceLine line
  ((List.range 4).foldl (fun s k =>
    if bit l.dirty k then
      s.storeSector (line * 4 + k) (Memory.read l.cells (line * 256 + k * 64) 64) (bit l.poison k || bit l.marks k)
    else s) s).cleanLine line

/-- 15 R269 ENCODE and VERIFY: the payload to store, or the fault that makes the block raw. -/
def State.encodeBlock (s : State) (v : GraftView) (plain : List Byte) : Except GraftFault (List Byte) :=
  match runOutcome true 0 v.size plain (s.imageWords v.enc) with
  | .error f => .error f
  | .ok payload => match runOutcome false 1 v.size payload (s.imageWords v.dec) with
    | .error f => .error f
    | .ok out =>
      if out = plain then .ok payload
      else .error { fault := .mismatch, phase := 1, imm := 0, dur := xdRunTime false v.size payload (s.imageWords v.dec) }

/-- Drops the codes of all blocks inside [start, start + size), and sets one if given. -/
def Binding.setCode (start size : Nat) (code : Option Nat) (b : Binding) : Binding :=
  let rest := b.encoded.filter (fun e => decide (e.1 < start ∨ start + size ≤ e.1))
  { b with encoded := match code with
      | some c => rest ++ [(start, c)]
      | none => rest }

/-- 15 R269: the write-back sequence of a whole block under a view; the answer says whether the block was stored raw by a
fallback. -/
def State.writeBackBlock (b : Binding) (v : GraftView) (start : Nat) (s : State) : State × Bool :=
  let lines := blockLines start v.size
  let s1 := lines.foldl (fun s n => s.fillLine n 15) s
  let marked (k : Nat) : Bool := let l := s1.sliceLine (k / 4); bit l.marks (k % 4) || bit l.poison (k % 4)
  let sectors := (List.range (v.size / 64)).map (fun k => start / 64 + k)
  let plain := lines.flatMap (fun n => Memory.read (s1.sliceLine n).cells (n * 256) 256)
  let setCode (c : Option Nat) (s : State) : State :=
    { s with bindings := updIf (fun k => k.region == b.region) (Binding.setCode start v.size c) s.bindings }
  let done (s : State) : State := lines.foldl (fun s n => s.cleanLine n) s
  let rawStore (s : State) : State :=
    sectors.foldl (fun s k =>
      s.storeSector k (Memory.read (s1.sliceLine (k / 4)).cells (k * 64) 64) (marked k)) s
  if v.raw ∨ sectors.any marked then (done (setCode none (rawStore s1)), false)
  else match s1.encodeBlock v plain with
    | .ok payload =>
      let n := ceilDiv (2 + payload.length) 64
      let stored := natBytes 2 payload.length ++ payload
      let s2 := { s1 with dram := Memory.write s1.dram start stored,
                          poison := s1.poison.filter (fun k => decide (k < start / 64 ∨ start / 64 + n ≤ k)) }
      (done (setCode (some (n - 1)) s2), false)
    | .error f => ((done (setCode none (rawStore s1))).graftEvent b.region ((start - b.region * 65536) / v.size) f, true)

/-- Lines that were fetched for the write-back of a block, and that the slice did not hold, leave it. -/
def State.keepLines (old : List SliceLine) (lines : List Nat) (s : State) : State :=
  { s with slices := s.slices.filter (fun k => old.any (fun j => j.line == k.line) || !lines.contains k.line) }

/-- 13 R235: the slice writes back what is dirty in a line, through the graft of its region if one is bound. -/
def State.writeBack (line : Nat) (s : State) : State :=
  match s.blockAt (line * 256) with
  | none => s.writeBackPlain line
  | some (b, v, start) =>
    if (blockLines start v.size).any (fun n => (s.sliceLine n).dirty != 0) then ((s.writeBackBlock b v start).1).keepLines s.slices (blockLines start v.size) else s

/-- A clean line leaves the slice; its count is lost (13 R238). -/
def State.dropLine (line : Nat) (s : State) : State := { s with slices := s.slices.filter (fun k => k.line != line) }

/-- 13 R235, 15 R269: a capacity eviction of a line: what is dirty of it, or of its block, is written back; the line leaves. -/
def State.evictLine (line : Nat) (s : State) : State := (s.writeBack line).dropLine line

/-- 13 R235: the line of a set that is replaced: the least recently used, one with a use count last. -/
def victimLine : List SliceLine → Option SliceLine
  | [] => none
  | l :: r => match victimLine r with
    | none => some l
    | some k =>
      if (decide (l.use ≠ 0 ∧ k.use = 0)) || (decide (l.use ≠ 0 ↔ k.use ≠ 0) && decide (k.used < l.used)) then some k else some l

/-- 13 R235: a set whose ways are all taken gives up a line for a new one. -/
def State.sliceRoom (line : Nat) (s : State) : State :=
  if s.slices.any (fun k => k.line == line) ∨ s.freeWays line ≠ [] then s
  else match victimLine (s.setLines line) with
    | some k => s.evictLine k.line
    | none => s

/-- 13 R235, 15 R268: a request needs the sectors `mask` of a DRAM line in its slice. -/
def State.fetchLine (line : Nat) (mask : BitVec 4) (s : State) : State :=
  ((((s.linesFilled line).foldl (fun s n => s.sliceRoom n) s).fillLine line mask).touchSlice line)

/-- 13 R238, R239: a line that its last counted read frees is dropped without write-back; what DRAM then holds of its dirty
sectors is undefined, but for a grafted block, whose encoding stays (log entry 7). -/
def State.freeLine (line : Nat) (s : State) : State :=
  let l := s.sliceLine line
  let s1 := s.dropLine line
  if l.dirty = 0 ∨ (s.blockAt (line * 256)).isSome then s1
  else
    (List.range 4).foldl (fun s k =>
      if bit l.dirty k then
        { s with dram := Memory.write s.dram (line * 256 + k * 64)
                   ((List.range 64).map (fun j => Config.anyByte (s.free * 64 + j))),
                 free := s.free + 1 }
      else s) s1

/-! ## Requests at a home (13 R235, R238) -/

/-- 13 R238: what a read request does to the use count of a line, once it has been served. -/
def State.countRead (line use : Nat) (free : Bool) (s : State) : State :=
  let l := s.sliceLine line
  let (u, f) := if l.use = 0 then (use, free) else (l.use, l.free)
  if u = 0 then s
  else if u = 1 ∧ f then s.freeLine line
  else s.putSlice { l with use := u - 1, free := f }

/-- A read request for the sectors `mask` of a line: they are made valid where DRAM stands behind them. -/
def State.homeFetch (line : Nat) (mask : BitVec 4) (s : State) : State :=
  if isDram (line * 256) then s.fetchLine line mask else s

/-- The bytes of a line as its home holds them after `homeFetch`. -/
def State.homeByte (s : State) (pa : Nat) : Byte :=
  if isDram pa then Memory.get (s.sliceLine (pa / 256)).cells pa else Memory.get s.dram pa

/-- Whether the sector of an address is poisoned at its home, after `homeFetch`. -/
def State.homePoison (s : State) (pa : Nat) : Bool :=
  if isDram pa then bit (s.sliceLine (pa / 256)).poison (pa / 64 % 4) else s.poison.contains (pa / 64)

/-- Whether the sector of an address carries the DECODE mark. -/
def State.homeMark (s : State) (pa : Nat) : Bool :=
  isDram pa && bit (s.sliceLine (pa / 256)).marks (pa / 64 % 4)

/-- The sectors of a line that some bytes touch. -/
def touched (line : Nat) (cells : List Host.Cell) : BitVec 4 :=
  (List.range 4).foldl (fun m k =>
    if cells.any (fun c => decide (c.1 / 64 = line * 4 + k)) then m ||| (1#4 <<< k) else m) 0

/-- The sectors of a line that some bytes cover whole. -/
def covered (line : Nat) (cells : List Host.Cell) : BitVec 4 :=
  (List.range 4).foldl (fun m k =>
    if (cells.filter (fun c => decide (c.1 / 64 = line * 4 + k))).length = 64 then m ||| (1#4 <<< k) else m) 0

/-- 13 R235, R238, R243: written bytes of one line are performed at their home.  `cells` has one entry an address. -/
def State.homePut (line : Nat) (cells : List Host.Cell) (use : Nat) (free : Bool) (s : State) : State :=
  let whole := covered line cells
  if isDram (line * 256) then
    let s1 := s.fetchLine line (touched line cells &&& ~~~whole)
    let l := s1.sliceLine line
    s1.putSlice
      { l with used := s.uses, valid := l.valid ||| touched line cells, dirty := l.dirty ||| touched line cells,
               marks := l.marks &&& ~~~whole, poison := l.poison &&& ~~~whole,
               cells := cells.foldl (fun m c => Memory.set m c.1 c.2) l.cells,
               use := if use = 0 then l.use else use, free := if use = 0 then l.free else free }
  else
    { s with dram := cells.foldl (fun m c => Memory.set m c.1 c.2) s.dram,
             poison := s.poison.filter (fun k => !(decide (k / 4 = line) && bit whole (k % 4))) }

/-- Bytes at consecutive addresses, as cells. -/
def cellsAt (a : Nat) : List Byte → List Host.Cell
  | [] => []
  | b :: r => (a, b) :: cellsAt (a + 1) r

/-- Of cells with one address the last stays. -/
def lastCells : List Host.Cell → List Host.Cell
  | [] => []
  | c :: r => if r.any (fun d => d.1 == c.1) then lastCells r else c :: lastCells r

/-- Bytes anywhere, in the order in which they are written, performed at their homes line by line: what is written together counts
together as the write of a whole sector (13 R243). -/
def State.homeWriteCells (cells : List Host.Cell) (s : State) : State :=
  (cells.foldl (fun (l : List Nat) (c : Host.Cell) => setInsert l (c.1 / 256)) []).foldl (fun s line =>
    s.homePut line (lastCells (cells.filter (fun c => decide (c.1 / 256 = line)))) 0 false) s

/-- Bytes written at their home by an engine, the scheduler or the controller. -/
def State.homeWriteBytes (pa : Nat) (bs : List Byte) (s : State) : State := s.homeWriteCells (cellsAt pa bs)

/-- Bytes read at their home by an engine: one read request a line. -/
def State.homeReadBytes (pa n : Nat) (s : State) : List Byte × Bool × Bool × State :=
  let lines := (List.range ((pa + n + 255) / 256 - pa / 256)).map (fun k => pa / 256 + k)
  let sectors := (List.range ((pa + n + 63) / 64 - pa / 64)).map (fun k => pa / 64 + k)
  let mask (line : Nat) : BitVec 4 :=
    (List.range 4).foldl (fun m k => if sectors.contains (line * 4 + k) then m ||| (1#4 <<< k) else m) 0
  let s1 := lines.foldl (fun s line => s.homeFetch line (mask line)) s
  let bytes := (List.range n).map (fun k => s1.homeByte (pa + k))
  let pois := sectors.any (fun k => s1.homePoison (k * 64))
  let mark := sectors.any (fun k => s1.homeMark (k * 64))
  (bytes, mark, pois, lines.foldl (fun s line => if isDram (line * 256) then s.countRead line 0 false else s) s1)

/-! ## The L1 of a core (05 R101) -/

/-- What the L1 holds of a byte: a dirty byte, else a byte of a valid sector. -/
def Core.look (c : Core) (pa : Nat) : Option Byte :=
  match Cells.find c.dirty pa with
  | some b => some b
  | none => if c.valid.contains (pa / 64) then some (Memory.get c.clean pa) else none

/-- A store's bytes become dirty (05 R101); the record cache takes them (14 R249). -/
def Core.store (pa : Nat) (bs : List Byte) (c : Core) : Core :=
  { c with dirty := Cells.putAll c.dirty pa bs,
           records := c.records.map (fun r =>
             (r.1, (List.range r.2.length).map (fun k =>
               if pa ≤ r.1 + k ∧ r.1 + k < pa + bs.length then bs[r.1 + k - pa]?.getD 0 else r.2[k]?.getD 0))) }

/-- Whether a sector holds dirty bytes. -/
def Core.holdsDirty (sector : Nat) (c : Core) : Bool := c.dirty.any (fun e => decide (e.1 / 64 = sector))

/-- A filled sector; the error of bytes that stay dirty stays (13 R243). -/
def Core.fillSector (sector : Nat) (byte : Nat → Byte) (c : Core) : Core :=
  { c with valid := setInsert c.valid sector, corrupt := c.corrupt.filter (fun k => k != sector || c.holdsDirty k),
           clean := Memory.write (Memory.clear c.clean (sector * 64) 64) (sector * 64)
             ((List.range 64).map (fun k => byte (sector * 64 + k))) }

/-- Drops the valid sectors that a test picks; dirty bytes stay (05 R121), and so does the error of their sector (13 R243). -/
def Core.dropSectors (p : Nat → Bool) (c : Core) : Core :=
  { c with valid := c.valid.filter (fun k => !p k), clean := c.clean.filter (fun e => !p (e.1 / 64)),
           corrupt := c.corrupt.filter (fun k => !p k || c.holdsDirty k) }

/-- 05 R120: the dirty bytes that a test picks leave as written: they stay in the valid sectors, as clean bytes; a sector that then holds no
byte holds no error. -/
def Core.cleanBytes (p : Nat → Bool) (c : Core) : Core :=
  let out := c.dirty.filter (fun e => p e.1)
  { c with dirty := c.dirty.filter (fun e => !p e.1),
           clean := out.foldl (fun m e => if c.valid.contains (e.1 / 64) then Memory.set m e.1 e.2 else m) c.clean,
           useTags := c.useTags.filter (fun t => c.dirty.any (fun e => decide (e.1 / 256 = t.1) && !p e.1)),
           corrupt := c.corrupt.filter (fun k => c.valid.contains k || c.dirty.any (fun e => decide (e.1 / 64 = k) && !p e.1)) }

/-- The lines in which a list of cells has a byte. -/
def linesOf (cells : List Host.Cell) : List Nat := cells.foldl (fun l c => setInsert l (c.1 / 256)) []

/-- The sectors of a line become poisoned at their home (13 R243). -/
def State.poisonHome (line : Nat) (sectors : List Nat) (s : State) : State :=
  sectors.foldl (fun s k =>
    if isDram (line * 256) then let l := s.sliceLine line; s.putSlice { l with poison := l.poison ||| (1#4 <<< (k % 4)) }
    else { s with poison := setInsert s.poison k }) s

/-- 05 R120: writes the dirty bytes of core `c` that a test picks to their homes; poison travels with the data of a sector that holds an
uncorrectable error (13 R243); what goes to another die crosses its link (19 R308). -/
def State.l1WriteBack (core : Nat) (p : Nat → Bool) (s : State) : State :=
  let c := s.coreOf core
  let out := c.dirty.filter (fun e => p e.1)
  let s1 := (linesOf out).foldl (fun s line =>
    let t := (c.useTags.find? (fun t => t.1 == line)).map (fun t => (t.2.1, t.2.2))
    (s.homePut line (out.filter (fun e => decide (e.1 / 256 = line))) (t.getD (0, false)).1 (t.getD (0, false)).2).poisonHome line
      (c.corrupt.filter (fun k => out.any (fun e => decide (e.1 / 64 = k)) && decide (k / 4 = line)))) s
  if out = [] then s1 else (s1.mapCoreOf core (Core.cleanBytes p)).crossLinks core true (out.map (·.1))

/-- 05 R120: publication at cluster scope or wider writes every dirty byte of the core's L1. -/
def State.l1Publish (core : Nat) (s : State) : State := s.l1WriteBack core (fun _ => true)

/-- 13 R242: an error that the hardware corrected, counted by its die. -/
def State.countCorrected (die : Nat) (s : State) : State :=
  s.mapDie die (fun d => { d with corrected := d.corrected + 1 })

/-- 05 R121, 14 R249: an acquire at cluster scope or wider drops the clean copies and the record cache. -/
def State.l1Refresh (core : Nat) (s : State) : State :=
  s.mapCoreOf core (fun c => { c with valid := [], clean := [], corrupt := c.corrupt.filter (fun k => c.holdsDirty k), records := [] })

/-- 05 R109, R117: writes back the dirty bytes of some sectors and drops the sectors. -/
def State.l1Expel (core : Nat) (p : Nat → Bool) (s : State) : State :=
  (s.l1WriteBack core (fun a => p (a / 64))).mapCoreOf core (Core.dropSectors p)

/-! ### The 64 sets of 16 ways (R101) -/

/-- The lines that the L1 holds in the set of a line: bits [13:8] of the address choose it. -/
def Core.setLines (c : Core) (line : Nat) : List Nat :=
  ((c.valid.map (· / 4)) ++ (c.dirty.map (fun (e : Host.Cell) => e.1 / 256))).foldl (fun l n => if n % 64 = line % 64 then setInsert l n else l) []

/-- Of some lines the least recently used. -/
def Core.oldest (c : Core) : List Nat → Option Nat
  | [] => none
  | n :: r => match c.oldest r with
    | some k => if lookupD c.used k 0 < lookupD c.used n 0 then some k else some n
    | none => some n

/-- R101: a new line replaces the least recently used line of its set, whose dirty bytes go home first. -/
def State.l1Room (core line : Nat) (s : State) : State :=
  let c := s.coreOf core
  let ls := c.setLines line
  if ls.contains line ∨ ls.length < 16 then s
  else match c.oldest ls with
    | some k => s.l1Expel core (fun sec => decide (sec / 4 = k))
    | none => s

/-- A use of lines of the L1: an allocation, or a hit by a load, a store or a fetch. -/
def State.l1Touch (core : Nat) (lines : List Nat) (s : State) : State :=
  { s.mapCoreOf core (fun c => { c with used := lines.foldl (fun u l => assocSet u l s.uses) c.used }) with uses := s.uses + 1 }

/-- 05 R103, 13 R238: the sectors that a read request takes from the home into the L1, unless NA = 1.  A poisoned or marked
sector is not kept, so that each of its readers meets the mark (log entry 11). -/
def State.l1Fill (core line : Nat) (mask : BitVec 4) (use : Nat) (free keep : Bool) (s : State) : State :=
  let s1 := (if keep then s.l1Room core line else s).homeFetch line mask
  let s2 := if keep then (s1.mapCoreOf core (fun c =>
      (List.range 4).foldl (fun c k => if bit mask k ∧ ¬ s1.homePoison (line * 256 + k * 64) ∧ ¬ s1.homeMark (line * 256 + k * 64)
        then c.fillSector (line * 4 + k) s1.homeByte else c) c)).l1Touch core [line] else s1
  if isDram (line * 256) then s2.countRead line use free else s2

/-! ### Line requests and miss entries (R102, R103), and the times of a load -/

/-- The sectors of a unit that the load must fetch: those that hold a byte the L1 lacks (05 R103). -/
def UnitPa.lacks (c : Core) (size : Nat) (u : UnitPa) : Bool := (List.range size).any (fun k => (c.look (u.pa + k)).isNone)

/-- The lines of some units, and the sectors that they lack in a line. -/
def lackingSectors (c : Core) (size : Nat) (us : List UnitPa) : List Nat :=
  (us.filter (fun u => u.lacks c size)).foldl (fun l u => setInsert l (u.pa / 64)) []

def linesOfSectors (sectors : List Nat) : List Nat := sectors.foldl (fun l k => setInsert l (k / 4)) []

def sectorMask (sectors : List Nat) (line : Nat) : BitVec 4 :=
  (List.range 4).foldl (fun m k => if sectors.contains (line * 4 + k) then m ||| (1#4 <<< k) else m) 0

/-- Units in order of their numbers. -/
def insertUnit (u : UnitPa) : List UnitPa → List UnitPa
  | [] => [u]
  | v :: r => if u.unit < v.unit then u :: v :: r else v :: insertUnit u r

def sortUnits (us : List UnitPa) : List UnitPa := us.foldl (fun l u => insertUnit u l) []

/-- R102: the lines that an access names, in the order of the lowest lane of each. -/
def requestLines (us : List UnitPa) : List Nat :=
  (sortUnits us).foldl (fun l u => if l.contains (u.pa / 256) then l else l ++ [u.pa / 256]) []

/-- R103: the sectors that have a miss entry of a core: those that its loads in flight lack, and those of its fetches that are on their
way (07 R378), each once. -/
def State.missEntries (s : State) (core : Nat) : List Nat :=
  (s.allStrands.filter (fun t => ((s.block? t.block).map (fun b => b.core == core)).getD false)).foldl (fun l t =>
    let l1 := match t.flight with
      | some (.load us size _ _ _) => (lackingSectors (s.coreOf core) size (us.filter (fun u => !u.raw))).foldl setInsert l
      | _ => l
    (t.fetch.filter (fun f => decide (s.now < f.ready))).foldl (fun l f => f.entries.foldl setInsert l) l1) []

/-- R103: whether the free miss entries of a core, 256 in all, take some sectors; a sector that has one takes no new one. -/
def State.missRoom (s : State) (core : Nat) (sectors : List Nat) : Bool :=
  let es := s.missEntries core
  decide ((sectors.foldl setInsert es).length ≤ Nat.max 256 es.length)

/-- R102, R103: the line requests of a load that issue now: those before the first that finds too few free entries beside `es`. -/
def goLines (c : Core) (size : Nat) (us : List UnitPa) : List Nat → List Nat → List Nat
  | _, [] => []
  | es, l :: r =>
    let es1 := (lackingSectors c size (us.filter (fun u => !u.raw && decide (u.pa / 256 = l)))).foldl setInsert es
    if es1.length ≤ Nat.max 256 es.length then l :: goLines c size us es1 r else []

/-- 13 R241, 15 R267: the further time of a grafted miss, in ac: the decode run's. -/
def State.decodeTime (s : State) (pa : Nat) : Nat :=
  match s.blockAt pa with
  | some (b, v, start) =>
    if (b.code? start).isSome then
      ceilDiv (xdRunTime false v.size (Memory.read s.dram (start + 2) (bytesNat (Memory.read s.dram start 2) % 1024)) (s.imageWords v.dec) * nsTicks) acTicks
    else 0
  | none => 0

/-- 13 R241: the time of a load from its home, in ac. -/
def State.homeTime (s : State) (core : Nat) (sector : Nat) : Nat :=
  let near := decide (homeDie (sector * 64) = coreDie core)
  let hit := !isDram (sector * 64) || bit (s.sliceLine (sector / 4)).valid (sector % 4)
  (if near then (if hit then 80 else 136) else (if hit then 152 else 208)) + (if hit then 0 else s.decodeTime (sector * 64))

/-- The longest time of some sectors; no access of a home takes less than the first row's. -/
def State.homesTime (s : State) (core : Nat) (sectors : List Nat) : Nat :=
  sectors.foldl (fun t k => Nat.max t (s.homeTime core k)) 80

end Sys2Proof.Machine
end

