-- ==== Sys2Proof/Machine/Translate.lean ====
section
/-!
DEFINITION. Sys2Proof/Machine/Translate.lean: page tables, TLBs and page requests (19 R314 to R324).
-/

namespace Sys2Proof.Machine

/-- 19 R322: ACC of a page request. -/
def Acc.code : Acc → Nat
  | .read => 0 | .write => 1 | .exec => 2 | .atomic => 3 | .range => 1

/-- 19 R315: the size of a page that a leaf of a level maps, with C for L0. -/
def pageSize (level : Nat) (c : Bool) : Nat := if level = 0 then (if c then 2 ^ 16 else 2 ^ 12) else 2 ^ (12 + 9 * level)

/-- 19 R317: whether an entry is valid and keeps the table of R316 at its level and stage. -/
def entryOk (stage2 : Bool) (level : Nat) (e : W64) : Bool :=
  bit e 0 && !bit e 63 && decide (slice e 11 9 = 0) && (!stage2 || (!bit e 8 && !bit e 7 && !bit e 5))
    && (!bit e 6 || decide (level = 0))
    && (if bit e 1 then decide (level ≤ 2) && (decide (level = 0) || decide (slice e 51 12 * 4096 % pageSize level false = 0))
        else decide (level ≠ 0))

def entryLeaf (level : Nat) (e : W64) (oa : Nat) : Leaf :=
  { oa := oa, size := pageSize level (bit e 6), r := bit e 2, w := bit e 3, x := bit e 4, u := bit e 5, raw := bit e 8,
    discard := bit e 7 }

/-- 19 R317: the leaf that a C = 1 entry at L0 gives: that of the group of 16 when they agree and are consecutive; else that of some one
entry of them, as though its page covered the whole 64 KiB; an entry that is not valid gives none (20 R338). -/
def contiguousLeaf (stage2 : Bool) (group : List W64) (index input : Nat) : Option Leaf :=
  let base := slice (group[0]?.getD 0) 51 12 / 16 * 16
  let same (e : W64) (k : Nat) : Bool :=
    entryOk stage2 0 e && bit e 6 && decide (slice e 51 12 = base + k)
      && decide (e.toNat % 4096 = (group[0]?.getD 0).toNat % 4096)
      && decide (slice e 62 52 = slice (group[0]?.getD 0) 62 52)
  if (List.range 16).all (fun k => same (group[k]?.getD 0) k) then
    some (entryLeaf 0 (group[index]?.getD 0) (base * 4096))
  else
    let e := group[Config.contiguousChoice (input / 65536) % 16]?.getD 0
    if entryOk stage2 0 e then some { entryLeaf 0 e (slice e 51 12 / 16 * 16 * 4096) with size := 65536 } else none

/-- How a walk of one stage ends: a leaf, a miss of this stage, or the stage-2 miss of one of its tables. -/
inductive Walk where
  | leaf (l : Leaf)
  | miss
  | tableMiss (ipa : Nat)
  | deny
  deriving DecidableEq, Repr

/-- 19 R319: whose walk it is: the tag of its entries in the walk caches of a die. -/
structure WalkTag where
  die    : Nat
  stage2 : Bool
  vd     : Nat
  hyper  : Bool
  deriving DecidableEq, Repr

/-- The entry of a walk cache that covers an input address at a level; one with an uncorrectable error is none (R330). -/
def State.cachedWalk (s : State) (t : WalkTag) (level input : Nat) : Option WalkEntry :=
  s.walks.find? (fun e => !e.bad && decide (e.die = t.die ∧ e.stage2 = t.stage2 ∧ e.vd = t.vd ∧ e.hyper = t.hyper ∧ e.level = level
    ∧ e.first ≤ input ∧ input < e.first + e.size))

/-- What a walk leaves: the entries that it used and the walk caches take, and the physical addresses that it read (19 R319). -/
structure WalkLog where
  entries : List WalkEntry
  reads   : List Nat
  deriving DecidableEq, Repr

def WalkLog.none : WalkLog := { entries := [], reads := [] }
def WalkLog.and (a b : WalkLog) : WalkLog := { entries := a.entries ++ b.entries, reads := a.reads ++ b.reads }

/-- A walk that gives no leaf leaves nothing in the caches. -/
def WalkLog.failed (a : WalkLog) : WalkLog := { a with entries := [] }

/-- What a walk cache takes of an entry that was read. -/
def WalkTag.entry (t : WalkTag) (level input size table : Nat) (leaf : Option Leaf) : WalkEntry :=
  { die := t.die, stage2 := t.stage2, vd := t.vd, hyper := t.hyper, level := level, first := input / size * size, size := size,
    table := table, leaf := leaf, used := 0, bad := false }

/-- 19 R315, R317: a walk from a table at `level`, and what it leaves (R319).  `table` gives the physical address of a table, or the miss. -/
def walkFrom (s : State) (tag : WalkTag) (input : Nat) (table : Nat → Walk × WalkLog) :
    List Nat → Nat → Walk × WalkLog
  | [], _ => (.miss, .none)
  | level :: rest, oa =>
    match s.cachedWalk tag level input with
    | some c => match c.leaf with
      | some l => (.leaf l, { entries := [c], reads := [] })
      | none => let (w, q) := walkFrom s tag input table rest c.table; (w, { q with entries := c :: q.entries })
    | none => match table oa with
      | (.leaf t, p0) =>
        let at_ (k : Nat) : W64 := BitVec.ofNat 64 (bytesNat (s.plainRead (t.oa + 8 * k) 8))
        let index := input / 2 ^ (12 + 9 * level) % (if level = 4 then 256 else 512)
        let e := at_ index
        let p := p0.and { entries := [], reads := [t.oa + 8 * index] }
        let took (e : WalkEntry) : WalkLog := { entries := [e], reads := [] }
        if entryOk tag.stage2 level e then
          if bit e 1 then
            match (if level = 0 ∧ bit e 6 then
                contiguousLeaf tag.stage2 ((List.range 16).map (fun k => at_ (index / 16 * 16 + k))) (index % 16) input
              else some (entryLeaf level e (slice e 51 12 * 4096))) with
            | some l => (.leaf l, if tag.stage2 then p.and (took (tag.entry level input l.size 0 (some l))) else p)
            | none => (.miss, p)
          else
            let (w, q) := walkFrom s tag input table rest (slice e 51 12 * 4096)
            (w, (p.and (took (tag.entry level input (2 ^ (12 + 9 * level)) (slice e 51 12 * 4096) none))).and q)
        else (.miss, p)
      | (w, p) => (w, p)

def levels : List Nat := [4, 3, 2, 1, 0]

/-- A table that is addressed physically. -/
def physicalTable (oa : Nat) : Walk × WalkLog :=
  (.leaf { oa := oa, size := 4096, r := true, w := true, x := true, u := true, raw := false, discard := false }, .none)

/-- 19 R314: stage 2 of a virtual device; an IPA at or above ipalim misses. -/
def State.walkStage2 (s : State) (die : Nat) (v : VDev) (ipa : Nat) : Walk × WalkLog :=
  if v.ipalim.toNat ≤ ipa then (.miss, .none)
  else walkFrom s { die := die, stage2 := true, vd := v.num, hyper := false } ipa physicalTable levels v.s2root.toNat

/-- A stage-1 table, whose IPA stage 2 translates for a read (19 R320, R322). -/
def State.guestTable (s : State) (die : Nat) (v : VDev) (ipa : Nat) : Walk × WalkLog :=
  match s.walkStage2 die v ipa with
  | (.leaf l, p) =>
    if ¬ l.r ∨ ¬ s.backed (l.oa + ipa % l.size) then (.deny, p)
    else (.leaf { l with oa := l.oa + ipa % l.size }, p)
  | (.miss, p) => (.tableMiss ipa, p)
  | w => w

/-- How an access is translated (19 R314, R317): an entry, a failure, a miss that raises a page request, or a walk that a link holds (R309). -/
inductive Xlat where
  | held
  | ok (e : TlbEntry)
  | fail (c : Cause)
  | miss (stage2 : Bool) (page : Nat) (acc : Nat)
  deriving DecidableEq, Repr

/-- The complete translation of two leaves; its page is the smaller of the two (19 R317). -/
def combine (place : TreeNode) (fabric : Bool) (vd : Nat) (hyper : Bool) (va : Nat) (l1 l2 : Leaf) : TlbEntry :=
  let size := Nat.min l1.size l2.size
  let base := va / size * size
  let ipa := l1.oa + base % l1.size
  { place := place, fabric := fabric, vd := vd, hyper := hyper, va := base, size := size,
    pa := l2.oa + ipa % l2.size, r := l1.r && l2.r, w := l1.w && l2.w, x := l1.x && l2.x, u := l1.u, raw := l1.raw,
    discard := l1.discard, used := 0, bad := false }

/-- The die whose walk caches serve an agent; an engine of the package uses none. -/
def TreeNode.walkDie : TreeNode → Nat
  | .core c => coreDie c
  | .cluster c => c / 16
  | .die d => d
  | _ => 4

/-- A complete walk for a virtual address (19 R314 to R320), and what the walk caches take of it. -/
def State.walkPath (s : State) (place : TreeNode) (fabric : Bool) (vd : Nat) (hyper : Bool) (acc : Acc) (va : Nat) :
    Xlat × WalkLog :=
  let die := TreeNode.walkDie place
  if hyper then
    match s.vds.find? (fun v => v.mgmt) with
    | none => (.fail .translation, .none)
    | some m =>
      match walkFrom s { die := die, stage2 := false, vd := vd, hyper := true } va physicalTable levels m.s1root.toNat with
      | (.leaf l, p) =>
        (.ok (combine place fabric vd true va l { l with size := 2 ^ 52, oa := 0, r := true, w := true, x := true }), p)
      | (_, p) => (.fail .translation, p.failed)
  else match s.vd? vd with
    | none => (.fail .translation, .none)
    | some v =>
      match walkFrom s { die := die, stage2 := false, vd := vd, hyper := false } va (s.guestTable die v) levels v.s1root.toNat with
      | (.miss, p) => (.miss false (va / 4096) acc.code, p.failed)
      | (.tableMiss ipa, p) => (.miss true (ipa / 4096) 0, p.failed)
      | (.deny, p) => (.fail .permission, p.failed)
      | (.leaf l1, p) =>
        match s.walkStage2 die v (l1.oa + va % l1.size) with
        | (.leaf l2, q) =>
          let e := combine place fabric vd false va l1 l2
          (.ok { e with reach := v.ipalim.toNat - (l1.oa + e.va % l1.size) }, p.and q)
        | (.deny, q) => (.fail .permission, (p.and q).failed)
        | (_, q) => (.miss true ((l1.oa + va % l1.size) / 4096) acc.code, (p.and q).failed)

def State.walk (s : State) (place : TreeNode) (fabric : Bool) (vd : Nat) (hyper : Bool) (acc : Acc) (va : Nat) : Xlat :=
  (s.walkPath place fabric vd hyper acc va).1

/-- Which of a die's walk caches an entry stands in, and how many entries that holds (R319). -/
def WalkEntry.cache (e : WalkEntry) : Nat × Bool × Bool := (e.die, e.stage2, e.leaf.isSome)
def WalkEntry.room (e : WalkEntry) : Nat := if e.leaf.isSome then 256 else 512

/-- Whether two entries are of one page and level. -/
def WalkEntry.same (a b : WalkEntry) : Bool :=
  decide (a.die = b.die ∧ a.stage2 = b.stage2 ∧ a.vd = b.vd ∧ a.hyper = b.hyper ∧ a.level = b.level ∧ a.first = b.first ∧ a.size = b.size)

/-- Of some stamps the least. -/
def leastUsed (l : List Nat) : Nat := l.foldl Nat.min (l.headD 0)

/-- A walk cache uses an entry, or takes it; a full one gives up its least recently used entry for it. -/
def keepWalk (stamp : Nat) (l : List WalkEntry) (e : WalkEntry) : List WalkEntry :=
  if l.any (fun k => k.same e && !k.bad) then updIf (fun k => k.same e) (fun k => { k with used := stamp }) l
  else
    let l1 := l.filter (fun k => !k.same e)
    let mine := (l1.filter (fun k => decide (k.cache = e.cache))).map (·.used)
    (if e.room ≤ mine.length then l1.filter (fun k => !(decide (k.cache = e.cache ∧ k.used = leastUsed mine))) else l1)
      ++ [{ e with used := stamp }]

/-- The walk caches use, or take, the entries of a walk. -/
def State.keepWalks (es : List WalkEntry) (s : State) : State :=
  es.foldl (fun s e => { s with walks := keepWalk s.uses s.walks e, uses := s.uses + 1 }) s

/-- 19 R317, R272, 13 R231: whether a translation gives the access its permission; what a range member maps that is reserved or not backed
meets its refusal code 8 (15 R273).  A RAW page refuses a range member as it refuses a store: the model's choice (log entry 68). -/
def State.permits (s : State) (priv : Nat) (acc : Acc) (e : TlbEntry) (va : Nat) : Bool :=
  (match acc with
    | .read => e.r
    | .write => e.w && !e.raw
    | .exec => e.x
    | .atomic => e.r && e.w && !e.raw
    | .range => e.w && !e.raw)
  && (decide (priv ≠ 0) || e.u) && (decide (acc = .range) || s.backed (e.pa + (va - e.va)))

/-- The translation caches that a core's accesses probe (19 R319). -/
def corePlaces (core : Nat) : List TreeNode := [.core core, .cluster (coreCluster core)]

/-- Whether an entry answers an access at a place; the part of a page at or above ipalim it does not (R314). -/
def TlbEntry.answers (place : TreeNode) (fabric : Bool) (vd : Nat) (hyper : Bool) (va : Nat) (e : TlbEntry) : Bool :=
  decide (e.place = place) && decide (e.fabric = fabric) && decide (e.vd = vd) && decide (e.hyper = hyper)
    && decide (e.va ≤ va ∧ va < e.va + Nat.min e.size e.reach)

/-- The caches are probed from the nearest on; an entry with an uncorrectable error does not answer (R330). -/
def State.tlbHit (s : State) (places : List TreeNode) (fabric : Bool) (vd : Nat) (hyper : Bool) (va : Nat) : Option TlbEntry :=
  places.findSome? (fun p => s.tlb.find? (fun e => e.answers p fabric vd hyper va && !e.bad))

/-- R319: how many entries a cache, or a set of it, holds: a core's TLB 128, a set of the second-level TLB 8, a die's fabric translation
cache 1,024. -/
def TlbEntry.room (e : TlbEntry) : Nat :=
  match e.place with
  | .core _ => 128
  | .cluster _ => 8
  | _ => 1024

/-- The entries beside which an entry stands: those of its cache, and in the second-level TLB of its set. -/
def TlbEntry.beside (e k : TlbEntry) : Bool :=
  decide (e.place = k.place ∧ e.fabric = k.fabric) && (match e.place with
    | .cluster _ => decide (e.va / e.size % 512 = k.va / k.size % 512)
    | _ => true)

/-- A cache takes an entry; a full one gives up its least recently used entry for it. -/
def keepTlb (stamp : Nat) (l : List TlbEntry) (e : TlbEntry) : List TlbEntry :=
  let mine := (l.filter e.beside).map (·.used)
  (if e.room ≤ mine.length then l.filter (fun k => !(e.beside k && decide (k.used = leastUsed mine))) else l) ++ [{ e with used := stamp }]

/-- The entry of a translation enters the caches at some places. -/
def State.fillTlb (places : List TreeNode) (e : TlbEntry) (s : State) : State :=
  places.foldl (fun s p => { s with tlb := keepTlb s.uses s.tlb { e with place := p }, uses := s.uses + 1 }) s

/-- A hit: the entry has been used; a hit in a farther cache fills the nearer ones. -/
def State.useTlb (places : List TreeNode) (fabric : Bool) (vd : Nat) (hyper : Bool) (va : Nat) (e : TlbEntry) (s : State) : State :=
  { s with tlb := updIf (fun k => k.answers e.place fabric vd hyper va) (fun k => { k with used := s.uses }) s.tlb,
           uses := s.uses + 1 }.fillTlb (places.takeWhile (fun p => decide (p ≠ e.place))) e

/-- R330: the entries of an access with an uncorrectable error are dropped. -/
def State.dropBad (places : List TreeNode) (fabric : Bool) (vd : Nat) (hyper : Bool) (va : Nat) (s : State) : State :=
  { s with tlb := s.tlb.filter (fun e => !(e.bad && places.any (fun p => e.answers p fabric vd hyper va))) }

/-- The reads of a walk cross the links between its die and the tables' homes (R308). -/
def State.crossReads (die : Nat) (reads : List Nat) (s : State) : State := reads.foldl (fun s pa => s.sendFlit (homeDie pa) die) s

def State.readsHeld (s : State) (die : Nat) (reads : List Nat) : Bool :=
  reads.any (fun pa => s.linkHeld die (homeDie pa) || s.linkHeld (homeDie pa) die)

/-- 19 R319: the translation of a canonical address by a core: from its caches, else by a walk, which fills them.  A failed
translation is never cached. -/
def State.translateAt (places : List TreeNode) (fabric : Bool) (vd : Nat) (priv : Nat) (acc : Acc) (va : Nat) (s : State) :
    Xlat × State :=
  let hyper := decide (priv = 2)
  let s := s.dropBad places fabric vd hyper va
  match s.tlbHit places fabric vd hyper va with
  | some e => (if s.permits priv acc e va then .ok e else .fail .permission, s.useTlb places fabric vd hyper va e)
  | none =>
    let place := places.headD .package
    let (x, log) := s.walkPath place fabric vd hyper acc va
    if s.readsHeld (TreeNode.walkDie place) log.reads then (.held, s)
    else
      let s1 := s.crossReads (TreeNode.walkDie place) log.reads
      match x with
      | .ok e =>
        if s.permits priv acc e va then (.ok e, (s1.fillTlb places e).keepWalks log.entries) else (.fail .permission, s1)
      | x => (x, s1)

/-- 05 R99, 19 R314: the translation of a strand's or an engine's address. -/
def State.translate (core vd priv : Nat) (acc : Acc) (va : W64) (s : State) : Xlat × State :=
  if slice va 63 56 ≠ 0 then (.fail .translation, s)
  else s.translateAt (corePlaces core) false vd priv acc va.toNat

/-- The physical address of a translated access. -/
def TlbEntry.addr (e : TlbEntry) (va : Nat) : Nat := e.pa + (va - e.va)

/-! ## Page requests (19 R321 to R323) -/

/-- The lowest id that no outstanding request of a queue has (19 R322). -/
def freshReqId (q : List PageReq) : Nat := ((List.range (q.length + 1)).find? (fun k => q.all (fun r => r.id != k))).getD 0

/-- 19 R321: a miss joins an outstanding request of its page, enters the queue, or finds it full. -/
def joinQueue (q : List PageReq) (page acc vd : Nat) : Option Nat × List PageReq :=
  match q.find? (fun r => r.page == page && r.vd == vd) with
  | some r => (some r.id, q)
  | none =>
    if (q.filter (fun r => !r.popped)).length < 256 then
      let id := freshReqId q
      (some id, q ++ [{ page := page, acc := acc, vd := vd, id := id, popped := false }])
    else (none, q)

def State.raiseRequest (vd : Nat) (stage2 : Bool) (page acc : Nat) (s : State) : Option Nat × State :=
  if stage2 then
    let (id, q) := joinQueue s.stage2 page acc vd
    (id, { s with stage2 := q })
  else
    let (id, q) := joinQueue (((s.vd? vd).map (·.pageReqs)).getD []) page acc vd
    (id, s.mapVd vd (fun v => { v with pageReqs := q }))

/-- Whether a miss would enter its queue: no outstanding request of its page is there, and the queue has room. -/
def State.raises (vd : Nat) (stage2 : Bool) (page : Nat) (s : State) : Bool :=
  let q := if stage2 then s.stage2 else ((s.vd? vd).map (·.pageReqs)).getD []
  q.all (fun r => !(r.page == page && r.vd == vd)) && decide ((q.filter (fun r => !r.popped)).length < 256)

/-- 19 R321: what a waiting agent keeps of a miss. -/
def State.awaitPage (vd lane : Nat) (ea : W64) (stage2 : Bool) (page acc : Nat) (s : State) : LaneWait × State :=
  let (id, s1) := s.raiseRequest vd stage2 page acc
  ({ lane := lane, ea := ea, stage2 := stage2, id := id }, s1)

/-- 19 R323: whether a reply with an id answers a waiter. -/
def LaneWait.answeredBy (w : LaneWait) (stage2 : Bool) (id : Nat) : Bool := decide (w.stage2 = stage2 ∧ w.id = some id)

/-- 19 R323: INV = 0 makes the waiting lanes walk again, INV = 1 fails them with TRANSLATION. -/
def MemWait.reply (stage2 : Bool) (id : Nat) (inv : Bool) (m : MemWait) : MemWait :=
  if inv then
    { m with
      waiting := m.waiting.filter (fun w => !w.answeredBy stage2 id),
      failed := m.failed ++ (m.waiting.filter (fun w => w.answeredBy stage2 id)).map (fun w =>
        { lane := w.lane, cause := .translation, ea := w.ea }) }
  else { m with waiting := updIf (fun w => w.answeredBy stage2 id) (fun w => { w with id := none }) m.waiting }

/-- Waiting units in ascending order of their numbers. -/
def insertWait (w : LaneWait) : List LaneWait → List LaneWait
  | [] => [w]
  | x :: r => if w.lane < x.lane then w :: x :: r else x :: insertWait w r

def sortWaits : List LaneWait → List LaneWait
  | [] => []
  | w :: r => insertWait w (sortWaits r)

/-- The accesses of a strand that have a translation and are not performed are translated again, in ascending order with those that wait
(20 R336). -/
def MemWait.again (m : MemWait) : MemWait :=
  { m with ok := m.ok.filter (fun u => m.stored.contains u),
           waiting := sortWaits (m.waiting ++ (m.ok.filter (fun u => !m.stored.contains u)).map (fun u =>
             { lane := u.unit, ea := u.ea, stage2 := false, id := none })) }

/-- The event of a device operation that waits (22 R354). -/
def HostWait.event (h : HostWait) : Instr :=
  if h.kind = 0 then .workQueueMessage h.op else if h.kind = 1 then .windowWrite h.op else .windowRead h.op

/-- 22 R355: a reply to a device operation that waits on the id. -/
def State.replyHosts (vd : Nat) (stage2 : Bool) (id : Nat) (inv : Bool) (s : State) : State :=
  let hit (h : HostWait) : Bool := match h.wait with
    | some w => (stage2 || decide (h.op.vd = vd)) && w.answeredBy stage2 id
    | none => false
  let s1 := (s.hostOps.filter hit).foldl (fun s h => s.dueOnce 0 h.event) s
  { s1 with hostOps := updIf hit (fun h => { h with wait := none, invalid := h.invalid || inv }) s1.hostOps }

/-- 19 R323: a page reply: every agent that waits on the id walks again or fails; an unknown reply is counted; an evicted
block takes no reply (05 R114). -/
def State.pageReply (vd : Nat) (stage2 : Bool) (id : Nat) (inv : Bool) (s : State) : State :=
  let q := if stage2 then s.stage2 else ((s.vd? vd).map (·.pageReqs)).getD []
  if q.any (fun r => r.id == id) then
    let s1 := if stage2 then { s with stage2 := s.stage2.filter (fun r => r.id != id) }
      else s.mapVd vd (fun v => { v with pageReqs := v.pageReqs.filter (fun r => r.id != id) })
    let mine (b : Nat) : Bool := ((s1.block? b).map (fun k =>
      (stage2 || k.vd == vd) && decide (k.phase = .running ∨ k.phase = .stopping ∨ k.phase = .draining))).getD false
    let s2 := s1.mapStrands (fun t => mine t.block) (fun t => { t with memWait := t.memWait.map (MemWait.reply stage2 id inv) })
    let hit (c : CopyOp) : Bool := mine c.block && (match c.waiting with
      | some w => w.answeredBy stage2 id
      | none => false)
    let s3 := (s2.copies.filter hit).foldl (fun s c => s.dueOnce 0 (.translationWalk (.engine c.id))) s2
    { s3 with copies := s3.copies.map (fun c =>
        match c.waiting with
        | some w =>
          if hit c then
            { c with waiting := if inv then none else some { w with id := none },
                     status := if inv then 2 else c.status, taddr := if inv then w.ea else c.taddr }
          else c
        | none => c) : State }.replyHosts vd stage2 id inv
  else s.mapVd vd (fun v => { v with discarded := v.discarded + 1 })

end Sys2Proof.Machine
end

