-- ==== Sys2Proof/Machine/Measure.lean ====
section
/-!
DEFINITION. Sys2Proof/Machine/Measure.lean: counters, measurement rings, event records (21 R339 to R347).
-/

namespace Sys2Proof.Machine

/-- 21 R344: n events of number `ev` by an agent of privilege `priv`. -/
def Measure.add (ev n priv : Nat) (m : Measure) : Measure :=
  if m.enable = 0 then m
  else
  { m with count := ⟨((List.range 32).map (fun i =>
      let old := m.count[i]?.getD 0
      let sel := m.select[i]?.getD 0
      if bit m.enable i ∧ slice sel 7 0 = ev ∧ (¬ bit sel 8 ∨ priv = 0) then old + BitVec.ofNat 48 n else old)).toArray,
      by simp⟩ }

def State.count (vd ev n priv : Nat) (s : State) : State :=
  s.mapVd vd (fun v => { v with measure := v.measure.add ev n priv })

/-! ## Clusters (11 R198, R208, R210) -/

def State.clusterOf (s : State) (cl : Nat) : Cluster :=
  (s.clusters.find? (fun c => c.id == cl)).getD
    { id := cl, state := .online, spare := none, withdrawn := false, context := none, incoming := none, sliceAt := 0, drainedAt := 0,
      debts := [] }

def State.mapCluster (cl : Nat) (f : Cluster → Cluster) (s : State) : State :=
  if s.clusters.any (fun c => c.id == cl) then { s with clusters := updIf (fun c => c.id == cl) f s.clusters }
  else { s with clusters := s.clusters ++ [f (s.clusterOf cl)] }

/-- Whether the cluster of a core lets its strands issue (11 R208, R210). -/
def State.clusterIssues (s : State) (core : Nat) : Bool :=
  match s.clusters.find? (fun c => c.id == coreCluster core) with
  | some c => decide (c.state = .online ∨ c.state = .swapping)
  | none => true

/-- 21 R342: whether the strand issued in this ac. -/
def Strand.issuedNow (now : Nat) (t : Strand) : Bool := decide (t.lastIssue ≤ now ∧ now < t.lastIssue + acTicks)

/-- 21 R342: the stall reason: the first entry of its list that applies. -/
def State.sampleReason (s : State) (b : Block) (t : Strand) : Nat :=
  if t.issuedNow s.now then 0
  else if b.phase ≠ .running ∨ ¬ s.clusterIssues b.core then 14
  else if t.wait = .sleeping ∨ t.wait = .yielding then 15
  else if t.reason ≠ 0 then t.reason
  else 1

/-- The privilege level of a block: that of its strands (19 R313). -/
def State.blockPriv (s : State) (block : Nat) : Nat := ((s.strandsOf block).head?.map (·.priv)).getD 1

/-- The (partition, core) pairs that hold a resident block, each once, with the block's privilege level. -/
def State.residences (s : State) : List ((Nat × Nat) × Nat) :=
  (s.allBlocks.filter (fun b => decide (b.phase ≠ .evicted ∧ b.phase ≠ .ended))).foldl (fun l b =>
    if l.any (fun e => decide (e.1 = (b.vd, b.core))) then l else l ++ [((b.vd, b.core), s.blockPriv b.id)]) []

/-- 21 R344: the ac that pass: event 0x00 for each core where a partition has a resident block, event 0x20 + reason for each resident
strand that has neither exited nor halted; the first of them may be the ac in which it issued. -/
def State.countTime (ac : Nat) (s : State) : State :=
  let s1 := s.residences.foldl (fun s e => s.count e.1.1 0x00 ac e.2) s
  (s.allStrands.filter (fun t => decide (t.run = .running ∨ t.run = .stopped))).foldl (fun s1 t => match s.block? t.block with
    | some b =>
      if b.phase = .evicted then s1
      else if t.issuedNow s.now then
        (s1.count b.vd 0x20 1 t.priv).count b.vd (0x20 + { s with now := s.now + acTicks }.sampleReason b t) (ac - 1) t.priv
      else s1.count b.vd (0x20 + s.sampleReason b t) ac t.priv
    | none => s1) s1

/-- Time goes on. -/
def State.advance (t : Nat) (s : State) : State :=
  if t ≤ s.now then s
  else
    let ac := t / acTicks - s.now / acTicks
    if ac = 0 then { s with now := t } else { s.countTime ac with now := t }

/-- 21 R339: the physical address at which the device reaches a byte of a partition with the permissions of PRIV 1; no page
request is raised. -/
def State.deviceAddr (s : State) (vd : Nat) (acc : Acc) (va : Nat) : Option Nat :=
  match s.walk .package true vd false acc va with
  | .ok e => if s.permits 1 acc e va then some (e.addr va) else none
  | _ => none

/-- 21 R347: a notification; one that finds the queue full is discarded and counted. -/
def State.ringNotice (vd : Nat) (event dropping : Bool) (head : Nat) (s : State) : State :=
  match s.vd? vd with
  | none => s
  | some v =>
    if v.measure.notices.length < 64 then
      s.mapVd vd (fun v => { v with measure := { v.measure with notices := v.measure.notices ++
        [BitVec.ofNat 64 ((if event then 2 ^ 63 else 0) + (if dropping then 2 ^ 60 else 0) + head % 2 ^ 48)] } })
    else s.count vd 0x12 1 1

def VDev.ring (event : Bool) (v : VDev) : Ring := if event then v.measure.event else v.measure.sample

def VDev.setRing (event : Bool) (r : Ring) (v : VDev) : VDev :=
  { v with measure := if event then { v.measure with event := r } else { v.measure with sample := r } }

/-- 21 R339: `n` records are dropped; while the control block cannot be written, only the counter event counts them. -/
def State.ringDrop (vd : Nat) (event : Bool) (n : Nat) (s : State) : State :=
  match s.vd? vd with
  | none => s
  | some v =>
    let r := v.ring event
    let n' := Nat.min (r.drops + n) (2 ^ 64 - 1)
    let s1 := s.count vd (if event then 0x12 else 0x11) n 1
    let s2 := match s1.deviceAddr vd .write (r.base.toNat + 16) with
      | some pa => (s1.mapVd vd (VDev.setRing event { r with drops := n', dropping := true })).homeWriteBytes pa (natBytes 8 n')
      | none => s1.mapVd vd (VDev.setRing event { r with dropping := true })
    if r.dropping then s2 else s2.ringNotice vd event true r.head

/-- The occupancy of a ring: head minus the tail that the consumer has stored at the home. -/
def State.ringUsed (s : State) (vd : Nat) (r : Ring) : Option Nat :=
  match s.deviceAddr vd .write r.base.toNat with
  | some pa => some ((r.head + 2 ^ 64 - bytesNat (s.plainRead (pa + 8) 8)) % 2 ^ 64)
  | none => none

/-- 21 R339, R340: one record of 32 bytes: dropped when head - tail = N or where the ring is unwritable, else written before head + 1 is.
R347: the ring has not dropped since its occupancy last fell below N/2. -/
def State.ringWrite (vd : Nat) (event : Bool) (bytes : List Byte) (s : State) : State :=
  match s.vd? vd with
  | none => s
  | some v =>
    let r := v.ring event
    if r.size = 0 then s
    else match s.ringUsed vd r with
      | none => s.ringDrop vd event 1
      | some used =>
        let fell := r.half && decide (used < r.size / 2)
        let r1 := { r with half := r.half && !fell, dropping := r.dropping && !fell }
        let s1 := s.mapVd vd (VDev.setRing event r1)
        if used = r.size then s1.ringDrop vd event 1
        else match s.deviceAddr vd .write (r.base.toNat + 64 + 32 * (r.head % r.size)),
                   s.deviceAddr vd .write r.base.toNat with
          | some slot, some ctl =>
            let s2 := (s1.homeWriteBytes slot bytes).homeWriteBytes ctl (natBytes 8 (r.head + 1))
            let full := decide (r.size / 2 ≤ used + 1)
            let s3 := s2.mapVd vd (VDev.setRing event { r1 with head := r.head + 1, half := r1.half || full })
            if full ∧ ¬ r1.half then s3.ringNotice vd event false (r.head + 1) else s3
          | _, _ => s1.ringDrop vd event 1

/-- 21 R346: the common header of an event record, then its body of 16 bytes. -/
def eventBytes (time : W64) (engine status place dur : Nat) (body : List Byte) : List Byte :=
  natBytes 8 time.toNat ++ [BitVec.ofNat 8 engine, BitVec.ofNat 8 status] ++ natBytes 2 place
    ++ natBytes 4 (Nat.min dur (2 ^ 32 - 1)) ++ body

/-- 21 R346: a record enters the event ring while EEN is 1. -/
def State.event (vd engine status place dur : Nat) (body : List Byte) (s : State) : State :=
  match s.vd? vd with
  | some v => if v.measure.een then s.ringWrite vd true (eventBytes s.timeNs engine status place dur body) else s
  | none => s

/-- 21 R346: the graft records that home requests have left to be written. -/
def State.writeGraftLog (s : State) : State :=
  s.graftLog.foldl (fun s e =>
    let w (k : Nat) : Nat := (e.2[k]?.getD 0).toNat
    let va := ((s.binding? (w 0)).map (·.va)).getD 0
    let s1 := (s.count e.1 0x09 (if w 3 = 2 then 0 else 1) 1).count e.1 0x0A (if w 3 = 2 then 1 else 0) 1
    let d := homeDie (w 0)
    let (c0, r0) := match s.vd? e.1 with
      | some v => (v.x0 / 4, v.y0 / 4)
      | none => (0, 0)
    s1.event e.1 3 (w 2) ((d / 2 - r0) * 8192 + (d % 2 - c0) * 4096) (w 5)
      (natBytes 8 va.toNat ++ natBytes 2 (w 1) ++ [BitVec.ofNat 8 (w 3), 0] ++ natBytes 2 (w 4) ++ [0, 0]))
    { s with graftLog := [] }

/-! ## When a core samples (21 R341) -/

/-- Whether a resident block of a core can be sampled. -/
def State.samplesOn (s : State) (core : Nat) : Bool :=
  s.allBlocks.any (fun b => decide (b.core = core ∧ b.phase ≠ .evicted ∧ b.phase ≠ .ended) && b.sampleOn
    && ((s.vd? b.vd).map (·.measure.sen)).getD false)

/-- The smallest K of the partitions that share a core, while one of them samples on it. -/
def State.samplePeriod (s : State) (core : Nat) : Option Nat :=
  if s.samplesOn core then
    (s.vds.filter (fun v => v.holds (coreCluster core) || s.allBlocks.any (fun b => decide (b.core = core ∧ b.vd = v.num ∧ b.phase ≠ .evicted ∧ b.phase ≠ .ended)))).foldl
      (fun m v => some (Nat.min v.measure.k (m.getD v.measure.k))) none
  else none

/-- A core takes its next sample after 2^k ac, while a partition samples on it; one sample of a core is due at a time. -/
def State.sampleNext (core : Nat) (s : State) : State :=
  match s.samplePeriod core with
  | some k =>
    if s.agenda.any (fun d => decide (d.ev = .sample core ∧ d.at_ ≤ s.now + 2 ^ k * acTicks)) then s
    else (s.undue (.sample core)).due (2 ^ k * acTicks) (.sample core)
  | none => s

/-- A core whose period has changed starts a new one. -/
def State.resample (old : Option Nat) (core : Nat) (s : State) : State :=
  if s.samplePeriod core = old then s else (s.undue (.sample core)).sampleNext core

/-- A step of the part that is no strand's word: its effect, then the graft records it left. -/
def stepOf (f : State → State) (s : State) : Host.Outcome State Fault Refusal := .next (f s).writeGraftLog

end Sys2Proof.Machine
end

