-- ==== Sys2Proof/Machine/Ports.lean ====
section
/-!
DEFINITION. Sys2Proof/Machine/Ports.lean: the queue ports s56 to s59 (01 R14): qpage (19 R322, R323), qfault (19 R329), qevent
(21 R347), qmgmt (22 R360).

A strand of PRIV 1 or 2 reaches its own virtual device's queues; PRIV 2 reaches the hypervisor's page queue and the package
fault queue.
-/

namespace Sys2Proof.Machine

/-- 19 R322: the doubleword of a page request. -/
def PageReq.word (stage2 : Bool) (r : PageReq) : W64 :=
  if stage2 then BitVec.ofNat 64 (r.page % 2 ^ 40 * 2 ^ 24 + r.vd % 64 * 2 ^ 18 + r.acc % 4 * 2 ^ 16 + r.id % 65536)
  else BitVec.ofNat 64 (r.page % 2 ^ 44 * 2 ^ 20 + r.acc % 4 * 2 ^ 18 + r.id % 65536)

def State.hyper (s : State) : Bool := decide (s.me.priv = 2)

/-- The page-request queue that the strand serves. -/
def State.pageQueue (s : State) : List PageReq :=
  if s.hyper then s.stage2 else ((s.vd? s.blk.vd).map (·.pageReqs)).getD []

/-- Marks the oldest request that no supervisor has read as read. -/
def popRequest : List PageReq → List PageReq
  | [] => []
  | r :: q => if r.popped then r :: popRequest q else { r with popped := true } :: q

/-- 01 R14: the head of a port, if there is one. -/
def State.portHead (s : State) (p : Nat) : Option W64 :=
  if p = 56 then (s.pageQueue.find? (fun r => !r.popped)).map (PageReq.word s.hyper)
  else if p = 57 then (if s.hyper then s.pkgFaults.head? else ((s.vd? s.blk.vd).map (·.faultQ.head?)).getD none)
  else if p = 58 then ((s.vd? s.blk.vd).map (·.measure.notices.head?)).getD none
  else ((s.vd? s.blk.vd).map (·.mailIn.head?)).getD none

/-- 01 R14: the head of a port leaves; a held fault record may have room now. -/
def State.portPop (p : Nat) (s : State) : State :=
  if p = 56 then
    if s.hyper then { s with stage2 := popRequest s.stage2 }
    else s.mapVd s.blk.vd (fun v => { v with pageReqs := popRequest v.pageReqs })
  else if p = 57 then
    if s.hyper then { s with pkgFaults := s.pkgFaults.tail }
    else
      let s1 := s.mapVd s.blk.vd (fun v => { v with faultQ := v.faultQ.tail })
      if ((s.vd? s.blk.vd).map (·.heldFaults)).getD [] = [] then s1 else s1.dueOnce 0 (.faultRecordPush s.blk.vd)
  else if p = 58 then s.mapVd s.blk.vd (fun v => { v with measure := { v.measure with notices := v.measure.notices.tail } })
  else s.mapVd s.blk.vd (fun v => { v with mailIn := v.mailIn.tail })

/-- 05 R120: whether the strand's earlier stores and atomics to peers have been acknowledged, as a release awaits. -/
def State.releaseReady (s : State) : Bool := decide (s.me.peerStores = 0)

/-- 01 R14: whether a port can take a value: the release of a `qpage` write can complete (19 R323), the outbound mailbox has
room (22 R360); a marker is never held (21 R347). -/
def State.portRoom (s : State) (p : Nat) : Bool :=
  if p = 56 then s.releaseReady && !s.heldBack s.blk.core (s.core.dirty.map (·.1))
  else if p = 59 then decide ((((s.vd? s.blk.vd).map (·.mailOut)).getD []).length < 64)
  else true

/-- 19 R323: a write of `qpage` acts as `pub.pkg` and pushes the reply. -/
def State.writeQpage (x : W64) (s : State) : State :=
  let s1 := s.l1Publish s.blk.core
  let discards (s : State) : Nat := ((s.vd? s.blk.vd).map (·.discarded)).getD 0
  let s2 :=
    if slice x 63 17 ≠ 0 then s1.mapVd s.blk.vd (fun v => { v with discarded := v.discarded + 1 })
    else s1.pageReply s.blk.vd s.hyper (slice x 15 0) (bit x 16)
  s2.count s.blk.vd 0x0F (discards s2 - discards s1) s.me.priv

/-- 21 R347: a marker record with the core's place and the PC of the writing instruction. -/
def State.writeQevent (x : W64) (s : State) : State :=
  s.event s.blk.vd 5 0 (s.placeOf s.blk.vd s.blk.core).toNat 0 (natBytes 8 x.toNat ++ natBytes 8 s.me.pc.toNat)

/-- 22 R360: an outbound doubleword, which is sent to the NOTIFY endpoint. -/
def State.writeQmgmt (x : W64) (s : State) : State :=
  ((s.mapVd s.blk.vd (fun v => { v with mailOut := v.mailOut ++ [x] })).dueOnce 0 (.notification s.blk.vd))

/-- 01 R14: a value is pushed to a port.  The spec gives a write of `qfault` no meaning: the value is dropped (log entry
12). -/
def State.portPush (p : Nat) (x : W64) (s : State) : State :=
  if p = 56 then s.writeQpage x
  else if p = 58 then s.writeQevent x
  else if p = 59 then s.writeQmgmt x
  else s

end Sys2Proof.Machine
end

