-- ==== Sys2Proof/Machine/Operands.lean ====
section
/-!
DEFINITION. Sys2Proof/Machine/Operands.lean: every operand form, and the issue of one word.

What a word names (01 R14 to R16), the order of its traps (01 R33), stalls, stall counts and the scoreboard (01 R25, R26,
02 R50, R377), the pops of ports and channels, the reading and writing of registers, and the end of the word.
-/

namespace Sys2Proof.Machine

/-- What a word names: scalar sources, destinations and ranges (base, count) that it reads or writes; vector fields with their class bit;
masks. -/
structure Use where
  sr    : List (BitVec 6) := []
  sw    : List (BitVec 6) := []
  range : List (BitVec 6 × Nat) := []
  wrange : List (BitVec 6 × Nat) := []
  vr    : List (BitVec 7) := []
  vw    : List (BitVec 7) := []
  mr    : List (BitVec 3) := []
  mw    : List (BitVec 3) := []
  peek  : Bool := false
  deriving DecidableEq, Repr

/-- What the issue of a word depends on (`counted` where its meaning counts its own issue, 19 R328): the word itself, whether its fields are allowed (01 R32) and allowed in protected
launch mode (02 R48), the privilege level it needs (01 R23), what it names, whether the unit numbers it names exist in the
block (07 R129), the latency of its results and whether stall counts may shorten it (02 R50, R377); whether it is a hint,
has its registers interlocked whatever the count (03 R69), or runs under the lanes' mask (02 R54); the format value that makes it trap FORMAT (04
R95). -/
structure Form where
  word    : W32
  ok      : Bool := true
  okProt  : Bool := true
  level   : Nat := 0
  use     : Use := {}
  units   : Bool := true
  lat     : Nat := 0
  fixed   : Bool := true
  hint    : Bool := false
  locked  : Bool := false
  vector  : Bool := false
  counted : Bool := false
  badFmt  : Option W64 := none
  deriving DecidableEq, Repr

/-! ## Names -/

def isPort (r : BitVec 6) : Bool := decide (56 ≤ r.toNat ∧ r.toNat < 60)

/-- A vector field of class 1 names a channel (01 R15). -/
def isChan (f : BitVec 7) : Bool := decide (64 ≤ f.toNat)

def chanIndex (f : BitVec 7) : Nat := f.toNat % 64

/-- 01 R14, R16: no s60 to s63, no range past s55, no vector register at or above the budget, no m0 as a destination. -/
def Use.namesOk (u : Use) (budget : Nat) : Bool :=
  u.sr.all (fun r => decide (r.toNat < 60)) && u.sw.all (fun r => decide (r.toNat < 60))
    && u.range.all (fun r => decide (r.1.toNat + r.2 ≤ 56)) && u.wrange.all (fun r => decide (r.1.toNat + r.2 ≤ 56))
    && u.vr.all (fun f => isChan f || decide (f.toNat < budget)) && u.vw.all (fun f => isChan f || decide (f.toNat < budget))
    && u.mw.all (fun m => decide (m ≠ 0))

/-- The ports that a word pops, each once (01 R14). -/
def Use.popPorts (u : Use) : List Nat := (u.sr.filter isPort).foldl (fun l r => setInsert l r.toNat) []

def Use.pushPorts (u : Use) : List Nat := (u.sw.filter isPort).foldl (fun l r => setInsert l r.toNat) []

/-- Whether a field of the word names a port, the base of a range too (01 R14, R33). -/
def Use.namesPort (u : Use) : Bool := u.sr.any isPort || u.sw.any isPort || u.range.any (fun r => isPort r.1)
    || u.wrange.any (fun r => isPort r.1)

/-- The channels that a word reads, each once (01 R15). -/
def Use.readChans (u : Use) : List Nat := (u.vr.filter isChan).foldl (fun l f => setInsert l (chanIndex f)) []

def Use.writeChans (u : Use) : List Nat := (u.vw.filter isChan).foldl (fun l f => setInsert l (chanIndex f)) []

/-- The registers that a word reads, and those it writes. -/
def Use.reads (u : Use) : List RegName :=
  u.sr.map (fun r => .scalar r.toNat) ++ u.range.flatMap (fun r => (List.range r.2).map (fun k => .scalar (r.1.toNat + k)))
    ++ (u.vr.filter (fun f => !isChan f)).map (fun f => .vector f.toNat) ++ u.mr.map (fun m => .mask m.toNat)

def Use.writes (u : Use) : List RegName :=
  (u.sw.filter (fun r => r != 0 && !isPort r)).map (fun r => .scalar r.toNat)
    ++ u.wrange.flatMap (fun r => ((List.range r.2).filter (fun k => r.1.toNat + k != 0)).map (fun k => .scalar (r.1.toNat + k)))
    ++ (u.vw.filter (fun f => !isChan f)).map (fun f => .vector f.toNat) ++ u.mw.map (fun m => .mask m.toNat)

/-! ## Channels (07 R137, 09 R194) -/

/-- What stands in the way of a use of a channel: a trap, or nothing; `none` beside `true` means that it waits. -/
def strandInSlot (s : State) (slot : Nat) : Option Strand := (s.strandsOf s.me.block).find? (fun t => t.slot == slot)

/-- 03 R70, 09 R194: the other end has closed or exited; 02 R56: it has halted. -/
def endGone (s : State) (e : Option Nat) (closed : Bool) : Bool :=
  closed || (match e with
    | some k => ((strandInSlot s k).map (fun t => decide (t.run = .exited))).getD false
    | none => false)

def endHalted (s : State) (e : Option Nat) : Bool :=
  match e with
  | some k => ((strandInSlot s k).map (fun t => decide (t.run = .halted))).getD false
  | none => false

/-- 01 R15, 03 R70, 02 R56: a channel as a source: a trap, a wait, or neither. -/
def State.chanRead (s : State) (c : Nat) : Option Trap × Bool :=
  let bad := some (s.trapAll .channel (BitVec.ofNat 64 c) 0)
  match s.blk.channels[c]? with
  | none => (bad, false)
  | some ch =>
    if ch.reader ≠ some s.me.slot then (bad, false)
    else if ch.entries ≠ [] then (none, false)
    else if endGone s ch.writer ch.writerClosed then (bad, false)
    else if endHalted s ch.writer then (some (s.trapAll .abandoned 0 0), false)
    else (none, true)

/-- The same for a destination; an entry that the word itself pops makes room. -/
def State.chanWrite (s : State) (c : Nat) (popped : Bool) : Option Trap × Bool :=
  let bad := some (s.trapAll .channel (BitVec.ofNat 64 c) 0)
  match s.blk.channels[c]? with
  | none => (bad, false)
  | some ch =>
    if ch.writer ≠ some s.me.slot then (bad, false)
    else if endGone s ch.reader ch.readerClosed then (bad, false)
    else if ch.entries.length < ch.depth + (if popped then 1 else 0) then (none, false)
    else if endHalted s ch.reader then (some (s.trapAll .abandoned 0 0), false)
    else (none, true)

/-- The first trap of a word's channels, and whether one of them makes it wait. -/
def State.chanCheck (s : State) (u : Use) : Option Trap × Bool :=
  let rs := u.readChans.map s.chanRead ++ u.writeChans.map (fun c => s.chanWrite c (!u.peek && u.readChans.contains c))
  ((rs.filterMap (·.1)).head?, rs.any (·.2))

def updChan (b : Block) (c : Nat) (f : Channel → Channel) : Block := { b with channels := updAt b.channels c f }

/-! ## Stall counts and the scoreboard -/

/-- The time at which a named register's pending result is there; `all` takes the fixed-latency results in too. -/
def readyTime (t : Strand) (names : List RegName) (all : Bool) (t0 : Nat) : Nat :=
  t.pending.foldl (fun m p => if names.contains p.reg ∧ (all ∨ ¬ p.fixed) then Nat.max m p.ready else m) t0

def allFixedTime (t : Strand) (t0 : Nat) : Nat := t.pending.foldl (fun m p => if p.fixed then Nat.max m p.ready else m) t0

/-- The stall count that governs a word: 0 to 7, 7 for one that is not covered (01 R25). -/
def Form.count (f : Form) (t : Strand) : Nat := if f.hint then 7 else t.stall.headD 7

/-- 01 R25, 03 R57: the time at which a word issues, when nothing else holds it.  A mask-control word waits as its count says, and for its
registers whatever the count (03 R69). -/
def issueTime (f : Form) (s : State) : Nat :=
  let t := s.me
  let names := f.use.reads ++ f.use.writes
  let base := Nat.max s.now t.readyAt
  let c := f.count t
  if c ≤ 5 then readyTime t names f.locked (Nat.max base (t.issuedAt + c * acTicks))
  else if c = 6 then readyTime t names f.locked (allFixedTime t base)
  else readyTime t names true base

/-- 01 R26: the register number of TVAL. -/
def RegName.number : RegName → Nat
  | .scalar i => i
  | .vector i => 64 + i
  | .mask i => 128 + i
  | .channel i => i

/-- 01 R26: the named register whose fixed-latency result is still pending at time t. -/
def stillPending (f : Form) (t : Nat) (x : Strand) : Option RegName :=
  (f.use.reads ++ f.use.writes).find? (fun r => x.pending.any (fun p => decide (p.reg = r) && p.fixed && decide (t < p.ready)))

/-! ## The verdict on a word (01 R33) -/

/-- What happens to a word at its strand's PC. -/
inductive Verdict where
  | absent
  | trap (x : Trap)
  | stall (reason : Nat)
  | go
  deriving DecidableEq, Repr

/-- 01 R33: the first trap condition in order; a wait comes before the traps that are judged at issue. -/
def verdict (f : Form) (s : State) : Verdict :=
  let bad (c : Cause) : Verdict := .trap (s.trapAll c (f.word.setWidth 64) 0)
  if s.me.run ≠ .running then .absent
  else if s.me.issued then .go
  else if ¬ f.ok ∨ (s.me.prot ∧ ¬ f.okProt) then bad .illegal
  else if s.me.priv < f.level ∨ (s.me.priv = 0 ∧ f.use.namesPort) then bad .privileged
  else if ¬ f.use.namesOk s.me.budget ∨ ¬ f.units then bad .illegal
  else
    let (chanTrap, chanWaits) := s.chanCheck f.use
    let portsWait := f.use.popPorts.any (fun p => (s.portHead p).isNone) || f.use.pushPorts.any (fun p => !s.portRoom p)
    if chanTrap.isNone ∧ (chanWaits ∨ portsWait) then .stall 7
    else
      match (if s.me.chk ∧ f.count s.me ≤ 5 then stillPending f (issueTime f s) s.me else none) with
      | some r => .trap (s.trapAll .stallcount (BitVec.ofNat 64 r.number) 0)
      | none => match chanTrap with
        | some x => .trap x
        | none => .go

/-! ## Issue: the sources are latched -/

/-- 01 R25, 04 R97: an under-counted source, each lane or bit by itself, as the old or the new value. -/
def staleValue (now : Nat) (new : OldValue) (old : OldValue) : OldValue :=
  match new, old with
  | .scalar x, .scalar y => .scalar (if Config.readsNew now then x else y)
  | .vector x, .vector y => .vector (Vec.tab (fun L => if Config.readsNew (now + L) then Vec.lane x L else Vec.lane y L))
  | .mask x, .mask y => .mask (maskOf (fun L => if Config.readsNew (now + L) then bit x L else bit y L))
  | x, _ => x

/-- The architectural content of a register. -/
def Strand.content (t : Strand) : RegName → OldValue
  | .scalar i => .scalar (if i = 0 then 0 else t.s[i]?.getD 0)
  | .vector i => .vector (t.v[i]?.getD (Vec.splat 0))
  | .mask i => .mask (t.m[i]?.getD 0)
  | .channel _ => .vector (Vec.splat 0)

/-- The sources of a word that stand under a count that is too low, with what the word reads: each source, and each lane of it, for
itself (04 R97). -/
def staleReads (f : Form) (t : Nat) (s : State) : List (RegName × OldValue) :=
  (s.me.pending.filter (fun p => p.fixed && decide (t < p.ready) && f.use.reads.contains p.reg)).zipIdx.map (fun p =>
    (p.1.reg, staleValue (s.free + 32 * p.2) (s.me.content p.1.reg) p.1.old))

/-- 01 R14, R15: the word issues: the ports it names are popped once and every source is latched.  A pop is an effect of issue (01
R14), so a vector word that then runs under an empty mask has popped its port too; 02 R54 gives such a word no other effect than its
channel's pop or push and does not speak of ports (log entry 42). -/
def State.begin (f : Form) (s : State) : State :=
  if s.me.issued then s.advance (Nat.max s.now s.me.readyAt)
  else
    let t := issueTime f s
    let stale := if f.count s.me ≤ 5 then staleReads f t s else []
    let ports := f.use.popPorts.map (fun p => (RegName.scalar p, OldValue.scalar ((s.portHead p).getD 0)))
    let chans := f.use.readChans.map (fun c =>
      (RegName.channel c, OldValue.vector (((s.blk.channels[c]?).bind (·.entries.head?)).getD (Vec.splat 0))))
    let s1 := (f.use.popPorts.foldl (fun s p => s.portPop p) s).advance t
    { s1 with free := s1.free + 32 * stale.length,
              me := { s1.me with latch := ports ++ chans ++ stale, reason := 0, issuedPc := s1.me.pc, lastIssue := t,
                                 issuedAt := if f.hint then s1.me.issuedAt else t } }

/-! ## Reading -/

def latched (l : List (RegName × OldValue)) (r : RegName) : Option OldValue := (l.find? (fun e => decide (e.1 = r))).map (·.2)

/-- S[r] (01 R14). -/
def State.sreg (s : State) (r : BitVec 6) : W64 :=
  if r = 0 then 0
  else match latched s.me.latch (.scalar r.toNat) with
    | some (.scalar x) => x
    | _ => s.me.s[r.toNat]?.getD 0

/-- S[r + k] of a range (01 R14). -/
def State.srange (s : State) (r : BitVec 6) (k : Nat) : W64 :=
  match latched s.me.latch (.scalar (r.toNat + k)) with
  | some (.scalar x) => x
  | _ => if r.toNat + k = 0 then 0 else s.me.s[r.toNat + k]?.getD 0

/-- The operand of a vector field: a register or the popped entry (01 R15). -/
def State.vreg (s : State) (f : BitVec 7) : Vec :=
  if isChan f then
    match latched s.me.latch (.channel (chanIndex f)) with
    | some (.vector x) => x
    | _ => Vec.splat 0
  else match latched s.me.latch (.vector f.toNat) with
    | some (.vector x) => x
    | _ => s.me.v[f.toNat]?.getD (Vec.splat 0)

/-- M[m]; m0 is the current active mask (01 R16). -/
def State.mreg (s : State) (m : BitVec 3) : W32 :=
  match latched s.me.latch (.mask m.toNat) with
  | some (.mask x) => x
  | _ => s.me.m[m.toNat]?.getD 0

/-! ## Writing -/

def Strand.putS (r : Nat) (x : W64) (t : Strand) : Strand := { t with s := ⟨t.s.toArray.set! r x, by simp⟩ }
def Strand.putV (r : Nat) (x : Vec) (t : Strand) : Strand := { t with v := ⟨t.v.toArray.set! r x, by simp⟩ }
def Strand.putM (r : Nat) (x : W32) (t : Strand) : Strand := { t with m := ⟨t.m.toArray.set! r x, by simp⟩ }

/-- 01 R14: a scalar destination: s0 discards, a port takes the value, any other register holds it. -/
def State.setS (r : BitVec 6) (x : W64) (s : State) : State :=
  if r = 0 then s
  else if isPort r then s.portPush r.toNat x
  else s.mapMe (Strand.putS r.toNat x)

/-- 07 R137, 03 R75: an entry is pushed; the reader's slot is woken. -/
def State.chanPush (c : Nat) (x : Vec) (s : State) : State :=
  let s1 := s.mapBlk (fun b => updChan b c (fun ch => { ch with entries := ch.entries ++ [x] }))
  match (s.blk.channels[c]?).bind (·.reader) with
  | some slot => s1.wakeStrands (fun t => t.block == s.me.block && t.slot == slot)
  | none => s1

/-- 00 R9, 01 R15: a vector destination: the lanes of `mask` take the new elements; the others keep theirs, which for a
channel are 0. -/
def State.setV (f : BitVec 7) (mask : W32) (x : Vec) (s : State) : State :=
  if isChan f then s.chanPush (chanIndex f) (Vec.tab (fun L => if bit mask L then Vec.lane x L else 0))
  else
    let old := s.me.v[f.toNat]?.getD (Vec.splat 0)
    s.mapMe (Strand.putV f.toNat (Vec.tab (fun L => if bit mask L then Vec.lane x L else Vec.lane old L)))

/-- 02 R48: a mask destination; the bits above the visible lanes read as zero. -/
def State.setM (m : BitVec 3) (x : W32) (s : State) : State := s.mapMe (fun t => t.putM m.toNat (x &&& t.visible))

/-- m0 changes through the active-mask stack (02 R45). -/
def State.setM0 (x : W32) (s : State) : State := s.mapMe (fun t => t.putM 0 (x &&& t.visible))

/-! ## Protected launch mode (02 R48, R49) -/

/-- 02 R49: the visible lanes of `mask` whose pair disagrees. -/
def State.disagree (s : State) (mask : W32) : W32 := if s.me.prot then s.me.shadow &&& mask &&& s.me.visible else 0

/-- 02 R49: a value leaves the lanes: where a pair disagrees, the strand halts and nothing is written. -/
def State.compare (mask : W32) (r : Result) (s : State) : Result :=
  if s.disagree mask = 0 then r
  else .ended (s.halt { cause := .protectMismatch, tval := 0, lanes := s.disagree mask, taddr := 0 })

/-! ## The end of a word -/

/-- 01 R15: the channels that the word read give up their entry. -/
def State.popChans (u : Use) (s : State) : State :=
  if u.peek then s
  else u.readChans.foldl (fun s c => s.mapBlk (fun b => updChan b c (fun ch => { ch with entries := ch.entries.tail }))) s

/-- 02 R50, R377: the latency of a word's results; a word that reads a queue port has its results no earlier than 4 ac after the pop. -/
def Form.latency (f : Form) : Nat := if f.use.popPorts = [] then f.lat else Nat.max f.lat 4

/-- 02 R50, R377: the results of the word become pending; what has been written by now is no longer.  Stall counts never shorten the
result of a read of a queue port or of a channel (01 R25). -/
def Strand.pend (f : Form) (t0 : Nat) (t before : Strand) : Strand :=
  let writes := if f.latency = 0 then [] else f.use.writes
  { t with pending := t.pending.filter (fun p => decide (t0 < p.ready) && !f.use.writes.contains p.reg)
      ++ writes.map (fun r => { reg := r, ready := t0 + f.latency * acTicks, old := before.content r,
                                fixed := f.fixed && decide (f.use.popPorts = [] ∧ f.use.readChans = []) }) }

/-- 01 R25: a non-hint instruction uses up one count of the coverage. -/
def Strand.uncover (f : Form) (t : Strand) : Strand := if f.hint then t else { t with stall := t.stall.tail }

/-- 21 R344: the counters of an issued word. -/
def State.countWord (vector : Bool) (s : State) : State :=
  let s1 := s.count s.blk.vd 0x01 1 s.me.priv
  if vector then s1.count s.blk.vd 0x02 1 s.me.priv else s1

/-- A hint is not counted; a word whose meaning has counted its issue is not counted again. -/
def State.countIssue (f : Form) (s : State) : State := if f.hint ∨ f.counted then s else s.countWord f.vector

/-- 19 R330: a register that is written whole holds no error any more. -/
def Strand.mend (f : Form) (mask : W32) (t : Strand) : Strand :=
  if t.corrupt = [] then t
  else { t with corrupt := t.corrupt.filter (fun r => !(f.use.writes.contains r && (match r with
    | .vector _ => decide (mask = t.visible)
    | _ => true))) }

/-- The word has completed: PC moves, its results are pending, its hints and its coverage are used up. -/
def State.complete (f : Form) (before : State) (pc : W64) (cost : Nat) (s : State) : State :=
  ((((s.popChans f.use).mapMe (fun t => ((t.pend f before.now before.me).uncover f).mend f before.active)).countIssue f).retire pc cost f.hint)

/-- A try that did not issue, or that waits in its effect: the strand shows the reason (21 R342) and tries again one ac later. -/
def State.waits (reason : Nat) (s : State) : State :=
  s.mapMe (fun t => { t with reason := reason, readyAt := Nat.max s.now t.readyAt + acTicks })

/-- The PC of the next word. -/
def State.nextPc (s : State) : W64 := s.me.pc + 4

/-- Applies the result of a word's effect; `before` is the state at issue. -/
def finish (f : Form) (before : State) : Result → State
  | .done s => State.complete f before before.nextPc 1 s
  | .jump pc cost s => State.complete f before pc cost s
  | .trap x s => s.takeTrap x
  | .stall r s => (s.mapMe (fun t => { t with issued := true })).waits r
  | .ended s => s.countIssue f

/-- 02 R54: a vector instruction whose mask is empty pops and pushes its channels, and has no other effect.  An invalid format of a narrow
conversion traps FORMAT before that (04 R78, R95; log entry 43). -/
def Form.emptyMask (f : Form) (s : State) : Result :=
  match f.badFmt with
  | some x => .trap (s.trapAll .format x 0) s
  | none => .done (f.use.writeChans.foldl (fun s c => s.chanPush c (Vec.splat 0)) s)

/-- 01 R25, R26, 02 R50: a word that its stall count or a result on its way holds: the strand shows reason 2 (21 R342) and tries again when
it can issue. -/
def State.held (f : Form) (s : State) : State := s.mapMe (fun t => { t with reason := 2, readyAt := issueTime f s })

/-- Whether a word must still wait for its time. -/
def State.early (f : Form) (s : State) : Bool := !s.me.issued && decide (s.now < issueTime f s)

/-- 19 R330: whether a word that issues reads a register that holds an uncorrectable error. -/
def State.readsCorrupt (f : Form) (s : State) : Bool := !s.me.issued && f.use.reads.any (fun r => s.me.corrupt.contains r)

/-- What a step of the machine answers. -/
abbrev Out := Host.Outcome State Fault Refusal

/-- One word at the PC of the strand in the focus: its verdict, its effect, its end. -/
def issue (f : Form) (eff : State → Result) (s : State) : Out :=
  match verdict f s with
  | .absent => .fault .noStrand
  | .trap x => .next (if s.early f then s.held f else s.takeTrap x)
  | .stall r => .next (s.waits r)
  | .go =>
    if s.early f then .next (s.held f)
    else if s.readsCorrupt f then .next (s.halt (s.trapAll .poison 0 0))
    else
      let b := s.begin f
      .next (finish f b (if f.vector ∧ b.active = 0 then f.emptyMask b else eff b)).writeGraftLog

end Sys2Proof.Machine
end

