-- ==== Sys2Proof/Machine/Flags.lean ====
section
/-!
DEFINITION. Sys2Proof/Machine/Flags.lean: conditions, compares, saturation, the rounding mode, and immediates under hints.

The part keeps no arithmetic flags: a compare writes a register or a mask (03 R59, 04 R81, R92), CTRL holds the rounding mode,
the check bit and the trap mask (01 R30), and hints modify one instruction (01 R27, R28).
-/

namespace Sys2Proof.Machine

/-! ## Immediates (01 R17, R27) -/

/-- 01 R27: the immediate f of k bits, or x : f after a `hint.ximm`, sign-extended to 64 bits. -/
def State.imm {k : Nat} (s : State) (f : BitVec k) : W64 :=
  match s.me.hints.ximm with
  | some x => (x ++ f).signExtend 64
  | none => f.signExtend 64

/-- 01 R17: a target relative to the word itself, in words. -/
def State.target {k : Nat} (s : State) (f : BitVec k) : W64 := s.me.pc + s.imm f * 4

/-- 01 R17: a target that no hint reaches (MC). -/
def State.plainTarget {k : Nat} (s : State) (f : BitVec k) : W64 := s.me.pc + f.signExtend 64 * 4

/-! ## Conditions (03 R64) -/

/-- `br`: sa against zero. -/
def condZero (c : BitVec 4) (a : W64) : Bool :=
  if c = 0 then decide (a = 0)
  else if c = 1 then decide (a ≠ 0)
  else if c = 2 then decide (a.toInt < 0)
  else if c = 3 then decide (0 ≤ a.toInt)
  else if c = 4 then decide (0 < a.toInt)
  else decide (a.toInt ≤ 0)

/-- `brr`: sa against sb; `vcmp` has the same codes (01 R18, R22). -/
def condPair {n : Nat} (c : Nat) (a b : BitVec n) : Bool :=
  if c = 0 then decide (a = b)
  else if c = 1 then decide (a ≠ b)
  else if c = 2 then decide (a.toInt < b.toInt)
  else if c = 3 then decide (b.toInt ≤ a.toInt)
  else if c = 4 then decide (a.toNat < b.toNat)
  else decide (b.toNat ≤ a.toNat)

/-! ## Saturation and rounding (01 R28, R30) -/

/-- Whether a `hint.mod` with sat = 1 stands before the word. -/
def State.saturates (s : State) : Bool := (s.me.hints.mod.map (·.2)).getD false

/-- The signed 32-bit range. -/
def sat32 (x : Int) : W32 :=
  if x < -(2 ^ 31 : Nat) then 0x80000000#32
  else if (2 ^ 31 : Nat) ≤ x then 0x7FFFFFFF#32
  else BitVec.ofInt 32 x

/-- An integer sum, saturated after a `hint.mod` that says so. -/
def State.narrow (s : State) (x : Int) : W32 := if s.saturates then sat32 x else BitVec.ofInt 32 x

/-- 01 R18, R30: the rounding modes. -/
inductive Rnd where
  | rne | rz | rdn | rup
  deriving DecidableEq, Repr

def Rnd.ofCode (n : Nat) : Rnd := if n = 0 then .rne else if n = 1 then .rz else if n = 2 then .rdn else .rup

/-- 04 R79, 01 R28: M: CTRL.RM, or the rnd of a `hint.mod`; rnd 7 leaves the mode as it is. -/
def State.mode (s : State) : Rnd :=
  match s.me.hints.mod with
  | some (r, _) => if r.toNat ≤ 3 then Rnd.ofCode r.toNat else Rnd.ofCode s.me.rm.toNat
  | none => Rnd.ofCode s.me.rm.toNat

/-- CTRL as it reads (01 R30). -/
def Strand.ctrl (t : Strand) : W64 :=
  BitVec.ofNat 64 ((if t.tmasked then 16 else 0) + (if t.prot then 8 else 0) + (if t.chk then 4 else 0) + t.rm.toNat)

/-- A write of CTRL: CHK and RM only (01 R30, 03 R73). -/
def Strand.setCtrl (x : W64) (t : Strand) : Strand := { t with chk := bit x 2, rm := BitVec.ofNat 2 (slice x 1 0) }

end Sys2Proof.Machine
end

