-- ==== Sys2Proof/Machine/Local.lean ====
section
/-!
DEFINITION. Sys2Proof/Machine/Local.lean: local memory (01 R20, 07 R130, 11 R202), packets to peers, phase-bit barriers (07 R141
to R143), trays (07 R138 to R140), and what their changes wake (03 R75, 07 R133).
-/

namespace Sys2Proof.Machine

/-! ## Local addresses -/

/-- Where a local address points: the own window, or the window of a peer block of the group. -/
inductive LocalRef where
  | own (off : Nat)
  | peer (block off : Nat)
  deriving DecidableEq, Repr

/-- 11 R202: the group's block at a core, while it holds its window. -/
def State.groupBlockAt (s : State) (core : Nat) : Option Block :=
  s.allBlocks.find? (fun b => b.core == core && b.group == s.blk.group && decide (b.phase ≠ .ended) && decide (b.phase ≠ .evicted))

/-- 01 R20, 07 R130, 11 R202: where an access of `size` bytes at a local address goes; none is PERMISSION. -/
def State.localRef (s : State) (ea : W64) (size : Nat) (peers : Bool) : Option LocalRef :=
  let off := slice ea 19 0
  let dx := signedOf 3 (slice ea 22 20)
  let dy := signedOf 2 (slice ea 24 23)
  let x := (coreKx s.blk.core : Int) + dx
  let y := (coreKy s.blk.core : Int) + dy
  if slice ea 63 25 ≠ 0 ∨ 0xC0000 ≤ off then none
  else if dx = 0 ∧ dy = 0 then (if off + size ≤ s.blk.windowSize then some (.own off) else none)
  else if ¬ peers ∨ x < 0 ∨ 3 < x ∨ y < 0 ∨ 1 < y then none
  else
    match s.groupBlockAt (coreCluster s.blk.core * 8 + y.toNat * 4 + x.toNat) with
    | some b => if off + size ≤ b.windowSize then some (.peer b.id off) else none
    | none => none

/-! ## Windows -/

def Block.readWindow (off n : Nat) (b : Block) : List Byte := Memory.read b.window off n
/-- A doubleword that is written whole holds no error any more (19 R330). -/
def Block.writeWindow (off : Nat) (bs : List Byte) (b : Block) : Block :=
  { b with window := Memory.write b.window off bs,
           corrupt := b.corrupt.filter (fun k => !decide (off ≤ 8 * k ∧ 8 * k + 8 ≤ off + bs.length)) }
def Block.dword (off : Nat) (b : Block) : W64 := BitVec.ofNat 64 (bytesNat (b.readWindow off 8))

/-- 19 R330, 05 R113: whether n bytes of a window hold an uncorrectable error. -/
def Block.windowBad (off n : Nat) (b : Block) : Bool := b.corrupt.any (fun k => decide (off < 8 * k + 8 ∧ 8 * k < off + n))

/-- 07 R135: the further ac that the busiest of the 192 banks needs for some words: w lives in bank w mod 192, and window bases are
multiples of 192 words. -/
def bankConflict (words : List Nat) : Nat :=
  let ws := words.foldl setInsert []
  (ws.map (fun w => (ws.filter (fun x => decide (x % 192 = w % 192))).length)).foldl Nat.max 1 - 1

/-- 05 R104, 21 R342: a bank conflict holds the strand with reason 3. -/
def State.bankHold (offs : List Nat) (s : State) : State :=
  let k := bankConflict (offs.map (· / 4))
  if k = 0 then s else s.mapMe (fun t => { t with readyAt := Nat.max t.readyAt (s.now + (1 + k) * acTicks), reason := 3 })

/-! ## What a release or a landing wakes -/

/-- 03 R75, 07 R133: a barrier release wakes the strands of the block and restores those that `hint.spin` demoted. -/
def State.barrierReleased (block : Nat) (s : State) : State :=
  (s.mapStrands (fun t => t.block == block) (fun t => { t with spin := false })).wakeStrands (fun t => t.block == block)

/-- 03 R75: a commit or a landing in a tray wakes the strands of the block. -/
def State.trayWoken (block : Nat) (s : State) : State := s.wakeStrands (fun t => t.block == block)

/-! ## The phase-bit barrier (07 R141 to R143) -/

/-- The fields of the doubleword. -/
structure BarWord where
  round : Nat
  xfer  : Nat
  pend  : Nat
  exp   : Nat
  deriving DecidableEq, Repr

def BarWord.of (x : W64) : BarWord :=
  { round := slice x 63 56, xfer := slice x 55 40, pend := slice x 39 24, exp := slice x 15 0 }

/-- Bits [23:16] are written as 0 by each update. -/
def BarWord.word (b : BarWord) : W64 :=
  BitVec.ofNat 64 (b.round * 2 ^ 56 + b.xfer * 2 ^ 40 + b.pend * 2 ^ 24 + b.exp)

def BarWord.abandoned (b : BarWord) : Bool := decide (b.xfer = 0xFFFF)

/-- R142: the round ends once nothing is pending; R143: an abandoned barrier stays so. -/
def BarWord.close (b : BarWord) : BarWord :=
  if b.xfer = 0 ∧ b.pend = 0 then { b with round := (b.round + 1) % 256, pend := b.exp } else b

/-- What is done to a barrier: `barinit` apart, the events of R142 and R143. -/
inductive BarEvent where
  | expect (bytes : Nat)
  | arrive
  | copied (bytes : Nat) (arrives corrupt : Bool) (join : BitVec 3)
  deriving DecidableEq, Repr

def BarWord.apply (e : BarEvent) (b : BarWord) : BarWord :=
  if b.abandoned then b
  else match e with
    | .expect n => { b with xfer := Nat.min (b.xfer + ceilDiv n 256) 0xFFFE }.close
    | .arrive => { b with pend := b.pend - 1 }.close
    | .copied n arrives corrupt _ =>
      if corrupt then { b with xfer := 0xFFFF }
      else { b with xfer := b.xfer - ceilDiv n 256, pend := if arrives then b.pend - 1 else b.pend }.close

/-- The scope at which a join of what an event brings acquires (14 R253): that of a copy's destination, else the core. -/
def BarEvent.join : BarEvent → BitVec 3
  | .copied _ _ _ c => c
  | _ => 1

/-- 14 R253: the scope at which a `barwait` that a round releases acquires. -/
def Block.roundScope (off round : Nat) (b : Block) : BitVec 3 :=
  ((b.rounds.find? (fun r => decide (r.off = off ∧ r.round = round))).map RoundScope.scope).getD 1

/-- A round's scope is set; at core scope it need not be kept. -/
def Block.setRound (off round : Nat) (c : BitVec 3) (b : Block) : Block :=
  let rest := b.rounds.filter (fun r => !decide (r.off = off ∧ r.round = round))
  { b with rounds := if c = 1 then rest else { off := off, round := round, scope := c } :: rest }

/-- An event counts for the round that is current; a round that begins has no event yet. -/
def Block.noteRound (off old new : Nat) (c : BitVec 3) (b : Block) : Block :=
  let b1 := if (b.roundScope off old).toNat < c.toNat then b.setRound off old c else b
  if old = new then b1 else b1.setRound off new 1

/-- An indivisible update of the barrier at an offset of a block's window; the end of a round wakes the block. -/
def State.barUpdate (block off : Nat) (e : BarEvent) (s : State) : State :=
  match s.block? block with
  | none => s
  | some b =>
    let old := BarWord.of (b.dword off)
    let new := old.apply e
    let s1 := s.mapBlock block (fun b => (b.writeWindow off (natBytes 8 new.word.toNat)).noteRound off old.round new.round e.join)
    if old.round = new.round then s1 else s1.barrierReleased block

/-! ## Packets to peers (11 R202, R203) -/

/-- A packet leaves for a peer; it is performed after those that left before it (R203). -/
def State.queuePacket (p : PeerStore) (s : State) : State :=
  (s.mapCore (fun c => { c with packets := c.packets ++ [p] })).due (20 * acTicks) (.peerLocalAccess s.core.id)

/-- Whether every earlier store of the strand to a peer's window has been performed there. -/
def State.storesLanded (s : State) : Bool := s.core.packets.all (fun p => decide (p.strand ≠ s.me.id))

/-- A packet whose acknowledgement a release awaits (05 R120). -/
def State.sendPacket (p : PeerStore) (s : State) : State :=
  (s.queuePacket p).mapMe (fun t => { t with peerStores := t.peerStores + 1 })

/-- The packet of a load or an atomic that the strand has in flight at peers. -/
def State.sendAccess (s : State) : State :=
  s.queuePacket { strand := s.me.id, block := 0, off := 0, bytes := [], act := 3, amount := 0 }

/-- A store to a local address. -/
def State.storeLocal (r : LocalRef) (bs : List Byte) (s : State) : State :=
  match r with
  | .own off => s.mapBlk (Block.writeWindow off bs)
  | .peer block off => s.sendPacket { strand := s.me.id, block := block, off := off, bytes := bs, act := 0, amount := 0 }

/-- A barrier update at a local address: at once in the own window, by a packet at a peer's (act 1 an arrival, 2 an
expectation). -/
def State.updateBarrierAt (r : LocalRef) (e : BarEvent) (s : State) : State :=
  match r with
  | .own off => s.barUpdate s.blk.id off e
  | .peer block off =>
    match e with
    | .expect n => s.sendPacket { strand := s.me.id, block := block, off := off, bytes := [], act := 2, amount := n }
    | _ => s.sendPacket { strand := s.me.id, block := block, off := off, bytes := [], act := 1, amount := 0 }

/-- What a packet does at the peer; a block that is gone takes nothing. -/
def State.performPacket (p : PeerStore) (s : State) : State :=
  if p.act = 0 then s.mapBlock p.block (Block.writeWindow p.off p.bytes)
  else s.barUpdate p.block p.off (if p.act = 1 then .arrive else .expect p.amount)

/-! ## Trays (07 R138 to R140) -/

/-- Reserve: slot T is taken; the slot it was. -/
def Tray.reserve (t : Tray) : Nat × Tray :=
  (t.tail, { t with free := t.free - 1, res := t.res + 1, tail := (t.tail + 1) % t.nslot })

/-- While the slot at H + FILLED is landed, it becomes filled; `fuel` bounds the slots. -/
def Tray.advance : Nat → Tray → Tray
  | 0, t => t
  | fuel + 1, t =>
    let k := (t.head + t.filled) % t.nslot
    if t.res ≠ 0 ∧ t.landed.contains k then
      Tray.advance fuel { t with res := t.res - 1, filled := t.filled + 1, landed := t.landed.filter (fun j => j != k) }
    else t

/-- Land: a reserved slot's last byte is written. -/
def Tray.land (k : Nat) (t : Tray) : Tray := Tray.advance t.nslot { t with landed := setInsert t.landed k }

/-- Pop: the slot at H is free again. -/
def Tray.pop (t : Tray) : Tray := { t with filled := t.filled - 1, free := t.free + 1, head := (t.head + 1) % t.nslot }

def updTray (b : Block) (t : Nat) (f : Tray → Tray) : Block := { b with trays := updAt b.trays t f }

/-- A slot lands in a tray of a block; the strands of the block are woken. -/
def State.landSlot (block t k : Nat) (s : State) : State :=
  (s.mapBlock block (fun b => updTray b t (Tray.land k))).trayWoken block

end Sys2Proof.Machine
end

