-- ==== Sys2Proof/Machine/Float.lean ====
section
/-!
DEFINITION. Sys2Proof/Machine/Float.lean: exact values, rounding once, FP32 and the narrow formats (04 R79, R83, R87 to R95).

A finite value is (-1)^neg x mag x 2^exp with an exact integer mag.  Every result is computed exactly, or to many more bits than
the target holds with a sticky mark, and rounded once.
-/

namespace Sys2Proof.Machine

/-- A floating value (00 R9: exact real numbers). -/
inductive FVal where
  | nan
  | inf (neg : Bool)
  | fin (neg : Bool) (mag : Nat) (exp : Int)
  deriving DecidableEq, Repr

/-- How a value is rounded: in a mode, or stochastically with the 24 bits r of 04 R94. -/
inductive Rounding where
  | mode (m : Rnd)
  | sr (r : Nat)
  deriving DecidableEq, Repr

/-- Whether (-1)^neg x (sig + rem / 2^shift) rounds away from zero; `sticky` says that the value is a little above. -/
def Rounding.up (r : Rounding) (neg : Bool) (sig rem shift : Nat) (sticky : Bool) : Bool :=
  let inexact := decide (rem ≠ 0) || sticky
  match r with
  | .mode .rne => decide (2 ^ shift < 2 * rem) || (decide (2 ^ shift = 2 * rem) && (sticky || decide (sig % 2 = 1)))
  | .mode .rz => false
  | .mode .rdn => inexact && neg
  | .mode .rup => inexact && !neg
  | .sr k =>
    if rem = 0 then false
    else if neg then !decide (k < (2 ^ shift - rem) * 2 ^ 24 / 2 ^ shift)
    else decide (k < rem * 2 ^ 24 / 2 ^ shift)

/-- mag x 2^exp as a multiple of 2^q, rounded once.  A value far below 2^q keeps only that it is not zero. -/
def roundMultiple (r : Rounding) (neg : Bool) (mag : Nat) (exp : Int) (sticky : Bool) (q : Int) : Nat :=
  if q ≤ exp then mag * 2 ^ (exp - q).toNat
  else if mag = 0 then 0
  else if (Nat.log2 mag : Int) + exp < q - 40 then (if r.up neg 0 1 40 sticky then 1 else 0)
  else
    let shift := (q - exp).toNat
    let sig := mag / 2 ^ shift
    if r.up neg sig (mag % 2 ^ shift) shift sticky then sig + 1 else sig

/-- The code, without sign, of a value in a format with p bits of significand and least normal exponent emin: the multiples
of 2^(emin - p + 1) below 2^emin, then 2^(p-1) codes for each binade.  It may pass the format's last code.  In a narrow format with
M = 0 (p = 1) an RNE tie between two normal codes has no even significand; 04 R95 gives no rule for it, and the larger magnitude is taken
(log entry 44). -/
def roundCode (p : Nat) (emin : Int) (r : Rounding) (neg : Bool) (mag : Nat) (exp : Int) (sticky : Bool) : Nat :=
  if mag = 0 then 0
  else
    let qmin := emin - ((p : Int) - 1)
    let e := (Nat.log2 mag : Int) + exp
    if emin + 4096 < e then (4096 + 1) * 2 ^ (p - 1)
    else
      let q := if e - ((p : Int) - 1) < qmin then qmin else e - ((p : Int) - 1)
      (q - qmin).toNat * 2 ^ (p - 1) + roundMultiple r neg mag exp sticky q

/-- An IEEE format: significand bits, exponent bits (bias 2^(eb-1) - 1), canonical NaN. -/
structure Ieee where
  p   : Nat
  eb  : Nat
  nan : Nat
  deriving DecidableEq, Repr

def fp32 : Ieee := { p := 24, eb := 8, nan := 0x7FC00000 }
def bf16 : Ieee := { p := 8, eb := 8, nan := 0x7FC0 }
def fp16 : Ieee := { p := 11, eb := 5, nan := 0x7E00 }

def Ieee.emin (f : Ieee) : Int := 2 - (2 ^ (f.eb - 1) : Nat)
def Ieee.infCode (f : Ieee) : Nat := (2 ^ f.eb - 1) * 2 ^ (f.p - 1)
def Ieee.signBit (f : Ieee) : Nat := 2 ^ (f.p - 1 + f.eb)

/-- The value of a code. -/
def Ieee.decode (f : Ieee) (x : Nat) : FVal :=
  let frac := x % 2 ^ (f.p - 1)
  let ef := x / 2 ^ (f.p - 1) % 2 ^ f.eb
  let neg := decide (x / f.signBit % 2 = 1)
  if ef = 2 ^ f.eb - 1 then (if frac = 0 then .inf neg else .nan)
  else if ef = 0 then .fin neg frac (f.emin - ((f.p : Int) - 1))
  else .fin neg (2 ^ (f.p - 1) + frac) (f.emin - ((f.p : Int) - 1) + ((ef : Int) - 1))

/-- 04 R79, R94: what stands for a value beyond the finite range. -/
def Ieee.overflow (f : Ieee) (r : Rounding) (neg : Bool) : Nat :=
  match r with
  | .mode .rne => f.infCode
  | .mode .rz => f.infCode - 1
  | .mode .rdn => if neg then f.infCode else f.infCode - 1
  | .mode .rup => if neg then f.infCode - 1 else f.infCode
  | .sr _ => f.infCode - 1

/-- A value rounded once into a format (04 R79). -/
def Ieee.encode (f : Ieee) (r : Rounding) (v : FVal) (sticky : Bool := false) : Nat :=
  match v with
  | .nan => f.nan
  | .inf neg => (if neg then f.signBit else 0) + f.infCode
  | .fin neg mag exp =>
    let c := roundCode f.p f.emin r neg mag exp sticky
    (if neg then f.signBit else 0) + (if f.infCode ≤ c then f.overflow r neg else c)

def f32 (x : W32) : FVal := fp32.decode x.toNat
def toF32 (r : Rounding) (v : FVal) (sticky : Bool := false) : W32 := BitVec.ofNat 32 (fp32.encode r v sticky)

/-! ## Exact arithmetic -/

def FVal.negate : FVal → FVal
  | .nan => .nan
  | .inf n => .inf (!n)
  | .fin n m e => .fin (!n) m e

/-- mag x 2^(e - e0) as an integer with its sign. -/
def scaled (neg : Bool) (mag : Nat) (e e0 : Int) : Int :=
  let m : Int := (mag * 2 ^ (e - e0).toNat : Nat)
  if neg then -m else m

/-- The exact sum; an exact zero is +0, and -0 in RDN; two zeros of one sign keep it (04 R83). -/
def FVal.add (m : Rnd) (a b : FVal) : FVal :=
  match a, b with
  | .nan, _ => .nan
  | _, .nan => .nan
  | .inf x, .inf y => if x = y then .inf x else .nan
  | .inf x, _ => .inf x
  | _, .inf y => .inf y
  | .fin na ma ea, .fin nb mb eb =>
    if ma = 0 ∧ mb = 0 then .fin (if na = nb then na else decide (m = .rdn)) 0 0
    else if ma = 0 then .fin nb mb eb
    else if mb = 0 then .fin na ma ea
    else
      let e0 := if ea < eb then ea else eb
      let s := scaled na ma ea e0 + scaled nb mb eb e0
      if s = 0 then .fin (decide (m = .rdn)) 0 0 else .fin (decide (s < 0)) s.natAbs e0

/-- The exact product (04 R79: 0 x inf is invalid). -/
def FVal.mul (a b : FVal) : FVal :=
  match a, b with
  | .nan, _ => .nan
  | _, .nan => .nan
  | .inf x, .inf y => .inf (x != y)
  | .inf x, .fin n mag _ => if mag = 0 then .nan else .inf (x != n)
  | .fin n mag _, .inf y => if mag = 0 then .nan else .inf (n != y)
  | .fin na ma ea, .fin nb mb eb => .fin (na != nb) (ma * mb) (ea + eb)

/-- Compares two values that are no NaN: -1, 0 or 1; -0 equals +0. -/
def FVal.cmp (a b : FVal) : Int :=
  match a, b with
  | .inf x, .inf y => if x = y then 0 else if x then -1 else 1
  | .inf x, _ => if x then -1 else 1
  | _, .inf y => if y then 1 else -1
  | .fin na ma ea, .fin nb mb eb =>
    let e0 := if ea < eb then ea else eb
    let d := scaled na ma ea e0 - scaled nb mb eb e0
    if d < 0 then -1 else if d = 0 then 0 else 1
  | _, _ => 0

/-! ## FP32 members (04 R83, R89, R91, R92) -/

def fAdd (m : Rnd) (a b : W32) : W32 := toF32 (.mode m) ((f32 a).add m (f32 b))
def fSub (m : Rnd) (a b : W32) : W32 := toF32 (.mode m) ((f32 a).add m (f32 b).negate)
def fMul (m : Rnd) (a b : W32) : W32 := toF32 (.mode m) ((f32 a).mul (f32 b))

def fFma (m : Rnd) (a b c : W32) : W32 := toF32 (.mode m) (((f32 a).mul (f32 b)).add m (f32 c))
def fFms (m : Rnd) (a b c : W32) : W32 := toF32 (.mode m) (((f32 a).mul (f32 b)).add m (f32 c).negate)
def fFnma (m : Rnd) (a b c : W32) : W32 := toF32 (.mode m) ((f32 c).add m ((f32 a).mul (f32 b)).negate)

def isNan32 (x : W32) : Bool := decide (f32 x = .nan)

/-- The lesser, or the greater; -0 is less than +0; one NaN gives the other operand, two the canonical NaN. -/
def fPick (lesser : Bool) (a b : W32) : W32 :=
  if isNan32 a then (if isNan32 b then 0x7FC00000#32 else b)
  else if isNan32 b then a
  else
    let c := (f32 a).cmp (f32 b)
    let aLess := decide (c < 0) || (decide (c = 0) && bit a 31)
    if aLess = lesser then a else b

def fMin (a b : W32) : W32 := fPick true a b
def fMax (a b : W32) : W32 := fPick false a b

def fAbs (a : W32) : W32 := a &&& 0x7FFFFFFF#32
def fNeg (a : W32) : W32 := a ^^^ 0x80000000#32

/-- A x 2^Sx(B), rounded once. -/
def fScale (m : Rnd) (a b : W32) : W32 :=
  match f32 a with
  | .fin n mag e => toF32 (.mode m) (.fin n mag (e + b.toInt))
  | v => toF32 (.mode m) v

/-- 04 R91: one bit, the class of A. -/
def fClass (a : W32) : W32 :=
  let neg := bit a 31
  let ef := slice a 30 23
  let frac := slice a 22 0
  let k : Nat :=
    if ef = 255 then (if frac = 0 then (if neg then 0 else 7) else if bit a 22 then 9 else 8)
    else if ef = 0 then (if frac = 0 then (if neg then 3 else 4) else if neg then 2 else 5)
    else if neg then 1 else 6
  BitVec.ofNat 32 (2 ^ k)

/-- 04 R92. -/
def fCond (c : BitVec 3) (a b : W32) : Bool :=
  let un := isNan32 a || isNan32 b
  let k := (f32 a).cmp (f32 b)
  if c = 0 then !un && decide (k = 0)
  else if c = 1 then !un && decide (k < 0)
  else if c = 2 then !un && decide (k ≤ 0)
  else if c = 3 then un
  else un || decide (k ≠ 0)

/-! ## Correctly rounded functions (04 R90) -/

/-- floor(sqrt n) by its bits, from bit k down. -/
def isqrtFrom (n : Nat) : Nat → Nat → Nat
  | 0, r => r
  | k + 1, r => isqrtFrom n k (if (r + 2 ^ k) * (r + 2 ^ k) ≤ n then r + 2 ^ k else r)

def isqrt (n : Nat) : Nat := isqrtFrom n (Nat.log2 n / 2 + 1) 0

def rne : Rounding := .mode .rne

def fRcp (a : W32) : W32 :=
  match f32 a with
  | .nan => toF32 rne .nan
  | .inf n => toF32 rne (.fin n 0 0)
  | .fin n mag e =>
    if mag = 0 then toF32 rne (.inf n)
    else toF32 rne (.fin n (2 ^ 120 / mag) (-120 - e)) (decide (2 ^ 120 % mag ≠ 0))

/-- A value as mag x 4^h: an even exponent and a mag with many bits. -/
def evenScale (mag : Nat) (e : Int) (more : Nat) : Nat × Int :=
  if e % 2 = 0 then (mag * 2 ^ (2 * more), e / 2 - more) else (mag * 2 ^ (2 * more + 1), (e - 1) / 2 - more)

def fSqrt (m : Rnd) (a : W32) : W32 :=
  match f32 a with
  | .nan => toF32 rne .nan
  | .inf n => if n then toF32 rne .nan else a
  | .fin n mag e =>
    if mag = 0 then a
    else if n then toF32 rne .nan
    else
      let (x, h) := evenScale mag e 40
      let r := isqrt x
      toF32 (.mode m) (.fin false r h) (decide (r * r ≠ x))

def fRsq (a : W32) : W32 :=
  match f32 a with
  | .nan => toF32 rne .nan
  | .inf n => if n then toF32 rne .nan else toF32 rne (.fin false 0 0)
  | .fin n mag e =>
    if mag = 0 then toF32 rne (.inf n)
    else if n then toF32 rne .nan
    else
      let (x, h) := evenScale mag e 0
      let r := isqrt (2 ^ 160 / x)
      toF32 rne (.fin false r (-80 - h)) (decide (r * r * x ≠ 2 ^ 160))

/-- The bits of the fixed-point evaluations (log entry 13). -/
def fxBits : Nat := 320

/-- floor(2^320 ln 2), floor(2^320 pi / 2), floor(2^600 x 2 / pi). -/
def ln2Fx : Nat :=
  0xB17217F7D1CF79ABC9E3B39803F2F6AF40F343267298B62D8A0D175B8BAAFA2BE7B876206DEBAC98

def halfPiFx : Nat :=
  0x1921FB54442D18469898CC51701B839A252049C1114CF98E804177D4C76273644A29410F31C6809BB

def twoOverPi600 : Nat :=
  0xA2F9836E4E441529FC2757D1F534DDC0DB6295993C439041FE5163ABDEBBC561B7246E3A424DD2E006492EEA09D1921CFE1DEB1CB129A73EE88235F52EBB4484E99C7026B45F7E413991D6

/-- A finite value as floor(x 2^320). -/
def fxOf (neg : Bool) (mag : Nat) (e : Int) : Int :=
  let m : Int := if 0 ≤ e + fxBits then (mag * 2 ^ (e + fxBits).toNat : Nat) else (mag : Int) / (2 ^ (-(e + fxBits)).toNat : Nat)
  if neg then -m else m

/-- sum of x^k / k! from k on, in fixed point: `t` is the current term. -/
def expSeries (x : Nat) : Nat → Nat → Nat → Nat → Nat
  | 0, _, _, acc => acc
  | fuel + 1, k, t, acc => expSeries x fuel (k + 1) (t * x / 2 ^ fxBits / (k + 1)) (acc + t)

/-- 2^x for a fixed-point x; integral x exactly. -/
def fExp2 (a : W32) : W32 :=
  match f32 a with
  | .nan => toF32 rne .nan
  | .inf n => toF32 rne (if n then .fin false 0 0 else .inf false)
  | .fin neg mag e =>
    if 9 < (if mag = 0 then (0 : Int) else (Nat.log2 mag : Int) + e) then
      toF32 rne (if neg then .fin false 0 0 else .inf false)
    else
      let x := fxOf neg mag e
      let k := x / (2 ^ fxBits : Nat)
      let f := (x % (2 ^ fxBits : Nat)).toNat
      if f = 0 then toF32 rne (.fin false 1 k)
      else toF32 rne (.fin false (expSeries (f * ln2Fx / 2 ^ fxBits) 100 0 (2 ^ fxBits) 0) (k - fxBits)) true

/-- sum of z^(2k+1) / (2k+1): atanh z, in fixed point; `t` is the current power. -/
def atanhSeries (z2 : Nat) : Nat → Nat → Nat → Nat → Nat
  | 0, _, _, acc => acc
  | fuel + 1, k, t, acc => atanhSeries z2 fuel (k + 2) (t * z2 / 2 ^ fxBits) (acc + t / k)

def fLog2 (a : W32) : W32 :=
  match f32 a with
  | .nan => toF32 rne .nan
  | .inf n => if n then toF32 rne .nan else toF32 rne (.inf false)
  | .fin neg mag e =>
    if mag = 0 then toF32 rne (.inf true)
    else if neg then toF32 rne .nan
    else
      let l := Nat.log2 mag
      let k : Int := (l : Int) + e
      let num := mag - 2 ^ l
      if num = 0 then toF32 rne (.fin (decide (k < 0)) k.natAbs 0)
      else
        let z := num * 2 ^ fxBits / (mag + 2 ^ l)
        let frac := atanhSeries (z * z / 2 ^ fxBits) 110 1 z 0 * 2 * 2 ^ fxBits / ln2Fx
        let v : Int := k * (2 ^ fxBits : Nat) + frac
        if v < 0 then toF32 rne (.fin true (v.natAbs - 1) (-(fxBits : Int))) true
        else toF32 rne (.fin false v.natAbs (-(fxBits : Int))) true

/-- The alternating series of sine (k odd) or cosine (k even): terms t x^2 / ((k+1)(k+2)). -/
def trigSeries (x2 : Nat) : Nat → Nat → Nat → Int → Int
  | 0, _, _, acc => acc
  | fuel + 1, k, t, acc =>
    let t1 := t * x2 / 2 ^ fxBits / ((k + 1) * (k + 2))
    let t2 := t1 * x2 / 2 ^ fxBits / ((k + 3) * (k + 4))
    trigSeries x2 fuel (k + 4) t2 (acc + t - t1)

def sinFx (x : Nat) : Nat := (trigSeries (x * x / 2 ^ fxBits) 25 1 x 0).toNat
def cosFx (x : Nat) : Nat := (trigSeries (x * x / 2 ^ fxBits) 25 0 (2 ^ fxBits) 0).toNat

/-- |x| = (quadrant + f) x pi / 2: the quadrant modulo 4, and f x pi / 2 in fixed point, 0 <= f < 1. -/
def reduceArg (mag : Nat) (e : Int) : Nat × Nat :=
  let t := if 0 ≤ e then mag * 2 ^ e.toNat * twoOverPi600 else mag * twoOverPi600 / 2 ^ (-e).toNat
  (t / 2 ^ 600 % 4, t % 2 ^ 600 * halfPiFx / 2 ^ 600)

/-- Sine, or cosine, of a finite nonzero value. -/
def fTrig (cosine neg : Bool) (mag : Nat) (e : Int) : W32 :=
  let (q0, r) := reduceArg mag e
  let q := if cosine then q0 + 1 else q0
  -- quadrant 0: sin r; 1: cos r; 2: -sin r; 3: -cos r
  let v := if q % 2 = 0 then (if 2 * r ≤ halfPiFx then sinFx r else cosFx (halfPiFx - r))
    else (if 2 * r ≤ halfPiFx then cosFx r else sinFx (halfPiFx - r))
  let minus := decide (q % 4 = 2 ∨ q % 4 = 3)
  toF32 rne (.fin (if cosine then minus else minus != neg) v (-(fxBits : Int))) true

def fSin (a : W32) : W32 :=
  match f32 a with
  | .fin neg mag e => if mag = 0 then a else fTrig false neg mag e
  | _ => toF32 rne .nan

def fCos (a : W32) : W32 :=
  match f32 a with
  | .fin neg mag e => if mag = 0 then 0x3F800000#32 else fTrig true neg mag e
  | _ => toF32 rne .nan

/-! ## Integers and stochastic rounding (04 R93, R94) -/

/-- 04 R93: an integer target rounds in the mode and then saturates; a NaN gives 0. -/
def FVal.toInt (r : Rounding) (lo hi : Int) (v : FVal) : Int :=
  match v with
  | .nan => 0
  | .inf n => if n then lo else hi
  | .fin n mag e =>
    if 200 < (Nat.log2 mag : Int) + e then (if n then lo else hi)
    else
      let k : Int := roundMultiple r n mag e false 0
      let x := if n then -k else k
      if x < lo then lo else if hi < x then hi else x

def FVal.ofInt (x : Int) : FVal := .fin (decide (x < 0)) x.natAbs 0

/-- 04 R93 rint: an integral value; a zero result keeps the sign. -/
def FVal.rint (r : Rounding) (v : FVal) : FVal :=
  match v with
  | .fin n mag e => if 0 ≤ e then .fin n mag e else .fin n (roundMultiple r n mag e false 0) 0
  | v => v

/-- 04 R94: the mixed 24 bits of a 32-bit value. -/
def srMix (h0 : W32) : Nat :=
  let h1 := (h0 ^^^ (h0 >>> 16)) * 0x85EBCA6B#32
  let h2 := (h1 ^^^ (h1 >>> 13)) * 0xC2B2AE35#32
  let h3 := h2 ^^^ (h2 >>> 16)
  h3.toNat % 2 ^ 24

/-- 04 R94: the rounding value of lane L and source element x. -/
def srValue (wid : W64) (L : Nat) (x : W32) : Nat :=
  srMix (x ^^^ wid.setWidth 32 ^^^ (BitVec.ofNat 32 L * 0x9E3779B9#32))

/-! ## Narrow formats (04 R95, 08 R152) -/

structure Narrow where
  s    : Nat
  e    : Nat
  m    : Nat
  bias : Int
  deriving DecidableEq, Repr

def Narrow.of (f : BitVec 16) : Narrow :=
  { s := slice f 15 15, e := slice f 14 12, m := slice f 11 9, bias := signedOf 8 (slice f 8 1) }

def Narrow.width (f : Narrow) : Nat := f.s + f.e + f.m

/-- 04 R95: S + E + M from 1 to 8, and f[0] = 0. -/
def formatOk (f : BitVec 16) : Bool :=
  decide (1 ≤ (Narrow.of f).width ∧ (Narrow.of f).width ≤ 8) && !bit f 0

/-- The value of a code: (-1)^neg x mag x 2^exp; a magnitude of zero is +0. -/
def Narrow.decode (f : Narrow) (code : Nat) : FVal :=
  let c := code % 2 ^ f.width
  let v : FVal :=
    if f.e = 0 then
      let x : Int := if f.s = 1 then signedOf f.width c else (c % 2 ^ f.m : Nat)
      .fin (decide (x < 0)) x.natAbs (-f.bias)
    else
      let neg := decide (f.s = 1 ∧ c / 2 ^ (f.width - 1) % 2 = 1)
      let ef := c / 2 ^ f.m % 2 ^ f.e
      let frac := c % 2 ^ f.m
      if ef = 0 then .fin neg frac (1 - f.bias - f.m) else .fin neg (2 ^ f.m + frac) ((ef : Int) - f.bias - f.m)
  match v with
  | .fin n mag e => if mag = 0 then .fin false 0 0 else .fin n mag e
  | v => v

/-- The code of a value: rounded, saturated, never a negative zero; a NaN, and a negative value without a sign, give 0. -/
def Narrow.encode (f : Narrow) (r : Rounding) (v : FVal) : Nat :=
  let top (neg : Bool) : Nat :=
    if f.e = 0 then (if f.s = 1 then (if neg then 2 ^ f.m else 2 ^ f.m - 1) else 2 ^ f.m - 1) else 2 ^ (f.e + f.m) - 1
  let sign (neg : Bool) (k : Nat) : Nat :=
    if f.e = 0 then (if neg then (2 ^ f.width - k) % 2 ^ f.width else k)
    else if neg ∧ k ≠ 0 then 2 ^ (f.width - 1) + k else k
  match v with
  | .nan => 0
  | .inf neg => if neg ∧ f.s = 0 then 0 else sign neg (top neg)
  | .fin neg mag e =>
    if neg ∧ f.s = 0 then 0
    else
      let big := decide (4096 < (Nat.log2 mag : Int) + e)
      let k := if f.e = 0 then (if big then top neg else roundMultiple r neg mag e false (-f.bias))
        else roundCode (f.m + 1) (1 - f.bias) r neg mag e false
      sign neg (Nat.min k (top neg))

end Sys2Proof.Machine
end

