-- ==== Sys2Proof/Machine/Fetch.lean ====
section
/-!
DEFINITION. Sys2Proof/Machine/Fetch.lean: fetching instruction bytes (01 R12, 07 R378), and which agent moves next.
-/

namespace Sys2Proof.Machine

/-! ## The fetch buffer -/

/-- 07 R378: the line of the fetch buffer that holds the address, where it is the line PC is in: the first one.  (The second
is the next line; when PC enters it, FETCH_LINE_FILL moves the buffer on.) -/
def Strand.fetchLine? (t : Strand) (va : Nat) : Option FetchLine :=
  match t.fetch with
  | l :: _ => if l.line = va / 256 then some l else none
  | [] => none

/-- 01 R12: the word at PC, little-endian, when the fetch buffer holds its line. -/
def Strand.fetched (t : Strand) : Option W32 :=
  match t.fetchLine? t.pc.toNat with
  | some l =>
    if bit (l.marks ||| l.poison) (t.pc.toNat / 64 % 4) then none
    else some (BitVec.ofNat 32 (bytesNat (Memory.read l.cells t.pc.toNat 4)))
  | none => none

/-- R103: the sectors of a line that a core's L1 lacks bytes of. -/
def lackedBy (c : Core) (line : Nat) : List Nat :=
  ((List.range 4).map (fun k => line * 4 + k)).filter (fun k => (List.range 64).any (fun j => (c.look (k * 64 + j)).isNone))

/-- 07 R378: what a new line costs in ac: 4 where it hits in the L1, else the load's time. -/
def State.fetchTime (line : Nat) (s : State) : Nat :=
  if lackedBy s.core line = [] then 4 else s.homesTime s.blk.core (lackedBy s.core line)

/-- The 256 bytes of a physical line as the core's strands see them (07 R378), with the sectors read from their home where the
L1 lacks them; which of these are marked, which are poisoned.  A fetch is a use of the line (05 R101), and what it misses is
counted (21 R344). -/
def State.readLine (line : Nat) (s : State) : List Byte × BitVec 4 × BitVec 4 × State :=
  let core := s.blk.core
  let a := line * 256
  let mask : BitVec 4 := sectorMask (lackedBy s.core line) line
  let s1 := if mask = 0 then s else
    ((s.count s.blk.vd 0x06 ((List.range 4).filter (fun k => bit mask k)).length s.me.priv).crossLinks core false
      ((lackedBy s.core line).map (· * 64))).homeFetch line mask
  let byte (k : Nat) : Byte := (s1.core.look (a + k)).getD (s1.homeByte (a + k))
  let those (f : Nat → Bool) : BitVec 4 := (List.range 4).foldl (fun m k => if bit mask k && f (a + k * 64) then m ||| (1#4 <<< k) else m) 0
  let bad : BitVec 4 := (List.range 4).foldl (fun m k => if s.core.corrupt.contains (line * 4 + k) then m ||| (1#4 <<< k) else m) 0
  ((List.range 256).map byte, those s1.homeMark, those s1.homePoison ||| bad,
    if mask = 0 then s1.l1Touch core [line] else s1.l1Fill core line mask 0 false true)

/-- Whether a line can be read now: it hits, or finds miss entries (05 R103) and no link that holds it (19 R309). -/
def State.fetchRoom (line : Nat) (s : State) : Bool :=
  s.missRoom s.blk.core (lackedBy s.core line) && !s.heldBack s.blk.core ((lackedBy s.core line).map (· * 64))

/-- A line for the fetch buffer, by virtual address. -/
def fetchCells (va : Nat) (bs : List Byte) (marks poison : BitVec 4) : FetchLine :=
  { line := va / 256, cells := (cellsAt (va / 256 * 256) bs).filter (fun c => c.2 != 0), marks := marks, poison := poison }

/-- 07 R378: the next line in address order is asked for, when it can be read without a fault or a page request and finds miss entries
(05 R103); it is there after its time. -/
def State.fetchAhead (va : Nat) (s : State) : State :=
  match s.translate s.blk.core s.blk.vd s.me.priv .exec (BitVec.ofNat 64 va) with
  | (.ok e, s1) =>
    let line := e.addr va / 256
    if s1.fetchRoom line then
      let (bs, mark, pois, s2) := s1.readLine line
      s2.mapMe (fun t => { t with fetch := t.fetch ++ [{ fetchCells va bs mark pois with
        ready := s1.now + s1.fetchTime line * acTicks, entries := lackedBy s1.core line }] })
    else s1
  | _ => s

/-- 07 R378: PC is in a line that is in the fetch buffer: the buffer keeps that line, leaves the other and asks for the next; a
word that is poisoned or marked ends or traps the strand (01 R12). -/
def State.fetchHeld (l : FetchLine) (s : State) : State :=
  let va := s.me.pc.toNat
  let here := va / 64 % 4
  if bit l.poison here then s.halt (s.trapAll .poison 0 s.me.pc)
  else if bit l.marks here then s.takeTrap (s.trapAll .decode 0 s.me.pc)
  else (s.mapMe (fun t => { t with fetch := [l] })).fetchAhead (va / 256 * 256 + 256)

/-- 07 R378, 01 R12: the line that holds PC arrives through the L1, and holds the strand until it is there: its translation needs execute
permission; a missing one waits on a page request with the strand (19 R321); a line that misses waits for miss entries (05 R103) and for the
links. -/
def State.fetchNew (s : State) : State :=
  let va := s.me.pc.toNat
  let fail (c : Cause) (s : State) : State := s.takeTrap (s.trapAll c 0 s.me.pc)
  match (s.me.memWait.map (·.failed)).getD [] with
  | f :: _ => fail f.cause s
  | [] =>
    if ((s.me.memWait.map (·.waiting)).getD []).any (fun w => w.id.isSome) then s.waits 13
    else
      match s.translate s.blk.core s.blk.vd s.me.priv .exec s.me.pc with
      | (.held, s1) => s1.waits 13
      | (.fail c, s1) => fail c s1
      | (.miss stage2 page acc, s1) =>
        let (w, s2) := s1.awaitPage s.blk.vd 0 s.me.pc stage2 page acc
        ((s2.count s.blk.vd 0x0D (if s1.raises s.blk.vd stage2 page then 1 else 0) s.me.priv).mapMe (fun t =>
          { t with memWait := some { acc := .exec, ok := [], failed := [], waiting := [w] } })).waits 13
      | (.ok e, s1) =>
        let line := e.addr va / 256
        if ¬ s1.fetchRoom line then s1.waits 13
        else
          let (bs, mark, pois, s2) := s1.readLine line
          let at_ := s1.now + s1.fetchTime line * acTicks
          let here := va / 64 % 4
          if bit pois here then s2.halt (s2.trapAll .poison 0 s.me.pc)
          else if bit mark here then fail .decode s2
          else
            let s3 := s2.mapMe (fun t =>
              { t with memWait := none, reason := 13, readyAt := Nat.max t.readyAt at_,
                       fetch := [{ fetchCells va bs mark pois with ready := at_, entries := lackedBy s1.core line }] })
            s3.fetchAhead (va / 256 * 256 + 256)

/-- 07 R378: PC has entered a line; one of the fetch buffer that is still on its way holds the strand until it is there. -/
def State.fetchPc (s : State) : State :=
  match s.me.fetch.find? (fun l => l.line == s.me.pc.toNat / 256) with
  | some l =>
    if s.now < l.ready then s.mapMe (fun t => { t with reason := 13, readyAt := Nat.max t.readyAt l.ready })
    else s.fetchHeld l
  | none => s.fetchNew

/-! ## Who moves next (log entry 3) -/

/-- Whether a strand may issue: it runs, it neither sleeps nor yields, its block is not being evicted or held (a strand with
TMASKED = 1 runs on through STOPPING, 17 R298; a member of a completed rendezvous completes its matrix word, 07 R149), its cluster issues,
the package is not stopped (19 R333, 23 R374). -/
def State.runnable (s : State) (t : Strand) : Bool :=
  decide (t.run = .running) && decide (t.wait ≠ .sleeping) && decide (t.wait ≠ .yielding) && !s.control.stopped
    && (match s.block? t.block with
        | some b => (decide (b.phase = .running) || (decide (b.phase = .stopping) && ((t.tmasked && !t.overrun) || decide (t.wait = .released))))
                      && s.clusterIssues b.core
        | none => false)

/-- The next move. -/
inductive Move where
  | event (k : Nat)
  | strand (id : Nat)
  | run
  | idle
  deriving DecidableEq, Repr

/-- The moves that are possible now: the events that are due, the strands that may issue and whose last word took its time, the
transducer run. -/
def State.moves (s : State) : List Move :=
  ((List.range s.agenda.length).filter (fun k => ((s.agenda[k]?).map (fun d => decide (d.at_ ≤ s.now))).getD false)).map .event
    ++ ((s.allStrands.filter (fun t => s.runnable t && decide (t.readyAt ≤ s.now))).map (fun t => .strand t.id))
    ++ (match s.xd with
        | some r => if r.ended.isNone then [.run] else []
        | none => [])

/-- 07 R140: where a move meets a tray: the block, the tray, and its place in the order of one ac: 0 a landing, 1 a pop, 2 a commit or a
reservation, 3 a wait.  A slot lands with its copy's completion, a streamed one with its last chunk; a multicast reserves at the blocks of
its group as its positions are decided (11 R204). -/
def State.meets (s : State) (m : Move) : List (Nat × Nat × Nat) :=
  let copy (op cls : Nat) : List (Nat × Nat × Nat) := match s.copies.find? (fun c => c.id == op) with
    | some c => match c.side with
      | .tray t => (c.block :: c.decided.filterMap (fun d => match d with
          | .accept b _ => some b
          | .refuse _ => none)).map (fun b => (b, t, cls))
      | _ => []
    | none => []
  match m with
  | .event k => match s.agenda[k]? with
    | some d => match d.ev with
      | .copyComplete op => copy op 0
      | .copyChunkLand op => match s.copies.find? (fun c => c.id == op) with
        | some c =>
          if c.stream then copy op 0
          else match c.kind, c.side with
            | .cpm, .tray t => (s.allBlocks.filter (fun b => ((s.block? c.block).map (·.group)) == some b.group)).map (fun b => (b.id, t, 2))
            | _, _ => []
        | none => []
      | .matrixSlotStream op => match s.mxops.find? (fun x => x.id == op) with
        | some x => if x.p then [(x.block, x.tray, 1)] else []
        | none => []
      | .trayReserve op => copy op 2
      | _ => []
    | none => []
  | .strand id => match s.strand? id with
    | some t => match t.fetched with
      | some w =>
        let n := w.toNat / 2 ^ 18 % 16
        if w.toNat / 2 ^ 22 = 0x352 then [(t.block, n, 1)]
        else if w.toNat / 2 ^ 22 = 0x354 then [(t.block, n, 2)]
        else if w.toNat / 2 ^ 22 = 0x351 then [(t.block, n, 3)] else []
      | none => []
    | none => []
  | _ => []

/-- 07 R140: of the moves that meet one tray in one ac those of the earliest place go first. -/
def State.trayOrder (s : State) (ms : List Move) : List Move :=
  ms.filter (fun m => (s.meets m).all (fun a => ms.all (fun n => (s.meets n).all (fun b =>
    !(decide (b.1 = a.1 ∧ b.2.1 = a.2.1 ∧ b.2.2 < a.2.2))))))

/-- One of several possible moves, as the free value says; a single one goes ahead. -/
def State.choose (s : State) : Move × State :=
  match (match s.moves with
    | [] => []
    | [m] => [m]
    | ms => s.trayOrder ms) with
  | [] => (.idle, s)
  | [m] => (m, s)
  | ms => let (k, s1) := s.draw
    ((ms[Config.agentChoice k % ms.length]?).getD .idle, s1)

/-- Nothing can move now: time goes on to when the next event is due or a strand may try again, or by 1 ns. -/
def State.idleOn (s : State) : State :=
  match s.agenda.map (·.at_) ++ (s.allStrands.filter s.runnable).map (·.readyAt) with
  | [] => s.advance (s.now + nsTicks)
  | t :: r => s.advance (r.foldl Nat.min t)

/-- 21 R349: the PC match register that fires before the word at PC issues; never while TMASKED = 1. -/
def Strand.matchIndex (t : Strand) : Option Nat :=
  if t.tmasked ∨ t.matched ∨ t.issued then none
  else (List.range 4).find? (fun k => ((t.pcMatch[k]?).map (fun m => m.enable && decide (m.addr = t.pc))).getD false)

/-- What the strand in the focus does when it moves. -/
inductive Turn where
  | fires
  | fetch
  | word (w : W32)
  deriving DecidableEq, Repr

def Strand.turn (t : Strand) : Turn :=
  match t.matchIndex with
  | some _ => .fires
  | none => match t.fetched with
    | some w => .word w
    | none => .fetch

end Sys2Proof.Machine
end

