-- ==== Sys2Proof/Machine/Scalar.lean ====
section
/-!
DEFINITION. Sys2Proof/Machine/Scalar.lean: scalar arithmetic, immediate forms and constants (03 R59 to R61).
-/

namespace Sys2Proof.Machine

/-! ## The operations of R59, on n bits -/

def opAdd (n : Nat) (a b : BitVec n) : BitVec n := a + b
def opSub (n : Nat) (a b : BitVec n) : BitVec n := a - b
def opAnd (n : Nat) (a b : BitVec n) : BitVec n := a &&& b
def opOr (n : Nat) (a b : BitVec n) : BitVec n := a ||| b
def opXor (n : Nat) (a b : BitVec n) : BitVec n := a ^^^ b
def opAndn (n : Nat) (a b : BitVec n) : BitVec n := a &&& ~~~b
def opShl (n : Nat) (a b : BitVec n) : BitVec n := a <<< (b.toNat % n)
def opShr (n : Nat) (a b : BitVec n) : BitVec n := a >>> (b.toNat % n)
def opSar (n : Nat) (a b : BitVec n) : BitVec n := a.sshiftRight (b.toNat % n)
def opMul (n : Nat) (a b : BitVec n) : BitVec n := a * b
def opMulh (n : Nat) (a b : BitVec n) : BitVec n := BitVec.ofInt n (a.toInt * b.toInt / (2 ^ n : Nat))
def opMulhn (n : Nat) (a b : BitVec n) : BitVec n := BitVec.ofNat n (a.toNat * b.toNat / 2 ^ n)
def opMin (n : Nat) (a b : BitVec n) : BitVec n := if a.toInt < b.toInt then a else b
def opMax (n : Nat) (a b : BitVec n) : BitVec n := if b.toInt < a.toInt then a else b
def opMinn (n : Nat) (a b : BitVec n) : BitVec n := if a.toNat < b.toNat then a else b
def opMaxn (n : Nat) (a b : BitVec n) : BitVec n := if b.toNat < a.toNat then a else b
def opSlt (n : Nat) (a b : BitVec n) : BitVec n := if a.toInt < b.toInt then 1#n else 0#n
def opSltn (n : Nat) (a b : BitVec n) : BitVec n := if a.toNat < b.toNat then 1#n else 0#n
def opSeq (n : Nat) (a b : BitVec n) : BitVec n := if a = b then 1#n else 0#n
def opSne (n : Nat) (a b : BitVec n) : BitVec n := if a ≠ b then 1#n else 0#n

/-- b = 0 gives 2^n - 1; the overflow case wraps to -2^(n-1). -/
def opDiv (n : Nat) (a b : BitVec n) : BitVec n := if b = 0#n then BitVec.allOnes n else a.sdiv b
def opDivn (n : Nat) (a b : BitVec n) : BitVec n := if b = 0#n then BitVec.allOnes n else a / b

/-- b = 0 gives a; the overflow case gives 0. -/
def opRem (n : Nat) (a b : BitVec n) : BitVec n := if b = 0#n then a else a.srem b
def opRemn (n : Nat) (a b : BitVec n) : BitVec n := if b = 0#n then a else a % b

/-- Leading zero bits; n for 0. -/
def opClz (n : Nat) (a : BitVec n) : BitVec n := BitVec.ofNat n (if a.toNat = 0 then n else n - 1 - Nat.log2 a.toNat)

/-- Trailing zero bits; n for 0. -/
def opCtz (n : Nat) (a : BitVec n) : BitVec n := BitVec.ofNat n (((List.range n).find? (fun i => bit a i)).getD n)

/-- Set bits. -/
def opPopc (n : Nat) (a : BitVec n) : BitVec n :=
  BitVec.ofNat n ((List.range n).foldl (fun c i => if bit a i then c + 1 else c) 0)

/-- A field of width wd at st; one that reaches past bit n - 1 is cut there. -/
def opBext (n : Nat) (a : BitVec n) (st wd : Nat) : BitVec n := BitVec.ofNat n (a.toNat / 2 ^ st % 2 ^ wd)

def opBins (n : Nat) (d a : BitVec n) (st wd : Nat) : BitVec n :=
  let k := BitVec.ofNat n ((2 ^ wd - 1) * 2 ^ st)
  (d &&& ~~~k) ||| (BitVec.ofNat n (a.toNat * 2 ^ st) &&& k)

/-- The n-bit a rotated right by k mod n. -/
def opRotr (n : Nat) (a b : BitVec n) : BitVec n := a.rotateRight (b.toNat % n)

/-- R59: W = 1 works on the low 32 bits and sign-extends the result. -/
def alu2 (w : BitVec 1) (op : (n : Nat) → BitVec n → BitVec n → BitVec n) (a b : W64) : W64 :=
  if w = 1 then (op 32 (a.setWidth 32) (b.setWidth 32)).signExtend 64 else op 64 a b

def alu1 (w : BitVec 1) (op : (n : Nat) → BitVec n → BitVec n) (a : W64) : W64 :=
  if w = 1 then (op 32 (a.setWidth 32)).signExtend 64 else op 64 a

/-- A scalar instruction that reads `rs` and writes one register, with the 2 ac of R50. -/
def scalarForm (word : W32) (rs : List (BitVec 6)) (d : BitVec 6) (ok : Bool := true) : Form :=
  { word := word, ok := ok, use := { sr := rs, sw := [d] }, lat := 2 }

/-- One scalar result, from the latched sources. -/
def scalarOp (f : Form) (d : BitVec 6) (x : State → W64) (s : State) : Out := issue f (fun s => .done (s.setS d (x s))) s

/-! ## Majors 0x01 and 0x02 -/

def execAdd (d a b : BitVec 6) (w : BitVec 1) (s : State) : Out :=
  scalarOp (scalarForm (assemble 0x04000000 [(d.toNat, 16), (a.toNat, 10), (b.toNat, 4), (w.toNat, 0)]) [a, b] d) d (fun s => alu2 w opAdd (s.sreg a) (s.sreg b)) s

def execSub (d a b : BitVec 6) (w : BitVec 1) (s : State) : Out :=
  scalarOp (scalarForm (assemble 0x04400000 [(d.toNat, 16), (a.toNat, 10), (b.toNat, 4), (w.toNat, 0)]) [a, b] d) d (fun s => alu2 w opSub (s.sreg a) (s.sreg b)) s

def execAnd (d a b : BitVec 6) (w : BitVec 1) (s : State) : Out :=
  scalarOp (scalarForm (assemble 0x04800000 [(d.toNat, 16), (a.toNat, 10), (b.toNat, 4), (w.toNat, 0)]) [a, b] d) d (fun s => alu2 w opAnd (s.sreg a) (s.sreg b)) s

def execOr (d a b : BitVec 6) (w : BitVec 1) (s : State) : Out :=
  scalarOp (scalarForm (assemble 0x04C00000 [(d.toNat, 16), (a.toNat, 10), (b.toNat, 4), (w.toNat, 0)]) [a, b] d) d (fun s => alu2 w opOr (s.sreg a) (s.sreg b)) s

def execXor (d a b : BitVec 6) (w : BitVec 1) (s : State) : Out :=
  scalarOp (scalarForm (assemble 0x05000000 [(d.toNat, 16), (a.toNat, 10), (b.toNat, 4), (w.toNat, 0)]) [a, b] d) d (fun s => alu2 w opXor (s.sreg a) (s.sreg b)) s

def execAndn (d a b : BitVec 6) (w : BitVec 1) (s : State) : Out :=
  scalarOp (scalarForm (assemble 0x05400000 [(d.toNat, 16), (a.toNat, 10), (b.toNat, 4), (w.toNat, 0)]) [a, b] d) d (fun s => alu2 w opAndn (s.sreg a) (s.sreg b)) s

def execShl (d a b : BitVec 6) (w : BitVec 1) (s : State) : Out :=
  scalarOp (scalarForm (assemble 0x05800000 [(d.toNat, 16), (a.toNat, 10), (b.toNat, 4), (w.toNat, 0)]) [a, b] d) d (fun s => alu2 w opShl (s.sreg a) (s.sreg b)) s

def execShr (d a b : BitVec 6) (w : BitVec 1) (s : State) : Out :=
  scalarOp (scalarForm (assemble 0x05C00000 [(d.toNat, 16), (a.toNat, 10), (b.toNat, 4), (w.toNat, 0)]) [a, b] d) d (fun s => alu2 w opShr (s.sreg a) (s.sreg b)) s

def execSar (d a b : BitVec 6) (w : BitVec 1) (s : State) : Out :=
  scalarOp (scalarForm (assemble 0x06000000 [(d.toNat, 16), (a.toNat, 10), (b.toNat, 4), (w.toNat, 0)]) [a, b] d) d (fun s => alu2 w opSar (s.sreg a) (s.sreg b)) s

def execMul (d a b : BitVec 6) (w : BitVec 1) (s : State) : Out :=
  scalarOp (scalarForm (assemble 0x06400000 [(d.toNat, 16), (a.toNat, 10), (b.toNat, 4), (w.toNat, 0)]) [a, b] d) d (fun s => alu2 w opMul (s.sreg a) (s.sreg b)) s

def execMulh (d a b : BitVec 6) (w : BitVec 1) (s : State) : Out :=
  scalarOp (scalarForm (assemble 0x06800000 [(d.toNat, 16), (a.toNat, 10), (b.toNat, 4), (w.toNat, 0)]) [a, b] d) d (fun s => alu2 w opMulh (s.sreg a) (s.sreg b)) s

def execMulhn (d a b : BitVec 6) (w : BitVec 1) (s : State) : Out :=
  scalarOp (scalarForm (assemble 0x06C00000 [(d.toNat, 16), (a.toNat, 10), (b.toNat, 4), (w.toNat, 0)]) [a, b] d) d (fun s => alu2 w opMulhn (s.sreg a) (s.sreg b)) s

def execMin (d a b : BitVec 6) (w : BitVec 1) (s : State) : Out :=
  scalarOp (scalarForm (assemble 0x07000000 [(d.toNat, 16), (a.toNat, 10), (b.toNat, 4), (w.toNat, 0)]) [a, b] d) d (fun s => alu2 w opMin (s.sreg a) (s.sreg b)) s

def execMax (d a b : BitVec 6) (w : BitVec 1) (s : State) : Out :=
  scalarOp (scalarForm (assemble 0x07400000 [(d.toNat, 16), (a.toNat, 10), (b.toNat, 4), (w.toNat, 0)]) [a, b] d) d (fun s => alu2 w opMax (s.sreg a) (s.sreg b)) s

def execMinn (d a b : BitVec 6) (w : BitVec 1) (s : State) : Out :=
  scalarOp (scalarForm (assemble 0x07800000 [(d.toNat, 16), (a.toNat, 10), (b.toNat, 4), (w.toNat, 0)]) [a, b] d) d (fun s => alu2 w opMinn (s.sreg a) (s.sreg b)) s

def execMaxn (d a b : BitVec 6) (w : BitVec 1) (s : State) : Out :=
  scalarOp (scalarForm (assemble 0x07C00000 [(d.toNat, 16), (a.toNat, 10), (b.toNat, 4), (w.toNat, 0)]) [a, b] d) d (fun s => alu2 w opMaxn (s.sreg a) (s.sreg b)) s

def execSlt (d a b : BitVec 6) (w : BitVec 1) (s : State) : Out :=
  scalarOp (scalarForm (assemble 0x08000000 [(d.toNat, 16), (a.toNat, 10), (b.toNat, 4), (w.toNat, 0)]) [a, b] d) d (fun s => alu2 w opSlt (s.sreg a) (s.sreg b)) s

def execSltn (d a b : BitVec 6) (w : BitVec 1) (s : State) : Out :=
  scalarOp (scalarForm (assemble 0x08400000 [(d.toNat, 16), (a.toNat, 10), (b.toNat, 4), (w.toNat, 0)]) [a, b] d) d (fun s => alu2 w opSltn (s.sreg a) (s.sreg b)) s

def execSeq (d a b : BitVec 6) (w : BitVec 1) (s : State) : Out :=
  scalarOp (scalarForm (assemble 0x08800000 [(d.toNat, 16), (a.toNat, 10), (b.toNat, 4), (w.toNat, 0)]) [a, b] d) d (fun s => alu2 w opSeq (s.sreg a) (s.sreg b)) s

def execSne (d a b : BitVec 6) (w : BitVec 1) (s : State) : Out :=
  scalarOp (scalarForm (assemble 0x08C00000 [(d.toNat, 16), (a.toNat, 10), (b.toNat, 4), (w.toNat, 0)]) [a, b] d) d (fun s => alu2 w opSne (s.sreg a) (s.sreg b)) s

def execDiv (d a b : BitVec 6) (w : BitVec 1) (s : State) : Out :=
  scalarOp (scalarForm (assemble 0x09000000 [(d.toNat, 16), (a.toNat, 10), (b.toNat, 4), (w.toNat, 0)]) [a, b] d) d (fun s => alu2 w opDiv (s.sreg a) (s.sreg b)) s

def execDivn (d a b : BitVec 6) (w : BitVec 1) (s : State) : Out :=
  scalarOp (scalarForm (assemble 0x09400000 [(d.toNat, 16), (a.toNat, 10), (b.toNat, 4), (w.toNat, 0)]) [a, b] d) d (fun s => alu2 w opDivn (s.sreg a) (s.sreg b)) s

def execRem (d a b : BitVec 6) (w : BitVec 1) (s : State) : Out :=
  scalarOp (scalarForm (assemble 0x09800000 [(d.toNat, 16), (a.toNat, 10), (b.toNat, 4), (w.toNat, 0)]) [a, b] d) d (fun s => alu2 w opRem (s.sreg a) (s.sreg b)) s

def execRemn (d a b : BitVec 6) (w : BitVec 1) (s : State) : Out :=
  scalarOp (scalarForm (assemble 0x09C00000 [(d.toNat, 16), (a.toNat, 10), (b.toNat, 4), (w.toNat, 0)]) [a, b] d) d (fun s => alu2 w opRemn (s.sreg a) (s.sreg b)) s

def execClz (d a : BitVec 6) (w : BitVec 1) (s : State) : Out :=
  scalarOp (scalarForm (assemble 0x0A000000 [(d.toNat, 16), (a.toNat, 10), (w.toNat, 0)]) [a] d) d (fun s => alu1 w opClz (s.sreg a)) s

def execCtz (d a : BitVec 6) (w : BitVec 1) (s : State) : Out :=
  scalarOp (scalarForm (assemble 0x0A400000 [(d.toNat, 16), (a.toNat, 10), (w.toNat, 0)]) [a] d) d (fun s => alu1 w opCtz (s.sreg a)) s

def execPopc (d a : BitVec 6) (w : BitVec 1) (s : State) : Out :=
  scalarOp (scalarForm (assemble 0x0A800000 [(d.toNat, 16), (a.toNat, 10), (w.toNat, 0)]) [a] d) d (fun s => alu1 w opPopc (s.sreg a)) s

/-- The field that S[sb] describes: st in [5:0], wd in [11:6]. -/
def fieldStart (b : W64) : Nat := slice b 5 0
def fieldWidth (b : W64) : Nat := slice b 11 6

def execBext (d a b : BitVec 6) (w : BitVec 1) (s : State) : Out :=
  scalarOp (scalarForm (assemble 0x0AC00000 [(d.toNat, 16), (a.toNat, 10), (b.toNat, 4), (w.toNat, 0)]) [a, b] d) d (fun s =>
    alu1 w (fun n a => opBext n a (fieldStart (s.sreg b)) (fieldWidth (s.sreg b))) (s.sreg a)) s

/-- `bins` reads sd as a source. -/
def execBins (d a b : BitVec 6) (w : BitVec 1) (s : State) : Out :=
  scalarOp (scalarForm (assemble 0x0B000000 [(d.toNat, 16), (a.toNat, 10), (b.toNat, 4), (w.toNat, 0)]) [a, b, d] d) d (fun s =>
    alu2 w (fun n d a => opBins n d a (fieldStart (s.sreg b)) (fieldWidth (s.sreg b))) (s.sreg d) (s.sreg a)) s

/-! ## Immediate forms (R60) -/

def execAddi (d a : BitVec 6) (i : BitVec 14) (s : State) : Out :=
  scalarOp (scalarForm (assemble 0x0C000000 [(d.toNat, 20), (a.toNat, 14), (i.toNat, 0)]) [a] d) d (fun s => opAdd 64 (s.sreg a) (s.imm i)) s

def execAndi (d a : BitVec 6) (i : BitVec 14) (s : State) : Out :=
  scalarOp (scalarForm (assemble 0x10000000 [(d.toNat, 20), (a.toNat, 14), (i.toNat, 0)]) [a] d) d (fun s => opAnd 64 (s.sreg a) (s.imm i)) s

def execOri (d a : BitVec 6) (i : BitVec 14) (s : State) : Out :=
  scalarOp (scalarForm (assemble 0x14000000 [(d.toNat, 20), (a.toNat, 14), (i.toNat, 0)]) [a] d) d (fun s => opOr 64 (s.sreg a) (s.imm i)) s

def execXori (d a : BitVec 6) (i : BitVec 14) (s : State) : Out :=
  scalarOp (scalarForm (assemble 0x18000000 [(d.toNat, 20), (a.toNat, 14), (i.toNat, 0)]) [a] d) d (fun s => opXor 64 (s.sreg a) (s.imm i)) s

def execSlti (d a : BitVec 6) (i : BitVec 14) (s : State) : Out :=
  scalarOp (scalarForm (assemble 0x20000000 [(d.toNat, 20), (a.toNat, 14), (i.toNat, 0)]) [a] d) d (fun s => opSlt 64 (s.sreg a) (s.imm i)) s

def execSltni (d a : BitVec 6) (i : BitVec 14) (s : State) : Out :=
  scalarOp (scalarForm (assemble 0x24000000 [(d.toNat, 20), (a.toNat, 14), (i.toNat, 0)]) [a] d) d (fun s => opSltn 64 (s.sreg a) (s.imm i)) s

/-- R60: with W = 1 the amount has no bit 5. -/
def shiftOk (w : BitVec 1) (n : BitVec 6) : Bool := decide (w = 1 → n.toNat < 32)

def execShli (d a : BitVec 6) (w : BitVec 1) (n : BitVec 6) (s : State) : Out :=
  scalarOp (scalarForm (assemble 0x1C000000 [(d.toNat, 20), (a.toNat, 14), (w.toNat, 6), (n.toNat, 0)]) [a] d (shiftOk w n)) d (fun s => alu2 w opShl (s.sreg a) (n.setWidth 64)) s

def execShri (d a : BitVec 6) (w : BitVec 1) (n : BitVec 6) (s : State) : Out :=
  scalarOp (scalarForm (assemble 0x1C001000 [(d.toNat, 20), (a.toNat, 14), (w.toNat, 6), (n.toNat, 0)]) [a] d (shiftOk w n)) d (fun s => alu2 w opShr (s.sreg a) (n.setWidth 64)) s

def execSari (d a : BitVec 6) (w : BitVec 1) (n : BitVec 6) (s : State) : Out :=
  scalarOp (scalarForm (assemble 0x1C002000 [(d.toNat, 20), (a.toNat, 14), (w.toNat, 6), (n.toNat, 0)]) [a] d (shiftOk w n)) d (fun s => alu2 w opSar (s.sreg a) (n.setWidth 64)) s

def execRotri (d a : BitVec 6) (w : BitVec 1) (n : BitVec 6) (s : State) : Out :=
  scalarOp (scalarForm (assemble 0x1C003000 [(d.toNat, 20), (a.toNat, 14), (w.toNat, 6), (n.toNat, 0)]) [a] d (shiftOk w n)) d (fun s => alu2 w opRotr (s.sreg a) (n.setWidth 64)) s

/-! ## Constants (R61) -/

def execLi (d : BitVec 6) (i : BitVec 20) (s : State) : Out :=
  scalarOp (scalarForm (assemble 0x28000000 [(d.toNat, 20), (i.toNat, 0)]) [] d) d (fun s => s.imm i) s

def execAddpc (d : BitVec 6) (i : BitVec 20) (s : State) : Out :=
  scalarOp (scalarForm (assemble 0x2C000000 [(d.toNat, 20), (i.toNat, 0)]) [] d) d (fun s => s.target i) s

end Sys2Proof.Machine
end

