-- ==== Sys2Proof/Machine/Vector.lean ====
section
/-!
DEFINITION. Sys2Proof/Machine/Vector.lean: vector integer arithmetic, compares, lane movement and reductions (04 R76 to R88).
-/

namespace Sys2Proof.Machine

/-! ## Forms -/

/-- 01 R15: K = 1 needs a class-1 source field. -/
def kOk (k : BitVec 1) (fs : List (BitVec 7)) : Bool := decide (k = 1) → fs.any isChan

/-- A plain 6-bit vector index as a field of class 0 (01 R15). -/
def plainV (r : BitVec 6) : BitVec 7 := r.setWidth 7

/-- A vector instruction: its vector sources and destination, its latency (02 R50). -/
def vecForm (word : W32) (vr vw : List (BitVec 7)) (lat : Nat) (ok : Bool := true) (k : BitVec 1 := 0)
    (okProt : Bool := true) : Form :=
  { word := word, ok := ok, okProt := okProt, lat := lat, vector := true,
    use := { vr := vr, vw := vw, peek := decide (k = 1) } }

/-- The same with scalar sources and destinations. -/
def vecScalarForm (word : W32) (vr vw : List (BitVec 7)) (sr sw : List (BitVec 6)) (lat : Nat) (ok : Bool := true)
    (okProt : Bool := true) : Form :=
  { word := word, ok := ok, okProt := okProt, lat := lat, vector := true, use := { vr := vr, vw := vw, sr := sr, sw := sw } }

/-- 00 R9: the active lanes of vd take the new elements; what goes to a channel is compared in protected mode (02 R48). -/
def State.putLanes (d : BitVec 7) (x : Vec) (s : State) : Result :=
  if isChan d then s.compare s.active (.done (s.setV d s.active x)) else .done (s.setV d s.active x)

/-- An elementwise member: vd[L] gets x of lane L, from the latched sources (00 R9). -/
def laneOp (f : Form) (d : BitVec 7) (x : State → Nat → W32) (s : State) : Out :=
  issue f (fun s => s.putLanes d (Vec.tab (x s))) s

/-- A member that writes a scalar from lanes: compared in protected mode on the lanes it takes (02 R48). -/
def lanesToScalar (f : Form) (d : BitVec 6) (mask : State → W32) (x : State → W64) (s : State) : Out :=
  issue f (fun s => s.compare (mask s) (.done (s.setS d (x s)))) s

/-- 04 R81: one mask bit a lane; an inactive lane's bit is written 0; mask bits are compared in protected mode. -/
def compareOp (f : Form) (m : BitVec 3) (p : State → Nat → Bool) (s : State) : Out :=
  issue f (fun s => s.compare s.active (.done (s.setM m (maskOf (fun L => bit s.active L && p s L))))) s

/-! ## Major 0x18 (R80) -/

def vAbsd (a b : W32) : W32 := BitVec.ofNat 32 (a.toInt - b.toInt).natAbs

/-- A two-operand member of major 0x18. -/
def v3Op (word : W32) (d a b : BitVec 7) (k : BitVec 1) (op : State → W32 → W32 → W32) (s : State) : Out :=
  laneOp (vecForm word [a, b] [d] 4 (kOk k [a, b]) k) d (fun s L => op s (Vec.lane (s.vreg a) L) (Vec.lane (s.vreg b) L)) s

def execVadd (d a b : BitVec 7) (k : BitVec 1) (s : State) : Out :=
  v3Op (assemble 0x60000000 [(d.toNat, 15), (a.toNat, 8), (b.toNat, 1), (k.toNat, 0)]) d a b k (fun s a b => s.narrow (a.toInt + b.toInt)) s

def execVsub (d a b : BitVec 7) (k : BitVec 1) (s : State) : Out :=
  v3Op (assemble 0x60400000 [(d.toNat, 15), (a.toNat, 8), (b.toNat, 1), (k.toNat, 0)]) d a b k (fun s a b => s.narrow (a.toInt - b.toInt)) s

def execVmul (d a b : BitVec 7) (k : BitVec 1) (s : State) : Out :=
  v3Op (assemble 0x60800000 [(d.toNat, 15), (a.toNat, 8), (b.toNat, 1), (k.toNat, 0)]) d a b k (fun _ => opMul 32) s

def execVmulh (d a b : BitVec 7) (k : BitVec 1) (s : State) : Out :=
  v3Op (assemble 0x60C00000 [(d.toNat, 15), (a.toNat, 8), (b.toNat, 1), (k.toNat, 0)]) d a b k (fun _ => opMulh 32) s

def execVmulhn (d a b : BitVec 7) (k : BitVec 1) (s : State) : Out :=
  v3Op (assemble 0x61000000 [(d.toNat, 15), (a.toNat, 8), (b.toNat, 1), (k.toNat, 0)]) d a b k (fun _ => opMulhn 32) s

def execVmin (d a b : BitVec 7) (k : BitVec 1) (s : State) : Out :=
  v3Op (assemble 0x61400000 [(d.toNat, 15), (a.toNat, 8), (b.toNat, 1), (k.toNat, 0)]) d a b k (fun _ => opMin 32) s

def execVmax (d a b : BitVec 7) (k : BitVec 1) (s : State) : Out :=
  v3Op (assemble 0x61800000 [(d.toNat, 15), (a.toNat, 8), (b.toNat, 1), (k.toNat, 0)]) d a b k (fun _ => opMax 32) s

def execVminn (d a b : BitVec 7) (k : BitVec 1) (s : State) : Out :=
  v3Op (assemble 0x61C00000 [(d.toNat, 15), (a.toNat, 8), (b.toNat, 1), (k.toNat, 0)]) d a b k (fun _ => opMinn 32) s

def execVmaxn (d a b : BitVec 7) (k : BitVec 1) (s : State) : Out :=
  v3Op (assemble 0x62000000 [(d.toNat, 15), (a.toNat, 8), (b.toNat, 1), (k.toNat, 0)]) d a b k (fun _ => opMaxn 32) s

def execVand (d a b : BitVec 7) (k : BitVec 1) (s : State) : Out :=
  v3Op (assemble 0x62400000 [(d.toNat, 15), (a.toNat, 8), (b.toNat, 1), (k.toNat, 0)]) d a b k (fun _ => opAnd 32) s

def execVor (d a b : BitVec 7) (k : BitVec 1) (s : State) : Out :=
  v3Op (assemble 0x62800000 [(d.toNat, 15), (a.toNat, 8), (b.toNat, 1), (k.toNat, 0)]) d a b k (fun _ => opOr 32) s

def execVxor (d a b : BitVec 7) (k : BitVec 1) (s : State) : Out :=
  v3Op (assemble 0x62C00000 [(d.toNat, 15), (a.toNat, 8), (b.toNat, 1), (k.toNat, 0)]) d a b k (fun _ => opXor 32) s

def execVshl (d a b : BitVec 7) (k : BitVec 1) (s : State) : Out :=
  v3Op (assemble 0x63000000 [(d.toNat, 15), (a.toNat, 8), (b.toNat, 1), (k.toNat, 0)]) d a b k (fun _ => opShl 32) s

def execVshr (d a b : BitVec 7) (k : BitVec 1) (s : State) : Out :=
  v3Op (assemble 0x63400000 [(d.toNat, 15), (a.toNat, 8), (b.toNat, 1), (k.toNat, 0)]) d a b k (fun _ => opShr 32) s

def execVsar (d a b : BitVec 7) (k : BitVec 1) (s : State) : Out :=
  v3Op (assemble 0x63800000 [(d.toNat, 15), (a.toNat, 8), (b.toNat, 1), (k.toNat, 0)]) d a b k (fun _ => opSar 32) s

def execVabsd (d a b : BitVec 7) (k : BitVec 1) (s : State) : Out :=
  v3Op (assemble 0x63C00000 [(d.toNat, 15), (a.toNat, 8), (b.toNat, 1), (k.toNat, 0)]) d a b k (fun _ => vAbsd) s

/-! ## Compare (R81) -/

def execVcmp (c m : BitVec 3) (a b : BitVec 7) (s : State) : Out :=
  compareOp { word := (assemble 0x64000000 [(c.toNat, 23), (m.toNat, 20), (a.toNat, 13), (b.toNat, 6)]), ok := decide (c.toNat ≤ 5), lat := 4, vector := true, use := { vr := [a, b], mw := [m] } } m
    (fun s L => condPair c.toNat (Vec.lane (s.vreg a) L) (Vec.lane (s.vreg b) L)) s

/-! ## Four operands (R82) -/

def vMad (a b c : W32) : W32 := a * b + c
def vFsl (a b c : W32) : W32 := BitVec.ofNat 32 ((a.toNat * 2 ^ 32 + b.toNat) * 2 ^ (c.toNat % 32) / 2 ^ 32)
def vFsr (a b c : W32) : W32 := BitVec.ofNat 32 ((a.toNat * 2 ^ 32 + b.toNat) / 2 ^ (c.toNat % 32))
def vBsel (a b c : W32) : W32 := (a &&& c) ||| (b &&& ~~~c)

def v4Op (word : W32) (d a b c : BitVec 6) (lat : Nat) (op : State → W32 → W32 → W32 → W32) (s : State) : Out :=
  laneOp (vecForm word [plainV a, plainV b, plainV c] [plainV d] lat) (plainV d) (fun s L =>
    op s (Vec.lane (s.vreg (plainV a)) L) (Vec.lane (s.vreg (plainV b)) L) (Vec.lane (s.vreg (plainV c)) L)) s

def execVmad (d a b c : BitVec 6) (s : State) : Out := v4Op (assemble 0x68000000 [(d.toNat, 18), (a.toNat, 12), (b.toNat, 6), (c.toNat, 0)]) d a b c 4 (fun _ => vMad) s

def execVfsl (d a b c : BitVec 6) (s : State) : Out := v4Op (assemble 0x69000000 [(d.toNat, 18), (a.toNat, 12), (b.toNat, 6), (c.toNat, 0)]) d a b c 4 (fun _ => vFsl) s

def execVfsr (d a b c : BitVec 6) (s : State) : Out := v4Op (assemble 0x6A000000 [(d.toNat, 18), (a.toNat, 12), (b.toNat, 6), (c.toNat, 0)]) d a b c 4 (fun _ => vFsr) s

def execVbsel (d a b c : BitVec 6) (s : State) : Out := v4Op (assemble 0x6B000000 [(d.toNat, 18), (a.toNat, 12), (b.toNat, 6), (c.toNat, 0)]) d a b c 4 (fun _ => vBsel) s

/-! ## Immediates (R84) -/

/-- c of R84. -/
def State.vimm (s : State) (i : BitVec 8) : W32 := (s.imm i).setWidth 32

def viOp (word : W32) (d a : BitVec 7) (i : BitVec 8) (op : State → W32 → W32 → W32) (s : State) : Out :=
  laneOp (vecForm word [a] [d] 4) d (fun s L => op s (Vec.lane (s.vreg a) L) (s.vimm i)) s

def execVaddi (d a : BitVec 7) (i : BitVec 8) (s : State) : Out := viOp (assemble 0x70000000 [(d.toNat, 15), (a.toNat, 8), (i.toNat, 0)]) d a i (fun s a c => s.narrow (a.toInt + c.toInt)) s

def execVandi (d a : BitVec 7) (i : BitVec 8) (s : State) : Out := viOp (assemble 0x70400000 [(d.toNat, 15), (a.toNat, 8), (i.toNat, 0)]) d a i (fun _ => opAnd 32) s

def execVori (d a : BitVec 7) (i : BitVec 8) (s : State) : Out := viOp (assemble 0x70800000 [(d.toNat, 15), (a.toNat, 8), (i.toNat, 0)]) d a i (fun _ => opOr 32) s

def execVxori (d a : BitVec 7) (i : BitVec 8) (s : State) : Out := viOp (assemble 0x70C00000 [(d.toNat, 15), (a.toNat, 8), (i.toNat, 0)]) d a i (fun _ => opXor 32) s

def execVshli (d a : BitVec 7) (i : BitVec 8) (s : State) : Out := viOp (assemble 0x71000000 [(d.toNat, 15), (a.toNat, 8), (i.toNat, 0)]) d a i (fun _ => opShl 32) s

def execVshri (d a : BitVec 7) (i : BitVec 8) (s : State) : Out := viOp (assemble 0x71400000 [(d.toNat, 15), (a.toNat, 8), (i.toNat, 0)]) d a i (fun _ => opShr 32) s

def execVsari (d a : BitVec 7) (i : BitVec 8) (s : State) : Out := viOp (assemble 0x71800000 [(d.toNat, 15), (a.toNat, 8), (i.toNat, 0)]) d a i (fun _ => opSar 32) s

def execVmovi (d : BitVec 7) (i : BitVec 8) (s : State) : Out :=
  laneOp (vecForm (assemble 0x71C00000 [(d.toNat, 15), (i.toNat, 0)]) [] [d] 4) d (fun s _ => s.vimm i) s

/-! ## Scalar operands (R85) -/

/-- b of R85: the low or the high half of S[sb]. -/
def State.half (s : State) (r : BitVec 6) (m : BitVec 2) : W32 :=
  if m = 0 then (s.sreg r).setWidth 32 else BitVec.ofNat 32 ((s.sreg r).toNat / 2 ^ 32)

def modeOk (m : BitVec 2) : Bool := decide (m.toNat ≤ 1)

def vsOp (word : W32) (d a : BitVec 7) (r : BitVec 6) (m : BitVec 2) (op : State → W32 → W32 → W32) (s : State) : Out :=
  laneOp (vecScalarForm word [a] [d] [r] [] 4 (modeOk m)) d (fun s L => op s (Vec.lane (s.vreg a) L) (s.half r m)) s

def execVbcast (d : BitVec 7) (s1 : BitVec 6) (m : BitVec 2) (s : State) : Out :=
  laneOp (vecScalarForm (assemble 0x74000000 [(d.toNat, 15), (s1.toNat, 2), (m.toNat, 0)]) [] [d] [s1] [] 4 (modeOk m)) d (fun s _ => s.half s1 m) s

def execVadds (d a : BitVec 7) (s1 : BitVec 6) (m : BitVec 2) (s : State) : Out :=
  vsOp (assemble 0x74400000 [(d.toNat, 15), (a.toNat, 8), (s1.toNat, 2), (m.toNat, 0)]) d a s1 m (fun s a b => s.narrow (a.toInt + b.toInt)) s

def execVmuls (d a : BitVec 7) (s1 : BitVec 6) (m : BitVec 2) (s : State) : Out :=
  vsOp (assemble 0x74800000 [(d.toNat, 15), (a.toNat, 8), (s1.toNat, 2), (m.toNat, 0)]) d a s1 m (fun _ => opMul 32) s

def execVmulhns (d a : BitVec 7) (s1 : BitVec 6) (m : BitVec 2) (s : State) : Out :=
  vsOp (assemble 0x74C00000 [(d.toNat, 15), (a.toNat, 8), (s1.toNat, 2), (m.toNat, 0)]) d a s1 m (fun _ => opMulhn 32) s

def execVshls (d a : BitVec 7) (s1 : BitVec 6) (m : BitVec 2) (s : State) : Out :=
  vsOp (assemble 0x75000000 [(d.toNat, 15), (a.toNat, 8), (s1.toNat, 2), (m.toNat, 0)]) d a s1 m (fun _ => opShl 32) s

def execVshrs (d a : BitVec 7) (s1 : BitVec 6) (m : BitVec 2) (s : State) : Out :=
  vsOp (assemble 0x75400000 [(d.toNat, 15), (a.toNat, 8), (s1.toNat, 2), (m.toNat, 0)]) d a s1 m (fun _ => opShr 32) s

def execVlaneid (d : BitVec 7) (s1 : BitVec 6) (m : BitVec 2) (s : State) : Out :=
  laneOp (vecScalarForm (assemble 0x75800000 [(d.toNat, 15), (s1.toNat, 2), (m.toNat, 0)]) [] [d] [s1] [] 4 (modeOk m)) d (fun s L => BitVec.ofNat 32 L + s.half s1 m) s

/-! ## Lane movement (R86) -/

def execVxch (d a : BitVec 7) (i : BitVec 8) (s : State) : Out :=
  laneOp (vecForm (assemble 0x78000000 [(d.toNat, 15), (a.toNat, 8), (i.toNat, 0)]) [a] [d] 4 (decide (i.toNat ∈ [1, 2, 4, 8, 16])) 0 (decide (i ≠ 16))) d (fun s L =>
    Vec.lane (s.vreg a) (L ^^^ i.toNat)) s

def execVrot (d a : BitVec 7) (k : BitVec 5) (s : State) : Out :=
  laneOp (vecForm (assemble 0x78400000 [(d.toNat, 15), (a.toNat, 8), (k.toNat, 0)]) [a] [d] 4) d (fun s L => Vec.lane (s.vreg a) ((L + k.toNat) % s.me.lanes)) s

def execVperm (d a b : BitVec 7) (k : BitVec 1) (s : State) : Out :=
  laneOp (vecForm (assemble 0x78800000 [(d.toNat, 15), (a.toNat, 8), (b.toNat, 1), (k.toNat, 0)]) [a, b] [d] 4 (kOk k [a, b]) k) d (fun s L =>
    Vec.lane (s.vreg a) ((Vec.lane (s.vreg b) L).toNat % s.me.lanes)) s

def execVextl (d : BitVec 6) (a : BitVec 7) (l : BitVec 8) (s : State) : Out :=
  lanesToScalar (vecScalarForm (assemble 0x78C00000 [(d.toNat, 15), (a.toNat, 8), (l.toNat, 0)]) [a] [] [] [d] 4 (decide (l.toNat < 32)) (decide (l.toNat < 16))) d
    (fun _ => 1#32 <<< l.toNat) (fun s => (Vec.lane (s.vreg a) l.toNat).setWidth 64) s

/-- `vinsl` reads vd's old value as a source: only the one lane changes; the other lanes of a channel's entry are zero. -/
def execVinsl (d : BitVec 7) (l : BitVec 5) (s1 : BitVec 6) (m : BitVec 2) (s : State) : Out :=
  issue (vecScalarForm (assemble 0x79000000 [(d.toNat, 15), (l.toNat, 8), (s1.toNat, 2), (m.toNat, 0)]) (if isChan d then [] else [d]) [d] [s1] []
      4 (modeOk m) (decide (l.toNat < 16))) (fun s =>
    if isChan d then
      let lane := s.active &&& (1#32 <<< l.toNat)
      s.compare lane (.done (s.setV d lane (Vec.splat (s.half s1 m))))
    else if bit s.active l.toNat then
      .done (s.setV d 0xFFFFFFFF#32 (Vec.tab (fun L => if L = l.toNat then s.half s1 m else Vec.lane (s.vreg d) L)))
    else .done s) s

/-! ## Reductions (R87, R88) -/

/-- One level of the tree: neighbours combine, an absent one gives the other. -/
def pairUp {α : Type} (op : α → α → α) : List (Option α) → List (Option α)
  | x :: y :: r => (match x, y with
      | some a, some b => some (op a b)
      | some a, none => some a
      | none, y => y) :: pairUp op r
  | l => l

/-- The fixed tree over lanes base .. base + g - 1; inactive lanes are absent. -/
def reduceTree {α : Type} (op : α → α → α) : Nat → List (Option α) → Option α
  | 0, l => (l.head?).join
  | n + 1, l => reduceTree op n (pairUp op l)

/-- Reduce(op, g, base) of R87. -/
def State.reduce {α : Type} (s : State) (v : Vec) (f : W32 → α) (op : α → α → α) (g base : Nat) : Option α :=
  reduceTree op 5 ((List.range g).map (fun k =>
    if bit s.active (base + k) then some (f (Vec.lane v (base + k))) else none))

def redForm (word : W32) (a : BitVec 7) (d : BitVec 6) : Form := vecScalarForm word [a] [] [] [d] 8

/-- A reduction of all lanes to a scalar. -/
def redOp {α : Type} (word : W32) (d : BitVec 6) (a : BitVec 7) (f : W32 → α) (op : State → α → α → α) (out : α → W64)
    (s : State) : Out :=
  lanesToScalar (redForm word a d) d (fun s => s.active) (fun s =>
    ((s.reduce (s.vreg a) f (op s) s.me.lanes 0).map out).getD 0) s

def execVradd (d : BitVec 6) (a : BitVec 7) (s : State) : Out :=
  redOp (assemble 0x7C000000 [(d.toNat, 15), (a.toNat, 8)]) d a BitVec.toInt (fun _ x y => x + y) (BitVec.ofInt 64) s

def execVrmax (d : BitVec 6) (a : BitVec 7) (s : State) : Out :=
  redOp (assemble 0x7C400000 [(d.toNat, 15), (a.toNat, 8)]) d a id (fun _ => opMax 32) (fun x => x.signExtend 64) s

def execVrmin (d : BitVec 6) (a : BitVec 7) (s : State) : Out :=
  redOp (assemble 0x7C800000 [(d.toNat, 15), (a.toNat, 8)]) d a id (fun _ => opMin 32) (fun x => x.signExtend 64) s

def execVrmaxn (d : BitVec 6) (a : BitVec 7) (s : State) : Out :=
  redOp (assemble 0x7CC00000 [(d.toNat, 15), (a.toNat, 8)]) d a id (fun _ => opMaxn 32) (fun x => x.setWidth 64) s

/-- R79: a result that is a NaN is the canonical NaN, also where one value alone is present. -/
def canonNan (x : W32) : W32 := if f32 x = .nan then 0x7FC00000#32 else x

/-- Each node rounds in CTRL.RM, whatever a `hint.mod` says. -/
def execVrfadd (d : BitVec 6) (a : BitVec 7) (s : State) : Out :=
  redOp (assemble 0x7D000000 [(d.toNat, 15), (a.toNat, 8)]) d a id (fun s => fAdd (Rnd.ofCode s.me.rm.toNat)) (fun x => (canonNan x).setWidth 64) s

def execVrfmax (d : BitVec 6) (a : BitVec 7) (s : State) : Out :=
  redOp (assemble 0x7D400000 [(d.toNat, 15), (a.toNat, 8)]) d a id (fun _ => fMax) (fun x => (canonNan x).setWidth 64) s

def groupOk (g : BitVec 8) : Bool := decide (g.toNat ∈ [2, 4, 8, 16, 32])

def groupForm (word : W32) (d a : BitVec 7) (g : BitVec 8) : Form :=
  vecForm word [a] [d] 8 (groupOk g) 0 (decide (g ≠ 32))

/-- A group reduction: every active lane of a group gets the group's result. -/
def groupOp (word : W32) (d a : BitVec 7) (g : BitVec 8) (op : W32 → W32 → W32) (s : State) : Out :=
  laneOp (groupForm word d a g) d (fun s L =>
    (s.reduce (s.vreg a) id op g.toNat (L / g.toNat * g.toNat)).getD 0) s

def execVgadd (d a : BitVec 7) (g : BitVec 8) (s : State) : Out := groupOp (assemble 0x7E000000 [(d.toNat, 15), (a.toNat, 8), (g.toNat, 0)]) d a g (opAdd 32) s
def execVgmax (d a : BitVec 7) (g : BitVec 8) (s : State) : Out := groupOp (assemble 0x7E400000 [(d.toNat, 15), (a.toNat, 8), (g.toNat, 0)]) d a g (opMax 32) s
def execVgmaxn (d a : BitVec 7) (g : BitVec 8) (s : State) : Out := groupOp (assemble 0x7E800000 [(d.toNat, 15), (a.toNat, 8), (g.toNat, 0)]) d a g (opMaxn 32) s
def execVgor (d a : BitVec 7) (g : BitVec 8) (s : State) : Out := groupOp (assemble 0x7EC00000 [(d.toNat, 15), (a.toNat, 8), (g.toNat, 0)]) d a g (opOr 32) s

/-- The inclusive prefix sum of the active lanes of a group. -/
def execVscan (d a : BitVec 7) (g : BitVec 8) (s : State) : Out :=
  laneOp (groupForm (assemble 0x7F000000 [(d.toNat, 15), (a.toNat, 8), (g.toNat, 0)]) d a g) d (fun s L =>
    (List.range g.toNat).foldl (fun acc k =>
      let j := L / g.toNat * g.toNat + k
      if j ≤ L ∧ bit s.active j then acc + Vec.lane (s.vreg a) j else acc) 0) s

end Sys2Proof.Machine
end

