-- ==== Sys2Proof/Machine/Memory.lean ====
section
/-!
DEFINITION. Sys2Proof/Machine/Memory.lean: scalar and vector loads and stores (03 R62, R63; 05 R98 to R114), phase boundaries and
line operations (05 R119 to R125), hints (01 R24 to R28), and the memory events.

A load or an atomic holds its strand until the reply (log entry 5).
-/

namespace Sys2Proof.Machine

/-! ## An access: its units, their checks, their translations (05 R98, R99, R111, R112) -/

/-- The units of an instruction (a lane each, or a byte each for `vstbm`, four a lane) with their effective addresses, in
order; `whole` when a field names a channel (R112), `scalar` when TLANES holds all visible lanes (03 R63). -/
structure Access where
  units  : List (Nat × W64)
  size   : Nat
  per    : Nat := 1
  acc    : Acc
  whole  : Bool := false
  scalar : Bool := false
  deriving DecidableEq, Repr

/-- The first check: MISALIGNED (05 R99). -/
def Access.start (a : Access) : MemWait :=
  { acc := a.acc, ok := [],
    failed := (a.units.filter (fun u => decide (u.2.toNat % a.size ≠ 0))).map (fun u =>
      { lane := u.1, cause := .misaligned, ea := u.2 }),
    waiting := (a.units.filter (fun u => decide (u.2.toNat % a.size = 0))).map (fun u =>
      { lane := u.1, ea := u.2, stage2 := false, id := none }) }

/-- A unit that waits for no reply is translated; a miss raises its page request, or waits for room in the queue; a walk that a link holds is
tried again (19 R309). -/
def walkUnit (w : LaneWait) (p : MemWait × State) : MemWait × State :=
  let (m, s) := p
  if w.id.isSome then ({ m with waiting := m.waiting ++ [w] }, s)
  else match s.translate s.blk.core s.blk.vd s.me.priv m.acc w.ea with
    | (.ok e, s1) =>
      ({ m with ok := m.ok ++ [{ unit := w.lane, pa := e.addr w.ea.toNat, raw := e.raw, discard := e.discard, ea := w.ea, page := e.size }] }, s1)
    | (.held, s1) => ({ m with waiting := m.waiting ++ [w] }, s1.dueOnce acTicks (.pageRequest (.strand s.me.id)))
    | (.fail c, s1) => ({ m with failed := m.failed ++ [{ lane := w.lane, cause := c, ea := w.ea }] }, s1)
    | (.miss stage2 page acc, s1) =>
      let (w1, s2) := s1.awaitPage s.blk.vd w.lane w.ea stage2 page acc
      let s3 := if w1.id.isSome then s2.count s.blk.vd 0x0D (if s1.raises s.blk.vd stage2 page then 1 else 0) s.me.priv else s2.dueOnce acTicks (.pageRequest (.strand s.me.id))
      ({ m with waiting := m.waiting ++ [w1] }, s3)

/-- Every unit that waits for no reply is translated. -/
def walkUnits (m : MemWait) (s : State) : MemWait × State :=
  m.waiting.foldl (fun p w => walkUnit w p) ({ m with waiting := [] }, s)

/-- One try of the instruction's translations. -/
def State.resolve (a : Access) (s : State) : MemWait × State :=
  let (m, s1) := walkUnits (s.me.memWait.getD a.start) s
  (m, s1.mapMe (fun t => { t with memWait := some m }))

/-- 05 R112: the failed lane with the lowest number.  A lane of `vstbm` has up to four bytes, which the rule does not tell apart: its lowest
byte that fails gives ea and cause (log entry 45). -/
def lowestFault : List LaneFault → Option LaneFault
  | [] => none
  | f :: r => match lowestFault r with
    | some g => if g.lane < f.lane then some g else some f
    | none => some f

/-- 05 R112, 03 R63: the trap of an access: cause and address of the lowest-numbered failed lane; TLANES. -/
def Access.fault (a : Access) (failed : List LaneFault) (s : State) : Trap :=
  let f := (lowestFault failed).getD { lane := 0, cause := .none, ea := 0 }
  { cause := f.cause, tval := 0, taddr := f.ea,
    lanes := if a.scalar then s.me.visible else if a.whole then s.me.m0
      else maskOf (fun L => failed.any (fun g => decide (g.lane / a.per = L))) }

/-- 05 R113, 02 R52, R56: the strand halts with POISON: no lane completes, and TLANES holds every visible lane. -/
def Access.poisoned (a : Access) (lanes : List Nat) (s : State) : Result :=
  .ended (s.halt { cause := .poison, tval := 0, lanes := s.me.visible,
                   taddr := ((lowestFault (lanes.map (fun L => { lane := L, cause := .poison, ea := lookupD a.units L 0 }))).map (·.ea)).getD 0 })

/-- The end of an access: the trap, if a lane failed. -/
def Access.finish (a : Access) (failed : List LaneFault) (s : State) : Result :=
  if failed = [] then .done s else .trap (a.fault failed s) s

/-! ## Loads -/

/-- The value of the bytes at an address. -/
def bytesAt (byte : Nat → Byte) (pa n : Nat) : Nat := bytesNat ((List.range n).map (fun k => byte (pa + k)))

/-- 15 R272: a byte as DRAM stores it; past the payload of an encoded block it is undefined (15 R262, log entry 7). -/
def State.rawByte (s : State) (pa : Nat) : Byte :=
  match s.blockAt pa with
  | some (b, _, start) => match b.code? start with
    | some _ =>
      if 2 + bytesNat (Memory.read s.dram start 2) % 1024 ≤ pa - start then Config.anyByte (s.free * 2 ^ 52 + pa)
      else Memory.get s.dram pa
    | none => Memory.get s.dram pa
  | none => Memory.get s.dram pa

/-- The last byte of a `vstnt` of a strand at an address that the strand has seen and that still waits: it never reads an older one again
(05 R125). -/
def Core.ntByte (c : Core) (strand pa : Nat) : Option NtByte := (c.nt.filter (fun e => decide (e.strand = strand ∧ e.addr = pa) && e.seen)).getLast?

/-- 05 R101, R109: a byte as a load of the core reads it: dirty or valid in the L1, else from its home; a byte that a `vstnt` of the strand
has written, once the strand has seen it. -/
def State.loadByte (s : State) (c : Core) (strand pa : Nat) : Byte :=
  match c.ntByte strand pa with
  | some e => e.byte
  | none => (c.look pa).getD (s.homeByte pa)

/-- 05 R109, 14 R247: before a `drain` a load of the strand may see the byte of its `vstnt` or not (log entry 7), each byte by itself; once it
has, it sees that one or a later one (05 R125). -/
def State.seeNt (core strand : Nat) (pas : List Nat) (s : State) : State :=
  let mine (e : NtByte) : Bool := decide (e.strand = strand) && pas.contains e.addr && !e.seen
  if (s.coreOf core).nt.any mine then
    { s.mapCoreOf core (fun c => { c with nt := c.nt.zipIdx.map (fun e =>
        if mine e.1 then { e.1 with seen := Config.sawNonTemporal (s.free + e.2) } else e.1) }) with
      free := s.free + (s.coreOf core).nt.length }
  else s

/-- The addresses of the bytes of some units. -/
def unitBytes (size : Nat) (us : List UnitPa) : List Nat := us.flatMap (fun u => (List.range size).map (fun k => u.pa + k))

/-- 21 R344 events 0x07 and 0x08: a slice request served without DRAM, or from it. -/
def State.countSlice (vd priv line : Nat) (mask : BitVec 4) (s : State) : State :=
  s.count vd (if isDram (line * 256) ∧ mask &&& ~~~(s.sliceLine line).valid ≠ 0 then 0x08 else 0x07) 1 priv

/-- What `hint.mem` says of the word: use count, free flag, no-allocate (01 R28). -/
def State.memHint (s : State) : Nat × Bool × Bool :=
  match s.me.hints.mem with
  | some (u, f, n) => (u.toNat, f, n)
  | none => (0, false, false)

/-- R106, R112: the units that have data put it; in a word that names a channel only when none failed. -/
def Access.deliver (a : Access) (m : MemWait) (put : List (Nat × Nat) → State → State) (s : State) : Result :=
  a.finish m.failed (if m.got = [] ∨ (a.whole ∧ m.failed ≠ []) then s else put m.got s)

/-- R102, R103: the requests of some units leave, and take their miss entries; the units whose requests wait at the port stay.  Each further
request takes 1 ac (R104). -/
def Access.sendLoad (a : Access) (m : MemWait) (go stay : List UnitPa) (s : State) : Result :=
  let (use, free, noAlloc) := s.memHint
  let sectors := lackingSectors s.core a.size go
  let dt := s.homesTime s.blk.core sectors + ((requestLines go).length - 1)
  let s1 := (s.count s.blk.vd 0x06 sectors.length s.me.priv).mapMe (fun t =>
    { t with flight := some (.load go a.size use free noAlloc), memWait := some { m with ok := stay } })
  .stall (if m.waiting ≠ [] then 5 else 4) (s1.due (dt * acTicks) (.memoryReply s1.me.id))

/-- R111, 20 R336: a load goes on with the units that have translations, while others wait for theirs; a word that names a channel waits
for all (R112).  A line request that finds too few miss entries waits at the port, and those behind it (R103). -/
def Access.loadOn (a : Access) (put : List (Nat × Nat) → State → State) (m : MemWait) (s : State) : Result :=
  if a.whole ∧ m.waiting ≠ [] then .stall 5 s
  else if m.ok = [] ∨ (a.whole ∧ m.failed ≠ []) then (if m.waiting ≠ [] then .stall 5 s else a.deliver m put s)
  else
    let c := s.core
    let sectors := lackingSectors c a.size m.ok
    let bad := (m.ok.filter (fun u => !u.raw && c.corrupt.contains (u.pa / 64))).map UnitPa.unit
    if bad ≠ [] then a.poisoned bad s
    else if sectors = [] ∧ m.ok.all (fun u => !u.raw) then
      let s1 := ((s.seeNt s.blk.core s.me.id (unitBytes a.size m.ok)).l1Touch s.blk.core (m.ok.map (fun u => u.pa / 256))).mapMe (fun t => { t with spin := false })
      let m1 := { m with ok := [], got := m.got ++ m.ok.map (fun u => (u.unit, bytesAt (s1.loadByte s1.core s1.me.id) u.pa a.size)) }
      let s2 := s1.mapMe (fun t => { t with memWait := some m1 })
      if m.waiting ≠ [] then .stall 5 s2 else a.deliver m1 put s2
    else if s.missRoom s.blk.core sectors then a.sendLoad m m.ok [] s
    else
      let lines := goLines c a.size m.ok (s.missEntries s.blk.core) (requestLines m.ok)
      if lines = [] then .stall 4 s
      else a.sendLoad m (m.ok.filter (fun u => lines.contains (u.pa / 256))) (m.ok.filter (fun u => !lines.contains (u.pa / 256))) s

/-- What a reply brings: the units that have data, and those whose block failed to decode (R113). -/
def MemWait.take (a : Access) (vals : List (Nat × Nat)) (decode : List Nat) (m : MemWait) : MemWait :=
  { m with got := m.got ++ vals.filter (fun v => !decode.contains v.1),
           failed := m.failed ++ decode.map (fun L => { lane := L, cause := .decode, ea := lookupD a.units L 0 }) }

/-- The reply of a flight is taken in; further translations are tried. -/
def Access.arrive (a : Access) (vals : List (Nat × Nat)) (decode : List Nat) (s : State) : MemWait × State :=
  (s.mapMe (fun t => { t with flight := none, memWait := some ((t.memWait.getD { acc := a.acc, ok := [], failed := [], waiting := [] }).take a vals decode) })).resolve a

/-- 05 R106: a global load.  `put` writes what the units have read. -/
def globalLoad (a : Access) (put : List (Nat × Nat) → State → State) (s : State) : Result :=
  match s.me.flight with
  | some (.loaded vals decode poison) =>
    if poison ≠ [] then a.poisoned poison s
    else let (m, s1) := a.arrive vals decode s; a.loadOn put m s1
  | some _ => let (m, s1) := s.resolve a; .stall (if m.waiting ≠ [] then 5 else 4) s1
  | none => let (m, s1) := s.resolve a; a.loadOn put m s1

/-- What a load request carries to its home (13 R238): use count and flag on a DISCARD page, for the line. -/
def useOf (us : List UnitPa) (line use : Nat) : Nat :=
  if us.any (fun u => decide (u.pa / 256 = line) && u.discard) then use else 0

/-- 15 R272: before a raw read the slice writes back what is dirty of the block. -/
def State.rawReady (us : List UnitPa) (s : State) : State :=
  (us.filter (·.raw)).foldl (fun s u => if isDram u.pa then s.writeBack (u.pa / 256) else s) s

/-- What the replies of a load have brought so far. -/
structure Served where
  vals   : List (Nat × Nat)
  marks  : List Nat
  poison : List Nat
  deriving DecidableEq, Repr

/-- R103: a load in flight whose units share sectors with a request that is served has joined their entries: those units have their data
with it; a unit that meets poison is among the failed ones until its own reply. -/
def State.joinLoad (core : Nat) (sectors : List Nat) (s : State) (id : Nat) : State :=
  match s.strand? id with
  | none => s
  | some t => match t.flight with
    | some (.load us size use free noAlloc) =>
      let joins (u : UnitPa) : Bool := !u.raw && sectors.contains (u.pa / 64) && u.lacks (s.coreOf core) size
      let mine := us.filter joins
      if mine = [] ∨ ((s.block? t.block).map (·.core)) ≠ some core then s
      else
        let s1 := s.seeNt core id (unitBytes size mine)
        let bad := mine.filter (fun u => s1.homePoison u.pa)
        let marked := mine.filter (fun u => !s1.homePoison u.pa && s1.homeMark u.pa)
        let good := mine.filter (fun u => !s1.homePoison u.pa && !s1.homeMark u.pa)
        let fail (c : Cause) (u : UnitPa) : LaneFault := { lane := u.unit, cause := c, ea := u.ea }
        let vals := good.map (fun u => (u.unit, bytesAt (s1.loadByte (s1.coreOf core) id) u.pa size))
        s1.mapStrand id (fun t => { t with
          flight := some (.load (us.filter (fun u => !joins u)) size use free noAlloc),
          memWait := t.memWait.map (fun m => { m with got := m.got ++ vals, failed := m.failed ++ marked.map (fail .decode) ++ bad.map (fail .poison) }) })
    | _ => s

/-- R102, R103, R106: one line request is served: the units in its line have their data, those of joined loads too, then the L1 takes the
sectors. -/
def State.serveRequest (b : Block) (t : Strand) (us : List UnitPa) (size use : Nat) (free keep : Bool) (p : Served × State) (line : Nat) :
    Served × State :=
  let (r, s) := p
  let mine := us.filter (fun u => decide (u.pa / 256 = line))
  let mask := sectorMask (mine.foldl (fun l u => setInsert l (u.pa / 64)) []) line
  let s1 := (s.countSlice b.vd t.priv line mask).homeFetch line mask
  ({ vals := r.vals ++ mine.map (fun u => (u.unit, bytesAt (s1.loadByte (s1.coreOf b.core) t.id) u.pa size)),
     marks := r.marks ++ (mine.filter (fun u => s1.homeMark u.pa)).map UnitPa.unit,
     poison := r.poison ++ (mine.filter (fun u => s1.homePoison u.pa)).map UnitPa.unit },
   (((s1.allStrands.filter (fun u => u.id != t.id)).map (·.id)).foldl (State.joinLoad b.core ((mine.map (·.pa)).map (· / 64))) s1).l1Fill
     b.core line mask (useOf us line use) free keep)

/-- R101, R102: a line that a load names: what units hit in it is a use; what they lack is a request. -/
def State.serveLine (b : Block) (t : Strand) (held lacking : List UnitPa) (size use : Nat) (free keep : Bool) (p : Served × State) (line : Nat) :
    Served × State :=
  let p1 := if held.any (fun u => decide (u.pa / 256 = line)) then (p.1, p.2.l1Touch b.core [line]) else p
  if lacking.any (fun u => decide (u.pa / 256 = line)) then State.serveRequest b t lacking size use free keep p1 line else p1

/-- 05 R103, R106: the reply of a load: what the L1 holds is read, the requests are served at the homes in their order. -/
def State.serveLoad (t : Strand) (us : List UnitPa) (size use : Nat) (free noAlloc : Bool) (s : State) : State :=
  match s.block? t.block with
  | none => s
  | some b =>
    let c := s.coreOf b.core
    let plain := us.filter (fun u => !u.raw)
    let lacking := plain.filter (fun u => u.lacks c size)
    let s1 := (s.rawReady us).seeNt b.core t.id (unitBytes size plain)
    let c1 := s1.coreOf b.core
    let held := plain.filter (fun u => !u.lacks c size)
    let here := held.map (fun u => (u.unit, bytesAt (s1.loadByte c1 t.id) u.pa size))
    let raw := us.filter (fun u => u.raw)
    let s2 := if raw = [] then s1 else { s1 with free := s1.free + 1 }
    let start : Served := { vals := here ++ raw.map (fun u => (u.unit, bytesAt s1.rawByte u.pa size)), marks := [],
                            poison := (raw.filter (fun u => s1.poison.contains (u.pa / 64)) ++ held.filter (fun u => c.corrupt.contains (u.pa / 64))).map UnitPa.unit
                                ++ (((t.memWait.map (·.failed)).getD []).filter (fun f => decide (f.cause = .poison))).map (·.lane) }
    let (r, s3) := (requestLines plain).foldl (State.serveLine b t held lacking size use free (!noAlloc)) (start, s2)
    s3.mapStrand t.id (fun x => { x with flight := some (.loaded r.vals r.marks r.poison), spin := false })

/-- R106, 07 R133: a reply arrives; it restores a strand that `hint.spin` demoted. -/
def execMemoryReply (strand : Nat) (s : State) : Out :=
  stepOf (fun s =>
    match s.strand? strand with
    | none => s
    | some t => match t.flight with
      | some (.load us size use free noAlloc) =>
        let core := ((s.block? t.block).map (·.core)).getD s.blk.core
        s.overLinks core false ((us.filter (fun u => u.lacks (s.coreOf core) size)).map (·.pa)) (.memoryReply strand)
          (State.serveLoad t us size use free noAlloc)
      | some (.performed vals decode poison) =>
        s.mapStrand strand (fun x => { x with flight := some (.loaded vals decode poison), spin := false })
      | _ => s) s

/-! ## Local loads -/

/-- Which units of a local access point where, and which fail MISALIGNED or PERMISSION (05 R111). -/
def Access.split (a : Access) (s : State) : List (Nat × LocalRef) × List LaneFault :=
  (a.units.filterMap (fun u =>
      if u.2.toNat % a.size = 0 then (s.localRef u.2 a.size true).map (fun r => (u.1, r)) else none),
   a.units.filterMap (fun u =>
      if u.2.toNat % a.size ≠ 0 then some { lane := u.1, cause := .misaligned, ea := u.2 }
      else if (s.localRef u.2 a.size true).isNone then some { lane := u.1, cause := .permission, ea := u.2 } else none))

/-- The values of the units that read the own window, and the units that read a peer's. -/
def ownValues (b : Block) (size : Nat) (ok : List (Nat × LocalRef)) : List (Nat × Nat) :=
  ok.filterMap (fun u => match u.2 with
    | .own off => some (u.1, bytesNat (b.readWindow off size))
    | .peer _ _ => none)

def peerUnits (ok : List (Nat × LocalRef)) : List (Nat × Nat × Nat) :=
  ok.filterMap (fun u => match u.2 with
    | .own _ => none
    | .peer b off => some (u.1, b, off))

/-- The units that read words of the own window with an uncorrectable error. -/
def ownBad (b : Block) (size : Nat) (ok : List (Nat × LocalRef)) : List Nat :=
  ok.filterMap (fun u => match u.2 with
    | .own off => if b.windowBad off size then some u.1 else none
    | .peer _ _ => none)

/-- The offsets that units name in the own window. -/
def ownOffsets (ok : List (Nat × LocalRef)) : List Nat :=
  ok.filterMap (fun u => match u.2 with
    | .own off => some off
    | .peer _ _ => none)

/-- 05 R110: a local load; units at a peer are read there, by packets. -/
def localLoad (a : Access) (put : List (Nat × Nat) → State → State) (s : State) : Result :=
  match s.me.flight with
  | some (.loaded vals _ poison) =>
    if poison ≠ [] then a.poisoned poison s else a.finish ((s.me.memWait.map (·.failed)).getD []) (put vals s)
  | some _ => .stall 4 s
  | none =>
    let (ok, failed) := a.split s
    if ok = [] ∨ (a.whole ∧ failed ≠ []) then a.finish failed s
    else if ownBad s.blk a.size ok ≠ [] then a.poisoned (ownBad s.blk a.size ok) s
    else if peerUnits ok = [] then
      a.finish failed (put (ownValues s.blk a.size ok) ((s.bankHold (ownOffsets ok)).mapMe (fun t => { t with spin := false })))
    else
      .stall 4 ((s.mapMe (fun t =>
        { t with flight := some (.peerLoad (peerUnits ok) a.size (ownValues s.blk a.size ok)),
                 memWait := some { acc := .read, ok := [], failed := failed, waiting := [] } })).sendAccess)

/-! ## Stores -/

/-- The units of an access whose whole lane has passed every check. -/
def Access.ready (a : Access) (m : MemWait) : List UnitPa :=
  m.ok.filter (fun u => m.failed.all (fun f => decide (f.lane / a.per ≠ u.unit / a.per))
    && m.waiting.all (fun w => decide (w.lane / a.per ≠ u.unit / a.per)))

/-- The bytes that units store, by physical address: the highest-numbered lane's byte remains (05 R107), in whatever order the translations
came, and also where it was stored before a lower lane replays. -/
def storeCells (size : Nat) (data : Nat → List Byte) (before new : List UnitPa) : List Host.Cell :=
  (sortUnits new).foldl (fun m u =>
    ((cellsAt u.pa (data u.unit)).filter (fun c =>
      before.all (fun v => decide (¬ (u.unit < v.unit ∧ v.pa ≤ c.1 ∧ c.1 < v.pa + size))))).foldl
        (fun m c => Cells.put m c.1 c.2) m) []

/-- 13 R238: the use count and flag of the last `hint.mem` store to a line. -/
def Core.tagLine (line use : Nat) (free : Bool) (c : Core) : Core :=
  { c with useTags := c.useTags.filter (fun t => t.1 != line) ++ (if use = 0 then [] else [(line, use, free)]) }

/-- 05 R101, R109: cells become dirty in the L1; they supersede what a `vstnt` of the strand has yet to send.  A sector that they write whole
holds no error any more (13 R243). -/
def Core.storeCells (strand : Nat) (cells : List Host.Cell) (c : Core) : Core :=
  let c1 := cells.foldl (fun c e => c.store e.1 [e.2]) c
  { c1 with nt := c1.nt.filter (fun e => !(decide (e.strand = strand) && (Cells.find cells e.addr).isSome)),
            corrupt := c1.corrupt.filter (fun k => decide ((cells.filter (fun e => decide (e.1 / 64 = k))).length ≠ 64)) }

/-- 05 R101: the cells of one line are stored; a new line may replace another. -/
def State.storeLine (cells : List Host.Cell) (s : State) (line : Nat) : State :=
  ((s.l1Room s.core.id line).mapCore (Core.storeCells s.me.id (cells.filter (fun c => decide (c.1 / 256 = line))))).l1Touch s.core.id [line]

/-- Plain stores of translated units, line by line in the order of their lowest lanes (05 R102, R107). -/
def State.storeUnits (size : Nat) (data : Nat → List Byte) (before new : List UnitPa) (s : State) : State :=
  let cells := storeCells size data before new
  let lines := (requestLines new).filter (fun l => (linesOf cells).contains l)
  let s1 := lines.foldl (State.storeLine cells) s
  match s.me.hints.mem with
    | some (u, f, _) => s1.mapCore (fun c => lines.foldl (fun c l => c.tagLine l (useOf new l u.toNat) f) c)
    | none => s1

/-- 14 R249: the record cache takes the bytes that the core's strands store. -/
def Core.storeRecords (cells : List Host.Cell) (c : Core) : Core :=
  { c with records := c.records.map (fun r => (r.1, (List.range r.2.length).map (fun k => (Cells.find cells (r.1 + k)).getD (r.2[k]?.getD 0)))) }

/-- 05 R109: a non-temporal store: the dirty bytes of its sectors go home and the sectors leave the L1; the bytes wait in the
write-combining buffer; the record cache takes them. -/
def State.storeNt (size : Nat) (data : Nat → List Byte) (before new : List UnitPa) (s : State) : State :=
  let cells := storeCells size data before new
  let s1 := s.l1Expel s.blk.core (fun k => cells.any (fun c => decide (c.1 / 64 = k)))
  let s2 := s1.mapCore (fun c => Core.storeRecords cells
    { c with nt := c.nt ++ cells.map (fun e => { strand := s.me.id, addr := e.1, byte := e.2, seen := false }) })
  (linesOf cells).foldl (fun s l => s.dueOnce (80 * acTicks) (.homeWrite s.blk.core l)) s2

/-- 05 R107, R111, R112: a global store: the lanes that pass every check store while others wait for their pages. -/
def globalStore (a : Access) (perform : List UnitPa → List UnitPa → State → State) (s : State) : Result :=
  let before := ((s.me.memWait.map (·.stored))).getD []
  let (m, s1) := s.resolve a
  if a.whole then
    if m.waiting ≠ [] then .stall 5 s1
    else if m.failed ≠ [] then a.finish m.failed s1
    else .done (perform [] m.ok s1)
  else
    let ready := a.ready m
    let s2 := (perform before (ready.filter (fun u => !before.contains u)) s1).mapMe (fun t =>
      { t with memWait := some { m with stored := ready } })
    if m.waiting ≠ [] then .stall 5 s2 else a.finish m.failed s2

/-- 05 R107, R110: a local store. -/
def localStore (a : Access) (data : Nat → List Byte) (s : State) : Result :=
  let (ok, failed) := a.split s
  let good := ok.filter (fun u => failed.all (fun f => decide (f.lane / a.per ≠ u.1 / a.per)))
  if a.whole ∧ failed ≠ [] then a.finish failed s
  else a.finish failed (good.foldl (fun s u => s.storeLocal u.2 (data u.1)) (s.bankHold (ownOffsets good)))

/-! ## Scalar loads and stores (03 R62, R63) -/

/-- The size of `sld` fn z, and whether the value is sign-extended. -/
def sldSize (z : BitVec 3) : Nat := if z.toNat ≤ 1 then 1 else if z.toNat ≤ 3 then 2 else if z.toNat ≤ 5 then 4 else 8

def extendLoad (n size x : Nat) (signed : Bool) : BitVec n :=
  if signed then BitVec.ofInt n (signedOf (8 * size) x) else BitVec.ofNat n x

def scalarAccess (ea : W64) (size : Nat) (acc : Acc) : Access :=
  { units := [(0, ea)], size := size, acc := acc, scalar := true }

/-- What a load of one unit writes to sd. -/
def putScalar (d : BitVec 6) (size : Nat) (signed : Bool) (vals : List (Nat × Nat)) (s : State) : State :=
  match vals with
  | [] => s
  | v :: _ => s.setS d (extendLoad 64 size v.2 signed)

/-- The latency of a load that needs no reply: local 8 ac, an L1 hit 20 ac (05 R104). -/
def loadLatency (p : BitVec 1) : Nat := if p = 1 then 8 else 20

def execSld (p : BitVec 1) (z : BitVec 3) (d a : BitVec 6) (i : BitVec 10) (s : State) : Out :=
  issue { word := (assemble 0x30000000 [(p.toNat, 25), (z.toNat, 22), (d.toNat, 16), (a.toNat, 10), (i.toNat, 0)]), ok := decide (z.toNat ≤ 6), use := { sr := [a], sw := [d] }, lat := loadLatency p, fixed := false }
    (fun s =>
      let acc := scalarAccess (s.sreg a + s.imm i) (sldSize z) .read
      let put := putScalar d (sldSize z) (z.toNat % 2 == 0)
      if p = 1 then localLoad acc put s else globalLoad acc put s) s

def execSst (p : BitVec 1) (z : BitVec 2) (d a : BitVec 6) (i : BitVec 10) (s : State) : Out :=
  issue { word := (assemble 0x34000000 [(p.toNat, 25), (z.toNat, 22), (d.toNat, 16), (a.toNat, 10), (i.toNat, 0)]), use := { sr := [d, a] } } (fun s =>
    let size := 2 ^ z.toNat
    let acc := scalarAccess (s.sreg a + s.imm i) size .write
    let data := fun _ => natBytes size (s.sreg d).toNat
    if p = 1 then localStore acc data s else globalStore acc (State.storeUnits size data) s) s

/-! ## Vector loads and stores (05 R105 to R109) -/

/-- The element size of sz. -/
def elemSize (z : BitVec 3) : Nat := if z.toNat ≤ 1 then 1 else if z.toNat ≤ 3 then 2 else 4

/-- The addresses of the active lanes (05 R98). -/
def indexedUnits (b : BitVec 6) (o : BitVec 7) (s : State) : List (Nat × W64) :=
  (lanesOf s.active).map (fun L => (L, s.sreg b + (Vec.lane (s.vreg o) L).signExtend 64))

def unitUnits (b : BitVec 6) (size : Nat) (s : State) : List (Nat × W64) :=
  (lanesOf s.active).map (fun L => (L, s.sreg b + BitVec.ofNat 64 (L * size)))

def broadcastUnits (b : BitVec 6) (s : State) : List (Nat × W64) := (lanesOf s.active).map (fun L => (L, s.sreg b))

/-- 05 R106: the lanes that have data take it. -/
def putVector (d : BitVec 7) (z : BitVec 3) (vals : List (Nat × Nat)) (s : State) : State :=
  s.setV d (maskOf (fun L => vals.any (fun v => decide (v.1 = L))))
    (Vec.tab (fun L => extendLoad 32 (elemSize z) (lookupD vals L 0) (z.toNat % 2 == 0)))

/-- A vector load whose units are given; a value that goes to a channel leaves the lanes (02 R48). -/
def vectorLoad (p : BitVec 1) (d : BitVec 7) (z : BitVec 3) (whole : Bool) (units : List (Nat × W64)) (s : State) : Result :=
  let acc : Access := { units := units, size := elemSize z, acc := .read, whole := whole }
  let run := if p = 1 then localLoad acc (putVector d z) s else globalLoad acc (putVector d z) s
  if isChan d then s.compare s.active run else run

def loadForm (word : W32) (p : BitVec 1) (z : BitVec 3) (vr : List (BitVec 7)) (d : BitVec 7) (b : BitVec 6) : Form :=
  { vecScalarForm word vr [d] [b] [] (loadLatency p) (decide (z.toNat ≤ 4)) with fixed := false }

def execVldIndexed (p : BitVec 1) (d : BitVec 7) (s1 : BitVec 6) (o : BitVec 7) (z : BitVec 3) (s : State) : Out :=
  issue (loadForm (assemble 0x90000000 [(p.toNat, 25), (d.toNat, 16), (s1.toNat, 10), (o.toNat, 3), (z.toNat, 0)]) p z [o] d s1) (fun s =>
    vectorLoad p d z (isChan d || isChan o) (indexedUnits s1 o s) s) s

def execVldUnit (p : BitVec 1) (d : BitVec 7) (s1 : BitVec 6) (z : BitVec 3) (s : State) : Out :=
  issue (loadForm (assemble 0x90800000 [(p.toNat, 25), (d.toNat, 16), (s1.toNat, 10), (z.toNat, 0)]) p z [] d s1) (fun s => vectorLoad p d z (isChan d) (unitUnits s1 (elemSize z) s) s) s

def execVldBroadcast (p : BitVec 1) (d : BitVec 7) (s1 : BitVec 6) (z : BitVec 3) (s : State) : Out :=
  issue (loadForm (assemble 0x91000000 [(p.toNat, 25), (d.toNat, 16), (s1.toNat, 10), (z.toNat, 0)]) p z [] d s1) (fun s => vectorLoad p d z (isChan d) (broadcastUnits s1 s) s) s

/-- What lane L stores: the low bytes of its element. -/
def laneData (d : BitVec 7) (size : Nat) (s : State) (L : Nat) : List Byte := natBytes size (Vec.lane (s.vreg d) L).toNat

/-- A vector store whose units are given: address and data leave the lanes (02 R48, R49). -/
def vectorStore (p : BitVec 1) (d : BitVec 7) (z : BitVec 3) (whole : Bool) (units : List (Nat × W64)) (s : State) : Result :=
  let size := elemSize z
  let acc : Access := { units := units, size := size, acc := .write, whole := whole }
  let data := laneData d size s
  s.compare s.active (if p = 1 then localStore acc data s else globalStore acc (State.storeUnits size data) s)

def storeSizeOk (z : BitVec 3) : Bool := decide (z.toNat = 0 ∨ z.toNat = 2 ∨ z.toNat = 4)

def storeForm (word : W32) (vr : List (BitVec 7)) (b : BitVec 6) (ok : Bool) : Form := vecScalarForm word vr [] [b] [] 0 ok

def execVstIndexed (p : BitVec 1) (d : BitVec 7) (s1 : BitVec 6) (o : BitVec 7) (z : BitVec 3) (s : State) : Out :=
  issue (storeForm (assemble 0x94000000 [(p.toNat, 25), (d.toNat, 16), (s1.toNat, 10), (o.toNat, 3), (z.toNat, 0)]) [d, o] s1 (storeSizeOk z)) (fun s =>
    vectorStore p d z (isChan d || isChan o) (indexedUnits s1 o s) s) s

def execVstUnit (p : BitVec 1) (d : BitVec 7) (s1 : BitVec 6) (z : BitVec 3) (s : State) : Out :=
  issue (storeForm (assemble 0x94800000 [(p.toNat, 25), (d.toNat, 16), (s1.toNat, 10), (z.toNat, 0)]) [d] s1 (storeSizeOk z)) (fun s =>
    vectorStore p d z (isChan d) (unitUnits s1 (elemSize z) s) s) s

def execVstnt (d : BitVec 7) (s1 : BitVec 6) (z : BitVec 3) (s : State) : Out :=
  issue (storeForm (assemble 0x95000000 [(d.toNat, 16), (s1.toNat, 10), (z.toNat, 0)]) [d] s1 (storeSizeOk z)) (fun s =>
    let size := elemSize z
    let acc : Access := { units := unitUnits s1 size s, size := size, acc := .write, whole := isChan d }
    s.compare s.active (globalStore acc (State.storeNt size (laneData d size s)) s)) s

/-- 05 R108: the bytes that lanes enable, four a lane. -/
def maskedUnits (b : BitVec 6) (o : BitVec 7) (s : State) : List (Nat × W64) :=
  ((List.range (4 * s.me.lanes)).filter (fun k =>
    bit s.active (k / 4) && bit (Vec.lane (s.vreg o) (k / 4)) (k % 4))).map (fun k => (k, s.sreg b + BitVec.ofNat 64 k))

/-- Byte k of a vector. -/
def byteData (d : BitVec 7) (s : State) (k : Nat) : List Byte :=
  [BitVec.ofNat 8 ((Vec.lane (s.vreg d) (k / 4)).toNat / 2 ^ (8 * (k % 4)))]

def execVstbm (p : BitVec 1) (d : BitVec 7) (s1 : BitVec 6) (o : BitVec 7) (s : State) : Out :=
  issue (storeForm (assemble 0x95800004 [(p.toNat, 25), (d.toNat, 16), (s1.toNat, 10), (o.toNat, 3)]) [d, o] s1 true) (fun s =>
    let acc : Access := { units := maskedUnits s1 o s, size := 1, per := 4, acc := .write, whole := isChan d || isChan o }
    let data := byteData d s
    s.compare s.active (if p = 1 then localStore acc data s else globalStore acc (State.storeUnits 1 data) s)) s

/-! ## Phase boundaries (05 R119 to R122, 14 R249) -/

/-- Scopes (01 R18): 0 blk, 1 core, 2 clus, 3 die, 4 pkg, 5 fab. -/
def wideScope (c : BitVec 3) : Bool := decide (2 ≤ c.toNat)

def scopeOk (c : BitVec 3) : Bool := decide (c.toNat ≤ 5)

/-- R120, 14 R249: whether a release can complete: at cluster scope and wider every earlier packet to a peer is acknowledged, and no link holds
the bytes that go home (19 R309); at block and core scope every earlier store to a peer's window has been performed there. -/
def State.canPublish (c : BitVec 3) (s : State) : Bool :=
  if wideScope c then s.releaseReady && !s.heldBack s.blk.core (s.core.dirty.map (·.1)) else s.storesLanded

/-- R120: what a release does, once it can complete. -/
def State.publish (c : BitVec 3) (s : State) : State := if wideScope c then s.l1Publish s.blk.core else s

/-- R121, 07 R378: what an acquire does; at every scope it empties the strand's fetch buffer. -/
def State.refresh (c : BitVec 3) (s : State) : State :=
  (if wideScope c then s.l1Refresh s.blk.core else s).mapMe (fun t => { t with fetch := [] })

def phaseForm (word : W32) (c : BitVec 3) : Form := { word := word, ok := scopeOk c }

def execPub (s1 : BitVec 3) (s : State) : Out :=
  issue (phaseForm (assemble 0xA4000000 [(s1.toNat, 17)]) s1) (fun s => if s.canPublish s1 then .done (s.publish s1) else .stall 4 s) s

def execAcq (s1 : BitVec 3) (s : State) : Out := issue (phaseForm (assemble 0xA4100000 [(s1.toNat, 17)]) s1) (fun s => .done (s.refresh s1)) s

def execPubacq (s1 : BitVec 3) (s : State) : Out :=
  issue (phaseForm (assemble 0xA4200000 [(s1.toNat, 17)]) s1) (fun s =>
    if s.canPublish s1 then .done ((s.publish s1).refresh s1) else .stall 4 s) s

/-- R122: every earlier `vstnt` of the strand has been performed. -/
def State.drained (s : State) : Bool := s.core.nt.all (fun e => decide (e.strand ≠ s.me.id))

def execDrain (s1 : BitVec 3) (s : State) : Out :=
  issue (phaseForm (assemble 0xA4300000 [(s1.toNat, 17)]) s1) (fun s => if s.drained then .done s else .stall 4 s) s

/-! ## Line operations (05 R123, R124) -/

/-- Scopes at which a line operation reaches the slice. -/
def dieScope (c : BitVec 3) : Bool := decide (3 ≤ c.toNat)

/-- A line operation translates its address as a load would, then acts on the line, once no link holds what goes home (19 R309). -/
def lineOp (a : BitVec 6) (home : Bool) (act : Nat → State → State) (s : State) : Result :=
  let acc := scalarAccess (s.sreg a) 1 .read
  let (m, s1) := s.resolve acc
  if m.waiting ≠ [] then .stall 5 s1
  else match m.ok with
    | [] => acc.finish m.failed s1
    | u :: _ => if home ∧ s1.heldBack s1.blk.core [u.pa] then .stall 4 s1 else .done (act (u.pa / 256) s1)

/-- R123: the dirty bytes of the line go home; at die scope and wider the slice writes the line to DRAM. -/
def State.cleanLineOf (c : BitVec 3) (line : Nat) (s : State) : State :=
  let s1 := s.l1WriteBack s.blk.core (fun a => decide (a / 256 = line))
  if dieScope c ∧ isDram (line * 256) then s1.writeBack line else s1

/-- R124: clean copies of the line are dropped. -/
def State.invalLineOf (c : BitVec 3) (line : Nat) (s : State) : State :=
  let s1 := s.mapCore (fun k => k.dropSectors (fun sec =>
    decide (sec / 4 = line) && k.dirty.all (fun e => decide (e.1 / 64 ≠ sec))))
  if dieScope c ∧ isDram (line * 256) ∧ (s1.sliceLine line).dirty = 0 then s1.dropLine line else s1

def execClean (s1 : BitVec 3) (a : BitVec 6) (s : State) : Out :=
  issue { word := (assemble 0xA4400000 [(s1.toNat, 17), (a.toNat, 11)]), ok := scopeOk s1, use := { sr := [a] } } (lineOp a true (fun l s => s.cleanLineOf s1 l)) s

def execInval (s1 : BitVec 3) (a : BitVec 6) (s : State) : Out :=
  issue { word := (assemble 0xA4500000 [(s1.toNat, 17), (a.toNat, 11)]), ok := scopeOk s1, use := { sr := [a] } } (lineOp a (dieScope s1) (fun l s => s.invalLineOf s1 l)) s

/-! ## Hints (01 R24 to R28) -/

def hintForm (word : W32) (rs : List (BitVec 6)) (ok : Bool) : Form := { word := word, ok := ok, hint := true, use := { sr := rs } }

/-- R25: seven stall counts; they replace what is left of the coverage. -/
def execHintStall (g f e d c b a : BitVec 3) (s : State) : Out :=
  issue (hintForm (assemble 0xFC000000 [(g.toNat, 18), (f.toNat, 15), (e.toNat, 12), (d.toNat, 9), (c.toNat, 6), (b.toNat, 3), (a.toNat, 0)]) [] true) (fun s =>
    .done (s.mapMe (fun t => { t with stall := [a.toNat, b.toNat, c.toNat, d.toNat, e.toNat, f.toNat, g.toNat] }))) s

/-- R24: a modifying hint waits for its target; the first of a group is where TPC will point. -/
def State.modify (f : Hints → Hints) (s : State) : State :=
  s.mapMe (fun t => { t with hints := f { t.hints with first := some (t.hints.first.getD t.pc) } })

def execHintXimm (x : BitVec 22) (s : State) : Out :=
  issue (hintForm (assemble 0xFC400000 [(x.toNat, 0)]) [] true) (fun s => .done (s.modify (fun h => { h with ximm := some x }))) s

def execHintMem (n f : BitVec 1) (u : BitVec 6) (s : State) : Out :=
  issue (hintForm (assemble 0xFC800000 [(n.toNat, 7), (f.toNat, 6), (u.toNat, 0)]) [] true) (fun s =>
    .done (s.modify (fun h => { h with mem := some (u, decide (f = 1), decide (n = 1)) }))) s

/-- R28: rnd 4 to 6 trap ILLEGAL at the hint. -/
def execHintMod (s1 : BitVec 1) (r : BitVec 3) (s : State) : Out :=
  issue (hintForm (assemble 0xFCC00000 [(s1.toNat, 3), (r.toNat, 0)]) [] (decide (r.toNat ≤ 3 ∨ r.toNat = 7))) (fun s =>
    .done (s.modify (fun h => { h with mod := some (r, decide (s1 = 1)) }))) s

def execHintSpin (s : State) : Out :=
  issue (hintForm (assemble 0xFD000000 []) [] true) (fun s => .done (s.mapMe (fun t => { t with spin := true }))) s

/-- R28: a prefetch that fails to translate, or lacks permission, has no effect; nor has one that a link holds (log entry 56). -/
def State.prefetch (ea : W64) (s : State) : State :=
  match s.translate s.blk.core s.blk.vd s.me.priv .read ea with
  | (.ok e, s1) =>
    if e.raw then s1
    else
      let line := e.addr ea.toNat / 256
      let sectors := lackingSectors s1.core 1 ((List.range 256).map (fun k =>
        { unit := k, pa := line * 256 + k, raw := false, discard := false }))
      if sectors = [] ∨ s1.heldBack s1.blk.core [line * 256] then s1
      else (s1.crossLinks s1.blk.core false (sectors.map (· * 64))).l1Fill s1.blk.core line (sectorMask sectors line) 0 false true
  | (_, s1) => s1

def execHintPref (a : BitVec 6) (s : State) : Out :=
  issue (hintForm (assemble 0xFD400000 [(a.toNat, 16)]) [a] true) (fun s => .done (s.prefetch (s.sreg a))) s

/-! ## The events of the memory path -/

/-- R321: a miss that found its queue full enters it; the copies' are in Copy.lean's walk. -/
def State.walkFor (strand : Nat) (s : State) : State :=
  let s1 := s.focus strand
  if s1.me.id ≠ strand then s
  else match s1.me.memWait with
    | some m =>
      let (m1, s2) := walkUnits m s1
      s2.mapMe (fun t => { t with memWait := some m1 })
    | none => s

/-- 05 R109, R122, R101: the bytes of a line that wait in the write-combining buffer are performed at their home, which a copy
in the L1 does not outlive; where there are none, the line's dirty bytes go home early. -/
def State.performHomeWrite (core line : Nat) (s : State) : State :=
  let c := s.coreOf core
  let mine (e : NtByte) : Bool := decide (e.addr / 256 = line)
  let cells := (c.nt.filter mine).foldl (fun m e => Cells.put m e.addr e.byte) []
  if cells = [] then s.l1WriteBack core (fun a => decide (a / 256 = line))
  else
    let s1 := ((s.crossLinks core true (cells.map (·.1))).homePut line cells 0 false).mapCoreOf core (fun c =>
      ({ c with nt := c.nt.filter (fun e => !mine e) }).dropSectors (fun k => cells.any (fun e => decide (e.1 / 64 = k))))
    ((c.nt.filter mine).foldl (fun l e => setInsert l e.strand) []).foldl (fun s id =>
      match s.strand? id with
      | some t => s.checkBlock t.block
      | none => s) s1

def execHomeWrite (core line : Nat) (s : State) : Out :=
  stepOf (fun s => if s.heldBack core [line * 256] then s.dueOnce acTicks (.homeWrite core line) else s.performHomeWrite core line) s

/-- 13 R235, R238: a read request for the line that holds an address is served at its home. -/
def State.performHomeRead (pa use : Nat) (free : Bool) (s : State) : State :=
  let line := pa / 256
  let s1 := s.homeFetch line (1#4 <<< (pa / 64 % 4))
  if isDram pa then s1.countRead line use free else s1

def execHomeRead (pa use : Nat) (free : Bool) (s : State) : Out := stepOf (fun s => s.performHomeRead pa use free) s

/-- 13 R235: the sectors of a line that the loads and the atomics in flight ask for. -/
def State.wantedSectors (s : State) (line : Nat) : BitVec 4 :=
  sectorMask (s.allStrands.foldl (fun l t => match t.flight with
    | some (.load us _ _ _ _) => us.foldl (fun l u => setInsert l (u.pa / 64)) l
    | some (.atomic _ _ ls) => ls.foldl (fun l u => setInsert l (u.pa / 64)) l
    | _ => l) []) line

/-- 15 R268, 13 R235: the sectors of a line that requests need arrive from DRAM. -/
def execDramReadComplete (line : Nat) (s : State) : Out :=
  stepOf (fun s => if isDram (line * 256) then s.fetchLine line (s.wantedSectors line) else s) s

/-- 15 R269, 13 R235: a capacity eviction: the slice writes back what is dirty of the line, or of its block, and the line leaves. -/
def execWriteBackSequence (line : Nat) (s : State) : Out :=
  stepOf (fun s => if isDram (line * 256) then s.evictLine line else s) s

/-- 05 R120: a peer acknowledges a packet of the strand. -/
def execStoreAcknowledge (strand : Nat) (s : State) : Out :=
  stepOf (fun s => s.mapStrand strand (fun t => { t with peerStores := t.peerStores - 1 })) s

end Sys2Proof.Machine
end

