-- ==== Sys2Proof/Machine/Atomic.lean ====
section
/-!
DEFINITION. Sys2Proof/Machine/Atomic.lean: vector and scalar atomics (05 R100, R115 to R118) and peer accesses (11 R202, R203).

The strand waits for the reply (log entry 5); an atomic is performed whole in one step at its perform place.
-/

namespace Sys2Proof.Machine

/-! ## The operations of R115, on n bits -/

inductive AtomOp where
  | add | min | max | minn | maxn | xchg | cas | fadd | and | or | xor | incw | decw
  deriving DecidableEq, Repr

def AtomOp.code : AtomOp → Nat
  | .add => 0 | .min => 1 | .max => 2 | .minn => 3 | .maxn => 4 | .xchg => 5 | .cas => 6 | .fadd => 7 | .and => 8 | .or => 9
  | .xor => 10 | .incw => 11 | .decw => 12

def AtomOp.ofCode (n : Nat) : AtomOp :=
  match n with
  | 0 => .add | 1 => .min | 2 => .max | 3 => .minn | 4 => .maxn | 5 => .xchg | 6 => .cas | 7 => .fadd | 8 => .and | 9 => .or
  | 10 => .xor | 11 => .incw | _ => .decw

/-- The new value: `old` in memory, `v` the operand, `w` the new value of a compare-and-swap. -/
def AtomOp.apply {n : Nat} (op : AtomOp) (old v w : BitVec n) : BitVec n :=
  match op with
  | .add => old + v
  | .min => if v.toInt < old.toInt then v else old
  | .max => if old.toInt < v.toInt then v else old
  | .minn => if v.toNat < old.toNat then v else old
  | .maxn => if old.toNat < v.toNat then v else old
  | .xchg => v
  | .cas => if old = v then w else old
  | .fadd => (fAdd .rne (old.setWidth 32) (v.setWidth 32)).setWidth n
  | .and => old &&& v
  | .or => old ||| v
  | .xor => old ^^^ v
  | .incw => if v.toNat ≤ old.toNat then 0 else old + 1
  | .decw => if old = 0 ∨ v.toNat < old.toNat then v else old - 1

/-- The bytes that a lane's operation leaves in place of `old`. -/
def AtomLane.newBytes (fn size old : Nat) (l : AtomLane) : List Byte :=
  let op := AtomOp.ofCode fn
  if size = 4 then natBytes 4 (op.apply (BitVec.ofNat 32 old) (l.v.setWidth 32) (l.w.setWidth 32)).toNat
  else natBytes 8 (op.apply (BitVec.ofNat 64 old) l.v l.w).toNat

/-! ## Performing -/

/-- One lane in a window: the old value, the new bytes stored. -/
def State.performInWindow (fn size block : Nat) (l : AtomLane) (s : State) : Nat × State :=
  match s.block? block with
  | none => (0, s)
  | some b =>
    let old := bytesNat (b.readWindow l.pa size)
    (old, s.mapBlock block (Block.writeWindow l.pa (l.newBytes fn size old)))

/-- Lanes in windows, in order; the old values. -/
def State.performAll (fn size : Nat) (lanes : List (AtomLane × Nat)) (s : State) : List (Nat × Nat) × State :=
  lanes.foldl (fun p l =>
    let (old, s1) := p.2.performInWindow fn size l.2 l.1
    (p.1 ++ [(l.1.lane, old)], s1)) ([], s)

/-- How the lanes of a global atomic end: old values, lanes that met a DECODE mark, lanes that met poison. -/
structure AtomEnd where
  vals   : List (Nat × Nat) := []
  decode : List Nat := []
  poison : List Nat := []
  deriving DecidableEq, Repr

/-- 05 R117, 13 R235, R243: one lane at its home; a marked or poisoned sector is not touched. -/
def State.performAtHome (fn size : Nat) (l : AtomLane) (p : AtomEnd × State) : AtomEnd × State :=
  let (e, s) := p
  let s1 := s.homeFetch (l.pa / 256) (1#4 <<< (l.pa / 64 % 4))
  if s1.homePoison l.pa then ({ e with poison := e.poison ++ [l.lane] }, s1)
  else if s1.homeMark l.pa then ({ e with decode := e.decode ++ [l.lane] }, s1)
  else
    let old := bytesAt s1.homeByte l.pa size
    ({ e with vals := e.vals ++ [(l.lane, old)] }, s1.homePut (l.pa / 256) (cellsAt l.pa (l.newBytes fn size old)) 0 false)

/-- 13 R243, 02 R56: the lanes of an atomic whose sectors are poisoned at their homes. -/
def poisonedLanes (lanes : List AtomLane) (s : State) : List Nat × State :=
  lanes.foldl (fun p l =>
    let s1 := p.2.homeFetch (l.pa / 256) (1#4 <<< (l.pa / 64 % 4))
    (if s1.homePoison l.pa then p.1 ++ [l.lane] else p.1, s1)) ([], s)

/-- R117: what the core's L1 holds of the target sectors goes home, and leaves. -/
def State.expelTargets (core : Nat) (lanes : List AtomLane) (s : State) : State :=
  s.l1Expel core (fun k => lanes.any (fun l => decide (l.pa / 64 = k)))

/-- 13 R241: the time of a load from the homes of some lanes; the request takes half of it, and the reply the rest and the slice's 4 cc (log
entry 2). -/
def State.lanesTime (s : State) (core : Nat) (lanes : List AtomLane) : Nat := s.homesTime core (lanes.map (fun l => l.pa / 64))

/-- Every lane in ascending order, in one step; where one lane's sector is poisoned no lane is performed. -/
def State.performAtomic (strand core fn size : Nat) (lanes : List AtomLane) (s : State) : State :=
  let (bad, s1) := poisonedLanes lanes (s.expelTargets core lanes)
  let (e, s2) := if bad = [] then lanes.foldl (fun p l => State.performAtHome fn size l p) (({} : AtomEnd), s1)
    else ({ poison := bad }, s1)
  (s2.mapStrand strand (fun t => { t with flight := some (.performed e.vals e.decode e.poison) })).due
    (((s.lanesTime core lanes + 1) / 2 + 2) * acTicks) (.atomicReply strand)

/-- ATOMIC_PERFORM. -/
def execAtomicPerform (strand : Nat) (s : State) : Out :=
  stepOf (fun s =>
    match s.strand? strand with
    | some t => match t.flight with
      | some (.atomic fn size lanes) =>
        let core := ((s.block? t.block).map (·.core)).getD s.blk.core
        s.overLinks core true (lanes.map (·.pa)) (.atomicPerform strand) (State.performAtomic strand core fn size lanes)
      | _ => s
    | none => s) s

/-- ATOMIC_REPLY: the old values arrive; the reply restores a strand that `hint.spin` demoted (07 R133). -/
def execAtomicReply (strand : Nat) (s : State) : Out :=
  stepOf (fun s =>
    match (s.strand? strand).bind (·.flight) with
    | some (.performed vals decode poison) =>
      s.mapStrand strand (fun t => { t with flight := some (.loaded vals decode poison), spin := false })
    | _ => s) s

/-! ## Peer accesses (11 R202, R203) -/

/-- A load or an atomic of a strand at a peer's window: the values travel back with a reply. -/
def State.servePeer (t : Strand) (s : State) : State :=
  match t.flight with
  | some (.peerLoad lanes size got) =>
    let vals := lanes.map (fun l => (l.1, match s.block? l.2.1 with
      | some b => bytesNat (b.readWindow l.2.2 size)
      | none => 0))
    let bad := (lanes.filter (fun l => ((s.block? l.2.1).map (fun b => b.windowBad l.2.2 size)).getD false)).map (·.1)
    (s.mapStrand t.id (fun t => { t with flight := some (.performed (got ++ vals) [] bad) })).due (20 * acTicks) (.memoryReply t.id)
  | some (.peerAtomic fn size lanes got) =>
    let bad := (lanes.filter (fun l => ((s.block? l.2).map (fun b => b.windowBad l.1.pa size)).getD false)).map (fun l => l.1.lane)
    let (vals, s1) := if bad = [] then s.performAll fn size lanes else ([], s)
    (s1.mapStrand t.id (fun t => { t with flight := some (.performed (got ++ vals) [] bad) })).due (20 * acTicks) (.atomicReply t.id)
  | _ => s

/-- PEER_LOCAL_ACCESS: the packet at the head of the core's packets is performed: a store, or the load or atomic of a strand (R203: in the
order sent). -/
def State.servePackets (core : Nat) (s : State) : State :=
  match (s.coreOf core).packets with
  | p :: rest =>
    let s1 := s.mapCoreOf core (fun c => { c with packets := rest })
    if p.act = 3 then match s1.strand? p.strand with
      | some t => s1.servePeer t
      | none => s1
    else (s1.performPacket p).due (20 * acTicks) (.storeAcknowledge p.strand)
  | [] => s

def execPeerLocalAccess (core : Nat) (s : State) : Out := stepOf (fun s => s.servePackets core) s

/-! ## The instructions -/

/-- ord (01 R18): 0 rlx, 1 acq, 2 rel, 3 ar. -/
def acquires (r : BitVec 2) : Bool := bit r 0
def releases (r : BitVec 2) : Bool := bit r 1

/-- An atomic: its operation, size, scope and order, its units, the operand and new value of each. -/
structure Atomic where
  op     : AtomOp
  size   : Nat
  scope  : BitVec 3
  ord    : BitVec 2
  units  : List (Nat × W64)
  v      : Nat → W64
  w      : Nat → W64
  scalar : Bool

def Atomic.access (a : Atomic) : Access :=
  { units := a.units, size := a.size, acc := .atomic, scalar := a.scalar }

def Atomic.lane (a : Atomic) (unit pa : Nat) : AtomLane := { lane := unit, pa := pa, v := a.v unit, w := a.w unit }

/-- After the atomic: the results are written, an acquire refreshes the view (R118). -/
def Atomic.finish (a : Atomic) (put : List (Nat × Nat) → State → State) (failed : List LaneFault) (vals : List (Nat × Nat))
    (s : State) : Result :=
  let s1 := put vals s
  a.access.finish failed (if acquires a.ord ∧ failed = [] then s1.refresh a.scope else s1)


/-- R100: the units of a local atomic; at block and core scope a peer is PERMISSION. -/
def Atomic.split (a : Atomic) (s : State) : List (Nat × LocalRef) × List LaneFault :=
  let peers := decide (a.scope.toNat = 2)
  (a.units.filterMap (fun u =>
      if u.2.toNat % a.size = 0 then (s.localRef u.2 a.size peers).map (fun r => (u.1, r)) else none),
   a.units.filterMap (fun u =>
      if u.2.toNat % a.size ≠ 0 then some { lane := u.1, cause := .misaligned, ea := u.2 }
      else if (s.localRef u.2 a.size peers).isNone then some { lane := u.1, cause := .permission, ea := u.2 } else none))

def Atomic.ownLanes (a : Atomic) (s : State) (ok : List (Nat × LocalRef)) : List (AtomLane × Nat) :=
  ok.filterMap (fun u => match u.2 with
    | .own off => some (a.lane u.1 off, s.blk.id)
    | .peer _ _ => none)

def Atomic.peerLanes (a : Atomic) (ok : List (Nat × LocalRef)) : List (AtomLane × Nat) :=
  ok.filterMap (fun u => match u.2 with
    | .own _ => none
    | .peer b off => some (a.lane u.1 off, b))

/-- A release before the atomic (R118), once the atomic is about to be performed. -/
def Atomic.released (a : Atomic) (s : State) : State := if releases a.ord then s.publish a.scope else s

/-- The lanes of a local atomic, each with the block in whose window it is performed. -/
def Atomic.lanes (a : Atomic) (s : State) (ok : List (Nat × LocalRef)) : List (AtomLane × Nat) :=
  ok.map (fun u => match u.2 with
    | .own off => (a.lane u.1 off, s.blk.id)
    | .peer b off => (a.lane u.1 off, b))

/-- An atomic on local memory (scopes blk, core, clus).  With a lane at a peer all lanes are performed together there, so that none is
where one consumes an error (02 R52). -/
def Atomic.local_ (a : Atomic) (put : List (Nat × Nat) → State → State) (s : State) : Result :=
  let (ok, failed) := a.split s
  if ok = [] then a.access.finish failed s
  else if ownBad s.blk a.size ok ≠ [] then a.access.poisoned (ownBad s.blk a.size ok) s
  else
    if a.peerLanes ok = [] then
      let (got, s1) := (a.released s).performAll a.op.code a.size (a.ownLanes s ok)
      a.finish put failed got ((s1.bankHold (ownOffsets ok)).mapMe (fun t => { t with spin := false }))
    else
      .stall 4 ((((a.released s).bankHold (ownOffsets ok)).mapMe (fun t =>
        { t with flight := some (.peerAtomic a.op.code a.size (a.lanes s ok) []),
                 memWait := some { acc := .atomic, ok := [], failed := failed, waiting := [] } })).sendAccess)

/-- An atomic at the homes of its addresses (scopes die, pkg, fab): the lanes that have translations are performed while others wait for
theirs (R111, 20 R336), though one of these may halt the strand with POISON (02 R52, log entry 72); the L1's dirty bytes of the target sectors go home first, and the sectors leave the L1 (R117). -/
def Atomic.goOn (a : Atomic) (put : List (Nat × Nat) → State → State) (m : MemWait) (s : State) : Result :=
  if m.ok = [] then
    (if m.waiting ≠ [] then .stall 5 s
     else if m.got = [] then a.access.finish m.failed s else a.finish put m.failed m.got s)
  else
    let lanes := (sortUnits m.ok).map (fun u => a.lane u.unit u.pa)
    let s1 := (a.released s).expelTargets s.blk.core lanes
    .stall (if m.waiting ≠ [] then 5 else 4) ((s1.mapMe (fun t =>
      { t with flight := some (.atomic a.op.code a.size lanes), memWait := some { m with ok := [] } })).due (s.lanesTime s.blk.core lanes / 2 * acTicks) (.atomicPerform s.me.id))

/-- The reply of an atomic has come: a lane that met poison halts the strand, one that met a mark traps DECODE (R113, R117). -/
def Atomic.reply (a : Atomic) (put : List (Nat × Nat) → State → State) (vals : List (Nat × Nat)) (decode poison : List Nat)
    (s : State) : Result :=
  if poison ≠ [] then a.access.poisoned poison s
  else if dieScope a.scope then let (m, s1) := a.access.arrive vals decode s; a.goOn put m s1
  else a.finish put ((s.me.memWait.map (·.failed)).getD []) vals s

/-- R115, R116: an atomic.  A release that cannot complete yet is awaited (R120). -/
def Atomic.run (a : Atomic) (put : List (Nat × Nat) → State → State) (s : State) : Result :=
  match s.me.flight with
  | some (.loaded vals decode poison) => a.reply put vals decode poison s
  | some _ => let (m, s1) := s.resolve a.access; if dieScope a.scope ∧ m.waiting ≠ [] then .stall 5 s1 else .stall 4 s
  | none =>
    if releases a.ord ∧ ¬ s.canPublish a.scope then .stall 4 s
    else if dieScope a.scope then let (m, s1) := s.resolve a.access; a.goOn put m s1
    else a.local_ put s

/-! ### Vector atomics -/

/-- The result of a vector atomic: the lanes that were performed take the old value. -/
def putOld (d : BitVec 6) (vals : List (Nat × Nat)) (s : State) : State :=
  s.setV (plainV d) (maskOf (fun L => vals.any (fun v => decide (v.1 = L)))) (Vec.tab (fun L => BitVec.ofNat 32 (lookupD vals L 0)))

/-- The register after vd, which only `cas` names. -/
def nextV (d : BitVec 6) : BitVec 7 := BitVec.ofNat 7 ((d.toNat + 1) % 64)

def vatmForm (word : W32) (d b o : BitVec 6) (c : BitVec 3) (cas : Bool) : Form :=
  { vecScalarForm word ([plainV d, plainV o] ++ (if cas then [nextV d] else [])) [plainV d] [b] [] 8 (scopeOk c) with
    fixed := false, units := !cas || decide (d.toNat < 63) }

/-- R115: the lanes' operands are compared in protected launch mode (02 R48). -/
def vatm (word : W32) (op : AtomOp) (d b o : BitVec 6) (c : BitVec 3) (r : BitVec 2) (s : State) : Out :=
  issue (vatmForm word d b o c (op == .cas)) (fun s =>
    s.compare s.active
      (({ op := op, size := 4, scope := c, ord := r, units := indexedUnits b (plainV o) s,
          v := fun L => (Vec.lane (s.vreg (plainV d)) L).setWidth 64,
          w := fun L => (Vec.lane (s.vreg (nextV d)) L).setWidth 64, scalar := false } : Atomic).run (putOld d) s)) s

def execVatmAdd (d b o : BitVec 6) (s1 : BitVec 3) (r : BitVec 2) (s : State) : Out :=
  vatm (assemble 0x98000000 [(d.toNat, 17), (b.toNat, 11), (o.toNat, 5), (s1.toNat, 2), (r.toNat, 0)]) .add d b o s1 r s

def execVatmMin (d b o : BitVec 6) (s1 : BitVec 3) (r : BitVec 2) (s : State) : Out :=
  vatm (assemble 0x98800000 [(d.toNat, 17), (b.toNat, 11), (o.toNat, 5), (s1.toNat, 2), (r.toNat, 0)]) .min d b o s1 r s

def execVatmMax (d b o : BitVec 6) (s1 : BitVec 3) (r : BitVec 2) (s : State) : Out :=
  vatm (assemble 0x99000000 [(d.toNat, 17), (b.toNat, 11), (o.toNat, 5), (s1.toNat, 2), (r.toNat, 0)]) .max d b o s1 r s

def execVatmMinn (d b o : BitVec 6) (s1 : BitVec 3) (r : BitVec 2) (s : State) : Out :=
  vatm (assemble 0x99800000 [(d.toNat, 17), (b.toNat, 11), (o.toNat, 5), (s1.toNat, 2), (r.toNat, 0)]) .minn d b o s1 r s

def execVatmMaxn (d b o : BitVec 6) (s1 : BitVec 3) (r : BitVec 2) (s : State) : Out :=
  vatm (assemble 0x9A000000 [(d.toNat, 17), (b.toNat, 11), (o.toNat, 5), (s1.toNat, 2), (r.toNat, 0)]) .maxn d b o s1 r s

def execVatmXchg (d b o : BitVec 6) (s1 : BitVec 3) (r : BitVec 2) (s : State) : Out :=
  vatm (assemble 0x9A800000 [(d.toNat, 17), (b.toNat, 11), (o.toNat, 5), (s1.toNat, 2), (r.toNat, 0)]) .xchg d b o s1 r s

def execVatmCas (d b o : BitVec 6) (s1 : BitVec 3) (r : BitVec 2) (s : State) : Out :=
  vatm (assemble 0x9B000000 [(d.toNat, 17), (b.toNat, 11), (o.toNat, 5), (s1.toNat, 2), (r.toNat, 0)]) .cas d b o s1 r s

def execVatmFadd (d b o : BitVec 6) (s1 : BitVec 3) (r : BitVec 2) (s : State) : Out :=
  vatm (assemble 0x9B800000 [(d.toNat, 17), (b.toNat, 11), (o.toNat, 5), (s1.toNat, 2), (r.toNat, 0)]) .fadd d b o s1 r s

def execVatmAnd (d b o : BitVec 6) (s1 : BitVec 3) (r : BitVec 2) (s : State) : Out :=
  vatm (assemble 0x9C000000 [(d.toNat, 17), (b.toNat, 11), (o.toNat, 5), (s1.toNat, 2), (r.toNat, 0)]) .and d b o s1 r s

def execVatmOr (d b o : BitVec 6) (s1 : BitVec 3) (r : BitVec 2) (s : State) : Out :=
  vatm (assemble 0x9C800000 [(d.toNat, 17), (b.toNat, 11), (o.toNat, 5), (s1.toNat, 2), (r.toNat, 0)]) .or d b o s1 r s

def execVatmXor (d b o : BitVec 6) (s1 : BitVec 3) (r : BitVec 2) (s : State) : Out :=
  vatm (assemble 0x9D000000 [(d.toNat, 17), (b.toNat, 11), (o.toNat, 5), (s1.toNat, 2), (r.toNat, 0)]) .xor d b o s1 r s

def execVatmIncw (d b o : BitVec 6) (s1 : BitVec 3) (r : BitVec 2) (s : State) : Out :=
  vatm (assemble 0x9D800000 [(d.toNat, 17), (b.toNat, 11), (o.toNat, 5), (s1.toNat, 2), (r.toNat, 0)]) .incw d b o s1 r s

def execVatmDecw (d b o : BitVec 6) (s1 : BitVec 3) (r : BitVec 2) (s : State) : Out :=
  vatm (assemble 0x9E000000 [(d.toNat, 17), (b.toNat, 11), (o.toNat, 5), (s1.toNat, 2), (r.toNat, 0)]) .decw d b o s1 r s

/-! ### Scalar atomics -/

/-- R116: sd receives the old doubleword. -/
def putOldScalar (d : BitVec 6) (vals : List (Nat × Nat)) (s : State) : State :=
  match vals with
  | [] => s
  | v :: _ => s.setS d (BitVec.ofNat 64 v.2)

def satmForm (word : W32) (d a b : BitVec 6) (c : BitVec 3) (cas : Bool) : Form :=
  { word := word, ok := scopeOk c, use := { sr := (if cas then [d] else []) ++ [a, b], sw := [d] }, lat := 8, fixed := false }

/-- R116: `cas` compares with S[sd] and writes S[sb]; the others take S[sb]. -/
def satm (word : W32) (op : AtomOp) (d a b : BitVec 6) (c : BitVec 3) (r : BitVec 2) (s : State) : Out :=
  issue (satmForm word d a b c (op == .cas)) (fun s =>
    ({ op := op, size := 8, scope := c, ord := r, units := [(0, s.sreg a)],
       v := fun _ => if op = .cas then s.sreg d else s.sreg b, w := fun _ => s.sreg b, scalar := true } : Atomic).run
      (putOldScalar d) s) s

def execSatmAdd (d a b : BitVec 6) (s1 : BitVec 3) (r : BitVec 2) (s : State) : Out :=
  satm (assemble 0xA0000000 [(d.toNat, 17), (a.toNat, 11), (b.toNat, 5), (s1.toNat, 2), (r.toNat, 0)]) .add d a b s1 r s

def execSatmMin (d a b : BitVec 6) (s1 : BitVec 3) (r : BitVec 2) (s : State) : Out :=
  satm (assemble 0xA0800000 [(d.toNat, 17), (a.toNat, 11), (b.toNat, 5), (s1.toNat, 2), (r.toNat, 0)]) .min d a b s1 r s

def execSatmMax (d a b : BitVec 6) (s1 : BitVec 3) (r : BitVec 2) (s : State) : Out :=
  satm (assemble 0xA1000000 [(d.toNat, 17), (a.toNat, 11), (b.toNat, 5), (s1.toNat, 2), (r.toNat, 0)]) .max d a b s1 r s

def execSatmXchg (d a b : BitVec 6) (s1 : BitVec 3) (r : BitVec 2) (s : State) : Out :=
  satm (assemble 0xA1800000 [(d.toNat, 17), (a.toNat, 11), (b.toNat, 5), (s1.toNat, 2), (r.toNat, 0)]) .xchg d a b s1 r s

def execSatmCas (d a b : BitVec 6) (s1 : BitVec 3) (r : BitVec 2) (s : State) : Out :=
  satm (assemble 0xA2000000 [(d.toNat, 17), (a.toNat, 11), (b.toNat, 5), (s1.toNat, 2), (r.toNat, 0)]) .cas d a b s1 r s

def execSatmAnd (d a b : BitVec 6) (s1 : BitVec 3) (r : BitVec 2) (s : State) : Out :=
  satm (assemble 0xA2800000 [(d.toNat, 17), (a.toNat, 11), (b.toNat, 5), (s1.toNat, 2), (r.toNat, 0)]) .and d a b s1 r s

def execSatmOr (d a b : BitVec 6) (s1 : BitVec 3) (r : BitVec 2) (s : State) : Out :=
  satm (assemble 0xA3000000 [(d.toNat, 17), (a.toNat, 11), (b.toNat, 5), (s1.toNat, 2), (r.toNat, 0)]) .or d a b s1 r s

def execSatmXor (d a b : BitVec 6) (s1 : BitVec 3) (r : BitVec 2) (s : State) : Out :=
  satm (assemble 0xA3800000 [(d.toNat, 17), (a.toNat, 11), (b.toNat, 5), (s1.toNat, 2), (r.toNat, 0)]) .xor d a b s1 r s

end Sys2Proof.Machine
end

