-- ==== Sys2Proof/Machine/Control.lean ====
section
/-!
DEFINITION. Sys2Proof/Machine/Control.lean: branches, jumps, the active-mask stack, mask registers, system instructions
(03 R64 to R75, 02 R43 to R47).
-/

namespace Sys2Proof.Machine

/-! ## Branches and jumps (03 R64, R65, R57) -/

def branchForm (word : W32) (rs : List (BitVec 6)) (ok : Bool) : Form := { word := word, ok := ok, use := { sr := rs } }

/-- R57, R64: taken, the next word is at the target, 2 ac on; else it is the next one. -/
def branch (taken : Bool) (target : W64) (s : State) : Result := if taken then .jump target 2 s else .done s

def execBr (c : BitVec 4) (a : BitVec 6) (o : BitVec 16) (s : State) : Out :=
  issue (branchForm (assemble 0x38000000 [(c.toNat, 22), (a.toNat, 16), (o.toNat, 0)]) [a] (decide (c.toNat ≤ 5))) (fun s => branch (condZero c (s.sreg a)) (s.target o) s) s

def execBrr (c : BitVec 4) (a b : BitVec 6) (o : BitVec 10) (s : State) : Out :=
  issue (branchForm (assemble 0x3C000000 [(c.toNat, 22), (a.toNat, 16), (b.toNat, 10), (o.toNat, 0)]) [a, b] (decide (c.toNat ≤ 5))) (fun s =>
    branch (condPair c.toNat (s.sreg a) (s.sreg b)) (s.target o) s) s

def execJ (o : BitVec 26) (s : State) : Out := issue (branchForm (assemble 0x40000000 [(o.toNat, 0)]) [] true) (fun s => .jump (s.target o) 2 s) s

/-- The link register s1. -/
def State.link (s : State) : State := s.mapMe (Strand.putS 1 s.nextPc)

def linkForm (word : W32) (rs : List (BitVec 6)) : Form := { word := word, use := { sr := rs, sw := [1] } }

def execCall (o : BitVec 26) (s : State) : Out := issue (linkForm (assemble 0x44000000 [(o.toNat, 0)]) []) (fun s => .jump (s.target o) 2 s.link) s

/-- R65, 01 R12: an indirect jump traps MISALIGNED at the jump, before any register is written. -/
def jumpTo (t : W64) (s s' : State) : Result :=
  if t.toNat % 4 ≠ 0 then .trap (s.trapAll .misaligned 0 t) s else .jump t 3 s'

def execJr (a : BitVec 6) (s : State) : Out := issue (branchForm (assemble 0x48000000 [(a.toNat, 10)]) [a] true) (fun s => jumpTo (s.sreg a) s s) s

def execCallr (a : BitVec 6) (s : State) : Out := issue (linkForm (assemble 0x48400000 [(a.toNat, 10)]) [a]) (fun s => jumpTo (s.sreg a) s s.link) s

def execRet (s : State) : Out := issue (branchForm (assemble 0x48800400 []) [1] true) (fun s => jumpTo (s.sreg 1) s s) s

/-! ## The active-mask stack (02 R45 to R47, 03 R67, R68) -/

/-- Mask-control instructions are interlocked whatever the stall count (03 R69). -/
def maskForm (word : W32) (m : List (BitVec 3)) : Form := { word := word, use := { mr := m }, locked := true }

/-- 02 R47: MASKSTACK, with TVAL = DEPTH before the instruction. -/
def maskStackTrap (s : State) : Result := .trap (s.trapAll .maskstack (BitVec.ofNat 64 s.me.stack.length) 0) s

/-- Pushes an entry; the core keeps the top 8 beside the issue logic (R47). -/
def Strand.pushMask (e : MaskEntry) (t : Strand) : Strand := { t with stack := e :: t.stack, near := Nat.min (t.near + 1) 8 }

def Strand.popMask (t : Strand) : Strand := { t with stack := t.stack.tail, near := t.near - 1 }

def Strand.setTop (e : MaskEntry) (t : Strand) : Strand := { t with stack := e :: t.stack.tail }

/-- The top entry, of the kind that the instruction needs; one in the context store is awaited with reason 13 (R47). -/
def withTop (kind : MaskKind) (k : MaskEntry → State → Result) (s : State) : Result :=
  match s.me.stack with
  | [] => maskStackTrap s
  | e :: _ =>
    if e.kind ≠ kind then maskStackTrap s
    else if s.me.near = 0 then .stall 13 (s.dueOnce acTicks (.maskStackRefill s.me.id))
    else k e s

def execMif (m : BitVec 3) (o : BitVec 16) (s : State) : Out :=
  issue (maskForm (assemble 0x4C000000 [(m.toNat, 19), (o.toNat, 0)]) [m]) (fun s =>
    if s.me.stack.length = 32 then maskStackTrap s
    else
      let m0 := s.me.m0
      let k := s.mreg m
      let s1 := s.mapMe (Strand.pushMask
        { kind := .ifs, outer := m0, pend := m0 &&& ~~~k, pc := s.me.pc, rcv := s.plainTarget o })
      if m0 &&& k ≠ 0 then .done (s1.setM0 (m0 &&& k)) else .jump (s.plainTarget o) 2 s1) s

def execMelse (o : BitVec 16) (s : State) : Out :=
  issue (maskForm (assemble 0x4C400000 [(o.toNat, 0)]) []) (withTop .ifs (fun e s =>
    let e1 := { e with rcv := s.plainTarget o }
    if e.pend ≠ 0 then .done ((s.mapMe (Strand.setTop { e1 with pend := 0 })).setM0 e.pend)
    else .jump (s.plainTarget o) 2 ((s.mapMe (Strand.setTop e1)).setM0 e.outer))) s

def execMend (s : State) : Out :=
  issue (maskForm (assemble 0x4C800000 []) []) (withTop .ifs (fun e s => .done ((s.mapMe Strand.popMask).setM0 e.outer))) s

def execMpush (o : BitVec 16) (s : State) : Out :=
  issue (maskForm (assemble 0x4CC00000 [(o.toNat, 0)]) []) (fun s =>
    if s.me.stack.length = 32 then maskStackTrap s
    else .done (s.mapMe (Strand.pushMask
      { kind := .loop, outer := s.me.m0, pend := 0, pc := s.me.pc, rcv := s.plainTarget o }))) s

def execMlimit (m : BitVec 3) (s : State) : Out :=
  issue (maskForm (assemble 0x4D000000 [(m.toNat, 19)]) [m]) (withTop .loop (fun e s =>
    if s.me.m0 &&& s.mreg m = 0 then .jump e.rcv 2 s else .done (s.setM0 (s.me.m0 &&& s.mreg m)))) s

def execMpop (s : State) : Out :=
  issue (maskForm (assemble 0x4D400000 []) []) (withTop .loop (fun e s => .done ((s.mapMe Strand.popMask).setM0 e.outer))) s

def execBany (m : BitVec 3) (o : BitVec 16) (s : State) : Out :=
  issue (maskForm (assemble 0x4D800000 [(m.toNat, 19), (o.toNat, 0)]) [m]) (fun s => branch (decide (s.mreg m &&& s.me.m0 ≠ 0)) (s.plainTarget o) s) s

def execBall (m : BitVec 3) (o : BitVec 16) (s : State) : Out :=
  issue (maskForm (assemble 0x4DC00000 [(m.toNat, 19), (o.toNat, 0)]) [m]) (fun s => branch (decide (s.mreg m &&& s.me.m0 = s.me.m0)) (s.plainTarget o) s) s

def execBnone (m : BitVec 3) (o : BitVec 16) (s : State) : Out :=
  issue (maskForm (assemble 0x4E000000 [(m.toNat, 19), (o.toNat, 0)]) [m]) (fun s => branch (decide (s.mreg m &&& s.me.m0 = 0)) (s.plainTarget o) s) s

/-- An entry returns from the context store (02 R47). -/
def execMaskStackRefill (strand : Nat) (s : State) : Out :=
  stepOf (fun s => s.mapStrand strand (fun t => { t with near := Nat.max t.near (Nat.min t.stack.length 1) })) s

/-! ## Mask registers (03 R69) -/

/-- A mask instruction that writes md, with the scalar latency (R50). -/
def maskOp (word : W32) (d : BitVec 3) (rs : List (BitVec 3)) (x : State → W32) (s : State) : Out :=
  issue { word := word, use := { mr := rs, mw := [d] }, lat := 2 } (fun s => .done (s.setM d (x s))) s

def execMand (d a b : BitVec 3) (s : State) : Out := maskOp (assemble 0x50000000 [(d.toNat, 19), (a.toNat, 16), (b.toNat, 13)]) d [a, b] (fun s => s.mreg a &&& s.mreg b) s
def execMor (d a b : BitVec 3) (s : State) : Out := maskOp (assemble 0x50400000 [(d.toNat, 19), (a.toNat, 16), (b.toNat, 13)]) d [a, b] (fun s => s.mreg a ||| s.mreg b) s
def execMxor (d a b : BitVec 3) (s : State) : Out := maskOp (assemble 0x50800000 [(d.toNat, 19), (a.toNat, 16), (b.toNat, 13)]) d [a, b] (fun s => s.mreg a ^^^ s.mreg b) s
def execMandn (d a b : BitVec 3) (s : State) : Out := maskOp (assemble 0x50C00000 [(d.toNat, 19), (a.toNat, 16), (b.toNat, 13)]) d [a, b] (fun s => s.mreg a &&& ~~~s.mreg b) s
def execMnot (d a : BitVec 3) (s : State) : Out := maskOp (assemble 0x51000000 [(d.toNat, 19), (a.toNat, 16)]) d [a] (fun s => ~~~s.mreg a &&& s.me.visible) s
def execMmov (d a : BitVec 3) (s : State) : Out := maskOp (assemble 0x51400000 [(d.toNat, 19), (a.toNat, 16)]) d [a] (fun s => s.mreg a) s

def execMfrom (d : BitVec 3) (s1 : BitVec 6) (s : State) : Out :=
  issue { word := (assemble 0x51800000 [(d.toNat, 19), (s1.toNat, 7)]), use := { sr := [s1], mw := [d] }, lat := 2 } (fun s =>
    .done (s.setM d ((s.sreg s1).setWidth 32 &&& s.me.visible))) s

/-- A mask instruction that writes a scalar register. -/
def maskToScalar (word : W32) (a : BitVec 3) (d : BitVec 6) (x : State → W64) (s : State) : Out :=
  issue { word := word, use := { mr := [a], sw := [d] }, lat := 2 } (fun s => .done (s.setS d (x s))) s

def execMto (a : BitVec 3) (s1 : BitVec 6) (s : State) : Out :=
  maskToScalar (assemble 0x51C00000 [(a.toNat, 16), (s1.toNat, 7)]) a s1 (fun s => (s.mreg a).setWidth 64) s

def execMcount (a : BitVec 3) (s1 : BitVec 6) (s : State) : Out :=
  maskToScalar (assemble 0x52000000 [(a.toNat, 16), (s1.toNat, 7)]) a s1 (fun s => BitVec.ofNat 64 (lanesOf (s.mreg a)).length) s

/-- The lowest set bit; LANES if none is set. -/
def execMfirst (a : BitVec 3) (s1 : BitVec 6) (s : State) : Out :=
  maskToScalar (assemble 0x52400000 [(a.toNat, 16), (s1.toNat, 7)]) a s1 (fun s => BitVec.ofNat 64 ((lanesOf (s.mreg a)).headD s.me.lanes)) s

/-! ## System instructions (03 R70 to R75) -/

def plainForm (word : W32) : Form := { word := word }

def execNop (s : State) : Out := issue (plainForm (assemble 0x54000000 [])) (fun s => .done s) s

/-- 07 R147: the operations since the last seal become the next batch. -/
def Batches.close (b : Batches) : Batches :=
  { last := b.last + 1, batches := b.batches ++ [{ num := b.last + 1, ops := b.unsealed, reported := false, joined := false }], unsealed := [] }

def Batches.closeIfAny (b : Batches) : Batches := if b.unsealed = [] then b else b.close

/-- R70: the strand issues nothing more; what it has not sealed is closed into a final batch; hints are discarded. -/
def Strand.exit (t : Strand) : Strand :=
  { t.clearInstr with run := .exited, mx := t.mx.closeIfAny, cp := t.cp.closeIfAny, sw := t.sw.closeIfAny, hints := .none,
                      stall := [], reason := 0 }

def execExit (s : State) : Out :=
  issue (plainForm (assemble 0x54100000 [])) (fun s => .ended ((s.mapMe Strand.exit).checkBlock s.me.block)) s

def execTrap (i : BitVec 20) (s : State) : Out :=
  issue (plainForm (assemble 0x54200000 [(i.toNat, 0)])) (fun s => .trap { s.trapAll .software (i.setWidth 64) 0 with word := true } s) s

def execTret (s : State) : Out := issue (plainForm (assemble 0x54300000 [])) (fun s => s.trapReturn) s

def execBrk (i : BitVec 20) (s : State) : Out :=
  issue (plainForm (assemble 0x54400000 [(i.toNat, 0)])) (fun s => .ended (s.breakpoint (i.setWidth 64) s.nextPc false)) s

def execTmask (s : State) : Out :=
  issue (plainForm (assemble 0x54700000 [])) (fun s => .done (s.mapMe (fun t => { t with tmasked := true }))) s

def execTunmask (s : State) : Out :=
  issue (plainForm (assemble 0x54800000 [])) (fun s => .done (s.mapMe (fun t => { t with tmasked := false }))) s

/-- R74: a safe point; the strand is not selected for the next 8 ac, and its coverage ends. -/
def execYield (s : State) : Out :=
  issue (plainForm (assemble 0x54900000 [])) (fun s =>
    .ended ((((s.retire s.nextPc 1 false).mapMe (fun t => { t with stall := [], wait := .yielding, reason := 15 })).undue
      (.yieldEnd s.me.id)).due (9 * acTicks) (.yieldEnd s.me.id))) s

/-- The 8 ac of a `yield` are over. -/
def execYieldEnd (strand : Nat) (s : State) : Out :=
  stepOf (fun s => s.mapStrand strand (fun t => if t.wait = .yielding then { t with wait := .none, reason := 0 } else t)) s

/-- R75: returns at once if the wake flag was set; else the strand sleeps until a wake event or its time limit. -/
def execSleep (a : BitVec 6) (s : State) : Out :=
  issue { word := (assemble 0x54A00000 [(a.toNat, 14)]), use := { sr := [a] } } (fun s =>
    let s1 := (s.retire s.nextPc 1 false).mapMe (fun t => { t with stall := [] })
    if s.me.wake then .ended (s1.mapMe (fun t => { t with wake := false }))
    else
      let s2 := (s1.mapMe (fun t => { t with wait := .sleeping, reason := 15 })).undue (.sleepTimeout s.me.id)
      let n := (s.sreg a).toNat
      .ended (if n = 0 then s2 else s2.due (Nat.min n (2 ^ 32 - 1) * acTicks) (.sleepTimeout s.me.id))) s

/-- The time limit of a `sleep` has come. -/
def execSleepTimeout (strand : Nat) (s : State) : Out :=
  stepOf (fun s => s.mapStrand strand (fun t => if t.wait = .sleeping then { t with wait := .none, reason := 0 } else t)) s

/-! ## Special registers (01 R29, R30, 03 R73) -/

/-- The numbers that R29 lists. -/
def specialListed (r : BitVec 10) : Bool :=
  decide (r.toNat ≤ 0x00E ∨ (0x010 ≤ r.toNat ∧ r.toNat ≤ 0x01C))

/-- 07 R147: the open batches of an engine: those with an operation that has not completed, and all above such a one. -/
def Batches.openCount (b : Batches) : Nat :=
  (b.batches.dropWhile (fun k => k.ops.all (fun o => o.done))).length

/-- ReadSpecial (01 R29, R30). -/
def State.readSpecial (s : State) (r : BitVec 10) : W64 :=
  let t := s.me
  match r.toNat with
  | 0x000 => t.wid
  | 0x001 => s.blk.widf
  | 0x002 => BitVec.ofNat 64 t.slot
  | 0x003 => BitVec.ofNat 64 s.blk.index
  | 0x004 => BitVec.ofNat 64 t.role
  | 0x005 => (s.placeOf s.blk.vd s.blk.core).setWidth 64
  | 0x006 => BitVec.ofNat 64 t.lanes
  | 0x007 => s.timeNs
  | 0x008 => BitVec.ofNat 64 ((s.now - t.launchAt) / acTicks)
  | 0x009 => t.ctrl
  | 0x00A => t.tpc
  | 0x00B => t.tcause.setWidth 64
  | 0x00C => (t.tlanes &&& t.visible).setWidth 64
  | 0x00D => t.taddr
  | 0x00E => t.tval
  | 0x018 => t.gang.setWidth 64
  | 0x019 => BitVec.ofNat 64 (t.sw.openCount * 256 + t.cp.openCount * 16 + t.mx.openCount)
  | 0x01A => BitVec.ofNat 64 t.stack.length
  | 0x01B => t.sowfrom.setWidth 64
  | 0x01C => BitVec.ofNat 64 t.priv
  | n => (t.fmt[n - 0x010]?.getD 0).setWidth 64

/-- WriteSpecial: read-only registers and fields, and reserved bits, are ignored (00 R7, R8). -/
def Strand.writeSpecial (r : BitVec 10) (x : W64) (t : Strand) : Strand :=
  match r.toNat with
  | 0x009 => t.setCtrl x
  | 0x00A => { t with tpc := x }
  | 0x00B => { t with tcause := x.setWidth 8 }
  | 0x00C => { t with tlanes := x.setWidth 32 &&& t.visible }
  | 0x00D => { t with taddr := x }
  | 0x00E => { t with tval := x }
  | 0x018 => { t with gang := x.setWidth 32 }
  | n => if 0x010 ≤ n ∧ n ≤ 0x017 then { t with fmt := ⟨t.fmt.toArray.set! (n - 0x010) (x.setWidth 16), by simp⟩ } else t

/-- `sread`: the result is interlocked, available after 4 ac (02 R377). -/
def execSread (d : BitVec 6) (r : BitVec 10) (s : State) : Out :=
  issue { word := (assemble 0x54500000 [(d.toNat, 14), (r.toNat, 0)]), ok := specialListed r, use := { sw := [d] }, lat := 4, fixed := false } (fun s =>
    .done (s.setS d (s.readSpecial r))) s

/-- `swrite` to WID traps ILLEGAL (R29). -/
def execSwrite (a : BitVec 6) (r : BitVec 10) (s : State) : Out :=
  issue { word := (assemble 0x54600000 [(a.toNat, 14), (r.toNat, 0)]), ok := specialListed r && decide (r ≠ 0), use := { sr := [a] } } (fun s =>
    .done (s.mapMe (Strand.writeSpecial r (s.sreg a)))) s

/-! ## Words that are no instruction (01 R32) -/

def illegalForm (word : W32) : Form := { word := word, ok := false }

def execIll (x : BitVec 26) (s : State) : Out := issue (illegalForm (assemble 0x00000000 [(x.toNat, 0)])) (fun s => .done s) s

def execUnallocatedEncoding (w : BitVec 32) (s : State) : Out := issue (illegalForm w) (fun s => .done s) s

/-- 21 R349, 02 R55: a PC match register fires before the matched word issues. -/
def execPcMatch (strand : Nat) (s : State) : Out :=
  stepOf (fun s =>
    let s1 := s.focus strand
    match s1.me.matchIndex with
    | some k => if s1.me.id = strand then s1.breakpoint (BitVec.ofNat 64 (0x100000 + k)) s1.me.pc true else s
    | none => s) s

/-- 07 R378: a line of the fetch buffer arrives. -/
def execFetchLineFill (strand : Nat) (s : State) : Out :=
  stepOf (fun s =>
    let s1 := s.focus strand
    if s1.me.id = strand ∧ s1.me.run = .running ∧ s1.me.issued = false then s1.fetchPc else s) s

end Sys2Proof.Machine
end

