-- ==== Sys2Proof/Machine/Batch.lean ====
section
/-!
DEFINITION. Sys2Proof/Machine/Batch.lean: batches of engine operations (07 R147, 09 R179, R180): what completes them, what observes
them, and their instructions.
-/

namespace Sys2Proof.Machine

/-! ## Completion (07 R147) -/

def BatchOp.finish (op : Nat) (fault : Option BatchFault) (b : BatchOp) : BatchOp :=
  if b.op = op then { b with done := true, fault := fault } else b

def Batches.finish (op : Nat) (fault : Option BatchFault) (b : Batches) : Batches :=
  { b with batches := b.batches.map (fun k => { k with ops := k.ops.map (BatchOp.finish op fault) }),
           unsealed := b.unsealed.map (BatchOp.finish op fault) }

/-- The complete batches: all their operations are complete, and those of every lower-numbered batch. -/
def Batches.completed (b : Batches) : List Batch := b.batches.takeWhile (fun k => k.ops.all (fun o => o.done))

/-- The batch that holds an operation: a sealed one, or the one that the next seal will number. -/
def Batches.numberOf (op : Nat) (b : Batches) : Nat :=
  ((b.batches.find? (fun k => k.ops.any (fun o => o.op == op))).map (·.num)).getD (b.last + 1)

/-- 03 R75: the completion of one of its batches wakes the strand. -/
def Strand.wokenIf (c : Bool) (t : Strand) : Strand := if c then t.woken else t

def Strand.opDone (op : Nat) (fault : Option BatchFault) (t : Strand) : Strand :=
  let u := { t with mx := t.mx.finish op fault, cp := t.cp.finish op fault, sw := t.sw.finish op fault }
  u.wokenIf (decide (t.mx.completed.length < u.mx.completed.length ∨ t.cp.completed.length < u.cp.completed.length
    ∨ t.sw.completed.length < u.sw.completed.length))

/-- An engine operation completes, with its status. -/
def State.opDone (op : Nat) (fault : Option BatchFault) (s : State) : State := s.mapStrands (fun _ => true) (Strand.opDone op fault)

/-! ## The event buffer of a drain (11 R210) -/

/-- R210: while its cluster drains, an engine's landing, pop or completion waits in the core's buffer of 64 events; an engine holds while it
is full.  An event is the engine's whole turn (log entry 53). -/
def State.buffered (core : Nat) (ev : Instr) (f : State → State) (s : State) : State :=
  match (s.clusterOf (coreCluster core)).state with
  | .draining _ =>
    if (s.coreOf core).events.length < 64 then s.mapCoreOf core (fun c => { c with events := c.events ++ [ev] })
    else s.dueOnce acTicks ev
  | _ => f s

/-! ## The engines (01 R21: 0 mx, 1 cp, 2 sw) -/

def Strand.engine (e : BitVec 2) (t : Strand) : Batches := if e = 0 then t.mx else if e = 1 then t.cp else t.sw

def Strand.setEngine (e : BitVec 2) (b : Batches) (t : Strand) : Strand :=
  if e = 0 then { t with mx := b } else if e = 1 then { t with cp := b } else { t with sw := b }

/-- A forked operation counts among the unsealed ones of its strand (07 R146). -/
def Batches.fork (op : Nat) (join : BitVec 3) (b : Batches) : Batches :=
  { b with unsealed := b.unsealed ++ [{ op := op, join := join, done := false, fault := none }] }

/-! ## Observing (09 R180, 14 R253) -/

def Batch.fault (k : Batch) : Option BatchFault := (k.ops.filterMap (·.fault)).head?

/-- The lowest-numbered complete batch with a fault that is not reported yet. -/
def Batches.report? (b : Batches) : Option (Nat × BatchFault) :=
  (b.completed.filterMap (fun k => if k.reported then none else k.fault.map (fun f => (k.num, f)))).head?

def Batches.markReported (num : Nat) (b : Batches) : Batches :=
  { b with batches := updIf (fun k => k.num == num) (fun k => { k with reported := true }) b.batches }

/-- The widest scope at which the batches that are newly observed join. -/
def Batches.joinScope (b : Batches) : Option (BitVec 3) :=
  (b.completed.filter (fun k => !k.joined)).foldl (fun m k => k.ops.foldl (fun m o =>
    match m with
    | some c => if c.toNat < o.join.toNat then some o.join else some c
    | none => some o.join) m) none

def Batches.markJoined (b : Batches) : Batches :=
  { b with batches := b.batches.map (fun k => if k.ops.all (fun o => o.done) then { k with joined := true } else k) }

/-- The joins of the complete batches (14 R253): an acquire at the scope of the operations' destinations. -/
def State.joinBatches (e : BitVec 2) (s : State) : State :=
  let b := s.me.engine e
  let s1 := s.mapMe (Strand.setEngine e b.markJoined)
  match b.joinScope with
  | some c => s1.refresh c
  | none => s1

/-- R180: the fault of a complete batch traps at the instruction that observes it, once. -/
def observe (e : BitVec 2) (k : State → Result) (s : State) : Result :=
  let s1 := s.joinBatches e
  match (s1.me.engine e).report? with
  | some (num, f) =>
    .trap (s.trapAll f.cause f.tval f.taddr) (s1.mapMe (Strand.setEngine e ((s1.me.engine e).markReported num)))
  | none => k s1

/-! ## The instructions -/

/-- R147: a seal that would leave 16 batches open traps BATCH, with the engine code. -/
def execSeal (d : BitVec 6) (e : BitVec 2) (s : State) : Out :=
  issue { word := (assemble 0xC8000000 [(d.toNat, 16), (e.toNat, 14)]), ok := decide (e.toNat ≤ 2), use := { sw := [d] }, lat := 4, fixed := false } (fun s =>
    let b := (s.me.engine e).close
    if 16 ≤ b.openCount then .trap (s.trapAll .batch (e.setWidth 64) 0) s
    else
      let s1 := s.mapMe (fun t => (t.setEngine e b).wokenIf (decide ((t.engine e).completed.length < b.completed.length)))
      .done (s1.setS d (BitVec.ofNat 64 b.last))) s

def execWaitb (e : BitVec 2) (n : BitVec 4) (s : State) : Out :=
  issue { word := (assemble 0xC8400000 [(e.toNat, 14), (n.toNat, 10)]), ok := decide (e.toNat ≤ 2) } (fun s =>
    if n.toNat < (s.me.engine e).openCount then .stall 10 s else observe e (fun s => .done s) s) s

def execTestb (d : BitVec 6) (e : BitVec 2) (s : State) : Out :=
  issue { word := (assemble 0xC8800000 [(d.toNat, 16), (e.toNat, 14)]), ok := decide (e.toNat ≤ 2), use := { sw := [d] }, lat := 4, fixed := false } (observe e (fun s =>
    .done (s.setS d (BitVec.ofNat 64 (((s.me.engine e).completed.getLast?.map (·.num)).getD 0))))) s

end Sys2Proof.Machine
end

