-- ==== Sys2Proof/Machine/Matrix.lean ====
section
/-!
DEFINITION. Sys2Proof/Machine/Matrix.lean: gangs, matrix operations and their events, accumulator tiles (08 R155 to R172, 09 R174 to
R178, R181).

An operation runs as a chain of events: start, the stream of each slot, the arrival of each partial, the drain of each column,
completion.
-/

namespace Sys2Proof.Machine

/-! ## Operands of the array (08 R153 to R157) -/

/-- What classifies an operand (R177): 0 narrow in 4-bit containers, 1 narrow in 8-bit containers, 2 BF16, 3 binary16, 4 other. -/
def operandClass (ty : Nat) (fmt : BitVec 16) : Nat :=
  if ty = 0 then (if (Narrow.of fmt).width ≤ 4 then 0 else 1) else if ty = 1 then 2 else if ty = 2 then 3 else 4

/-- R157: K per plane, ac per row, whether T is allowed. -/
def pairing (a w : Nat) : Option (Nat × Nat × Bool) :=
  if a = 0 ∧ w = 0 then some (256, 1, false)
  else if a = 1 ∧ w = 0 then some (256, 2, false)
  else if a ≤ 1 ∧ w = 1 then some (128, 1, true)
  else if a = 2 ∧ w = 2 then some (64, 1, false)
  else if a = 3 ∧ w = 3 then some (64, 2, false)
  else none

/-- Bits of an element's container. -/
def containerBits (ty : Nat) (fmt : BitVec 16) : Nat :=
  match operandClass ty fmt with
  | 0 => 4 | 1 => 8 | 2 => 16 | 3 => 16 | _ => 32

/-- Block size of a code: 0 none, 1 sixteen, 2 thirty-two. -/
def blockSize (c : Nat) : Nat := if c = 1 then 16 else if c = 2 then 32 else 0

/-- R153: element i of elements packed from byte `off`. -/
def packedCode (byte : Nat → Byte) (bits off i : Nat) : Nat :=
  if bits = 4 then (byte (off + i / 2)).toNat / (if i % 2 = 0 then 1 else 16) % 16
  else bytesNat ((List.range (bits / 8)).map (fun k => byte (off + i * (bits / 8) + k)))

/-- The value of an element's code (R95, R156). -/
def elementValue (ty : Nat) (fmt : BitVec 16) (code : Nat) : FVal :=
  if ty = 0 then (Narrow.of fmt).decode code else if ty = 1 then bf16.decode code else if ty = 2 then fp16.decode code
  else .nan

/-- R155: the value of a scale code. -/
def scaleValue (c : Nat) : FVal := if c = 255 then .nan else .fin false 1 ((c : Int) - 127)

/-- The scale code that stands for 1. -/
def scaleOne : Nat := 127

/-! ## Products and partials (08 R158 to R160) -/

/-- R158, R159: a product quantised to the grid of G: q, the NaN flag, a window fault. -/
def quantise (g : Int) (p : FVal) : Int × Bool × Bool :=
  match p with
  | .fin neg mag e =>
    let q := roundMultiple rne neg mag e false (g - 19)
    if 2 ^ 19 - 1 < q then (0, true, true) else (if neg then -(q : Int) else q, false, false)
  | _ => (0, true, false)

/-- R160: the sum of the products of a row and a column. -/
def partialSum (g : Int) (ps : List FVal) : Int × Bool × Bool :=
  ps.foldl (fun acc p => let (q, n, w) := quantise g p; (acc.1 + q, acc.2.1 || n, acc.2.2 || w)) (0, false, false)

/-- The value of activation element (r, k) of the slot at byte `base` (R186). -/
def Tray.activation (b : Block) (t : Tray) (base r k : Nat) : FVal :=
  let byte (i : Nat) : Byte := Memory.get b.window (base + i)
  let bits := containerBits t.atype t.afmt
  let v := elementValue t.atype t.afmt (packedCode byte bits (r * (t.kslot * bits / 8)) k)
  let bs := blockSize t.scale
  if t.atype ≠ 0 ∨ bs = 0 then v
  else v.mul (scaleValue (byte (16 * (t.kslot * bits / 8) + r * ceilDiv t.kslot bs + k / bs)).toNat)

/-- R176: the weight of activation k and column j. -/
def Plane.weight (p : Plane) (tr : Bool) (k j : Nat) : FVal :=
  let (col, pos) := if tr then (k, j) else (j, k)
  let bits := containerBits p.ptype p.fmt
  let v := elementValue p.ptype p.fmt (packedCode (Memory.get p.bytes) bits (col * 128) pos)
  let bs := blockSize p.block
  if p.ptype ≠ 0 ∨ bs = 0 then v
  else v.mul (scaleValue (Memory.get p.scales (col * ceilDiv (128 * 8 / bits) bs + pos / bs)).toNat)

/-! ## The pairing stage (08 R161 to R164) -/

def Elem.zero : Elem := { a := 0, rw := 0, nan := false, ru := false }

def Tile.elem (t : Tile) (i : Nat) : Elem := lookupD t.elems i .zero
def Tile.setElem (i : Nat) (e : Elem) (t : Tile) : Tile := { t with elems := assocSet t.elems i e }

/-- S = A + Rw x 2^26. -/
def Elem.sum (e : Elem) : Int := e.a.toInt + e.rw.toInt * (2 ^ 26 : Nat)

/-- R163: a release of x: the element, whether it made a residue step, whether ROVF was set. -/
def Elem.apply (x : Int) (e : Elem) : Elem × Bool × Bool :=
  let y := e.a.toInt + x
  let fits (z : Int) : Bool := decide (-(2 ^ 27 : Nat) ≤ z ∧ z < (2 ^ 27 : Nat))
  if fits y then ({ e with a := BitVec.ofInt 28 y }, false, false)
  else
    let sg : Int := if x < 0 then -1 else 1
    let j : Int := if fits (y - sg * (2 ^ 26 : Nat)) then 1 else 2
    let r := e.rw.toInt + sg * j
    let out := decide (r < -(2 ^ 15 : Nat) ∨ (2 ^ 15 : Nat) ≤ r)
    ({ e with a := BitVec.ofInt 28 (y - sg * j * (2 ^ 26 : Nat)),
              rw := if out then (if sg < 0 then 0x8000 else 0x7FFF) else BitVec.ofInt 16 r, ru := true }, true, out)

/-- One element's stage: the element, its queues, its ROVF, the residue steps made. -/
structure Stage where
  e     : Elem
  pq    : List Int
  nq    : List Int
  rovf  : Bool
  steps : Nat
  deriving DecidableEq, Repr

def Stage.release (x : Int) (g : Stage) : Stage :=
  let (e, step, out) := g.e.apply x
  { g with e := e, rovf := g.rovf || out, steps := g.steps + (if step then 1 else 0) }

/-- Pops the head of the positive queue, or of the negative one, and applies it. -/
def Stage.pop (positive : Bool) (g : Stage) : Stage :=
  if positive then
    match g.pq with
    | [] => g
    | x :: r => { g with pq := r }.release x
  else
    match g.nq with
    | [] => g
    | x :: r => { g with nq := r }.release x

def Stage.push (t : Int) (g : Stage) : Stage :=
  if t = 0 then g else if 0 < t then { g with pq := g.pq ++ [t] } else { g with nq := g.nq ++ [t] }

/-- R162: one arrival. -/
def Stage.arrive (t : Int) (g : Stage) : Stage :=
  let own := decide (0 < t)
  let preferred := decide (g.e.a.toInt < 0)
  if t ≠ 0 ∧ (if own then g.pq.length else g.nq.length) = 4 ∧ own ≠ preferred then (g.pop own).push t
  else (g.push t).pop preferred

/-- R164: the drain; `fuel` bounds the eight partials that may stand. -/
def Stage.drain : Nat → Stage → Stage
  | 0, g => g
  | fuel + 1, g =>
    if g.pq ≠ [] ∧ g.nq ≠ [] then (g.pop (decide (g.e.a.toInt < 0))).drain fuel
    else if g.pq ≠ [] then (g.pop true).drain fuel
    else if g.nq ≠ [] then (g.pop false).drain fuel
    else g

def lookupQ (qs : List (Nat × List Int × List Int)) (i : Nat) : List Int × List Int := lookupD qs i ([], [])

/-- The stage of an element between its operation and its tile, and back. -/
def stageOf (m : MxOp) (t : Tile) (i : Nat) : Stage :=
  let q := lookupQ m.queues i
  { e := t.elem i, pq := q.1, nq := q.2, rovf := m.rovf.contains i, steps := 0 }

def MxOp.keep (i : Nat) (g : Stage) (m : MxOp) : MxOp :=
  { m with queues := if g.pq = [] ∧ g.nq = [] then m.queues.filter (fun q => q.1 != i) else assocSet m.queues i (g.pq, g.nq),
           rovf := if g.rovf then setInsert m.rovf i else m.rovf }

def Tile.keep (i : Nat) (g : Stage) (t : Tile) : Tile :=
  { t.setElem i g.e with rcount := BitVec.ofNat 32 (Nat.min (t.rcount.toNat + g.steps) (2 ^ 32 - 1)) }

/-! ## Operations in flight -/

def State.mxop? (s : State) (op : Nat) : Option MxOp := s.mxops.find? (fun m => m.id == op)
def State.mapMx (op : Nat) (f : MxOp → MxOp) (s : State) : State := { s with mxops := updIf (fun m => m.id == op) f s.mxops }
def updTile (b : Block) (i : Nat) (f : Tile → Tile) : Block := { b with tiles := updAt b.tiles i f }

/-- The member of an operation in the lowest slot. -/
def State.mxFirst (s : State) (m : MxOp) : Option Strand :=
  (m.members.filterMap s.strand?).foldl (fun x t => match x with
    | some u => if t.slot < u.slot then some t else some u
    | none => some t) none

/-- The privilege level at which an operation counts (21 R344): that of its members, the first of them. -/
def State.mxPriv (s : State) (m : MxOp) : Nat := ((s.mxFirst m).map (·.priv)).getD 0

/-- Applies a function of an element's stage. -/
def State.atStage (m : MxOp) (i : Nat) (f : Stage → Stage) (s : State) : State :=
  match s.block? m.block with
  | none => s
  | some b =>
    let g := f (stageOf m (b.tiles[m.acc]?.getD .init) i)
    let s1 := (s.mapBlock m.block (fun b => updTile b m.acc (Tile.keep i g))).mapMx m.id (MxOp.keep i g)
    if g.steps = 0 then s1 else s1.count b.vd 0x04 g.steps (s.mxPriv m)

/-- R176, R157, R177: the pairing check of a whole operation: the cause's TVAL where it fails. -/
def MxOp.check (m : MxOp) (b : Block) : Option W64 :=
  let t := b.trays[m.tray]?.getD .init
  let ps := (List.range m.kcnt).map (fun i => b.planes[m.plane + i]?.getD .init)
  let a := operandClass t.atype t.afmt
  let w (p : Plane) : Nat := operandClass p.ptype p.fmt
  let badPlane := ps.find? (fun p => decide (p.ptype = 0) && !formatOk p.fmt)
  let badPair := ps.find? (fun p => match pairing a (w p) with
    | some (_, _, tok) => m.t && !tok
    | none => true)
  if t.atype = 0 ∧ ¬ formatOk t.afmt then some (t.afmt.setWidth 64)
  else match badPlane, badPair with
    | some p, _ => some (p.fmt.setWidth 64)
    | none, some p => some (BitVec.ofNat 64 (0x30000 + a + 16 * w p + (if m.t then 256 else 0)))
    | none, none =>
      let k := (ps.head?.bind (fun p => (pairing a (w p)).map (·.1))).getD 0
      let rows := 16 * (t.kslot * containerBits t.atype t.afmt / 8)
      let scales := if t.atype = 0 ∧ t.scale ≠ 0 then 16 * ceilDiv t.kslot (blockSize t.scale) else 0
      if t.kslot ≠ k ∨ ps.any (fun p => decide ((pairing a (w p)).map (·.1) ≠ some t.kslot)) then some 0x1000E#64
      else if t.slot < rows + scales then some 0x10004#64
      else none

/-- 07 R147: whether an operation stands in an open batch, or in none yet. -/
def Batches.opens (op : Nat) (b : Batches) : Bool :=
  (b.batches.dropWhile (fun k => k.ops.all (fun o => o.done))).any (fun k => k.ops.any (fun o => o.op == op))

/-- A complete operation is kept while a batch of a member that holds it is open or can still be sealed (07 R148). -/
def State.keepsMx (s : State) (m : MxOp) : Bool :=
  !m.done || s.allStrands.any (fun t => decide (t.block = m.block) && (t.mx.opens m.id || t.mx.unsealed.any (fun o => o.op == m.id)))

/-- The end of an operation: counted, recorded, observed by the batches of its members (07 R147, 21 R344, R346: batch and slot are those
of the member in the lowest slot). -/
def State.mxDone (m : MxOp) (fault : Option BatchFault) (s : State) : State :=
  match s.block? m.block with
  | none => s
  | some b =>
    let first := s.mxFirst m
    let slot := (first.map (·.slot)).getD 31
    let num := (first.map (fun t => t.mx.numberOf m.id)).getD 0
    let k := (pairing (operandClass ((b.trays[m.tray]?.getD .init).atype) ((b.trays[m.tray]?.getD .init).afmt))
      (operandClass ((b.planes[m.plane]?.getD .init).ptype) ((b.planes[m.plane]?.getD .init).fmt)) |>.map (·.1)).getD 0
    let macs := if fault.map (·.cause) = some .format then 0 else 2048 * k * m.kcnt
    let s1 := ((s.mapMx m.id (fun m => { m with done := true, fault := fault })).opDone m.id fault).count b.vd 0x03 1 (s.mxPriv m)
    let s2 :=
      if b.eventOn then
        s1.event b.vd 1 ((fault.map (fun f => f.cause.code)).getD 0) (s.placeOf b.vd b.core).toNat ((s.now - m.issuedAt) / nsTicks)
          (natBytes 6 num ++ natBytes 1 slot ++ natBytes 1 ((if m.mmac then 1 else 0) + 2 * m.acc + 16 * (m.kcnt - 1))
            ++ natBytes 8 macs)
      else s1
    let s3 : State := { s2 with mxops := s2.mxops.filter s2.keepsMx }
    s3.checkBlock m.block

/-! ## The events of an operation -/

/-- 07 R146: the operation that the array of its core serves next. -/
def State.arrayTurn (s : State) (m : MxOp) : Bool :=
  match s.block? m.block with
  | none => false
  | some b =>
    ((s.mxops.filter (fun k => !k.done && ((s.block? k.block).map (fun c => c.core == b.core)).getD false)).head?.map (·.id))
      == some m.id

/-- R176: the array is free: the pairings are checked, `mma` zeroes the tile, the first slot streams. -/
def State.startMx (op : Nat) (s : State) : State :=
  match s.mxop? op with
  | none => s
  | some m => match s.block? m.block with
    | none => s
    | some b =>
      if m.started then s
      else if s.arrayTurn m then
        match m.check b with
        | some v => s.mxDone m (some { cause := .format, tval := v, taddr := 0 })
        | none =>
          let s1 := s.mapMx op (fun m => { m with started := true })
          let s2 := if m.mmac then s1
            else s1.mapBlock m.block (fun b => updTile b m.acc (fun t => { t with elems := [], rcount := 0 }))
          s2.due acTicks (.matrixSlotStream op)
      else s.due acTicks (.matrixOpStart op)

def execMatrixOpStart (op : Nat) (s : State) : Out := stepOf (fun s => s.startMx op) s

/-- The next event of an operation: its next partial, its next slot, or its drain. -/
def State.nextOfMx (op : Nat) (s : State) : State :=
  match s.mxop? op with
  | none => s
  | some m => match m.arrivals with
    | (r, c, t) :: _ => s.due acTicks (.partialArrival op r c t)
    | [] => if m.next < m.kcnt then s.due acTicks (.matrixSlotStream op) else s.due acTicks (.columnDrain op 0)

/-- R172: the tile columns of a plane's bytes that hold an uncorrectable error: without T a column reads its own 128 bytes, with T one
element of each.  A finding marks single bytes, which the model takes for the plane words of the rule (log entry 63). -/
def Plane.badColumns (p : Plane) (tr : Bool) : List Nat :=
  p.corrupt.foldl (fun l o => setInsert l (if tr then o % 128 * 8 / containerBits p.ptype p.fmt else o / 128)) []

/-- The rows of a slot that hold bytes of the window with an uncorrectable error (log entry 54). -/
def Block.badRows (b : Block) (t : Tray) (base : Nat) : List Nat :=
  let n := t.kslot * containerBits t.atype t.afmt / 8
  (List.range 16).filter (fun r => b.windowBad (base + r * n) n)

/-- R172: every element of the tile in a column whose weights are bad is poisoned (and in a row whose activations are, log entry 54); the
halt of the strand that reads one reports it (19 R330). -/
def State.poisonColumns (m : MxOp) (cols rows : List Nat) (s : State) : State :=
  if cols = [] ∧ rows = [] then s
  else s.mapBlock m.block (fun b => updTile b m.acc (fun t =>
    { t with poison := ((List.range 2048).filter (fun i => cols.contains (i % 128) || rows.contains (i / 128))).foldl setInsert t.poison }))

/-- R158 to R160, R176: a filled slot streams its rows against a plane; P pops it at the end of the last row. -/
def State.streamMx (op : Nat) (s : State) : State :=
  match s.mxop? op with
  | none => s
  | some m => match s.block? m.block with
    | none => s
    | some b =>
      let t := b.trays[m.tray]?.getD .init
      let k := if m.p then 0 else m.next
      if m.done ∨ ¬ m.started ∨ m.kcnt ≤ m.next ∨ m.arrivals ≠ [] then s
      else if t.filled < k + 1 then s.due acTicks (.matrixSlotStream op)
      else
        let base := t.base + (t.head + k) % t.nslot * t.slot
        let p := b.planes[m.plane + m.next]?.getD .init
        let g := (b.tiles[m.acc]?.getD .init).g.toInt
        let acts := (List.range 16).map (fun r => (List.range t.kslot).map (t.activation b base r))
        let weights := (List.range 128).map (fun j => (List.range t.kslot).map (fun k => p.weight m.t k j))
        let sums := acts.map (fun a => weights.map (fun w => partialSum g (List.zipWith FVal.mul a w)))
        let flat := (sums.zipIdx).flatMap (fun r => (r.1.zipIdx).map (fun c => (r.2, c.2, c.1)))
        let nans := (flat.filter (fun x => x.2.2.2.1)).map (fun x => 128 * x.1 + x.2.1)
        let window := flat.any (fun x => x.2.2.2.2)
        let s1 := s.mapBlock m.block (fun b => updTile b m.acc (fun tile =>
          nans.foldl (fun tile i => tile.setElem i { tile.elem i with nan := true }) tile))
        let s2 := s1.mapMx op (fun m =>
          { m with next := m.next + 1, arrivals := flat.map (fun x => (x.1, x.2.1, x.2.2.1)),
                   fault := if window ∧ m.fault = none
                     then some { cause := .matrixWindow, tval := BitVec.ofNat 64 m.acc, taddr := 0 } else m.fault })
        ((if m.p then s2.mapBlock m.block (fun b => updTray b m.tray Tray.pop) else s2).poisonColumns m (p.badColumns m.t) (b.badRows t base)).nextOfMx op

/-- The core whose array serves an operation. -/
def State.mxCore (s : State) (op : Nat) : Nat := (((s.mxop? op).bind (fun m => s.block? m.block)).map (·.core)).getD 0

def execMatrixSlotStream (op : Nat) (s : State) : Out :=
  stepOf (fun s => s.buffered (s.mxCore op) (.matrixSlotStream op) (State.streamMx op)) s

/-- R162: a partial arrives at its column's stage. -/
def execPartialArrival (op row col : Nat) (t : Int) (s : State) : Out :=
  stepOf (fun s =>
    match s.mxop? op with
    | none => s
    | some m =>
      if m.arrivals.head? = some (row, col, t) then
        ((s.atStage m (128 * row + col) (Stage.arrive t)).mapMx op (fun m => { m with arrivals := m.arrivals.tail })).nextOfMx op
      else s) s

/-- R164: after its last arrival a stage drains its 16 elements in row order. -/
def execColumnDrain (op col : Nat) (s : State) : Out :=
  stepOf (fun s =>
    match s.mxop? op with
    | none => s
    | some m =>
      if m.arrivals ≠ [] ∨ m.next < m.kcnt ∨ m.drained ≠ col then s
      else
        let s1 := (List.range 16).foldl (fun s r =>
          match s.mxop? op with
          | some m => s.atStage m (128 * r + col) (Stage.drain 9)
          | none => s) s
        let s2 := s1.mapMx op (fun m => { m with drained := col + 1 })
        if col < 127 then s2.due acTicks (.columnDrain op (col + 1)) else s2.due (2 * acTicks) (.matrixOpComplete op)) s

/-- R169: the saturated element. -/
def Elem.saturate (d : Nat) (e : Elem) : Elem :=
  let top : Int := (2 ^ (d - 1) : Nat) - 1
  let x := if e.sum < 0 then -top else top
  let r : Int := (if x < 0 then -1 else 1) * (x.natAbs / 2 ^ 26 : Nat)
  { e with a := BitVec.ofInt 28 (x - r * (2 ^ 26 : Nat)), rw := BitVec.ofInt 16 r }

/-- R169: whether an element is a genuine overflow. -/
def Elem.overflows (d : Nat) (rovf : Bool) (e : Elem) : Bool := !e.nan && (decide (2 ^ (d - 1) ≤ e.sum.natAbs) || rovf)

/-- R169: with ROVF and the S flag clear an element's value is undefined: A is free (log entry 7). -/
def undefinedElem (k i : Nat) (e : Elem) : Elem :=
  { e with a := BitVec.ofNat 28 (bytesNat ((List.range 4).map (fun j => Config.anyByte ((k * 2048 + i) * 4 + j)))) }

/-- R169, R168: every element is tested; the operation completes. -/
def State.finishMx (op : Nat) (s : State) : State :=
  match s.mxop? op with
  | none => s
  | some m => match s.block? m.block with
    | none => s
    | some b =>
      if m.drained < 128 ∨ m.done then s
      else
        let tile := b.tiles[m.acc]?.getD .init
        let big := (tile.elems.filter (fun e => e.2.overflows tile.d (m.rovf.contains e.1))).map (·.1)
        let first := big.foldl (fun x i => match x with
          | some j => some (Nat.min i j)
          | none => some i) none
        let fix (i : Nat) (e : Elem) : Elem :=
          if m.s then e.saturate tile.d else if m.rovf.contains i then undefinedElem s.free i e else e
        let s1 := s.mapBlock m.block (fun b => updTile b m.acc (fun t =>
          { t with elems := t.elems.map (fun e => if big.contains e.1 then (e.1, fix e.1 e.2) else e) }))
        let fault := match m.fault with
          | some f => some f
          | none => if m.s then none else first.map (fun i =>
              { cause := .matrixOverflow, tval := BitVec.ofNat 64 (m.acc + i / 128 * 8 + i % 128 * 128), taddr := 0 })
        ({ s1 with free := s1.free + 1 }).mxDone m fault

def execMatrixOpComplete (op : Nat) (s : State) : Out :=
  stepOf (fun s => s.buffered (s.mxCore op) (.matrixOpComplete op) (State.finishMx op)) s

/-! ## The gang rendezvous (09 R174, R175) -/

/-- The slots that a GANG value names. -/
def gangSlots (g : W32) : List Nat := lanesOf g

/-- R174: 2 to 6 slots, the strand's own among them, each a Matrix strand of the block. -/
def State.gangOk (s : State) : Bool :=
  let slots := gangSlots s.me.gang
  decide (2 ≤ slots.length ∧ slots.length ≤ 6) && slots.contains s.me.slot
    && slots.all (fun k => ((strandInSlot s k).map (fun t => t.kind == 1)).getD false)

/-- A listed strand that has exited, or halted. -/
def State.gangLost (s : State) (g : W32) : Option Cause :=
  let runs := (gangSlots g).filterMap (fun k => (strandInSlot s k).map (·.run))
  if runs.contains .halted then some .abandoned else if runs.contains .exited then some .gang else none

/-- A strand leaves the latch; an empty latch is free. -/
def State.leaveLatch (slot : Nat) (s : State) : State :=
  s.mapBlk (fun b => { b with latch := b.latch.bind (fun l =>
    if l.joined.filter (fun k => k != slot) = [] then none else some { l with joined := l.joined.filter (fun k => k != slot) }) })

/-- R175: the strand joins: it waits, with reason 11, and the rendezvous is due once every listed strand has joined. -/
def State.joinLatch (l : Latch) (s : State) : Result :=
  let s1 := (s.mapBlk (fun b => { b with latch := some l })).mapMe (fun t => { t with wait := .gang })
  .stall 11 (if (gangSlots l.gang).all l.joined.contains then s1.dueOnce 0 (.gangRendezvous s.blk.id) else s1)

/-- GANG, with TVAL the word. -/
def gangTrap (word : W32) (s : State) : Result := .trap (s.trapAll .gang (word.setWidth 64) 0) s

/-- R174, R175: one try of a matrix word.  The issue is an ordering point for the strand's earlier stores (14 R252). -/
def matrixWord (word : W32) (s : State) : Result :=
  match s.me.wait with
  | .released => .done (s.mapMe (fun t => { t with wait := .none }))
  | .gang =>
    match s.blk.latch with
    | none => gangTrap word s
    | some l =>
      if ¬ l.joined.contains s.me.slot then gangTrap word s
      else match s.gangLost l.gang with
        | some .abandoned => .trap (s.trapAll .abandoned 0 0) (s.leaveLatch s.me.slot)
        | some _ => gangTrap word (s.leaveLatch s.me.slot)
        | none => .stall 11 s
  | _ =>
    if ¬ s.gangOk then gangTrap word s
    else match s.gangLost s.me.gang with
      | some .abandoned => .trap (s.trapAll .abandoned 0 0) s
      | some _ => gangTrap word s
      | none =>
        if ¬ s.canPublish 1 then .stall 4 s
        else match s.blk.latch with
        | none => s.joinLatch { word := word, gang := s.me.gang, joined := [s.me.slot] }
        | some l =>
          if ¬ (gangSlots l.gang).contains s.me.slot then .stall 11 s
          else if l.word = word ∧ l.gang = s.me.gang then s.joinLatch { l with joined := setInsert l.joined s.me.slot }
          else gangTrap word (s.mapBlk (fun b => { b with latch := none }))

/-- The fields of a matrix word (01 R21). -/
structure MatrixWord where
  acc   : Nat
  plane : Nat
  tray  : Nat
  kcnt  : Nat
  t     : Bool
  s     : Bool
  p     : Bool
  deriving DecidableEq, Repr

def MatrixWord.of (a : BitVec 3) (w : BitVec 7) (r k : BitVec 4) (x y p : BitVec 1) : MatrixWord :=
  { acc := a.toNat, plane := w.toNat, tray := r.toNat, kcnt := k.toNat + 1, t := decide (x = 1), s := decide (y = 1),
    p := decide (p = 1) }

/-- R174: the limits of the operands, against the block. -/
def MatrixWord.unitsOk (m : MatrixWord) (s : State) : Bool :=
  decide (s.me.kind = 1) && decide (m.acc < s.blk.tiles.length) && decide (m.plane + m.kcnt ≤ s.blk.planes.length)
    && decide (m.tray < s.blk.trays.length) && (m.p || decide (m.kcnt ≤ (s.blk.trays[m.tray]?.getD .init).nslot))

def matrixForm (word : W32) (m : MatrixWord) (s : State) : Form := { word := word, units := m.unitsOk s }

def execMma (a : BitVec 3) (w : BitVec 7) (r k : BitVec 4) (x y p : BitVec 1) (s : State) : Out :=
  issue (matrixForm (assemble 0xC0000000 [(a.toNat, 20), (w.toNat, 13), (r.toNat, 9), (k.toNat, 5), (x.toNat, 4), (y.toNat, 3), (p.toNat, 2)]) (.of a w r k x y p) s) (matrixWord (assemble 0xC0000000 [(a.toNat, 20), (w.toNat, 13), (r.toNat, 9), (k.toNat, 5), (x.toNat, 4), (y.toNat, 3), (p.toNat, 2)])) s

def execMmac (a : BitVec 3) (w : BitVec 7) (r k : BitVec 4) (x y p : BitVec 1) (s : State) : Out :=
  issue (matrixForm (assemble 0xC0800000 [(a.toNat, 20), (w.toNat, 13), (r.toNat, 9), (k.toNat, 5), (x.toNat, 4), (y.toNat, 3), (p.toNat, 2)]) (.of a w r k x y p) s) (matrixWord (assemble 0xC0800000 [(a.toNat, 20), (w.toNat, 13), (r.toNat, 9), (k.toNat, 5), (x.toNat, 4), (y.toNat, 3), (p.toNat, 2)])) s

/-- The fields of the latched word. -/
def latchedWord (x : W32) : MatrixWord :=
  { acc := slice x 22 20, plane := slice x 19 13, tray := slice x 12 9, kcnt := slice x 8 5 + 1, t := bit x 4, s := bit x 3,
    p := bit x 2 }

/-- R175: the rendezvous completes when all have joined and the array's queue of 4 unstarted operations has room: the operation
is forked, and counts once among the unsealed matrix operations of each member. -/
def State.rendezvous (block : Nat) (s : State) : State :=
  match s.block? block with
  | none => s
  | some b => match b.latch with
    | none => s
    | some l =>
      let slots := gangSlots l.gang
      let waiting := (s.mxops.filter (fun m => !m.started && !m.done && ((s.block? m.block).map (fun c => c.core == b.core)).getD false)).length
      if ¬ slots.all l.joined.contains then s
      else if 4 ≤ waiting then s.due acTicks (.gangRendezvous block)
      else
        let members := ((s.strandsOf block).filter (fun t => slots.contains t.slot)).map (·.id)
        let (op, s1) := s.fresh
        let w := latchedWord l.word
        let m : MxOp :=
          { id := op, block := block, members := members, mmac := bit l.word 23, acc := w.acc, plane := w.plane, tray := w.tray,
            kcnt := w.kcnt, t := w.t, s := w.s, p := w.p, started := false, next := 0, drained := 0, queues := [],
            arrivals := [], rovf := [], fault := none, issuedAt := s.now, done := false }
        (({ s1 with mxops := s1.mxops ++ [m] }.mapBlock block (fun b => { b with latch := none })).mapStrands
          (fun t => members.contains t.id) (fun t => { t with mx := t.mx.fork op 0, wait := .released })).due 0 (.matrixOpStart op)

def execGangRendezvous (block : Nat) (s : State) : Out := stepOf (fun s => s.rendezvous block) s

/-! ## Accumulator tiles (09 R178, 08 R167, R170 to R172) -/

/-- R167: an operation that the block has issued and that names the tile is not complete. -/
def State.tileBusy (a : BitVec 3) (s : State) : Bool :=
  s.mxops.any (fun m => decide (m.block = s.blk.id) && decide (m.acc = a.toNat) && !m.done)

def State.tile (s : State) (a : BitVec 3) : Tile := s.blk.tiles[a.toNat]?.getD .init

def tileUnits (a : BitVec 3) (s : State) : Bool := decide (a.toNat < s.blk.tiles.length)

/-- Waits as R167 states, with reason 10. -/
def onTile (a : BitVec 3) (k : State → Result) (s : State) : Result := if s.tileBusy a then .stall 10 s else k s

/-- R172: active lanes that read a poisoned element halt the strand. -/
def readLanes (a : BitVec 3) (r : BitVec 4) (g : BitVec 2) (k : State → Result) (s : State) : Result :=
  let bad := maskOf (fun L => bit s.active L && (s.tile a).poison.contains (128 * r.toNat + 32 * g.toNat + L))
  if bad = 0 then k s else .ended (s.halt (s.trapAll .poison 0 0))

def State.readElem (s : State) (a : BitVec 3) (r : BitVec 4) (g : BitVec 2) (L : Nat) : Elem :=
  (s.tile a).elem (128 * r.toNat + 32 * g.toNat + L)

/-- R170: S x 2^(G - 19) x scale, rounded once. -/
def readOut (g : BitVec 10) (scale : W32) (e : Elem) : W32 :=
  if e.nan then 0x7FC00000#32
  else toF32 rne (match FVal.ofInt e.sum with
    | .fin n m _ => (FVal.fin n m (g.toInt - 19)).mul (f32 scale)
    | v => v)

def execAread (d : BitVec 7) (a : BitVec 3) (r : BitVec 4) (g : BitVec 2) (s1 : BitVec 6) (s : State) : Out :=
  issue { vecScalarForm (assemble 0xC4000000 [(d.toNat, 15), (a.toNat, 12), (r.toNat, 8), (g.toNat, 6), (s1.toNat, 0)]) [] [d] [s1] [] 12 true false with fixed := false, units := tileUnits a s }
    (onTile a (readLanes a r g (fun s =>
      s.putLanes d (Vec.tab (fun L => readOut (s.tile a).g ((s.sreg s1).setWidth 32) (s.readElem a r g L)))))) s

/-- R171: A in vd; Rw and the flags in vd + 1. -/
def execAreadRaw (d : BitVec 7) (a : BitVec 3) (r : BitVec 4) (g : BitVec 2) (s : State) : Out :=
  issue { vecScalarForm (assemble 0xC4400000 [(d.toNat, 15), (a.toNat, 12), (r.toNat, 8), (g.toNat, 6)]) [] (if d.toNat < 63 then [d, d + 1] else [d]) [] [] 12 (!isChan d) false with
          fixed := false, units := tileUnits a s && decide (d.toNat < 63) }
    (onTile a (readLanes a r g (fun s =>
      let e (L : Nat) : Elem := s.readElem a r g L
      .done ((s.setV d s.active (Vec.tab (fun L => (e L).a.signExtend 32))).setV (d + 1) s.active (Vec.tab (fun L =>
        BitVec.ofNat 32 ((e L).rw.toNat + (if (e L).nan then 2 ^ 16 else 0) + (if (e L).ru then 2 ^ 17 else 0)))))))) s

def tileForm (word : W32) (a : BitVec 3) (rs ws : List (BitVec 6)) (s : State) (ok : Bool := true) : Form :=
  { word := word, ok := ok, units := tileUnits a s, use := { sr := rs, sw := ws }, lat := 8, fixed := false }

/-- A change of a tile. -/
def setTile (a : BitVec 3) (f : Tile → Tile) (s : State) : Result := .done (s.mapBlk (fun b => updTile b a.toNat f))

def execAzero (a : BitVec 3) (s : State) : Out :=
  issue (tileForm (assemble 0xC4800000 [(a.toNat, 12)]) a [] [] s) (onTile a (setTile a (fun t => { t with elems := [], poison := [], rcount := 0 }))) s

def execAanchor (a : BitVec 3) (s1 : BitVec 6) (s : State) : Out :=
  issue (tileForm (assemble 0xC4C00000 [(a.toNat, 12), (s1.toNat, 0)]) a [s1] [] s) (onTile a (fun s =>
    setTile a (fun t => { t with g := (s.sreg s1).setWidth 10 }) s)) s

def execArange (a : BitVec 3) (e : BitVec 6) (s : State) : Out :=
  issue (tileForm (assemble 0xC5000000 [(a.toNat, 12), (e.toNat, 0)]) a [] [] s (decide (e.toNat ∈ [20, 24, 28, 32, 36, 41])))
    (onTile a (setTile a (fun t => { t with d := e.toNat }))) s

def Tile.status (t : Tile) : W64 :=
  BitVec.ofNat 64 ((if t.poison ≠ [] then 2 ^ 50 else 0) + (if t.elems.any (fun e => e.2.ru) then 2 ^ 49 else 0)
    + (if t.elems.any (fun e => e.2.nan) then 2 ^ 48 else 0) + t.d % 64 * 2 ^ 42 + t.g.toNat * 2 ^ 32 + t.rcount.toNat)

def execAstat (d : BitVec 6) (a : BitVec 3) (s : State) : Out :=
  issue (tileForm (assemble 0xC5400000 [(d.toNat, 15), (a.toNat, 12)]) a [] [d] s) (onTile a (fun s => .done (s.setS d (s.tile a).status))) s

/-! ## Gang registers (09 R181) -/

def execGangset (a : BitVec 6) (s : State) : Out :=
  issue { word := (assemble 0xCC000000 [(a.toNat, 16)]), use := { sr := [a] } } (fun s =>
    .done (s.mapMe (fun t => { t with gang := (s.sreg a).setWidth 32 }))) s

def execGangclr (s : State) : Out :=
  issue (plainForm (assemble 0xCC400000 [])) (fun s => .done (s.mapMe (fun t => { t with gang := 0 }))) s

end Sys2Proof.Machine
end

