-- ==== Sys2Proof/Machine/Tray.lean ====
section
/-!
DEFINITION. Sys2Proof/Machine/Tray.lean: tray descriptors and the tray instructions (07 R138 to R140, 09 R190 to R192).
-/

namespace Sys2Proof.Machine

/-! ## Tray descriptors (R190) -/

/-- The offset of the first field of a descriptor that breaks its range, in a window of `size` bytes. -/
def trayCheck (bs : List Byte) (size : Nat) : Option Nat :=
  let base := recField bs 0 4
  let slot := recField bs 4 4
  let nslot := recField bs 8 1
  let atype := recField bs 9 1
  let tests : List (Bool × Nat) :=
    [(decide (base % 128 ≠ 0 ∨ size < base + nslot * slot), 0),
     (decide (slot % 128 ≠ 0 ∨ slot < 128 ∨ 2 ^ 18 < slot), 4),
     (decide (nslot < 1 ∨ 32 < nslot), 8),
     (decide (4 < atype), 9),
     (decide (atype = 0) && !formatOk (BitVec.ofNat 16 (recField bs 10 2)), 10),
     (decide (2 < recField bs 12 1), 12),
     (decide (2 ≤ recField bs 13 1), 13)]
  (tests.find? (·.1)).map (·.2)

/-- The tray that a descriptor describes, empty, with a generation (R138). -/
def Tray.ofDesc (bs : List Byte) (gen : BitVec 16) (unit : Nat) : Tray :=
  let n := recField bs 8 1
  { base := recField bs 0 4, slot := recField bs 4 4, nslot := n, atype := recField bs 9 1,
    afmt := BitVec.ofNat 16 (recField bs 10 2), scale := recField bs 12 1, stream := decide (recField bs 13 1 = 1),
    kslot := recField bs 14 2, layout := BitVec.ofNat 64 (recField bs 16 8), step := recField bs 24 4,
    count := recField bs 28 4, head := 0, tail := 0, free := n, res := 0, filled := 0, landed := [], gen := gen, fetched := 0,
    unit := unit }

/-- A layout that no record has given yet. -/
def Layout.empty : Layout :=
  { base := 0, gfmt := 0, gtype := 3, ctype := 3, cfmt := 0, rnd := 0, block := 0, compute := false, seed := 0, ndim := 1,
    kdim := 0, ext := [], stride := [], box := [], pad := 0, sbase := 0, cpitch := 0, cpitch2 := 0 }

/-- R190: the standing fetch of a streamed tray, by the copy engine alone; it belongs to no strand's batches. -/
def State.startStream (b : Block) (priv t : Nat) (s : State) : State :=
  let (op, s1) := s.fresh
  let c : CopyOp :=
       { id := op, kind := .cpg, strand := 0, block := b.id, core := b.core, vd := b.vd, priv := priv, lay := .empty,
         origin := [], side := .tray t, desc := 0, bar := none, arr := false, gen := none, cw := none, next := 0, bytes := 0,
         status := 0, tval := 0, taddr := 0, slot := none, decided := [], stream := true, issuedAt := s.now, waiting := none,
         finished := false, rawn := 0, remote := [], remoteEnd := none, cross := false }
  { s1 with copies := s1.copies ++ [c] }.due 0 (.trayReserve op)

/-! ## What holds a tray (R190, R191) -/

/-- 11 R204: how many decisions a copy has to wait for: one for each position of `cpm`, else that of R186's generation check. -/
def CopyOp.places (c : CopyOp) : Nat := if c.kind = .cpm then (slice c.desc 57 56 + 1) * (slice c.desc 55 55 + 1) else 1

/-- Whether positions of `cpm` are still to be decided. -/
def CopyOp.undecided (c : CopyOp) : Bool := decide (c.kind = .cpm) && decide (c.decided.length < c.places)

/-- A copy that may land in tray t of a block: one of the block's own, or a multicast that the block has accepted. -/
def CopyOp.fills (b t : Nat) (c : CopyOp) : Bool :=
  decide (c.side = CoreSide.tray t) && !c.finished
    && ((decide (c.block = b) && !c.stream && decide (c.kind ≠ .cpm))
        || (decide (c.block = b) && c.stream && c.slot.isSome)
        || c.decided.any (fun d => match d with
            | .accept k _ => decide (k = b)
            | .refuse _ => false)
        || (c.undecided && decide (c.block = b)))

/-- Whether a matrix operation of the block that reads the tray is outstanding. -/
def State.trayRead (b t : Nat) (s : State) : Bool := s.mxops.any (fun m => decide (m.block = b ∧ m.tray = t) && !m.done)

/-! ## The instructions -/

def State.tray (s : State) (t : BitVec 4) : Tray := s.blk.trays[t.toNat]?.getD .init

def trayForm (word : W32) (t : BitVec 4) (s : State) : Form :=
  { word := word, units := decide (t.toNat < s.blk.trays.length) }

/-- R193, R190: a local address of the own window: MISALIGNED, then PERMISSION. -/
def ownLocal (ea : W64) (align size : Nat) (k : Nat → State → Result) (s : State) : Result :=
  if ea.toNat % align ≠ 0 then .trap (s.trapAll .misaligned 0 ea) s
  else match s.localRef ea size false with
    | some (.own off) => k off s
    | _ => .trap (s.trapAll .permission 0 ea) s

/-- R190: waits until nothing fills or reads the tray; then the descriptor is checked, and the tray is empty with the next
generation. -/
def execTinit (t : BitVec 4) (s1 : BitVec 6) (s : State) : Out :=
  issue { trayForm (assemble 0xD4000000 [(t.toNat, 18), (s1.toNat, 12)]) t s with use := { sr := [s1] } } (fun s =>
    ownLocal (s.sreg s1) 32 32 (fun off s =>
      if s.copies.any (CopyOp.fills s.blk.id t.toNat) ∨ s.trayRead s.blk.id t.toNat then .stall 6 s
      else
        let bs := s.blk.readWindow off 32
        match trayCheck bs s.blk.windowSize with
        | some k => .trap (s.trapAll .format (BitVec.ofNat 64 (0x10000 + k)) 0) s
        | none =>
          let new := Tray.ofDesc bs ((s.tray t).gen + 1) (s.tray t).unit
          let s1 := { s with copies := s.copies.filter (fun c => !(c.stream && decide (c.block = s.blk.id ∧ c.side = CoreSide.tray t.toNat))) }
          let s2 := s1.mapBlk (fun b => updTray b t.toNat (fun _ => new))
          .done (if new.stream then s2.startStream s2.blk s2.me.priv t.toNat else s2)) s) s

/-- R139, R192: a slot is filled; what has landed in it is read after it. -/
def execTwait (t : BitVec 4) (s : State) : Out :=
  issue (trayForm (assemble 0xD4400000 [(t.toNat, 18)]) t s) (fun s =>
    if (s.tray t).filled = 0 then .stall 6 s else .done (s.refresh 1)) s

/-- R139, 14 R256: a release at core scope: the slot is freed after the strand's earlier accesses. -/
def execTpop (t : BitVec 4) (s : State) : Out :=
  issue (trayForm (assemble 0xD4800000 [(t.toNat, 18)]) t s) (fun s =>
    if s.trayRead s.blk.id t.toNat ∨ (s.tray t).filled = 0 then .stall 6 s
    else if ¬ s.canPublish 1 then .stall 4 s
    else .done (s.mapBlk (fun b => updTray b t.toNat Tray.pop))) s

def Tray.word (t : Tray) : W64 :=
  BitVec.ofNat 64 (t.filled + t.free * 2 ^ 8 + t.head * 2 ^ 16 + t.tail * 2 ^ 24 + t.gen.toNat * 2 ^ 32)

def execTfilled (t : BitVec 4) (d : BitVec 6) (s : State) : Out :=
  issue { trayForm (assemble 0xD4C00000 [(t.toNat, 18), (d.toNat, 12)]) t s with use := { sw := [d] }, lat := 4, fixed := false } (fun s => .done (s.setS d (s.tray t).word)) s

/-- R139, 14 R248: a release at core scope; slot T is reserved and landed in one step; into a streamed tray it is ILLEGAL (R190). -/
def execTcommit (t : BitVec 4) (s : State) : Out :=
  issue { trayForm (assemble 0xD5000000 [(t.toNat, 18)]) t s with units := decide (t.toNat < s.blk.trays.length) && !(s.tray t).stream } (fun s =>
    if (s.tray t).free = 0 then .stall 6 s
    else if ¬ s.canPublish 1 then .stall 4 s
    else
      let (k, t1) := (s.tray t).reserve
      .done ((s.mapBlk (fun b => updTray b t.toNat (fun _ => t1.land k))).trayWoken s.blk.id)) s

end Sys2Proof.Machine
end

