-- ==== Sys2Proof/Machine/Barrier.lean ====
section
/-!
DEFINITION. Sys2Proof/Machine/Barrier.lean: phase-bit barriers, block barriers and the cluster barrier (07 R141 to R145, 09 R193, 11
R201).

A waiting strand looks again at each try: it finds itself released, ended by the time-out, or abandoned by a strand that has
halted (02 R56).
-/

namespace Sys2Proof.Machine

/-! ## Phase-bit barriers (R193) -/

def barForm (word : W32) (rs : List (BitVec 6)) : Form := { word := word, use := { sr := rs } }

def execBarinit (a b : BitVec 6) (s : State) : Out :=
  issue (barForm (assemble 0xD8000000 [(a.toNat, 12), (b.toNat, 6)]) [a, b]) (fun s =>
    ownLocal (s.sreg a) 8 8 (fun off s =>
      let n := (s.sreg b).toNat
      if n < 1 ∨ 65535 < n then .trap (s.trapAll .illegal (BitVec.setWidth 64 ((assemble 0xD8000000 [(a.toNat, 12), (b.toNat, 6)]) : W32)) 0) s
      else
        let w : BarWord := { round := 0, xfer := 0, pend := n, exp := n }
        .done (s.mapBlk (fun b => { b.writeWindow off (natBytes 8 w.word.toNat) with rounds := b.rounds.filter (fun r => r.off != off) }))) s) s

/-- R193: an update of the own window's barrier, a release at core scope; or of a peer's, a release at cluster scope. -/
def updateBarrier (ea : W64) (e : BarEvent) (s : State) : Result :=
  if ea.toNat % 8 ≠ 0 then .trap (s.trapAll .misaligned 0 ea) s
  else match s.localRef ea 8 true with
    | none => .trap (s.trapAll .permission 0 ea) s
    | some (.own off) => if s.canPublish 1 then .done (s.updateBarrierAt (.own off) e) else .stall 4 s
    | some r => if s.canPublish 2 then .done ((s.publish 2).updateBarrierAt r e) else .stall 4 s

def execBararr (a : BitVec 6) (s : State) : Out :=
  issue (barForm (assemble 0xD8400000 [(a.toNat, 12)]) [a]) (fun s => updateBarrier (s.sreg a) .arrive s) s

def execBarexp (a b : BitVec 6) (s : State) : Out :=
  issue (barForm (assemble 0xD8C00000 [(a.toNat, 12), (b.toNat, 6)]) [a, b]) (fun s => updateBarrier (s.sreg a) (.expect (s.sreg b).toNat) s) s

/-- 02 R56: whether a strand of the block that takes part in its block barriers, so no handler strand (12 R224), has halted. -/
def State.partnerHalted (s : State) : Bool := (s.strandsOf s.me.block).any (fun t => decide (t.run = .halted) && !t.handler)

/-- 02 R56: whether a strand of the block, which could have arrived at a phase-bit barrier, has halted. -/
def State.siblingHalted (s : State) : Bool := (s.strandsOf s.me.block).any (fun t => decide (t.run = .halted))

/-- R193, 14 R248, R253: an acquire at core scope; where copies ended the round, at the scope of their destinations. -/
def execBarwait (a b : BitVec 6) (s : State) : Out :=
  issue (barForm (assemble 0xD8800000 [(a.toNat, 12), (b.toNat, 6)]) [a, b]) (fun s =>
    ownLocal (s.sreg a) 8 8 (fun off s =>
      let w := BarWord.of (s.blk.dword off)
      if w.abandoned then .trap (s.trapAll .abandoned 0 0) s
      else if w.round ≠ slice (s.sreg b) 7 0 then .done (s.refresh (s.blk.roundScope off (slice (s.sreg b) 7 0)))
      else if s.siblingHalted then .trap (s.trapAll .abandoned 0 0) s
      else .stall 8 s) s) s

/-! ## Block barriers (07 R144, R145) -/

def updBarrier (b : Block) (k : Nat) (f : Barrier → Barrier) : Block := { b with barriers := updAt b.barriers k f }

def without (l : List Nat) (x : Nat) : List Nat := l.filter (fun y => y != x)

/-- Whether every strand of the block has arrived; one that has exited counts, and handler strands take no part (12 R224). -/
def State.allArrived (s : State) (block : Nat) (r : Barrier) : Bool :=
  (s.strandsOf block).all (fun t => r.arrived.contains t.slot || decide (t.run = .exited) || t.handler)

/-- A strand that stands at the barrier: released, timed out, abandoned, the last to arrive, or waiting (reason 9). -/
def atBlockBarrier (k : Nat) (s : State) : Result :=
  let r := s.blk.barriers[k]?.getD .init
  let me := s.me.slot
  let leave (s : State) : State := s.mapMe (fun t => { t with wait := .none })
  if r.released.contains me then
    .done ((leave (s.mapBlk (fun b => updBarrier b k (fun r => { r with released := without r.released me })))).refresh 0)
  else if r.timedOut.contains me then
    .trap (s.trapAll .barrierTimeout (BitVec.ofNat 64 k) 0)
      (s.mapBlk (fun b => updBarrier b k (fun r => { r with timedOut := without r.timedOut me })))
  else if s.partnerHalted then
    .trap (s.trapAll .abandoned 0 0) (s.mapBlk (fun b => updBarrier b k (fun r => { r with arrived := without r.arrived me })))
  else if s.allArrived s.me.block r then
    .done (((leave (s.mapBlk (fun b => updBarrier b k (fun r =>
      { r with arrived := [], firstAt := none, released := r.released ++ without r.arrived me })))).undue
        (.blockBarrierTimeout s.blk.id k)).barrierReleased s.blk.id |>.refresh 0)
  else .stall 9 s

/-- R144: an arrival; the first of a phase starts the time-out. -/
def State.arriveBlock (k : Nat) (s : State) : State :=
  let r := s.blk.barriers[k]?.getD .init
  let s1 := (s.mapBlk (fun b => updBarrier b k (fun r =>
    { r with arrived := setInsert r.arrived s.me.slot, firstAt := some (r.firstAt.getD s.now) }))).mapMe
      (fun t => { t with wait := .blockBarrier k })
  if r.firstAt.isNone then s1.dueOnce (s.blk.timeout * acTicks) (.blockBarrierTimeout s.blk.id k) else s1

/-- 07 R144, 14 R248, R249: a release at block scope, the arrival, the wait, an acquire at block scope. -/
def execBarsync (b : BitVec 4) (s : State) : Out :=
  issue { word := (assemble 0xD9000000 [(b.toNat, 18)]), units := decide (b.toNat < s.blk.barriers.length) && !s.me.handler } (fun s =>
    if s.me.wait = .blockBarrier b.toNat then atBlockBarrier b.toNat s
    else if s.canPublish 0 then atBlockBarrier b.toNat (s.arriveBlock b.toNat)
    else .stall 4 s) s

/-- R145: the words of a record that name the missing strands. -/
def missingWords (ts : List Strand) : List W64 :=
  ts.flatMap (fun t => [BitVec.ofNat 64 (t.m0.toNat * 2 ^ 32 + t.slot % 32), t.pc])

/-- 21 R348, R350: whether a debugger holds the block: a strand of it is stopped, or makes one step. -/
def State.debugHeld (s : State) (b : Block) : Bool :=
  (s.strandsOf b.id).any (fun t => decide (t.run = .stopped) || (decide (t.run = .running) && t.stepping))

/-- Whether the time of a barrier of a block runs: neither evicted, nor held by a debugger, nor drained (07 R150, 11 R210, 21 R348). -/
def State.clockRuns (s : State) (b : Block) : Bool := decide (b.phase = .running) && !s.debugHeld b && s.clusterIssues b.core

/-- R145: the phase has not been released within T: its waiters trap, one record is posted. -/
def State.endBlockPhase (block k : Nat) (s : State) : State :=
  match s.block? block with
  | none => s
  | some b => match b.barriers[k]? with
    | none => s
    | some r => match r.firstAt with
      | none => s
      | some t0 =>
        if ¬ s.clockRuns b ∨ s.allArrived block r then s
        else if s.now < t0 + b.timeout * acTicks then
          s.dueOnce (t0 + b.timeout * acTicks - s.now) (.blockBarrierTimeout block k)
        else
          let missing := (s.strandsOf block).filter (fun t => decide (t.run = .running) && !t.handler && !r.arrived.contains t.slot)
          (s.mapBlock block (fun b => updBarrier b k (fun r =>
            { r with arrived := [], firstAt := none, timedOut := r.timedOut ++ r.arrived }))).postFault b.vd
              (recordWord (s.placeOf b.vd b.core) b.index k (2 * missing.length) 0x83 :: missingWords missing)

def execBlockBarrierTimeout (block b : Nat) (s : State) : Out := stepOf (fun s => s.endBlockPhase block b) s

/-! ## The cluster barrier (11 R201) -/

/-- The blocks of a group that are resident. -/
def State.groupBlocks (s : State) (group : Nat) : List Block := s.allBlocks.filter (fun b => b.group == group)

/-- The strands of the group's blocks. -/
def State.groupStrands (s : State) (group : Nat) : List Strand := (s.groupBlocks group).flatMap (fun b => s.strandsOf b.id)

def GroupBarrier.init (group : Nat) : GroupBarrier :=
  { group := group, arrived := [], firstAt := none, stoppedAt := none, released := [], timedOut := [], halted := false }

def State.groupBar (s : State) (group : Nat) : GroupBarrier := (s.groupBars.find? (fun g => g.group == group)).getD (.init group)

def State.mapGroupBar (group : Nat) (f : GroupBarrier → GroupBarrier) (s : State) : State :=
  if s.groupBars.any (fun g => g.group == group) then { s with groupBars := updIf (fun g => g.group == group) f s.groupBars }
  else { s with groupBars := s.groupBars ++ [f (.init group)] }

def State.groupHalted (s : State) (group : Nat) : Bool :=
  (s.groupBar group).halted || (s.groupStrands group).any (fun t => decide (t.run = .halted) && !t.handler)

def State.groupArrived (s : State) (g : GroupBarrier) : Bool :=
  (s.groupStrands g.group).all (fun t => g.arrived.contains t.id || decide (t.run = .exited) || t.handler)

/-- A strand that stands at the cluster barrier.  Its release is no wake event (03 R75) and restores no demoted strand (07 R133). -/
def atClusterBarrier (s : State) : Result :=
  let g := s.groupBar s.blk.group
  let me := s.me.id
  let upd (f : GroupBarrier → GroupBarrier) : State := s.mapGroupBar s.blk.group f
  let leave (s : State) : State := s.mapMe (fun t => { t with wait := .none })
  if g.released.contains me then
    .done ((leave (upd (fun g => { g with released := without g.released me }))).refresh 2)
  else if g.timedOut.contains me then
    .trap (s.trapAll .barrierTimeout 16 0) (upd (fun g => { g with timedOut := without g.timedOut me }))
  else if s.groupHalted s.blk.group then
    .trap (s.trapAll .abandoned 0 0) (upd (fun g => { g with arrived := without g.arrived me }))
  else if s.groupArrived g then
    let s1 := (leave (upd (fun g => { g with arrived := [], firstAt := none, released := g.released ++ without g.arrived me }))).undue
      (.clusterBarrierTimeout s.blk.group)
    .done (s1.refresh 2)
  else .stall 9 s

def State.arriveCluster (s : State) : State :=
  let g := s.groupBar s.blk.group
  let s1 := (s.mapGroupBar s.blk.group (fun g =>
    { g with arrived := setInsert g.arrived s.me.id, firstAt := some (g.firstAt.getD s.now),
             stoppedAt := if g.firstAt.isSome then g.stoppedAt else if (s.groupBlocks g.group).all s.clockRuns then none else some s.now })).mapMe
      (fun t => { t with wait := .clusterBarrier })
  if g.firstAt.isNone then s1.dueOnce (s.blk.timeout * acTicks) (.clusterBarrierTimeout s.blk.group) else s1

/-- R201: `pub.clus`, the arrival, the wait with reason 9, `acq.clus`. -/
def execCbarsync (s : State) : Out :=
  issue { plainForm (assemble 0xD9400000 []) with units := !s.me.handler } (fun s =>
    if s.me.wait = .clusterBarrier then atClusterBarrier s
    else if s.canPublish 2 then atClusterBarrier (s.publish 2).arriveCluster
    else .stall 4 s) s

/-- R201: the time-out: every waiting strand of the group traps; each core with missing strands posts one record. -/
def State.endClusterPhase (group : Nat) (s : State) : State :=
  let g := s.groupBar group
  match g.firstAt, (s.groupBlocks group).head? with
  | some t0, some b =>
    if ¬ (s.groupBlocks group).all s.clockRuns ∨ s.groupArrived g then s
    else if s.now < t0 + b.timeout * acTicks then s.dueOnce (t0 + b.timeout * acTicks - s.now) (.clusterBarrierTimeout group)
    else
      let s1 := s.mapGroupBar group (fun g => { g with arrived := [], firstAt := none, timedOut := g.timedOut ++ g.arrived })
      (s.groupBlocks group).foldl (fun s b =>
        let missing := (s.strandsOf b.id).filter (fun t => decide (t.run = .running) && !t.handler && !g.arrived.contains t.id)
        if missing = [] then s
        else s.postFault b.vd (recordWord (s.placeOf b.vd b.core) b.index 0 (2 * missing.length) 0x84 :: missingWords missing)) s1
  | _, _ => s

def execClusterBarrierTimeout (group : Nat) (s : State) : Out := stepOf (fun s => s.endClusterPhase group) s

/-- 11 R201, R210: the clock of a group's barrier stands still from the time when the first of its blocks stops. -/
def State.holdGroupClock (group : Nat) (s : State) : State :=
  { s with groupBars := updIf (fun g => g.group == group) (fun g => { g with stoppedAt := some (g.stoppedAt.getD s.now) }) s.groupBars }

/-- A clock that stood still since `from_` goes on from where it stood; that of a phase which began meanwhile, in a step, starts now. -/
def clockAgain (now from_ start : Nat) : Nat := now - (from_ - start)

/-- It goes on once all of them run; the time between does not count. -/
def State.resumeGroupClock (group : Nat) (s : State) : State :=
  match (s.groupBar group).stoppedAt, (s.groupBlocks group).head? with
  | some t, some b =>
    if ¬ (s.groupBlocks group).all s.clockRuns then s
    else
      let s1 := s.mapGroupBar group (fun g => { g with stoppedAt := none, firstAt := g.firstAt.map (clockAgain s.now t) })
      match (s1.groupBar group).firstAt with
      | some a => (s1.undue (.clusterBarrierTimeout group)).due (a + b.timeout * acTicks - s.now) (.clusterBarrierTimeout group)
      | none => s1
  | _, _ => s

/-- 07 R150, 11 R210, 21 R348: the clocks of a block's barriers, and of its group's, stand still from now on, or from an earlier stop. -/
def State.holdClocks (block : Nat) (s : State) : State :=
  match s.block? block with
  | none => s
  | some b => (s.mapBlock block (fun b => { b with frozenAt := if b.frozenAt = 0 then s.now else b.frozenAt })).holdGroupClock b.group

/-- They go on once nothing holds the block: the time between does not count. -/
def State.resumeClocks (block : Nat) (s : State) : State :=
  match s.block? block with
  | none => s
  | some b =>
    if ¬ s.clockRuns b then s
    else if b.frozenAt = 0 then s.resumeGroupClock b.group
    else
      let s1 := s.mapBlock block (fun b => { b with frozenAt := 0, barriers := b.barriers.map (fun r =>
        { r with firstAt := r.firstAt.map (clockAgain s.now b.frozenAt) }) })
      let s2 := (b.barriers.zipIdx).foldl (fun s e => match e.1.firstAt with
        | some t => (s.undue (.blockBarrierTimeout block e.2)).due (b.timeout * acTicks - (b.frozenAt - t)) (.blockBarrierTimeout block e.2)
        | none => s) s1
      s2.resumeGroupClock b.group

end Sys2Proof.Machine
end

