-- ==== Sys2Proof/Machine/Channel.lean ====
section
/-!
DEFINITION. Sys2Proof/Machine/Channel.lean: binding, closing and reading the length of channels (07 R137, 09 R194).
-/

namespace Sys2Proof.Machine

/-- R194, 07 R129: a channel number beyond the block's traps CHANNEL with the number. -/
def onChannel (c : BitVec 6) (k : Channel → State → Result) (s : State) : Result :=
  match s.blk.channels[c.toNat]? with
  | none => .trap (s.trapAll .channel (c.setWidth 64) 0) s
  | some ch => k ch s

/-- An end that is bound to another slot and not closed. -/
def endTaken (slot : Nat) (e : Option Nat) (closed : Bool) : Bool := !closed && e.isSome && decide (e ≠ some slot)

def execChbind (c s1 : BitVec 6) (s : State) : Out :=
  issue { word := (assemble 0xDC000000 [(c.toNat, 16), (s1.toNat, 10)]), use := { sr := [s1] } } (onChannel c (fun ch s =>
    let x := s.sreg s1
    let me := s.me.slot
    if slice x 63 1 ≠ 0 then .trap (s.trapAll .illegal (BitVec.setWidth 64 ((assemble 0xDC000000 [(c.toNat, 16), (s1.toNat, 10)]) : W32)) 0) s
    else if bit x 0 then
      if endTaken me ch.writer ch.writerClosed then .trap (s.trapAll .channel (c.setWidth 64) 0) s
      else .done (s.mapBlk (fun b => updChan b c.toNat (fun ch => { ch with writer := some me, writerClosed := false })))
    else if endTaken me ch.reader ch.readerClosed then .trap (s.trapAll .channel (c.setWidth 64) 0) s
    else .done (s.mapBlk (fun b => updChan b c.toNat (fun ch => { ch with reader := some me, readerClosed := false }))))) s

/-- R194: releases every end that the slot holds; the entries stay. -/
def execChclose (c : BitVec 6) (s : State) : Out :=
  issue (plainForm (assemble 0xDC400000 [(c.toNat, 16)])) (onChannel c (fun _ s =>
    let me := some s.me.slot
    .done (s.mapBlk (fun b => updChan b c.toNat (fun ch =>
      { ch with
        reader := if ch.reader = me then none else ch.reader, readerClosed := ch.readerClosed || decide (ch.reader = me),
        writer := if ch.writer = me then none else ch.writer, writerClosed := ch.writerClosed || decide (ch.writer = me) }))))) s

def execChlen (c d : BitVec 6) (s : State) : Out :=
  issue { word := (assemble 0xDC800000 [(c.toNat, 16), (d.toNat, 10)]), use := { sw := [d] }, lat := 4, fixed := false } (onChannel c (fun ch s =>
    .done (s.setS d (BitVec.ofNat 64 ch.entries.length)))) s

end Sys2Proof.Machine
end

