-- ==== Sys2Proof/Machine/CopyFormat.lean ====
section
/-!
DEFINITION. Sys2Proof/Machine/CopyFormat.lean: layout records, the places of a copy's elements, conversions (08 R153, 09 R182, R183,
R186, R187).
-/

namespace Sys2Proof.Machine

/-! ## Layout records (R182, R183) -/

def Layout.of (bs : List Byte) : Layout :=
  { base := BitVec.ofNat 64 (recField bs 0 8), gfmt := BitVec.ofNat 16 (recField bs 8 2), gtype := recField bs 10 1,
    ctype := recField bs 11 1, cfmt := BitVec.ofNat 16 (recField bs 12 2), rnd := recField bs 14 1,
    block := recField bs 15 1 % 4, compute := decide (recField bs 15 1 / 4 % 2 = 1), seed := BitVec.ofNat 32 (recField bs 16 4),
    ndim := recField bs 20 1, kdim := recField bs 21 1, ext := (List.range 5).map (fun d => recField bs (24 + 4 * d) 4),
    stride := (List.range 4).map (fun d => BitVec.ofNat 64 (recField bs (48 + 8 * d) 8)),
    box := (List.range 5).map (fun d => recField bs (80 + 2 * d) 2), pad := BitVec.ofNat 32 (recField bs 92 4),
    sbase := BitVec.ofNat 64 (recField bs 96 8), cpitch := recField bs 104 4, cpitch2 := recField bs 108 4 }

def Layout.gBits (l : Layout) : Nat := containerBits l.gtype l.gfmt
def Layout.cBits (l : Layout) : Nat := containerBits l.ctype l.cfmt
def Layout.total (l : Layout) : Nat := l.box.foldl (fun n k => n * k) 1

/-- R183: the TVAL of the first offending field of a record, in record order, or of one of the three conditions that belong to
no field. -/
def Layout.check (bs : List Byte) (origin : List Int) (l : Layout) : Option Nat :=
  let dim (f : List Nat) (d : Nat) : Bool :=
    if d < l.ndim then decide (f[d]?.getD 0 = 0) else decide (f[d]?.getD 0 ≠ 1)
  let g4 := decide (l.gtype = 0) && formatOk l.gfmt && decide (l.gBits = 4)
  let at_ (k : Nat) : Int := origin[k]?.getD 0
  let blk : Int := blockSize l.block
  let tests : List (Bool × Nat) :=
    [(decide (slice l.base 63 56 ≠ 0), 0x10000),
     (decide (l.gtype = 0) && !formatOk l.gfmt, l.gfmt.toNat),
     (decide (4 < l.gtype), 0x1000A),
     (decide (4 < l.ctype), 0x1000B),
     (decide (l.ctype = 0) && !formatOk l.cfmt, l.cfmt.toNat),
     (decide (4 < l.rnd), 0x1000E),
     (decide (l.block = 3 ∨ 8 ≤ recField bs 15 1), 0x1000F),
     (decide (l.ndim < 1 ∨ 5 < l.ndim), 0x10014),
     (decide (l.ndim ≤ l.kdim), 0x10015),
     (decide (recField bs 22 2 ≠ 0), 0x10016)]
    ++ (List.range 5).map (fun d => (dim l.ext d, 0x10018 + 4 * d))
    ++ [(decide (recField bs 44 4 ≠ 0), 0x1002C),
        (g4 && decide ((l.box.headD 0) % 2 = 1), 0x10050)]
    ++ (List.range 5).map (fun d => (dim l.box d, 0x10050 + 2 * d))
    ++ [(decide (recField bs 90 2 ≠ 0), 0x1005A),
        (decide (recField bs 112 16 ≠ 0), 0x10070),
        (g4 && decide (at_ 0 % 2 ≠ 0), 0x20000),
        (decide (blk ≠ 0 ∧ at_ l.kdim % blk ≠ 0), 0x20001),
        (decide (2 ^ 27 < l.total * l.cBits), 0x20002)]
  (tests.find? (·.1)).map (·.2)

/-! ## Elements of a box (R182, R186) -/

/-- The indices of box element n, dimension 0 fastest. -/
def boxIndex : List Nat → Nat → List Nat
  | [], _ => []
  | b :: r, n => n % b :: boxIndex r (n / b)

def CopyOp.index (c : CopyOp) (n : Nat) : List Nat := boxIndex c.lay.box n

/-- c = origin + i. -/
def CopyOp.coord (c : CopyOp) (n : Nat) : List Int := List.zipWith (fun (o : Int) (i : Nat) => o + i) c.origin (c.index n)

def insideExt (ext : List Nat) (x : List Int) : Bool := (List.zipWith (fun (e : Nat) (k : Int) => decide (0 ≤ k ∧ k < e)) ext x).all id

def CopyOp.inside (c : CopyOp) (n : Nat) : Bool := insideExt c.lay.ext (c.coord n)

/-- The linear index of an element in the tensor, modulo 2^32 (R187). -/
def CopyOp.linear (c : CopyOp) (n : Nat) : W32 :=
  BitVec.ofInt 32 ((List.zipWith (fun (e : Nat) (k : Int) => (e, k)) c.lay.ext (c.coord n)).reverse.foldl
    (fun acc p => p.2 + p.1 * acc) 0)

/-- The virtual address of the first byte of a global element inside the extents. -/
def CopyOp.globalVa (c : CopyOp) (n : Nat) : W64 :=
  let x := c.coord n
  let off := (List.zipWith (fun (k : Int) (w : W64) => BitVec.ofInt 64 k * w) x.tail c.lay.stride).foldl (fun a b => a + b) 0
  c.lay.base + BitVec.ofInt 64 ((x.headD 0) * c.lay.gBits / 8) + off

/-- With 4-bit containers an element with odd c0 is a high nibble (08 R153). -/
def CopyOp.globalHigh (c : CopyOp) (n : Nat) : Bool := decide (c.lay.gBits = 4 ∧ (c.coord n).headD 0 % 2 ≠ 0)

/-- The addresses of a global element's bytes. -/
def CopyOp.globalBytes (c : CopyOp) (n : Nat) : List W64 :=
  (List.range (Nat.max (c.lay.gBits / 8) 1)).map (fun k => c.globalVa n + BitVec.ofNat 64 k)

/-- Whether the global side carries block scales, and whether the core side does: a tray or a plane (R186, R187). -/
def CopyOp.gScaled (c : CopyOp) : Bool := decide (c.lay.block ≠ 0 ∧ c.lay.gtype = 0)

def CopyOp.unitSide (c : CopyOp) : Bool := match c.side with
  | .window _ => false
  | _ => true

def CopyOp.cScaled (c : CopyOp) : Bool := decide (c.lay.block ≠ 0 ∧ c.lay.ctype = 0) && c.unitSide

/-- Whether bytes are copied unchanged (R187). -/
def CopyOp.plain (c : CopyOp) : Bool :=
  decide (c.lay.gtype = c.lay.ctype) && (decide (c.lay.gtype ≠ 0) || decide (c.lay.gfmt = c.lay.cfmt))
    && decide (c.gScaled = c.cScaled) && !(c.cScaled && c.lay.compute)

/-- The scale block of an element along kdim; blocks of the box line up with those of the tensor (R183). -/
def CopyOp.blockOf (c : CopyOp) (n : Nat) : Int := (c.coord n)[c.lay.kdim]?.getD 0 / (blockSize c.lay.block : Nat)

/-- The address of the global scale code of an element's block, where the block has an element inside the extents (R182). -/
def CopyOp.scaleVa (c : CopyOp) (n : Nat) : Option W64 :=
  if ¬ c.gScaled then none
  else
    let bs := blockSize c.lay.block
    let first := (c.coord n).set c.lay.kdim (c.blockOf n * bs)
    if insideExt c.lay.ext first then
      let x := first.set c.lay.kdim (c.blockOf n)
      let e := c.lay.ext.set c.lay.kdim (ceilDiv (c.lay.ext[c.lay.kdim]?.getD 0) bs)
      some (c.lay.sbase + BitVec.ofInt 64 ((List.zipWith (fun (e : Nat) (k : Int) => (e, k)) e x).reverse.foldl
        (fun acc p => p.2 + p.1 * acc) 0))
    else none

/-- The elements of the box in the same block as element n. -/
def CopyOp.mates (c : CopyOp) (n : Nat) : List Nat :=
  let bs := blockSize c.lay.block
  let step := (c.lay.box.take c.lay.kdim).foldl (fun a b => a * b) 1
  let len := c.lay.box[c.lay.kdim]?.getD 1
  let i := (c.index n)[c.lay.kdim]?.getD 0
  let lo := i / bs * bs
  (List.range (Nat.min bs (len - lo))).map (fun k => n + (lo + k) * step - i * step)

/-- The bit at which a core-side element lies, from the start of its window place, slot or plane (R182, R186). -/
def CopyOp.coreBit (c : CopyOp) (n : Nat) : Nat :=
  let i (d : Nat) : Nat := (c.index n)[d]?.getD 0
  let b (d : Nat) : Nat := c.lay.box[d]?.getD 1
  if c.unitSide then (i 0 + i 1 * b 0) * c.lay.cBits
  else i 0 * c.lay.cBits + 8 * (i 1 * c.lay.cpitch + (i 2 + b 2 * (i 3 + b 3 * i 4)) * c.lay.cpitch2)

/-- The index of an element's scale code among those of a slot or a plane. -/
def CopyOp.coreScale (c : CopyOp) (n : Nat) : Nat :=
  let bs := blockSize c.lay.block
  (c.index n)[1]?.getD 0 * ceilDiv (c.lay.box.headD 0) bs + (c.index n).headD 0 / bs

/-- The bytes that the box spans on the core side of a local window (R182, R184). -/
def Layout.span (l : Layout) : Nat :=
  let b (d : Nat) : Nat := l.box[d]?.getD 1
  (b 0 * l.cBits + 7) / 8 + (b 1 - 1) * l.cpitch + (b 2 * b 3 * b 4 - 1) * l.cpitch2

/-- A code of `bits` bits at a bit address of a memory, and back (08 R153). -/
def putBits (m : Memory) (at_ bits code : Nat) : Memory :=
  if bits = 4 then
    let old := (Memory.get m (at_ / 8)).toNat
    Memory.set m (at_ / 8) (BitVec.ofNat 8 (if at_ % 8 = 0 then old / 16 * 16 + code % 16 else old % 16 + code % 16 * 16))
  else Memory.write m (at_ / 8) (natBytes (bits / 8) code)

def getBits (m : Memory) (at_ bits : Nat) : Nat :=
  if bits = 4 then (Memory.get m (at_ / 8)).toNat / (if at_ % 8 = 0 then 1 else 16) % 16
  else bytesNat (Memory.read m (at_ / 8) (bits / 8))

/-! ## Conversions (R187) -/

/-- Into FP32: the code of a source element, with its block's scale code. -/
def intoF32 (ty : Nat) (fmt : BitVec 16) (scale : Option Nat) (code : Nat) : W32 :=
  if ty = 3 then BitVec.ofNat 32 code
  else if ty = 4 then toF32 rne (.ofInt (signedOf 32 code))
  else
    let v := elementValue ty fmt code
    toF32 rne (match scale with
      | some k => if ty = 0 then v.mul (scaleValue k) else v
      | none => v)

/-- Out of FP32: a narrow target encodes v / s. -/
def outOfF32 (r : Rounding) (ty : Nat) (fmt : BitVec 16) (scale : Option Nat) (v : W32) : Nat :=
  if ty = 3 then v.toNat
  else if ty = 4 then (BitVec.ofInt 32 ((f32 v).toInt r (-(2 ^ 31 : Nat)) ((2 ^ 31 : Nat) - 1))).toNat
  else if ty = 1 then bf16.encode r (f32 v)
  else if ty = 2 then fp16.encode r (f32 v)
  else (Narrow.of fmt).encode r (match scale with
    | some 255 => .nan
    | some k => (f32 v).mul (.fin false 1 (127 - (k : Int)))
    | none => f32 v)

/-- The rounding of an element: the record's mode, or the stochastic value of its linear index. -/
def CopyOp.rounding (c : CopyOp) (n : Nat) : Rounding :=
  if c.lay.rnd = 4 then .sr (srMix (c.linear n ^^^ c.lay.seed)) else .mode (Rnd.ofCode c.lay.rnd)

/-- The largest value of a narrow format. -/
def Narrow.largest (f : Narrow) : FVal := f.decode (f.encode (.mode .rz) (.inf false))

/-- ceil(log2(m / top)) of two finite positive values. -/
def ceilLog2Ratio (m top : FVal) : Int :=
  match m, top with
  | .fin _ a p, .fin _ b q =>
    if b = 0 then 1024
    else
      let k : Int := (Nat.log2 a : Int) - (Nat.log2 b : Int) + p - q
      if 0 < FVal.cmp m (.fin false b (q + k)) then k + 1 else k
  | _, _ => 0

/-- R187: the code that compute = 1 gives a target block of the values vs. -/
def computedScale (fmt : BitVec 16) (vs : List W32) : Nat :=
  let fs := vs.map (fun v => f32 (fAbs v))
  if fs.any (fun f => match f with
      | .fin _ _ _ => false
      | _ => true) then 255
  else
    let m := fs.foldl (fun m f => if 0 < FVal.cmp f m then f else m) (.fin false 0 0)
    match m with
    | .fin _ 0 _ => 127
    | _ =>
      let k := 127 + ceilLog2Ratio m (Narrow.of fmt).largest
      if k < 0 then 0 else if 254 < k then 254 else k.toNat

/-- R187: an element of a block with a computed scale: the blocks of code 255 and of largest value 0 hold code 0. -/
def computedCode (r : Rounding) (fmt : BitVec 16) (scale : Nat) (v : W32) : Nat :=
  if scale = 255 then 0 else outOfF32 r 0 fmt (some scale) v

/-! ## Consistency (R186, R187) -/

/-- The first record field, in record order, that conflicts with the core side or with the source.  Where target scales with compute = 0 meet a
source that is not narrow the rule does not name the field; it is scale, offset 15 (log entry 48). -/
def CopyOp.conflict (b : Block) (c : CopyOp) : Option Nat :=
  let l := c.lay
  let box (d : Nat) : Nat := l.box[d]?.getD 1
  let unit (tests : List (Nat × Bool)) : List (Nat × Bool) :=
    tests ++ [(84, decide (box 2 ≠ 1)), (86, decide (box 3 ≠ 1)), (88, decide (box 4 ≠ 1)),
      (21, decide (l.block ≠ 0 ∧ l.kdim ≠ 0))]
  let write := decide (c.kind = .cps ∨ c.kind = .cpx true)
  let tests : List (Nat × Bool) := (match c.side with
    | .window _ => []
    | .tray t =>
      let tr := b.trays[t]?.getD .init
      unit [(11, decide (l.ctype ≠ tr.atype)), (12, decide (l.ctype = 0 ∧ l.cfmt ≠ tr.afmt)), (15, decide (l.block ≠ tr.scale)),
            (80, decide (box 0 ≠ tr.kslot)), (82, decide (box 1 ≠ 16))]
    | .plane _ =>
      unit [(11, decide (2 < l.ctype)), (80, decide (box 0 * l.cBits ≠ 1024)), (82, decide (box 1 ≠ 128))])
    ++ [(15, !l.compute && (if write then c.gScaled && !c.cScaled else c.cScaled && !c.gScaled))]
  (tests.filter (·.2)).foldl (fun m t => match m with
    | some k => some (Nat.min k t.1)
    | none => some t.1) none

end Sys2Proof.Machine
end

