-- ==== Sys2Proof/Machine/CopyEngine.lean ====
section
/-!
DEFINITION. Sys2Proof/Machine/CopyEngine.lean: what a forked copy does until its batch completes (07 R139, R146, R148, R151, 09 R185 to
R190, 11 R204, R205, 22 R361, R362).

A copy is a chain of events: the reservation of a tray slot, the landing of each chunk, the completion.  Copies of one strand
go in issue order (07 R146); a copy that is held looks again an ac later.
-/

namespace Sys2Proof.Machine

def State.copy? (s : State) (op : Nat) : Option CopyOp := s.copies.find? (fun c => c.id == op)
def State.mapCopy (op : Nat) (f : CopyOp → CopyOp) (s : State) : State := { s with copies := updIf (fun c => c.id == op) f s.copies }

/-! ## Translation (R188) -/

/-- How the translation of a byte ends. -/
inductive Reach where
  | ok (va : W64) (u : UnitPa)
  | fail (status : Nat) (va : W64)
  | wait (w : LaneWait)
  deriving DecidableEq, Repr

/-- A byte's translation, under the view of the issuing strand; a miss holds the copy. -/
def State.reach (c : CopyOp) (acc : Acc) (va : W64) (s : State) : Reach × State :=
  match s.translate c.core c.vd c.priv acc va with
  | (.ok e, s1) => (.ok va { unit := 0, pa := e.addr va.toNat, raw := e.raw, discard := e.discard }, s1)
  | (.held, s1) => (.wait { lane := 0, ea := va, stage2 := false, id := none }, s1.dueOnce acTicks (.pageRequest (.engine c.id)))
  | (.fail k, s1) => (.fail (if k = .translation then 2 else 3) va, s1)
  | (.miss stage2 page acc, s1) =>
    let (w, s2) := s1.awaitPage c.vd 0 va stage2 page acc
    (.wait w, if w.id.isSome then s2.count c.vd 0x0D (if s1.raises c.vd stage2 page then 1 else 0) c.priv else s2.dueOnce acTicks (.pageRequest (.engine c.id)))

/-- The bytes that an element needs: all of them, or the first that is not there. -/
def State.reachAll (c : CopyOp) (acc : Acc) : List W64 → State → Except Reach (List (W64 × UnitPa)) × State
  | [], s => (.ok [], s)
  | va :: r, s => match s.reach c acc va with
    | (.ok va u, s1) => match s1.reachAll c acc r with
      | (.ok l, s2) => (.ok ((va, u) :: l), s2)
      | (.error e, s2) => (.error e, s2)
    | (x, s1) => (.error x, s1)

/-- The elements in order whose bytes are there, up to the first one that fails or waits. -/
def State.gather (c : CopyOp) (acc : Acc) (needs : Nat → List W64) :
    List Nat → State → List (Nat × List (W64 × UnitPa)) × Option Reach × State
  | [], s => ([], none, s)
  | n :: r, s => match s.reachAll c acc (needs n) with
    | (.ok l, s1) => let (got, stop, s2) := s1.gather c acc needs r; ((n, l) :: got, stop, s2)
    | (.error e, s1) => ([], some e, s1)

/-! ## Elements that are read from global memory -/

/-- The addresses that element n of a read needs: its bytes and its block's code, which the pad elements of a block need too; with a computed
scale, its block's elements (log entry 20). -/
def CopyOp.readNeeds (c : CopyOp) (n : Nat) : List W64 :=
  (if c.inside n then c.globalBytes n else [])
    ++ (if c.inside n ∨ c.cScaled then (c.scaleVa n).toList else [])
    ++ (if c.cScaled ∧ c.lay.compute then (c.mates n).flatMap (fun k => if c.inside k then c.globalBytes k else []) else [])

/-- An element on its way: its code on the far side, its block's code there, whether it is defined. -/
structure Moved where
  n     : Nat
  code  : Nat
  scale : Option Nat
  good  : Bool
  deriving DecidableEq, Repr

/-- The code of a global element. -/
def CopyOp.globalCode (c : CopyOp) (byte : W64 → Byte) (n : Nat) : Nat :=
  let x := bytesNat ((c.globalBytes n).map byte)
  if c.lay.gBits = 4 then x / (if c.globalHigh n then 16 else 1) % 16 else x

def CopyOp.globalScale (c : CopyOp) (byte : W64 → Byte) (n : Nat) : Option Nat := (c.scaleVa n).map (fun a => (byte a).toNat)

/-- R186: the FP32 value of an element of the box: pad outside the extents. -/
def CopyOp.globalValue (c : CopyOp) (byte : W64 → Byte) (n : Nat) : W32 :=
  if c.inside n then intoF32 c.lay.gtype c.lay.gfmt (c.globalScale byte n) (c.globalCode byte n) else c.lay.pad

/-- R187: the element as the core side takes it. -/
def CopyOp.convertRead (c : CopyOp) (byte : W64 → Byte) (n : Nat) : Nat × Option Nat :=
  let v := c.globalValue byte n
  if c.cScaled ∧ c.lay.compute then
    let k := computedScale c.lay.cfmt ((c.mates n).map (c.globalValue byte))
    (computedCode (c.rounding n) c.lay.cfmt k v, some k)
  else
    let k := if c.cScaled then some ((c.globalScale byte n).getD scaleOne) else none
    (if c.plain ∧ c.inside n then c.globalCode byte n else outOfF32 (c.rounding n) c.lay.ctype c.lay.cfmt k v, k)

/-- The free code of an element that is undefined (R188, 00 R5; log entry 7). -/
def freeCode (k n : Nat) : Nat := bytesNat ((List.range 4).map (fun j => Config.anyByte (k * 2 ^ 40 + n * 8 + j)))

/-- R188: the address of the block that holds a bad byte: the grafted block, else the 64-byte sector. -/
def State.badBlock (s : State) (va : W64) (u : UnitPa) : W64 :=
  match (if u.raw then none else s.blockAt u.pa) with
  | some (_, _, start) => va - BitVec.ofNat 64 (u.pa - start)
  | none => va - BitVec.ofNat 64 (u.pa % 64)

/-- One line of a chunk is read at its home: the line as it stands once the request has been served. -/
def State.readHomeLine (c : CopyOp) (sectors : List Nat) (p : List SliceLine × State) (line : Nat) : List SliceLine × State :=
  let s1 := (p.2.countSlice c.vd c.priv line (sectorMask sectors line)).homeFetch line (sectorMask sectors line)
  (p.1 ++ [s1.sliceLine line], if isDram (line * 256) then s1.countRead line 0 false else s1)

/-- The elements whose bytes are there, read at their homes (R186) line by line, with the address of the first bad block. -/
def State.readElements (c : CopyOp) (got : List (Nat × List (W64 × UnitPa))) (s : State) : List Moved × Option W64 × State :=
  let us := got.flatMap (fun g => g.2.map (·.2))
  let sectors := (us.filter (fun u => !u.raw)).foldl (fun l u => setInsert l (u.pa / 64)) []
  let lines := linesOfSectors sectors
  let (held, s0) := lines.foldl (State.readHomeLine c sectors) ([], s)
  let view : State := { s0 with slices := held }
  let s1 := s0.rawReady us
  let byte (l : List (W64 × UnitPa)) (va : W64) : Byte :=
    match l.find? (fun e => decide (e.1 = va)) with
    | some e => if e.2.raw then s1.rawByte e.2.pa else view.homeByte e.2.pa
    | none => 0
  let bad (u : UnitPa) : Bool := if u.raw then s1.poison.contains (u.pa / 64) else view.homePoison u.pa || view.homeMark u.pa
  let moved := got.map (fun g =>
    let (code, scale) := c.convertRead (byte g.2) g.1
    if g.2.any (fun e => bad e.2) then
      { n := g.1, code := freeCode s1.free g.1, scale := scale.map (fun _ => freeCode s1.free g.1 % 256), good := false : Moved }
    else { n := g.1, code := code, scale := scale, good := true })
  let firstBad := ((got.flatMap (·.2)).find? (fun e => bad e.2)).map (fun e => s1.badBlock e.1 e.2)
  (moved, firstBad, { s1 with free := s1.free + 1 })

/-! ## The core side -/

/-- 19 R330: doublewords of the window that are written whole hold no error any more; `first` is the bit where the box starts, `places` are
the bits at which elements land in it. -/
def Block.mendWindow (first bits : Nat) (places : List Nat) (b : Block) : Block :=
  { b with corrupt := b.corrupt.filter (fun k => !((List.range 16).all (fun j => places.any (fun p =>
      decide (first + p ≤ 64 * k + 4 * j ∧ 64 * k + 4 * j < first + p + bits))))) }

def Block.setWindow (m : List Host.Cell) (b : Block) : Block := { b with window := m }

/-- A block takes elements: in its window, in a slot of a tray, in a plane. -/
def CopyOp.landIn (c : CopyOp) (slot : Nat) (es : List Moved) (b : Block) : Block :=
  let bits := c.lay.cBits
  match c.side with
  | .window off => (b.mendWindow (8 * off) bits (es.map (fun e => c.coreBit e.n))).setWindow
      (es.foldl (fun m e => putBits m (8 * off + c.coreBit e.n) bits e.code) b.window)
  | .tray t =>
    let tr := b.trays[t]?.getD .init
    let base := tr.base + slot * tr.slot
    let rows := 16 * tr.kslot * bits / 8
    (b.mendWindow (8 * base) bits (es.map (fun e => c.coreBit e.n))).setWindow (es.foldl (fun m e =>
        let m1 := putBits m (8 * base + c.coreBit e.n) bits e.code
        match e.scale with
        | some k => Memory.set m1 (base + rows + c.coreScale e.n) (BitVec.ofNat 8 k)
        | none => m1) b.window)
  | .plane p =>
    { b with planes := updAt b.planes p (fun q =>
        { bytes := es.foldl (fun m e => putBits m (c.coreBit e.n) bits e.code) q.bytes,
          ptype := c.lay.ctype, fmt := c.lay.cfmt, block := if c.cScaled then c.lay.block else 0,
          scales := if c.cScaled then es.foldl (fun m e => match e.scale with
            | some k => Memory.set m (c.coreScale e.n) (BitVec.ofNat 8 k)
            | none => m) q.scales else [],
          corrupt := q.corrupt.filter (fun o => !es.any (fun e => c.coreBit e.n / 8 ≤ o && decide (o < (c.coreBit e.n + bits + 7) / 8))) }) }

/-- The blocks that take the box, with their slots. -/
def CopyOp.receivers (c : CopyOp) : List (Nat × Nat) :=
  if c.kind = .cpm then c.decided.filterMap (fun d => match d with
    | .accept b k => some (b, k)
    | .refuse _ => none)
  else if c.kind = .cpg then [(c.block, c.slot.getD 0)]
  else []

def State.landCore (c : CopyOp) (es : List Moved) (s : State) : State :=
  c.receivers.foldl (fun s r => s.mapBlock r.1 (c.landIn r.2 es)) s

/-! ## Multicast (11 R200, R204) -/

/-- The position of a core in the sender's group: the block index, where the core is a position of the group. -/
def Block.positionAt (b : Block) (x y : Int) : Option Nat :=
  let w := Nat.min b.extent 4
  let dx := x - b.groupX
  let dy := y - b.groupY
  if dx < 0 ∨ (w : Int) ≤ dx ∨ dy < 0 then none
  else
    let i := dy.toNat * w + dx.toNat
    if i < b.extent then some i else none

/-- R204: the decision of a position of `cpm`. -/
def State.decide1 (c : CopyOp) (b : Block) (x y : Int) (s : State) : Decision × State :=
  if x < 0 ∨ 3 < x ∨ y < 0 ∨ 1 < y then (.refuse 1, s)
  else
    let pos := b.positionAt x y
    let there := pos.bind (fun i => s.allBlocks.find? (fun k => k.group == b.group && k.pos == i && decide (k.phase ≠ .ended)))
    let fits (k : Block) : Bool :=
      (match c.side with
        | .window off => decide (off + c.lay.span ≤ k.windowSize)
        | _ => true)
      && (match c.bar with
        | some o => decide (o + 8 ≤ k.windowSize)
        | none => true)
    match there with
    | some k =>
      if ¬ fits k then (.refuse 1, s)
      else match c.side with
        | .tray t => match k.trays[t]? with
          | none => (.refuse 3, s)
          | some tr =>
            if c.gen.isSome ∧ c.gen ≠ some tr.gen.toNat then (.refuse 3, s)
            else if tr.free = 0 then (.refuse 0, s)
            else
              let (slot, tr1) := tr.reserve
              (.accept k.id slot, s.mapBlock k.id (fun k => updTray k t (fun _ => tr1)))
        | _ => (.accept k.id 0, s)
    | none => (.refuse (if pos.isNone then 2 else 3), s)

/-- R189: the positions of `cpm`, row by row. -/
def CopyOp.positions (c : CopyOp) (b : Block) : List (Int × Int) :=
  let w := slice c.desc 57 56 + 1
  let h := slice c.desc 55 55 + 1
  let x0 := (coreKx b.core : Int) + signedOf 3 (slice c.desc 22 20)
  let y0 := (coreKy b.core : Int) + signedOf 2 (slice c.desc 24 23)
  (List.range (w * h)).map (fun p => (x0 + (p % w : Nat), y0 + (p / w : Nat)))

/-- R204, R205: the next position is decided. -/
def State.decideNext (c : CopyOp) (b : Block) (s : State) : State :=
  match (c.positions b)[c.decided.length]? with
  | none => s
  | some p =>
    let (d, s1) := s.decide1 c b p.1 p.2
    s1.mapCopy c.id (fun c => { c with decided := c.decided ++ [d] })

/-! ## A chunk (07 R146: at most 4 KiB of core-side bytes) -/

/-- The elements of the next chunk. -/
def CopyOp.chunk (c : CopyOp) : List Nat :=
  let last := match c.remoteEnd with
    | some (k, n) => if k = 2 ∨ k = 3 then Nat.min n c.lay.total else c.lay.total
    | none => c.lay.total
  (List.range (Nat.min (32768 / c.lay.cBits) (last - c.next))).map (fun k => c.next + k)

/-- What a chunk leaves behind: the elements landed, and the fault or the wait that stopped it. -/
def CopyOp.advance (count bits : Nat) (bad : Option W64) (stop : Option Reach) (cross : Bool) (c : CopyOp) : CopyOp :=
  let c1 := { c with next := c.next + count, bytes := c.bytes + bits, cross := c.cross || cross, waiting := none,
                     status := if c.status = 0 ∧ bad.isSome then 4 else c.status,
                     taddr := if c.status = 0 then bad.getD c.taddr else c.taddr }
  match stop with
  | some (.fail st va) => { c1 with status := st, taddr := va }
  | some (.wait w) => { c1 with waiting := some w }
  | _ => c1

def crosses (core : Nat) (us : List (W64 × UnitPa)) : Bool := us.any (fun e => decide (homeDie e.2.pa ≠ coreDie core))

/-- The bytes of a chunk of a push, dense (22 R361): from the byte that holds element `first` on. -/
def denseBytes (bits first : Nat) (es : List Moved) : List Byte :=
  let at_ := first * bits / 8
  Memory.read (es.foldl (fun m e => putBits m (e.n * bits - 8 * at_) bits e.code) []) 0 (ceilDiv ((first + es.length) * bits) 8 - at_)

/-- 22 R361: two 4-bit elements of a push share a byte; while the second one waits for its translation neither is sent. -/
def CopyOp.wholeBytes (c : CopyOp) (stop : Option Reach) (got : List (Nat × List (W64 × UnitPa))) : List (Nat × List (W64 × UnitPa)) :=
  match c.kind, stop with
  | .cpx _, some (.wait _) => if c.lay.cBits = 4 ∧ (c.next + got.length) % 2 = 1 then got.dropLast else got
  | _, _ => got

/-- 22 R361: the fields of a remote target record. -/
structure RemoteTarget where
  addr   : BitVec 128
  vd     : Nat
  window : Nat
  offset : Nat
  deriving DecidableEq, Repr

def RemoteTarget.of (bs : List Byte) : RemoteTarget :=
  { addr := BitVec.ofNat 128 (recField bs 0 16), vd := recField bs 16 1, window := recField bs 17 1, offset := recField bs 24 8 }

/-- Whether every position has refused (R189), or the generation has (R186). -/
def CopyOp.refused (c : CopyOp) : Bool := decide (c.decided.length = c.places) && c.decided.all (fun d => match d with
  | .refuse _ => true
  | .accept _ _ => false)

/-- R204: the box's first chunk reaches the positions; none is decided where the first element is not there. -/
def State.reachPositions (c : CopyOp) (b : Block) (s : State) : State :=
  match s.gather c .read c.readNeeds c.chunk with
  | ([], stop, s1) => s1.mapCopy c.id (CopyOp.advance 0 0 none stop false)
  | (_, _, s1) => s1.decideNext c b

/-- The physical addresses of a chunk's elements. -/
def chunkPas (got : List (Nat × List (W64 × UnitPa))) : List Nat := got.flatMap (fun g => g.2.map (fun e => e.2.pa))

/-- A chunk that has been read from global memory: `cpg`, `cpm`, a `cpx` push. -/
def State.landChunk (c : CopyOp) (got : List (Nat × List (W64 × UnitPa))) (stop : Option Reach) (s1 : State) : State :=
  let (es, bad, s2) := s1.readElements c got
  let s3 := match c.kind with
    | .cpx _ =>
      let t := RemoteTarget.of c.remote
      if es = [] then s2
      else { s2 with outbox := s2.outbox ++ [OutMsg.remote c.vd t.addr t.vd t.window (t.offset + c.next * c.lay.cBits / 8)
        (denseBytes c.lay.cBits c.next es)] }
    | _ => s2.landCore c es
  s3.mapCopy c.id (CopyOp.advance got.length ((es.filter Moved.good).length * c.lay.cBits) bad stop
    (crosses c.core (got.flatMap (·.2))))

/-- A chunk of a read moves, unless a link holds it (19 R309). -/
def State.readChunk (c : CopyOp) (s : State) : State :=
  let (all, stop, s1) := s.gather c .read c.readNeeds c.chunk
  let got := c.wholeBytes stop all
  if s1.heldBack c.core (chunkPas got) then s1 else (s1.crossLinks c.core false (chunkPas got)).landChunk c got stop

/-- The addresses that element n of a write needs (R186: nothing is written outside the extents). -/
def CopyOp.writeNeeds (c : CopyOp) (n : Nat) : List W64 :=
  if c.inside n then c.globalBytes n ++ (c.scaleVa n).toList else []

/-- The core-side code of an element of `cps`, or the free bytes of a remote window, the same ones throughout the copy (22 R362, log entry
9). -/
def CopyOp.sourceCode (c : CopyOp) (b : Block) (n : Nat) : Nat :=
  match c.kind, c.side with
  | .cpx _, _ => bytesNat ((List.range (Nat.max (c.lay.cBits / 8) 1)).map (fun j => Config.remoteByte (c.drawn * 2 ^ 40 + n * 8 + j)))
      % 2 ^ c.lay.cBits
  | _, .window off => getBits b.window (8 * off + c.coreBit n) c.lay.cBits
  | _, _ => 0

/-- Whether an element of a `cps` source has bytes with an uncorrectable error: it is as undefined as one of a bad block (R188; log entry
54). -/
def CopyOp.sourceBad (c : CopyOp) (b : Block) (n : Nat) : Bool :=
  match c.kind, c.side with
  | .cps, .window off => b.windowBad (off + c.coreBit n / 8) (ceilDiv c.lay.cBits 8)
  | _, _ => false

/-- The address that a bad source element reports: that of its doubleword in the window. -/
def CopyOp.badSource (c : CopyOp) (b : Block) (ns : List Nat) : Option W64 :=
  (ns.find? (fun n => c.inside n && c.sourceBad b n)).map (fun n => match c.side with
    | .window off => BitVec.ofNat 64 ((off + c.coreBit n / 8) / 8 * 8)
    | _ => 0)

/-- R187: the element as global memory takes it, with its block's computed code. -/
def CopyOp.convertWrite (c : CopyOp) (code : Nat → Nat) (n : Nat) : Nat × Option Nat :=
  let v (k : Nat) : W32 := intoF32 c.lay.ctype c.lay.cfmt none (code k)
  if c.gScaled then
    let k := computedScale c.lay.gfmt (((c.mates n).filter c.inside).map v)
    (computedCode (c.rounding n) c.lay.gfmt k (v n), some k)
  else (if c.plain then code n else outOfF32 (c.rounding n) c.lay.gtype c.lay.gfmt none (v n), none)

/-- The bytes that a code writes at a global element; `acc` is what the chunk writes before it. -/
def State.putGlobal (c : CopyOp) (n code : Nat) (us : List (W64 × UnitPa)) (acc : List Host.Cell) (s : State) : List Host.Cell × State :=
  match us with
  | [] => (acc, s)
  | (_, u) :: _ =>
    if c.lay.gBits = 4 then
      let (old, s1) : Nat × State := match acc.reverse.find? (fun (e : Host.Cell) => e.1 == u.pa) with
        | some e => (e.2.toNat, s)
        | none =>
          let s1 := s.homeFetch (u.pa / 256) (1#4 <<< (u.pa / 64 % 4))
          ((s1.homeByte u.pa).toNat, s1)
      (acc ++ [(u.pa, BitVec.ofNat 8 (if c.globalHigh n then old % 16 + code % 16 * 16 else old / 16 * 16 + code % 16))], s1)
    else (acc ++ List.zipWith (fun (e : W64 × UnitPa) (b : Byte) => ((e.2.pa, b) : Host.Cell)) us (natBytes (c.lay.gBits / 8) code), s)

/-- A chunk that is written to global memory: `cps`, a `cpx` pull (R186: the L1's dirty bytes in its sectors go home first). -/
def State.storeChunk (c : CopyOp) (b : Block) (got : List (Nat × List (W64 × UnitPa))) (stop : Option Reach) (s1 : State) : State :=
  let us := got.flatMap (·.2)
  let sectors := us.foldl (fun l e => setInsert l (e.2.pa / 64)) []
  let s2 := s1.l1Expel c.core (fun k => sectors.contains k)
  let code (n : Nat) : Nat := if c.sourceBad b n then freeCode s2.free n % 2 ^ c.lay.cBits else c.sourceCode b n
  let (cells, s3) := got.foldl (fun (x : List Host.Cell × State) (g : Nat × List (W64 × UnitPa)) =>
    if g.2 = [] then x
    else
      let (v, k) := c.convertWrite code g.1
      let (acc, s1) := State.putGlobal c g.1 v (g.2.take (Nat.max (c.lay.gBits / 8) 1)) x.1 x.2
      match k, g.2.getLast? with
      | some k, some e => (acc ++ [(e.2.pa, BitVec.ofNat 8 k)], s1)
      | _, _ => (acc, s1)) ([], s2)
  { s3.homeWriteCells cells with free := s3.free + 1 }.mapCopy c.id (CopyOp.advance got.length
    ((got.filter (fun (g : Nat × List (W64 × UnitPa)) => decide (g.2 ≠ []) && !c.sourceBad b g.1)).length * c.lay.cBits)
    (c.badSource b (got.map (fun (g : Nat × List (W64 × UnitPa)) => g.1))) stop (crosses c.core us))

/-- A chunk of a write moves, unless a link holds it (19 R309). -/
def State.writeChunk (c : CopyOp) (b : Block) (s : State) : State :=
  let (got, stop, s1) := s.gather c .write c.writeNeeds c.chunk
  if s1.heldBack c.core (chunkPas got) then s1 else (s1.crossLinks c.core true (chunkPas got)).storeChunk c b got stop

/-! ## Turns of the engine -/

/-- Whether a copy has nothing left but its completion: a DECODE does not end it (R188). -/
def CopyOp.over (c : CopyOp) : Bool :=
  (decide (c.status ≠ 0) && decide (c.status ≠ 4)) || c.refused || decide (c.lay.total ≤ c.next)

/-- 07 R146, 09 R188: no earlier copy of the same strand is in flight, but for those that a missing translation holds. -/
def State.copyHead (s : State) (c : CopyOp) : Bool :=
  c.stream || (((s.copies.filter (fun k => decide (k.strand = c.strand) && !k.stream && !k.finished
    && (k.waiting.isNone || decide (k.id = c.id)))).head?.map (·.id)) == some c.id)

/-- 07 R149: copies go on while their block runs or stops; in DRAINING they stop, a matrix operation waiting for their slot or not: the
model's choice (log entry 61). -/
def State.copyMoves (s : State) (c : CopyOp) : Bool :=
  match s.block? c.block with
  | some b => !c.finished && decide (b.phase = .running ∨ b.phase = .stopping)
  | none => false

/-- 07 R148, 09 R176: an operation that reads the plane is outstanding, or is complete and stands in an open batch. -/
def State.planeHeld (s : State) (c : CopyOp) : Bool :=
  match c.side with
  | .plane p => decide (c.kind = .cpg) && s.mxops.any (fun m => decide (m.block = c.block ∧ m.plane ≤ p ∧ p < m.plane + m.kcnt)
      && (!m.done || (s.strandsOf m.block).any (fun t => t.mx.opens m.id)))
  | _ => false

/-- Whether a copy still needs its tray slot. -/
def CopyOp.needsSlot (c : CopyOp) : Bool :=
  (match c.side with
    | .tray _ => true
    | _ => false) && decide (c.kind = .cpg) && c.slot.isNone

/-- 22 R362, R365: the end that a peer package gives a remote copy: its status, after how many elements (log entry 9). -/
def State.remoteStart (c : CopyOp) (s : State) : State :=
  let t := RemoteTarget.of c.remote
  if s.control.lostPeers.contains t.addr then s.mapCopy c.id (fun c => { c with status := 6 })
  else
    let (k, s1) := s.draw
    let (j, s2) := s1.draw
    s2.mapCopy c.id (fun c => { c with drawn := k, remoteEnd := some (Config.remoteStatus k % 5, Config.remoteStatus j % (c.lay.total + 1)) })

/-- 22 R362: the peer ends the copy with TRANSLATION or PERMISSION at its element. -/
def CopyOp.remoteFault (c : CopyOp) : CopyOp :=
  match c.remoteEnd with
  | some (k, n) =>
    if (k = 2 ∨ k = 3) ∧ n ≤ c.next ∧ c.status = 0 then
      { c with status := k, taddr := BitVec.ofNat 64 ((RemoteTarget.of c.remote).offset + n * c.lay.cBits / 8) }
    else c
  | none => c

/-- One chunk of a copy. -/
def State.oneChunk (c : CopyOp) (b : Block) (s : State) : State :=
  match c.kind with
  | .cps => s.writeChunk c b
  | .cpx pull =>
    if c.remoteEnd.isNone then s.remoteStart c
    else (if pull then s.writeChunk c b else s.readChunk c).mapCopy c.id CopyOp.remoteFault
  | _ => if c.undecided then s.reachPositions c b else s.readChunk c

/-- 07 R146: the engine serves a chunk of a copy. -/
def State.serveCopy (c : CopyOp) (b : Block) (s : State) : State :=
  (s.oneChunk c b).mapCoreOf c.core (fun k => { k with copyAt := c.id })

/-! ## The block is killed (07 R151) -/

/-- The operations of a block are abandoned: a sow that is held is not sent; one that travels goes on, and nobody waits for
its end. -/
def orphanSows (block : Nat) (l : List SowOp) : List SowOp :=
  (l.filter (fun o => !(decide (o.block = block) && decide (o.phase = .held)))).map (fun o =>
    if o.block = block then { o with block := 0, strand := 0, cw := none } else o)

/-- R151: the block is killed; the record names the tile of the first outstanding operation that reads the tray, and tile 0 where none does,
which the rule leaves open (log entry 47). -/
def State.killBlock (block tray : Nat) (cause : Cause) (addr : W64) (s : State) : State :=
  match s.block? block with
  | none => s
  | some b =>
    let tile := (((s.mxops.filter (fun m => decide (m.block = block ∧ m.tray = tray) && !m.done)).head?).map (·.acc)).getD 0
    let s1 := s.mapStrands (fun t => t.block == block) (fun t =>
      if t.over then t else { t.clearInstr with run := .halted, hints := .none, stall := [], pending := [], reason := 0 })
    let s2 : State := { s1 with copies := s1.copies.filter (fun c => c.block != block),
                                mxops := s1.mxops.filter (fun m => m.block != block),
                                sows := orphanSows block s1.sows }
    let s3 := s2.mapBlock block (fun b =>
      { b with tiles := b.tiles.map (fun t => { t with elems := [], poison := [], rcount := 0 }), planes := b.planes.map (fun _ => .init),
               window := [], latch := none, failed := some (b.failed.getD cause), nfault := b.nfault + 1,
               firstPlace := if b.nfault = 0 then s.placeOf b.vd b.core else b.firstPlace })
    (s3.postFault b.vd [recordWord (s.placeOf b.vd b.core) b.index 0 2 0x81,
      BitVec.ofNat 64 (cause.code + tile * 2 ^ 8), addr]).checkBlock block

/-- The cause of a status of R185. -/
def statusCause (st : Nat) : Cause :=
  if st = 2 then .translation else if st = 3 then .permission else if st = 4 then .decode else .format

/-! ## Records (R183, 14 R249) -/

/-- A record of n bytes as the strand's view reads it; DECODE mark, poison. -/
def State.readView (core strand : Nat) (u : UnitPa) (n : Nat) (s : State) : List Byte × Bool × Bool × State :=
  let line := u.pa / 256
  let sectors := lackingSectors (s.coreOf core) 1 ((List.range n).map (fun k => { u with pa := u.pa + k }))
  let s1 := (if sectors = [] ∨ u.raw then s
    else (s.crossLinks core false (sectors.map (· * 64))).homeFetch line (sectorMask sectors line)).rawReady [u]
  let c1 := s1.coreOf core
  let bs := (List.range n).map (fun k => if u.raw then s1.rawByte (u.pa + k) else s1.loadByte c1 strand (u.pa + k))
  let mark := !u.raw && sectors.any (fun k => s1.homeMark (k * 64))
  let pois := if u.raw then s1.poison.contains (u.pa / 64)
    else sectors.any (fun k => s1.homePoison (k * 64)) || (List.range n).any (fun k => c1.corrupt.contains ((u.pa + k) / 64))
  let s2 := if sectors = [] ∨ u.raw ∨ ¬ isDram u.pa then s1 else s1.countRead line 0 false
  (bs, mark, pois, { s2 with free := s2.free + 1 })

/-- 19 R309: whether a link holds the read of a record: what the L1, or the record cache, has crosses none. -/
def State.recordHeld (core : Nat) (cached : Bool) (u : UnitPa) (n : Nat) (s : State) : Bool :=
  let c := s.coreOf core
  !(cached && c.records.any (fun r => r.1 == u.pa))
    && s.heldBack core (if u.raw then [u.pa] else (lackingSectors c 1 ((List.range n).map (fun k => { u with pa := u.pa + k }))).map (· * 64))

/-- The same through the core's record cache (14 R249). -/
def State.readRecord (core strand : Nat) (u : UnitPa) (n : Nat) (s : State) : List Byte × Bool × Bool × State :=
  match (s.coreOf core).records.find? (fun r => r.1 == u.pa) with
  | some r => (r.2, false, false, s)
  | none =>
    let (bs, mark, pois, s1) := s.readView core strand u n
    (bs, mark, pois, if mark ∨ pois then s1 else s1.mapCoreOf core (fun c => { c with records := c.records ++ [(u.pa, bs)] }))

/-- R190: the next slot of a streamed tray: its layout record is read, its box checked, the slot reserved.  The rule does not say when the
record is read: it is read for every slot, through the record cache (log entry 49). -/
def State.streamNext (c : CopyOp) (t : Nat) (tr : Tray) (b : Block) (s : State) : State :=
  let kill (k : Cause) (a : W64) (s : State) : State := s.killBlock c.block t k a
  if tr.layout.toNat % 128 ≠ 0 then kill .misaligned tr.layout s
  else match s.reach c .read tr.layout with
    | (.fail st va, s1) => kill (statusCause st) va s1
    | (.wait w, s1) => s1.mapCopy c.id (fun c => { c with waiting := some w })
    | (.ok _ u, s1) =>
      if s1.recordHeld c.core true u 128 then s1.dueOnce acTicks (.trayReserve c.id) else
      let (bs, mark, pois, s2) := s1.readRecord c.core 0 u 128
      let lay := Layout.of bs
      let origin : List Int := [((tr.fetched * tr.step : Nat) : Int), 0, 0, 0, 0]
      let c1 := { c with lay := lay, origin := origin }
      if pois then kill .poison tr.layout s2
      else if mark then kill .decode tr.layout s2
      else if (lay.check bs origin).isSome ∨ (c1.conflict b).isSome then kill .format tr.layout s2
      else
        let (slot, tr1) := tr.reserve
        ((s2.mapBlock c.block (fun b => updTray b t (fun _ => { tr1 with fetched := tr1.fetched + 1 }))).mapCopy c.id (fun k =>
          { k with lay := lay, origin := origin, slot := some slot, next := 0, bytes := 0, waiting := none,
                   issuedAt := s.now })).due acTicks (.copyChunkLand c.id)

/-- R139, R186: the engine's turn of a copy into a tray: the slot is reserved when FREE allows and the generation matches. -/
def State.reserveTurn (op : Nat) (s : State) : State :=
  match s.copy? op with
  | none => s
  | some c => match s.block? c.block, c.side with
    | some b, .tray t =>
      let tr := b.trays[t]?.getD .init
      if ¬ s.copyMoves c then s
      else if (c.waiting.bind (·.id)).isSome then s
      else if ¬ s.copyHead c then s.dueOnce acTicks (.trayReserve op)
      else if c.stream then
        if c.status ≠ 0 then s.killBlock c.block t (statusCause c.status) c.taddr
        else if tr.count ≠ 0 ∧ tr.count ≤ tr.fetched then s.mapCopy op (fun c => { c with finished := true })
        else if tr.free = 0 then s.dueOnce acTicks (.trayReserve op)
        else s.streamNext c t tr b
      else if ¬ c.needsSlot ∨ c.over then s
      else match c.conflict b with
        | some k => (s.mapCopy op (fun c => { c with status := 7, tval := BitVec.ofNat 64 (0x10000 + k) })).dueOnce 0 (.copyComplete op)
        | none =>
          if c.gen.isSome ∧ c.gen ≠ some tr.gen.toNat then
            (s.mapCopy op (fun c => { c with decided := [.refuse 3] })).dueOnce 0 (.copyComplete op)
          else if tr.free = 0 then s.dueOnce acTicks (.trayReserve op)
          else
            let (slot, tr1) := tr.reserve
            ((s.mapBlock c.block (fun b => updTray b t (fun _ => tr1))).mapCopy op (fun c => { c with slot := some slot })).due acTicks
              (.copyChunkLand op)
    | _, _ => s

def execTrayReserve (op : Nat) (s : State) : Out := stepOf (fun s => s.reserveTurn op) s

/-- 09 R185: the bytes that have landed; half a byte of 4-bit elements does not count, the model's choice (log entry 64). -/
def CopyOp.landedBytes (c : CopyOp) : Nat := if c.refused then 0 else c.bytes / 8

/-- STATUS as the completion word and the event record show it. -/
def CopyOp.statusShown (c : CopyOp) : Nat :=
  if c.status = 0 ∧ c.decided.any (fun d => match d with
    | .refuse _ => true
    | .accept _ _ => false) then 5 else c.status

/-- The fn that an event record names (21 R346). -/
def CopyOp.fnCode (c : CopyOp) : Nat :=
  match c.kind with
  | .cpg => 0 | .cps => 1 | .cpm => 2 | .cpx _ => 3 | .gconv => 4

/-- 21 R344, R346: a copy counts the bytes that it has landed and leaves its record; the fetch of a streamed slot is a copy of no strand: batch
and slot are 0 in its record (log entry 39). -/
def State.recordCopy (c : CopyOp) (b : Block) (s : State) : State :=
  let t := s.strand? c.strand
  let s1 := s.count c.vd 0x05 c.landedBytes c.priv
  if b.eventOn then
    s1.event c.vd 0 c.statusShown (s.placeOf b.vd b.core).toNat ((s.now - c.issuedAt) / nsTicks)
      (natBytes 6 ((t.map (fun t => t.cp.numberOf c.id)).getD 0) ++ natBytes 1 ((t.map (·.slot)).getD 0) ++ natBytes 1 c.fnCode
        ++ natBytes 8 c.landedBytes)
  else s1

/-- R151: the cause of the fault that ended a streamed fetch. -/
def State.streamCause (c : CopyOp) (s : State) : Cause :=
  match c.status, (s.reach c .read c.taddr).1 with
  | 4, .ok _ u => if s.homePoison u.pa then .poison else .decode
  | st, _ => statusCause st

/-- The end of a streamed slot: it lands, and the next one may be fetched; a fault kills the block. -/
def State.streamTurn (c : CopyOp) (s : State) : State :=
  match c.side with
  | .tray t =>
    let done (s : State) : State := match s.block? c.block with
      | some b => s.recordCopy c b
      | none => s
    if c.status ≠ 0 then (done s).killBlock c.block t (s.streamCause c) c.taddr
    else if c.lay.total ≤ c.next then
      (((done s).landSlot c.block t (c.slot.getD 0)).mapCopy c.id (fun c => { c with slot := none })).due 0 (.trayReserve c.id)
    else s.dueOnce acTicks (.copyChunkLand c.id)
  | _ => s

/-- What comes next of a copy after a chunk. -/
def State.nextOfCopy (op : Nat) (s : State) : State :=
  match s.copy? op with
  | none => s
  | some c =>
    if (c.waiting.bind (·.id)).isSome then s
    else if c.stream then s.streamTurn c
    else if c.over then s.dueOnce 0 (.copyComplete op)
    else s.dueOnce acTicks (.copyChunkLand op)

/-- Whether a copy other than the one at hand has a chunk to move: nothing holds it, and its event is due. -/
def State.copyReady (s : State) (k : CopyOp) : Bool :=
  s.copyMoves k && s.copyHead k && k.waiting.isNone && !k.over && !k.needsSlot && !(k.stream && k.slot.isNone) && !s.planeHeld k
    && s.agenda.any (fun d => decide (d.ev = .copyChunkLand k.id))

/-- 07 R146: the engine takes the copies of its core round robin by chunk: whether this one follows the one that it last served. -/
def State.copyNext (s : State) (c : CopyOp) : Bool :=
  let last := (s.coreOf c.core).copyAt
  let others := s.copies.filter (fun k => decide (k.core = c.core ∧ k.id ≠ c.id) && s.copyReady k)
  others.all (fun k => if last < c.id then decide (k.id ≤ last ∨ c.id < k.id) else decide (k.id ≤ last ∧ c.id < k.id))

/-- R186: the engine's turn of a copy: its consistency, then one chunk. -/
def State.copyTurn (op : Nat) (s : State) : State :=
  match s.copy? op with
  | none => s
  | some c => match s.block? c.block with
    | none => s
    | some b =>
      if c.kind = .gconv ∨ ¬ s.copyMoves c ∨ (c.waiting.bind (·.id)).isSome then s
      else if c.stream ∧ c.slot.isNone then s.dueOnce 0 (.trayReserve op)
      else if ¬ s.copyHead c then s.dueOnce acTicks (.copyChunkLand op)
      else if c.stream ∧ c.status = 0 ∧ c.next < c.lay.total then
        (if s.copyNext c then (s.serveCopy c b).nextOfCopy op else s.dueOnce acTicks (.copyChunkLand op))
      else if c.stream ∨ c.over then s.nextOfCopy op
      else if c.needsSlot then s.dueOnce 0 (.trayReserve op)
      else if s.planeHeld c then s.dueOnce acTicks (.copyChunkLand op)
      else match (if c.next = 0 then c.conflict b else none) with
        | some k => (s.mapCopy op (fun c => { c with status := 7, tval := BitVec.ofNat 64 (0x10000 + k) })).dueOnce 0 (.copyComplete op)
        | none => if s.copyNext c then (s.serveCopy c b).nextOfCopy op else s.dueOnce acTicks (.copyChunkLand op)

/-- The core of a copy. -/
def State.copyCore (s : State) (op : Nat) : Nat := ((s.copy? op).map (·.core)).getD 0

def execCopyChunkLand (op : Nat) (s : State) : Out :=
  stepOf (fun s => s.buffered (s.copyCore op) (.copyChunkLand op) (State.copyTurn op)) s

/-! ## Completion (R185, R186, R188, R189) -/

/-- R188, 22 R362, 00 R5: after a CORRUPT copy, or a pull whose peer was lost, the range that has landed is undefined (log entry 7). -/
def State.scramble (c : CopyOp) (s : State) : State :=
  let ns := List.range c.next
  let s1 := { s with free := s.free + 1 }
  if c.kind = .cps ∨ c.kind = .cpx true then
    let (got, _, s2) := s1.gather c .write c.writeNeeds ns
    let (cells, s3) := got.foldl (fun (x : List Host.Cell × State) (g : Nat × List (W64 × UnitPa)) =>
      State.putGlobal c g.1 (freeCode s1.free g.1) (g.2.take (Nat.max (c.lay.gBits / 8) 1)) x.1 x.2) ([], s2)
    s3.homeWriteCells cells
  else s1.landCore c (ns.map (fun n =>
    { n := n, code := freeCode s.free n, scale := if c.cScaled then some (freeCode s.free (n + 2 ^ 24) % 256) else none, good := false }))

/-- R188: a copy that crosses dies may show a CRC mismatch, which free values say (log entry 7); one that the engine's reissue cures is
counted (19 R330), another ends CORRUPT, also after a DECODE; a remote copy ends as its peer says. -/
def State.settleStatus (c : CopyOp) (s : State) : CopyOp × State :=
  let pulled (c : CopyOp) : CopyOp × State := (c, if c.kind = .cpx true ∧ (c.status = 1 ∨ c.status = 6) then s.scramble c else s)
  match c.kind, c.remoteEnd with
  | .cpx _, some (k, n) =>
    if c.status = 0 ∧ (k = 1 ∨ k = 4) then
      pulled { c with status := k, taddr := BitVec.ofNat 64 ((RemoteTarget.of c.remote).offset + n * c.lay.cBits / 8) }
    else pulled c
  | .cpx _, none => pulled c
  | _, _ =>
    if (c.status = 0 ∨ c.status = 4) ∧ c.cross ∧ ¬ c.refused then
      let (k, s1) := s.draw
      if ¬ Config.crcFails k then (c, s1)
      else
        let (j, s2) := s1.draw
        if Config.crcFails j then ({ c with status := 1, taddr := 0 }, s2.scramble c) else (c, s2.countCorrected (coreDie c.core))
    else (c, s)

/-- R185: the completion word. -/
def CopyOp.word (c : CopyOp) : W64 :=
  let refs := c.decided.zipIdx.filterMap (fun d => match d.1 with
    | .refuse r => some (d.2, r)
    | .accept _ _ => none)
  let mask := refs.foldl (fun m p => m + 2 ^ (48 + p.1)) 0
  let reasons := refs.foldl (fun m p => m + p.2 * 2 ^ (32 + 2 * p.1)) 0
  BitVec.ofNat 64 (2 ^ 63 + c.statusShown * 2 ^ 56 + mask + reasons + Nat.min c.landedBytes (2 ^ 32 - 1))

/-- R180, R188: the fault that the observing instruction reports. -/
def CopyOp.fault (c : CopyOp) : Option BatchFault :=
  if c.status = 2 ∨ c.status = 3 ∨ c.status = 4 then some { cause := statusCause c.status, tval := 0, taddr := c.taddr }
  else if c.status = 7 then some { cause := .format, tval := c.tval, taddr := 0 }
  else none

/-- The end that every engine operation of the copy engine has in common: counted, recorded, observed by its batch. -/
def State.endCopy (c : CopyOp) (s : State) : State :=
  match s.block? c.block with
  | none => s
  | some b =>
    let s3 := (s.recordCopy c b).opDone c.id c.fault
    ({ s3 with copies := s3.copies.filter (fun k => k.id != c.id) }).checkBlock c.block

/-- 14 R253: the scope at which the join of a copy acquires: that of its destination. -/
def CopyOp.joinScope (c : CopyOp) : BitVec 3 :=
  match c.kind with
  | .cpg => 1
  | .cps => 3
  | .cpm => 2
  | .cpx pull => if pull then 4 else 5
  | .gconv => 3

/-- A receiver's end: its slot lands when the copy has no fault; its barrier is updated. -/
def State.endReceiver (c : CopyOp) (r : Nat × Nat) (s : State) : State :=
  let s1 := match c.side with
    | .tray t => if c.status = 0 then s.landSlot r.1 t r.2 else s
    | _ => s
  match c.bar with
  | some off => if c.status = 7 then s1
    else s1.barUpdate r.1 off (.copied c.landedBytes (c.arr && decide (c.status = 0)) (decide (c.status = 1)) c.joinScope)
  | none => s1

/-- R186: the barrier, the completion word, the batch. -/
def State.finishCopy (op : Nat) (s : State) : State :=
  match s.copy? op with
  | none => s
  | some c0 =>
    if ¬ s.copyMoves c0 ∨ ¬ c0.over ∨ c0.kind = .gconv ∨ c0.stream then s
    else if ¬ s.copyHead c0 then s.dueOnce acTicks (.copyComplete op)
    else
      let (c, s1) := s.settleStatus c0
      let ends := if c.kind = .cps then [(c.block, 0)] else c.receivers
      let s2 := if c.refused ∧ c.kind = .cpg then s1 else ends.foldl (fun s r => s.endReceiver c r) s1
      let s3 := match c.cw with
        | some off => s2.mapBlock c.block (Block.writeWindow off (natBytes 8 c.word.toNat))
        | none => s2
      s3.endCopy c

def execCopyComplete (op : Nat) (s : State) : Out :=
  stepOf (fun s => s.buffered (s.copyCore op) (.copyComplete op) (State.finishCopy op)) s

/-- 07 R149: the copies of a block that runs again take their turns. -/
def State.resumeCopies (block : Nat) (s : State) : State :=
  (s.copies.filter (fun c => decide (c.block = block) && !c.finished)).foldl (fun s c =>
    (s.mapCopy c.id (fun c => { c with waiting := c.waiting.map (fun w => { w with id := none }) })).dueOnce 0
      (if c.kind = .gconv then .gconvBlock c.id else .copyChunkLand c.id)) s

end Sys2Proof.Machine
end

