-- ==== Sys2Proof/Machine/Copy.lean ====
section
/-!
DEFINITION. Sys2Proof/Machine/Copy.lean: the issue of copies (09 R182 to R186, R189, 22 R361), and the replies that copies and
strands wait for (19 R320, R321).
-/

namespace Sys2Proof.Machine

/-! ## Issue -/

/-- The strand's earlier copies and those of its core, with room for one more (R186). -/
def State.copyRoom (s : State) : Bool :=
  decide ((s.copies.filter (fun c => decide (c.core = s.blk.core) && !c.stream && !c.finished)).length < 64)

/-- The records that a copy reads at issue: their addresses with their alignment, which is their size or less. -/
def recordAccess (units : List (Nat × W64)) : Access := { units := units, size := 1, acc := .read, scalar := true }

/-- The bytes of the records, once their translations are there, through the record cache or as the view reads them; a wait, a
trap, a halt otherwise. -/
def readRecords (cached : Bool) (sizes : List Nat) (units : List W64) (k : List (List Byte) → State → Result) (s : State) : Result :=
  let a := recordAccess (units.zipIdx.map (fun u => (u.2, u.1)))
  let (m, s1) := s.resolve a
  if m.waiting ≠ [] then .stall 5 s1
  else if m.failed ≠ [] then a.finish m.failed s1
  else if m.ok.any (fun u => s1.recordHeld s1.blk.core cached u (sizes[u.unit]?.getD 0)) then .stall 4 s1
  else
    let (bs, mark, pois, s2) := (List.zip ((List.range units.length).filterMap (fun k => m.ok.find? (fun u => u.unit == k))) sizes).foldl
      (fun (acc : List (List Byte) × Option W64 × Option W64 × State) (p : UnitPa × Nat) =>
        let s0 := acc.2.2.2
        let (b, mark, pois, s2) := if cached then s0.readRecord s0.blk.core s0.me.id p.1 p.2 else s0.readView s0.blk.core s0.me.id p.1 p.2
        let va := units[p.1.unit]?.getD 0
        (acc.1 ++ [b], if mark ∧ acc.2.1.isNone then some va else acc.2.1, if pois ∧ acc.2.2.1.isNone then some va else acc.2.2.1, s2))
      ([], none, none, s1)
    match pois, mark with
    | some va, _ => .ended (s2.halt (s2.trapAll .poison 0 va))
    | none, some va => .trap (s2.trapAll .decode 0 va) s2
    | none, none => k bs s2

/-- The box origin: S[sC] to S[sC + 4]. -/
def State.copyOrigin (s : State) (c : BitVec 6) : List Int := (List.range 5).map (fun k => (s.srange c k).toInt)

/-- R184: what a destination descriptor may not hold. -/
def descBad (kind : CopyKind) (b : Block) (x : W64) : Bool :=
  let k := slice x 63 60
  let cpm := decide (kind = .cpm)
  decide (3 ≤ k) || decide (slice x 53 52 ≠ 0) || decide (slice x 31 25 ≠ 0)
    || (decide (k ≠ 0) && decide (slice x 59 58 ≠ 0))
    || (decide (k ≠ 1) && bit x 54)
    || (!cpm && decide (slice x 57 55 ≠ 0))
    || (decide (k = 2) && decide (kind ≠ .cpg)) || (decide (k = 1) && decide (kind = .cps))
    || (decide (k = 1) && (decide (b.trays.length ≤ slice x 3 0) || decide (slice x 19 4 ≠ 0) || decide (slice x 51 48 ≠ 0)
          || ((b.trays[slice x 3 0]?).map (·.stream)).getD false))
    || (decide (k = 2) && (decide (b.planes.length ≤ slice x 6 0) || decide (slice x 24 7 ≠ 0)))
    || (!cpm && decide (slice x 24 20 ≠ 0))

/-- R184: the core side that a descriptor names. -/
def descSide (x : W64) : CoreSide :=
  if slice x 63 60 = 0 then .window (slice x 19 0) else if slice x 63 60 = 1 then .tray (slice x 3 0) else .plane (slice x 6 0)

/-- R185: the completion word: none, or its offset in the own window; MISALIGNED and PERMISSION at issue. -/
def withWord (q : W64) (k : Option Nat → State → Result) (s : State) : Result :=
  if q = 0 then k none s else ownLocal q 8 8 (fun off => k (some off)) s

/-- R184: the barrier's checks, then the core side's. -/
def windowChecks (x : W64) (lay : Layout) (k : State → Result) (s : State) : Result :=
  let off := slice x 51 32
  if slice x 63 60 ≠ 0 then k s
  else if bit x 59 ∧ off % 8 ≠ 0 then .trap (s.trapAll .misaligned 0 (BitVec.ofNat 64 off)) s
  else if bit x 59 ∧ s.blk.windowSize < off + 8 then .trap (s.trapAll .permission 0 (BitVec.ofNat 64 off)) s
  else if s.blk.windowSize < slice x 19 0 + lay.span then .trap (s.trapAll .permission 0 (BitVec.ofNat 64 (slice x 24 0))) s
  else k s

/-- 07 R146, R147: the copy is forked: it joins at the scope of its destination (14 R253). -/
def State.forkCopy (join : BitVec 3) (c : CopyOp) (s : State) : State :=
  let (op, s1) := s.fresh
  ({ s1 with copies := s1.copies ++ [{ c with id := op }] }.mapMe (fun t => { t with cp := t.cp.fork op join })).due 0 (.copyChunkLand op)

/-- A copy before it has moved anything. -/
def State.newCopy (s : State) (kind : CopyKind) (lay : Layout) (origin : List Int) (side : CoreSide) (desc : W64)
    (cw : Option Nat) (remote : List Byte) : CopyOp :=
  { id := 0, kind := kind, strand := s.me.id, block := s.blk.id, core := s.blk.core, vd := s.blk.vd, priv := s.me.priv,
    lay := lay, origin := origin, side := side, desc := desc,
    bar := if kind ≠ .cpx true ∧ kind ≠ .cpx false ∧ slice desc 63 60 = 0 ∧ bit desc 59 then some (slice desc 51 32) else none,
    arr := bit desc 58, gen := if slice desc 63 60 = 1 ∧ bit desc 54 then some (slice desc 47 32) else none, cw := cw,
    next := 0, bytes := 0, status := 0, tval := 0, taddr := 0, slot := none, decided := [], stream := false,
    issuedAt := s.now, waiting := none, finished := false, rawn := 0, remote := remote, remoteEnd := none, cross := false }

def copyForm (word : W32) (l c d q : BitVec 6) : Form := { word := word, use := { sr := [l, d, q], range := [(c, 5)] } }

/-- R183 to R186: the issue of `cpg`, `cps` and `cpm`; an ordering point for the strand's local stores, those to peers' windows among them
(14 R252). -/
def issueCopy (word : W32) (kind : CopyKind) (join : BitVec 3) (l c d q : BitVec 6) (s : State) : Result :=
  if ¬ s.copyRoom then .stall 10 s
  else if ¬ s.canPublish 1 then .stall 4 s
  else if (s.sreg l).toNat % 128 ≠ 0 then .trap (s.trapAll .misaligned 0 (s.sreg l)) s
  else readRecords true [128] [s.sreg l] (fun bs s =>
    let b := bs.headD []
    let lay := Layout.of b
    let origin := s.copyOrigin c
    let x := s.sreg d
    match lay.check b origin with
    | some v => .trap (s.trapAll .format (BitVec.ofNat 64 v) 0) s
    | none =>
      if descBad kind s.blk x then .trap (s.trapAll .illegal (word.setWidth 64) 0) s
      else windowChecks x lay (withWord (s.sreg q) (fun cw s =>
        .done (s.forkCopy join (s.newCopy kind lay origin (descSide x) x cw [])))) s) s

def execCpg (l c d q : BitVec 6) (s : State) : Out := issue (copyForm (assemble 0xD0000000 [(l.toNat, 18), (c.toNat, 12), (d.toNat, 6), (q.toNat, 0)]) l c d q) (issueCopy (assemble 0xD0000000 [(l.toNat, 18), (c.toNat, 12), (d.toNat, 6), (q.toNat, 0)]) .cpg 1 l c d q) s
def execCps (l c d q : BitVec 6) (s : State) : Out := issue (copyForm (assemble 0xD1000000 [(l.toNat, 18), (c.toNat, 12), (d.toNat, 6), (q.toNat, 0)]) l c d q) (issueCopy (assemble 0xD1000000 [(l.toNat, 18), (c.toNat, 12), (d.toNat, 6), (q.toNat, 0)]) .cps 3 l c d q) s
def execCpm (l c d q : BitVec 6) (s : State) : Out := issue (copyForm (assemble 0xD2000000 [(l.toNat, 18), (c.toNat, 12), (d.toNat, 6), (q.toNat, 0)]) l c d q) (issueCopy (assemble 0xD2000000 [(l.toNat, 18), (c.toNat, 12), (d.toNat, 6), (q.toNat, 0)]) .cpm 2 l c d q) s

/-- 22 R361: the TVAL of a remote target record that breaks a rule. -/
def remoteCheck (bs : List Byte) : Option Nat :=
  let tests : List (Bool × Nat) :=
    [(decide (63 < recField bs 17 1), 0x10011), (decide (1 < recField bs 18 1), 0x10012),
     (decide (recField bs 19 5 ≠ 0), 0x10013), (decide (recField bs 32 32 ≠ 0), 0x10020)]
  (tests.find? (·.1)).map (·.2)

/-- 22 R352: a virtual device has at most 1,024 operations outstanding as initiator: remote copies, and sows on their way to a peer; at its limit
it waits. -/
def State.initiatorRoom (s : State) (vd : Nat) : Bool :=
  let remote (c : CopyOp) : Bool := match c.kind with
    | .cpx _ => decide (c.vd = vd) && !c.finished
    | _ => false
  let abroad (o : SowOp) : Bool := match o.phase with
    | .abroad _ => decide (o.vd = vd)
    | _ => false
  decide ((s.copies.filter remote).length + (s.sows.filter abroad).length < 1024)

/-- 22 R361: `cpx` reads the layout record and the remote target record at issue. -/
def issueRemote (l c d q : BitVec 6) (s : State) : Result :=
  if ¬ s.copyRoom ∨ ¬ s.initiatorRoom s.blk.vd then .stall 10 s
  else if ¬ s.canPublish 1 then .stall 4 s
  else if (s.sreg l).toNat % 128 ≠ 0 then .trap (s.trapAll .misaligned 0 (s.sreg l)) s
  else if (s.sreg d).toNat % 64 ≠ 0 then .trap (s.trapAll .misaligned 0 (s.sreg d)) s
  else readRecords true [128, 64] [s.sreg l, s.sreg d] (fun bs s =>
    let b := bs.headD []
    let r := bs[1]?.getD []
    let lay := Layout.of b
    let origin := s.copyOrigin c
    match (lay.check b origin).or (remoteCheck r) with
    | some v => .trap (s.trapAll .format (BitVec.ofNat 64 v) 0) s
    | none => withWord (s.sreg q) (fun cw s =>
      let pull := decide (recField r 18 1 = 1)
      .done (s.forkCopy (if pull then 4 else 5) (s.newCopy (.cpx pull) lay origin (.window 0) 0 cw r))) s) s

def execCpx (l c d q : BitVec 6) (s : State) : Out := issue (copyForm (assemble 0xD3000000 [(l.toNat, 18), (c.toNat, 12), (d.toNat, 6), (q.toNat, 0)]) l c d q) (issueRemote l c d q) s

/-! ## What waits for a translation (19 R320, R321) -/

/-- R321: an agent that has no translation yet tries its walk again. -/
def State.walkAgain (agent : AgentRef) (s : State) : State :=
  match agent with
  | .strand id => s.walkFor id
  | .engine op => match s.copy? op with
    | some c => if c.kind = .gconv then s.dueOnce 0 (.gconvBlock op) else s.buffered (s.copyCore op) (.copyChunkLand op) (State.copyTurn op)
    | none => s

/-- R321: a miss puts its request into the queue, where there is room. -/
def execPageRequest (agent : AgentRef) (s : State) : Out := stepOf (State.walkAgain agent) s

/-- R320, R323: a walk that a reply has started: its agents replay, or fault. -/
def execTranslationWalk (agent : AgentRef) (s : State) : Out := stepOf (State.walkAgain agent) s

end Sys2Proof.Machine
end

