-- ==== Sys2Proof/Machine/Sow.lean ====
section
/-!
DEFINITION. Sys2Proof/Machine/Sow.lean: beds, offers, the readiness tree, sows (12), beds that span packages (22 R363 to R365).

A report carries the child's count of the moment at which its report slot serves it; it arrives 4 to 20 cc after the change (R215).
-/

namespace Sys2Proof

/-! ## The tree (R215) -/

/-- A core's nodes from itself to the fabric unit. -/
def coreChain (c : Nat) : List TreeNode := [.core c, .cluster (c / 8), .die (c / 128), .package, .fabric]

def TreeNode.parent : TreeNode → Option TreeNode
  | .core c => some (.cluster (c / 8))
  | .cluster k => some (.die (k / 16))
  | .die _ => some .package
  | .package => some .fabric
  | .peer _ => some .fabric
  | .fabric => none

/-- R213: the root of a scope code that contains a core. -/
def scopeRoot (scope core : Nat) : TreeNode :=
  match scope with
  | 2 => .cluster (core / 8)
  | 3 => .die (core / 128)
  | 4 => .package
  | _ => .fabric

/-- Whether a core lies in the subtree of a node. -/
def TreeNode.holds (n : TreeNode) (core : Nat) : Bool := (coreChain core).contains n

/-- Row-major order among the siblings, their number, the column and the row (R216). -/
def TreeNode.order : TreeNode → Nat
  | .core c => c % 8
  | .cluster k => k % 16
  | .die d => d
  | .peer p => 1 + p
  | _ => 0

def TreeNode.siblings : TreeNode → Nat
  | .core _ => 8
  | .cluster _ => 16
  | .die _ => 4
  | _ => 33

def TreeNode.place : TreeNode → Nat × Nat
  | .core c => (c % 4, c % 8 / 4)
  | .cluster k => (k % 4, k % 16 / 4)
  | .die d => (d % 2, d / 2)
  | _ => (0, 0)

/-- The sum of the absolute column and row differences. -/
def TreeNode.distance (a b : TreeNode) : Nat :=
  let d (x y : Nat) : Nat := if x ≤ y then y - x else x - y
  d a.place.1 b.place.1 + d a.place.2 b.place.2

def TreeNode.level : TreeNode → Nat
  | .core _ => 0
  | .cluster _ => 1
  | .die _ => 2
  | .package => 3
  | _ => 4

/-- A node and the nodes above it, lowest first. -/
def TreeNode.chain (n : TreeNode) : List TreeNode :=
  match n with
  | .core c => coreChain c
  | .cluster k => coreChain (k * 8) |>.drop 1
  | .die d => coreChain (d * 128) |>.drop 2
  | .package => [.package, .fabric]
  | .fabric => [.fabric]
  | .peer p => [.peer p, .fabric]

/-- R216 step 1: the hops from a node to another: up to the lowest node that holds both, and down. -/
def TreeNode.hops (n root : TreeNode) : Nat :=
  let meet := (n.chain.find? (fun k => root.chain.contains k)).getD .fabric
  (meet.level - n.level) + (meet.level - root.level)

/-- The die on which a node stands; the package's units stand where the part puts them (log entry 56). -/
def TreeNode.onDie : TreeNode → Nat
  | .core c => c / 128
  | .cluster k => k / 16
  | .die d => d
  | _ => Config.packageDie % 4

/-- R219: the cold-frame storage of a root. -/
def TreeNode.storage : TreeNode → Nat
  | .cluster _ => 1024
  | .die _ => 8192
  | _ => 32768

end Sys2Proof

namespace Sys2Proof.Machine

/-! ## Beds, sows, offers -/

def State.bed? (s : State) (n : BitVec 32) : Option Bed := s.beds.find? (fun b => b.number == n)
def State.mapBed (n : BitVec 32) (f : Bed → Bed) (s : State) : State := { s with beds := updIf (fun b => b.number == n) f s.beds }
def State.sow? (s : State) (op : Nat) : Option SowOp := s.sows.find? (fun o => o.id == op)
def State.mapSow (op : Nat) (f : SowOp → SowOp) (s : State) : State := { s with sows := updIf (fun o => o.id == op) f s.sows }

/-- R212: a bed as the strands of a partition see it. -/
def State.ownBed (s : State) (n : BitVec 32) (vd : Nat) : Option Bed := (s.bed? n).filter (fun b => b.part == vd)

def Block.offer? (b : Block) (n : BitVec 32) : Option Offer := b.offers.find? (fun e => e.bed == n)

/-- Rewrites a block's entry for a bed; an entry that holds nothing goes. -/
def Block.mapOffer (n : BitVec 32) (f : Offer → Offer) (b : Block) : Block :=
  { b with offers := (updIf (fun e => e.bed == n) f b.offers).filter (fun e => decide (e.count ≠ 0 ∨ e.queue ≠ [])) }

/-- A node's copy of a child's count. -/
def Bed.copy (n : TreeNode) (b : Bed) : Nat := ((b.copies.find? (fun e => decide (e.1 = n))).map (·.2)).getD 0

def Bed.setCopy (n : TreeNode) (v : Nat) (b : Bed) : Bed :=
  { b with copies := b.copies.filter (fun e => decide (e.1 ≠ n)) ++ (if v = 0 then [] else [(n, v)]) }

/-- The sum of a node's copies of its children's counts. -/
def Bed.sum (n : TreeNode) (b : Bed) : Nat :=
  (b.copies.filter (fun e => decide (e.1.parent = some n))).foldl (fun m e => m + e.2) 0

/-- R222: whether a block's offers stand in its core's counts: from RESTORING to STOPPING. -/
def Block.offering (b : Block) : Bool := decide (b.phase = .running ∨ b.phase = .restoring)

/-- R215: a node's own count: a core's unclaimed offers of its blocks, or the sum of the copies. -/
def State.readiness (s : State) (b : Bed) (n : TreeNode) : Nat :=
  match n with
  | .core c => (s.allBlocks.filter (fun k => decide (k.core = c) && k.offering)).foldl
      (fun m k => m + ((k.offer? b.number).map (·.count)).getD 0) 0
  | _ => b.sum n

/-- Whether a report waits for its slot still. -/
def Report.waits (n : TreeNode) (now : Nat) (r : Report) : Bool := decide (r.node = n ∧ now < r.slot)

/-- R215: a changed count is on its way to the parent: 0 to 16 cc of waiting for the report slot (log entry 3), then a hop of 4 cc.  A
report that waits takes the newest count; one on its hop does not. -/
def State.report (n : TreeNode) (bed : BitVec 32) (s : State) : State :=
  match s.bed? bed with
  | none => s
  | some b =>
    if b.root = n ∨ n.parent.isNone then s
    else if b.reports.any (Report.waits n s.now) then
      s.mapBed bed (fun b => { b with reports := updIf (Report.waits n s.now) (fun r => { r with count := s.readiness b n }) b.reports })
    else
      let (k, s1) := s.draw
      let wait := Config.agentChoice k % 17 * ccTicks
      (s1.mapBed bed (fun b => { b with reports := b.reports ++ [{ node := n, slot := s.now + wait, count := s.readiness b n }] })).due
        (wait + 4 * ccTicks) (.readinessReport n bed)

/-! ## Slots and registers of a core (07 R128, 12 R214, R224) -/

/-- 03 R70: whether an operation that the strand started is still outstanding. -/
def State.strandBusy (s : State) (id : Nat) : Bool :=
  s.copies.any (fun c => decide (c.strand = id) && !c.finished) || s.mxops.any (fun m => m.members.contains id && !m.done)
    || s.sows.any (fun o => decide (o.strand = id))

/-- The blocks that hold units of a core. -/
def State.blocksOn (s : State) (core : Nat) : List Block :=
  s.allBlocks.filter (fun b => decide (b.core = core ∧ b.phase ≠ .evicted ∧ b.phase ≠ .ended))

/-- The strands that hold a slot: all of a resident block but the handler strands that have exited. -/
def State.holders (s : State) (core : Nat) : List Strand :=
  (s.blocksOn core).flatMap (fun b => (s.strandsOf b.id).filter (fun t =>
    decide (t.slot < 32) && !(t.handler && decide (t.run = .exited) && !s.strandBusy t.id)))

def State.reservations (s : State) (core : Nat) : List Reservation :=
  ((s.blocksOn core).filter Block.offering).flatMap (fun b => b.offers.flatMap (·.reserved))

def State.slotsTaken (s : State) (core : Nat) : List Nat := (s.holders core).map (·.slot) ++ (s.reservations core).map (·.slot)

def State.vregsTaken (s : State) (core : Nat) : Nat :=
  (s.holders core).foldl (fun m t => m + t.budget) 0 + (s.reservations core).foldl (fun m r => m + r.budget) 0

/-- The lowest n free slots of a core, as many as there are with `budget` registers each. -/
def State.freeSlots (s : State) (core budget n : Nat) : List Nat :=
  let left := 2048 - s.vregsTaken core
  let n1 := if budget = 0 then n else Nat.min n (left / budget)
  ((List.range 32).filter (fun k => !(s.slotsTaken core).contains k)).take n1

/-! ## How a sow ends (R218, R227) -/

/-- R227: the completion word. -/
def SowOp.word (done status taker : Nat) (o : SowOp) : W64 :=
  BitVec.ofNat 64 (done * 2 ^ 63 + status * 2 ^ 56 + (if o.parked then 2 ^ 55 else 0) + taker * 2 ^ 32
    + Nat.min o.bounces 0xFFFF * 2 ^ 16)

def State.writeSowWord (o : SowOp) (done status taker : Nat) (s : State) : State :=
  match o.cw with
  | some off => s.mapBlock o.block (Block.writeWindow off (natBytes 8 (o.word done status taker).toNat))
  | none => s

/-- R220: whether an earlier ordered sow of the strand to the bed has neither been accepted nor ended. -/
def SowOp.before (a o : SowOp) : Bool :=
  decide (a.strand = o.strand ∧ a.bed = o.bed ∧ a.id < o.id) && !a.unord && !a.returned && !a.accepted
    && decide (a.phase ≠ .queued ∧ a.phase ≠ .ended)

/-- R220: the next ordered sow of the strand to the bed departs. -/
def State.sendNext (o : SowOp) (s : State) : State :=
  match s.sows.find? (fun k => decide (k.strand = o.strand ∧ k.bed = o.bed ∧ k.phase = .held) && !k.unord) with
  | some k => s.dueOnce 0 (.sowSend k.id)
  | none => s

/-- R218: a sow ends: the final write of its completion word, its batch, its successor; a peer's sow is answered (22 R364). -/
def State.completeSow (o : SowOp) (status : Nat) (taker : Option Nat) (s : State) : State :=
  let place := match taker with
    | some c => (placeOffset o.core c).toNat
    | none => 0
  let s1 := (s.writeSowWord o 1 status place).opDone o.id none
  let s2 : State := { s1 with
    sows := s1.sows.filter (fun k => k.id != o.id),
    outbox := s1.outbox ++ (o.foreign.map (fun addr => OutMsg.sowEnd addr o.bed status)).toList }
  (s2.sendNext o).checkBlock o.block

/-- 11 R210: a completion that comes while the sender's cluster drains waits in the event buffer of its core. -/
def State.endSow (o : SowOp) (status : Nat) (taker : Option Nat) (s : State) : State :=
  match (s.clusterOf (coreCluster o.core)).state with
  | .draining _ =>
    if o.block = 0 then s.completeSow o status taker
    else (s.mapSow o.id (fun o => { o with phase := .ended, result := some (status, taker) })).buffered o.core (.sowAtNode (.sow o.id)) id
  | _ => s.completeSow o status taker

/-! ## Steering (R216) -/

/-- The child that the sow climbed out of at a node; none where it started at the root, or at another level. -/
def SowOp.origin (n : TreeNode) (o : SowOp) : Option TreeNode :=
  if o.fromCore then (coreChain o.core).find? (fun k => decide (k.parent = some n)) else none

/-- The node from which the last hop took a sow to where it is; one that goes to its root by itself comes from its sender's core. -/
def SowOp.hopFrom (o : SowOp) : TreeNode :=
  if o.phase = .descending then o.node.parent.getD o.node
  else match o.bounced with
    | some k => k
    | none => if o.foreign.isSome then o.node else if o.fromCore then (o.origin o.node).getD o.node else .core o.core

/-- Step 3, ties: the first child at or after a node's pointer, in row-major order. -/
def roundRobin (pointers : List (TreeNode × Nat)) (n : TreeNode) (kids : List TreeNode) : Option TreeNode :=
  let p := ((pointers.find? (fun e => decide (e.1 = n))).map (·.2)).getD 0
  let turn (k : TreeNode) : Nat := (k.order + k.siblings - p) % k.siblings
  kids.foldl (fun m k => match m with
    | some j => if turn k < turn j then some k else some j
    | none => some k) none

/-- A count by node, and a list of counts with one of them set. -/
def countOf (n : TreeNode) (l : List (TreeNode × Nat)) : Nat := ((l.find? (fun e => decide (e.1 = n))).map (·.2)).getD 0

def setCount (n : TreeNode) (v : Nat) (l : List (TreeNode × Nat)) : List (TreeNode × Nat) :=
  l.filter (fun e => decide (e.1 ≠ n)) ++ (if v = 0 then [] else [(n, v)])

/-- A node's pointer moves past a child. -/
def passChild (n k : TreeNode) (l : List (TreeNode × Nat)) : List (TreeNode × Nat) :=
  l.filter (fun e => decide (e.1 ≠ n)) ++ [(n, (k.order + 1) % k.siblings)]

/-- The sum of a node's copies of its children's counts. -/
def childSum (n : TreeNode) (l : List (TreeNode × Nat)) : Nat :=
  (l.filter (fun e => decide (e.1.parent = some n))).foldl (fun m e => m + e.2) 0

/-- Step 3: the nearest child with a positive count; among the nearest, the first at or after the pointer. Packages have no
coordinates: every child of a fabric unit counts as distance 0 (log entry 21). -/
def Bed.pick (o : SowOp) (n : TreeNode) (b : Bed) : Option TreeNode :=
  let kids := (b.copies.filter (fun e => decide (e.1.parent = some n ∧ e.2 ≠ 0))).map (·.1)
  let dist (k : TreeNode) : Nat := match o.origin n with
    | some x => if n = .fabric then 0 else k.distance x
    | none => 0
  let near := kids.foldl (fun m k => Nat.min m (dist k)) 100
  roundRobin b.pointers n (kids.filter (fun k => decide (dist k = near)))

/-- The sow goes down to a child: its count falls by 1, the pointer moves past it. -/
def State.descend (o : SowOp) (n k : TreeNode) (s : State) : State :=
  let s1 := s.mapBed o.bed (fun b => { b.setCopy k (b.copy k - 1) with pointers := passChild n k b.pointers })
  ((s1.report n o.bed).mapSow o.id (fun o => { o with node := k, phase := .descending, bounced := none })).dueOnce (4 * ccTicks)
    (.sowAtNode (.sow o.id))

/-- R219: the root releases parked sows oldest first, one per positive unit; `fuel` bounds their number. -/
def State.releaseCold : Nat → BitVec 32 → State → State
  | 0, _, s => s
  | fuel + 1, bed, s =>
    match s.bed? bed with
    | none => s
    | some b => match b.frame.head?.bind s.sow? with
      | none => s
      | some o =>
        match b.pick o b.root with
        | none => s
        | some k => ((s.mapBed bed (fun b => { b with frame := b.frame.tail })).descend o b.root k).releaseCold fuel bed

def State.releaseAll (bed : BitVec 32) (s : State) : State :=
  s.releaseCold (((s.bed? bed).map (·.frame.length)).getD 0) bed

/-- R229: the cold capacity that a sow meets: that of the bed when it was issued. -/
def Bed.coldFor (op : Nat) (b : Bed) : Nat := ((b.colds.find? (fun e => decide (op < e.1))).map (·.2)).getD b.cold

/-- R219: a sow without offers parks at the root, or is refused; one that was parked, or that has come back, stands at the head
and is never refused.  A sow that came back goes on from the root with every distance 0: the model's choice (log entry 66). -/
def State.park (o : SowOp) (b : Bed) (s : State) : State :=
  let again := o.parked || o.returned
  let held := b.frame.filter (fun k => ((s.sow? k).map (fun o => !o.returned)).getD false)
  if ¬ again ∧ b.coldFor o.id ≤ held.length then s.endSow o 1 none
  else
    let o1 := { o with phase := .parked, parked := true, node := b.root, bounced := none, fromCore := o.fromCore && !o.returned }
    ((s.mapSow o.id (fun _ => o1)).mapBed b.number (fun b =>
      { b with frame := if again then o.id :: b.frame else b.frame ++ [o.id] })).writeSowWord o1 0 0 0

/-! ## Acceptance (R216 step 4, R218, R224) -/

/-- R228: what SOWFROM shows of a sow at a core: 0 for one from another package. -/
def SowOp.from_ (here : Nat) (o : SowOp) : BitVec 16 := if o.foreign.isSome then 0 else placeOffset here o.core

/-- The handler strand that a reservation of a block starts. -/
def handlerStrand (id : Nat) (b : Block) (r : Reservation) (o : SowOp) (pc : W64) (now : Nat) : Strand :=
  let t := { Strand.init with
    id := id, block := b.id, run := .running, pc := pc, slot := r.slot, role := r.role, kind := r.kind, budget := r.budget,
    wid := r.wid, priv := r.priv, prot := b.prot, chk := b.chk, handler := true, launchAt := now, readyAt := now + 6 * nsTicks,
    sowfrom := o.from_ b.core }
  (o.payload.zipIdx.foldl (fun t p => t.putS (3 + p.2) p.1) t).putM 0 t.visible

/-- The slot of a handler strand that has exited goes to another strand: the ends of channels that were bound to it are closed
(03 R70). -/
def State.vacate (core slot : Nat) (s : State) : State :=
  let gone := (s.blocksOn core).filter (fun b => (s.strandsOf b.id).any (fun t => t.handler && t.slot == slot))
  gone.foldl (fun s b =>
    (s.mapStrands (fun t => t.block == b.id && t.handler && t.slot == slot) (fun t => { t with slot := 32 })).mapBlock b.id (fun b =>
      { b with channels := b.channels.map (fun c =>
        { c with readerClosed := c.readerClosed || decide (c.reader = some slot), writerClosed := c.writerClosed || decide (c.writer = some slot),
                 reader := if c.reader = some slot then none else c.reader,
                 writer := if c.writer = some slot then none else c.writer }) })) s

/-- A new strand stands beside the others. -/
def State.addStrand (t : Strand) (s : State) : State := { s with strands := s.strands ++ [t] }

/-- R221: an acquire at a bed's scope by the strands of a core. -/
def State.acquireAt (core : Nat) (scope : BitVec 3) (s : State) : State := if wideScope scope then s.l1Refresh core else s

/-- A spawn-mode acceptance.  Offers that outlive a change of the handler to 0 start their strand at PC 0: the model's choice (log entry
67). -/
def State.spawnHandler (o : SowOp) (bed : Bed) (b : Block) (r : Reservation) (s : State) : State :=
  let (id, s1) := (s.vacate b.core r.slot).fresh
  (s1.addStrand (handlerStrand id b r o bed.handler s1.now)).acquireAt b.core o.scope

/-- The block of a core that takes a sow: the one that has held offers for the bed longest.  Offers that are made again at RESTORING keep the
rank that they had, which the spec leaves open (log entry 50). -/
def State.accepter (s : State) (core : Nat) (bed : Bed) : Option (Block × Offer) :=
  ((s.allBlocks.filter (fun b => decide (b.core = core ∧ b.vd = bed.part) && b.offering
      && !(s.strandsOf b.id).all Strand.over)).filterMap (fun b => (b.offer? bed.number).bind (fun e =>
        if e.count = 0 then none else some (b, e)))).foldl
    (fun m p => match m with
      | some q => if p.2.since < q.2.since then some p else some q
      | none => some p) none

/-- The leaf consumes one offer; that a peer's sow stands in a take queue is reported to its sender's fabric unit (22 R364). -/
def State.accept (o : SowOp) (bed : Bed) (b : Block) (e : Offer) (core : Nat) (s : State) : State :=
  let s0 := (s.count o.vd 0x0B 1 o.priv).wakeStrands (fun t => t.block == b.id)
  if e.spawn then
    match e.reserved with
    | [] => s0
    | r :: _ =>
      let s1 := s0.mapBlock b.id (Block.mapOffer bed.number (fun e => { e with count := e.count - 1, reserved := e.reserved.tail }))
      ((s1.spawnHandler o bed b r).endSow o 0 (some core)).report (.core core) bed.number
  else
    let s1 := s0.mapBlock b.id (Block.mapOffer bed.number (fun e => { e with count := e.count - 1, queue := e.queue ++ [o.id] }))
    let s1 : State := { s1 with outbox := s1.outbox ++ (o.foreign.map (fun addr => OutMsg.sowAccepted addr o.bed)).toList }
    ((s1.mapSow o.id (fun o => { o with phase := .queued, node := .core core, bounced := none })).sendNext o).report (.core core)
      bed.number

/-- R217: the sow returns to the parent. -/
def State.bounce (o : SowOp) (n : TreeNode) (s : State) : State :=
  ((s.count o.vd 0x0C 1 o.priv).mapSow o.id (fun o =>
    { o with bounces := o.bounces + 1, phase := .climbing, bounced := some n, node := n.parent.getD n })).dueOnce (4 * ccTicks)
      (.sowAtNode (.sow o.id))

/-- Step 2: one level up; one that has bounced has bounced off this node too (R217 step 4). -/
def State.climb (o : SowOp) (n : TreeNode) (s : State) : State :=
  (s.mapSow o.id (fun o => { o with node := n.parent.getD n, bounced := if o.bounced.isSome then some n else none })).dueOnce (4 * ccTicks) (.sowAtNode (.sow o.id))

/-! ## Between packages (22 R364) -/

/-- A sow leaves for a peer: the child of this root, or the root itself; a sow of the root's own, or of another of its children, is that
root's again.  At the initiator's limit it waits (22 R352); toward a peer that is unreachable it is lost (R365). -/
def State.sendAbroad (o : SowOp) (b : Bed) (peer : Option Nat) (s : State) : State :=
  let addr : BitVec 128 := match peer with
    | some p => (((s.vd? b.part).bind (fun v => v.peers.find? (fun q => q.idx == p))).map (·.addr)).getD 0
    | none => b.foreign.getD 0
  if s.control.lostPeers.contains addr then s.endSow o 3 none
  else if ¬ s.initiatorRoom o.vd then s.dueOnce (1000 * nsTicks) (.sowAtNode (.sow o.id)) else
  let s1 : State := { s with outbox := s.outbox ++ [OutMsg.sow addr o.bed o.payload] }
  if o.foreign.isSome ∧ peer.isNone then { s1 with sows := s1.sows.filter (fun k => k.id != o.id) }
  else (s1.mapSow o.id (fun o => { o with phase := .abroad peer })).dueOnce (2000 * nsTicks) (.sowAtNode (.sow o.id))

/-- The peer package that has a sow. -/
def State.sowPeer (s : State) (o : SowOp) (peer : Option Nat) : BitVec 128 :=
  match s.bed? o.bed, peer with
  | some b, some p => (((s.vd? b.part).bind (fun v => v.peers.find? (fun q => q.idx == p))).map (·.addr)).getD 0
  | some b, none => b.foreign.getD 0
  | none, _ => 0

/-- A sow that has been accepted abroad and that no strand has taken: a strand takes it, its block is reset (R218), it waits on, or its block
ends and it returns to the root: to this package's, or to the one that the peer holds, where it parks. -/
def State.acceptedTurn (o : SowOp) (peer : Option Nat) (r : Nat) (s : State) : State :=
  let again (o1 : SowOp) (s : State) : State := (s.mapSow o.id (fun _ => o1)).dueOnce (2000 * nsTicks) (.sowAtNode (.sow o.id))
  let back := { o with accepted := false, returned := true }
  if s.control.lostPeers.contains (s.sowPeer o peer) ∨ r % 4 = 2 then again o s
  else if r % 4 = 0 then s.endSow o 0 none
  else if r % 4 = 1 then s.endSow o 3 none
  else match peer, s.bed? o.bed with
    | some _, some b => s.park back b
    | _, _ => again { back with parked := true } (s.writeSowWord { back with parked := true } 0 0 0)

/-- What the peer package reports of the sow (log entry 9): a child takes it, loses it, lets it bounce or accepts it into a take queue (R364); a
foreign root also refuses it, parks it or steers it back into this package. -/
def State.abroadTurn (o : SowOp) (peer : Option Nat) (s : State) : State :=
  let (k, s1) := s.draw
  let r := Config.remoteStatus k
  let accept (s : State) : State :=
    ((s.mapSow o.id (fun o => { o with accepted := true })).sendNext o).dueOnce (2000 * nsTicks) (.sowAtNode (.sow o.id))
  if o.accepted then s1.acceptedTurn o peer r
  else match peer with
  | some p =>
    if r % 4 = 0 then s1.endSow o 0 none
    else if r % 4 = 1 then s1.endSow o 3 none
    else if r % 4 = 2 then s1.bounce o (.peer p)
    else accept s1
  | none =>
    if r % 7 < 4 then s1.endSow o (r % 7) none
    else if r % 7 = 4 then
      let o1 := { o with parked := true }
      ((s1.mapSow o.id (fun _ => o1)).writeSowWord o1 0 0 0).dueOnce (2000 * nsTicks) (.sowAtNode (.sow o.id))
    else if r % 7 = 5 then (s1.mapSow o.id (fun o => { o with phase := .descending, node := .package, fromCore := false })).dueOnce (4 * ccTicks)
      (.sowAtNode (.sow o.id))
    else accept s1

/-! ## A sow at a node -/

/-- The parent sets its copy of the child that the sow bounced from to 0 (R217 step 2). -/
def State.zeroBounced (o : SowOp) (n : TreeNode) (s : State) : State :=
  match o.bounced with
  | some k => (s.mapBed o.bed (fun b => b.setCopy k 0)).report n o.bed
  | none => s

/-- R216 step 1: a sow that the move of its bed's root has left outside the root's subtree goes to the root (log entry 73). -/
def State.goToRoot (o : SowOp) (b : Bed) (s : State) : State :=
  (s.mapSow o.id (fun o => { o with phase := .climbing, node := b.root, fromCore := false, bounced := none })).dueOnce
    (o.node.hops b.root * 4 * ccTicks) (.sowAtNode (.sow o.id))

/-- R216, R217: the sow moves on from where it is. -/
def State.sowMove (o : SowOp) (b : Bed) (s : State) : State :=
  match o.phase, o.node with
  | .abroad p, _ => s.abroadTurn o p
  | p, n => if (p = .climbing ∨ p = .descending) ∧ ¬ n.chain.contains b.root then s.goToRoot o b else
  match o.phase, o.node with
  | .climbing, .core c => match s.accepter c b with
    | some (k, e) => s.accept o b k e c
    | none => s.climb o (.core c)
  | .climbing, n =>
    if n = .fabric ∧ b.foreign.isSome then s.sendAbroad o b none
    else
      let s1 := s.zeroBounced o n
      let b1 := (s1.bed? b.number).getD b
      match b1.pick o n with
      | some k => s1.descend o n k
      | none => if n = b.root then s1.park o b1 else s1.climb o n
  | .descending, .core c => match s.accepter c b with
    | some (k, e) => s.accept o b k e c
    | none => s.bounce o (.core c)
  | .descending, .peer p => s.sendAbroad o b (some p)
  | .descending, n => match b.pick o n with
    | some k => s.descend o n k
    | none => if n = b.root then s.park o b else s.bounce o n
  | _, _ => s

/-- R216 to R219, R222: a deleted bed ends its sows in flight at the next node; one that has been accepted abroad stays takeable there. -/
def State.sowTurn (op : Nat) (s : State) : State :=
  match s.sow? op with
  | none => s
  | some o =>
    if o.phase = .ended then match o.result with
      | some (status, taker) => s.completeSow o status taker
      | none => s
    else if o.phase = .held ∨ o.phase = .parked ∨ o.phase = .queued then s
    else if o.gone ∧ ¬ o.accepted then s.endSow o 2 none
    else match s.bed? o.bed, o.phase with
      | some b, _ => s.sowMove o b
      | none, .abroad p => s.abroadTurn o p
      | none, _ => s.endSow o 2 none

/-- 22 R364: a peer's sow comes in: from a child of this package's root, or down from the root that the peer holds.  The bed's partition must
list the peer; where it does not, or the bed is absent, the sow ends REFUSED_GONE. -/
def State.sowFromPeer (p : PeerSow) (s : State) : State :=
  match s.bed? p.bed with
  | none => { s with outbox := s.outbox ++ [OutMsg.sowEnd p.addr p.bed 2] }
  | some b =>
    let idx := ((s.vd? b.part).bind (fun v => v.peers.find? (fun q => q.addr == p.addr && q.reachable))).map (·.idx)
    if idx.isNone ∨ b.root ≠ .fabric ∨ (b.foreign.isSome ∧ b.foreign ≠ some p.addr) ∨ p.payload.length < 1 ∨ 8 < p.payload.length then
      { s with outbox := s.outbox ++ [OutMsg.sowEnd p.addr p.bed 2] }
    else
      let (op, s1) := s.fresh
      let o : SowOp :=
        { id := op, bed := p.bed, vd := b.part, strand := 0, block := 0, core := 0, priv := 0, scope := BitVec.ofNat 3 b.scope,
          payload := p.payload, unord := p.unord, cw := none, node := if b.foreign.isSome then .package else .fabric, fromCore := false,
          bounced := none, phase := if b.foreign.isSome then .descending else .climbing, bounces := 0, parked := false, returned := false,
          gone := false, foreign := some p.addr }
      { s1 with sows := s1.sows ++ [o] }.dueOnce 0 (.sowAtNode (.sow op))

/-- R222: in a cluster that drains an acceptance, and a completion, waits in the core's event buffer (11 R210); a hop between
dies crosses their link (19 R308, R309). -/
def State.sowEvent (op : Nat) (s : State) : State :=
  match s.sow? op with
  | some o =>
    if o.phase = .ended then s.buffered o.core (.sowAtNode (.sow op)) (State.sowTurn op)
    else match o.node with
      | .core c => s.buffered c (.sowAtNode (.sow op)) (State.sowTurn op)
      | n =>
        if (o.phase = .climbing ∨ o.phase = .descending) ∧ s.linkHeld o.hopFrom.onDie n.onDie then s.dueOnce acTicks (.sowAtNode (.sow op))
        else (s.sendFlit o.hopFrom.onDie n.onDie).sowTurn op
  | none => s

/-- The sow moves; or a peer's sow arrives. -/
def execSowAtNode (op : SowMove) (s : State) : Out :=
  stepOf (fun s => match op with
    | .incoming p => s.sowFromPeer p
    | .sow op => s.sowEvent op) s

/-! ## Readiness reports (R215, R219) -/

/-- 22 R364: the fabric unit reports the count of its package to the root that a peer holds, at most once a µs and within 2 µs. -/
def State.reportAbroad (b : Bed) (s : State) : State :=
  match b.foreign with
  | some addr => { s with outbox := s.outbox ++ [OutMsg.ready addr b.number (b.sum .fabric)] }
  | none => s

/-- The parent's copy is overwritten with what a report carries, once its hop has crossed the link of two dies (19 R308, R309). -/
def State.performReport (n : TreeNode) (bed : BitVec 32) (s : State) : State :=
  match s.bed? bed, n.parent with
  | some b, none => s.reportAbroad b
  | some b, some p =>
    match b.reports.find? (fun r => decide (r.node = n ∧ r.slot + 4 * ccTicks ≤ s.now)) with
    | none => s
    | some r =>
      if s.linkHeld n.onDie p.onDie then s.dueOnce acTicks (.readinessReport n bed) else
      let s1 := (s.sendFlit n.onDie p.onDie).mapBed bed (fun b => { b.setCopy n r.count with reports := b.reports.erase r })
      if b.foreign.isSome ∧ p = .fabric then s1.dueOnce (1000 * nsTicks) (.readinessReport .fabric bed)
      else if p = b.root then s1.releaseAll bed
      else if b.sum p = ((s1.bed? bed).getD b).sum p then s1
      else s1.report p bed
  | none, _ => s

def execReadinessReport (node : TreeNode) (bed : BitVec 32) (s : State) : Out := stepOf (fun s => s.performReport node bed) s

/-- 22 R364, R365: a peer's whole count overwrites the root's copy, while the peer is reachable. -/
def State.peerReport (peer : Nat) (bed : BitVec 32) (count : Nat) (s : State) : State :=
  match s.bed? bed with
  | none => s
  | some b =>
    let there := ((s.vd? b.part).map (fun v => v.peers.any (fun p => p.idx == peer && p.reachable))).getD false
    if b.root ≠ .fabric ∨ b.foreign.isSome ∨ ¬ there then s
    else (s.mapBed bed (Bed.setCopy (.peer peer) count)).releaseAll bed

def execFabricReadinessReport (peer : Nat) (bed : BitVec 32) (count : Nat) (s : State) : Out :=
  stepOf (fun s => s.peerReport peer bed count) s

/-! ## Departure (R216 step 1, R220) -/

def State.departSow (op : Nat) (s : State) : State :=
  match s.sow? op with
  | none => s
  | some o =>
    if o.phase ≠ .held then s
    else if ¬ o.unord ∧ s.sows.any (fun k => k.before o) then s
    else match (if o.gone then none else s.bed? o.bed) with
      | none => s.endSow o 2 none
      | some b =>
        if b.root.holds o.core then
          (s.mapSow op (fun o => { o with phase := .climbing, node := .core o.core, fromCore := true })).dueOnce 0 (.sowAtNode (.sow op))
        else
          (s.mapSow op (fun o => { o with phase := .climbing, node := b.root, fromCore := false })).dueOnce
            ((TreeNode.core o.core).hops b.root * 4 * ccTicks) (.sowAtNode (.sow op))

def execSowSend (op : Nat) (s : State) : Out := stepOf (fun s => s.departSow op) s

/-- R222: a block's unclaimed offers join its core's counts, or leave them. -/
def State.reportOffers (b : Block) (s : State) : State := b.offers.foldl (fun s e => s.report (.core b.core) e.bed) s

/-! ## The end of a block's offers (R218, R222) -/

/-- A queued sow returns to its bed's root, ahead of every parked one.  One whose bed was deleted ends REFUSED_GONE, or parks in the bed
that was made again under the number: the model's choice (log entry 65). -/
def State.returnSow (op : Nat) (s : State) : State :=
  match s.sow? op with
  | none => s
  | some o => match (if o.gone then none else s.bed? o.bed) with
    | none => s.endSow o 2 none
    | some b =>
      if b.foreign.isSome then
        (s.mapSow op (fun o => { o with returned := true, phase := .climbing, node := .fabric })).dueOnce 0 (.sowAtNode (.sow op))
      else s.park { o with returned := true } b

/-- Every unclaimed offer of the block is removed, and every queued sow returns, in one step. -/
def State.endOffers (block : Nat) (s : State) : State :=
  match s.block? block with
  | none => s
  | some b =>
    let s1 := s.mapBlock block (fun b => { b with offers := [] })
    b.offers.foldl (fun s e =>
      ((e.queue.reverse.foldl (fun s op => s.returnSow op) s).releaseAll e.bed).report (.core b.core) e.bed) s1

/-! ## The instructions (R223 to R229) -/

/-- R223: the bed that a word looks up at issue; an absent one traps BED. -/
def withBed (a : BitVec 6) (k : Bed → State → Result) (s : State) : Result :=
  let n := (s.sreg a).setWidth 32
  match s.ownBed n s.blk.vd with
  | none => .trap (s.trapAll .bed (n.setWidth 64) 0) s
  | some b => k b s

/-- R214: the beds for which a core holds entries. -/
def State.bedsHeld (s : State) (core : Nat) : List (BitVec 32) :=
  ((s.blocksOn core).flatMap (fun b => b.offers.map (·.bed))).foldl (fun l n => if l.contains n then l else l ++ [n]) []

/-- Adds k offers to the entry of the focus's block. -/
def State.addOffers (bed : BitVec 32) (spawn : Bool) (k : Nat) (rs : List Reservation) (s : State) : State :=
  if k = 0 then s
  else
    let (rank, s1) := s.fresh
    let s2 := s1.mapBlk (fun b => match b.offer? bed with
      | none => { b with offers := b.offers ++ [{ bed := bed, spawn := spawn, count := k, queue := [], since := rank, reserved := rs }] }
      | some _ => b.mapOffer bed (fun e =>
        { e with spawn := spawn, count := e.count + k, since := if e.count = 0 then rank else e.since, reserved := e.reserved ++ rs }))
    s2.report (.core s2.blk.core) bed

/-- R224. -/
def offer (word : W32) (spawn : Bool) (d a b : BitVec 6) (s : State) : Result :=
  let x := s.sreg b
  if slice x 63 16 ≠ 0 then .trap (s.trapAll .illegal (word.setWidth 64) 0) s
  else withBed a (fun bed s =>
    let no := Result.trap (s.trapAll .bed (bed.number.setWidth 64) 0) s
    let entry := s.blk.offer? bed.number
    let held := s.bedsHeld s.blk.core
    let n := slice x 15 0
    if ¬ bed.root.holds s.blk.core then no
    else if spawn ∧ bed.handler = 0 then no
    else if 64 ≤ held.length ∧ ¬ held.contains bed.number then no
    else if (entry.map (fun e => decide (e.spawn ≠ spawn))).getD false then no
    else if spawn then
      let t := s.me
      let rs : List Reservation := (s.freeSlots s.blk.core t.budget n).map (fun k =>
        { slot := k, role := t.role, kind := t.kind, budget := t.budget, wid := t.wid, priv := t.priv })
      .done ((s.addOffers bed.number true rs.length rs).setS d (BitVec.ofNat 64 rs.length))
    else
      let k := Nat.min n (256 - ((entry.map (fun e => e.count + e.queue.length)).getD 0))
      .done ((s.addOffers bed.number false k []).setS d (BitVec.ofNat 64 k))) s

def offerForm (word : W32) (d a b : BitVec 6) : Form := { word := word, use := { sr := [a, b], sw := [d] } }

def execOfferTake (d a b : BitVec 6) (s : State) : Out := issue (offerForm (assemble 0xE0000000 [(d.toNat, 16), (a.toNat, 10), (b.toNat, 4)]) d a b) (offer (assemble 0xE0000000 [(d.toNat, 16), (a.toNat, 10), (b.toNat, 4)]) false d a b) s
def execOfferSpawn (d a b : BitVec 6) (s : State) : Out := issue (offerForm (assemble 0xE0000001 [(d.toNat, 16), (a.toNat, 10), (b.toNat, 4)]) d a b) (offer (assemble 0xE0000001 [(d.toNat, 16), (a.toNat, 10), (b.toNat, 4)]) true d a b) s

/-- R225. -/
def execWithdraw (d a b : BitVec 6) (s : State) : Out :=
  issue (offerForm (assemble 0xE0400000 [(d.toNat, 16), (a.toNat, 10), (b.toNat, 4)]) d a b) (withBed a (fun bed s =>
    let k := Nat.min (s.sreg b).toNat (((s.blk.offer? bed.number).map (·.count)).getD 0)
    let s1 := s.mapBlk (Block.mapOffer bed.number (fun e =>
      { e with count := e.count - k, reserved := e.reserved.take (e.reserved.length - k) }))
    .done ((if k = 0 then s1 else s1.report (.core s1.blk.core) bed.number).setS d (BitVec.ofNat 64 k)))) s

/-- R227: the scope at which the sow publishes; an absent bed publishes nothing.  Of the core's 64 sows in flight the model counts every one
of a sender of its own that has not ended, parked ones and accepted ones that no strand has taken among them (log entry 51). -/
def issueSow (q a b : BitVec 6) (n : BitVec 3) (u : BitVec 1) (s : State) : Result :=
  if 64 ≤ (s.sows.filter (fun o => decide (o.core = s.blk.core ∧ o.foreign = none ∧ o.phase ≠ .ended))).length then .stall 10 s
  else withWord (s.sreg q) (fun cw s =>
    let num := (s.sreg a).setWidth 32
    let bed := s.ownBed num s.blk.vd
    let scope : BitVec 3 := BitVec.ofNat 3 ((bed.map (·.scope)).getD 0)
    if ¬ s.canPublish scope then .stall 4 s
    else
      let (op, s1) := (s.publish scope).fresh
      let o : SowOp :=
        { id := op, bed := num, vd := s.blk.vd, strand := s.me.id, block := s.blk.id, core := s.blk.core, priv := s.me.priv,
          scope := scope, payload := (List.range (n.toNat + 1)).map (fun k => s.srange b k),
          unord := decide (u = 1) || ((bed.map (·.unord)).getD false), cw := cw, node := .core s.blk.core, fromCore := true,
          bounced := none, phase := .held, bounces := 0, parked := false, returned := false, gone := bed.isNone, foreign := none }
      .done (({ s1 with sows := s1.sows ++ [o] }.mapMe (fun t => { t with sw := t.sw.fork op 0 })).dueOnce 0 (.sowSend op))) s

def execSow (q a b : BitVec 6) (n : BitVec 3) (u : BitVec 1) (s : State) : Out :=
  issue { word := (assemble 0xE0800000 [(q.toNat, 16), (a.toNat, 10), (b.toNat, 4), (n.toNat, 1), (u.toNat, 0)]), use := { sr := [q, a], range := [(b, n.toNat + 1)] } } (issueSow q a b n u) s

/-- R226: the first sow of the queue goes into the registers; what stands past its payload is 0. -/
def State.receive (d : BitVec 6) (n : Nat) (o : SowOp) (s : State) : State :=
  let s1 := (List.range n).foldl (fun s k => s.setS (d + BitVec.ofNat 6 k) (o.payload[k]?.getD 0)) s
  let s2 := s1.mapMe (fun t => { t with sowfrom := o.from_ s.blk.core })
  ((s2.mapBlk (Block.mapOffer o.bed (fun e => { e with queue := e.queue.filter (fun k => k != o.id) }))).endSow o 0
    (some s.blk.core)).refresh o.scope

def takeSow (d a : BitVec 6) (n : Nat) (s : State) : Result :=
  let num := (s.sreg a).setWidth 32
  let e := s.blk.offer? num
  match (e.bind (fun e => e.queue.head?)).bind s.sow? with
  | some o => .done (s.receive d n o)
  | none =>
    if (s.ownBed num s.blk.vd).isSome ∧ (e.map (fun e => decide (e.count ≠ 0) && !e.spawn)).getD false then .stall 12 s
    else .trap (s.trapAll .bed (num.setWidth 64) 0) s

def execTake (d a : BitVec 6) (n : BitVec 3) (s : State) : Out :=
  issue { word := (assemble 0xE0C00000 [(d.toNat, 16), (a.toNat, 10), (n.toNat, 1)]), use := { sr := [a], wrange := [(d, n.toNat + 1)] } } (takeSow d a (n.toNat + 1)) s

/-! ### The bed table (R213, R229) -/

/-- 01 R19: the core at a place value relative to a core. -/
def coreAtOffset (here pv : Nat) : Option Nat :=
  let f (w hi lo : Nat) (base : Nat) : Int := (base : Int) + signedOf w (nslice pv hi lo)
  let dx := f 2 12 11 (coreDie here % 2)
  let dy := f 2 14 13 (coreDie here / 2)
  let cx := f 3 7 5 (coreCluster here % 4)
  let cy := f 3 10 8 (coreCluster here % 16 / 4)
  let kx := f 3 2 0 (coreKx here)
  let ky := f 2 4 3 (coreKy here)
  let within (x : Int) (n : Nat) : Bool := decide (0 ≤ x ∧ x < n)
  if pv < 2 ^ 15 ∧ within dx 2 ∧ within dy 2 ∧ within cx 4 ∧ within cy 4 ∧ within kx 4 ∧ within ky 2 then
    some ((((dy.toNat * 2 + dx.toNat) * 16 + (cy.toNat * 4 + cx.toNat)) * 8) + ky.toNat * 4 + kx.toNat)
  else none

/-- The root that a descriptor names: none where the core lies outside the virtual device. -/
def State.bedRoot (s : State) (bs : List Byte) (here vd : Nat) : Option TreeNode :=
  match coreAtOffset here (recField bs 18 2), s.vd? vd with
  | some c, some v => if v.holds (coreCluster c) then some (scopeRoot (recField bs 4 1) c) else none
  | _, _ => none

/-- R222: the deletion of a bed. -/
def State.deleteBed (b : Bed) (s : State) : State :=
  let s1 := s.mapBlocks (fun _ => true) (Block.mapOffer b.number (fun e => { e with count := 0, reserved := [] }))
  let s2 : State := { s1 with beds := s1.beds.filter (fun k => k.number != b.number),
                              sows := updIf (fun o => decide (o.bed = b.number ∧ o.phase ≠ .queued)) (fun o => { o with gone := true }) s1.sows }
  (b.frame.filterMap s2.sow?).foldl (fun s o => s.endSow o 2 none) s2

def State.bedPeers (s : State) (part : Nat) : List Peer := ((s.vd? part).map (·.peers)).getD []

/-- 22 R363: whether the peers take the number of a new fab-scope bed; one that refuses it (log entry 9) or is unreachable stops it. -/
def State.peersTake (part : Nat) (s : State) : Bool × State :=
  if s.bedPeers part = [] then (true, s)
  else if (s.bedPeers part).any (fun p => !p.reachable) then (false, s)
  else
    let (k, s1) := s.draw
    (decide (Config.remoteStatus k % 2 ≠ 1), s1)

/-- 22 R363: the bed is registered with every listed peer. -/
def State.registerBed (number : BitVec 32) (part : Nat) (s : State) : State :=
  { s with outbox := s.outbox ++ (s.bedPeers part).map (fun p => OutMsg.register p.addr p.vd number part) }

/-- R229: a change that keeps scope and root; sows that were issued before it meet the old cold capacity. -/
def State.changeBed (new : Bed) (s : State) : State :=
  s.mapBed new.number (fun b =>
    { b with cold := new.cold, handler := new.handler, unord := new.unord,
             colds := b.colds.filter (fun e => s.sows.any (fun o => decide (o.bed = b.number ∧ o.id < e.1)))
               ++ (if b.cold = new.cold then [] else [(s.nextId, b.cold)]) })

/-- R229: a descriptor that passes the checks of statuses 3, 2 and 4 is entered. -/
def State.enterBed (new : Bed) (old : Option Bed) (moved : Bool) (s : State) : Nat × State :=
  let reserved := (s.beds.filter (fun b => decide (b.root = new.root ∧ b.number ≠ new.number))).foldl (fun m b => m + b.cold) 0
  if (old.isNone ∧ 4096 ≤ s.beds.length) ∨ new.root.storage < reserved + new.cold then (1, s)
  else
    let s1 := if new.root = .fabric ∧ (old.isNone ∨ moved) then s.registerBed new.number new.part else s
    match old with
    | none => (0, { s1 with beds := s1.beds ++ [new] })
    | some _ => (0, if moved then s1.mapBed new.number (fun b => { new with frame := b.frame }) else s1.changeBed new)

/-- R229: the status that `bedcfg` writes, and the table; a peer's refusal is a status 2 (22 R363).  The virtual device that a root must lie
in is the strand's own; of the hypervisor, that of part, which the rule leaves open (log entry 52). -/
def State.configureBed (bs : List Byte) (here vd priv : Nat) (s : State) : Nat × State :=
  let number := BitVec.ofNat 32 (recField bs 0 4)
  let scope := recField bs 4 1
  let flags := recField bs 5 1
  let cold := recField bs 6 2
  let part := recField bs 16 2
  let old := s.bed? number
  let bad := decide (scope < 2 ∨ 5 < scope ∨ 4 ≤ flags ∨ 1024 < cold ∨ recField bs 8 8 % 4 ≠ 0 ∨ recField bs 20 12 ≠ 0)
  match s.bedRoot bs here (if priv = 2 then part else vd) with
  | none => (3, s)
  | some root =>
    if bad then (3, s)
    else if (priv < 2 ∧ part ≠ vd) ∨ (old.map (fun b => decide (b.part ≠ part))).getD false then (2, s)
    else if flags % 2 = 0 then (0, match old with
      | some b => s.deleteBed b
      | none => s)
    else
      let moved := (old.map (fun b => decide (b.scope ≠ scope ∨ b.root ≠ root))).getD false
      let offered := s.allBlocks.any (fun b => ((b.offer? number).map (fun e => decide (e.count ≠ 0))).getD false)
      let (ok, s) := if root = .fabric ∧ (old.isNone ∨ moved) then s.peersTake part else (true, s)
      if ¬ ok then (2, s)
      else if moved ∧ (offered ∨ (old.map (fun (b : Bed) => decide (b.frame ≠ []))).getD false) then (4, s)
      else s.enterBed { number := number, scope := scope, unord := decide (2 ≤ flags), cold := cold,
                        handler := BitVec.ofNat 64 (recField bs 8 8), part := part, root := root, copies := [], pointers := [],
                        frame := [], reports := [], colds := [], foreign := none } old moved

def execBedcfg (d a : BitVec 6) (s : State) : Out :=
  issue { word := (assemble 0xE1000000 [(d.toNat, 16), (a.toNat, 10)]), level := 1, use := { sr := [a], sw := [d] } } (fun s =>
    if (s.sreg a).toNat % 32 ≠ 0 then .trap (s.trapAll .misaligned 0 (s.sreg a)) s
    else readRecords false [32] [s.sreg a] (fun bs s =>
      let (st, s1) := s.configureBed (bs.headD []) s.blk.core s.blk.vd s.me.priv
      .done (s1.setS d (BitVec.ofNat 64 st))) s) s

/-! ## Peer packages (22 R363, R365) -/

/-- R363: a registration that a peer, the pair of a package and a virtual device, sends to a virtual device that lists it: the bed is owned by
the latter; the root stands in the peer's fabric unit, which has the answer whether the number is taken.  What else the descriptor said does
not come with it (log entry 9). -/
def State.acceptRegistration (root : PeerDevice) (vd : Nat) (bed : BitVec 32) (s : State) : State :=
  let answer (taken : Bool) (s : State) : State := { s with outbox := s.outbox ++ [OutMsg.registered root.addr root.vd bed taken] }
  let listed := ((s.vd? vd).map (fun v => v.enabled && v.peers.any (fun p => p.addr == root.addr && p.vd == root.vd))).getD false
  if ¬ listed ∨ (s.bed? bed).isSome ∨ 4096 ≤ s.beds.length then answer false s
  else answer true { s with beds := s.beds ++ [{ number := bed, scope := 5, unord := false, cold := 0, handler := 0, part := vd, root := .fabric,
                                                 copies := [], pointers := [], frame := [], reports := [], colds := [], foreign := some root.addr : Bed }] }

def execBedRegistration (root : PeerDevice) (vd : Nat) (bed : BitVec 32) (s : State) : Out :=
  stepOf (fun s => s.acceptRegistration root vd bed) s

/-- R365: whether a package is reachable, as the fabric units find it. -/
def State.setReachable (addr : BitVec 128) (r : Bool) (s : State) : State :=
  { s with
    control := { s.control with lostPeers := s.control.lostPeers.filter (fun a => a != addr) ++ (if r then [] else [addr]) },
    vds := s.vds.map (fun v => { v with peers := updIf (fun p => p.addr == addr) (fun p => { p with reachable := r }) v.peers }) }

/-- Whether a peer index of a partition is the package at an address. -/
def State.peerIs (s : State) (part p : Nat) (addr : BitVec 128) : Bool :=
  ((s.vd? part).map (fun v => v.peers.any (fun q => q.idx == p && q.addr == addr))).getD false

/-- Whether a sow is on its way to the package at an address, which has not reported that it has accepted it. -/
def State.sowTo (s : State) (addr : BitVec 128) (o : SowOp) : Bool :=
  match o.phase, s.bed? o.bed with
  | .abroad (some p), some b => s.peerIs b.part p addr && !o.accepted
  | .abroad none, some b => decide (b.foreign = some addr) && !o.accepted
  | _, _ => false

/-- R365: the root holds the child's count at 0, the sows on their way end LOST, the remote copies end UNREACHABLE. -/
def State.losePeer (addr : BitVec 128) (s : State) : State :=
  let s1 := s.setReachable addr false
  let s2 : State := { s1 with beds := s1.beds.map (fun b =>
    { b with copies := b.copies.filter (fun e => match e.1 with
        | .peer p => !s1.peerIs b.part p addr
        | _ => true) }) }
  let s3 := (s2.sows.filter (s2.sowTo addr)).foldl (fun s o => s.endSow o 3 none) s2
  let cut (c : CopyOp) : Bool := match c.kind with
    | .cpx _ => decide ((RemoteTarget.of c.remote).addr = addr) && !c.finished && decide (c.status = 0)
    | _ => false
  (s3.copies.filter cut).foldl (fun s c => (s.mapCopy c.id (fun c => { c with status := 6 })).dueOnce 0 (.copyComplete c.id)) s3

def execPeerUnreachable (addr : BitVec 128) (s : State) : Out := stepOf (fun s => s.losePeer addr) s
def execPeerReachable (addr : BitVec 128) (s : State) : Out := stepOf (fun s => s.setReachable addr true) s

end Sys2Proof.Machine
end

