-- ==== Sys2Proof/Machine/Launch.lean ====
section
/-!
DEFINITION. Sys2Proof/Machine/Launch.lean: launch headers, the launch table, task records, admission (17 R283 to R285, R291 to R293; 11
R200; 07 R128), completion records (17 R294) and the scheduler's event records (21 R346).

The groups of a launch get their task records in tuple order when the launch is made ready.  The classes' beds (R291) are firmware's.
-/

namespace Sys2Proof.Machine

/-! ## The scheduler's reads (R283, R286) -/

/-- The physical address at which the scheduler reads for a launch of a privilege level; it raises no page request. -/
def State.schedAddr (s : State) (vd priv va : Nat) : Option Nat :=
  if 2 ^ 56 ≤ va then none
  else match s.walk .package true vd (decide (priv = 2)) .read va with
    | .ok e => if s.permits priv .read e va then some (e.addr va) else none
    | _ => none

/-- Bytes of one page, read at their homes; poison and DECODE marks count as a failed read. -/
def State.readPiece (vd priv va n : Nat) (s : State) : Option (List Byte) × State :=
  if n = 0 then (some [], s)
  else match s.schedAddr vd priv va with
    | none => (none, s)
    | some pa => let (bs, mark, pois, s1) := s.homeReadBytes pa n
      (if mark ∨ pois then none else some bs, s1)

/-- At most a page of bytes. -/
def State.readVirtual (vd priv va n : Nat) (s : State) : Option (List Byte) × State :=
  let k := Nat.min n (4096 - va % 4096)
  let (a, s1) := s.readPiece vd priv va k
  let (b, s2) := s1.readPiece vd priv (va + k) (n - k)
  (match a, b with
    | some x, some y => some (x ++ y)
    | _, _ => none, s2)

/-! ## The launch header (R283, R284) -/

structure Role where
  kind  : Nat
  count : Nat
  vregs : Nat
  deriving DecidableEq, Repr

def hdrRoles (h : List Byte) : List Role :=
  (List.range 4).map (fun k => { kind := recField h (48 + 4 * k) 1, count := recField h (49 + 4 * k) 1, vregs := recField h (50 + 4 * k) 1 })

def hdrWidths (h : List Byte) : List Nat := (List.range 6).map (fun k => recField h (16 + k) 1)
def hdrExtents (h : List Byte) : List Nat := (List.range 6).map (fun k => recField h (24 + 4 * k) 4)

def roleTotal (h : List Byte) : Nat := (hdrRoles h).foldl (fun m r => m + r.count) 0

def hdrLocal (h : List Byte) : Nat := recField h 64 4
def hdrFlag (h : List Byte) (k : Nat) : Bool := decide (recField h 83 1 / 2 ^ k % 2 = 1)

/-- R42: where field i of WID stands. -/
def widOffset (h : List Byte) (i : Nat) : Nat := ((hdrWidths h).take i).foldl (· + ·) 0

/-- Reason 1, the header alone. -/
def hdrRangeBad (h : List Byte) : Bool :=
  decide (recField h 22 2 ≠ 0 ∨ recField h 96 32 ≠ 0 ∨ recField h 0 8 % 4 ≠ 0 ∨ recField h 8 8 % 4 ≠ 0 ∨ 786432 < hdrLocal h
    ∨ 8 < recField h 68 1 ∨ 128 < recField h 69 1 ∨ 16 < recField h 70 1 ∨ 64 < recField h 71 1 ∨ 16 < recField h 80 1
    ∨ 7 < recField h 81 1 ∨ 63 < recField h 82 1 ∨ 32 ≤ recField h 83 1)
  || (hdrWidths h).any (fun w => decide (64 < w)) || (hdrExtents h).any (fun e => decide (e = 0))
  || (hdrRoles h).any (fun r => decide (3 < r.kind ∨ 64 < r.vregs))
  || (List.range 4).any (fun k => decide (recField h (51 + 4 * k) 1 ≠ 0))

/-- Reason 1, the tables. -/
def tablesBad (h trays chans : List Byte) : Bool :=
  (List.range (recField h 80 1)).any (fun k => (trayCheck ((trays.drop (32 * k)).take 32) (hdrLocal h)).isSome)
    || chans.any (fun d => decide (d.toNat < 1 ∨ 16 < d.toNat))

/-- R134, R48. -/
def matrixBad (h : List Byte) : Bool :=
  let n := ((hdrRoles h).filter (fun r => decide (r.kind = 1))).foldl (fun m r => m + r.count) 0
  decide (n = 1 ∨ 6 < n) || (decide (n ≠ 0) && (decide (recField h 68 1 = 0) || hdrFlag h 0))

/-- The lowest reason of R284 that applies, once everything could be read; 0 for none. -/
def launchReason (h trays chans : List Byte) (ext : List Nat) (vd : Nat) : Nat :=
  let wide (l : List Nat) : Bool := (List.zip l (hdrWidths h)).any (fun p => decide (2 ^ p.2 < p.1 ∨ 2 ^ 32 ≤ p.1))
  if hdrRangeBad h || tablesBad h trays chans then 1
  else if decide (64 < (hdrWidths h).foldl (· + ·) 0) || wide (hdrExtents h) || wide ext then 2
  else if ext[0]? ≠ some (roleTotal h) ∨ roleTotal h = 0 ∨ 32 < roleTotal h then 3
  else if matrixBad h then 4
  else if 8 < ext[1]?.getD 1 then 5
  else if 2048 < (hdrRoles h).foldl (fun m r => m + r.count * r.vregs) 0 ∨ 512 < chans.foldl (fun m d => m + d.toNat) 0 then 6
  else if recField h 82 1 ≠ vd then 7
  else 0

/-- A header that has been read and checked, with its tables. -/
structure Plan where
  header : List Byte
  trays  : List Byte
  chans  : List Byte
  ext    : List Nat
  deriving DecidableEq, Repr

/-- The header and its tables, or the reason of the refusal; the message's extents stand in place of the header's where they are
not 0 (R281). -/
def State.loadHeader (vd priv va : Nat) (given : List Nat) (s : State) : Except Nat Plan × State :=
  if va % 128 ≠ 0 then (.error 1, s)
  else match s.readVirtual vd priv va 128 with
    | (none, s1) => (.error 8, s1)
    | (some h, s1) =>
      if hdrRangeBad h then (.error 1, s1)
      else
        let (trays, s2) := s1.readVirtual vd priv (recField h 72 8) (32 * recField h 80 1)
        let (chans, s3) := s2.readVirtual vd priv (recField h 88 8) (recField h 71 1)
        match trays, chans with
        | some t, some c =>
          let ext := ((hdrExtents h).zipIdx).map (fun e =>
            let g := if e.2 = 0 then 0 else given[e.2 - 1]?.getD 0
            if g = 0 then e.1 else g)
          (match launchReason h t c ext vd with
            | 0 => .ok { header := h, trays := t, chans := c, ext := ext }
            | r => .error r, s3)
        | _, _ => (.error 8, s3)

/-! ## Completion records (R294) -/

/-- A record waits to be written to the event ring. -/
def State.postCompletion (vd : Nat) (c : Completion) (s : State) : State :=
  (s.mapVd vd (fun v => { v with held := v.held ++ [c] })).dueOnce 0 (.completionRecord vd)

/-- A node as the 16 bits that name it (R281). -/
def nodeWord (die idx : Nat) : BitVec 16 := BitVec.ofNat 16 (die % 4 * 2 ^ 14 + idx % 2 ^ 14)

/-- R281, R294: a refusal. -/
def State.refuse (vd die : Nat) (tag : W32) (node queue : BitVec 16) (inst reason : Nat) (s : State) : State :=
  s.postCompletion vd
    { die := die, time := s.timeNs, tag := tag, node := node, queue := queue, inst := BitVec.ofNat 32 inst, status := 2, cause := reason,
      place := 0, nfault := 0, relaunch := 0 }

/-! ## The launch table (R293) -/

def State.launch? (s : State) (die idx : Nat) : Option Launch := s.launches.find? (fun l => l.die == die && l.idx == idx)
def State.mapLaunch (die idx : Nat) (f : Launch → Launch) (s : State) : State :=
  { s with launches := updIf (fun l => l.die == die && l.idx == idx) f s.launches }

def State.launchesOn (s : State) (die : Nat) : List Launch := s.launches.filter (fun l => l.die == die)

def State.tableRoom (s : State) (die : Nat) : Bool := decide ((s.launchesOn die).length < 4096)

/-- The lowest free entry. -/
def State.freeLaunch (s : State) (die : Nat) : Nat :=
  let used := (s.launchesOn die).map (·.idx)
  ((List.range (used.length + 1)).find? (fun k => !used.contains k)).getD 0

def Launch.e (l : Launch) : Nat := l.ext[1]?.getD 1

/-- R42, R285: the values of fields 2 to 5 of group n; field 2 varies fastest. -/
def groupTuple (ext : List Nat) (n : Nat) : List Nat :=
  ((ext.drop 2).foldl (fun (acc : List Nat × Nat) e => (acc.1 ++ [acc.2 % Nat.max e 1], acc.2 / Nat.max e 1)) ([], n)).1

/-- R293: group n of a launch gets its task record. -/
def State.makeTask (l : Launch) (s : State) (n : Nat) : State :=
  let (id, s1) := s.fresh
  let t : Task :=
    { id := id, launch := l.idx, die := l.die, isRelaunch := false, relaunch := 0, inst := l.inst, wid := groupTuple l.ext n,
      recs := if l.recs = [] then 0xFFFFFFFF else l.recBlock, nrec := l.recs.length, ofRecords := decide (l.recs ≠ []), cls := none,
      readyAt := l.readyAt, priority := l.priority, age := 0, placed := false, blocksLeft := l.e, failed := none, place := 0, nfault := 0 }
  { s1 with tasks := s1.tasks ++ [t] }

/-- R293: the lowest free record block of a die's scheduler SRAM. -/
def State.freeRecords (s : State) (die : Nat) : Nat :=
  let used := ((s.launchesOn die).filter (fun l => decide (l.recs ≠ []))).map (·.recBlock)
  ((List.range (used.length + 1)).find? (fun k => !used.contains k)).getD 0

/-- A checked launch takes an entry, and its groups are ready. -/
def State.enterLaunch (die vd priv : Nat) (p : Plan) (args : List W64) (recs : List (List Byte)) (tag : W32) (queue : Option Nat)
    (node : Option (Nat × Nat)) (inst priority : Nat) (debug : Bool) (s : State) : State :=
  let idx := s.freeLaunch die
  let total := (p.ext.drop 2).foldl (· * ·) 1
  let l : Launch :=
    { idx := idx, die := die, vd := vd, header := p.header, trays := p.trays, chans := p.chans, args := args, recs := recs,
      recBlock := s.freeRecords die, ext := p.ext,
      tag := tag, queue := queue, node := node, inst := inst, priv := priv, priority := priority, debug := debug, total := total,
      next := total, left := total, readyAt := s.now, failed := false, cause := 0, place := 0, nfault := 0, relaunches := 0 }
  ((List.range total).foldl (State.makeTask l) { s with launches := s.launches ++ [l] }).dueOnce 0 (.readyPoolSow die)

/-! ## What a block takes (07 R128) -/

def Launch.need (l : Launch) : Need :=
  let h := l.header
  { slots := roleTotal h, vregs := (hdrRoles h).foldl (fun m r => m + r.count * r.vregs) 0, bytes := ceilDiv (hdrLocal h) 3072 * 3072,
    tiles := recField h 68 1, planes := recField h 69 1, trays := recField h 80 1, bars := recField h 70 1, chans := recField h 71 1,
    depth := l.chans.foldl (fun m d => m + d.toNat) 0 }

/-- What a block holds beside slots and registers. -/
def Block.take (b : Block) : Need :=
  { slots := 0, vregs := 0, bytes := ceilDiv b.windowSize 3072 * 3072, tiles := b.tiles.length, planes := b.planes.length,
    trays := b.trays.length, bars := b.barriers.length, chans := b.channels.length,
    depth := b.channels.foldl (fun m c => m + c.depth) 0 }

def Need.add (a b : Need) : Need :=
  { slots := a.slots + b.slots, vregs := a.vregs + b.vregs, bytes := a.bytes + b.bytes, tiles := a.tiles + b.tiles,
    planes := a.planes + b.planes, trays := a.trays + b.trays, bars := a.bars + b.bars, chans := a.chans + b.chans,
    depth := a.depth + b.depth }

def Need.none : Need := { slots := 0, vregs := 0, bytes := 0, tiles := 0, planes := 0, trays := 0, bars := 0, chans := 0, depth := 0 }

/-- What stands taken on a core. -/
def State.taken (s : State) (core : Nat) : Need :=
  (s.blocksOn core).foldl (fun n b => n.add b.take)
    { Need.none with slots := (s.slotsTaken core).length, vregs := s.vregsTaken core }

def Need.within (n : Need) : Bool :=
  decide (n.slots ≤ 32 ∧ n.vregs ≤ 2048 ∧ n.bytes ≤ 786432 ∧ n.tiles ≤ 8 ∧ n.planes ≤ 128 ∧ n.trays ≤ 16 ∧ n.bars ≤ 16 ∧ n.chans ≤ 64
    ∧ n.depth ≤ 512)

/-- The BLOCK indices of a core, the evicted blocks' among them, which keep theirs (log entry 22). -/
def State.blockIndices (s : State) (core : Nat) : List Nat :=
  (s.allBlocks.filter (fun b => decide (b.core = core ∧ b.phase ≠ .ended))).map (·.index)

def State.fits (s : State) (n : Need) (core : Nat) : Bool :=
  ((s.taken core).add n).within && decide ((s.blockIndices core).length < 32)

/-! ## Where a group can go (11 R200, 17 R291, R297) -/

/-- Whether a cluster of a virtual device is time-shared (19 R311). -/
def VDev.shares (v : VDev) (cl : Nat) : Bool := bit v.shared ((clusterY cl - v.y0) * v.width + (clusterX cl - v.x0))

/-- Whether a virtual device's blocks can be placed on a cluster now. -/
def State.clusterOpen (s : State) (v : VDev) (cl : Nat) : Bool :=
  let c := s.clusterOf cl
  v.enabled && v.holds cl && decide (c.state = .online) && !c.withdrawn
    && (!v.shares cl || (c.incoming.isNone && (c.context.isNone || decide (c.context = some v.num))))

/-- The groups resident on a cluster. -/
def State.groupsOn (s : State) (cl : Nat) : List Nat :=
  ((s.allBlocks.filter (fun b => decide (coreCluster b.core = cl ∧ b.phase ≠ .ended ∧ b.phase ≠ .evicted))).map (·.group)).foldl
    (fun l g => setInsert l g) []

/-- The rectangles of a group of e blocks in a cluster: origin and cores in block order. -/
def rectangles (cl e : Nat) : List (Nat × Nat × List Nat) :=
  let w := Nat.min e 4
  let h := ceilDiv e w
  (List.range (3 - h)).flatMap (fun y => (List.range (5 - w)).map (fun x =>
    (x, y, (List.range e).map (fun i => cl * 8 + (y + i / w) * 4 + x + i % w))))

/-- Every place at which a group of a launch fits now. -/
def State.sites (s : State) (l : Launch) : List (Nat × Nat × List Nat) :=
  match s.vd? l.vd with
  | none => []
  | some v =>
    ((List.range 16).map (fun k => l.die * 16 + k)).flatMap (fun cl =>
      if s.clusterOpen v cl ∧ (s.groupsOn cl).length < 8 then
        (rectangles cl l.e).filter (fun r => r.2.2.all (s.fits l.need))
      else [])

/-! ## Event records of the scheduler (21 R346) -/

/-- A record about a block of a launch whose event-enable flag is set: 0 launched, 1 evicted, 2 restored, 3 completed, 4 failed. -/
def State.schedRecord (b : Block) (status since : Nat) (s : State) : State :=
  if ¬ b.eventOn then s
  else
    let (tag, node, inst) := match s.launch? b.die b.launch with
      | some l => (l.tag, (l.node.map (fun (p : Nat × Nat) => nodeWord p.1 p.2)).getD 0xFFFF, l.inst)
      | none => (0, 0xFFFF, 0)
    s.event b.vd 2 status (s.placeOf b.vd b.core).toNat ((s.now - since) / nsTicks)
      (natBytes 4 tag.toNat ++ natBytes 2 node.toNat ++ [BitVec.ofNat 8 b.index, 0] ++ natBytes 4 inst ++ natBytes 4 0)

/-! ## Admission (R292) -/

/-- The lowest n numbers below a limit that are not taken. -/
def lowestFree (limit n : Nat) (taken : List Nat) : List Nat := ((List.range limit).filter (fun k => !taken.contains k)).take n

/-- R190, 07 R138: the trays of a block, with the units granted; a tray whose descriptor is applied at launch starts with generation 1. -/
def State.newTrays (l : Launch) (core : Nat) (s : State) : List Tray :=
  let units := lowestFree 16 (recField l.header 80 1) ((s.blocksOn core).flatMap (fun b => b.trays.map (·.unit)))
  units.zipIdx.map (fun u => Tray.ofDesc ((l.trays.drop (32 * u.2)).take 32) 1 u.1)

/-- The record block of an instance stands in its window (R289). -/
def recordWindow (recs : List (List Byte)) : List Host.Cell := Memory.write [] 0 recs.flatten

def State.newBlock (id : Nat) (l : Launch) (t : Task) (x0 y0 i core : Nat) (s : State) : Block :=
  let h := l.header
  let timeout := recField h 84 4
  { Block.init with
    id := id, core := core, index := (lowestFree 32 1 (s.blockIndices core)).headD 0, vd := l.vd, die := l.die, launch := l.idx,
    group := t.id, pos := i, groupX := x0, groupY := y0, extent := l.e, handler := BitVec.ofNat 64 (recField h 8 8),
    widf := BitVec.ofNat 64 ((hdrWidths h).zipIdx.foldl (fun m w => m + w.1 * 2 ^ (7 * w.2)) 0), prot := hdrFlag h 0, relaunch := hdrFlag h 1,
    chk := hdrFlag h 2, sampleOn := hdrFlag h 3, eventOn := hdrFlag h 4, timeout := if timeout = 0 then 2 ^ 24 else timeout,
    priority := l.priority, hasNode := l.node, launchAt := s.now, windowSize := hdrLocal h, window := recordWindow l.recs,
    tiles := List.replicate (recField h 68 1) .init, planes := List.replicate (recField h 69 1) .init, trays := s.newTrays l core,
    channels := l.chans.map (fun d => { Channel.init with depth := d.toNat }), barriers := List.replicate (recField h 70 1) .init,
    debug := l.debug }

/-- R41, R289: the argument registers s3 to s10. -/
def launchArgs (l : Launch) : List W64 :=
  if l.recs = [] then l.args else BitVec.ofNat 64 l.recs.length :: l.args.drop 1

/-- R38: a strand of a new block; R292: the sow's 5 ns and the 6 ns of the slot's setup come before its first fetch. -/
def launchStrand (id : Nat) (b : Block) (l : Launch) (t : Task) (role : Role) (r n slot now : Nat) : Strand :=
  let h := l.header
  let wid := n + b.pos * 2 ^ widOffset h 1 + t.wid.zipIdx.foldl (fun m f => m + f.1 * 2 ^ widOffset h (2 + f.2)) 0
  let k := { Strand.init with
    id := id, block := b.id, run := .running, pc := BitVec.ofNat 64 (recField h 0 8), slot := slot, role := r, kind := role.kind,
    budget := role.vregs, wid := BitVec.ofNat 64 wid, priv := l.priv, prot := b.prot, chk := b.chk, launchAt := now,
    readyAt := now + 11 * nsTicks }
  ((launchArgs l).zipIdx.foldl (fun k p => k.putS (3 + p.2) p.1) k).putM 0 k.visible

/-- The strands of a block in role order: role, its index, the strand's index. -/
def strandPlan (h : List Byte) : List (Role × Nat × Nat) :=
  ((hdrRoles h).zipIdx.flatMap (fun r => List.replicate r.1.count (r.1, r.2))).zipIdx.map (fun p => (p.1.1, p.1.2, p.2))

/-- A block is allocated, cleared and started on a core; its launch acquires at package scope (14 R248). -/
def State.startBlock (l : Launch) (t : Task) (x0 y0 i core : Nat) (s : State) : State :=
  let (id, s1) := s.fresh
  let b := s1.newBlock id l t x0 y0 i core
  let slots := lowestFree 32 (roleTotal l.header) (s1.slotsTaken core)
  let s2 := slots.foldl (fun s k => s.vacate core k) s1
  let s3 := (strandPlan l.header).foldl (fun s p =>
    let (sid, s1) := s.fresh
    s1.addStrand (launchStrand sid b l t p.1 p.2.1 p.2.2 (slots[p.2.2]?.getD 0) s1.now)) { s2 with blocks := s2.blocks ++ [b] }
  let s4 := b.trays.zipIdx.foldl (fun s k => if k.1.stream then s.startStream b l.priv k.2 else s) s3
  let s5 := s4.mapCoreOf core (fun c => { c with trayGens := b.trays.foldl (fun g k => assocSet g k.unit k.gen) c.trayGens })
  ((s5.acquireAt core 4).schedRecord b 0 t.readyAt).sampleNext core

/-! ## Resource classes and their beds (R291) -/

def Launch.inClass (l : Launch) (c : ClassBed) : Bool :=
  decide (c.die = l.die ∧ c.need = l.need ∧ c.ext = l.e) && c.prot == hdrFlag l.header 0

def State.class? (s : State) (die num : Nat) : Option ClassBed := s.classes.find? (fun c => c.die == die && c.num == num)
def State.mapClass (die num : Nat) (f : ClassBed → ClassBed) (s : State) : State :=
  { s with classes := updIf (fun c => c.die == die && c.num == num) f s.classes }

def Need.times : Nat → Need → Need
  | 0, _ => .none
  | k + 1, n => (n.times k).add n

/-- Whether a core admits k further blocks of a take. -/
def State.admits (s : State) (n : Need) (core k : Nat) : Bool :=
  ((s.taken core).add (n.times k)).within && decide ((s.blockIndices core).length + k ≤ 32)

/-- How many further groups a cluster's 8 barrier units allow (11 R200); none while it takes no group. -/
def State.barrierUnits (s : State) (cl : Nat) : Nat :=
  let c := s.clusterOf cl
  if c.state = .online ∧ ¬ c.withdrawn then 8 - (s.groupsOn cl).length else 0

/-- The whole groups of e > 1 blocks that a cluster can place now; `extra` are the blocks that each core gets by it. -/
def State.groupsFit (s : State) (c : ClassBed) (cl : Nat) : Nat :=
  ((List.range 8).foldl (fun (m : Nat × List Nat) _ =>
    match (rectangles cl c.ext).find? (fun r => r.2.2.all (fun k => s.admits c.need k ((m.2.filter (· == k)).length + 1))) with
    | some r => (m.1 + 1, m.2 ++ r.2.2)
    | none => m) (0, [])).1

/-- R291: what a leaf of a class's bed offers now. -/
def State.classOffers (s : State) (c : ClassBed) : TreeNode → Nat
  | .core k => Nat.min (s.barrierUnits (coreCluster k)) ((List.range 32).filter (fun n => s.admits c.need k (n + 1))).length
  | .cluster cl => Nat.min (s.barrierUnits cl) (s.groupsFit c cl)
  | _ => 0

/-- A node's own count: what it offers, or the sum of its copies. -/
def ClassBed.count (n : TreeNode) (c : ClassBed) : Nat := countOf n c.offers + childSum n c.copies

/-- R215: a changed count of a class's bed goes to the parent, up to the die's node; the pool looks again when it arrives. -/
def State.classReport (die num : Nat) (s : State) (n : TreeNode) : State :=
  match s.class? die num with
  | none => s
  | some c =>
    if c.reports.any (Report.waits n s.now) then
      s.mapClass die num (fun c => { c with reports := updIf (Report.waits n s.now) (fun r => { r with count := c.count n }) c.reports })
    else
      let (k, s1) := s.draw
      let wait := Config.agentChoice k % 17 * ccTicks
      (s1.mapClass die num (fun c => { c with reports := c.reports ++ [{ node := n, slot := s.now + wait, count := c.count n }] })).due
        (wait + 4 * ccTicks) (.readyPoolSow die)

/-- A leaf offers what it can admit now. -/
def State.offerLeaf (die num : Nat) (s : State) (n : TreeNode) : State :=
  match s.class? die num with
  | none => s
  | some c =>
    let v := s.classOffers c n
    if countOf n c.offers = v then s
    else (s.mapClass die num (fun c => { c with offers := setCount n v c.offers })).classReport die num n

/-- R291: the leaves of a class in a cluster: its cores, or for groups of several blocks the cluster's node. -/
def ClassBed.leaves (cl : Nat) (c : ClassBed) : List TreeNode :=
  if c.ext = 1 then (List.range 8).map (fun k => .core (cl * 8 + k)) else [.cluster cl]

/-- R291: the leaves of a cluster adjust what they offer, on an admission, a completion, an eviction, a restoration. -/
def State.offerCluster (cl : Nat) (s : State) : State :=
  (s.classes.filter (fun c => c.die == cl / 16)).foldl (fun s c => (c.leaves cl).foldl (State.offerLeaf c.die c.num) s) s

/-- What has reached a parent is in its copies; a changed sum goes on to the die's node. -/
def State.applyClassReports (die : Nat) (s : State) : State :=
  (s.classes.filter (fun c => c.die == die)).foldl (fun s c =>
    (c.reports.filter (fun r => decide (r.slot + 4 * ccTicks ≤ s.now))).foldl (fun s r =>
      let s1 := s.mapClass die c.num (fun c => { c with copies := setCount r.node r.count c.copies, reports := c.reports.erase r })
      match r.node with
      | .core k => s1.classReport die c.num (.cluster (coreCluster k))
      | _ => s1) s) s

/-- R291: a class that no resident or waiting group uses frees itself. -/
def State.freeClasses (die : Nat) (s : State) : State :=
  { s with classes := s.classes.filter (fun c => c.die != die || (s.tasks.any (fun t => t.die == die && decide (t.cls = some c.num)))) }

/-- R291: a ready group uses the class that matches it, or takes a free one; with all 16 taken it waits. -/
def State.classTask (s : State) (t : Task) : State :=
  match (if t.cls.isSome then none else s.launch? t.die t.launch) with
  | none => s
  | some l =>
    let use (num : Nat) (s : State) : State := { s with tasks := updIf (fun k => k.id == t.id) (fun k => { k with cls := some num }) s.tasks }
    match s.classes.find? l.inClass with
    | some c => use c.num s
    | none =>
      match (List.range 16).find? (fun k => (s.class? l.die k).isNone) with
      | none => s
      | some num =>
        let c : ClassBed := { die := l.die, num := num, need := l.need, ext := l.e, prot := hdrFlag l.header 0, offers := [], copies := [],
                              reports := [], pointers := [] }
        let s1 := use num { s with classes := s.classes ++ [c] }
        ((List.range 16).flatMap (fun k => c.leaves (l.die * 16 + k))).foldl (State.offerLeaf l.die num) s1

/-- The children with a positive count that a device's groups can go to: the classes' beds are the die's, and a cluster that is not open to
the device takes none of its groups (log entry 55). -/
def State.classPick (s : State) (v : VDev) (n : TreeNode) (c : ClassBed) : Option TreeNode :=
  roundRobin c.pointers n ((c.copies.filter (fun e => decide (e.1.parent = some n ∧ e.2 ≠ 0) && (match e.1 with
    | .cluster cl => s.clusterOpen v cl
    | _ => true))).map (·.1))

/-- R216 step 3: the group's record goes down to a child. -/
def ClassBed.descend (n k : TreeNode) (c : ClassBed) : ClassBed :=
  { c with copies := setCount k (countOf k c.copies - 1) c.copies, pointers := passChild n k c.pointers }

/-- R217: a stale count: the parent's copy of the child is 0. -/
def ClassBed.bounce (k : TreeNode) (c : ClassBed) : ClassBed := { c with copies := setCount k 0 c.copies }

/-- A place of a group: origin and cores in block order. -/
abbrev Site := Nat × Nat × List Nat

/-- R292: the record of a group of one block at a cluster's node: a core of it that offers takes it; `fuel` bounds the bounces. -/
def State.sowCores (l : Launch) (v : VDev) (num cl : Nat) : Nat → State → Option Site × State
  | 0, s => (none, s)
  | fuel + 1, s =>
    match s.class? l.die num with
    | none => (none, s)
    | some c => match s.classPick v (.cluster cl) c with
      | some (.core k) =>
        let s1 := (s.mapClass l.die num (ClassBed.descend (.cluster cl) (.core k))).classReport l.die num (.cluster cl)
        match (s1.sites l).find? (fun r => r.2.2 == [k]) with
        | some r => if countOf (.core k) c.offers = 0 then (s1.mapClass l.die num (ClassBed.bounce (.core k))).sowCores l v num cl fuel else (some r, s1)
        | none => (s1.mapClass l.die num (ClassBed.bounce (.core k))).sowCores l v num cl fuel
      | _ => (none, s)

/-- R292: the record of a group at the die's node; a cluster's node that is the leaf places the group by R200, at one of the places where it
fits, as a free value says (log entry 3); `fuel` bounds the bounces. -/
def State.sowGroup (l : Launch) (v : VDev) (num : Nat) : Nat → State → Option Site × State
  | 0, s => (none, s)
  | fuel + 1, s =>
    match s.class? l.die num with
    | none => (none, s)
    | some c => match s.classPick v (.die l.die) c with
      | some (.cluster cl) =>
        let s1 := s.mapClass l.die num (ClassBed.descend (.die l.die) (.cluster cl))
        let (got, s2) :=
          if c.ext = 1 then s1.sowCores l v num cl 8
          else
            let here := (s1.sites l).filter (fun r => r.2.2.all (fun k => coreCluster k == cl))
            let (k, s2) := s1.draw
            (if countOf (.cluster cl) c.offers = 0 then none else here[Config.agentChoice k % here.length]?, s2)
        match got with
        | some r => (some r, s2)
        | none => (s2.mapClass l.die num (ClassBed.bounce (.cluster cl))).sowGroup l v num fuel
      | _ => (none, s)

/-! ## Placing (R292, R297) -/

/-- R297: a slice of a context begins: its length minus the debt, and no less than a tenth of the length; what is left of the debt
carries on. -/
def State.beginSlice (cl : Nat) (v : VDev) (s : State) : State :=
  let len := v.slice * 1000 * nsTicks
  let debt := lookupD (s.clusterOf cl).debts v.num 0
  let run := Nat.max (len - debt) (len / 10)
  ((s.mapCluster cl (fun c => { c with context := some v.num, incoming := none, sliceAt := s.now,
                                       debts := assocSet c.debts v.num (debt - (len - run)) })).dueOnce run (.sliceEnd cl)).dueOnce 0
    (.readyPoolSow (cl / 16))

/-- R297: a context takes an idle time-shared cluster, and its slice begins. -/
def State.takeContext (v : VDev) (cl : Nat) (s : State) : State :=
  if v.shares cl ∧ (s.clusterOf cl).context.isNone then s.beginSlice cl v else s

/-- A group is placed whole; its cluster's leaves offer what is left. -/
def State.admitTask (l : Launch) (t : Task) (site : Site) (s : State) : State :=
  let s1 := match s.vd? l.vd, site.2.2.head? with
    | some v, some c => s.takeContext v (coreCluster c)
    | _, _ => s
  let s2 := { s1 with tasks := updIf (fun k => k.id == t.id) (fun k =>
    { k with placed := true, age := s.now - k.readyAt, blocksLeft := l.e }) s1.tasks }
  let s3 := site.2.2.zipIdx.foldl (fun s c => s.startBlock l t site.1 site.2.1 c.2 c.1) s2
  s3.offerCluster (coreCluster (site.2.2.headD 0))

end Sys2Proof.Machine
end

