-- ==== Sys2Proof/Machine/Graph.lean ====
section
/-!
DEFINITION. Sys2Proof/Machine/Graph.lean: graph nodes, their instances and records (17 R286 to R290), `emit`, `spawn`, `tdone` (17 R300 to
R303).
-/

namespace Sys2Proof.Machine

/-! ## Nodes -/

def State.node? (s : State) (die idx : Nat) : Option Node := s.nodes.find? (fun n => n.die == die && n.idx == idx)
def State.mapNode (die idx : Nat) (f : Node → Node) (s : State) : State :=
  { s with nodes := updIf (fun n => n.die == die && n.idx == idx) f s.nodes }

/-- R286: a stray decrement is counted. -/
def State.strayDecrement (vd : Nat) (s : State) : State := (s.mapVd vd (fun v => { v with stray := v.stray + 1 })).count vd 0x0E 1 1

/-- R287, R289: whether a node has nothing left to run: its counter is 0, its queue is empty, its instances have completed. -/
def Node.closed (n : Node) : Bool := decide (n.counter = 0 ∧ n.recs = [] ∧ n.running = 0) && !n.done

/-- Makes NODE_COMPLETE due once the node is closed. -/
def State.checkNode (die idx : Nat) (s : State) : State :=
  match s.node? die idx with
  | some n => if n.closed then s.dueOnce 0 (.nodeComplete die idx) else s
  | none => s

/-! ## Instances (R288, R289) -/

/-- An instance that the scheduler refuses: a record, and a failed instance of the node (R287). -/
def State.refuseInstance (n : Node) (reason : Nat) (s : State) : State :=
  ((s.refuse n.vd n.die 0 (nodeWord n.die n.idx) 0 n.insts reason).mapNode n.die n.idx (fun n =>
    { n with running := n.running - 1, failed := true })).checkNode n.die n.idx

/-- An instance takes an entry of the launch table; the header is read again, and its window must hold the records (R287). -/
def State.startInstance (n : Node) (inst : Nat) (recs : List (List Byte)) (s : State) : State :=
  let (r, s1) := s.loadHeader n.vd n.priv n.header.toNat []
  match r with
  | .error reason => s1.refuseInstance n reason
  | .ok p =>
    if hdrLocal p.header < 64 * n.thresh then s1.refuseInstance n 1
    else s1.enterLaunch n.die n.vd n.priv p n.args recs 0 none (some (n.die, n.idx)) inst (recField p.header 81 1) false

/-- A node launches an instance, at once or when the launch table has room (R293). -/
def State.requestInstance (die idx : Nat) (recs : List (List Byte)) (s : State) : State :=
  match s.node? die idx with
  | none => s
  | some n =>
    let s1 := s.mapNode die idx (fun n => { n with insts := n.insts + 1, running := n.running + 1 })
    if s.tableRoom die ∧ n.waiting = [] then s1.startInstance { n with insts := n.insts + 1, running := n.running + 1 } n.insts recs
    else s1.mapNode die idx (fun n => { n with waiting := n.waiting ++ [(n.insts - 1, s.now, recs)] })

/-- The priority of a node's instance that waits: that of its header (R288), which is read again when it starts. -/
def State.nodePriority (s : State) (n : Node) : Nat :=
  match (s.readVirtual n.vd n.priv n.header.toNat 128).1 with
  | some h => Nat.min 7 (recField h 81 1)
  | none => 0

/-- R293: the first instance of a node that waits starts. -/
def State.startWaiting (n : Node) (s : State) : State :=
  match n.waiting with
  | [] => s
  | w :: r => (s.mapNode n.die n.idx (fun n => { n with waiting := r })).startInstance { n with waiting := r } w.1 w.2.2

/-- The oldest `n` records of a node leave in instances of up to thresh; `fuel` bounds the instances. -/
def State.flushRecords : Nat → Nat → Nat → Nat → State → State
  | 0, _, _, _, s => s
  | fuel + 1, die, idx, n, s =>
    match s.node? die idx with
    | none => s
    | some node =>
      let k := Nat.min n (Nat.min node.thresh node.recs.length)
      if k = 0 then s
      else
        let s1 := (s.mapNode die idx (fun m => { m with recs := m.recs.drop k })).requestInstance die idx ((node.recs.take k).map (·.1))
        s1.flushRecords fuel die idx (n - k)

/-- The counter has reached 0 (R288, R289). -/
def State.fireNode (n : Node) (s : State) : State :=
  let s1 := if n.thresh = 0 then s.requestInstance n.die n.idx [] else s.flushRecords 256 n.die n.idx 256
  s1.checkNode n.die n.idx

/-- R286: an event subtracts 1 from the node's counter. -/
def State.decNode (vd die idx : Nat) (s : State) : State :=
  match s.node? die idx with
  | none => s.strayDecrement vd
  | some n =>
    if n.vd ≠ vd ∨ n.counter = 0 then s.strayDecrement vd
    else
      let s1 := s.mapNode die idx (fun n => { n with counter := n.counter - 1 })
      if n.counter = 1 then s1.fireNode n else s1

/-- R289: the flush time-out of the oldest queued record. -/
def State.flushDue (die idx : Nat) (s : State) : State :=
  match s.node? die idx with
  | none => s
  | some n => match n.recs.head? with
    | none => s
    | some r =>
      let t := r.2.1 + n.flush * 1000 * nsTicks
      if n.flush = 0 then s
      else if s.now < t then s.dueOnce (t - s.now) (.flushTimeout die idx)
      else
        let s1 := s.flushRecords 1 die idx n.thresh
        match (s1.node? die idx).bind (·.recs.head?) with
        | some r1 => s1.dueOnce (r1.2.1 + n.flush * 1000 * nsTicks - s1.now) (.flushTimeout die idx)
        | none => s1

def execFlushTimeout (die node : Nat) (s : State) : Out := stepOf (fun s => s.flushDue die node) s

/-! ## Completion (R290) -/

def State.finishNode (die idx : Nat) (s : State) : State :=
  match s.node? die idx with
  | none => s
  | some n =>
    if ¬ n.closed then s
    else
      let s1 := s.mapNode die idx (fun n => { n with done := true })
      let s2 := if n.failed then s1
        else n.succ.foldl (fun s w => s.decNode n.vd (slice w 15 14) (slice w 13 0)) s1
      let s3 := s2.postCompletion n.vd
        { die := die, time := s.timeNs, tag := 0, node := nodeWord die idx, queue := 0, inst := BitVec.ofNat 32 n.insts,
          status := if n.failed then 1 else 0, cause := n.cause, place := n.place, nfault := n.nfault, relaunch := n.relaunches }
      if n.rearm ∧ ¬ n.failed then s3.mapNode die idx (fun n => { n with counter := n.pred, done := false }) else s3

def execNodeComplete (die node : Nat) (s : State) : Out := stepOf (fun s => s.finishNode die node) s

/-! ## `emit`, `tdone` (R301, R303) -/

/-- The record node that successor q of the strand's node is. -/
def State.successor (s : State) (q : Nat) : Option Node :=
  match s.blk.hasNode.bind (fun (p : Nat × Nat) => s.node? p.1 p.2) with
  | none => none
  | some n =>
    if n.succ.length ≤ q then none
    else
      let w := n.succ[q]?.getD 0
      (s.node? (slice w 15 14) (slice w 13 0)).filter (fun t => decide (t.thresh ≠ 0 ∧ t.vd = s.blk.vd))

/-- The bytes that the word has read from its window, once for all its tries. -/
def withMessage (ea : W64) (align size : Nat) (k : List Byte → State → Result) (s : State) : Result :=
  match s.me.flight with
  | some (.message b) => k b s
  | _ => ownLocal ea align size (fun off s =>
      let b := s.blk.readWindow off size
      k b (s.mapMe (fun t => { t with flight := some (.message b) }))) s

/-- A record joins a node's queue; a full set of records leaves at once. -/
def State.appendRecord (n : Node) (r : List Byte) (s : State) : State :=
  let s1 := s.mapNode n.die n.idx (fun n => { n with recs := n.recs ++ [(r, s.now, s.me.id)] })
  if n.thresh ≤ n.recs.length + 1 then s1.flushRecords 1 n.die n.idx n.thresh
  else if n.flush = 0 then s1
  else s1.dueOnce (n.flush * 1000 * nsTicks) (.flushTimeout n.die n.idx)

def execEmit (q : BitVec 4) (a : BitVec 6) (s : State) : Out :=
  issue { word := (assemble 0xE4000000 [(q.toNat, 18), (a.toNat, 12)]), use := { sr := [a] } } (fun s =>
    match s.successor q.toNat with
    | none => .trap (s.trapAll .illegal (BitVec.setWidth 64 ((assemble 0xE4000000 [(q.toNat, 18), (a.toNat, 12)]) : W32)) 0) s
    | some n => withMessage (s.sreg a) 64 64 (fun r s =>
        if ¬ s.canPublish 4 then .stall 4 s
        else
          let s1 := s.publish 4
          if 256 ≤ n.recs.length then .stall 10 s1 else .done (s1.appendRecord n r)) s) s

/-- The number of queued records up to the last one that the strand has emitted. -/
def emittedBy (id : Nat) (recs : List (List Byte × Nat × Nat)) : Nat :=
  recs.zipIdx.foldl (fun m r => if r.1.2.2 = id then r.2 + 1 else m) 0

def execTdone (q : BitVec 4) (s : State) : Out :=
  issue { word := (assemble 0xE4800000 [(q.toNat, 18)]) } (fun s =>
    match s.successor q.toNat with
    | none => .trap (s.trapAll .illegal (BitVec.setWidth 64 ((assemble 0xE4800000 [(q.toNat, 18)]) : W32)) 0) s
    | some n => .done (s.flushRecords 256 n.die n.idx (emittedBy s.me.id n.recs))) s

/-! ## Work queues (R280), `spawn` (R302) -/

def State.queue? (s : State) (vd vnum : Nat) : Option WorkQueue := s.queues.find? (fun q => q.vd == vd && q.vnum == vnum)
def State.mapQueue (num : Nat) (f : WorkQueue → WorkQueue) (s : State) : State :=
  { s with queues := updIf (fun q => q.num == num) f s.queues }

/-- A message is accepted; it is ready 6 ns later (R292). -/
def State.acceptMessage (q : WorkQueue) (bytes : List Byte) (priv : Nat) (s : State) : State :=
  (s.mapQueue q.num (fun q => { q with msgs := q.msgs ++ [{ bytes := bytes, at_ := s.now, priv := priv }] })).dueOnce (6 * nsTicks)
    (.schedulerTake q.num)

def execSpawn (a b : BitVec 6) (s : State) : Out :=
  issue { word := (assemble 0xE4400000 [(a.toNat, 12), (b.toNat, 6)]), use := { sr := [a, b] } } (fun s =>
    match (if (s.sreg a).toNat < 2048 then s.queue? s.blk.vd (s.sreg a).toNat else none) with
    | none => .trap (s.trapAll .permission 0 (s.sreg a)) s
    | some q => withMessage (s.sreg b) 128 128 (fun m s =>
        if ¬ s.canPublish 4 then .stall 4 s
        else
          let s1 := s.publish 4
          if 256 ≤ q.msgs.length then .stall 10 s1 else .done (s1.acceptMessage q m s1.me.priv)) s) s

end Sys2Proof.Machine
end

