-- ==== Sys2Proof/Machine/Sched.lean ====
section
/-!
DEFINITION. Sys2Proof/Machine/Sched.lean: the die schedulers: work-queue messages (17 R280 to R282, 22 R354), the ready pool (17 R291, R292),
blocks that complete (03 R70, 17 R290, R296), completion records and notifications (17 R294, R295, 22 R359), aging, time slices and
pre-emption (17 R297, R299).
-/

namespace Sys2Proof.Machine

/-! ## Priority (R282) -/

def msTicks : Nat := 1000000 * nsTicks

/-- One level for each ms of waiting, up to 7. -/
def aged (priority waited : Nat) : Nat := Nat.min 7 (priority + waited / msTicks)

/-! ## The work queues of a die -/

/-- R294: whether a die's buffer of completion records has room. -/
def State.recordRoom (s : State) (die : Nat) : Bool :=
  decide ((s.vds.foldl (fun m v => m + (v.held.filter (fun c => c.die == die)).length) 0) < 1024)

/-- R294: the queues of a virtual device whose records wait for its ring stop being served once the die's buffer is full. -/
def State.recordsLet (s : State) (die : Nat) (v : VDev) : Bool := s.recordRoom die || v.held.all (fun c => c.die != die)

/-- The queues that can be served now: a message waits and 6 ns have passed, the virtual device is enabled and its records let it. -/
def State.servable (s : State) (die : Nat) : List (WorkQueue × Message) :=
  (s.queues.filter (fun q => q.num / 512 == die && ((s.vd? q.vd).map (fun v => v.enabled && s.recordsLet die v)).getD false)).filterMap (fun q =>
    match q.msgs with
    | m :: _ => if m.at_ + 6 * nsTicks ≤ s.now then some (q, m) else none
    | [] => none)

/-- R282: the priority of a message that waits, aging included. -/
def State.messageLevel (s : State) (m : Message) : Nat := aged (Nat.min 7 (recField m.bytes 9 1)) (s.now - m.at_)

/-- The queue served first: the higher priority, then the earlier acceptance. -/
def State.nextQueue (s : State) (die : Nat) : Option (WorkQueue × Message) :=
  (s.servable die).foldl (fun b q => match b with
    | none => some q
    | some p => if s.messageLevel p.2 < s.messageLevel q.2 ∨ (s.messageLevel p.2 = s.messageLevel q.2 ∧ q.2.at_ < p.2.at_) then some q
        else some p) none

/-- R282: the priority of a node's first instance that waits for the launch table, and since when it waits. -/
def State.nodeLevel (s : State) (n : Node) : Nat × Nat :=
  let since := ((n.waiting.head?).map (fun w => w.2.1)).getD s.now
  (aged (s.nodePriority n) (s.now - since), since)

/-- The node whose waiting instance is served first. -/
def State.nextNode (s : State) (die : Nat) : Option Node :=
  (s.nodes.filter (fun n => n.die == die && decide (n.waiting ≠ []))).foldl (fun b n => match b with
    | none => some n
    | some p => if (s.nodeLevel p).1 < (s.nodeLevel n).1 ∨ ((s.nodeLevel p).1 = (s.nodeLevel n).1 ∧ (s.nodeLevel n).2 < (s.nodeLevel p).2)
        then some n else some p) none

/-- What a die's scheduler serves next: a message or a waiting instance, by priority, then by age (R282). -/
inductive Work where
  | message (q : WorkQueue) (m : Message)
  | inst (n : Node)
  deriving DecidableEq, Repr

def State.nextWork (s : State) (die : Nat) : Option Work :=
  match s.nextQueue die, s.nextNode die with
  | some (q, m), some n =>
    if s.messageLevel m < (s.nodeLevel n).1 ∨ (s.messageLevel m = (s.nodeLevel n).1 ∧ (s.nodeLevel n).2 < m.at_) then some (.inst n)
    else some (.message q m)
  | some (q, m), none => some (.message q m)
  | none, some n => some (.inst n)
  | none, none => none

/-- Makes the next take of a die due, when the launch table has room (R293). -/
def State.serve (die : Nat) (s : State) : State :=
  match s.nextWork die with
  | some _ => if s.tableRoom die then s.dueOnce 0 (.schedulerTake (die * 512)) else s.dueOnce msTicks (.aging die)
  | none => s

/-! ## Loading a graph (R286, R287) -/

/-- A node from its descriptor, before it is checked. -/
def nodeOf (bs : List Byte) (die idx vd priv : Nat) : Node :=
  { die := die, idx := idx, vd := vd, header := BitVec.ofNat 64 (recField bs 0 8), pred := recField bs 8 2, thresh := recField bs 10 2,
    flush := recField bs 12 4, nsucc := recField bs 16 1, rearm := decide (recField bs 17 1 % 2 = 1),
    succ := (List.range (recField bs 16 1)).map (fun k => BitVec.ofNat 16 (recField bs (32 + 2 * k) 2)),
    args := (List.range 8).map (fun k => BitVec.ofNat 64 (recField bs (64 + 8 * k) 8)), priv := priv, counter := recField bs 8 2,
    recs := [], insts := 0, waiting := [], running := 0, failed := false, done := false, cause := 0, place := 0, nfault := 0,
    relaunches := 0 }

/-- Whether a descriptor breaks a rule, or its entry is another's or in use. -/
def State.nodeBad (s : State) (bs : List Byte) (n : Node) : Bool :=
  decide (16384 ≤ n.idx ∨ 64 < n.thresh ∨ 16 < n.nsucc ∨ 2 ≤ recField bs 17 1 ∨ recField bs 18 14 ≠ 0 ∨ (n.rearm = true ∧ n.pred = 0))
    || (match s.node? n.die n.idx with
        | some o => decide (o.vd ≠ n.vd ∨ o.running ≠ 0)
        | none => false)

/-- The nodes of a table, all checked; or the reason of the refusal. -/
def State.readNodes (vd priv die : Nat) : Nat → Nat → Nat → State → Except Nat (List Node) × State
  | 0, _, _, s => (.ok [], s)
  | k + 1, va, idx, s =>
    match s.readVirtual vd priv va 128 with
    | (none, s1) => (.error 8, s1)
    | (some bs, s1) =>
      let n := nodeOf bs die idx vd priv
      if s1.nodeBad bs n then (.error 1, s1)
      else
        let (r, s2) := if n.thresh = 0 then (none, s1)
          else match s1.readVirtual vd priv n.header.toNat 128 with
            | (none, s2) => (some 8, s2)
            | (some h, s2) => (if hdrLocal h < 64 * n.thresh then some 1 else none, s2)
        match r with
        | some reason => (.error reason, s2)
        | none => match s2.readNodes vd priv die k (va + 128) (idx + 1) with
          | (.ok l, s3) => (.ok (n :: l), s3)
          | (.error e, s3) => (.error e, s3)

/-- R287: the load is the first event that a node sees. -/
def State.enterNodes (ns : List Node) (s : State) : State :=
  let s1 : State := { s with nodes := s.nodes.filter (fun n => !ns.any (fun m => m.die == n.die && m.idx == n.idx)) ++ ns }
  ns.foldl (fun s n => if n.counter ≠ 0 then s else if n.thresh = 0 then s.fireNode n else s.checkNode n.die n.idx) s1

/-! ## Taking a message (R281) -/

/-- The rules of a message that concern the message alone. -/
def messageBad (m : Message) : Bool :=
  let b := m.bytes
  let kind := recField b 8 1
  decide (2 < kind ∨ 7 < recField b 9 1 ∨ recField b 100 28 ≠ 0)
    || (decide (kind = 0) && decide (recField b 10 2 ≠ 0)) || (decide (kind = 1) && decide (recField b 16 64 ≠ 0))
    || (decide (kind = 2) && decide (recField b 18 62 ≠ 0 ∨ m.priv = 0))

/-- R281, R290: a message runs; one of kind 1 that names a node that is not loaded, or another device's, meets reason 1: the model's
choice (log entry 71). -/
def State.runMessage (q : WorkQueue) (m : Message) (s : State) : State :=
  let b := m.bytes
  let die := q.num / 512
  let tag := BitVec.ofNat 32 (recField b 12 4)
  let node := recField b 10 2
  let kind := recField b 8 1
  let vnum := BitVec.ofNat 16 q.vnum
  let word : BitVec 16 := if kind = 0 ∨ 2 < kind then 0xFFFF else BitVec.ofNat 16 node
  let refuse (reason : Nat) (s : State) : State := s.refuse q.vd die tag word vnum 0 reason
  if messageBad m then refuse 1 s
  else if kind = 0 then
    let (r, s1) := s.loadHeader q.vd q.priv (recField b 0 8) ((List.range 5).map (fun k => recField b (80 + 4 * k) 4))
    match r with
    | .error reason => refuse reason s1
    | .ok p => s1.enterLaunch die q.vd q.priv p ((List.range 8).map (fun k => BitVec.ofNat 64 (recField b (16 + 8 * k) 8))) [] tag
        (some q.vnum) none 0 (recField b 9 1) (((s1.vd? q.vd).map (·.debug)).getD false)
  else if kind = 1 then
    match s.node? (node / 2 ^ 14) (node % 2 ^ 14) with
    | some n => if n.vd = q.vd then s.decNode q.vd n.die n.idx else refuse 1 s
    | none => refuse 1 s
  else if recField b 0 8 % 128 ≠ 0 then refuse 1 s
  else
    let (r, s1) := s.readNodes q.vd q.priv (node / 2 ^ 14) (recField b 16 2) (recField b 0 8) (node % 2 ^ 14)
    match r with
    | .error reason => refuse reason s1
    | .ok ns => s1.enterNodes ns

/-- R281, R282: the scheduler of a queue's die takes what its order puts first. -/
def State.takeNext (queue : Nat) (s : State) : State :=
  let die := queue / 512
  if s.nextWork die = none then s
  else if ¬ s.tableRoom die then s.dueOnce msTicks (.aging die)
  else match s.nextWork die with
    | some (.message q m) => ((s.mapQueue q.num (fun q => { q with msgs := q.msgs.tail })).runMessage q m).serve die
    | some (.inst n) => (s.startWaiting n).serve die
    | none => s

def execSchedulerTake (queue : Nat) (s : State) : Out := stepOf (fun s => s.takeNext queue) s

/-! ## Messages from hosts (22 R354) -/

/-- The device's answer to an operation. -/
def State.answer (op : Nat) (vd code : Nat) (data : List Byte) (s : State) : State :=
  { s with outbox := s.outbox ++ [OutMsg.code op vd code data] }

/-- The checks that every operation of a kind has: malformed (an op that is not the kind's among it), no such device, the wrong secure
domain. -/
def State.hostCheck (s : State) (o : HostOp) (kind : Nat) (malformed : Bool) : Nat :=
  if ¬ s.control.ready then 1
  else if o.opcode ≠ kind ∨ malformed then 5
  else match s.vd? o.vd with
    | none => 1
    | some v => if ¬ v.enabled then 1 else if o.secure ≠ o.vd then 2 else 0

/-- 22 R356: whether an earlier operation of the same ROD connection is still to be performed. -/
def State.hostBlocked (s : State) (o : HostOp) : Bool :=
  (s.hostOps.takeWhile (fun h => h.op.tag != o.tag)).any (fun h => h.op.conn.isSome && decide (h.op.conn = o.conn))

def State.hostWait? (s : State) (o : HostOp) : Option HostWait := s.hostOps.find? (fun h => h.op.tag == o.tag)

def State.mapHost (o : HostOp) (f : HostWait → HostWait) (s : State) : State :=
  { s with hostOps := updIf (fun h => h.op.tag == o.tag) f s.hostOps }

/-- 22 R353: the dies that have a port in service. -/
def State.openDies (s : State) : List Nat :=
  (List.range 4).filter (fun d => [2 * d, 2 * d + 1].any (fun p => (s.ports[p]?.map (·.inService)).getD false))

/-- R355: the die whose port receives a packet is a free value (log entry 3), among those with a port in service. -/
def State.drawDie (s : State) : Nat × State :=
  let (k, s1) := s.draw
  (s.openDies[Config.agentChoice k % s.openDies.length]?.getD 0, s1)

/-- An operation stands among those that have come, in the order of their arrival. -/
def State.enterHost (kind : Nat) (o : HostOp) (s : State) : State :=
  if (s.hostWait? o).isSome then s
  else
    let (d, s1) := s.drawDie
    { s1 with hostOps := s1.hostOps ++ [{ kind := kind, op := o, die := d, next := 0, data := [], wait := none, invalid := false }] }

def State.leaveHost (o : HostOp) (s : State) : State := { s with hostOps := s.hostOps.filter (fun h => h.op.tag != o.tag) }

/-- 22 R352: a target has at most 4,096 operations outstanding; a further one waits for credit, behind those before it. -/
def State.hostRoom (s : State) (o : HostOp) : Bool :=
  decide (((s.hostOps.takeWhile (fun h => h.op.tag != o.tag)).filter (fun h => h.op.vd == o.vd)).length < 4096)

/-- 22 R352: the package has 65,536 connections, which have the numbers below that; an operation on another one does not arrive. -/
def HostOp.connected (o : HostOp) : Bool := o.conn.all (fun k => decide (k < 65536))

/-- An operation takes its turn: not before the earlier ones of its connection; a stopped package answers none (19 R333), and one without a
port in service receives none. -/
def State.hostTurn (kind : Nat) (o : HostOp) (again : Instr) (f : State → State) (s : State) : State :=
  if s.control.stopped ∨ s.openDies = [] ∨ ¬ HostOp.connected o then s
  else
    let s1 := s.enterHost kind o
    if ¬ s1.hostRoom o ∨ s1.hostBlocked o then s1.dueOnce (1000 * nsTicks) again else f s1

/-- A work-queue message is accepted when it is written into its queue. -/
def State.hostMessage (o : HostOp) (s : State) : State :=
  let code := s.hostCheck o 0 (decide (o.length ≠ 128 ∨ o.payload.length ≠ 128 ∨ o.offset ≠ 0))
  if code ≠ 0 then s.answer 0 o.vd code []
  else match s.queue? o.vd o.index with
    | none => s.answer 0 o.vd 1 []
    | some q =>
      if 256 ≤ q.msgs.length then s.answer 0 o.vd 4 []
      else (s.acceptMessage q o.payload (if o.ownerChannel then 1 else 0)).answer 0 o.vd 0 []

def execWorkQueueMessage (op : HostOp) (s : State) : Out :=
  stepOf (fun s => s.hostTurn 0 op (.workQueueMessage op) (fun s => (s.hostMessage op).leaveHost op)) s

/-! ## The ready pool (R291, R292) -/

def State.tasksOn (s : State) (die : Nat) : List Task := s.tasks.filter (fun t => t.die == die)

def Task.level (t : Task) (now : Nat) : Nat := aged t.priority (if t.placed then t.age else now - t.readyAt)

/-- Tasks that wait, in the order of R282. -/
def insertTask (now : Nat) (t : Task) : List Task → List Task
  | [] => [t]
  | x :: r => if x.level now < t.level now ∨ (x.level now = t.level now ∧ t.readyAt < x.readyAt) then t :: x :: r else x :: insertTask now t r

def State.waitingTasks (s : State) (die : Nat) : List Task :=
  ((s.tasksOn die).filter (fun t => !t.placed)).foldl (fun l t => insertTask s.now t l) []

/-- The blocks of a group that are evicted. -/
def State.evictedBlocks (s : State) (t : Task) : List Block :=
  s.allBlocks.filter (fun b => decide (b.group = t.id ∧ b.phase = .evicted))

/-- Whether an evicted block can return to its core: its slots and everything else are free (07 R149; log entry 22). -/
def State.canRestore (s : State) (b : Block) : Bool :=
  let ts := (s.strandsOf b.id).filter (fun t => decide (t.slot < 32))
  let n := { b.take with slots := ts.length, vregs := ts.foldl (fun m t => m + t.budget) 0 }
  ((s.taken b.core).add n).within && ts.all (fun t => !(s.slotsTaken b.core).contains t.slot)
    && (match s.vd? b.vd with
        | some v => s.clusterOpen v (coreCluster b.core)
        | none => false)

/-- Whether evicted blocks can return together, which takes one of the cluster's barrier units (11 R200). -/
def State.returnable (s : State) (bs : List Block) : Bool :=
  bs.all (fun b => !b.held && s.canRestore b)
    && decide ((s.groupsOn (coreCluster ((bs.head?.map (·.core)).getD 0))).length < 8)

/-- R292: whether the group can go ahead now: evicted blocks return together; another group is sown, while the root's count for its class is
positive. -/
def State.placeable (s : State) (t : Task) : Bool :=
  match s.evictedBlocks t with
  | [] => match s.launch? t.die t.launch, t.cls.bind (s.class? t.die) with
    | some l, some c => ((s.vd? l.vd).map (fun v => (s.classPick v (.die t.die) c).isSome)).getD false
    | _, _ => false
  | bs => s.returnable bs

/-- 12 R222: the reservations of spawn-mode offers are taken again, none counting as held before; an offer that cannot be reserved is
dropped. -/
def State.reserveAgain (b : Block) (s : State) : State :=
  b.offers.foldl (fun s e =>
    e.reserved.foldl (fun s r =>
      match s.freeSlots b.core r.budget 1 with
      | k :: _ => s.mapBlock b.id (Block.mapOffer e.bed (fun e => { e with reserved := e.reserved ++ [{ r with slot := k }] }))
      | [] => s.mapBlock b.id (Block.mapOffer e.bed (fun e => { e with count := e.count - 1 }))) s)
    (s.mapBlock b.id (fun b => { b with offers := b.offers.map (fun e => { e with reserved := [] }) }))

/-- A block enters RESTORING: its offers are made again on its core (12 R222); it is resident, and can be sampled (21 R341). -/
def State.restoreInto (s : State) (b : Block) : State :=
  let s1 := (s.mapBlock b.id (fun b => { b with phase := .restoring })).reserveAgain b
  ((s1.reportOffers b).dueOnce 0 (.restoring b.id)).sampleNext b.core

/-- A group is restored onto the same cores (07 R149, 11 R200); its cluster's leaves offer what is left. -/
def State.restore (t : Task) (s : State) : State :=
  let s1 := match (s.evictedBlocks t).head? with
    | some b => match s.vd? b.vd with
      | some v => s.takeContext v (coreCluster b.core)
      | none => s
    | none => s
  let s2 := { s1 with tasks := updIf (fun k => k.id == t.id) (fun k => { k with placed := true, age := s.now - k.readyAt }) s1.tasks }
  ((s.evictedBlocks t).foldl State.restoreInto s2).offerCluster (coreCluster (((s.evictedBlocks t).head?.map (·.core)).getD 0))

/-- R292: a ready group is sown into its class's bed; the leaf that accepts it places it, a stale count bounces it. -/
def State.sowTask (t : Task) (s : State) : State :=
  match s.launch? t.die t.launch, t.cls with
  | some l, some num => match s.vd? l.vd with
    | some v => match s.sowGroup l v num 16 with
      | (some site, s1) => s1.admitTask l t site
      | (none, s1) => s1
    | none => s
  | _, _ => s

/-- R291: the classes of a die as they stand now: unused ones free, waiting groups in classes, reports that have come in. -/
def State.readyClasses (die : Nat) (s : State) : State :=
  (((s.freeClasses die).waitingTasks die).foldl State.classTask (s.freeClasses die)).applyClassReports die

/-- R292: the first group in order whose class's count allows it goes ahead. -/
def State.poolSow (die : Nat) (s : State) : State :=
  if s.control.stopped then s
  else
    let s0 := s.readyClasses die
    match (s0.waitingTasks die).find? s0.placeable with
    | none => if s0.waitingTasks die = [] then s0 else (s0.dueOnce msTicks (.aging die)).dueOnce 0 (.preEmption die)
    | some t =>
      let s1 := if s0.evictedBlocks t ≠ [] then s0.restore t else s0.sowTask t
      if s1.waitingTasks die = [] then s1 else s1.dueOnce 0 (.readyPoolSow die)

def execReadyPoolSow (die : Nat) (s : State) : Out := stepOf (fun s => s.poolSow die) s

/-- R282: what waits may have gained a level; R291: leaves offer what they can admit now. -/
def State.ageDie (die : Nat) (s : State) : State :=
  let s1 := ((List.range 16).map (fun k => die * 16 + k)).foldl (fun s cl => s.offerCluster cl) (s.serve die)
  if s1.waitingTasks die = [] then s1 else s1.dueOnce 0 (.readyPoolSow die)

def execAging (die : Nat) (s : State) : Out := stepOf (fun s => s.ageDie die) s

/-! ## Blocks, groups and launches that end (R290, R293, R296) -/

/-- The launch's last group has ended: its record, or its node's instance. -/
def State.finishLaunch (l : Launch) (s : State) : State :=
  let s1 := { s with launches := s.launches.filter (fun k => !(k.die == l.die && k.idx == l.idx)) }
  let s2 := match l.node with
    | none => s1.postCompletion l.vd
        { die := l.die, time := s.timeNs, tag := l.tag, node := 0xFFFF, queue := BitVec.ofNat 16 (l.queue.getD 0), inst := 0,
          status := if l.failed then 1 else 0, cause := l.cause, place := l.place, nfault := l.nfault, relaunch := l.relaunches }
    | some (die, idx) => (s1.mapNode die idx (fun n =>
        { n with running := n.running - 1, failed := n.failed || l.failed, cause := if n.nfault = 0 then l.cause else n.cause,
                 place := if n.nfault = 0 then l.place else n.place, nfault := Nat.min (n.nfault + l.nfault) 0xFFFF,
                 relaunches := n.relaunches + l.relaunches })).checkNode die idx
  s2.serve l.die

/-- R296: the group has ended: it is relaunched with the same WID values, or it counts in its launch. -/
def State.finishGroup (t : Task) (l : Launch) (relaunch : Bool) (s : State) : State :=
  let s1 : State := { s with groupBars := s.groupBars.filter (fun g => g.group != t.id) }
  let again := t.failed.isSome && relaunch && hdrFlag l.header 1 && decide (t.relaunch < 3)
  if again then
    let s2 := (s1.mapLaunch l.die l.idx (fun l => { l with relaunches := l.relaunches + 1 })).postCompletion l.vd
      { die := l.die, time := s.timeNs, tag := l.tag, node := (l.node.map (fun (p : Nat × Nat) => nodeWord p.1 p.2)).getD 0xFFFF,
        queue := BitVec.ofNat 16 (l.queue.getD 0),
        inst := BitVec.ofNat 32 (((l.node.bind (fun (p : Nat × Nat) => s.node? p.1 p.2)).map (·.insts)).getD 0), status := 3, cause := t.failed.getD 0,
        place := t.place, nfault := t.nfault, relaunch := l.relaunches + 1 }
    let redo (k : Task) : Task :=
      { k with isRelaunch := true, relaunch := k.relaunch + 1, readyAt := s.now, placed := false, blocksLeft := l.e, failed := none,
               place := 0, nfault := 0 }
    { s2 with tasks := updIf (fun k => k.id == t.id) redo s2.tasks }.dueOnce 0 (.readyPoolSow l.die)
  else
    let s2 : State := { s1 with tasks := s1.tasks.filter (fun k => k.id != t.id) }
    let l1 := { l with left := l.left - 1, failed := l.failed || t.failed.isSome }
    let s3 := s2.mapLaunch l.die l.idx (fun _ => l1)
    if l1.left = 0 then s3.finishLaunch l1 else s3

/-- The block leaves its core: trays' generations advance (07 R138), its streamed fetches, strands and units go. -/
def State.removeBlock (b : Block) (s : State) : State :=
  let s1 := s.mapCoreOf b.core (fun c => { c with trayGens := b.trays.foldl (fun g t => assocSet g t.unit (t.gen + 1)) c.trayGens })
  let gone (c : CopyOp) : Bool := c.block == b.id && c.stream
  { s1 with
    copies := s1.copies.filter (fun c => !gone c), mxops := s1.mxops.filter (fun m => m.block != b.id),
    me := if s1.me.block = b.id then Strand.init else s1.me, strands := s1.strands.filter (fun t => t.block != b.id),
    blk := if s1.blk.id = b.id then Block.init else s1.blk, blocks := s1.blocks.filter (fun k => k.id != b.id) }

/-- A group whose blocks are all evicted waits again, with the age that it had (R282). -/
def State.waitAgain (group : Nat) (s : State) : State :=
  let mine := s.allBlocks.filter (fun b => decide (b.group = group ∧ b.phase ≠ .ended))
  { s with tasks := updIf (fun t => t.id == group && t.placed && decide (mine ≠ []) && mine.all (fun b => decide (b.phase = .evicted))) (fun t => { t with placed := false, readyAt := s.now - t.age }) s.tasks }

/-- The blocks of a virtual device that hold units of a cluster. -/
def State.residentOn (s : State) (cl : Nat) : List Block :=
  s.allBlocks.filter (fun b => decide (coreCluster b.core = cl ∧ b.phase ≠ .evicted ∧ b.phase ≠ .ended ∧ b.id ≠ 0))

/-- The outgoing context has left: its overrun is its debt. -/
def State.finishSwitch (cl : Nat) (s : State) : State :=
  let c := s.clusterOf cl
  match c.incoming, c.context with
  | some n, some o =>
    if s.residentOn cl ≠ [] then s
    else
      let late := c.drainedAt - c.sliceAt
      let s1 := s.mapCluster cl (fun c => { c with debts := assocSet c.debts o (lookupD c.debts o 0 + late) })
      match s1.vd? n with
      | some v => s1.beginSlice cl v
      | none => s1.mapCluster cl (fun c => { c with context := none, incoming := none })
  | _, _ => s

/-- R70, R254, R290: the block has completed, failed or not; a node's block publishes at package scope.  A halted handler strand has no part
in the group's barrier (12 R224).  What is left of the group may all be evicted now, and wait again; the last block of an outgoing context
ends the switch (R297). -/
def State.endBlock (b : Block) (relaunch : Bool) (s : State) : State :=
  let halted := (s.strandsOf b.id).any (fun t => decide (t.run = .halted) && !t.handler)
  let s0 := if halted then s.mapGroupBar b.group (fun g => { g with halted := true }) else s
  let s1 := if b.hasNode.isSome then s0.l1Publish b.core else s0
  let s2 := (s1.schedRecord b (if b.failed.isSome then 4 else 3) b.launchAt).removeBlock b
  let s3 := s2.mapLaunch b.die b.launch (fun l =>
    { l with cause := if l.nfault = 0 then ((b.failed.map Cause.code).getD l.cause) else l.cause,
             place := if l.nfault = 0 then b.firstPlace else l.place, nfault := Nat.min (l.nfault + b.nfault) 0xFFFF })
  let s4 : State := { s3 with tasks := updIf (fun t => t.id == b.group) (fun t =>
    { t with blocksLeft := t.blocksLeft - 1, failed := t.failed.or (b.failed.map Cause.code),
             place := if t.nfault = 0 then b.firstPlace else t.place, nfault := Nat.min (t.nfault + b.nfault) 0xFFFF }) s3.tasks }
  let s5 := match s4.tasks.find? (fun t => t.id == b.group), s4.launch? b.die b.launch with
    | some t, some l => if t.blocksLeft = 0 then s4.finishGroup t l relaunch else s4
    | _, _ => s4
  let s6 := ((s5.waitAgain b.group).finishSwitch (coreCluster b.core)).offerCluster (coreCluster b.core)
  if (s6.waitingTasks b.die) = [] then s6 else s6.dueOnce 0 (.readyPoolSow b.die)

/-- Once every strand has ended the offers go (12 R222); once everything else is done too, the block completes. -/
def State.completeBlock (block : Nat) (s : State) : State :=
  match s.block? block with
  | none => s
  | some b =>
    if b.id = 0 ∨ ¬ (s.strandsOf block).all Strand.over then s
    else
      let s1 := s.endOffers block
      if s1.blockDone block then s1.endBlock ((s1.block? block).getD b) true else s1

def execBlockComplete (block : Nat) (s : State) : Out := stepOf (fun s => s.completeBlock block) s

/-! ## Completion records and notifications (R294, R295, 22 R359, R360) -/

/-- The 32 bytes of a record. -/
def Completion.bytes (c : Completion) : List Byte :=
  natBytes 8 c.time.toNat ++ natBytes 4 c.tag.toNat ++ natBytes 2 c.node.toNat ++ natBytes 2 c.queue.toNat ++ natBytes 4 c.inst.toNat
    ++ [BitVec.ofNat 8 c.status, BitVec.ofNat 8 c.cause] ++ natBytes 2 c.place.toNat ++ natBytes 2 (Nat.min c.nfault 0xFFFF)
    ++ natBytes 2 c.relaunch ++ natBytes 4 0

/-- The count trigger: N records since the last notification; T = 0 notifies every record (R295). -/
def VDev.countUp (v : VDev) : Bool := decide (v.sinceN ≠ 0 ∧ (v.notifyT = 0 ∨ v.notifyN ≤ v.sinceN))

/-- The time trigger: T µs have passed since the first record, or since what could not be delivered. -/
def VDev.timeUp (v : VDev) (now : Nat) : Bool := (v.sinceAt.map (fun t => decide (t + v.notifyT * 1000 * nsTicks ≤ now))).getD false

/-- The ring head is to be notified: by count or by time (R295), once more when it could not be delivered (22 R359). -/
def VDev.notifyNow (v : VDev) (now : Nat) : Bool := v.countUp || (v.timeUp now && (decide (v.sinceN ≠ 0) || v.owed))

/-- The record is in the ring (log entry 23): the head moves, the coalescing counts. -/
def State.ringAdvance (v : VDev) (s : State) : State :=
  let s1 := s.mapVd v.num (fun v => { v with ringHead := v.ringHead + 1, held := v.held.tail, sinceN := v.sinceN + 1,
                                             sinceAt := if v.sinceN = 0 then some s.now else v.sinceAt })
  let s2 := match s1.vd? v.num with
    | some w => if w.notifyNow s1.now then s1.dueOnce 0 (.notification v.num)
      else if v.sinceN = 0 then s1.due (v.notifyT * 1000 * nsTicks) (.notification v.num) else s1
    | none => s1
  let s3 := if (v.held.drop 1) = [] then s2 else s2.dueOnce 0 (.completionRecord v.num)
  (List.range 4).foldl (fun s d => s.serve d) s3

/-- R294: the oldest record of a virtual device is written when the ring has room; it waits otherwise. -/
def State.writeCompletion (vd : Nat) (s : State) : State :=
  match s.vd? vd with
  | none => s
  | some v => match v.held with
    | [] => s
    | c :: _ =>
      let again := s.dueOnce (1000 * nsTicks) (.completionRecord vd)
      if v.ringCount = 0 then again
      else match s.deviceAddr vd .write v.ringBase.toNat,
                 s.deviceAddr vd .write (v.ringBase.toNat + 64 + 32 * (v.ringHead % v.ringCount)) with
        | some ctl, some slot =>
          let used := (v.ringHead + 2 ^ 64 - bytesNat (s.plainRead (ctl + 8) 8)) % 2 ^ 64
          if v.ringCount ≤ used then again
          else ((s.homeWriteBytes slot c.bytes).homeWriteBytes ctl (natBytes 8 (v.ringHead + 1))).ringAdvance v
        | _, _ => again

def execCompletionRecord (vd : Nat) (s : State) : Out := stepOf (fun s => s.writeCompletion vd) s

/-- 22 R359: one notification to the endpoint of the virtual device; whether it is delivered is a free value (log entry 58). -/
def State.notice (v : VDev) (kind : Nat) (x : W64) (s : State) : Bool × State :=
  let (k, s1) := s.draw
  if Config.delivered k then (true, { s1 with outbox := s1.outbox ++ [OutMsg.notice v.num v.notifyTo kind x] }) else (false, s1)

/-- What could not be delivered waits for the next count or time trigger. -/
def State.noticeAgain (v : VDev) (f : VDev → VDev) (s : State) : State :=
  let s1 := s.mapVd v.num (fun v => { f v with sinceAt := if v.notifyT = 0 then none else some s.now })
  if v.notifyT = 0 then s1 else s1.due (v.notifyT * 1000 * nsTicks) (.notification v.num)

/-- 22 R359: the ring head as it stands now. -/
def State.noticeHead (v : VDev) (s : State) : State :=
  match s.notice v 0 (BitVec.ofNat 64 v.ringHead) with
  | (true, s1) => s1.mapVd v.num (fun v => { v with sinceN := 0, sinceAt := none, owed := false })
  | (false, s1) => s1.noticeAgain v (fun v => { v with sinceN := 0, owed := true })

/-- 22 R360: the outbound doublewords in push order, up to the first that cannot be delivered. -/
def State.noticeMail (v : VDev) : List W64 → State → State
  | [], s => s.mapVd v.num (fun v => { v with mailHeld := false })
  | x :: r, s => match s.notice v 1 x with
    | (true, s1) => State.noticeMail v r (s1.mapVd v.num (fun v => { v with mailOut := v.mailOut.tail }))
    | (false, s1) => s1.noticeAgain v (fun v => { v with mailHeld := true })

/-- R295, 22 R359, R360: the ring head when it is due; the outbound doublewords, those held with the next trigger. -/
def State.notify (vd : Nat) (s : State) : State :=
  match s.vd? vd with
  | none => s
  | some v =>
    let s1 := if v.notifyNow s.now then s.noticeHead v else s
    if v.mailHeld ∧ ¬ v.countUp ∧ ¬ v.timeUp s.now then s1 else s1.noticeMail v v.mailOut

def execNotification (vd : Nat) (s : State) : Out := stepOf (fun s => s.notify vd) s

/-! ## Time slices (R297) -/

/-- Whether a virtual device has groups that could use a cluster. -/
def State.wants (s : State) (cl : Nat) (v : VDev) : Bool :=
  v.shares cl && v.holds cl && s.tasks.any (fun t => !t.placed && decide (t.die = cl / 16)
    && ((s.launch? t.die t.launch).map (fun l => decide (l.vd = v.num))).getD false
    && (match s.evictedBlocks t with
        | [] => true
        | bs => bs.all (fun b => decide (coreCluster b.core = cl) && !b.held)))

/-- The slice ends: when another context waits, the outgoing one's blocks are evicted whole. -/
def State.endSlice (cl : Nat) (s : State) : State :=
  let c := s.clusterOf cl
  match c.context, c.incoming with
  | some o, none =>
    match s.vds.find? (fun v => v.num != o && v.enabled && s.wants cl v), s.vd? o with
    | none, some v => if s.residentOn cl = [] then s.mapCluster cl (fun c => { c with context := none }) else s.beginSlice cl v
    | some v, _ =>
      let s1 := s.mapCluster cl (fun c => { c with incoming := some v.num, sliceAt := s.now, drainedAt := s.now })
      ((s.residentOn cl).foldl (fun s b => s.dueOnce 0 (.evictionRequest b.id)) s1).finishSwitch cl
    | none, none => s.mapCluster cl (fun c => { c with context := none })
  | _, _ => s

def execSliceEnd (cluster : Nat) (s : State) : Out := stepOf (fun s => s.endSlice cluster) s

/-! ## Pre-emption (R299) -/

/-- The sub-lists of k members, in the order of the list. -/
def choices {α : Type} : Nat → List α → List (List α)
  | 0, _ => [[]]
  | _ + 1, [] => []
  | k + 1, x :: r => (choices k r).map (fun l => x :: l) ++ choices (k + 1) r

/-- 07 R150: the bytes that an eviction saves of a block: window, vector registers, tiles, planes of 16 KiB (00 R4), channels; the rule's
example counts no bytes for the rest of a strand's state.  A tile counts as 16,384 bytes: the model's choice (log entry 62). -/
def State.saveBytes (s : State) (b : Block) : Nat :=
  b.windowSize + (s.strandsOf b.id).foldl (fun m t => m + t.budget * 128) 0 + b.tiles.length * 16384 + b.planes.length * 16384
    + b.channels.foldl (fun m c => m + c.entries.length * 128) 0

/-- 11 R200: a group is evicted whole; its blocks. -/
def State.goneWith (s : State) (v : Task × Block) : List Block := s.allBlocks.filter (fun b => decide (b.group = v.1.id ∧ b.phase = .running))

/-- The order in which blocks are evicted: lower priority, fewer bytes, the later launch. -/
def State.victimBefore (s : State) (a b : Task × Block) : Bool :=
  let pa := a.1.level s.now
  let pb := b.1.level s.now
  let bytes (v : Task × Block) : Nat := (s.goneWith v).foldl (fun m k => m + s.saveBytes k) 0
  decide (pa < pb) || (decide (pa = pb) && (decide (bytes a < bytes b) || (decide (bytes a = bytes b) && decide (b.2.launchAt < a.2.launchAt))))

def State.insertVictim (s : State) (v : Task × Block) : List (Task × Block) → List (Task × Block)
  | [] => [v]
  | x :: r => if s.victimBefore v x then v :: x :: r else x :: s.insertVictim v r

/-- How many blocks the departure of some groups evicts. -/
def State.evictCount (s : State) (vs : List (Task × Block)) : Nat := vs.foldl (fun m v => m + (s.goneWith v).length) 0

/-- The groups that a group of a launch may displace from some cores, each with a block of it there: running, of its partition, of a lower
priority. -/
def State.victims (s : State) (l : Launch) (level : Nat) (cores : List Nat) : List (Task × Block) :=
  (s.allBlocks.filter (fun b => cores.contains b.core && decide (b.vd = l.vd ∧ b.phase = .running))).foldl (fun vs b =>
    match s.tasks.find? (fun t => t.id == b.group) with
    | some t => if t.level s.now < level ∧ vs.all (fun v => v.1.id != t.id) then s.insertVictim (t, b) vs else vs
    | none => vs) []

/-- The state as it would be without some groups. -/
def State.withoutGroups (gs : List Nat) (s : State) : State :=
  s.mapBlocks (fun b => gs.contains b.group) (fun b => { b with phase := .evicted })

/-- Of two choices the one of fewer blocks, then the one whose groups go first: lower priority, fewer bytes, the later launch. -/
def State.choiceOrder (s : State) : List (Task × Block) → List (Task × Block) → Bool
  | [], [] => false
  | [], _ :: _ => true
  | _ :: _, [] => false
  | x :: a, y :: b => s.victimBefore x y || (!s.victimBefore y x && s.choiceOrder a b)

def State.choiceBefore (s : State) (a b : List (Task × Block)) : Bool :=
  if s.evictCount a = s.evictCount b then s.choiceOrder a b else decide (s.evictCount a < s.evictCount b)

/-- The victims whose departure admits and is preferred; none at all where the free resources do. -/
def State.fewest (s : State) (admits : State → Bool) (vs : List (Task × Block)) : Option (List (Task × Block)) :=
  ((List.range (vs.length + 1)).flatMap (fun k => choices k vs)).foldl (fun (m : Option (List (Task × Block))) c =>
    if (m.map (fun b => s.choiceBefore c b)).getD true && admits (s.withoutGroups (c.map (·.1.id))) then some c else m) none

/-- The blocks that a waiting group displaces: on one core, or for a group of several blocks on one cluster; an evicted group, on its own
cores. -/
def State.displaced (s : State) (t : Task) : Option (List (Task × Block)) :=
  match s.launch? t.die t.launch, (s.launch? t.die t.launch).bind (fun l => s.vd? l.vd) with
  | some l, some v =>
    let tries : List (Option (List (Task × Block))) := match s.evictedBlocks t with
      | [] =>
        let cls := ((List.range 16).map (fun k => t.die * 16 + k)).filter (s.clusterOpen v)
        let spots : List (List Nat) := if l.e = 1 then cls.flatMap (fun c => (List.range 8).map (fun k => [c * 8 + k]))
          else cls.map (fun c => (List.range 8).map (fun k => c * 8 + k))
        spots.map (fun cores => s.fewest (fun u => (u.sites l).any (fun r => r.2.2.all cores.contains)) (s.victims l (t.level s.now) cores))
      | bs =>
        if bs.any (·.held) then []
        else [s.fewest (fun u => u.returnable bs) (s.victims l (t.level s.now) (bs.map (·.core)))]
    (tries.filterMap id).foldl (fun (m : Option (List (Task × Block))) c => match m with
      | none => some c
      | some b => if s.choiceBefore c b then some c else some b) none
  | _, _ => none

/-- R299: the first ready group that the free resources do not admit and that may displace blocks of lower priority does so, unless an
eviction is under way on the die. -/
def State.preempt (die : Nat) (s : State) : State :=
  if s.allBlocks.any (fun b => decide (b.die = die) && decide (b.phase = .stopping ∨ b.phase = .draining ∨ b.phase = .saving)) then s
  else
    let waits := (s.waitingTasks die).filter (fun t => !s.placeable t)
    match waits.findSome? (fun t => (s.displaced t).filter (fun vs => decide (vs ≠ []))) with
    | none => s
    | some vs => vs.foldl (fun s v => s.dueOnce 0 (.evictionRequest v.2.id)) s

def execPreEmption (die : Nat) (s : State) : Out := stepOf (fun s => s.preempt die) s

end Sys2Proof.Machine
end

