-- ==== Sys2Proof/Machine/Evict.lean ====
section
/-!
DEFINITION. Sys2Proof/Machine/Evict.lean: the eviction of a block and its return (07 R149, R150, 05 R114, 11 R200, 12 R222, 17 R298).

A group is evicted and restored whole.  What R150 saves stays in the block's own fields, so that nothing is added or lost.
-/

namespace Sys2Proof.Machine

/-! ## STOPPING -/

/-- R149: a rendezvous that lacks a member is dissolved; its strands return to the boundary before their word. -/
def State.dissolve (b : Block) (s : State) : State :=
  match b.latch with
  | some l =>
    if (gangSlots l.gang).all l.joined.contains then s
    else (s.mapBlock b.id (fun b => { b with latch := none })).mapStrands (fun t => t.block == b.id && decide (t.wait = .gang))
      (fun t => { t with wait := .none, issued := false, latch := [], reason := 0 })
  | none => s

/-- R149: the request: every block of the group stops, one that is being restored once it runs (11 R200); strands are woken (03 R75), a
strand with TMASKED = 1 defers (17 R298). -/
def State.requestEviction (block : Nat) (s : State) : State :=
  match s.block? block with
  | none => s
  | some b =>
    if b.phase = .restoring then s.dueOnce acTicks (.evictionRequest block)
    else if b.phase ≠ .running ∨ b.id = 0 then s
    else
      let s1 := (s.mapBlock block (fun b => { b with phase := .stopping, stopAt := s.now })).wakeStrands (fun t => t.block == block)
      let s2 := (((s1.dissolve b).reportOffers b).holdClocks block).dueOnce 0 (.draining block)
      let s3 := ((s2.strandsOf block).filter (fun t => t.tmasked && decide (t.run = .running))).foldl (fun s t =>
        s.dueOnce (2 ^ 20 * acTicks) (.maskoverrun t.id)) s2
      (s3.allBlocks.filter (fun k => decide (k.group = b.group ∧ (k.phase = .running ∨ k.phase = .restoring)))).foldl (fun s k =>
        s.dueOnce 0 (.evictionRequest k.id)) s3

def execEvictionRequest (block : Nat) (s : State) : Out := stepOf (fun s => s.requestEviction block) s

/-- Whether the block's latch is open and complete. -/
def Block.latched (b : Block) : Bool := (b.latch.map (fun l => (gangSlots l.gang).all l.joined.contains)).getD false

/-- Whether a strand stands at a safe point: an instruction boundary, or a wait, outside a complete rendezvous; with TMASKED = 1 it
does not stop until its deferral has run out (17 R298). -/
def Strand.safe (latch : Bool) (t : Strand) : Bool :=
  decide (t.run ≠ .running) || ((!t.tmasked || t.overrun) && decide (t.wait ≠ .released) && !(latch && decide (t.wait = .gang)))

/-- 11 R200: whether a block of a group that is evicted has come as far as its safe points. -/
def State.stoppedAt (s : State) (b : Block) : Bool :=
  decide (b.phase ≠ .running ∧ b.phase ≠ .restoring) && (decide (b.phase ≠ .stopping) || (s.strandsOf b.id).all (Strand.safe b.latched))

/-- The strands of the block, and of the other blocks of its group (11 R200), are all at safe points: DRAINING begins, with stall reason 14; a
rendezvous that a deferred strand has opened since is dissolved. -/
def State.beginDraining (block : Nat) (s : State) : State :=
  match s.block? block with
  | none => s
  | some b =>
    if b.phase ≠ .stopping then s
    else if ¬ (s.strandsOf block).all (Strand.safe b.latched) ∨ ¬ (s.groupBlocks b.group).all s.stoppedAt then s.dueOnce acTicks (.draining block)
    else
      let s1 := ((s.dissolve b).mapBlock block (fun b => { b with phase := .draining })).mapStrands (fun t => t.block == block && decide (t.run = .running))
        (fun t => { t with reason := 14 })
      (s1.mapCluster (coreCluster b.core) (fun c => { c with drainedAt := s.now })).dueOnce 0 (.saving block)

def execDraining (block : Nat) (s : State) : Out := stepOf (fun s => s.beginDraining block) s

/-- 17 R298: the deferral has passed 2^20 ac: a record is posted, and the strand stops at its next boundary. -/
def State.maskOverrun (strand : Nat) (s : State) : State :=
  match s.strand? strand with
  | none => s
  | some t => match s.block? t.block with
    | none => s
    | some b =>
      if b.phase ≠ .stopping ∨ ¬ t.tmasked ∨ t.run ≠ .running then s
      else if s.now < b.stopAt + 2 ^ 20 * acTicks then s.dueOnce (b.stopAt + 2 ^ 20 * acTicks - s.now) (.maskoverrun strand)
      else
        (s.mapStrand strand (fun t => { t with overrun := true })).postFault b.vd
          [recordWord (s.placeOf b.vd b.core) b.index 0 2 0x80, BitVec.ofNat 64 (t.slot % 32), t.tpc]

def execMaskoverrun (strand : Nat) (s : State) : Out := stepOf (fun s => s.maskOverrun strand) s

/-! ## DRAINING, SAVING, EVICTED -/

/-- 05 R114: a reply that the strand awaits; a message that waits for room is none. -/
def Strand.awaits (t : Strand) : Bool :=
  match t.flight with
  | none => false
  | some (.message _) => false
  | some (.loaded _ _ _) => false
  | some _ => true

/-- R149: matrix operations have run to completion and replies have come. -/
def State.drainedBlock (s : State) (block : Nat) : Bool :=
  s.mxops.all (fun m => m.block != block || m.done) && (s.strandsOf block).all (fun t => !t.awaits)

/-- R149, R150, 07 R138: the state is saved, once every block of the group has drained (11 R200); the trays' generations advance. -/
def State.saveBlock (block : Nat) (s : State) : State :=
  match s.block? block with
  | none => s
  | some b =>
    if b.phase ≠ .draining then s
    else if ¬ s.drainedBlock block ∨ ¬ (s.groupBlocks b.group).all (fun k => decide (k.phase ≠ .stopping) && s.drainedBlock k.id) then
      s.dueOnce acTicks (.saving block)
    else
      let s1 := s.mapBlock block (fun b => { b with phase := .saving, trays := b.trays.map (fun t => { t with gen := t.gen + 1 }) })
      (s1.mapCoreOf b.core (fun c => { c with trayGens := b.trays.foldl (fun g t => assocSet g t.unit (t.gen + 1)) c.trayGens })).dueOnce
        (s.saveBytes b / 128 * acTicks) (.evicted block)

def execSaving (block : Nat) (s : State) : Out := stepOf (fun s => s.saveBlock block) s

/-- R149: the resources are free. -/
def State.evictBlock (block : Nat) (s : State) : State :=
  match s.block? block with
  | none => s
  | some b =>
    if b.phase ≠ .saving then s
    else
      let s1 := ((s.mapBlock block (fun b => { b with phase := .evicted })).count b.vd 0x10 1 1).schedRecord b 1 b.stopAt
      let s2 := ((s1.waitAgain b.group).finishSwitch (coreCluster b.core)).offerCluster (coreCluster b.core)
      if s2.waitingTasks b.die = [] then s2 else s2.dueOnce 0 (.readyPoolSow b.die)

def execEvicted (block : Nat) (s : State) : Out := stepOf (fun s => s.evictBlock block) s

/-! ## RESTORING, RUNNING -/

/-- R149: the state is read back on the same logical core, into trays that are free there. -/
def State.restoreBlock (block : Nat) (s : State) : State :=
  match s.block? block with
  | none => s
  | some b =>
    if b.phase ≠ .restoring then s
    else
      let units := lowestFree 16 b.trays.length ((s.blocksOn b.core).flatMap (fun k => if k.id = block then [] else k.trays.map (·.unit)))
      let s1 := s.mapBlock block (fun b => { b with trays := b.trays.zipIdx.map (fun t => { t.1 with unit := units[t.2]?.getD 0 }) })
      s1.dueOnce (s.saveBytes b / 128 * acTicks) (.running block)

def execRestoring (block : Nat) (s : State) : Out := stepOf (fun s => s.restoreBlock block) s

/-- A strand that runs again: what it has not performed is translated afresh (05 R114), the resumption wakes it (03 R75), `hint.spin` no
longer demotes it (07 R133).  Its stall-count coverage has ended: 01 R25 says that an eviction ends it, 02 R38 lists it among what is
restored (log entry 46). -/
def Strand.resumed (t : Strand) : Strand :=
  let u := { t with reason := 0, overrun := false, fetch := [], stall := [], spin := false,
                    memWait := t.memWait.map (fun m => { m.again with waiting := m.again.waiting.map (fun w => { w with id := none }) }) }
  if u.run = .running then (if u.wait = .yielding then { u with wait := .none } else u).woken else u

/-- R149: the block runs again, unless its cluster drains: copies go on at their resume points, barrier clocks go on, unless a debugger
holds the block (21 R348). -/
def State.runAgain (block : Nat) (s : State) : State :=
  match s.block? block with
  | none => s
  | some b =>
    if b.phase ≠ .restoring then s
    else if ¬ s.clusterIssues b.core then s.dueOnce acTicks (.running block)
    else
      let s1 := s.mapBlock block (fun b => { b with phase := .running })
      let s2 := (s1.mapStrands (fun t => t.block == block) Strand.resumed).resumeClocks block
      ((s2.resumeCopies block).schedRecord b 2 b.stopAt).sampleNext b.core

def execRunning (block : Nat) (s : State) : Out := stepOf (fun s => s.runAgain block) s

end Sys2Proof.Machine
end

