-- ==== Sys2Proof/Machine/Graft.lean ====
section
/-!
DEFINITION. Sys2Proof/Machine/Graft.lean: loading images, binding and converting regions (15 R259 to R277), and the transducer
instructions (15 R263 to R265) on the run that State holds.
-/

namespace Sys2Proof.Machine

/-! ## The run of a transducer (15 R263 to R265) -/

/-- A transducer word acts on the run that is in progress. -/
def onRun (f : XdRun → XdRun) (s : State) : Out :=
  match s.xd with
  | none => .fault .noRun
  | some r => if r.ended.isSome then .fault .noRun else .next { s with xd := some (f r) }

def execXdGetb (d : BitVec 4) (s : State) : Out := onRun (xdGetb d) s
def execXdPeekb (d : BitVec 4) (i : BitVec 15) (s : State) : Out := onRun (xdPeekb d i) s
def execXdPutb (a : BitVec 4) (s : State) : Out := onRun (xdPutb a) s
def execXdPutn (a b : BitVec 4) (s : State) : Out := onRun (xdPutn a b) s
def execXdCpin (a : BitVec 4) (s : State) : Out := onRun (xdCpin a) s
def execXdBack (a b : BitVec 4) (s : State) : Out := onRun (xdBack a b) s
def execXdAddi (d a : BitVec 4) (i : BitVec 15) (s : State) : Out := onRun (xdAddi d a i) s
def execXdAdd (d a b : BitVec 4) (s : State) : Out := onRun (xdAdd d a b) s
def execXdSub (d a b : BitVec 4) (s : State) : Out := onRun (xdSub d a b) s
def execXdAnd (d a b : BitVec 4) (s : State) : Out := onRun (xdAnd d a b) s
def execXdOr (d a b : BitVec 4) (s : State) : Out := onRun (xdOr d a b) s
def execXdXor (d a b : BitVec 4) (s : State) : Out := onRun (xdXor d a b) s
def execXdShl (d a b : BitVec 4) (s : State) : Out := onRun (xdShl d a b) s
def execXdShr (d a b : BitVec 4) (s : State) : Out := onRun (xdShr d a b) s
def execXdTbl (d a : BitVec 4) (s : State) : Out := onRun (xdTbl d a) s
def execXdBeq (a b : BitVec 4) (i : BitVec 15) (s : State) : Out := onRun (xdBeq a b i) s
def execXdBne (a b : BitVec 4) (i : BitVec 15) (s : State) : Out := onRun (xdBne a b i) s
def execXdBltn (a b : BitVec 4) (i : BitVec 15) (s : State) : Out := onRun (xdBltn a b i) s
def execXdBeof (i : BitVec 15) (s : State) : Out := onRun (xdBeof i) s
def execXdJmp (i : BitVec 15) (s : State) : Out := onRun (xdJmp i) s
def execXdLen (d : BitVec 4) (s : State) : Out := onRun (xdLen d) s
def execXdOpos (d : BitVec 4) (s : State) : Out := onRun (xdOpos d) s
def execXdHalt (s : State) : Out := onRun xdHalt s
def execXdFail (i : BitVec 15) (s : State) : Out := onRun (xdFail i) s

/-- R263: a run starts on the block that holds a line: on its plain bytes as the slice has them, or on its stored payload. -/
def State.startRun (line : Nat) (encode : Bool) (s : State) : State :=
  match s.blockAt (line * 256) with
  | none => s
  | some (b, v, start) =>
    if encode then
      let s1 := (blockLines start v.size).foldl (fun s n => s.fetchLine n 15) s
      let plain := (blockLines start v.size).flatMap (fun n => Memory.read (s1.sliceLine n).cells (n * 256) 256)
      { s1 with xd := some (XdRun.start true v.size plain (s1.imageWords v.enc)) }
    else match b.code? start with
      | none => s
      | some _ =>
        let len := bytesNat (Memory.read s.dram start 2) % 1024
        { s with xd := some (XdRun.start false v.size (Memory.read s.dram (start + 2) len) (s.imageWords v.dec)) }

def execTransducerRun (line : Nat) (encode : Bool) (s : State) : Out := stepOf (State.startRun line encode) s

/-- R264: a run whose next instruction would take STEPS above the budget ends with BUDGET. -/
def State.budgetCheck (s : State) : State :=
  match s.xd with
  | none => s
  | some r => if r.step.ended = some (.fault XdFault.budget.code 0) then { s with xd := some r.step } else s

def execBudget (s : State) : Out := stepOf State.budgetCheck s

/-! ## Handles and regions -/

def State.ownsImage (vd h : Nat) (s : State) : Bool := s.images.any (fun i => i.handle == h && i.owner == vd)

/-- R274: a handle that a binding or a conversion uses; a region in raw mode uses none. -/
def Binding.uses (h : Nat) (b : Binding) : Bool :=
  (!b.rawmode && (b.enc == h || b.dec == h)) || (b.conv && !b.raw2 && (b.enc2 == h || b.dec2 == h))

/-- R276: whether an operation in flight converts a region. -/
def State.converting (region : Nat) (s : State) : Bool :=
  s.copies.any (fun c => decide (c.kind = .gconv) && c.origin.contains (region : Int))

/-- R273: the control word of the range members. -/
structure GraftWord where
  nreg : Nat
  rawt : Bool
  blk  : Bool
  dec  : Nat
  enc  : Nat
  deriving DecidableEq, Repr

def GraftWord.of (x : W64) : GraftWord :=
  { nreg := slice x 47 32, rawt := bit x 17, blk := bit x 16, dec := slice x 13 8, enc := slice x 5 0 }

/-- The three range members. -/
inductive RangeOp where
  | bind | unbind | conv
  deriving DecidableEq, Repr

/-- R273: a nonzero zero-field of the control word. -/
def graftWordBad (op : RangeOp) (x : W64) : Bool :=
  decide (slice x 63 48 ≠ 0) || decide (slice x 31 18 ≠ 0) || decide (slice x 15 14 ≠ 0) || decide (slice x 7 6 ≠ 0)
    || (match op with
        | .bind => bit x 17
        | .unbind => decide (slice x 17 0 ≠ 0)
        | .conv => bit x 17 && decide (slice x 13 8 ≠ 0 ∨ slice x 5 0 ≠ 0))

/-- What the translation of a range says of one region: its number, whether its pages are smaller than 64 KiB. -/
structure RegionRef where
  va     : W64
  region : Nat
  small  : Bool
  deriving DecidableEq, Repr

/-- R273: the refusal codes that one region meets; one that another virtual device has bound meets code 4 only. -/
def State.regionCodes (op : RangeOp) (vd : Nat) (r : RegionRef) (s : State) : List Nat :=
  let b := s.bindings.find? (fun b => b.region == r.region)
  let pa := r.region * 65536
  match b with
  | some k =>
    if k.owner ≠ vd then [4]
    else (if r.small then [1] else []) ++ (if op = .bind then [2] else [])
      ++ (if op = .unbind ∧ k.encoded ≠ [] then [6] else [])
      ++ (if (op = .conv ∧ s.converting r.region) ∨ (op ≠ .conv ∧ k.conv) then [7] else [])
      ++ (if isDram pa ∧ s.backed pa ∧ s.backed (pa + 65535) then [] else [8])
  | none =>
    (if r.small then [1] else []) ++ (if op = .bind then [] else [3])
      ++ (if isDram pa ∧ s.backed pa ∧ s.backed (pa + 65535) then [] else [8])

/-- R273: the lowest refusal code of a range; 0 for none, and for an empty range (R275). -/
def State.refusal (op : RangeOp) (vd : Nat) (w : GraftWord) (rs : List RegionRef) (s : State) : Nat :=
  let handles := if op = .unbind ∨ w.rawt ∨ rs = [] ∨ (s.ownsImage vd w.enc ∧ s.ownsImage vd w.dec) then [] else [5]
  match rs.flatMap (fun r => s.regionCodes op vd r) ++ handles with
  | [] => 0
  | k :: l => l.foldl Nat.min k

/-! ## Translations (R273) -/

/-- The pages of a range: a unit every 4 KiB. -/
def rangeAccess (va : W64) (n : Nat) : Access :=
  { units := (List.range (16 * n)).map (fun k => (k, va + BitVec.ofNat 64 (4096 * k))), size := 1, acc := .range, scalar := true }

/-- Translates a range; a wait and a trap as R273 says, else its regions, as its pages were translated. -/
def withRange (va : W64) (n : Nat) (k : List RegionRef → State → Result) (s : State) : Result :=
  let a := rangeAccess va n
  let (m, s1) := s.resolve a
  if m.waiting ≠ [] then .stall 5 s1
  else if m.failed ≠ [] then a.finish m.failed s1
  else
    k ((List.range n).map (fun i =>
      { va := va + BitVec.ofNat 64 (65536 * i),
        region := ((m.ok.find? (fun u => u.unit == 16 * i)).map (fun u => u.pa / 65536)).getD 0,
        small := m.ok.any (fun u => decide (u.unit / 16 = i ∧ u.page < 65536)) })) s1

/-- Translates single bytes for reading. -/
def withReads (vas : List W64) (k : List UnitPa → State → Result) (s : State) : Result :=
  let a : Access := { units := vas.zipIdx.map (fun u => (u.2, u.1)), size := 1, acc := .read, scalar := true }
  let (m, s1) := s.resolve a
  if m.waiting ≠ [] then .stall 5 s1
  else if m.failed ≠ [] then a.finish m.failed s1
  else k ((List.range vas.length).filterMap (fun i => m.ok.find? (fun u => u.unit == i))) s1

/-! ## gload (R274) -/

/-- The bytes of an image in pieces of 256, read at their homes like a copy (14 R252); the pieces that are marked, and those that
are poisoned. -/
def State.imageBytes (us : List UnitPa) (s : State) : List Byte × List Nat × List Nat × State :=
  us.foldl (fun (acc : List Byte × List Nat × List Nat × State) u =>
    let (bs, marks, pois, s) := acc
    if u.raw then
      let s1 := s.rawReady [u]
      (bs ++ (List.range 256).map (fun k => s1.rawByte (u.pa + k)), marks,
        if (List.range 4).any (fun k => s1.poison.contains (u.pa / 64 + k)) then pois ++ [u.unit] else pois,
        { s1 with free := s1.free + 1 })
    else
      let (b, mark, poi, s1) := (s.crossLinks s.blk.core false ((List.range 4).map (fun k => u.pa + 64 * k))).homeReadBytes u.pa 256
      (bs ++ b, if mark then marks ++ [u.unit] else marks, if poi then pois ++ [u.unit] else pois, s1)) ([], [], [], s)

def bytesWords : Nat → List Byte → List W32
  | 0, _ => []
  | n + 1, bs => BitVec.ofNat 32 (bytesNat (bs.take 4)) :: bytesWords n (bs.drop 4)

/-- R274: the image takes a free slot (which one is free, log entry 3); a load that fails names a handle that is free (entry 7).
A load at the quota with no slot left gives 1: the model's choice (log entry 69). -/
def State.placeImage (d : BitVec 6) (words : List W32) (s : State) : State :=
  let vd := s.blk.vd
  let quota := ((s.vd? vd).map (·.gquota)).getD 64
  let free := (List.range 64).filter (fun h => s.images.all (fun i => i.handle != h))
  let (k, s1) := s.draw
  let status := if quota ≤ (s.images.filter (fun i => i.owner == vd)).length then 1 else if free = [] then 2 else 0
  if status = 0 then
    let h := free[Config.agentChoice k % free.length]?.getD 0
    ({ s1 with images := s1.images ++ [{ handle := h, owner := vd, words := words }] : State }).setS d (BitVec.ofNat 64 h)
  else s1.setS d (BitVec.ofNat 64 (status * 256 + (Config.anyByte k).toNat % 64))

/-- R274: unloads a handle; another device's handle that a binding uses gives 4, the model's choice (log entry 69). -/
def State.dropImage (d : BitVec 6) (h : Nat) (s : State) : State :=
  let status := if ¬ s.ownsImage s.blk.vd h then 4 else if s.bindings.any (Binding.uses h) then 3 else 0
  (if status = 0 then { s with images := s.images.filter (fun i => i.handle != h) } else s).setS d (BitVec.ofNat 64 (h + status * 256))

def graftForm (word : W32) (d a b : BitVec 6) : Form := { word := word, use := { sr := [a, b], sw := [d] } }

/-- R274: gload.  An image in a DECODE-marked sector traps DECODE with the first such piece of 256 bytes: the model's choice (log entry
70). -/
def execGload (d a b : BitVec 6) (s : State) : Out :=
  issue (graftForm (assemble 0xE8000000 [(d.toNat, 16), (a.toNat, 10), (b.toNat, 4)]) d a b) (fun s =>
    let va := s.sreg a
    if va = 0 then .done (s.dropImage d (slice (s.sreg b) 5 0))
    else if va.toNat % 256 ≠ 0 then .trap (s.trapAll .misaligned 0 va) s
    else withReads ((List.range 8).map (fun k => va + BitVec.ofNat 64 (256 * k))) (fun us s =>
      if s.heldBack s.blk.core (us.map (·.pa)) then .stall 4 s else
      let (bs, marks, pois, s1) := s.imageBytes us
      let at_ (k : Nat) : W64 := va + BitVec.ofNat 64 (256 * k)
      match pois, marks with
      | k :: _, _ => .ended (s1.halt (s1.trapAll .poison 0 (at_ k)))
      | [], k :: _ => .trap (s1.trapAll .decode 0 (at_ k)) s1
      | [], [] => .done (s1.placeImage d (bytesWords 512 bs))) s) s

/-! ## gbind, gunbind (R275) -/

/-- The checks that the range members share: ILLEGAL, MISALIGNED, the translations. -/
def rangeMember (word : W32) (op : RangeOp) (a b : BitVec 6) (k : List RegionRef → State → Result) (s : State) : Result :=
  let va := s.sreg a
  if graftWordBad op (s.sreg b) then .trap (s.trapAll .illegal (word.setWidth 64) 0) s
  else if va.toNat % 65536 ≠ 0 then .trap (s.trapAll .misaligned 0 va) s
  else withRange va (GraftWord.of (s.sreg b)).nreg k s

/-- A fresh binding: every block raw. -/
def newBinding (vd : Nat) (w : GraftWord) (r : RegionRef) : Binding :=
  { region := r.region, rawmode := false, blk1k := w.blk, enc := w.enc, dec := w.dec, owner := vd, encoded := [], conv := false,
    next := 0, enc2 := 0, dec2 := 0, blk2 := false, raw2 := false, va := r.va, fallbacks := 0, fetchFaults := 0, lastCode := 0,
    lastPhase := 0 }

def execGbind (d a b : BitVec 6) (s : State) : Out :=
  issue (graftForm (assemble 0xE8400000 [(d.toNat, 16), (a.toNat, 10), (b.toNat, 4)]) d a b) (fun s =>
    let w := GraftWord.of (s.sreg b)
    rangeMember (assemble 0xE8400000 [(d.toNat, 16), (a.toNat, 10), (b.toNat, 4)]) .bind a b (fun rs s =>
      let code := s.refusal .bind s.blk.vd w rs
      let s1 := if code ≠ 0 then s else rs.foldl (fun s r =>
        { s with bindings := s.bindings.filter (fun k => k.region != r.region) ++ [newBinding s.blk.vd w r] }) s
      .done (s1.setS d (BitVec.ofNat 64 code))) s) s

def execGunbind (d a b : BitVec 6) (s : State) : Out :=
  issue (graftForm (assemble 0xE8800000 [(d.toNat, 16), (a.toNat, 10), (b.toNat, 4)]) d a b) (fun s =>
    let w := GraftWord.of (s.sreg b)
    rangeMember (assemble 0xE8800000 [(d.toNat, 16), (a.toNat, 10), (b.toNat, 4)]) .unbind a b (fun rs s =>
      let code := s.refusal .unbind s.blk.vd w rs
      let s1 := if code ≠ 0 then s
        else { s with bindings := s.bindings.filter (fun k => rs.all (fun r => k.region != r.region)) }
      .done (s1.setS d (BitVec.ofNat 64 code))) s) s

/-! ## gconv (R276) -/

/-- What a conversion sets in a region's entry; a conversion that a reset has left there is completed first (R271). -/
def Binding.startConv (w : GraftWord) (b : Binding) : Binding :=
  if b.conv then b else { b with conv := true, next := 0, enc2 := w.enc, dec2 := w.dec, blk2 := w.blk, raw2 := w.rawt }

/-- At the end of a region the target replaces the pair. -/
def Binding.endConv (b : Binding) : Binding :=
  { b with enc := b.enc2, dec := b.dec2, blk1k := b.blk2, rawmode := b.raw2, conv := false }

/-- Whether a region stands under the target. -/
def Binding.meets (w : GraftWord) (b : Binding) : Bool :=
  decide (b.enc = w.enc ∧ b.dec = w.dec ∧ b.blk1k = w.blk ∧ b.rawmode = w.rawt)

/-- The target view of a region's conversion. -/
def Binding.target (b : Binding) : GraftView := { enc := b.enc2, dec := b.dec2, size := b.size2, raw := b.raw2 }

/-- R276: the completion word: `rawn` blocks stored raw by fallback, `next` blocks rewritten. -/
def CopyOp.convWord (c : CopyOp) : W64 :=
  BitVec.ofNat 64 (2 ^ 63 + c.status % 128 * 2 ^ 56 + Nat.min c.rawn (2 ^ 24 - 1) * 2 ^ 32 + c.next % 2 ^ 32)

/-- The conversion has ended; while its block is evicted the word waits for RESTORING. -/
def State.finishConv (c : CopyOp) (s : State) : State :=
  match s.block? c.block with
  | none => { s with copies := s.copies.filter (fun k => k.id != c.id) }
  | some b =>
    if b.phase = .running ∨ b.phase = .stopping ∨ b.phase = .draining then
      let s1 := match c.cw with
        | some off => s.mapBlock c.block (Block.writeWindow off (natBytes 8 c.convWord.toNat))
        | none => s
      s1.endCopy c
    else s

/-- One unit of a region: a target block, or the four that an old 1 KiB block gives.  Everything is fetched under the old pair
first, so that each block changes pair in one step (R271). -/
def State.convertUnit (c : CopyOp) (b : Binding) (s : State) : State :=
  let v := b.target
  let unit := Nat.max v.size (if b.blk1k then 1024 else 256)
  let off := b.next * v.size
  let start := b.region * 65536 + off
  let s1 := (blockLines start unit).foldl (fun s n => s.fetchLine n 15) s
  let blocks := (List.range (unit / v.size)).map (fun k => start + k * v.size)
  let marked (p : Nat) : Bool := (blockLines p v.size).any (fun n => let l := s1.sliceLine n; decide (l.marks ≠ 0 ∨ l.poison ≠ 0))
  let (s2, raws) := blocks.foldl (fun (acc : State × Nat) p =>
    let (s', fell) := acc.1.writeBackBlock b v p
    (s', if fell then acc.2 + 1 else acc.2)) (s1, 0)
  let s3 := { s2 with bindings := updIf (fun k => k.region == b.region) (fun k => { k with next := k.next + unit / v.size }) s2.bindings }
  let base := c.lay.base + BitVec.ofNat 64 ((c.lay.ndim - c.origin.length) * 65536)
  s3.mapCopy c.id (fun c =>
    { c with next := c.next + blocks.length, rawn := c.rawn + raws,
             status := if blocks.any marked then 4 else c.status,
             taddr := if c.status = 4 then c.taddr else match blocks.find? marked with
               | some p => base + BitVec.ofNat 64 (p - b.region * 65536)
               | none => c.taddr })

/-- The turn of a conversion: one unit of its first region, the end of that region, or its own end. -/
def State.convTurn (op : Nat) (s : State) : State :=
  match s.copy? op with
  | none => s
  | some c =>
    if c.kind ≠ .gconv ∨ c.finished then s
    else match c.origin with
      | [] => s.finishConv c
      | r :: rest =>
        let w := GraftWord.of c.desc
        let upd (f : Binding → Binding) (s : State) : State :=
          { s with bindings := updIf (fun k => (k.region : Int) == r) f s.bindings }
        let s1 := match s.bindings.find? (fun k => (k.region : Int) == r) with
          | none => s.mapCopy op (fun c => { c with origin := rest })
          | some b =>
            if b.conv then (if 65536 ≤ b.next * b.size2 then upd Binding.endConv s else s.convertUnit c b)
            else if b.meets w then s.mapCopy op (fun c => { c with origin := rest })
            else upd (Binding.startConv w) s
        s1.dueOnce acTicks (.gconvBlock op)

/-- The event: a conversion that has done its regions completes, in a cluster that drains once the drain is over (11 R210). -/
def State.convEvent (op : Nat) (s : State) : State :=
  match s.copy? op with
  | some c => if c.origin = [] then s.buffered c.core (.gconvBlock op) (State.convTurn op) else s.convTurn op
  | none => s

def execGconvBlock (op : Nat) (s : State) : Out := stepOf (State.convEvent op) s

/-- R276: the conversion is forked as an operation of the copy engine; `desc` is its control word, `origin` the regions still to
convert, `lay.base` and `lay.ndim` the range.  Its join is that of its completion word's block (log entry 24). -/
def State.forkConv (va x : W64) (status : Nat) (rs : List RegionRef) (cw : Option Nat) (s : State) : State :=
  let (op, s1) := s.fresh
  let c := { s.newCopy .gconv { Layout.empty with base := va, ndim := rs.length }
               (if status = 0 then rs.map (fun r => (r.region : Int)) else []) (.window 0) 0 cw [] with
             id := op, desc := x, status := status, bar := none, gen := none }
  let s2 := if status ≠ 0 then s1 else
    { s1 with bindings := updIf (fun k => rs.any (fun r => r.region == k.region)) (Binding.startConv (GraftWord.of x)) s1.bindings }
  let s3 := { s2 with copies := s2.copies ++ [c] : State }.mapMe (fun t => { t with cp := t.cp.fork op 1 })
  if status = 0 then s3.due 0 (.gconvBlock op) else s3.finishConv c

def execGconv (q a b : BitVec 6) (s : State) : Out :=
  issue { word := (assemble 0xE8C00000 [(q.toNat, 16), (a.toNat, 10), (b.toNat, 4)]), use := { sr := [a, b, q] } } (fun s =>
    let x := s.sreg b
    if ¬ s.copyRoom then .stall 10 s
    else if ¬ s.canPublish 1 then .stall 4 s
    else rangeMember (assemble 0xE8C00000 [(q.toNat, 16), (a.toNat, 10), (b.toNat, 4)]) .conv a b (fun rs s =>
      withWord (s.sreg q) (fun cw s =>
        let code := s.refusal .conv s.blk.vd (GraftWord.of x) rs
        .done (s.forkConv (s.sreg a) x (if code = 0 then 0 else 8 + code) rs cw)) s) s) s

/-! ## gstat (R277) -/

/-- Selector 0. -/
def Binding.regionWord (b : Binding) : W64 :=
  let f (c : Bool) (k : Nat) : Nat := if c then 2 ^ k else 0
  BitVec.ofNat 64 (2 ^ 63 + f b.conv 62 + f (decide (b.encoded = [])) 61 + f b.blk1k 60 + f b.rawmode 59 + b.enc % 64 * 2 ^ 48
    + b.dec % 64 * 2 ^ 40 + b.owner % 64 * 2 ^ 32 + b.next % 512 * 2 ^ 16 + b.encoded.length % 512)

/-- Selector 1: the block's code, its marks and lines in the slice, the length in its stored header. -/
def State.blockWord (s : State) (b : Binding) (v : GraftView) (start : Nat) : W64 :=
  let raw := (b.code? start).isNone
  let lines := blockLines start v.size
  BitVec.ofNat 64 ((b.code? start).getD (v.size / 64 - 1) + (if raw then 16 else 0)
    + (if lines.any (fun n => decide ((s.sliceLine n).marks ≠ 0)) then 32 else 0)
    + (if lines.any (fun n => decide ((s.sliceLine n).valid ≠ 0)) then 64 else 0)
    + (if raw then 0 else bytesNat (Memory.read s.dram start 2) % 1024 * 2 ^ 16))

/-- Selector 2. -/
def Binding.eventWord (b : Binding) : W64 :=
  BitVec.ofNat 64 (b.fallbacks % 2 ^ 32 + b.fetchFaults % 2 ^ 16 * 2 ^ 32 + b.lastCode % 256 * 2 ^ 48 + b.lastPhase % 4 * 2 ^ 56)

/-- Selector 3. -/
def State.quotaWord (vd : Nat) (s : State) : W64 :=
  BitVec.ofNat 64 ((s.images.filter (fun i => i.owner == vd)).length % 64 + ((s.vd? vd).map (·.gquota)).getD 64 % 64 * 2 ^ 8)

/-- R277: what a selector reports of an address; 0 for a region that is not bound, or by another virtual device. -/
def State.graftStat (sel pa : Nat) (s : State) : W64 :=
  if sel = 3 then s.quotaWord s.blk.vd
  else match s.blockAt pa with
    | none => 0
    | some (b, v, start) =>
      if b.owner ≠ s.blk.vd then 0
      else if sel = 0 then b.regionWord
      else if sel = 1 then s.blockWord b v start
      else b.eventWord

def execGstat (d a b : BitVec 6) (s : State) : Out :=
  issue (graftForm (assemble 0xE9000000 [(d.toNat, 16), (a.toNat, 10), (b.toNat, 4)]) d a b) (fun s =>
    let x := s.sreg b
    if slice x 63 2 ≠ 0 then .trap (s.trapAll .illegal (BitVec.setWidth 64 ((assemble 0xE9000000 [(d.toNat, 16), (a.toNat, 10), (b.toNat, 4)]) : W32)) 0) s
    else withReads [s.sreg a] (fun us s =>
      .done (s.setS d (s.graftStat (slice x 1 0) ((us.map (·.pa)).headD 0)))) s) s

end Sys2Proof.Machine
end

