-- ==== Sys2Proof/Machine/Privileged.lean ====
section
/-!
DEFINITION. Sys2Proof/Machine/Privileged.lean: the privileged instructions (19 R325 to R328), held fault records (19 R329), samples and
counter snapshots (21 R341 to R345).
-/

namespace Sys2Proof.Machine

/-! ## tlbinv (R326) -/

/-- Whether a cache at a node of the tree lies within a scope (1 core, 2 cluster, 3 die, 4 package) of a core. -/
def cacheWithin (scope here : Nat) (n : TreeNode) : Bool :=
  match n with
  | .core c => (if scope = 1 then decide (c = here) else if scope = 2 then decide (coreCluster c = coreCluster here)
      else if scope = 3 then decide (coreDie c = coreDie here) else true)
  | .cluster k => decide (scope = 2 ∧ k = coreCluster here) || decide (scope = 3 ∧ k / 16 = coreDie here) || decide (scope = 4)
  | .die d => decide (scope = 3 ∧ d = coreDie here) || decide (scope = 4)
  | _ => decide (scope = 4)

/-- What an invalidation names: a virtual device, a scope around a core, a range of input addresses of a stage, or all. -/
structure Drop where
  scope  : Nat
  here   : Nat
  vd     : Nat
  all    : Bool
  stage2 : Bool
  first  : Nat
  bytes  : Nat
  deriving DecidableEq, Repr

def Drop.meets (d : Drop) (first size : Nat) : Bool := decide (first < d.first + d.bytes ∧ d.first < first + size)

/-- A complete translation that goes: STAGE 1 takes every one of the virtual device (log entry 25). -/
def Drop.takesEntry (d : Drop) (e : TlbEntry) : Bool :=
  decide (e.vd = d.vd) && cacheWithin d.scope d.here e.place && (d.all || d.stage2 || d.meets e.va e.size)

def Drop.takesWalk (d : Drop) (e : WalkEntry) : Bool :=
  decide (e.vd = d.vd) && cacheWithin d.scope d.here (.die e.die)
    && (d.all || (decide (e.stage2 = d.stage2) && d.meets e.first e.size))

/-- Whether a strand belongs to the virtual device and to a core within the scope. -/
def Drop.strand (d : Drop) (s : State) (t : Strand) : Bool :=
  match s.block? t.block with
  | some b => decide (b.vd = d.vd) && cacheWithin d.scope d.here (.core b.core)
  | none => false

/-- The entries go, in the package or in a part of it. -/
def State.dropTranslations (d : Drop) (s : State) : State :=
  { s with tlb := s.tlb.filter (fun e => !d.takesEntry e), walks := s.walks.filter (fun e => !d.takesWalk e) }

/-- Whether an access that an old entry may have translated is still to be performed. -/
def State.dropPending (d : Drop) (s : State) : Bool :=
  s.allStrands.any (fun t => d.strand s t && ((match t.flight with
      | some (.load ..) => true
      | some (.atomic ..) => true
      | _ => false) || (s.core :: s.cores).any (fun c => c.nt.any (fun e => e.strand == t.id))))

/-- 14 R246: a store under an old entry that stands dirty in an L1 within the scope is performed: it goes home. -/
def State.publishWithin (d : Drop) (s : State) : State :=
  (((s.core :: s.cores).map Core.id).filter (fun c => cacheWithin d.scope d.here (.core c))).foldl (fun s c => s.l1Publish c) s

/-- R326: the control word. -/
def tlbinvBad (priv : Nat) (x : W64) : Bool :=
  decide (slice x 63 48 ≠ 0) || decide (slice x 15 14 ≠ 0) || decide (slice x 7 2 ≠ 0) || (bit x 0 && decide (priv < 2))

def Drop.of (scope here : Nat) (a x : W64) : Drop :=
  { scope := scope, here := here, vd := slice x 13 8, all := bit x 1, stage2 := bit x 0, first := a.toNat / 4096 * 4096,
    bytes := a.toNat % 4096 + 4096 * (slice x 47 16 + 1) }

def invalidate (word : W32) (scope : Nat) (a b : BitVec 6) (s : State) : Result :=
  let x := s.sreg b
  let d := Drop.of scope s.blk.core (s.sreg a) x
  if tlbinvBad s.me.priv x then .trap (s.trapAll .illegal (word.setWidth 64) 0) s
  else if s.me.priv < 2 ∧ d.vd ≠ s.blk.vd then .trap (s.trapAll .permission 0 (s.sreg a)) s
  else if ¬ s.canPublish 4 then .stall 10 s
  else
    let s1 := ((s.publish 4).publishWithin d).dropTranslations d
    let s2 := s1.mapStrands (fun t => d.strand s1 t && decide (t.id ≠ s.me.id)) (fun t => { t with memWait := t.memWait.map MemWait.again })
    if s2.dropPending d then .stall 10 s2 else .done s2

def execTlbinv (s1 : BitVec 3) (a b : BitVec 6) (s : State) : Out :=
  issue { word := (assemble 0xEC000000 [(s1.toNat, 19), (a.toNat, 10), (b.toNat, 4)]), ok := decide (1 ≤ s1.toNat ∧ s1.toNat ≤ 4), level := 1, use := { sr := [a, b] } }
    (invalidate (assemble 0xEC000000 [(s1.toNat, 19), (a.toNat, 10), (b.toNat, 4)]) s1.toNat a b) s

/-! ## evict, resume (R327) -/

/-- The block that S[sa] and S[sb] name, if there is one. -/
def State.namedBlock (s : State) (x y : W64) : Option Block :=
  match s.vd? (slice x 21 16) with
  | none => none
  | some v => match v.coreAt (slice x 13 0) with
    | none => none
    | some c => s.allBlocks.find? (fun b => decide (b.vd = v.num ∧ b.core = c ∧ b.index = slice y 4 0 ∧ b.phase ≠ .ended))

/-- The checks that both members share. -/
def onNamed (word : W32) (a b : BitVec 6) (k : Option Block → State → Result) (s : State) : Result :=
  let x := s.sreg a
  let y := s.sreg b
  if slice x 63 22 ≠ 0 ∨ slice x 15 14 ≠ 0 ∨ slice y 63 5 ≠ 0 then .trap (s.trapAll .illegal (word.setWidth 64) 0) s
  else if s.me.priv < 2 ∧ slice x 21 16 ≠ s.blk.vd then .trap (s.trapAll .permission 0 x) s
  else k (s.namedBlock x y) s

def privForm (word : W32) (a b : BitVec 6) : Form := { word := word, level := 1, use := { sr := [a, b] } }

/-- The block stays out of the scheduler's reach from now on; the member ends when it has reached EVICTED. -/
def execEvict (a b : BitVec 6) (s : State) : Out :=
  issue (privForm (assemble 0xEC400000 [(a.toNat, 10), (b.toNat, 4)]) a b) (onNamed (assemble 0xEC400000 [(a.toNat, 10), (b.toNat, 4)]) a b (fun k s =>
    match k with
    | none => .done s
    | some blk =>
      if blk.id = s.blk.id then .trap (s.trapAll .illegal (BitVec.setWidth 64 ((assemble 0xEC400000 [(a.toNat, 10), (b.toNat, 4)]) : W32)) 0) s
      else
        let s1 := s.mapBlock blk.id (fun b => { b with held := true })
        if blk.phase = .evicted then .done s1 else .stall 10 (s1.requestEviction blk.id))) s

def execResume (a b : BitVec 6) (s : State) : Out :=
  issue (privForm (assemble 0xEC800000 [(a.toNat, 10), (b.toNat, 4)]) a b) (onNamed (assemble 0xEC800000 [(a.toNat, 10), (b.toNat, 4)]) a b (fun k s =>
    match k with
    | none => .done s
    | some blk =>
      if blk.held ∧ blk.phase = .evicted then
        .done (((s.mapBlock blk.id (fun b => { b with held := false })).waitAgain blk.group).dueOnce 0 (.readyPoolSow blk.die))
      else .done s)) s

/-! ## pmcfg (R328, 21 R343) -/

/-- 21 R344: the event numbers. -/
def eventKnown (n : Nat) : Bool := decide (n ≤ 0x12 ∨ (0x20 ≤ n ∧ n ≤ 0x2F))

/-- 21 R343: a record count: 0, or a power of two from 128 to 2^24. -/
def ringSizeOk (n : Nat) : Bool := decide (n = 0) || (List.range 18).any (fun k => decide (n = 2 ^ (k + 7)))

/-- 21 R339: a fresh control block at the ring's base; records start at 0. -/
def State.freshRing (vd : Nat) (event : Bool) (base : W64) (size : Nat) (s : State) : State :=
  let s1 := s.mapVd vd (VDev.setRing event { base := base, size := size, head := 0, drops := 0, half := false, dropping := false })
  match s1.deviceAddr vd .write base.toNat with
  | some pa => s1.homeWriteBytes pa (List.replicate 64 0)
  | none => s1

/-- A write of one item; a field that is out of range keeps its value (00 R7). -/
def State.setItem (vd item : Nat) (x : W64) (s : State) : State :=
  let onMeasure (f : Measure → Measure) (s : State) : State := s.mapVd vd (fun v => { v with measure := f v.measure })
  match s.vd? vd with
  | none => s
  | some v =>
    let m := v.measure
    if item < 0x20 then
      let ev := slice x 7 0
      let old := m.select[item]?.getD 0
      let u := if bit x 9 then 256 else 0
      onMeasure (fun m =>
        { m with select := ⟨m.select.toArray.set! item (BitVec.ofNat 9 (u + if eventKnown ev then ev else old.toNat % 256)), by simp⟩,
                 count := if eventKnown ev then ⟨m.count.toArray.set! item 0, by simp⟩ else m.count }) s
    else if item = 0x20 then
      let s1 := onMeasure (fun m => { m with enable := BitVec.ofNat 32 (slice x 31 0) }) s
      if bit x 63 then (onMeasure (fun m => { m with snapReq := true }) s1).due 0 (.counterSnapshot vd) else s1
    else if item = 0x21 then
      let j := if slice x 20 16 ≤ 24 then slice x 20 16 else m.snapj
      let k := if 6 ≤ slice x 12 8 ∧ slice x 12 8 ≤ 20 then slice x 12 8 else m.k
      let s1 := onMeasure (fun m => { m with snapj := j, k := k, een := bit x 1, sen := bit x 0 }) s
      let s2 := if j = m.snapj then s1
        else
          let s2 := s1.undue (.counterSnapshot vd)
          let s3 := if m.snapReq then s2.due 0 (.counterSnapshot vd) else s2
          if j = 0 then onMeasure (fun m => { m with snapAt := none }) s3
          else (onMeasure (fun m => { m with snapAt := some (s.now + 2 ^ j * 1000 * nsTicks) }) s3).due (2 ^ j * 1000 * nsTicks) (.counterSnapshot vd)
      (s2.allBlocks.map (·.core)).foldl (fun t core => t.resample (s.samplePeriod core) core) s2
    else
      let event := decide (item = 0x24 ∨ item = 0x25)
      let r := v.ring event
      if item = 0x22 ∨ item = 0x24 then
        if x.toNat % 4096 = 0 ∧ x.toNat < 2 ^ 56 then s.freshRing vd event x r.size else s
      else if ringSizeOk x.toNat then s.freshRing vd event r.base x.toNat else s

/-- R328: the word itself is counted before its change takes effect. -/
def execPmcfg (a b : BitVec 6) (s : State) : Out :=
  issue { privForm (assemble 0xECC00000 [(a.toNat, 10), (b.toNat, 4)]) a b with counted := true } (fun s =>
    let x := s.sreg a
    if slice x 63 8 ≠ 0 ∨ 0x26 ≤ slice x 7 0 then .trap (s.trapAll .illegal (BitVec.setWidth 64 ((assemble 0xECC00000 [(a.toNat, 10), (b.toNat, 4)]) : W32)) 0) s
    else .done ((s.countWord false).setItem s.blk.vd (slice x 7 0) (s.sreg b))) s

/-! ## Held fault records (R329) -/

/-- The oldest held record of a partition enters its queue when it fits whole. -/
def State.pushFaults (vd : Nat) (s : State) : State :=
  match s.vd? vd with
  | none => s
  | some v => match v.heldFaults with
    | [] => s
    | r :: rest =>
      if 256 < v.faultQ.length + r.length then s
      else
        let s1 := s.mapVd vd (fun v => { v with faultQ := v.faultQ ++ r, heldFaults := rest })
        if rest = [] then s1 else s1.dueOnce 0 (.faultRecordPush vd)

def execFaultRecordPush (vd : Nat) (s : State) : Out := stepOf (State.pushFaults vd) s

/-! ## Samples (21 R341, R342) -/

/-- Whether a strand can be sampled. -/
def State.sampleable (s : State) (core : Nat) (t : Strand) : Bool :=
  match s.block? t.block with
  | some b => decide (b.core = core ∧ b.phase ≠ .evicted ∧ b.phase ≠ .ended) && b.sampleOn && decide (t.run = .running)
      && ((s.vd? b.vd).map (·.measure.sen)).getD false
  | none => false

/-- The next occupied slot after one, wrapping at 31. -/
def nextSlot (after : Nat) (ts : List Strand) : Option Strand :=
  (List.range 32).findSome? (fun k => ts.find? (fun t => t.slot == (after + 1 + k) % 32))

def State.sampleBytes (s : State) (b : Block) (t : Strand) : List Byte :=
  natBytes 8 s.timeNs.toNat ++ natBytes 8 (if s.sampleReason b t = 0 then t.issuedPc else t.pc).toNat ++ natBytes 8 t.wid.toNat ++ natBytes 2 (s.placeOf b.vd b.core).toNat
    ++ [BitVec.ofNat 8 (t.slot % 32), BitVec.ofNat 8 (b.index % 32),
        BitVec.ofNat 8 (s.sampleReason b t + if t.tmasked then 16 else 0), BitVec.ofNat 8 t.role, BitVec.ofNat 8 b.vd, 0]

/-- R341: a core takes a sample, when a strand is eligible; the next is due. -/
def State.takeSample (core : Nat) (s : State) : State :=
  let last := (s.coreOf core).lastSampled
  match nextSlot last (s.allStrands.filter (s.sampleable core)) with
  | none => s.sampleNext core
  | some t => match s.block? t.block with
    | none => s
    | some b =>
      ((s.ringWrite b.vd false (s.sampleBytes b t)).mapCoreOf core (fun c => { c with lastSampled := t.slot % 32 })).sampleNext core

def execSample (core : Nat) (s : State) : Out := stepOf (State.takeSample core) s

/-! ## Snapshots (21 R345) -/

/-- R345: 16 records, or none where the ring lacks 16 free slots. -/
def State.writeSnapshot (vd : Nat) (m : Measure) (s : State) : State :=
  if ¬ m.een ∨ m.event.size = 0 then s
  else match s.ringUsed vd m.event with
    | none => s.ringDrop vd true 16
    | some used =>
      if used ≤ m.event.size ∧ m.event.size < used + 16 then s.ringDrop vd true 16
      else (List.range 16).foldl (fun s i =>
        s.event vd 4 (2 * i) 0 0 (natBytes 8 (m.count[2 * i]?.getD 0).toNat ++ natBytes 8 (m.count[2 * i + 1]?.getD 0).toNat)) s

/-- R345: a snapshot that was requested, or a periodic one whose time has come and whose successor is due then. -/
def State.snapshot (vd : Nat) (s : State) : State :=
  match s.vd? vd with
  | none => s
  | some v =>
    let m := v.measure
    let put (f : Measure → Measure) (s : State) : State := s.mapVd vd (fun v => { v with measure := f v.measure })
    if m.snapReq then put (fun m => { m with snapReq := false }) (s.writeSnapshot vd m)
    else match m.snapAt with
      | some t =>
        if s.now < t then s
        else (put (fun m => { m with snapAt := some (s.now + 2 ^ m.snapj * 1000 * nsTicks) }) (s.writeSnapshot vd m)).due
          (2 ^ m.snapj * 1000 * nsTicks) (.counterSnapshot vd)
      | none => s

def execCounterSnapshot (vd : Nat) (s : State) : Out := stepOf (State.snapshot vd) s

end Sys2Proof.Machine
end

