-- ==== Sys2Proof/Machine/Cluster.lean ====
section
/-!
DEFINITION. Sys2Proof/Machine/Cluster.lean: the spare core (11 R199), the containment reset (11 R208, R209), drain and rebuild (11 R210,
R211).
-/

namespace Sys2Proof.Machine

/-- The logical cores of a cluster. -/
def clusterCores (cl : Nat) : List Nat := (List.range 8).map (fun k => cl * 8 + k)

/-- Every pending byte of a core leaves for its home. -/
def State.flushCore (core : Nat) (s : State) : State :=
  ((linesOf ((s.coreOf core).nt.map (fun e => (e.addr, e.byte)))).foldl (fun s line => s.performHomeWrite core line) s).l1Publish core

/-- A core whose L1 is empty; the generations of its trays, its place in the sampling order and its engine's turn stay. -/
def Core.emptied (c : Core) : Core :=
  { Core.init c.id with trayGens := c.trayGens, lastSampled := c.lastSampled, copyAt := c.copyAt, packets := c.packets }

/-! ## The spare core (R199) -/

/-- 19 R332: no spare is left: the cluster is withdrawn from every partition, and the operator hears of it. -/
def State.withdrawCluster (cl core : Nat) (s : State) : State :=
  let s0 := (s.mapCluster cl (fun c => { c with withdrawn := true })).offerCluster cl
  let s1 : State := { s0 with outbox := s0.outbox ++ [OutMsg.retired 0 (cl / 16) core] }
  (s1.residentOn cl).foldl (fun s b => s.dueOnce 0 (.evictionRequest b.id)) s1

/-- R199: the groups on the worn core are evicted; once they are, its dirty bytes go home, the map changes, and the groups may return.
No group is placed on the cluster meanwhile. -/
def State.swapSpare (cl k : Nat) (s : State) : State :=
  let core := cl * 8 + k % 8
  let c := s.clusterOf cl
  if c.spare.isSome then s.withdrawCluster cl core
  else if ¬ (c.state = .online ∨ c.state = .swapping ∨ c.state = .offline) then s.dueOnce acTicks (.spareSwap cl k)
  else
    let s1 := if c.state = .online then (s.mapCluster cl (fun c => { c with state := .swapping })).offerCluster cl else s
    match (s1.residentOn cl).filter (fun b => decide (b.core = core)) with
    | [] =>
      let s2 := (s1.flushCore core).mapCoreOf core Core.emptied
      ((s2.mapCluster cl (fun c =>
        { c with spare := some core, state := if c.state = .swapping then .online else c.state })).offerCluster cl).dueOnce 0 (.readyPoolSow (cl / 16))
    | bs => (bs.foldl (fun s b => s.dueOnce 0 (.evictionRequest b.id)) s1).dueOnce acTicks (.spareSwap cl k)

def execSpareSwap (cluster core : Nat) (s : State) : Out := stepOf (State.swapSpare cluster core) s

/-! ## The containment reset (R208, R209) -/

/-- Whether a node of the sow tree lies in a cluster. -/
def inCluster (cl : Nat) : TreeNode → Bool
  | .core c => decide (coreCluster c = cl)
  | .cluster k => decide (k = cl)
  | _ => false

/-- What an L1 held and had not sent is lost, or had been sent by a capacity eviction, as a free value says (log entries 3, 7). -/
def State.loseCore (core : Nat) (s : State) : State :=
  let early (lines : List Nat) (f : Nat → State → State) (s : State) : State :=
    lines.foldl (fun s line => let (k, s1) := s.draw; if Config.evictsEarly k then f line s1 else s1) s
  let s1 := early (linesOf ((s.coreOf core).nt.map (fun e => (e.addr, e.byte)))) (fun line s => s.performHomeWrite core line) s
  let s2 := early (linesOf (s1.coreOf core).dirty) (fun line s => s.l1WriteBack core (fun a => decide (a / 256 = line))) s1
  s2.mapCoreOf core Core.emptied

/-- R209, 00 R5: the global range that an abandoned copy was writing is undefined (log entry 7). -/
def State.scrambleRange (c : CopyOp) (s : State) : State :=
  let writes : Bool := match c.kind with
    | .cps => true
    | .cpx true => true
    | _ => false
  if ¬ writes then s
  else
    let pas := ((List.range c.lay.total).flatMap c.writeNeeds).filterMap (fun va =>
      match s.walk (.core c.core) false c.vd (decide (c.priv = 2)) .write va.toNat with
      | .ok e => if s.permits c.priv .write e va.toNat then some (e.addr va.toNat) else none
      | _ => none)
    let (k, s1) := s.draw
    pas.zipIdx.foldl (fun s p => s.homeWriteBytes p.1 [Config.anyByte (k * 2 ^ 40 + p.2)]) s1

/-- R208: the counts of a cluster in a bed are gone, the reports from it too; the die's node zeroes its copy. -/
def State.zeroCluster (cl : Nat) (s : State) (b : Bed) : State :=
  let s1 := s.mapBed b.number (fun b =>
    { b with copies := b.copies.filter (fun e => !inCluster cl e.1), reports := b.reports.filter (fun r => !inCluster cl r.node) })
  if inCluster cl b.root then s1 else s1.report (.die (cl / 16)) b.number

/-- R208: a sow on its way into the cluster bounces to the die's node; one of a bed whose root is the cluster's node, to that root. -/
def State.bounceOut (cl : Nat) (s : State) (o : SowOp) : State :=
  let here := ((s.bed? o.bed).map (fun b => inCluster cl b.root)).getD false
  ((s.count o.vd 0x0C 1 o.priv).mapSow o.id (fun o =>
    { o with bounces := o.bounces + 1, phase := .climbing,
             bounced := if here then (if o.node = .cluster cl then none else some o.node) else some (.cluster cl),
             node := if here then .cluster cl else .die (cl / 16) })).dueOnce (4 * ccTicks) (.sowAtNode (.sow o.id))

/-- R208: the cluster's counts and offers are gone, the sows toward it bounce; 12 R222: the sows queued in blocks that end are LOST. -/
def State.bounceCluster (cl : Nat) (ids : List Nat) (s : State) : State :=
  let s1 := s.beds.foldl (State.zeroCluster cl) s
  let s2 := (s1.sows.filter (fun o => decide (o.phase = .descending) && inCluster cl o.node)).foldl (State.bounceOut cl) s1
  let queued := ((s2.allBlocks.filter (fun b => ids.contains b.id)).flatMap (fun b => b.offers.flatMap (·.queue))).filterMap s2.sow?
  queued.foldl (fun s o => s.endSow o 3 none) s2

/-- The operations of some blocks are abandoned; a sow that has left the cluster goes on and nobody waits for it, and so does one that is parked,
or that a block which does not end has accepted. -/
def State.abandon (cl : Nat) (ids : List Nat) (s : State) : State :=
  let s1 := (s.copies.filter (fun c => ids.contains c.block)).foldl (fun s c => s.scrambleRange c) s
  let gone (o : SowOp) : Bool := ids.contains o.block &&
    (decide (o.phase = .held ∨ o.phase = .ended) || (decide (o.phase ≠ .queued ∧ o.phase ≠ .parked) && inCluster cl o.node))
  { s1 with
    copies := s1.copies.filter (fun c => !ids.contains c.block), mxops := s1.mxops.filter (fun m => !ids.contains m.block),
    beds := s1.beds.map (fun b => { b with frame := b.frame.filter (fun k => !((s1.sow? k).map gone).getD false) }),
    sows := (s1.sows.filter (fun o => !gone o)).map (fun o =>
      if ids.contains o.block then { o with block := 0, strand := 0, cw := none } else o) }

/-- R209: a block of the cluster ends, failed, with a record; it is relaunched where its launch says so. -/
def State.resetBlock (cl id : Nat) (s : State) : State :=
  match s.block? id with
  | none => s
  | some b =>
    let b1 := { b with failed := some (b.failed.getD .none), offers := [] }
    ((s.mapBlock id (fun _ => b1)).postFault b.vd [recordWord (s.placeOf b.vd (cl * 8)) b.index 0 0 0x82]).endBlock b1 true

/-- R208 at 0 cc. -/
def State.resetCluster (cl : Nat) (s : State) : State :=
  match (s.clusterOf cl).state with
  | .resetting _ => s
  | .offline => s
  | _ =>
    let groups := (s.residentOn cl).map (·.group)
    let ids := (s.residentOn cl).map (·.id)
    let s1 := (s.mapCluster cl (fun c => { c with state := .resetting s.now })).bounceCluster cl ids
    let s2 := (clusterCores cl).foldl (fun s c => s.loseCore c) (s1.abandon cl ids)
    let s3 := s2.mapStrands (fun t => ids.contains t.block) (fun t => { t.clearInstr with run := if t.over then t.run else .exited })
    let s4 := (groups.foldl (fun s g => s.waitAgain g) (ids.foldl (fun s id => s.resetBlock cl id) s3)).offerCluster cl
    let packets := ((clusterCores cl).flatMap (fun c => (s4.coreOf c).packets)).length
    let s5 := (List.range packets).foldl (fun s _ => s.due (256 * ccTicks) (.reassemblyTimeout cl 0)) s4
    s5.due (256 * ccTicks) (.containmentHandshake cl)

def execClusterReset (cluster : Nat) (s : State) : Out := stepOf (State.resetCluster cluster) s

/-- R208: the packet at a place in the cluster's buffers never existed. -/
def State.dropPacket (cl packet : Nat) (s : State) : State :=
  match (s.clusterOf cl).state with
  | .resetting _ =>
    ((clusterCores cl).foldl (fun (acc : Option Nat × State) c =>
      match acc.1 with
      | none => acc
      | some n =>
        let held := (acc.2.coreOf c).packets.length
        if n < held then (none, acc.2.mapCoreOf c (fun c => { c with packets := c.packets.eraseIdx n }))
        else (some (n - held), acc.2)) (some packet, s)).2
  | _ => s

def execReassemblyTimeout (cluster packet : Nat) (s : State) : Out := stepOf (State.dropPacket cluster packet) s

/-- R208: the handshake is done: the cluster is offline. -/
def State.handshake (cl : Nat) (s : State) : State :=
  match (s.clusterOf cl).state with
  | .resetting _ =>
    ((clusterCores cl).foldl (fun s c => s.mapCoreOf c (fun c => { c with packets := [] })) s).mapCluster cl (fun c => { c with state := .offline })
  | _ => s

def execContainmentHandshake (cluster : Nat) (s : State) : Out := stepOf (State.handshake cluster) s

/-- R208: the controller brings the cluster back: it can take groups again, and its cores report what they offer. -/
def State.bringBack (cl : Nat) (s : State) : State :=
  if (s.clusterOf cl).state ≠ .offline then s
  else
    let s1 := ((s.mapCluster cl (fun c => { c with state := .online })).finishSwitch cl).offerCluster cl
    let s2 := s1.beds.foldl (fun s b => (clusterCores cl).foldl (fun s c =>
      if s.readiness b (.core c) = 0 then s else s.report (.core c) b.number) s) s1
    s2.dueOnce 0 (.readyPoolSow (cl / 16))

def execClusterBackOnline (cluster : Nat) (s : State) : Out := stepOf (State.bringBack cluster) s

/-! ## Drain and rebuild (R210, R211) -/

/-- R210: issue stops, the barrier clocks stand still; what the strands are does not change (R211).  A second illegal state ends in the
containment reset.  A spare swap that is under way goes on afterwards. -/
def State.drainCluster (cl : Nat) (s : State) : State :=
  let begin (s : State) : State :=
    let s1 := ((s.mapCluster cl (fun c => { c with state := .draining s.now })).offerCluster cl).due (2048 * ccTicks) (.issueResume cl)
    (s1.residentOn cl).foldl (fun s b => s.holdClocks b.id) s1
  match (s.clusterOf cl).state with
  | .online => begin s
  | .swapping => begin s
  | .draining _ => s.dueOnce 0 (.clusterReset cl)
  | _ => s

def execDrainAndRebuild (cluster : Nat) (s : State) : Out := stepOf (State.drainCluster cluster) s

/-- R210 step 4: what an event of the buffer does. -/
def State.applyEvent (s : State) (ev : Instr) : State :=
  match ev with
  | .copyChunkLand op => s.copyTurn op
  | .copyComplete op => s.finishCopy op
  | .matrixSlotStream op => s.streamMx op
  | .matrixOpComplete op => s.finishMx op
  | .sowAtNode (.sow op) => s.sowTurn op
  | .gconvBlock op => s.convTurn op
  | _ => s

/-- R210 step 4: a core's events in the order in which they came. -/
def State.applyEvents (core : Nat) (s : State) : State :=
  (s.coreOf core).events.foldl State.applyEvent (s.mapCoreOf core (fun c => { c with events := [] }))

/-- R210 steps 4 and 5: the events are applied, issue resumes; the barrier clocks stood still; the drain counts as a corrected error. -/
def State.resumeIssue (cl : Nat) (s : State) : State :=
  match (s.clusterOf cl).state with
  | .draining _ =>
    let swap := s.agenda.any (fun d => match d.ev with
      | .spareSwap c _ => c == cl
      | _ => false)
    let s1 := ((s.mapCluster cl (fun c => { c with state := if swap then .swapping else .online })).countCorrected (cl / 16)).offerCluster cl
    let s2 := (clusterCores cl).foldl (fun s c => s.applyEvents c) s1
    ((s2.residentOn cl).foldl (fun s b => s.resumeClocks b.id) s2).dueOnce 0 (.readyPoolSow (cl / 16))
  | _ => s

def execIssueResume (cluster : Nat) (s : State) : Out := stepOf (State.resumeIssue cluster) s

end Sys2Proof.Machine
end

