-- ==== Sys2Proof/Machine/Die.lean ====
section
/-!
DEFINITION. Sys2Proof/Machine/Die.lean: the carve of near store, spare slices and channels, rows and the scrubber (13 R236, R240 to
R244), the links between dies (19 R308, R309), and a unit that has no spare left (19 R332).
-/

namespace Sys2Proof.Machine

/-! ## Drain points -/

/-- A drain point of a die: no block holds units of its cores (log entry 26). -/
def State.dieDrained (s : State) (die : Nat) : Bool :=
  s.allBlocks.all (fun b => decide (coreDie b.core ≠ die ∨ b.phase = .evicted ∨ b.phase = .ended))

/-- An action waits for the next drain point of a die. -/
def State.atDrain (die : Nat) (again : Instr) (f : State → State) (s : State) : State :=
  if s.dieDrained die then f s else s.dueOnce (1000 * nsTicks) again

/-! ## The carve (13 R236) -/

/-- A unit's map on a die. -/
def State.dieUnits (s : State) (die : Nat) : DieUnits := s.dies[die]?.getD .init

/-- The lines of a die that its slices hold. -/
def State.linesOn (s : State) (die : Nat) : List Nat := (s.slices.map (·.line)).filter (fun l => decide (homeDie (l * 256) = die))

/-- A line is written back and dropped. -/
def State.expelLine (line : Nat) (s : State) : State := (s.writeBack line).dropLine line

/-- The lines of a die that stand in the ways which a carve takes beyond another. -/
def State.linesTaken (s : State) (die old steps : Nat) : List Nat :=
  (s.slices.filter (fun l => decide (homeDie (l.line * 256) = die ∧ 16 + old ≤ l.way ∧ l.way < 16 + steps))).map (·.line)

/-- R236: the lines in the ways that a larger carve takes are written back and dropped; near store starts over at zero. -/
def State.setCarve (die steps : Nat) (s : State) : State :=
  let base := nearBase + die * 2 ^ 28
  let s1 := (s.linesTaken die (s.dieUnits die).carve steps).foldl (fun s l => s.expelLine l) s
  { s1 with dram := Memory.clear s1.dram base (2 ^ 28),
            poison := s1.poison.filter (fun k => decide (k * 64 < base ∨ base + 2 ^ 28 ≤ k * 64)) }.mapDie die (fun d => { d with carve := steps })

def execCarveChange (die steps : Nat) (s : State) : Out :=
  stepOf (fun s => if 32 < steps ∨ 3 < die then s else s.atDrain die (.carveChange die steps) (State.setCarve die steps)) s

/-! ## A virtual device stops (19 R312) -/

/-- The conversion of a bound region to raw, block by block (15 R260): everything is plain in the slice before the first block
changes its stored form. -/
def State.rawRegion (b : Binding) (s : State) : State :=
  let s1 := (blockLines (b.region * 65536) 65536).foldl (fun s n => s.fetchLine n 15) s
  let s2 : State := { s1 with bindings := updIf (fun k => k.region == b.region) (fun k => { k with conv := false, rawmode := true }) s1.bindings }
  (blockLines (b.region * 65536) 65536).foldl (fun s n =>
    (s.writeBackBlock b { enc := 0, dec := 0, size := 256, raw := true } (n * 256)).1) s2

/-- R312: disabling, in its six steps. -/
def State.disableVd (vd : Nat) (s : State) : State :=
  let s1 := s.mapVd vd (fun v => { v with enabled := false })
  let ids := (s1.allBlocks.filter (fun b => decide (b.vd = vd))).map (·.id)
  let ended (s : State) (id : Nat) : State :=
    match s.block? id with
    | none => s
    | some b =>
      let s1 := s.endOffers id
      let b1 := { b with failed := some (b.failed.getD .none), offers := [] }
      (s1.mapBlock id (fun _ => b1)).endBlock b1 false
  let s2 := ids.foldl ended ({ s1 with
    copies := s1.copies.filter (fun c => !ids.contains c.block), mxops := s1.mxops.filter (fun m => !ids.contains m.block),
    sows := ids.foldl (fun l id => orphanSows id l) s1.sows })
  let s3 := (s2.beds.filter (fun b => b.part == vd)).foldl (fun s b => s.deleteBed b) s2
  let mine := s3.bindings.filter (fun b => b.owner == vd)
  let s4 := mine.foldl (fun s b => s.rawRegion b) s3
  { s4 with bindings := s4.bindings.filter (fun b => b.owner != vd), images := s4.images.filter (fun i => i.owner != vd),
            tlb := s4.tlb.filter (fun e => e.vd != vd), walks := s4.walks.filter (fun e => e.vd != vd) }

/-- Whether stage 2 of a virtual device maps memory of a die. -/
def State.mapsDie (s : State) (die : Nat) (v : VDev) : Bool :=
  (List.range (v.ipalim.toNat / 4096)).any (fun p => match (s.walkStage2 4 v (4096 * p)).1 with
    | .leaf l => decide (homeDie (l.oa + 4096 * p % l.size) = die)
    | _ => false)

/-- 19 R332: a slice or channel without a spare: the devices whose memory lies on the die are disabled, and the operator hears of it. -/
def State.retireUnit (kind die unit : Nat) (s : State) : State :=
  let s1 := (((s.vds.filter (fun v => v.enabled && s.mapsDie die v)).map (·.num)).foldl (fun s n => s.disableVd n) s).mapDie die
    (fun d => { d with retired := d.retired ++ [(kind, unit)] })
  { s1 with outbox := s1.outbox ++ [OutMsg.retired kind die unit] }

/-! ## Slices, channels, rows (13 R240) -/

/-- The worn slice's lines are written back; its near store moves to the spare; the map names the spare. -/
def State.swapSlice (die unit : Nat) (s : State) : State :=
  if (s.dieUnits die).slice.isSome then s.retireUnit 1 die unit
  else (((s.linesOn die).filter (fun l => decide (sliceOf (l * 256) = unit))).foldl (fun s l => s.expelLine l) s).mapDie die
    (fun d => { d with slice := some unit })

def execSliceSwap (die unit : Nat) (s : State) : Out :=
  stepOf (fun s => s.atDrain die (.sliceSwap die unit) (State.swapSlice die unit)) s

/-- The copy of a worn channel begins; it takes about 7 ms, and writes go to both. -/
def State.swapChannel (die unit : Nat) (s : State) : State :=
  let d := s.dieUnits die
  if d.channel.isSome then s.retireUnit 2 die unit
  else if d.copying.isSome then s
  else (s.mapDie die (fun d => { d with copying := some unit })).due (7 * 1000000 * nsTicks) (.channelCopyEnd die)

def execChannelSwap (die unit : Nat) (s : State) : Out := stepOf (State.swapChannel die unit) s

/-- The copy has ended: the map names the spare from the next drain point on. -/
def State.endChannelCopy (die : Nat) (s : State) : State :=
  s.atDrain die (.channelCopyEnd die) (State.mapDie die (fun d => match d.copying with
    | some u => { d with channel := some u, copying := none }
    | none => d))

def execChannelCopyEnd (die : Nat) (s : State) : Out := stepOf (State.endChannelCopy die) s

/-- The row's contents are in the spare row; no address changes. -/
def State.repairRow (die row : Nat) (s : State) : State :=
  s.atDrain die (.rowRepair die row) (State.mapDie die (fun d =>
    { d with rows := setInsert d.rows row, rowErrors := d.rowErrors.filter (fun e => e.1 != row) }))

def execRowRepair (die row : Nat) (s : State) : Out := stepOf (State.repairRow die row) s

/-! ## The scrubber (13 R242 to R244) -/

/-- 24 hours. -/
def dayTicks : Nat := 86400 * 1000000000 * nsTicks

/-- A row that has two corrected errors within 24 hours is repaired. -/
def State.rowError (die row : Nat) (s : State) : State :=
  let recent := ((s.dieUnits die).rowErrors).any (fun e => decide (e.1 = row ∧ s.now < e.2 + dayTicks))
  let s1 := s.mapDie die (fun d => { d with rowErrors := d.rowErrors ++ [(row, s.now)] })
  if recent then s1.dueOnce 0 (.rowRepair die row) else s1

/-- The die that counts a corrected error. -/
def State.eccDie (s : State) (sector : Nat) : EccPlace → Nat
  | .l1 core => coreDie core
  | .window b => coreDie (((s.block? b).map (·.core)).getD 0)
  | .plane b _ => coreDie (((s.block? b).map (·.core)).getD 0)
  | .tile b _ => coreDie (((s.block? b).map (·.core)).getD 0)
  | .register t => coreDie ((((s.strand? t).bind (fun t => s.block? t.block)).map (·.core)).getD 0)
  | .translation => 0
  | _ => homeDie (sector * 64)

/-- R243: an uncorrectable error in a block's length code poisons the whole block, as it is stored and as slices hold it. -/
def State.poisonBlock (sector : Nat) (s : State) : State :=
  match s.blockAt (sector * 64) with
  | none => s
  | some (_, v, start) =>
    { s with poison := (List.range (v.size / 64)).foldl (fun l k => setInsert l (start / 64 + k)) s.poison,
             slices := s.slices.map (fun l => if (blockLines start v.size).contains l.line then { l with poison := l.valid } else l) }

/-- 19 R330: entry n of the translation caches, the walk caches' entries after the others, fails its check: it is dropped at its next use. -/
def State.spoilEntry (n : Nat) (s : State) : State :=
  { s with tlb := s.tlb.zipIdx.map (fun e => if e.2 = n then { e.1 with bad := true } else e.1),
           walks := s.walks.zipIdx.map (fun e => if e.2 + s.tlb.length = n then { e.1 with bad := true } else e.1) }

/-- The register that a number names: scalar registers from 0, vector registers from 64. -/
def regNumbered (n : Nat) : RegName := if n < 64 then .scalar n else .vector (n - 64)

/-- R243, 19 R330, 08 R172: what an uncorrectable error marks (log entry 54); one in both copies of a tag is fatal (cause 2, log entry 27). -/
def State.markError (n : Nat) (s : State) : EccPlace → State
  | .stored => { s with poison := setInsert s.poison n }
  | .cached => { s with slices := updIf (fun l => decide (l.line = n / 4)) (fun l => { l with poison := l.poison ||| (l.valid &&& (1#4 <<< (n % 4))) }) s.slices }
  | .tag => { s with control := { s.control with lostTags := setInsert s.control.lostTags (n / 4) } }.dueOnce 0 (.fatalError 2)
  | .code => s.poisonBlock n
  | .l1 core => s.mapCoreOf core (fun c =>
      if c.valid.contains n ∨ c.dirty.any (fun e => e.1 / 64 == n) then { c with corrupt := setInsert c.corrupt n } else c)
  | .window b => s.mapBlock b (fun b => if 8 * n < b.windowSize then { b with corrupt := setInsert b.corrupt n } else b)
  | .register t => s.mapStrand t (fun t =>
      if n = 0 ∨ 192 ≤ n ∨ t.corrupt.contains (regNumbered n) then t else { t with corrupt := t.corrupt ++ [regNumbered n] })
  | .plane b p => s.mapBlock b (fun b =>
      { b with planes := b.planes.zipIdx.map (fun q => if q.2 = p then { q.1 with corrupt := setInsert q.1.corrupt n } else q.1) })
  | .tile b t => s.mapBlock b (fun b =>
      { b with tiles := b.tiles.zipIdx.map (fun q => if q.2 = t then { q.1 with poison := setInsert q.1.poison n } else q.1) })
  | .translation => s.spoilEntry n

/-- What an ECC check finds: the scrubber's in a sector of DRAM or near store, or that of an access (19 R330). -/
def State.scrub (n : Nat) (found : EccFinding) (s : State) : State :=
  match found with
  | .clean => s
  | .corrected p =>
    let s1 := s.countCorrected (s.eccDie n p)
    if p = .stored ∧ isDram (n * 64) then s1.rowError (homeDie (n * 64)) (Config.rowOf n) else s1
  | .uncorrectable p => s.markError n p

def execPatrolScrub (sector : Nat) (found : EccFinding) (s : State) : Out := stepOf (State.scrub sector found) s

/-! ## Links between dies (19 R308, R309) -/

/-- The die that a link counts its retries on: the lower of its two. -/
def linkDie (link : Nat) : Nat := if link < 3 then 0 else if link < 5 then 1 else 2

/-- What a replay leaves: one that fails stands in the replay buffer still; one that succeeds has every flit acknowledged. -/
def Link.replayed (fails : Bool) (at_ : Nat) (l : Link) : Link :=
  let left (f : List Nat) : List Nat := if fails then f.map (fun _ => at_) else []
  { l with replays := l.replays + 1, fails := if fails then l.fails + 1 else 0, flitsUp := left l.flitsUp, flitsDown := left l.flitsDown }

/-- A replay from the first unacknowledged flit: the retry counts as a corrected error; one that fails, as a free value says (log entry 56), is
followed by another; after 8 in a row the link retrains and maps out a lane. -/
def State.replay (link : Nat) (s : State) : State :=
  if (s.links[link]?.map (fun l => l.retrain || l.lost)).getD true then s
  else
    let (k, s1) := s.draw
    let fails := Config.replayFails k
    let s2 := (s1.mapLink link (Link.replayed fails (s.now + 64 * ccTicks))).countCorrected (linkDie link)
    if ¬ fails then s2
    else if 8 ≤ ((s2.links[link]?.map (·.fails)).getD 0) then s2.dueOnce 0 (.linkRetrain link true)
    else s2.due (64 * ccTicks) (.linkReplay link)

def execLinkReplay (link : Nat) (s : State) : Out := stepOf (State.replay link) s

/-- A missing acknowledgement forces a replay as a CRC failure does. -/
def execLinkAckTimeout (link : Nat) (s : State) : Out := stepOf (State.replay link) s

/-- A lost link is fatal (cause 1, log entry 27). -/
def State.loseLink (link : Nat) (s : State) : State :=
  (s.mapLink link (fun l => { l with lost := true, retrain := false })).dueOnce 0 (.fatalError 1)

/-- Retraining holds the link's traffic; a failed lane, of the direction that a free value says (log entry 56), takes a spare of that direction;
without one the link is lost. -/
def State.retrain (link : Nat) (laneFailed : Bool) (s : State) : State :=
  let begin (f : Link → Link) (s : State) : State :=
    (s.mapLink link (fun l => { f l with retrain := true })).dueOnce (2000 * nsTicks) (.linkRetrainComplete link)
  if ¬ laneFailed then begin id s
  else
    let (k, s1) := s.draw
    let up := decide (Config.agentChoice k % 2 = 0)
    let spares : Nat := (s.links[link]?.map (fun l => if up then l.sparesUp else l.sparesDown)).getD 0
    if spares = 0 then s1.loseLink link
    else begin (fun l => if up then { l with sparesUp := l.sparesUp - 1 } else { l with sparesDown := l.sparesDown - 1 }) s1

def execLinkRetrain (link : Nat) (laneFailed : Bool) (s : State) : Out := stepOf (State.retrain link laneFailed) s

/-- Retraining ends; whether it has failed is a free value (log entry 56). -/
def State.endRetrain (link : Nat) (s : State) : State :=
  if ¬ (s.links[link]?.map (·.retrain)).getD false then s
  else
    let (k, s1) := s.draw
    if Config.retrainFails k then s1.loseLink link else s1.mapLink link (fun l => { l with retrain := false, fails := 0 })

def execLinkRetrainComplete (link : Nat) (s : State) : Out := stepOf (State.endRetrain link) s

end Sys2Proof.Machine
end

