-- ==== Sys2Proof/Machine/Debug.lean ====
section
/-!
DEFINITION. Sys2Proof/Machine/Debug.lean: stops, continues, steps and the state that a debug session reads and writes (21 R348 to R351).
-/

namespace Sys2Proof.Machine

/-! ## Stop, continue, step (R348, R350) -/

/-- Whether a strand stands where a stop can take it: everywhere but inside a complete rendezvous. -/
def Strand.stoppable (latch : Bool) (t : Strand) : Bool := decide (t.wait ≠ .released) && !(latch && decide (t.wait = .gang))

/-- A strand stops where it stands; a debugger's stop is a wake event (03 R75). -/
def Strand.stopped (t : Strand) : Strand := { t.woken with run := .stopped, stepping := false, stopPc := t.pc }

/-- R348: the strands of a held block stop at their next safe points; the barrier clocks stand still once one has stopped. -/
def State.stopBlock (block : Nat) (s : State) : State :=
  match s.block? block with
  | none => s
  | some b =>
    if ¬ b.debug then s
    else
      let go (t : Strand) : Bool := t.block == block && decide (t.run = .running) && t.stoppable b.latched
      let s0 := s.mapStrands go Strand.stopped
      let s1 := if s0.debugHeld b then s0.holdClocks block else s0
      if (s1.strandsOf block).any (fun t => decide (t.run = .running)) then s1.dueOnce acTicks (.debugStop block) else s1

def execDebugStop (block : Nat) (s : State) : Out := stepOf (State.stopBlock block) s

/-- R349: a strand goes on; the word at which it stopped issues without the match check, another one does not. -/
def Strand.continued (step : Bool) (t : Strand) : Strand :=
  { t with run := .running, matched := decide (t.pc = t.stopPc), stepping := step }

/-- R348, R349, R350: every strand of the block goes on, one whose step waits for a sibling too; a stop that is not complete is given up. -/
def State.continueBlock (block : Nat) (s : State) : State :=
  match s.block? block with
  | none => s
  | some b =>
    if ¬ b.debug then s
    else
      let s1 := (s.undue (.debugStop block)).mapStrands (fun t => t.block == block && decide (t.run = .stopped)) (Strand.continued false)
      (s1.mapStrands (fun t => t.block == block) (fun t => { t with stepping := false })).resumeClocks block

def execDebugContinue (block : Nat) (s : State) : Out := stepOf (State.continueBlock block) s

/-- R350: one stopped strand issues one instruction, with the hints before it. -/
def State.stepStopped (strand : Nat) (s : State) : State :=
  match s.strand? strand with
  | none => s
  | some t =>
    if t.run = .stopped ∧ ((s.block? t.block).map (·.debug)).getD false then
      s.mapStrand strand (Strand.continued true)
    else s

def execDebugStep (strand : Nat) (s : State) : Out := stepOf (State.stepStopped strand) s

/-! ## Reading and writing (R351) -/

/-- A part of an entry of the active-mask stack: 0 KIND (1 LOOP), 1 OUTER, 2 PEND, 3 PC, 4 RCV. -/
def MaskEntry.part (e : MaskEntry) (k : Nat) : W64 :=
  if k = 0 then (if e.kind = .loop then 1 else 0) else if k = 1 then e.outer.setWidth 64 else if k = 2 then e.pend.setWidth 64
  else if k = 3 then e.pc else e.rcv

def MaskEntry.putPart (k : Nat) (x : W64) (e : MaskEntry) : MaskEntry :=
  if k = 0 then { e with kind := if bit x 0 then .loop else .ifs } else if k = 1 then { e with outer := x.setWidth 32 }
  else if k = 2 then { e with pend := x.setWidth 32 } else if k = 3 then { e with pc := x } else { e with rcv := x }

/-- A write of OUTER or PEND keeps to the visible lanes; an OUTER of no lane, which would make m0 zero, is refused. -/
def Strand.putStack (e k : Nat) (x : W64) (t : Strand) : Option Strand :=
  let y : W64 := if k = 1 ∨ k = 2 then (x.setWidth 32 &&& t.visible).setWidth 64 else x
  if k = 1 ∧ y = 0 then none else some { t with stack := updAt t.stack e (MaskEntry.putPart k y) }

/-- A tray's fields (07 R138, 09 R190): 0 FILLED, 1 FREE, 2 RES, 3 HEAD, 4 TAIL, 5 GEN, then the geometry: base, slot, nslot, atype, afmt, scale,
stream, kslot, layout, step, count, and the fetches of a streamed tray. -/
def Tray.fields (t : Tray) : List Nat :=
  [t.filled, t.free, t.res, t.head, t.tail, t.gen.toNat, t.base, t.slot, t.nslot, t.atype, t.afmt.toNat, t.scale, if t.stream then 1 else 0,
   t.kslot, t.layout.toNat, t.step, t.count, t.fetched]

def Tray.putField (k x : Nat) (t : Tray) : Tray :=
  match k with
  | 0 => { t with filled := x }
  | 1 => { t with free := x }
  | 2 => { t with res := x }
  | 3 => { t with head := x }
  | 4 => { t with tail := x }
  | 5 => { t with gen := BitVec.ofNat 16 x }
  | 6 => { t with base := x }
  | 7 => { t with slot := x }
  | 8 => { t with nslot := x }
  | 9 => { t with atype := x }
  | 10 => { t with afmt := BitVec.ofNat 16 x }
  | 11 => { t with scale := x }
  | 12 => { t with stream := decide (x % 2 = 1) }
  | 13 => { t with kslot := x }
  | 14 => { t with layout := BitVec.ofNat 64 x }
  | 15 => { t with step := x }
  | 16 => { t with count := x }
  | _ => { t with fetched := x }

/-- An end's slot: 0 for none, else the slot plus 1. -/
def slotCode (k : Option Nat) : Nat := (k.map (· + 1)).getD 0

def slotOfCode (x : Nat) : Option Nat := if x = 0 then none else some (x - 1)

/-- A list cut to a length, or filled up to it. -/
def resized {α : Type} (n : Nat) (x : α) (l : List α) : List α := l.take n ++ List.replicate (n - l.length) x

/-- A channel's depth, its reader and writer, whether those ends are closed, and how many entries it holds (07 R137). -/
def Channel.fields (c : Channel) : List Nat :=
  [c.depth, slotCode c.reader, slotCode c.writer, if c.readerClosed then 1 else 0, if c.writerClosed then 1 else 0, c.entries.length]

def Channel.putField (k x : Nat) (c : Channel) : Channel :=
  match k with
  | 0 => { c with depth := x }
  | 1 => { c with reader := slotOfCode x }
  | 2 => { c with writer := slotOfCode x }
  | 3 => { c with readerClosed := decide (x % 2 = 1) }
  | 4 => { c with writerClosed := decide (x % 2 = 1) }
  | _ => { c with entries := resized (Nat.min x c.depth) (Vec.splat 0) c.entries }

/-- A block barrier beyond its arrivals: the ac since the first, those released, those that the time-out ended (07 R144, R145). -/
def Barrier.fields (now : Nat) (b : Barrier) : List Nat :=
  [(b.firstAt.map (fun t => (now - t) / acTicks)).getD 0, (maskOf b.released.contains).toNat, (maskOf b.timedOut.contains).toNat]

def Barrier.putField (now k x : Nat) (b : Barrier) : Barrier :=
  match k with
  | 0 => { b with firstAt := some (now - x * acTicks) }
  | 1 => { b with released := lanesOf (BitVec.ofNat 32 x) }
  | _ => { b with timedOut := lanesOf (BitVec.ofNat 32 x) }

/-- What a plane has latched: type, format, block size. -/
def Plane.fields (p : Plane) : List Nat := [p.ptype, p.fmt.toNat, p.block]

def Plane.putField (k x : Nat) (p : Plane) : Plane :=
  match k with
  | 0 => { p with ptype := x }
  | 1 => { p with fmt := BitVec.ofNat 16 x }
  | _ => { p with block := x }

/-- The pending modifying hints (01 R24): which there are, the first one's address, and the fields of `hint.ximm`, `hint.mem`, `hint.mod`. -/
def Hints.fields (h : Hints) : List W64 :=
  let f (c : Bool) (k : Nat) : Nat := if c then 2 ^ k else 0
  [BitVec.ofNat 64 (f h.first.isSome 0 + f h.ximm.isSome 1 + f h.mem.isSome 2 + f h.mod.isSome 3), h.first.getD 0,
   (h.ximm.getD 0).setWidth 64, (h.mem.map (fun m => BitVec.ofNat 64 (m.1.toNat + f m.2.1 6 + f m.2.2 7))).getD 0,
   (h.mod.map (fun m => BitVec.ofNat 64 (m.1.toNat + f m.2 3))).getD 0]

def Hints.putField (k : Nat) (x : W64) (h : Hints) : Hints :=
  match k with
  | 0 => { first := if bit x 0 then h.first.or (some 0) else Option.none, ximm := if bit x 1 then h.ximm.or (some 0) else Option.none,
           mem := if bit x 2 then h.mem.or (some (0, false, false)) else Option.none, mod := if bit x 3 then h.mod.or (some (0, false)) else Option.none }
  | 1 => { h with first := some x }
  | 2 => { h with ximm := some (x.setWidth 22) }
  | 3 => { h with mem := some (x.setWidth 6, bit x 6, bit x 7) }
  | _ => { h with mod := some (x.setWidth 3, bit x 3) }

/-- An engine's batch counters (07 R147): the last number given, the open batches, the operations not yet sealed. -/
def Batches.fields (b : Batches) : List Nat := [b.last, b.openCount, b.unsealed.length]

/-- A batch of no operation of an engine, open as long as the debugger leaves it so. -/
def Batch.madeOpen (num : Nat) : Batch :=
  { num := num, ops := [{ op := 0, join := 0, done := false, fault := none }], reported := false, joined := false }

/-- A write of the counters: fewer open batches complete the oldest ones, more of them stand at the end. -/
def Batches.putField (k x : Nat) (b : Batches) : Batches :=
  match k with
  | 0 => { b with last := x }
  | 1 =>
    let x := Nat.min x 15
    let done := b.batches.take (b.batches.length - b.openCount)
    let opened := b.batches.drop (b.batches.length - b.openCount)
    let close (q : Batch) : Batch := { q with ops := q.ops.map (fun o => { o with done := true }) }
    let n := b.openCount - x
    { b with batches := done ++ (opened.take n).map close ++ opened.drop n
               ++ (List.range (x - b.openCount)).map (fun j => Batch.madeOpen (b.last + 1 + j)),
             last := b.last + (x - b.openCount) }
  | _ => { b with unsealed := resized (Nat.min x 1024) { op := 0, join := 0, done := true, fault := none } b.unsealed }

/-! ### The micro view (log entry 28) -/

/-- A node of the sow tree as a word: its level, and its number there. -/
def nodeCode : TreeNode → Nat
  | .core c => c
  | .cluster k => 2 ^ 16 + k
  | .die d => 2 * 2 ^ 16 + d
  | .package => 3 * 2 ^ 16
  | .fabric => 4 * 2 ^ 16
  | .peer p => 5 * 2 ^ 16 + p

/-- The queued partials of a matrix operation: the operation, the element, 0 for PQ and 1 for NQ, the value. -/
def MxOp.partials (m : MxOp) : List (List Nat) :=
  m.queues.flatMap (fun q =>
    q.2.1.map (fun x => [m.id, q.1, 0, (BitVec.ofInt 64 x).toNat]) ++ q.2.2.map (fun x => [m.id, q.1, 1, (BitVec.ofInt 64 x).toNat]))

/-- A bed as the table holds it, with the parents' copies. -/
def Bed.trace (b : Bed) : List Nat :=
  [b.number.toNat, b.scope, if b.unord then 1 else 0, b.cold, b.handler.toNat, b.part, nodeCode b.root, b.frame.length]
    ++ b.copies.flatMap (fun e => [nodeCode e.1, e.2])

def SowPhase.word : SowPhase → Nat
  | .held => 0 | .climbing => 1 | .descending => 2 | .parked => 3 | .queued => 4 | .abroad _ => 5 | .ended => 6

/-- A sow on its way: where it is and what it carries. -/
def SowOp.trace (o : SowOp) : List Nat :=
  [o.id, o.bed.toNat, o.strand, o.core, o.phase.word, nodeCode o.node, o.bounces, if o.parked then 1 else 0] ++ o.payload.map (·.toNat)

def WalkEntry.trace (e : WalkEntry) : List Nat :=
  [e.die, if e.stage2 then 1 else 0, e.level, e.first, e.size, ((e.leaf.map (·.oa)).getD e.table)]

/-- A region's graft events (15 R270). -/
def Binding.trace (b : Binding) : List Nat := [b.region, b.fallbacks, b.fetchFaults, b.lastCode, b.lastPhase]

/-- The entries that the micro view shows of a partition. -/
def State.microEntries (s : State) (vd what : Nat) : List (List Nat) :=
  match what with
  | 0 => (s.mxops.filter (fun m => ((s.block? m.block).map (fun b => b.vd == vd)).getD false)).flatMap MxOp.partials
  | 1 => (s.beds.filter (fun b => b.part == vd)).map Bed.trace
  | 2 => (s.sows.filter (fun o => o.vd == vd)).map SowOp.trace
  | 3 => (s.walks.filter (fun e => e.vd == vd)).map WalkEntry.trace
  | 4 => (s.bindings.filter (fun b => b.owner == vd)).map Binding.trace
  | _ => []

/-- Whether the operator has granted a partition's micro view to the sessions of a virtual device. -/
def State.microGranted (s : State) (session part : Nat) : Bool := ((s.vd? session).map (fun v => bit v.microVds part)).getD false

/-- The value of a target in the state whose focus is on the strand; none where it does not exist or the session may not see it. -/
def State.debugRead (s : State) (t : DebugTarget) : Option W64 :=
  match t with
  | .pc => some s.me.pc
  | .scalar r => if r < 56 then some (if r = 0 then 0 else s.me.s[r]?.getD 0) else none
  | .lane r l => if r < s.me.budget ∧ l < 32 then some ((Vec.lane (s.me.v[r]?.getD (Vec.splat 0)) l).setWidth 64) else none
  | .mask r => (s.me.m[r]?).map (fun m => m.setWidth 64)
  | .special n => if n < 1024 ∧ specialListed (BitVec.ofNat 10 n) then some (s.readSpecial (BitVec.ofNat 10 n)) else none
  | .stack e k => (s.me.stack[e]?).map (fun x => x.part k)
  | .window off => if off + 8 ≤ s.blk.windowSize then some (s.blk.dword off) else none
  | .tileA t r c => (s.blk.tiles[t]?).map (fun x => ((x.elem (128 * r + c)).a).signExtend 64)
  | .tileRw t r c => (s.blk.tiles[t]?).map (fun x => ((x.elem (128 * r + c)).rw).setWidth 64)
  | .tileNan t r c => (s.blk.tiles[t]?).map (fun x => if (x.elem (128 * r + c)).nan then 1 else 0)
  | .tileRu t r c => (s.blk.tiles[t]?).map (fun x => if (x.elem (128 * r + c)).ru then 1 else 0)
  | .plane p o => if o < 16384 then (s.blk.planes[p]?).map (fun x => (Memory.get x.bytes o).setWidth 64) else none
  | .planeInfo p k => ((s.blk.planes[p]?).bind (fun x => x.fields[k]?)).map (BitVec.ofNat 64)
  | .planeScale p o => if o < 2048 then (s.blk.planes[p]?).map (fun x => (Memory.get x.scales o).setWidth 64) else none
  | .tray t k => ((s.blk.trays[t]?).bind (fun x => x.fields[k]?)).map (BitVec.ofNat 64)
  | .channel c e l => ((s.blk.channels[c]?).bind (fun x => x.entries[e]?)).map (fun v => (Vec.lane v l).setWidth 64)
  | .barrier b => (s.blk.barriers[b]?).map (fun x => (maskOf x.arrived.contains).setWidth 64)
  | .barrierState b k => ((s.blk.barriers[b]?).bind (fun x => (x.fields s.now)[k]?)).map (BitVec.ofNat 64)
  | .channelEnd c k => ((s.blk.channels[c]?).bind (fun x => x.fields[k]?)).map (BitVec.ofNat 64)
  | .batches e k => if e < 3 then ((s.me.engine (BitVec.ofNat 2 e)).fields[k]?).map (BitVec.ofNat 64) else none
  | .hint k => s.me.hints.fields[k]?
  | .stall i => (s.me.stall[i]?).map (BitVec.ofNat 64)
  | .pcMatch i _ => (s.me.pcMatch[i]?).map (·.addr)
  | .pcMatchEnable i => (s.me.pcMatch[i]?).map (fun m => if m.enable then 1 else 0)
  | .micro what i j =>
    if s.microGranted s.blk.vd (what / 8) then (((s.microEntries (what / 8) (what % 8))[i]?).bind (fun e => e[j]?)).map (BitVec.ofNat 64)
    else none

/-- DEPTH of the active-mask stack, of 32 entries at most: entries leave at the top, or come there as LOOP entries of all visible lanes. -/
def Strand.setDepth (n : Nat) (t : Strand) : Strand :=
  let d := Nat.min n 32
  let e : MaskEntry := { kind := .loop, outer := t.visible, pend := 0, pc := 0, rcv := 0 }
  { t with stack := List.replicate (d - t.stack.length) e ++ t.stack.drop (t.stack.length - d), near := Nat.min d 8 }

/-- Every special register but WID; TMASKED is written with CTRL, DEPTH with the stack (R351: every register of 02 R38). -/
def Strand.debugSpecial (n : Nat) (x : W64) (t : Strand) : Strand :=
  if n = 9 then { t.setCtrl x with tmasked := bit x 4 }
  else if n = 0x1B then { t with sowfrom := x.setWidth 16 }
  else if n = 0x1A then t.setDepth x.toNat
  else t.writeSpecial (BitVec.ofNat 10 n) x

/-- R349, R351: PC is written: the strand is at the boundary before another word.  What the word at which it waited has begun it gives up: an
atomic that has left is performed, a rendezvous is left. -/
def State.movePc (x : W64) (s : State) : State :=
  let id := s.me.id
  let s1 := match s.me.flight with
    | some (.atomic fn size lanes) => s.performAtomic id s.blk.core fn size lanes
    | some (.peerAtomic ..) => s.servePeer s.me
    | _ => s
  let s2 := (if s.me.wait = Wait.gang then s1.leaveLatch s.me.slot else s1).undue (.atomicPerform id)
  ((s2.undue (.atomicReply id)).undue (.memoryReply id)).mapMe (fun t => { t.clearInstr with pc := x, fetch := [], reason := 0 })

/-- What an error had marked is whole once it is written. -/
def Strand.mended (r : RegName) (t : Strand) : Strand := { t with corrupt := t.corrupt.filter (fun k => k != r) }

/-- A write that the session may make; one that would make m0 zero or change WID, and one to the micro view, are refused. -/
def State.debugWrite (t : DebugTarget) (x : W64) (s : State) : Option State :=
  if (s.debugRead t).isNone then none
  else match t with
  | .pc => some (s.movePc x)
  | .scalar r => some (if r = 0 then s else (s.mapMe (Strand.putS r x)).mapMe (Strand.mended (.scalar r)))
  | .lane r l => some (s.mapMe (fun t =>
      t.putV r (Vec.tab (fun k => if k = l then x.setWidth 32 else Vec.lane (t.v[r]?.getD (Vec.splat 0)) k))))
  | .mask r =>
    if r = 0 ∧ x.setWidth 32 &&& s.me.visible = 0 then none else some (s.mapMe (fun t => t.putM r (x.setWidth 32 &&& t.visible)))
  | .special n => if n = 0 then none else some (s.mapMe (Strand.debugSpecial n x))
  | .stack e k => (s.me.putStack e k x).map (fun t => s.mapMe (fun _ => t))
  | .window off => some (s.mapBlk (Block.writeWindow off (natBytes 8 x.toNat)))
  | .tileA t r c => some (s.mapBlk (fun b => { b with tiles := updAt b.tiles t (fun y =>
      y.setElem (128 * r + c) { y.elem (128 * r + c) with a := x.setWidth 28 }) }))
  | .tileRw t r c => some (s.mapBlk (fun b => { b with tiles := updAt b.tiles t (fun y =>
      y.setElem (128 * r + c) { y.elem (128 * r + c) with rw := x.setWidth 16 }) }))
  | .tileNan t r c => some (s.mapBlk (fun b => { b with tiles := updAt b.tiles t (fun y =>
      y.setElem (128 * r + c) { y.elem (128 * r + c) with nan := bit x 0 }) }))
  | .tileRu t r c => some (s.mapBlk (fun b => { b with tiles := updAt b.tiles t (fun y =>
      y.setElem (128 * r + c) { y.elem (128 * r + c) with ru := bit x 0 }) }))
  | .plane p o => some (s.mapBlk (fun b => { b with planes := updAt b.planes p (fun y =>
      { y with bytes := Memory.set y.bytes o (x.setWidth 8), corrupt := y.corrupt.filter (fun k => k != o) }) }))
  | .planeInfo p k => some (s.mapBlk (fun b => { b with planes := updAt b.planes p (Plane.putField k x.toNat) }))
  | .planeScale p o => some (s.mapBlk (fun b => { b with planes := updAt b.planes p (fun y =>
      { y with scales := Memory.set y.scales o (x.setWidth 8) }) }))
  | .tray t k => some (s.mapBlk (fun b => updTray b t (Tray.putField k x.toNat)))
  | .channel c e l => some (s.mapBlk (fun b => updChan b c (fun y =>
      { y with entries := updAt y.entries e (fun v => Vec.tab (fun k => if k = l then x.setWidth 32 else Vec.lane v k)) })))
  | .barrier b => some (s.mapBlk (fun k => updBarrier k b (fun y => { y with arrived := lanesOf (x.setWidth 32) })))
  | .barrierState b k => some (s.mapBlk (fun y => updBarrier y b (Barrier.putField s.now k x.toNat)))
  | .channelEnd c k => some (s.mapBlk (fun b => updChan b c (Channel.putField k x.toNat)))
  | .batches e k => some (s.mapMe (fun t => t.setEngine (BitVec.ofNat 2 e) ((t.engine (BitVec.ofNat 2 e)).putField k x.toNat)))
  | .hint k => some (s.mapMe (fun t => { t with hints := t.hints.putField k x }))
  | .stall i => some (s.mapMe (fun t => { t with stall := updAt t.stall i (fun _ => x.toNat % 8) }))
  | .pcMatchEnable i => some (s.mapMe (fun t =>
      { t with pcMatch := t.pcMatch.mapFinIdx (fun k m _ => if k = i then { m with enable := bit x 0 } else m) }))
  | .pcMatch i on => some (s.mapMe (fun t =>
      { t with pcMatch := t.pcMatch.mapFinIdx (fun k m _ => if k = i then { addr := x, enable := on } else m) }))
  | .micro _ _ _ => none

/-- R350: what the debugger reports of a strand that is not stopped: one whose step waits, with its stall reason. -/
def State.waitReport (s : State) : List Byte :=
  if s.me.stepping ∧ s.me.run = .running ∧ s.me.reason ≠ 0 then [BitVec.ofNat 8 s.me.reason] else []

/-- R351: an access of the session that holds the block, to a stopped strand, or to read a halted one (02 R56); the session has its answer: 0
with the value, or 2. -/
def State.debugAccess (strand : Nat) (access : DebugAccess) (s : State) : State :=
  let s1 := s.focus strand
  if s1.me.id ≠ strand ∨ ¬ s1.blk.debug then s.answer 3 s.blk.vd 2 []
  else match access with
    | .read t =>
      if s1.me.run = .stopped ∨ s1.me.run = .halted then match s1.debugRead t with
        | some x => s1.answer 3 s1.blk.vd 0 (natBytes 8 x.toNat)
        | none => s1.answer 3 s1.blk.vd 2 []
      else s1.answer 3 s1.blk.vd 2 s1.waitReport
    | .write t x =>
      if s1.me.run = .stopped then match s1.debugWrite t x with
        | some s2 => s2.answer 3 s1.blk.vd 0 []
        | none => s1.answer 3 s1.blk.vd 2 []
      else s1.answer 3 s1.blk.vd 2 s1.waitReport

def execDebugStateAccess (strand : Nat) (access : DebugAccess) (s : State) : Out := stepOf (State.debugAccess strand access) s

end Sys2Proof.Machine
end

