-- ==== Sys2Proof/Machine/Dump.lean ====
section
/-!
DEFINITION. Sys2Proof/Machine/Dump.lean: the fatal error and the dump that it writes (19 R333, R334).
-/

namespace Sys2Proof.Machine

/-! ## The fatal error (19 R333) -/

/-- Steps 1 and 2: nothing issues or moves any more, what is in flight is gone. -/
def State.stopAll (s : State) : State :=
  { s with agenda := [], xd := none, control := { s.control with stopped := true },
           core := { s.core with packets := [], nt := [] }, cores := s.cores.map (fun c => { c with packets := [], nt := [] }) }

/-- Whether a byte is stored as it is: outside every bound region, or in a raw one where its block is not stored encoded. -/
def State.storedPlain (s : State) (a : Nat) : Bool :=
  match s.blockAt a with
  | none => true
  | some (b, v, start) => v.raw && (b.code? start).isNone

/-- Step 3: dirty bytes go to DRAM, but for lines whose tags are lost; no graft runs, a grafted block keeps its last stored form. -/
def State.saveDirty (s : State) : State :=
  let plain (a : Nat) : Bool := s.storedPlain a && !s.control.lostTags.contains (a / 256)
  let s0 : State := { s with slices := s.slices.map (fun l => if plain (l.line * 256) then l else { l with dirty := 0 }) }
  let s1 := ((s0.core.id :: s0.cores.map (·.id))).foldl (fun s c => s.l1WriteBack c plain) s0
  ((s1.slices.map (·.line)).filter (fun l => plain (l * 256))).foldl (fun s l => s.writeBackPlain l) s1

/-- The faulting unit: the lost link, or the line whose tag is lost. -/
def State.faultUnit (cause : Nat) (s : State) : Nat :=
  if cause = 1 then ((List.range 6).find? (fun k => (s.links[k]?.map (·.lost)).getD false)).getD 0
  else if cause = 2 then s.control.lostTags.headD 0 else 0

/-- The die whose sow unit holds a bed; the package's and the fabric unit's stand in die 0's region (log entry 27). -/
def rootDie : TreeNode → Nat
  | .core c => coreDie c
  | .cluster k => k / 16
  | .die d => d
  | _ => 0

/-- R334: the dump region of a die; the page-request queues, which are the package's, stand in die 0's (log entry 27). -/
def State.dumpOf (cause time : Nat) (s : State) (die : Nat) : DumpRegion :=
  let blocks := s.allBlocks.filter (fun b => decide (b.id ≠ 0 ∧ coreDie b.core = die))
  { cause := cause, time := time, die := die, unit := s.faultUnit cause,
    strands := s.allStrands.filter (fun t => blocks.any (fun b => b.id == t.block)), blocks := blocks,
    near := s.dram.filter (fun e => isNear e.1 && decide (homeDie e.1 = die)), queues := s.queues.filter (fun q => q.num / 512 == die),
    launches := s.launches.filter (fun l => l.die == die), tasks := s.tasks.filter (fun t => t.die == die),
    nodes := s.nodes.filter (fun n => n.die == die), classes := s.classes.filter (fun c => c.die == die),
    beds := s.beds.filter (fun b => rootDie b.root == die), sows := s.sows.filter (fun o => coreDie o.core == die),
    pageReqs := if die = 0 then s.stage2 ++ s.vds.flatMap (·.pageReqs) else [],
    lost := s.control.lostTags.filter (fun l => homeDie (l * 256) == die) }

/-! ### The bytes of a region (R334; the form of each part is the model's, log entry 27) -/

/-- A part of a region: its size and its nonzero bytes by offset. -/
structure DumpPart where
  size  : Nat
  cells : List Host.Cell
  deriving DecidableEq, Repr

def DumpPart.ofBytes (bs : List Byte) : DumpPart := { size := bs.length, cells := (cellsAt 0 bs).filter (fun c => decide (c.2 ≠ 0)) }
def DumpPart.ofWords (ws : List Nat) : DumpPart := DumpPart.ofBytes (ws.flatMap (natBytes 8))

/-- Two parts in a row. -/
def DumpPart.then_ (a b : DumpPart) : DumpPart := { size := a.size + b.size, cells := a.cells ++ b.cells.map (fun c => (a.size + c.1, c.2)) }

def DumpPart.all (ps : List DumpPart) : DumpPart := ps.foldl DumpPart.then_ { size := 0, cells := [] }

/-- A strand's state (02 R38) with its active-mask stack and its trap registers. -/
def Strand.dump (t : Strand) : DumpPart :=
  .ofWords ([t.block, t.slot, t.pc.toNat] ++ t.s.toList.map (·.toNat) ++ (t.v.toList.take t.budget).flatMap (fun v => v.toList.map (·.toNat))
    ++ t.m.toList.map (·.toNat) ++ [t.stack.length] ++ t.stack.flatMap (fun e => (List.range 5).map (fun k => (e.part k).toNat))
    ++ t.mx.fields ++ t.cp.fields ++ t.sw.fields ++ [t.tpc, t.tcause.setWidth 64, t.tlanes.setWidth 64, t.taddr, t.tval].map (·.toNat)
    ++ t.fmt.toList.map (·.toNat) ++ [t.gang.toNat, t.sowfrom.toNat, t.ctrl.toNat, t.wid.toNat, t.role, t.kind, t.budget, t.priv]
    ++ t.hints.fields.map (·.toNat) ++ [t.stall.length] ++ t.stall)

/-- An accumulator tile: a doubleword for each element: A, Rw, NAN, RU. -/
def Tile.dump (t : Tile) : DumpPart :=
  { size := 131072,
    cells := t.elems.foldl (fun m e => Memory.write m (8 * e.1) (natBytes 8
      (e.2.a.toNat + e.2.rw.toNat * 2 ^ 32 + (if e.2.nan then 2 ^ 48 else 0) + (if e.2.ru then 2 ^ 49 else 0)))) [] }

/-- A block: window, tiles, planes with what they latched, channels, trays and barriers. -/
def Block.dump (now : Nat) (b : Block) : DumpPart :=
  .all ([.ofWords [b.id, b.core, b.index, b.vd, b.windowSize], { size := b.windowSize, cells := b.window }] ++ b.tiles.map Tile.dump
    ++ b.planes.flatMap (fun p => [.ofWords p.fields, { size := 16384, cells := p.bytes }, { size := 2048, cells := p.scales }])
    ++ b.channels.map (fun c => .ofWords (c.fields ++ c.entries.flatMap (fun v => v.toList.map (·.toNat))))
    ++ b.trays.map (fun t => .ofWords t.fields)
    ++ b.barriers.map (fun r => .ofWords ((maskOf r.arrived.contains).toNat :: r.fields now)))

/-- The scheduler's SRAM: queues with their messages, the launch table, task records, nodes, resource classes. -/
def DumpRegion.scheduler (r : DumpRegion) : DumpPart :=
  .all (r.queues.map (fun q => .all [.ofWords [q.num, q.vd, q.vnum, q.priv, q.msgs.length], .ofBytes (q.msgs.flatMap (·.bytes))])
    ++ r.launches.map (fun l => .all [.ofWords ([l.idx, l.vd, l.recBlock, l.inst, l.total, l.next, l.left] ++ l.args.map (·.toNat)),
        .ofBytes (l.header ++ l.trays ++ l.chans ++ l.recs.flatten)])
    ++ r.tasks.map (fun t => .ofWords [t.id, t.launch, t.inst, t.priority, t.readyAt, t.blocksLeft])
    ++ r.nodes.map (fun n => .all [.ofWords ([n.idx, n.vd, n.header.toNat, n.counter, n.insts, n.running] ++ n.args.map (·.toNat)),
        .ofBytes (n.recs.flatMap (·.1))])
    ++ r.classes.map (fun c => .ofWords ([c.num, c.ext] ++ c.offers.map (·.2))))

/-- The parts of a region after its header, in the order of R334. -/
def DumpRegion.parts (r : DumpRegion) : List DumpPart :=
  [.all (r.strands.map Strand.dump), .all (r.blocks.map (Block.dump r.time)),
   { size := 2 ^ 28, cells := r.near.map (fun c => (c.1 - (nearBase + r.die * 2 ^ 28), c.2)) }, r.scheduler,
   .ofWords (r.beds.flatMap Bed.trace ++ r.sows.flatMap SowOp.trace), .ofWords (r.pageReqs.flatMap (fun q => [q.page, q.acc, q.vd, q.id])),
   .ofWords r.lost]

/-- Where each part begins and how long it is: the map that the header holds. -/
def partMap : Nat → List DumpPart → List Nat
  | _, [] => []
  | at_, p :: r => at_ :: p.size :: partMap (at_ + p.size) r

/-- R334: the region: the header's 4 KiB at offset 0, the strands from 4 KiB on, the rest after them. -/
def DumpRegion.image (r : DumpRegion) : DumpPart :=
  let header := DumpPart.ofWords ([r.cause, r.time, r.die, r.unit] ++ partMap 4096 r.parts)
  .all ({ header with size := 4096 } :: r.parts)

/-- R333: the first byte of a die's dump region, 1 GiB of its DRAM that the operator has set aside. -/
def dumpBase (die : Nat) : Nat := die * 2 ^ 36 + Config.dumpPlace die % 63 * 2 ^ 30

/-- R333 step 4: the region holds the dump alone; a slice holds nothing of it. -/
def State.writeDump (s : State) (r : DumpRegion) : State :=
  let base := dumpBase r.die
  let cells := (r.image.cells.filter (fun c => decide (c.1 < 2 ^ 30))).map (fun c => (base + c.1, c.2))
  { s with
    dram := s.dram.filter (fun c => decide (c.1 < base)) ++ cells ++ s.dram.filter (fun c => decide (base + 2 ^ 30 ≤ c.1)),
    slices := s.slices.filter (fun l => decide (l.line * 256 < base ∨ base + 2 ^ 30 ≤ l.line * 256)),
    poison := s.poison.filter (fun k => decide (k * 64 < base ∨ base + 2 ^ 30 ≤ k * 64)) }

/-- R333: the state then stays as it stood, and the dump holds it. -/
def State.fatal (cause : Nat) (s : State) : State :=
  if s.control.stopped then s
  else
    let s1 : State := { s.stopAll.saveDirty with agenda := [] }
    let dump := (List.range 4).map (s1.dumpOf cause s.now)
    let s2 := dump.foldl State.writeDump s1
    { s2 with control := { s2.control with fatal := true, dump := dump }, outbox := s2.outbox ++ [OutMsg.fatal cause] }

def execFatalError (cause : Nat) (s : State) : Out := stepOf (State.fatal cause) s

end Sys2Proof.Machine
end

