-- ==== Sys2Proof/Machine/Fabric.lean ====
section
/-!
DEFINITION. Sys2Proof/Machine/Fabric.lean: memory windows (22 R355, R356), the management commands (19 R311, R312, 22 R357 to R363), the
attestation report (22 R368, R369), and the fabric ports (22 R353).
-/

namespace Sys2Proof.Machine

/-! ## Memory windows (R355) -/

/-- Whether a window admits the sender: any initiator of the device's secure domain, or the one pair that it names. -/
def Window.admits (w : Window) (o : HostOp) : Bool :=
  if w.any then decide (o.secure = o.vd) else decide (o.peer = some w.peer)

/-- The code that refuses an access, 0 for none; a named peer is admitted by its window alone. -/
def State.windowCheck (o : HostOp) (write : Bool) (s : State) : Nat :=
  let malformed := decide (2 ^ 32 ≤ o.length) || (write && decide (o.payload.length ≠ o.length)) || (!write && decide (o.payload ≠ []))
  let code := s.hostCheck { o with secure := if o.peer.isSome then o.vd else o.secure } (if write then 1 else 2) malformed
  if code ≠ 0 then code
  else match ((s.vd? o.vd).bind (fun v => v.windows.find? (fun w => w.num == o.index))) with
    | none => 1
    | some w =>
      if ¬ w.admits o ∨ (write ∧ ¬ w.w) ∨ (¬ write ∧ ¬ w.r) ∨ w.size.toNat < o.offset + o.length then 2 else 0

/-- The bytes of a read at their homes; a raw page reads what DRAM stores (15 R272); what is marked or poisoned has no stated value
(log entry 7). -/
def State.windowBytes (e : TlbEntry) (pa n : Nat) (s : State) : List Byte × State :=
  if e.raw then
    let s1 := (List.range n).foldl (fun s k => if isDram (pa + k) ∧ (k = 0 ∨ (pa + k) % 256 = 0) then s.writeBack ((pa + k) / 256) else s) s
    ((List.range n).map (fun k => s1.rawByte (pa + k)), { s1 with free := s1.free + 1 })
  else
    let (bs, mark, pois, s1) := s.homeReadBytes pa n
    if mark ∨ pois then
      let (k, s2) := s1.draw
      ((List.range n).map (fun j => Config.anyByte (k * 2 ^ 40 + j)), s2)
    else (bs, s1)

/-- R355, R356: a packet of 4 KiB on RUD is sprayed anew, and stays with the die that received it while it
waits for a page; on one ROD connection packets keep their port while it is in service (R353). -/
def State.spray (h : HostWait) (s : State) : Nat × State :=
  if (h.op.conn.isNone ∧ h.packet ≠ h.next / 4096) ∨ ¬ s.openDies.contains h.die then
    let (d, s1) := s.drawDie
    (d, s1.mapHost h.op (fun h => { h with die := d, packet := h.next / 4096 }))
  else (h.die, s)

/-- The access goes on, sector by sector, as far as its pages are there; `fuel` bounds the pieces. -/
def State.windowGo (o : HostOp) (write : Bool) (base : Nat) : Nat → State → State
  | 0, s => s
  | fuel + 1, s =>
    match s.hostWait? o with
    | none => s
    | some h =>
      let finish (code : Nat) (data : List Byte) (s : State) : State :=
        (s.leaveHost o).answer (if write then 1 else 2) o.vd code data
      if o.length ≤ h.next then finish 0 h.data s
      else
        let va := base + o.offset + h.next
        let n := Nat.min (Nat.min (64 - va % 64) (4096 - h.next % 4096)) (o.length - h.next)
        let (die, s) := s.spray h
        let acc : Acc := if write then .write else .read
        match (if 2 ^ 56 ≤ va then (.fail .translation, s) else s.translateAt [.die die] true o.vd 1 acc va) with
        | (.held, s1) => s1.dueOnce acTicks h.event
        | (.fail c, s1) => finish (if c = .translation then 3 else 2) [] s1
        | (.miss stage2 page a, s1) =>
          let (w, s2) := s1.awaitPage o.vd 0 (BitVec.ofNat 64 va) stage2 page a
          if w.id.isSome then (s2.count o.vd 0x0D 1 1).mapHost o (fun h => { h with wait := some w }) else s2.dueOnce (1000 * nsTicks) h.event
        | (.ok e, s1) =>
          let pa := e.addr va
          if s1.readsHeld die [pa] then s1.dueOnce acTicks h.event else
          let s1 := s1.crossFrom die write [pa]
          let s2 := if write then
              (s1.homeWriteBytes pa ((o.payload.drop h.next).take n)).mapHost o (fun h => { h with next := h.next + n })
            else
              let (bs, s2) := s1.windowBytes e pa n
              s2.mapHost o (fun h => { h with next := h.next + n, data := h.data ++ bs })
          State.windowGo o write base fuel s2

/-- R355: a window operation: the checks, then its bytes; an INVALID answer ends it with code 3. -/
def State.windowTurn (o : HostOp) (write : Bool) (s : State) : State :=
  let code := s.windowCheck o write
  match s.hostWait? o with
  | none => s
  | some h =>
    if code ≠ 0 then (s.leaveHost o).answer (if write then 1 else 2) o.vd code []
    else if h.invalid then (s.leaveHost o).answer (if write then 1 else 2) o.vd 3 []
    else if h.wait.isSome then s
    else
      let base := (((s.vd? o.vd).bind (fun v => v.windows.find? (fun w => w.num == o.index))).map (fun w => w.base.toNat)).getD 0
      s.windowGo o write base (o.length / 64 + o.length / 4096 + 4)

def execWindowWrite (op : HostOp) (s : State) : Out :=
  stepOf (fun s => s.hostTurn 1 op (.windowWrite op) (fun s => s.windowTurn op true)) s

def execWindowRead (op : HostOp) (s : State) : Out :=
  stepOf (fun s => s.hostTurn 2 op (.windowRead op) (fun s => s.windowTurn op false)) s

/-! ## Management commands (R357, R358) -/

/-- Whether every byte from offset 2 onward is zero but for the fields named by offset and size. -/
def restZero (bs : List Byte) (fields : List (Nat × Nat)) : Bool :=
  (List.range 64).all (fun k => decide (k < 2) || fields.any (fun (f : Nat × Nat) => decide (f.1 ≤ k ∧ k < f.1 + f.2)) || decide (bs[k]?.getD 0 = 0))

/-- Who may send a command. -/
inductive Sender where
  | owner | operator | either
  deriving DecidableEq, Repr

/-- R357: the operator speaks through the device whose MGMT flag is set (19 R311), once there is one (log entry 1). -/
def State.isOperator (s : State) (c : MgmtCmd) : Bool :=
  c.operator && (s.vds.all (fun v => !v.mgmt) || ((s.vd? c.sender).map (·.mgmt)).getD false)

def Sender.admits (r : Sender) (s : State) (c : MgmtCmd) : Bool :=
  match r with
  | .owner => !s.isOperator c && decide (c.sender = recField c.bytes 1 1)
  | .operator => s.isOperator c
  | .either => s.isOperator c || decide (c.sender = recField c.bytes 1 1)

/-- R354, R357: what makes a command break its form, for code 5; a code that no command has, and a target that is no device, are 1. -/
def cmdBroken (code : Nat) (mapOk : Bool) (c : MgmtCmd) : Nat :=
  if c.opcode ≠ 3 ∨ c.index ≠ 0 ∨ c.offset ≠ 0 ∨ c.length ≠ 64 ∨ c.bytes.length ≠ 64 then 5
  else if recField c.bytes 0 1 = 0 ∨ 9 < recField c.bytes 0 1 ∨ 63 < recField c.bytes 1 1 then 1
  else if recField c.bytes 0 1 ≠ code ∨ ¬ mapOk then 5 else 0

/-- A command as an operation among the others of its connection. -/
def cmdOp (c : MgmtCmd) : HostOp :=
  { tag := c.tag, conn := c.conn, secure := c.sender, peer := none, opcode := c.opcode, vd := recField c.bytes 1 1, index := c.index,
    length := c.length, offset := c.offset, payload := c.bytes, ownerChannel := true }

/-- R356, R352: a command takes its turn: not before the earlier operations of its connection, and not while its device has 4,096 outstanding.  A package that has stopped takes none, and serves the
operator its dump (19 R333, log entry 27). -/
def State.cmdTurn (c : MgmtCmd) (again : Instr) (f : State → State) (s : State) : State :=
  let o := cmdOp c
  if s.openDies = [] ∨ ¬ HostOp.connected o then s
  else if s.control.stopped then
    let s1 := s.answer 3 o.vd 1 []
    if s.isOperator c then { s1 with outbox := s1.outbox ++ s.control.dump.map OutMsg.dump } else s1
  else if s.hostBlocked o ∨ ¬ s.hostRoom o then (s.enterHost 3 o).dueOnce (1000 * nsTicks) again
  else (f s).leaveHost o

/-- A command: its form, its sender, its target; then its effect, which gives the code, the data and the new state. -/
def State.command (c : MgmtCmd) (code : Nat) (who : Sender) (mapOk : Bool) (live : Bool)
    (f : VDev → State → Nat × List Byte × State) (s : State) : State :=
  let vd := recField c.bytes 1 1
  let reply (k : Nat) (data : List Byte) (s : State) : State := s.answer 3 vd k data
  if ¬ s.control.ready then reply 1 [] s
  else if cmdBroken code mapOk c ≠ 0 then reply (cmdBroken code mapOk c) [] s
  else if ¬ who.admits s c then reply 2 [] s
  else match s.vd? vd with
    | none => reply 1 [] s
    | some v =>
      if live ∧ ¬ v.enabled then reply 1 [] s
      else
        let (k, data, s1) := f v s
        reply k data s1

/-- The address of a fabric endpoint or peer: 16 bytes. -/
def addrField (bs : List Byte) (off : Nat) : BitVec 128 := BitVec.ofNat 128 (recField bs off 16)

/-- Bytes 1 to 63 of an accepted command (R369). -/
def cmdTail (c : MgmtCmd) : List Byte := c.bytes.drop 1

def windowMapOk (b : List Byte) : Bool :=
  restZero b [(8, 2), (16, 8), (24, 8), (32, 16), (48, 1)]
    && decide (recField b 8 1 ≤ 63 ∧ recField b 9 1 < 16 ∧ recField b 16 8 % 65536 = 0 ∧ recField b 24 8 % 65536 = 0 ∧ recField b 48 1 ≤ 63)
    && (decide (recField b 9 1 / 8 % 2 = 0) || decide (recField b 32 16 = 0 ∧ recField b 48 1 = 0))

def State.setWindow (c : MgmtCmd) (s : State) : State :=
  let b := c.bytes
  s.command c 1 .owner (windowMapOk b) true (fun v s =>
    let n := recField b 8 1
    let flags := recField b 9 1
    let w : Window := { num := n, base := BitVec.ofNat 64 (recField b 16 8), size := BitVec.ofNat 64 (recField b 24 8), r := decide (flags % 2 = 1),
                        w := decide (flags / 2 % 2 = 1), any := decide (flags / 8 % 2 = 1), peer := (addrField b 32, recField b 48 1), cmd := cmdTail c }
    (0, [], s.mapVd v.num (fun v => { v with windows := v.windows.filter (fun k => k.num != n) ++ (if flags / 4 % 2 = 1 then [w] else []) })))

def execWindow (cmd : MgmtCmd) (s : State) : Out := stepOf (fun s => s.cmdTurn cmd (.window cmd) (State.setWindow cmd)) s

/-- R358, 17 R294: the ring of completion records starts over at its new base (log entry 23). -/
def State.setEventRing (c : MgmtCmd) (s : State) : State :=
  let b := c.bytes
  let n := recField b 16 4
  let ok := restZero b [(8, 8), (16, 4)] && decide (recField b 8 8 % 64 = 0) && (List.range 17).any (fun k => decide (n = 2 ^ (k + 4)))
  s.command c 2 .owner ok true (fun v s =>
    let s1 := s.mapVd v.num (fun v => { v with ringBase := BitVec.ofNat 64 (recField b 8 8), ringCount := n, ringHead := 0 })
    let s2 := match s1.deviceAddr v.num .write (recField b 8 8) with
      | some pa => s1.homeWriteBytes pa (List.replicate 64 0)
      | none => s1
    (0, [], if v.held = [] then s2 else s2.dueOnce 0 (.completionRecord v.num)))

def execRing (cmd : MgmtCmd) (s : State) : Out := stepOf (fun s => s.cmdTurn cmd (.ring cmd) (State.setEventRing cmd)) s

def State.setNotify (c : MgmtCmd) (s : State) : State :=
  let b := c.bytes
  let ok := restZero b [(8, 16), (24, 4), (28, 4), (32, 2), (34, 2)] && decide (1 ≤ recField b 32 2 ∧ recField b 32 2 ≤ 256)
  s.command c 3 .owner ok true (fun v s =>
    (0, [], s.mapVd v.num (fun v => { v with notifyTo := (b.drop 8).take 24, notifyN := recField b 32 2, notifyT := recField b 34 2 })))

def execNotify (cmd : MgmtCmd) (s : State) : Out := stepOf (fun s => s.cmdTurn cmd (.notify cmd) (State.setNotify cmd)) s

/-- R358, 21 R348: a session opens or closes; only the operator grants the micro view. -/
def State.setSession (c : MgmtCmd) (s : State) : State :=
  let b := c.bytes
  let ok := restZero b [(8, 1), (16, 8)] && decide (recField b 8 1 ≤ 1) && (s.isOperator c || decide (recField b 16 8 = 0))
  s.command c 4 .either ok true (fun v s =>
    let on := decide (recField b 8 1 = 1)
    (0, [], s.mapVd v.num (fun v => { v with debug := on, microVds := if on then BitVec.ofNat 64 (recField b 16 8) else 0 })))

def execDebug (cmd : MgmtCmd) (s : State) : Out := stepOf (fun s => s.cmdTurn cmd (.debug cmd) (State.setSession cmd)) s

/-! ## Attestation (R368, R369) -/

/-- R369: the block of a virtual device in the serialised configuration: its last VDCFG, its queues, windows and peers in the order
of their numbers. -/
def State.configOf (s : State) (v : VDev) : List Byte :=
  v.cmd ++ (List.range 2048).flatMap (fun k => (s.queues.filter (fun q => q.num == k && q.vd == v.num)).flatMap (·.cmd))
    ++ (List.range 64).flatMap (fun k => (v.windows.filter (fun w => w.num == k)).flatMap (·.cmd))
    ++ (List.range 32).flatMap (fun k => (v.peers.filter (fun p => p.idx == k)).flatMap (·.cmd))

/-- The whole package for the operator; one device for its owner; a device that has accepted no VDCFG has no block. -/
def State.configBytes (s : State) (operator : Bool) (vd : Nat) : List Byte :=
  (List.range 64).flatMap (fun k => match s.vd? k with
    | some v => if v.cmd = [] ∨ (!operator && decide (k ≠ vd)) then [] else s.configOf v
    | none => [])

/-- 19 R332: the spare map with every unit that is retired, in the model's own serialisation (log entry 14). -/
def State.spareMap (s : State) : List Byte :=
  (List.range 64).flatMap (fun k => natBytes 2 (((s.clusterOf k).spare.map (· + 1)).getD 0) ++ natBytes 1 (if (s.clusterOf k).withdrawn then 1 else 0))
    ++ s.dies.toList.flatMap (fun d => natBytes 2 ((d.slice.map (· + 1)).getD 0) ++ natBytes 2 ((d.channel.map (· + 1)).getD 0)
      ++ d.retired.flatMap (fun u => natBytes 1 u.1 ++ natBytes 2 u.2) ++ d.rows.flatMap (natBytes 8) ++ d.wires.flatMap (natBytes 8) ++ d.srams.flatMap (natBytes 8))
    ++ s.links.toList.flatMap (fun l => natBytes 1 l.sparesUp ++ natBytes 1 l.sparesDown) ++ s.ports.toList.flatMap (fun p => natBytes 1 (if p.spare then 1 else 0)
      ++ natBytes 1 (if p.inService then 0 else 1))

def digestBytes (d : BitVec 512) : List Byte := natBytes 64 d.toNat

/-- R367: the seed of the device identity key: the first 32 bytes of SHA3-512 over the unclonable response and the sealed blob's secret. -/
def identitySeed : List Byte := (digestBytes (Config.sha3 (Config.pufResponse ++ Config.blobSecret))).take 32

/-- R367, R368: the 4,627 bytes of the ML-DSA-87 signature of a digest under the private key of the pair that the seed generates. -/
def identitySign (digest : BitVec 512) : List Byte := natBytes 4627 (Config.sign (Config.identityKey identitySeed).1 digest).toNat

/-- R368: bytes 0 to 247, and the signature. -/
def State.report_ (s : State) (operator : Bool) (vd : Nat) (nonce : List Byte) : List Byte :=
  let body := natBytes 8 (1 + if Config.form then 256 else 0) ++ nonce ++ digestBytes (s.control.firmware.getD 0)
    ++ digestBytes (Config.sha3 (s.configBytes operator vd)) ++ digestBytes (Config.sha3 s.spareMap) ++ natBytes 8 s.timeNs.toNat
    ++ natBytes 8 s.control.version
  body ++ identitySign (Config.sha3 body)

def State.attestation (c : MgmtCmd) (s : State) : State :=
  let b := c.bytes
  s.command c 5 .either (restZero b [(8, 32)]) true (fun v s => (0, s.report_ (s.isOperator c) v.num ((b.drop 8).take 32), s))

def execAttest (cmd : MgmtCmd) (s : State) : Out := stepOf (fun s => s.cmdTurn cmd (.attest cmd) (State.attestation cmd)) s

/-! ## VDCFG (19 R311, R312) -/

/-- The descriptor, as the command carries it from offset 8. -/
structure Descriptor where
  s2root : Nat
  s1root : Nat
  ipalim : Nat
  rect   : Nat
  gquota : Nat
  flags  : Nat
  slice  : Nat
  shared : Nat
  deriving DecidableEq, Repr

def Descriptor.of (b : List Byte) : Descriptor :=
  { s2root := recField b 8 8, s1root := recField b 16 8, ipalim := recField b 24 8, rect := recField b 32 2, gquota := recField b 36 1,
    flags := recField b 37 1, slice := recField b 40 4, shared := recField b 48 8 }

def Descriptor.x0 (d : Descriptor) : Nat := d.rect % 8
def Descriptor.y0 (d : Descriptor) : Nat := d.rect / 8 % 8
def Descriptor.w (d : Descriptor) : Nat := d.rect / 64 % 8 + 1
def Descriptor.h (d : Descriptor) : Nat := d.rect / 512 % 8 + 1

/-- 19 R310: a rectangle of clusters within one die, or a die rectangle. -/
def Descriptor.rectOk (d : Descriptor) : Bool :=
  decide (d.x0 + d.w ≤ 8 ∧ d.y0 + d.h ≤ 8)
    && (decide (d.x0 / 4 = (d.x0 + d.w - 1) / 4 ∧ d.y0 / 4 = (d.y0 + d.h - 1) / 4)
        || decide (d.x0 % 4 = 0 ∧ d.y0 % 4 = 0 ∧ d.w % 4 = 0 ∧ d.h % 4 = 0))

/-- R311: the ranges of the fields, and the zero fields (bytes 26, 30, 36 and 48 to 55 of the descriptor). -/
def Descriptor.ok (d : Descriptor) (b : List Byte) : Bool :=
  decide (d.s2root % 4096 = 0 ∧ d.s1root % 4096 = 0 ∧ d.ipalim % 65536 = 0 ∧ d.ipalim ≤ 2 ^ 52 ∧ d.rect < 4096 ∧ d.gquota ≤ 64
    ∧ d.flags < 4 ∧ d.shared < 2 ^ (d.w * d.h) ∧ recField b 34 2 = 0 ∧ recField b 38 2 = 0 ∧ recField b 44 4 = 0 ∧ recField b 56 8 = 0)
    && restZero b [(8, 56)] && d.rectOk

/-- A device that no VDCFG has named yet. -/
def VDev.fresh (n : Nat) : VDev :=
  { num := n, enabled := false, mgmt := false, s2root := 0, s1root := 0, ipalim := 0, x0 := 0, y0 := 0, width := 1, height := 1, gquota := 0,
    slice := 2000, shared := 0, cmd := [], windows := [], ringBase := 0, ringCount := 0, ringHead := 0, held := [], notifyTo := [],
    notifyN := 1, notifyT := 0, sinceN := 0, sinceAt := none, owed := false, mailHeld := false, mailIn := [], mailOut := [], pageReqs := [], faultQ := [],
    heldFaults := [], measure := .init, peers := [], debug := false, microVds := 0, discarded := 0, stray := 0 }

def Descriptor.apply (d : Descriptor) (cmd : List Byte) (v : VDev) : VDev :=
  { v with enabled := decide (d.flags % 2 = 1), mgmt := decide (d.flags / 2 % 2 = 1), s2root := BitVec.ofNat 64 d.s2root,
           s1root := BitVec.ofNat 64 d.s1root, ipalim := BitVec.ofNat 64 d.ipalim, x0 := d.x0, y0 := d.y0, width := d.w, height := d.h,
           gquota := d.gquota, slice := if d.slice = 0 then 2000 else d.slice, shared := BitVec.ofNat 64 d.shared, cmd := cmd }

/-- Whether a cluster is owned, not time-shared, by a device. -/
def VDev.owns (v : VDev) (cl : Nat) : Bool := v.holds cl && !v.shares cl

/-- R312: what makes the controller refuse a descriptor whose fields are in range. -/
def State.descriptorRefused (s : State) (vd : Nat) (d : Descriptor) : Bool :=
  let new := d.apply [] (VDev.fresh vd)
  (List.range 64).any (fun cl => new.holds cl && s.vds.any (fun v => decide (v.num ≠ vd) && v.owns cl))
    || (new.mgmt && s.vds.any (fun v => decide (v.num ≠ vd) && v.mgmt))
    || !isDram d.s2root || !s.backed d.s2root

/-- R312: a descriptor takes effect: a device that it disables stops first; changed roots drop the device's translations; a device
that it enables has its queues served. -/
def State.configureVd (vd : Nat) (d : Descriptor) (cmd : List Byte) (s : State) : State :=
  let old := (s.vd? vd).getD (VDev.fresh vd)
  let s1 := if old.enabled ∧ d.flags % 2 = 0 then s.disableVd vd else s
  let s2 : State := if (s1.vd? vd).isSome then s1 else { s1 with vds := s1.vds ++ [VDev.fresh vd] }
  let s3 := s2.mapVd vd (d.apply cmd)
  let moved := decide (old.s1root.toNat ≠ d.s1root ∨ old.s2root.toNat ≠ d.s2root)
  let s4 : State := if moved then { s3 with tlb := s3.tlb.filter (fun e => e.vd != vd), walks := s3.walks.filter (fun e => e.vd != vd) } else s3
  if d.flags % 2 = 1 then
    (List.range 4).foldl (fun s k =>
      let s1 := s.serve k
      if s1.waitingTasks k = [] then s1 else s1.dueOnce 0 (.readyPoolSow k)) s4
  else s4

/-- The command may name a device that is not listed yet. -/
def State.vdConfig (c : MgmtCmd) (s : State) : State :=
  let vd := recField c.bytes 1 1
  let d := Descriptor.of c.bytes
  let reply (k : Nat) (s : State) : State := s.answer 3 vd k []
  if ¬ s.control.ready then reply 1 s
  else if cmdBroken 6 (d.ok c.bytes) c ≠ 0 then reply (cmdBroken 6 (d.ok c.bytes) c) s
  else if ¬ s.isOperator c then reply 2 s
  else if s.descriptorRefused vd d then reply 5 s
  else reply 0 (s.configureVd vd d (cmdTail c))

def execVdcfg (cmd : MgmtCmd) (s : State) : Out := stepOf (fun s => s.cmdTurn cmd (.vdcfg cmd) (State.vdConfig cmd)) s

/-! ## FABBED, QUEUE, MAILBOX -/

/-- R363: an entry of the membership list. -/
def State.setPeer (c : MgmtCmd) (s : State) : State :=
  let b := c.bytes
  let ok := restZero b [(8, 2), (16, 16), (32, 1)] && decide (recField b 8 1 ≤ 31 ∧ recField b 9 1 ≤ 1 ∧ recField b 32 1 ≤ 63)
  s.command c 7 .operator ok false (fun v s =>
    let n := recField b 8 1
    let p : Peer := { idx := n, addr := addrField b 16, vd := recField b 32 1, cmd := cmdTail c, reachable := !s.control.lostPeers.contains (addrField b 16) }
    (0, [], s.mapVd v.num (fun v => { v with peers := v.peers.filter (fun q => q.idx != n) ++ (if recField b 9 1 = 1 then [p] else []) })))

def execFabbed (cmd : MgmtCmd) (s : State) : Out := stepOf (fun s => s.cmdTurn cmd (.fabbed cmd) (State.setPeer cmd)) s

/-- R358, 17 R280, 19 R313: a queue is assigned or unassigned; only the management device's carry PRIV 2; two queues of a device have
different numbers. -/
def State.assignQueue (c : MgmtCmd) (s : State) : State :=
  let b := c.bytes
  let n := recField b 8 2
  let ok := restZero b [(8, 2), (10, 1), (11, 1), (12, 2)]
    && decide (n ≤ 2047 ∧ recField b 10 1 ≤ 1 ∧ recField b 11 1 ≤ 2 ∧ recField b 12 2 ≤ 2047)
  s.command c 8 .operator ok false (fun v s =>
    let vnum := recField b 12 2
    let rest := s.queues.filter (fun q => q.num != n)
    if recField b 10 1 = 0 then (0, [], { s with queues := rest })
    else if (recField b 11 1 = 2 ∧ ¬ v.mgmt) ∨ rest.any (fun q => q.vd == v.num && q.vnum == vnum) then (5, [], s)
    else
      let msgs := ((s.queues.find? (fun q => q.num == n && q.vd == v.num)).map (·.msgs)).getD []
      let s1 : State := { s with queues := rest ++ [{ num := n, vd := v.num, vnum := vnum, priv := recField b 11 1, cmd := (b.drop 1).take 15, msgs := msgs }] }
      (0, [], s1.serve (n / 512)))

def execQueue (cmd : MgmtCmd) (s : State) : Out := stepOf (fun s => s.cmdTurn cmd (.queue cmd) (State.assignQueue cmd)) s

/-- R360: doublewords for the inbound mailbox; all of them, or none with code 4. -/
def State.fillMailbox (c : MgmtCmd) (s : State) : State :=
  let b := c.bytes
  let n := recField b 8 1
  let ok := restZero b [(8, 1), (16, 8 * n)] && decide (1 ≤ n ∧ n ≤ 6)
  s.command c 9 .owner ok true (fun v s =>
    if 64 < v.mailIn.length + n then (4, [], s)
    else (0, [], s.mapVd v.num (fun v => { v with mailIn := v.mailIn ++ bytesDwords n (b.drop 16) })))

def execMailbox (cmd : MgmtCmd) (s : State) : Out := stepOf (fun s => s.cmdTurn cmd (.mailbox cmd) (State.fillMailbox cmd)) s

/-! ## Ports (R353) -/

/-- A failed lane: the spare lane takes its place; without one the port runs at the remaining width until its drain point. -/
def State.failLane (port : Nat) (s : State) : State :=
  match s.ports[port]? with
  | none => s
  | some p =>
    if ¬ p.inService then s
    else if ¬ p.spare then s.mapPort port (fun p => { p with spare := true })
    else (s.mapPort port (fun p => { p with narrowed := true })).dueOnce (1000 * nsTicks) (.portOutOfService port)

def execPortLaneFailure (port : Nat) (s : State) : Out := stepOf (State.failLane port) s

/-- The drain point of a port: no operation is outstanding (log entry 26). -/
def State.removePort (port : Nat) (s : State) : State :=
  match s.ports[port]? with
  | none => s
  | some p =>
    if ¬ p.inService ∨ ¬ p.narrowed then s
    else if s.hostOps ≠ [] then s.dueOnce (1000 * nsTicks) (.portOutOfService port)
    else { s.mapPort port (fun p => { p with inService := false }) with outbox := s.outbox ++ [OutMsg.retired 3 (port / 2) port] }

def execPortOutOfService (port : Nat) (s : State) : Out := stepOf (State.removePort port) s

end Sys2Proof.Machine
end

