-- ==== Sys2Proof/Machine/Physical.lean ====
section
/-!
DEFINITION. Sys2Proof/Machine/Physical.lean: bring-up (23 R371, R372, R376), the verification of firmware (22 R366), power capping
and temperature (23 R373, R374), and the sideband with its status register (23 R375).
-/

namespace Sys2Proof.Machine

/-! ## Bring-up (R376) -/

/-- 22 R366: the three checks of an image. -/
def Control.verifies (c : Control) (i : FirmwareImage) : Bool := i.keyOk && i.signedOk && decide (c.minVersion ≤ i.version)

/-- 19 R332: a bring-up swaps the crossbar wires and SRAM rows of a die that it finds worn, as free values say (log entry 57). -/
def State.swapWorn (s : State) (die : Nat) : State :=
  let (k, s1) := s.draw
  let (j, s2) := s1.draw
  let add (n : Nat) (l : List Nat) : List Nat := if Config.swapAtBringUp n then setInsert l (Config.agentChoice n) else l
  s2.mapDie die (fun d => { d with wires := add k d.wires, srams := add j d.srams })

/-- A worn unit of a die takes its spare; without one it is retired, and the operator hears of it (19 R332). -/
def State.repairUnit (kind die unit : Nat) (s : State) : State :=
  let d := s.dieUnits die
  if kind = 1 ∧ d.slice.isNone then s.mapDie die (fun d => { d with slice := some unit })
  else if kind = 2 ∧ d.channel.isNone then s.mapDie die (fun d => { d with channel := some unit })
  else { s.mapDie die (fun d => { d with retired := d.retired ++ [(kind, unit)] }) with outbox := s.outbox ++ [OutMsg.retired kind die unit] }

/-- Step 4: the test of a die: a slice, a channel or a DRAM row that is worn, as free values say (log entry 57), is repaired or retired. -/
def State.testDie (s : State) (die : Nat) : State :=
  let test (fix : Nat → State → State) (s : State) : State :=
    let (k, s1) := s.draw
    if Config.testFails k then fix (Config.agentChoice k) s1 else s1
  test (fun row s => s.mapDie die (fun d => { d with rows := setInsert d.rows row }))
    (test (fun u s => s.repairUnit 2 die (u % 32)) (test (fun u s => s.repairUnit 1 die (u % 32)) s))

/-- Step 5: the spare map is checked against the sealed blob; where the check fails, a worn unit has no spare any more, and is retired (log
entry 57). -/
def State.checkMap (s : State) : State :=
  let (k, s1) := s.draw
  if Config.mapIntact k then s1
  else (List.range 4).foldl (fun s die =>
    let d := s.dieUnits die
    let gone := (d.slice.map (fun u => (1, u))).toList ++ (d.channel.map (fun u => (2, u))).toList
    { s.mapDie die (fun d => { d with slice := none, channel := none, retired := d.retired ++ gone }) with
      outbox := s.outbox ++ gone.map (fun u => OutMsg.retired u.1 die u.2) }) s1

/-- Step 6: each link trains, then each port, as free values say (log entry 57); a link that does not is lost, a port that does not, or that has
not its full lanes, is left out. -/
def State.trainLink (s : State) (k : Nat) : State :=
  let (j, s1) := s.draw
  s1.mapLink k (fun l => { l with lost := !Config.trains j })

def State.trainPort (s : State) (k : Nat) : State :=
  let (j, s1) := s.draw
  s1.mapPort k (fun p => { p with inService := Config.trains j && !p.narrowed, mac := Config.portMac k })

def State.train (s : State) : State := (List.range 8).foldl State.trainPort ((List.range 6).foldl State.trainLink s)

/-- Steps 4 to 7: test and repair, the spare map, the links and ports; the management virtual device, whose number is a free value
(log entry 3), is enabled over no cluster (log entry 1); READY is set.  A lost link is fatal. -/
def State.bringUpEnd (i : FirmwareImage) (s : State) : State :=
  let s1 := ((List.range 4).foldl State.testDie ((List.range 4).foldl State.swapWorn s)).checkMap.train
  let s2 : State := { s1 with control := { s1.control with
    nofw := false, image := some i, firmware := some (Config.sha3 (i.body ++ i.signature)), version := i.version, address := Config.fabricAddress } }
  if s2.links.toList.any (·.lost) then s2.dueOnce 0 (.fatalError 1)
  else
    let (k, s3) := s2.draw
    { s3 with vds := [{ VDev.fresh (Config.agentChoice k % 64) with enabled := true, mgmt := true, width := 0, height := 0 }],
              control := { s3.control with ready := true } }

/-- Step 1: the rails come up one after another, each as a free value says (log entry 7), up to the first that fails. -/
def State.raiseRails : List Rail → State → State
  | [], s => s
  | r :: rest, s =>
    let (k, s1) := s.draw
    if Config.railsUp k then State.raiseRails rest { s1 with control := s1.control.railUp r } else s1

/-- Steps 1 to 3: where a rail or the clocks fail (log entry 7) the rails go down in the reverse order, with ALARM; the timer starts at 0; an
image that verifies runs; else NOFW, and the controller waits for one. -/
def State.bringUp (s : State) : State :=
  let s0 := State.raiseRails railOrder s
  let (k, s1) := s0.draw
  if ¬ s1.control.railsOn ∨ ¬ Config.railsUp k then { s1 with control := { s1.control.railsDown with alarm := true } }
  else match s1.control.image with
    | some i => if s1.control.verifies i then s1.bringUpEnd i else { s1 with control := { s1.control with nofw := true } }
    | none => { s1 with control := { s1.control with nofw := true } }

/-- The spare map of a cluster stays; a withdrawn cluster stays offline. -/
def Cluster.mapped (c : Cluster) : Cluster :=
  { id := c.id, state := if c.withdrawn then .offline else .online, spare := c.spare, withdrawn := c.withdrawn, context := none,
    incoming := none, sliceAt := 0, drainedAt := 0, debts := [] }

/-- R375, 19 R332: every field returns to its reset value; the sealed blob, the image and the spare map, which lie outside the
package, stay, and what has left the package. -/
def State.cold (s : State) : State :=
  { State.reset with
    agenda := [], free := s.free, outbox := s.outbox, clusters := s.clusters.map Cluster.mapped,
    dies := s.dies.map (fun d => { DieUnits.init with slice := d.slice, channel := d.channel, rows := d.rows, wires := d.wires, srams := d.srams, retired := d.retired }),
    links := s.links.map (fun l => { fails := 0, replays := 0, sparesUp := l.sparesUp, sparesDown := l.sparesDown, retrain := false,
                                     lost := l.lost, flitsUp := [], flitsDown := [] }),
    ports := s.ports,
    control := { Control.init with minVersion := s.control.minVersion, image := s.control.image } }

/-- Power-on: VAUX first comes up; every field, the RWS ones among them, takes its reset value (00 R8). -/
def State.startPower (s : State) : State := s.cold.bringUp

def execPowerOn (s : State) : Out := stepOf State.startPower s

/-- R375: a cold reset: FATAL, an RWS field, keeps its value. -/
def State.startCold (s : State) : State :=
  let s1 := s.cold
  ({ s1 with control := { s1.control with fatal := s.control.fatal } } : State).bringUp

def execColdReset (s : State) : Out := stepOf State.startCold s

/-- R366, R375: the sideband carries an image only while none has passed verification; one that fails any check never runs. -/
def State.takeImage (i : FirmwareImage) (s : State) : State :=
  if ¬ s.control.railsOn ∨ ¬ s.control.nofw ∨ ¬ s.control.verifies i then s else s.bringUpEnd i

/-- R366: a running firmware verifies its successor, which the next bring-up runs; only then it raises the minimum version in the sealed blob, to
what it is told; it never lowers it (log entry 32). -/
def State.takeSuccessor (i : FirmwareImage) (least : Nat) (s : State) : State :=
  if ¬ s.control.ready ∨ s.control.stopped ∨ ¬ s.control.verifies i then s
  else { s with control := { s.control with image := some i, minVersion := Nat.max s.control.minVersion least } }

/-- R375, 00 R8: a write to the status register: ALARM is W1C, FATAL is RWS, the other fields are RO. -/
def Control.writeStatus (x : W32) (c : Control) : Control := { c with alarm := c.alarm && !bit x 4, fatal := bit x 3 }

/-- What comes over the sideband. -/
def State.sideband (m : Sideband) (s : State) : State :=
  match m with
  | .image i => s.takeImage i
  | .successor i least => s.takeSuccessor i least
  | .status x => { s with control := s.control.writeStatus x }

def execFirmwareImageTransfer (image : Sideband) (s : State) : Out := stepOf (State.sideband image) s

/-! ## Power and temperature (R373, R374) -/

/-- The level that governs: the higher of R373's and R374's. -/
def Control.level (c : Control) : Nat := if c.hot then Nat.max c.thr 12 else c.thr

def msOfTicks : Nat := 1000000 * nsTicks

/-- R373: a sample each 10 µs; a hundred of them are 1 ms. -/
def State.samplePower (watts : Nat) (s : State) : State :=
  let l := (s.control.overLimit ++ [watts])
  { s with control := { s.control with pwr := BitVec.ofNat 12 (Nat.min watts 4095), overLimit := l.drop (l.length - 100) } }.dueOnce
    msOfTicks .throttleStep

def execPowerSample (watts : Nat) (s : State) : Out := stepOf (State.samplePower watts) s

/-- R373: up while the average of 1 ms is over the limit, down once it is 5 % below; samples that are still to come count as 0. -/
def State.throttle (s : State) : State :=
  let c := s.control
  let sum := c.overLimit.sum
  let thr := if Config.powerLimit * 100 < sum then Nat.min (c.thr + 1) 15 else if sum ≤ Config.powerLimit * 95 then c.thr - 1 else c.thr
  let s1 : State := { s with control := { c with thr := thr } }
  if thr = 0 ∧ sum ≤ Config.powerLimit * 100 then s1 else s1.dueOnce msOfTicks .throttleStep

def execThrottleStep (s : State) : Out := stepOf State.throttle s

/-- R374: the hottest sensor: 105 °C holds the level at 12 or more; 115 °C trips: the alarm, the stop, the rails down, no dump. -/
def State.sampleHeat (celsius : Nat) (s : State) : State :=
  let s1 : State := { s with control := { s.control with temp := BitVec.ofNat 8 (Nat.min celsius 255), hot := decide (105 ≤ celsius) } }
  if celsius < 115 ∨ ¬ s.control.railsOn then s1
  else
    let s2 := s1.stopAll
    { s2 with control := { s2.control.railsDown with alarm := true, ready := false }, outbox := s2.outbox ++ [OutMsg.alarm] }

def execThermalSample (celsius : Nat) (s : State) : Out := stepOf (State.sampleHeat celsius) s

/-! ## The sideband's status register (R375) -/

/-- The 32 bits of the register. -/
def Control.status (c : Control) : W32 :=
  c.temp ++ BitVec.ofNat 4 c.level ++ c.pwr ++ (0#3) ++ BitVec.ofBool c.alarm ++ BitVec.ofBool c.fatal ++ BitVec.ofBool c.nofw
    ++ BitVec.ofBool Config.form ++ BitVec.ofBool c.ready

/-- The board controller clears ALARM, which is W1C: a write that leaves FATAL as it is. -/
def execAlarmClear (s : State) : Out :=
  stepOf (fun s => { s with control := s.control.writeStatus (0x10 + if s.control.fatal then 8 else 0) }) s

/-- It clears FATAL, which is RWS, by a write of 0. -/
def execFatalClear (s : State) : Out := stepOf (fun s => { s with control := s.control.writeStatus 0 }) s

end Sys2Proof.Machine
end

