-- ==== Sys2Proof/Machine/PortSteps.lean ====
section
/-!
DEFINITION. Sys2Proof/Machine/PortSteps.lean: what a read or a write of a queue port does inside an instruction (01 R14; 19 R322,
R323, R329; 21 R347; 22 R360).

An instruction that names a port as a source pops it when it issues and one that names it as a destination pushes it; these
are those two effects alone: the PC stays.
-/

namespace Sys2Proof.Machine

/-- 01 R14, R33: PRIVILEGED below PRIV 1; the strand waits with reason 7 while the port is empty or full. -/
def portStep (ready : State → Bool) (eff : State → State) (s : State) : Out :=
  if s.me.run ≠ .running then .fault .noStrand
  else if s.me.priv = 0 then .next (s.takeTrap (s.trapAll .privileged ((s.me.fetched.getD 0).setWidth 64) 0))
  else if ready s then .next (eff s).writeGraftLog
  else .next (s.waits 7)

/-- The head of port p leaves and S[d] takes it. -/
def portRead (p : Nat) (d : BitVec 6) (s : State) : Out :=
  portStep (fun s => (s.portHead p).isSome) (fun s =>
    (((s.portPop p).setS d ((s.portHead p).getD 0)).mapMe (fun t =>
      t.pend { word := 0, use := { sr := [BitVec.ofNat 6 p], sw := [d] }, lat := 4, fixed := false } s.now s.me))) s

/-- S[a] is pushed to port p. -/
def portWrite (p : Nat) (a : BitVec 6) (s : State) : Out :=
  portStep (fun s => s.portRoom p) (fun s => s.portPush p (s.sreg a)) s

def execQpageRead (d : BitVec 6) (s : State) : Out := portRead 56 d s
def execQfaultRead (d : BitVec 6) (s : State) : Out := portRead 57 d s
def execQeventRead (d : BitVec 6) (s : State) : Out := portRead 58 d s
def execQmgmtRead (d : BitVec 6) (s : State) : Out := portRead 59 d s
def execQpageWrite (a : BitVec 6) (s : State) : Out := portWrite 56 a s
def execQeventWrite (a : BitVec 6) (s : State) : Out := portWrite 58 a s
def execQmgmtWrite (a : BitVec 6) (s : State) : Out := portWrite 59 a s

end Sys2Proof.Machine
end

