-- ==== Sys2Proof/Machine/VectorFp.lean ====
section
/-!
DEFINITION. Sys2Proof/Machine/VectorFp.lean: FP32 members and conversions (04 R83, R89 to R95).
-/

namespace Sys2Proof.Machine

/-! ## Fused multiply-add (R83) -/

def execVfma (d a b c : BitVec 6) (s : State) : Out := v4Op (assemble 0x6C000000 [(d.toNat, 18), (a.toNat, 12), (b.toNat, 6), (c.toNat, 0)]) d a b c 6 (fun s => fFma s.mode) s

def execVfms (d a b c : BitVec 6) (s : State) : Out := v4Op (assemble 0x6D000000 [(d.toNat, 18), (a.toNat, 12), (b.toNat, 6), (c.toNat, 0)]) d a b c 6 (fun s => fFms s.mode) s

def execVfnma (d a b c : BitVec 6) (s : State) : Out := v4Op (assemble 0x6E000000 [(d.toNat, 18), (a.toNat, 12), (b.toNat, 6), (c.toNat, 0)]) d a b c 6 (fun s => fFnma s.mode) s

/-! ## Major 0x20 (R89 to R91) -/

def fp2Op (word : W32) (d a b : BitVec 7) (k : BitVec 1) (op : State → W32 → W32 → W32) (s : State) : Out :=
  laneOp (vecForm word [a, b] [d] 6 (kOk k [a, b]) k) d (fun s L =>
    op s (Vec.lane (s.vreg a) L) (Vec.lane (s.vreg b) L)) s

def fp1Op (word : W32) (d a : BitVec 7) (k : BitVec 1) (lat : Nat) (op : State → W32 → W32) (s : State) : Out :=
  laneOp (vecForm word [a] [d] lat (kOk k [a]) k) d (fun s L => op s (Vec.lane (s.vreg a) L)) s

def execVfadd (d a b : BitVec 7) (k : BitVec 1) (s : State) : Out := fp2Op (assemble 0x80000000 [(d.toNat, 15), (a.toNat, 8), (b.toNat, 1), (k.toNat, 0)]) d a b k (fun s => fAdd s.mode) s

def execVfsub (d a b : BitVec 7) (k : BitVec 1) (s : State) : Out := fp2Op (assemble 0x80400000 [(d.toNat, 15), (a.toNat, 8), (b.toNat, 1), (k.toNat, 0)]) d a b k (fun s => fSub s.mode) s

def execVfmul (d a b : BitVec 7) (k : BitVec 1) (s : State) : Out := fp2Op (assemble 0x80800000 [(d.toNat, 15), (a.toNat, 8), (b.toNat, 1), (k.toNat, 0)]) d a b k (fun s => fMul s.mode) s

def execVfmin (d a b : BitVec 7) (k : BitVec 1) (s : State) : Out := fp2Op (assemble 0x80C00000 [(d.toNat, 15), (a.toNat, 8), (b.toNat, 1), (k.toNat, 0)]) d a b k (fun _ => fMin) s

def execVfmax (d a b : BitVec 7) (k : BitVec 1) (s : State) : Out := fp2Op (assemble 0x81000000 [(d.toNat, 15), (a.toNat, 8), (b.toNat, 1), (k.toNat, 0)]) d a b k (fun _ => fMax) s

def execVfscale (d a b : BitVec 7) (k : BitVec 1) (s : State) : Out := fp2Op (assemble 0x83800000 [(d.toNat, 15), (a.toNat, 8), (b.toNat, 1), (k.toNat, 0)]) d a b k (fun s => fScale s.mode) s

def execVfabs (d a : BitVec 7) (k : BitVec 1) (s : State) : Out := fp1Op (assemble 0x81400000 [(d.toNat, 15), (a.toNat, 8), (k.toNat, 0)]) d a k 6 (fun _ => fAbs) s

def execVfneg (d a : BitVec 7) (k : BitVec 1) (s : State) : Out := fp1Op (assemble 0x81800000 [(d.toNat, 15), (a.toNat, 8), (k.toNat, 0)]) d a k 6 (fun _ => fNeg) s

def execVfclass (d a : BitVec 7) (k : BitVec 1) (s : State) : Out := fp1Op (assemble 0x83C00000 [(d.toNat, 15), (a.toNat, 8), (k.toNat, 0)]) d a k 6 (fun _ => fClass) s

def execVfrcp (d a : BitVec 7) (k : BitVec 1) (s : State) : Out := fp1Op (assemble 0x81C00000 [(d.toNat, 15), (a.toNat, 8), (k.toNat, 0)]) d a k 12 (fun _ => fRcp) s

def execVfrsq (d a : BitVec 7) (k : BitVec 1) (s : State) : Out := fp1Op (assemble 0x82000000 [(d.toNat, 15), (a.toNat, 8), (k.toNat, 0)]) d a k 12 (fun _ => fRsq) s

def execVfsqrt (d a : BitVec 7) (k : BitVec 1) (s : State) : Out := fp1Op (assemble 0x82400000 [(d.toNat, 15), (a.toNat, 8), (k.toNat, 0)]) d a k 12 (fun s => fSqrt s.mode) s

def execVfexp2 (d a : BitVec 7) (k : BitVec 1) (s : State) : Out := fp1Op (assemble 0x82800000 [(d.toNat, 15), (a.toNat, 8), (k.toNat, 0)]) d a k 12 (fun _ => fExp2) s

def execVflog2 (d a : BitVec 7) (k : BitVec 1) (s : State) : Out := fp1Op (assemble 0x82C00000 [(d.toNat, 15), (a.toNat, 8), (k.toNat, 0)]) d a k 12 (fun _ => fLog2) s

def execVfsin (d a : BitVec 7) (k : BitVec 1) (s : State) : Out := fp1Op (assemble 0x83000000 [(d.toNat, 15), (a.toNat, 8), (k.toNat, 0)]) d a k 12 (fun _ => fSin) s

def execVfcos (d a : BitVec 7) (k : BitVec 1) (s : State) : Out := fp1Op (assemble 0x83400000 [(d.toNat, 15), (a.toNat, 8), (k.toNat, 0)]) d a k 12 (fun _ => fCos) s

/-! ## Compare (R92) -/

def execVfcmp (c m : BitVec 3) (a b : BitVec 7) (s : State) : Out :=
  compareOp { word := (assemble 0x84000000 [(c.toNat, 23), (m.toNat, 20), (a.toNat, 13), (b.toNat, 6)]), ok := decide (c.toNat ≤ 4), lat := 6, vector := true, use := { vr := [a, b], mw := [m] } } m
    (fun s L => fCond c (Vec.lane (s.vreg a) L) (Vec.lane (s.vreg b) L)) s

/-! ## Conversions (R93 to R95) -/

def rmOk (r : BitVec 3) : Bool := decide (r.toNat ≤ 5)

/-- R93, R94: the rounding of lane L and source element x: the rm field, SR, or M for DYN. -/
def State.rounding (s : State) (r : BitVec 3) (L : Nat) (x : W32) : Rounding :=
  if r.toNat ≤ 3 then .mode (Rnd.ofCode r.toNat)
  else if r = 4 then .sr (srValue s.me.wid L x)
  else .mode s.mode

/-- A conversion of one element. -/
def cvtOp (word : W32) (d a : BitVec 7) (r : BitVec 3) (f : Rounding → W32 → W32) (s : State) : Out :=
  laneOp (vecForm word [a] [d] 6 (rmOk r)) d (fun s L =>
    f (s.rounding r L (Vec.lane (s.vreg a) L)) (Vec.lane (s.vreg a) L)) s

def execVcvtF32I32 (d a : BitVec 7) (r : BitVec 3) (s : State) : Out :=
  cvtOp (assemble 0x88000000 [(d.toNat, 14), (a.toNat, 7), (r.toNat, 1)]) d a r (fun m x => toF32 m (FVal.ofInt x.toInt)) s

def execVcvtI32F32 (d a : BitVec 7) (r : BitVec 3) (s : State) : Out :=
  cvtOp (assemble 0x88200000 [(d.toNat, 14), (a.toNat, 7), (r.toNat, 1)]) d a r (fun m x => BitVec.ofInt 32 ((f32 x).toInt m (-(2 ^ 31 : Nat)) (2 ^ 31 - 1 : Nat))) s

def execVcvtF32N32 (d a : BitVec 7) (r : BitVec 3) (s : State) : Out :=
  cvtOp (assemble 0x88400000 [(d.toNat, 14), (a.toNat, 7), (r.toNat, 1)]) d a r (fun m x => toF32 m (FVal.ofInt x.toNat)) s

def execVcvtN32F32 (d a : BitVec 7) (r : BitVec 3) (s : State) : Out :=
  cvtOp (assemble 0x88600000 [(d.toNat, 14), (a.toNat, 7), (r.toNat, 1)]) d a r (fun m x => BitVec.ofInt 32 ((f32 x).toInt m 0 (2 ^ 32 - 1 : Nat))) s

def execVcvtRint (d a : BitVec 7) (r : BitVec 3) (s : State) : Out :=
  cvtOp (assemble 0x89400000 [(d.toNat, 14), (a.toNat, 7), (r.toNat, 1)]) d a r (fun m x => toF32 rne ((f32 x).rint m)) s

/-- R93: va names a register, and va + 1 is bound by the budget. -/
def packForm (word : W32) (d a : BitVec 7) (r : BitVec 3) : Form :=
  { vecForm word (if a.toNat < 63 then [a, a + 1] else [a]) [d] 6 (rmOk r && !isChan a) with units := decide (a.toNat < 63) }

/-- Two FP32 elements packed as halves; each uses its own element for SR (R94). -/
def packOp (word : W32) (d a : BitVec 7) (r : BitVec 3) (t : Ieee) (s : State) : Out :=
  laneOp (packForm word d a r) d (fun s L =>
    let x := Vec.lane (s.vreg a) L
    let y := Vec.lane (s.vreg (a + 1)) L
    BitVec.ofNat 32 (t.encode (s.rounding r L x) (f32 x) + 2 ^ 16 * t.encode (s.rounding r L y) (f32 y))) s

def execVcvtBf16F32 (d a : BitVec 7) (r : BitVec 3) (s : State) : Out := packOp (assemble 0x88800000 [(d.toNat, 14), (a.toNat, 7), (r.toNat, 1)]) d a r bf16 s
def execVcvtF16F32 (d a : BitVec 7) (r : BitVec 3) (s : State) : Out := packOp (assemble 0x88C00000 [(d.toNat, 14), (a.toNat, 7), (r.toNat, 1)]) d a r fp16 s

/-- The exact FP32 of a half. -/
def widenOp (word : W32) (d a : BitVec 7) (h : BitVec 1) (t : Ieee) (s : State) : Out :=
  laneOp (vecForm word [a] [d] 6) d (fun s L =>
    let x := (Vec.lane (s.vreg a) L).toNat
    toF32 rne (t.decode (if h = 1 then x / 2 ^ 16 else x % 2 ^ 16))) s

def execVcvtF32Bf16 (d a : BitVec 7) (h : BitVec 1) (s : State) : Out := widenOp (assemble 0x88A00000 [(d.toNat, 14), (a.toNat, 7), (h.toNat, 4)]) d a h bf16 s
def execVcvtF32F16 (d a : BitVec 7) (h : BitVec 1) (s : State) : Out := widenOp (assemble 0x88E00000 [(d.toNat, 14), (a.toNat, 7), (h.toNat, 4)]) d a h fp16 s

/-- FMT[i] (R95). -/
def State.fmt (s : State) (f : BitVec 3) : BitVec 16 := s.me.fmt[f.toNat]?.getD 0

/-- R78, R95: an invalid format traps FORMAT with TVAL = f, before any channel is popped. -/
def narrowOp (word : W32) (d a : BitVec 7) (f r : BitVec 3) (g : Narrow → Rounding → W32 → W32) (s : State) : Out :=
  issue { vecForm word [a] [d] 6 (rmOk r) with badFmt := if formatOk (s.fmt f) then none else some ((s.fmt f).setWidth 64) } (fun s =>
    if formatOk (s.fmt f) then
      s.putLanes d (Vec.tab (fun L =>
        g (Narrow.of (s.fmt f)) (s.rounding r L (Vec.lane (s.vreg a) L)) (Vec.lane (s.vreg a) L)))
    else .trap (s.trapAll .format ((s.fmt f).setWidth 64) 0) s) s

def execVcvtNfF32 (d a : BitVec 7) (f r : BitVec 3) (s : State) : Out :=
  narrowOp (assemble 0x89000000 [(d.toNat, 14), (a.toNat, 7), (f.toNat, 4), (r.toNat, 1)]) d a f r (fun n m x => BitVec.ofNat 32 (n.encode m (f32 x))) s

def execVcvtF32Nf (d a : BitVec 7) (f r : BitVec 3) (s : State) : Out :=
  narrowOp (assemble 0x89200000 [(d.toNat, 14), (a.toNat, 7), (f.toNat, 4), (r.toNat, 1)]) d a f r (fun n m x => toF32 m (n.decode x.toNat)) s

end Sys2Proof.Machine
end

