-- ==== Sys2Proof/Machine/Dispatch.lean ====
section
/-!
DEFINITION. Sys2Proof/Machine/Dispatch.lean: one arm for every row of spec/opcode_table.json.
-/

namespace Sys2Proof.Machine

def exec (i : Instr) (s : State) : Host.Outcome State Fault Refusal :=
  match i with
  | .qpageRead d => Sys2Proof.Machine.execQpageRead d s
  | .qpageWrite a => Sys2Proof.Machine.execQpageWrite a s
  | .qfaultRead d => Sys2Proof.Machine.execQfaultRead d s
  | .qeventWrite a => Sys2Proof.Machine.execQeventWrite a s
  | .qeventRead d => Sys2Proof.Machine.execQeventRead d s
  | .qmgmtRead d => Sys2Proof.Machine.execQmgmtRead d s
  | .qmgmtWrite a => Sys2Proof.Machine.execQmgmtWrite a s
  | .fetchLineFill strand => Sys2Proof.Machine.execFetchLineFill strand s
  | .memoryReply strand => Sys2Proof.Machine.execMemoryReply strand s
  | .atomicReply strand => Sys2Proof.Machine.execAtomicReply strand s
  | .storeAcknowledge strand => Sys2Proof.Machine.execStoreAcknowledge strand s
  | .pageRequest agent => Sys2Proof.Machine.execPageRequest agent s
  | .translationWalk agent => Sys2Proof.Machine.execTranslationWalk agent s
  | .sleepTimeout strand => Sys2Proof.Machine.execSleepTimeout strand s
  | .yieldEnd strand => Sys2Proof.Machine.execYieldEnd strand s
  | .maskStackRefill strand => Sys2Proof.Machine.execMaskStackRefill strand s
  | .pcMatch strand => Sys2Proof.Machine.execPcMatch strand s
  | .trayReserve op => Sys2Proof.Machine.execTrayReserve op s
  | .copyChunkLand op => Sys2Proof.Machine.execCopyChunkLand op s
  | .copyComplete op => Sys2Proof.Machine.execCopyComplete op s
  | .gangRendezvous block => Sys2Proof.Machine.execGangRendezvous block s
  | .matrixOpStart op => Sys2Proof.Machine.execMatrixOpStart op s
  | .matrixSlotStream op => Sys2Proof.Machine.execMatrixSlotStream op s
  | .partialArrival op row col t => Sys2Proof.Machine.execPartialArrival op row col t s
  | .columnDrain op col => Sys2Proof.Machine.execColumnDrain op col s
  | .matrixOpComplete op => Sys2Proof.Machine.execMatrixOpComplete op s
  | .blockBarrierTimeout block b => Sys2Proof.Machine.execBlockBarrierTimeout block b s
  | .clusterBarrierTimeout group => Sys2Proof.Machine.execClusterBarrierTimeout group s
  | .faultRecordPush vd => Sys2Proof.Machine.execFaultRecordPush vd s
  | .blockComplete block => Sys2Proof.Machine.execBlockComplete block s
  | .evictionRequest block => Sys2Proof.Machine.execEvictionRequest block s
  | .draining block => Sys2Proof.Machine.execDraining block s
  | .saving block => Sys2Proof.Machine.execSaving block s
  | .evicted block => Sys2Proof.Machine.execEvicted block s
  | .restoring block => Sys2Proof.Machine.execRestoring block s
  | .running block => Sys2Proof.Machine.execRunning block s
  | .maskoverrun strand => Sys2Proof.Machine.execMaskoverrun strand s
  | .peerLocalAccess core => Sys2Proof.Machine.execPeerLocalAccess core s
  | .spareSwap cluster core => Sys2Proof.Machine.execSpareSwap cluster core s
  | .clusterReset cluster => Sys2Proof.Machine.execClusterReset cluster s
  | .reassemblyTimeout cluster packet => Sys2Proof.Machine.execReassemblyTimeout cluster packet s
  | .containmentHandshake cluster => Sys2Proof.Machine.execContainmentHandshake cluster s
  | .drainAndRebuild cluster => Sys2Proof.Machine.execDrainAndRebuild cluster s
  | .issueResume cluster => Sys2Proof.Machine.execIssueResume cluster s
  | .sowAtNode op => Sys2Proof.Machine.execSowAtNode op s
  | .readinessReport node bed => Sys2Proof.Machine.execReadinessReport node bed s
  | .sowSend op => Sys2Proof.Machine.execSowSend op s
  | .homeRead pa use free => Sys2Proof.Machine.execHomeRead pa use free s
  | .homeWrite core line => Sys2Proof.Machine.execHomeWrite core line s
  | .atomicPerform strand => Sys2Proof.Machine.execAtomicPerform strand s
  | .dramReadComplete line => Sys2Proof.Machine.execDramReadComplete line s
  | .writeBackSequence line => Sys2Proof.Machine.execWriteBackSequence line s
  | .transducerRun line encode => Sys2Proof.Machine.execTransducerRun line encode s
  | .budget => Sys2Proof.Machine.execBudget s
  | .gconvBlock op => Sys2Proof.Machine.execGconvBlock op s
  | .carveChange die steps => Sys2Proof.Machine.execCarveChange die steps s
  | .sliceSwap die unit => Sys2Proof.Machine.execSliceSwap die unit s
  | .channelSwap die unit => Sys2Proof.Machine.execChannelSwap die unit s
  | .channelCopyEnd die => Sys2Proof.Machine.execChannelCopyEnd die s
  | .rowRepair die row => Sys2Proof.Machine.execRowRepair die row s
  | .patrolScrub sector found => Sys2Proof.Machine.execPatrolScrub sector found s
  | .linkReplay link => Sys2Proof.Machine.execLinkReplay link s
  | .linkAckTimeout link => Sys2Proof.Machine.execLinkAckTimeout link s
  | .linkRetrain link laneFailed => Sys2Proof.Machine.execLinkRetrain link laneFailed s
  | .fatalError cause => Sys2Proof.Machine.execFatalError cause s
  | .workQueueMessage op => Sys2Proof.Machine.execWorkQueueMessage op s
  | .schedulerTake queue => Sys2Proof.Machine.execSchedulerTake queue s
  | .readyPoolSow die => Sys2Proof.Machine.execReadyPoolSow die s
  | .flushTimeout die node => Sys2Proof.Machine.execFlushTimeout die node s
  | .nodeComplete die node => Sys2Proof.Machine.execNodeComplete die node s
  | .completionRecord vd => Sys2Proof.Machine.execCompletionRecord vd s
  | .notification vd => Sys2Proof.Machine.execNotification vd s
  | .aging die => Sys2Proof.Machine.execAging die s
  | .sliceEnd cluster => Sys2Proof.Machine.execSliceEnd cluster s
  | .preEmption die => Sys2Proof.Machine.execPreEmption die s
  | .sample core => Sys2Proof.Machine.execSample core s
  | .counterSnapshot vd => Sys2Proof.Machine.execCounterSnapshot vd s
  | .debugStop block => Sys2Proof.Machine.execDebugStop block s
  | .debugContinue block => Sys2Proof.Machine.execDebugContinue block s
  | .debugStep strand => Sys2Proof.Machine.execDebugStep strand s
  | .debugStateAccess strand access => Sys2Proof.Machine.execDebugStateAccess strand access s
  | .windowWrite op => Sys2Proof.Machine.execWindowWrite op s
  | .windowRead op => Sys2Proof.Machine.execWindowRead op s
  | .window cmd => Sys2Proof.Machine.execWindow cmd s
  | .ring cmd => Sys2Proof.Machine.execRing cmd s
  | .notify cmd => Sys2Proof.Machine.execNotify cmd s
  | .debug cmd => Sys2Proof.Machine.execDebug cmd s
  | .attest cmd => Sys2Proof.Machine.execAttest cmd s
  | .vdcfg cmd => Sys2Proof.Machine.execVdcfg cmd s
  | .fabbed cmd => Sys2Proof.Machine.execFabbed cmd s
  | .queue cmd => Sys2Proof.Machine.execQueue cmd s
  | .mailbox cmd => Sys2Proof.Machine.execMailbox cmd s
  | .fabricReadinessReport peer bed count => Sys2Proof.Machine.execFabricReadinessReport peer bed count s
  | .peerUnreachable addr => Sys2Proof.Machine.execPeerUnreachable addr s
  | .portLaneFailure port => Sys2Proof.Machine.execPortLaneFailure port s
  | .portOutOfService port => Sys2Proof.Machine.execPortOutOfService port s
  | .powerOn => Sys2Proof.Machine.execPowerOn s
  | .coldReset => Sys2Proof.Machine.execColdReset s
  | .firmwareImageTransfer image => Sys2Proof.Machine.execFirmwareImageTransfer image s
  | .powerSample watts => Sys2Proof.Machine.execPowerSample watts s
  | .throttleStep => Sys2Proof.Machine.execThrottleStep s
  | .thermalSample celsius => Sys2Proof.Machine.execThermalSample celsius s
  | .alarmClear => Sys2Proof.Machine.execAlarmClear s
  | .fatalClear => Sys2Proof.Machine.execFatalClear s
  | .unallocatedEncoding w => Sys2Proof.Machine.execUnallocatedEncoding w s
  | .linkRetrainComplete link => Sys2Proof.Machine.execLinkRetrainComplete link s
  | .peerReachable addr => Sys2Proof.Machine.execPeerReachable addr s
  | .bedRegistration root vd bed => Sys2Proof.Machine.execBedRegistration root vd bed s
  | .clusterBackOnline cluster => Sys2Proof.Machine.execClusterBackOnline cluster s
  | .xdGetb d => Sys2Proof.Machine.execXdGetb d s
  | .xdPeekb d k => Sys2Proof.Machine.execXdPeekb d k s
  | .xdPutb a => Sys2Proof.Machine.execXdPutb a s
  | .xdPutn a b => Sys2Proof.Machine.execXdPutn a b s
  | .xdCpin a => Sys2Proof.Machine.execXdCpin a s
  | .xdBack a b => Sys2Proof.Machine.execXdBack a b s
  | .xdAddi d a k => Sys2Proof.Machine.execXdAddi d a k s
  | .xdAdd d a b => Sys2Proof.Machine.execXdAdd d a b s
  | .xdSub d a b => Sys2Proof.Machine.execXdSub d a b s
  | .xdAnd d a b => Sys2Proof.Machine.execXdAnd d a b s
  | .xdOr d a b => Sys2Proof.Machine.execXdOr d a b s
  | .xdXor d a b => Sys2Proof.Machine.execXdXor d a b s
  | .xdShl d a b => Sys2Proof.Machine.execXdShl d a b s
  | .xdShr d a b => Sys2Proof.Machine.execXdShr d a b s
  | .xdTbl d a => Sys2Proof.Machine.execXdTbl d a s
  | .xdBeq a b k => Sys2Proof.Machine.execXdBeq a b k s
  | .xdBne a b k => Sys2Proof.Machine.execXdBne a b k s
  | .xdBltn a b k => Sys2Proof.Machine.execXdBltn a b k s
  | .xdBeof k => Sys2Proof.Machine.execXdBeof k s
  | .xdJmp k => Sys2Proof.Machine.execXdJmp k s
  | .xdLen d => Sys2Proof.Machine.execXdLen d s
  | .xdOpos d => Sys2Proof.Machine.execXdOpos d s
  | .xdHalt => Sys2Proof.Machine.execXdHalt s
  | .xdFail k => Sys2Proof.Machine.execXdFail k s
  | .ill x => Sys2Proof.Machine.execIll x s
  | .add d a b w => Sys2Proof.Machine.execAdd d a b w s
  | .sub d a b w => Sys2Proof.Machine.execSub d a b w s
  | .and d a b w => Sys2Proof.Machine.execAnd d a b w s
  | .or d a b w => Sys2Proof.Machine.execOr d a b w s
  | .xor d a b w => Sys2Proof.Machine.execXor d a b w s
  | .andn d a b w => Sys2Proof.Machine.execAndn d a b w s
  | .shl d a b w => Sys2Proof.Machine.execShl d a b w s
  | .shr d a b w => Sys2Proof.Machine.execShr d a b w s
  | .sar d a b w => Sys2Proof.Machine.execSar d a b w s
  | .mul d a b w => Sys2Proof.Machine.execMul d a b w s
  | .mulh d a b w => Sys2Proof.Machine.execMulh d a b w s
  | .mulhn d a b w => Sys2Proof.Machine.execMulhn d a b w s
  | .min d a b w => Sys2Proof.Machine.execMin d a b w s
  | .max d a b w => Sys2Proof.Machine.execMax d a b w s
  | .minn d a b w => Sys2Proof.Machine.execMinn d a b w s
  | .maxn d a b w => Sys2Proof.Machine.execMaxn d a b w s
  | .slt d a b w => Sys2Proof.Machine.execSlt d a b w s
  | .sltn d a b w => Sys2Proof.Machine.execSltn d a b w s
  | .seq d a b w => Sys2Proof.Machine.execSeq d a b w s
  | .sne d a b w => Sys2Proof.Machine.execSne d a b w s
  | .div d a b w => Sys2Proof.Machine.execDiv d a b w s
  | .divn d a b w => Sys2Proof.Machine.execDivn d a b w s
  | .rem d a b w => Sys2Proof.Machine.execRem d a b w s
  | .remn d a b w => Sys2Proof.Machine.execRemn d a b w s
  | .clz d a w => Sys2Proof.Machine.execClz d a w s
  | .ctz d a w => Sys2Proof.Machine.execCtz d a w s
  | .popc d a w => Sys2Proof.Machine.execPopc d a w s
  | .bext d a b w => Sys2Proof.Machine.execBext d a b w s
  | .bins d a b w => Sys2Proof.Machine.execBins d a b w s
  | .addi d a k => Sys2Proof.Machine.execAddi d a k s
  | .andi d a k => Sys2Proof.Machine.execAndi d a k s
  | .ori d a k => Sys2Proof.Machine.execOri d a k s
  | .xori d a k => Sys2Proof.Machine.execXori d a k s
  | .shli d a w n => Sys2Proof.Machine.execShli d a w n s
  | .shri d a w n => Sys2Proof.Machine.execShri d a w n s
  | .sari d a w n => Sys2Proof.Machine.execSari d a w n s
  | .rotri d a w n => Sys2Proof.Machine.execRotri d a w n s
  | .slti d a k => Sys2Proof.Machine.execSlti d a k s
  | .sltni d a k => Sys2Proof.Machine.execSltni d a k s
  | .li d k => Sys2Proof.Machine.execLi d k s
  | .addpc d k => Sys2Proof.Machine.execAddpc d k s
  | .sld p z d a k => Sys2Proof.Machine.execSld p z d a k s
  | .sst p z d a k => Sys2Proof.Machine.execSst p z d a k s
  | .br c a o => Sys2Proof.Machine.execBr c a o s
  | .brr c a b o => Sys2Proof.Machine.execBrr c a b o s
  | .j o => Sys2Proof.Machine.execJ o s
  | .call o => Sys2Proof.Machine.execCall o s
  | .jr a => Sys2Proof.Machine.execJr a s
  | .callr a => Sys2Proof.Machine.execCallr a s
  | .ret => Sys2Proof.Machine.execRet s
  | .mif m o => Sys2Proof.Machine.execMif m o s
  | .melse o => Sys2Proof.Machine.execMelse o s
  | .mend => Sys2Proof.Machine.execMend s
  | .mpush o => Sys2Proof.Machine.execMpush o s
  | .mlimit m => Sys2Proof.Machine.execMlimit m s
  | .mpop => Sys2Proof.Machine.execMpop s
  | .bany m o => Sys2Proof.Machine.execBany m o s
  | .ball m o => Sys2Proof.Machine.execBall m o s
  | .bnone m o => Sys2Proof.Machine.execBnone m o s
  | .mand d a b => Sys2Proof.Machine.execMand d a b s
  | .mor d a b => Sys2Proof.Machine.execMor d a b s
  | .mxor d a b => Sys2Proof.Machine.execMxor d a b s
  | .mandn d a b => Sys2Proof.Machine.execMandn d a b s
  | .mnot d a => Sys2Proof.Machine.execMnot d a s
  | .mmov d a => Sys2Proof.Machine.execMmov d a s
  | .mfrom d s1 => Sys2Proof.Machine.execMfrom d s1 s
  | .mto a s1 => Sys2Proof.Machine.execMto a s1 s
  | .mcount a s1 => Sys2Proof.Machine.execMcount a s1 s
  | .mfirst a s1 => Sys2Proof.Machine.execMfirst a s1 s
  | .nop => Sys2Proof.Machine.execNop s
  | .exit => Sys2Proof.Machine.execExit s
  | .trap k => Sys2Proof.Machine.execTrap k s
  | .tret => Sys2Proof.Machine.execTret s
  | .brk k => Sys2Proof.Machine.execBrk k s
  | .sread d r => Sys2Proof.Machine.execSread d r s
  | .swrite a r => Sys2Proof.Machine.execSwrite a r s
  | .tmask => Sys2Proof.Machine.execTmask s
  | .tunmask => Sys2Proof.Machine.execTunmask s
  | .yield => Sys2Proof.Machine.execYield s
  | .sleep a => Sys2Proof.Machine.execSleep a s
  | .vadd d a b k => Sys2Proof.Machine.execVadd d a b k s
  | .vsub d a b k => Sys2Proof.Machine.execVsub d a b k s
  | .vmul d a b k => Sys2Proof.Machine.execVmul d a b k s
  | .vmulh d a b k => Sys2Proof.Machine.execVmulh d a b k s
  | .vmulhn d a b k => Sys2Proof.Machine.execVmulhn d a b k s
  | .vmin d a b k => Sys2Proof.Machine.execVmin d a b k s
  | .vmax d a b k => Sys2Proof.Machine.execVmax d a b k s
  | .vminn d a b k => Sys2Proof.Machine.execVminn d a b k s
  | .vmaxn d a b k => Sys2Proof.Machine.execVmaxn d a b k s
  | .vand d a b k => Sys2Proof.Machine.execVand d a b k s
  | .vor d a b k => Sys2Proof.Machine.execVor d a b k s
  | .vxor d a b k => Sys2Proof.Machine.execVxor d a b k s
  | .vshl d a b k => Sys2Proof.Machine.execVshl d a b k s
  | .vshr d a b k => Sys2Proof.Machine.execVshr d a b k s
  | .vsar d a b k => Sys2Proof.Machine.execVsar d a b k s
  | .vabsd d a b k => Sys2Proof.Machine.execVabsd d a b k s
  | .vcmp c m a b => Sys2Proof.Machine.execVcmp c m a b s
  | .vmad d a b c => Sys2Proof.Machine.execVmad d a b c s
  | .vfsl d a b c => Sys2Proof.Machine.execVfsl d a b c s
  | .vfsr d a b c => Sys2Proof.Machine.execVfsr d a b c s
  | .vbsel d a b c => Sys2Proof.Machine.execVbsel d a b c s
  | .vfma d a b c => Sys2Proof.Machine.execVfma d a b c s
  | .vfms d a b c => Sys2Proof.Machine.execVfms d a b c s
  | .vfnma d a b c => Sys2Proof.Machine.execVfnma d a b c s
  | .vaddi d a k => Sys2Proof.Machine.execVaddi d a k s
  | .vandi d a k => Sys2Proof.Machine.execVandi d a k s
  | .vori d a k => Sys2Proof.Machine.execVori d a k s
  | .vxori d a k => Sys2Proof.Machine.execVxori d a k s
  | .vshli d a k => Sys2Proof.Machine.execVshli d a k s
  | .vshri d a k => Sys2Proof.Machine.execVshri d a k s
  | .vsari d a k => Sys2Proof.Machine.execVsari d a k s
  | .vmovi d k => Sys2Proof.Machine.execVmovi d k s
  | .vbcast d s1 m => Sys2Proof.Machine.execVbcast d s1 m s
  | .vadds d a s1 m => Sys2Proof.Machine.execVadds d a s1 m s
  | .vmuls d a s1 m => Sys2Proof.Machine.execVmuls d a s1 m s
  | .vmulhns d a s1 m => Sys2Proof.Machine.execVmulhns d a s1 m s
  | .vshls d a s1 m => Sys2Proof.Machine.execVshls d a s1 m s
  | .vshrs d a s1 m => Sys2Proof.Machine.execVshrs d a s1 m s
  | .vlaneid d s1 m => Sys2Proof.Machine.execVlaneid d s1 m s
  | .vxch d a k => Sys2Proof.Machine.execVxch d a k s
  | .vrot d a k => Sys2Proof.Machine.execVrot d a k s
  | .vperm d a b k => Sys2Proof.Machine.execVperm d a b k s
  | .vextl d a l => Sys2Proof.Machine.execVextl d a l s
  | .vinsl d l s1 m => Sys2Proof.Machine.execVinsl d l s1 m s
  | .vradd d a => Sys2Proof.Machine.execVradd d a s
  | .vrmax d a => Sys2Proof.Machine.execVrmax d a s
  | .vrmin d a => Sys2Proof.Machine.execVrmin d a s
  | .vrmaxn d a => Sys2Proof.Machine.execVrmaxn d a s
  | .vrfadd d a => Sys2Proof.Machine.execVrfadd d a s
  | .vrfmax d a => Sys2Proof.Machine.execVrfmax d a s
  | .vgadd d a g => Sys2Proof.Machine.execVgadd d a g s
  | .vgmax d a g => Sys2Proof.Machine.execVgmax d a g s
  | .vgmaxn d a g => Sys2Proof.Machine.execVgmaxn d a g s
  | .vgor d a g => Sys2Proof.Machine.execVgor d a g s
  | .vscan d a g => Sys2Proof.Machine.execVscan d a g s
  | .vfadd d a b k => Sys2Proof.Machine.execVfadd d a b k s
  | .vfsub d a b k => Sys2Proof.Machine.execVfsub d a b k s
  | .vfmul d a b k => Sys2Proof.Machine.execVfmul d a b k s
  | .vfmin d a b k => Sys2Proof.Machine.execVfmin d a b k s
  | .vfmax d a b k => Sys2Proof.Machine.execVfmax d a b k s
  | .vfabs d a k => Sys2Proof.Machine.execVfabs d a k s
  | .vfneg d a k => Sys2Proof.Machine.execVfneg d a k s
  | .vfrcp d a k => Sys2Proof.Machine.execVfrcp d a k s
  | .vfrsq d a k => Sys2Proof.Machine.execVfrsq d a k s
  | .vfsqrt d a k => Sys2Proof.Machine.execVfsqrt d a k s
  | .vfexp2 d a k => Sys2Proof.Machine.execVfexp2 d a k s
  | .vflog2 d a k => Sys2Proof.Machine.execVflog2 d a k s
  | .vfsin d a k => Sys2Proof.Machine.execVfsin d a k s
  | .vfcos d a k => Sys2Proof.Machine.execVfcos d a k s
  | .vfscale d a b k => Sys2Proof.Machine.execVfscale d a b k s
  | .vfclass d a k => Sys2Proof.Machine.execVfclass d a k s
  | .vfcmp c m a b => Sys2Proof.Machine.execVfcmp c m a b s
  | .vcvtF32I32 d a r => Sys2Proof.Machine.execVcvtF32I32 d a r s
  | .vcvtI32F32 d a r => Sys2Proof.Machine.execVcvtI32F32 d a r s
  | .vcvtF32N32 d a r => Sys2Proof.Machine.execVcvtF32N32 d a r s
  | .vcvtN32F32 d a r => Sys2Proof.Machine.execVcvtN32F32 d a r s
  | .vcvtBf16F32 d a r => Sys2Proof.Machine.execVcvtBf16F32 d a r s
  | .vcvtF32Bf16 d a h => Sys2Proof.Machine.execVcvtF32Bf16 d a h s
  | .vcvtF16F32 d a r => Sys2Proof.Machine.execVcvtF16F32 d a r s
  | .vcvtF32F16 d a h => Sys2Proof.Machine.execVcvtF32F16 d a h s
  | .vcvtNfF32 d a f r => Sys2Proof.Machine.execVcvtNfF32 d a f r s
  | .vcvtF32Nf d a f r => Sys2Proof.Machine.execVcvtF32Nf d a f r s
  | .vcvtRint d a r => Sys2Proof.Machine.execVcvtRint d a r s
  | .vldIndexed p d s1 o z => Sys2Proof.Machine.execVldIndexed p d s1 o z s
  | .vldUnit p d s1 z => Sys2Proof.Machine.execVldUnit p d s1 z s
  | .vldBroadcast p d s1 z => Sys2Proof.Machine.execVldBroadcast p d s1 z s
  | .vstIndexed p d s1 o z => Sys2Proof.Machine.execVstIndexed p d s1 o z s
  | .vstUnit p d s1 z => Sys2Proof.Machine.execVstUnit p d s1 z s
  | .vstnt d s1 z => Sys2Proof.Machine.execVstnt d s1 z s
  | .vstbm p d s1 o => Sys2Proof.Machine.execVstbm p d s1 o s
  | .vatmAdd d b o s1 r => Sys2Proof.Machine.execVatmAdd d b o s1 r s
  | .vatmMin d b o s1 r => Sys2Proof.Machine.execVatmMin d b o s1 r s
  | .vatmMax d b o s1 r => Sys2Proof.Machine.execVatmMax d b o s1 r s
  | .vatmMinn d b o s1 r => Sys2Proof.Machine.execVatmMinn d b o s1 r s
  | .vatmMaxn d b o s1 r => Sys2Proof.Machine.execVatmMaxn d b o s1 r s
  | .vatmXchg d b o s1 r => Sys2Proof.Machine.execVatmXchg d b o s1 r s
  | .vatmCas d b o s1 r => Sys2Proof.Machine.execVatmCas d b o s1 r s
  | .vatmFadd d b o s1 r => Sys2Proof.Machine.execVatmFadd d b o s1 r s
  | .vatmAnd d b o s1 r => Sys2Proof.Machine.execVatmAnd d b o s1 r s
  | .vatmOr d b o s1 r => Sys2Proof.Machine.execVatmOr d b o s1 r s
  | .vatmXor d b o s1 r => Sys2Proof.Machine.execVatmXor d b o s1 r s
  | .vatmIncw d b o s1 r => Sys2Proof.Machine.execVatmIncw d b o s1 r s
  | .vatmDecw d b o s1 r => Sys2Proof.Machine.execVatmDecw d b o s1 r s
  | .satmAdd d a b s1 r => Sys2Proof.Machine.execSatmAdd d a b s1 r s
  | .satmMin d a b s1 r => Sys2Proof.Machine.execSatmMin d a b s1 r s
  | .satmMax d a b s1 r => Sys2Proof.Machine.execSatmMax d a b s1 r s
  | .satmXchg d a b s1 r => Sys2Proof.Machine.execSatmXchg d a b s1 r s
  | .satmCas d a b s1 r => Sys2Proof.Machine.execSatmCas d a b s1 r s
  | .satmAnd d a b s1 r => Sys2Proof.Machine.execSatmAnd d a b s1 r s
  | .satmOr d a b s1 r => Sys2Proof.Machine.execSatmOr d a b s1 r s
  | .satmXor d a b s1 r => Sys2Proof.Machine.execSatmXor d a b s1 r s
  | .pub s1 => Sys2Proof.Machine.execPub s1 s
  | .acq s1 => Sys2Proof.Machine.execAcq s1 s
  | .pubacq s1 => Sys2Proof.Machine.execPubacq s1 s
  | .drain s1 => Sys2Proof.Machine.execDrain s1 s
  | .clean s1 a => Sys2Proof.Machine.execClean s1 a s
  | .inval s1 a => Sys2Proof.Machine.execInval s1 a s
  | .mma a w r k x y p => Sys2Proof.Machine.execMma a w r k x y p s
  | .mmac a w r k x y p => Sys2Proof.Machine.execMmac a w r k x y p s
  | .aread d a r g s1 => Sys2Proof.Machine.execAread d a r g s1 s
  | .areadRaw d a r g => Sys2Proof.Machine.execAreadRaw d a r g s
  | .azero a => Sys2Proof.Machine.execAzero a s
  | .aanchor a s1 => Sys2Proof.Machine.execAanchor a s1 s
  | .arange a e => Sys2Proof.Machine.execArange a e s
  | .astat d a => Sys2Proof.Machine.execAstat d a s
  | .seal d e => Sys2Proof.Machine.execSeal d e s
  | .waitb e n => Sys2Proof.Machine.execWaitb e n s
  | .testb d e => Sys2Proof.Machine.execTestb d e s
  | .gangset a => Sys2Proof.Machine.execGangset a s
  | .gangclr => Sys2Proof.Machine.execGangclr s
  | .cpg l c d q => Sys2Proof.Machine.execCpg l c d q s
  | .cps l c d q => Sys2Proof.Machine.execCps l c d q s
  | .cpm l c d q => Sys2Proof.Machine.execCpm l c d q s
  | .cpx l c d q => Sys2Proof.Machine.execCpx l c d q s
  | .tinit t s1 => Sys2Proof.Machine.execTinit t s1 s
  | .twait t => Sys2Proof.Machine.execTwait t s
  | .tpop t => Sys2Proof.Machine.execTpop t s
  | .tfilled t d => Sys2Proof.Machine.execTfilled t d s
  | .tcommit t => Sys2Proof.Machine.execTcommit t s
  | .barinit a b => Sys2Proof.Machine.execBarinit a b s
  | .bararr a => Sys2Proof.Machine.execBararr a s
  | .barwait a b => Sys2Proof.Machine.execBarwait a b s
  | .barexp a b => Sys2Proof.Machine.execBarexp a b s
  | .barsync b => Sys2Proof.Machine.execBarsync b s
  | .cbarsync => Sys2Proof.Machine.execCbarsync s
  | .chbind c s1 => Sys2Proof.Machine.execChbind c s1 s
  | .chclose c => Sys2Proof.Machine.execChclose c s
  | .chlen c d => Sys2Proof.Machine.execChlen c d s
  | .offerTake d a b => Sys2Proof.Machine.execOfferTake d a b s
  | .offerSpawn d a b => Sys2Proof.Machine.execOfferSpawn d a b s
  | .withdraw d a b => Sys2Proof.Machine.execWithdraw d a b s
  | .sow q a b n u => Sys2Proof.Machine.execSow q a b n u s
  | .take d a n => Sys2Proof.Machine.execTake d a n s
  | .bedcfg d a => Sys2Proof.Machine.execBedcfg d a s
  | .emit q a => Sys2Proof.Machine.execEmit q a s
  | .spawn a b => Sys2Proof.Machine.execSpawn a b s
  | .tdone q => Sys2Proof.Machine.execTdone q s
  | .gload d a b => Sys2Proof.Machine.execGload d a b s
  | .gbind d a b => Sys2Proof.Machine.execGbind d a b s
  | .gunbind d a b => Sys2Proof.Machine.execGunbind d a b s
  | .gconv q a b => Sys2Proof.Machine.execGconv q a b s
  | .gstat d a b => Sys2Proof.Machine.execGstat d a b s
  | .tlbinv s1 a b => Sys2Proof.Machine.execTlbinv s1 a b s
  | .evict a b => Sys2Proof.Machine.execEvict a b s
  | .resume a b => Sys2Proof.Machine.execResume a b s
  | .pmcfg a b => Sys2Proof.Machine.execPmcfg a b s
  | .hintStall g f e d c b a => Sys2Proof.Machine.execHintStall g f e d c b a s
  | .hintXimm x => Sys2Proof.Machine.execHintXimm x s
  | .hintMem n f u => Sys2Proof.Machine.execHintMem n f u s
  | .hintMod s1 r => Sys2Proof.Machine.execHintMod s1 r s
  | .hintSpin => Sys2Proof.Machine.execHintSpin s
  | .hintPref a => Sys2Proof.Machine.execHintPref a s

end Sys2Proof.Machine
end

