-- ==== Sys2Proof/Machine/Step.lean ====
section
/-!
DEFINITION. Sys2Proof/Machine/Step.lean: one step of the package.

One agent moves (log entry 3): an event that is due, a strand, or a transducer run.  A strand that moves fires a PC match,
fetches, or executes the word at its PC.
-/

namespace Sys2Proof.Machine

/-- The strand in the focus moves (21 R349, 07 R378, 02 R39). -/
noncomputable def stepStrand (s : State) : Host.Outcome State Fault Refusal :=
  match s.me.turn with
  | .fires => exec (.pcMatch s.me.id) s
  | .fetch => exec (.fetchLineFill s.me.id) s
  | .word w => exec (decode w) s

/-- The transducer run moves (15 R263). -/
def stepRun (s : State) : Host.Outcome State Fault Refusal :=
  match s.xd with
  | none => .next s
  | some r => match xdDecode (r.code[r.pc]?.getD 0) with
    | some i => exec i s
    | none => .next { s with xd := some (r.fault .undef 0) }

noncomputable def step (s : State) : Host.Outcome State Fault Refusal :=
  let (m, s1) := s.choose
  match m with
  | .event k => match s1.agenda[k]? with
    | some d => exec d.ev { s1 with agenda := s1.agenda.eraseIdx k }
    | none => .next s1
  | .strand id => stepStrand (s1.focus id)
  | .run => stepRun s1
  | .idle => .next s1.idleOn

/-! ## Placing one instruction (log entry 6) -/

/-- The three tables of the management virtual device's stage 1: one leaf of 1 GiB that maps the first GiB onto itself. -/
def identityTables : List Host.Cell :=
  -- L4 at 0x1000 points to 0x2000, L3 at 0x2000 to 0x3000, L2 entry 0 at 0x3000 is a leaf with R, W, X
  [(0x1000, 0x01), (0x1001, 0x20), (0x2000, 0x01), (0x2001, 0x30), (0x3000, 0x1F)]

/-- A management virtual device that owns die 0, whose stage 1 maps the first GiB onto itself. -/
def placedVd : VDev :=
  { num := 0, enabled := true, mgmt := true, s2root := 0x1000, s1root := 0x1000, ipalim := 0x40000000, x0 := 0, y0 := 0,
    width := 4, height := 4, gquota := 64, slice := 2000, shared := 0, cmd := [], windows := [], ringBase := 0,
    ringCount := 0, ringHead := 0, held := [], notifyTo := [], notifyN := 1, notifyT := 0, sinceN := 0, sinceAt := none, owed := false,
    mailHeld := false, mailIn := [], mailOut := [], pageReqs := [], faultQ := [], heldFaults := [], measure := .init,
    peers := [], debug := false, microVds := 0, discarded := 0, stray := 0 }

/-- A block of one strand that holds every unit of its core. -/
def placedBlock : Block :=
  { Block.init with
    id := 1, windowSize := 0xC0000, tiles := List.replicate 8 .init, planes := List.replicate 128 .init,
    trays := List.replicate 16 .init, barriers := List.replicate 16 .init, channels := List.replicate 64 .init }

/-- A running strand of PRIV 2 and kind General with 64 vector registers. -/
def placedStrand : Strand :=
  { Strand.init with id := 2, block := 1, run := .running, pc := 0x10000, budget := 64, priv := 2 }

/-- The state with the instruction of bits w placed where `step` fetches next: a strand of a block of the management virtual
device at PC 0x10000, the word in memory and in its fetch buffer, and nothing else that could move (log entry 6). -/
def State.withFetchWord (s : State) (nbits w : Nat) : State :=
  let bytes := natBytes 4 (w % 2 ^ nbits)
  { s with
    me := { placedStrand with fetch := [fetchCells 0x10000 bytes 0 0] }, blk := placedBlock, core := .init 0, strands := [],
    blocks := [], cores := [], agenda := [], xd := none, vds := [placedVd], tlb := [], nextId := 3,
    control := { s.control with rails := railOrder, ready := true, stopped := false }, clusters := [],
    dram := Memory.write (identityTables.foldl (fun m c => Memory.set m c.1 c.2) s.dram) 0x10000 bytes }

end Sys2Proof.Machine
end

