-- ==== Sys2Proof/Safety.lean ====
section
/-!
DEFINITION. Sys2Proof/Safety.lean: what a safe run is, and the words that the statements use: a strand that may issue its
next word, the operands a word reads and writes, and a state without its clocks.
-/

namespace Sys2Proof.Machine

/-! ## Safe runs

The spec stops the machine nowhere (02 R56 halts a strand, 19 R333 halts the package; both are next states), so a run is safe
when no step of it is a fault or a refusal. -/

/-- A step that answers a next state. -/
def goesOn (r : Host.Outcome State Fault Refusal) : Prop := ∃ t, r = .next t

/-- A run of k steps from s is safe when it answers a next state. -/
def safeRun (k : Nat) (s : State) : Prop := ∃ t, Sys2Proof.core.run k s = .next t

/-! ## A strand that may issue -/

/-- The strand in the focus issues its next word at this time: it runs, it is not in the middle of a word, no result is on its
way, the least distances from its last word have passed (02 R50, 03 R57), it is not stepped by a debugger, none of its registers holds an
uncorrectable error (19 R330). -/
structure Ready (s : State) : Prop where
  running  : s.me.run = .running
  fresh    : s.me.issued = false
  settled  : s.me.pending = []
  free     : s.me.stepping = false
  due      : s.me.readyAt ≤ s.now
  spaced   : s.me.issuedAt + 7 * acTicks ≤ s.now
  noLog    : s.graftLog = []
  whole    : s.me.corrupt = []

/-! ## Scalar operands (01 R14) -/

/-- A scalar field that a word may read: s0 to s55, or a port whose queue holds a value, read by a supervisor. -/
def SrcOk (s : State) (r : BitVec 6) : Prop :=
  r.toNat < 56 ∨ (isPort r = true ∧ s.me.priv ≠ 0 ∧ (s.portHead r.toNat).isSome = true)

/-- A scalar field that a word may write and that is no port. -/
def DstOk (r : BitVec 6) : Prop := r.toNat < 56

/-- S[r] as a word reads it: s0 is 0, a port gives its head. -/
def src (s : State) (r : BitVec 6) : W64 :=
  if r = 0 then 0 else if isPort r then (s.portHead r.toNat).getD 0 else s.me.s[r.toNat]?.getD 0

/-- The state after the ports among a word's sources have given up their heads, each once. -/
def State.popped (rs : List (BitVec 6)) (s : State) : State :=
  (Use.popPorts { sr := rs }).foldl (fun s p => s.portPop p) s

/-- The state with S[d] = x; s0 discards. -/
def State.wrote (d : BitVec 6) (x : W64) (s : State) : State := if d = 0 then s else s.mapMe (Strand.putS d.toNat x)

/-! ## Vector operands (01 R15, 07 R137) -/

/-- A vector field that a word may read: a register below the budget, or a channel whose reader is the strand's slot and that
holds an entry. -/
def VSrcOk (s : State) (f : BitVec 7) : Prop :=
  (isChan f = false ∧ f.toNat < s.me.budget) ∨ (isChan f = true ∧ s.chanRead (chanIndex f) = (none, false))

/-- A vector field that a word may write: a register below the budget, or a channel whose writer is the strand's slot and that
has room beside what the word itself takes out. -/
def VDstOk (s : State) (reads : List (BitVec 7)) (f : BitVec 7) : Prop :=
  (isChan f = false ∧ f.toNat < s.me.budget)
    ∨ (isChan f = true ∧ s.chanWrite (chanIndex f) ((Use.readChans { vr := reads }).contains (chanIndex f)) = (none, false))

/-- The vector that a field reads: a register, or the oldest entry of a channel. -/
def vsrc (s : State) (f : BitVec 7) : Vec :=
  if isChan f then ((s.blk.channels[chanIndex f]?).bind (·.entries.head?)).getD (Vec.splat 0)
  else s.me.v[f.toNat]?.getD (Vec.splat 0)

/-- What a lane that a word does not write holds after it: its old element; 0 in a new entry of a channel (00 R9). -/
def vkept (s : State) (f : BitVec 7) (L : Nat) : W32 := if isChan f then 0 else Vec.lane (vsrc s f) L

/-- The state with x in the register or at the end of the channel. -/
def State.vwrote (f : BitVec 7) (x : Vec) (s : State) : State :=
  if isChan f then s.chanPush (chanIndex f) x else s.mapMe (Strand.putV f.toNat x)

/-- The state after the channels among a word's sources have given up an entry, each once. -/
def State.vpopped (fs : List (BitVec 7)) (s : State) : State := s.popChans { vr := fs }

/-! ## The end of a word -/

/-- The word has completed: the next one stands at `pc`; its hints, one count of its coverage and the mask of a return are used
up (01 R24, R25, 02 R54). -/
def State.wordDone (pc : W64) (s : State) : State :=
  s.mapMe (fun t => { t with pc := pc, stall := t.stall.tail, hints := .none, memWait := none, flight := none, matched := false,
                             tretMask := none })

/-! ## Clocks -/

/-- A strand without what only says when its results come, where it last issued and why it last waited. -/
def Strand.timeless (t : Strand) : Strand :=
  { t with latch := [], issued := false, reason := 0, readyAt := 0, issuedAt := 0, issuedPc := 0, lastIssue := 0, pending := [] }

/-- A virtual device without the counts of its counters (21 R344). -/
def VDev.timeless (v : VDev) : VDev := { v with measure := { v.measure with count := Vector.replicate 32 0 } }

/-- A core without the order in which its L1 lines were used (05 R101). -/
def Core.timeless (c : Core) : Core := { c with used := [] }

/-- A state without those, and without the order in which lines of slices (13 R235) and entries of translation caches (19 R319) were used. -/
def State.timeless (s : State) : State :=
  { s with me := s.me.timeless, vds := s.vds.map VDev.timeless, core := s.core.timeless, cores := s.cores.map Core.timeless,
           slices := s.slices.map (fun l => { l with used := 0 }), tlb := s.tlb.map (fun e => { e with used := 0 }),
           walks := s.walks.map (fun e => { e with used := 0 }), uses := 0 }

/-- The answer is a next state that equals the expected one in all but clocks and counts. -/
def Leads (o : Out) (e : State) : Prop := ∃ t, o = .next t ∧ t.timeless = e.timeless

/-! ## Memory by bytes -/

/-- The byte of physical memory that the strand in the focus sees (05 R98, R101): the L1's copy, else the home's. -/
def State.byteAt (s : State) (pa : Nat) : Byte := (s.core.look pa).getD (s.homeByte pa)

/-- The byte of a block's window (07 R130). -/
def State.windowByte (s : State) (block off : Nat) : Byte := ((s.block? block).map (fun b => Memory.get b.window off)).getD 0

end Sys2Proof.Machine
end

