-- ==== Sys2Proof/Certificates/Slice0/Obligations.lean ====
section
/-!
DEFINITION. Sys2Proof/Certificates/Slice0/Obligations.lean: the statements for the provers, with the tables of the spec that they
are stated over.
-/

/-! ## Scalar results (03 R59 to R61) -/

namespace Sys2Proof.Machine

/-- What a word with one scalar result says: its destination, its sources, the value, as a function of the state. -/
structure ScalarRow where
  dst : BitVec 6
  srcs : List (BitVec 6)
  val : State → W64

/-- 03 R59: the exact result, reduced to n bits; with W = 1 on the low 32 bits, then sign-extended. -/
def byWidth (w : BitVec 1) (op : (n : Nat) → BitVec n → BitVec n → Int) (a b : W64) : W64 :=
  if w = 1 then (BitVec.ofInt 32 (op 32 (a.setWidth 32) (b.setWidth 32))).signExtend 64 else BitVec.ofInt 64 (op 64 a b)

/-- A row of two sources. -/
def row2 (d a b : BitVec 6) (w : BitVec 1) (op : (n : Nat) → BitVec n → BitVec n → Int) : Option ScalarRow :=
  some { dst := d, srcs := [a, b], val := fun s => byWidth w op (src s a) (src s b) }

/-- A row of one source. -/
def row1 (d a : BitVec 6) (w : BitVec 1) (op : (n : Nat) → BitVec n → Int) : Option ScalarRow :=
  some { dst := d, srcs := [a], val := fun s => byWidth w (fun n x _ => op n x) (src s a) 0 }

/-- 03 R59, `bext`: st in b[5:0], wd in b[11:6]. -/
def valBext (w : BitVec 1) (a b : W64) : W64 := byWidth w (fun _ x _ => x.toNat / 2 ^ slice b 5 0 % 2 ^ slice b 11 6) a 0

/-- 03 R59, `bins`: k is the field's mask reduced to n bits. -/
def valBins (w : BitVec 1) (d a b : W64) : W64 :=
  byWidth w (fun n x y =>
    let k := BitVec.ofNat n ((2 ^ slice b 11 6 - 1) * 2 ^ slice b 5 0)
    ((y &&& ~~~k) ||| (BitVec.ofNat n (x.toNat * 2 ^ slice b 5 0) &&& k)).toNat) a d

/-- 03 R59: the table, in exact integers. -/
def tableR59 : Instr → Option ScalarRow
  | .add d a b w => row2 d a b w (fun _ x y => x.toInt + y.toInt)
  | .sub d a b w => row2 d a b w (fun _ x y => x.toInt - y.toInt)
  | .and d a b w => row2 d a b w (fun _ x y => (x.toNat &&& y.toNat : Nat))
  | .or d a b w => row2 d a b w (fun _ x y => (x.toNat ||| y.toNat : Nat))
  | .xor d a b w => row2 d a b w (fun _ x y => (x.toNat ^^^ y.toNat : Nat))
  | .andn d a b w => row2 d a b w (fun n x y => (x.toNat &&& (2 ^ n - 1 - y.toNat) : Nat))
  | .shl d a b w => row2 d a b w (fun n x y => x.toNat * 2 ^ (y.toNat % n))
  | .shr d a b w => row2 d a b w (fun n x y => x.toNat / 2 ^ (y.toNat % n))
  | .sar d a b w => row2 d a b w (fun n x y => x.toInt / 2 ^ (y.toNat % n))
  | .mul d a b w => row2 d a b w (fun _ x y => x.toInt * y.toInt)
  | .mulh d a b w => row2 d a b w (fun n x y => x.toInt * y.toInt / 2 ^ n)
  | .mulhn d a b w => row2 d a b w (fun n x y => x.toNat * y.toNat / 2 ^ n)
  | .min d a b w => row2 d a b w (fun _ x y => Min.min x.toInt y.toInt)
  | .max d a b w => row2 d a b w (fun _ x y => Max.max x.toInt y.toInt)
  | .minn d a b w => row2 d a b w (fun _ x y => (Min.min x.toNat y.toNat : Nat))
  | .maxn d a b w => row2 d a b w (fun _ x y => (Max.max x.toNat y.toNat : Nat))
  | .slt d a b w => row2 d a b w (fun _ x y => if x.toInt < y.toInt then 1 else 0)
  | .sltn d a b w => row2 d a b w (fun _ x y => if x.toNat < y.toNat then 1 else 0)
  | .seq d a b w => row2 d a b w (fun _ x y => if x = y then 1 else 0)
  | .sne d a b w => row2 d a b w (fun _ x y => if x = y then 0 else 1)
  | .div d a b w => row2 d a b w (fun n x y => if y = 0 then 2 ^ n - 1 else x.toInt.tdiv y.toInt)
  | .divn d a b w => row2 d a b w (fun n x y => if y = 0 then 2 ^ n - 1 else x.toNat / y.toNat)
  | .rem d a b w => row2 d a b w (fun _ x y => if y = 0 then x.toInt else x.toInt - y.toInt * x.toInt.tdiv y.toInt)
  | .remn d a b w => row2 d a b w (fun _ x y => if y = 0 then x.toNat else x.toNat % y.toNat)
  | .clz d a w => row1 d a w (fun n x => (n - Nat.size x.toNat : Nat))
  | .ctz d a w => row1 d a w (fun n x => if x = 0 then n else padicValNat 2 x.toNat)
  | .popc d a w => row1 d a w (fun n x => ((Finset.range n).filter (fun k => x.getLsbD k = true)).card)
  | .bext d a b w => some (ScalarRow.mk d [a, b] (fun s => valBext w (src s a) (src s b)))
  | .bins d a b w => some (ScalarRow.mk d [a, b, d] (fun s => valBins w (src s d) (src s a) (src s b)))
  | _ => none

/-- 03 R60, R61: the immediate forms and the constants; c is the immediate, extended by a hint before the word (01 R27). -/
def tableR60 : Instr → Option ScalarRow
  | .addi d a k => some { dst := d, srcs := [a], val := fun s => BitVec.ofInt 64 ((src s a).toInt + (s.imm k).toInt) }
  | .andi d a k => some { dst := d, srcs := [a], val := fun s => src s a &&& s.imm k }
  | .ori d a k => some { dst := d, srcs := [a], val := fun s => src s a ||| s.imm k }
  | .xori d a k => some { dst := d, srcs := [a], val := fun s => src s a ^^^ s.imm k }
  | .slti d a k => some { dst := d, srcs := [a], val := fun s => if (src s a).toInt < (s.imm k).toInt then 1 else 0 }
  | .sltni d a k => some { dst := d, srcs := [a], val := fun s => if (src s a).toNat < (s.imm k).toNat then 1 else 0 }
  | .shli d a w n => if w = 1 ∧ 32 ≤ n.toNat then none else row1 d a w (fun _ x => x.toNat * 2 ^ n.toNat)
  | .shri d a w n => if w = 1 ∧ 32 ≤ n.toNat then none else row1 d a w (fun _ x => x.toNat / 2 ^ n.toNat)
  | .sari d a w n => if w = 1 ∧ 32 ≤ n.toNat then none else row1 d a w (fun _ x => x.toInt / 2 ^ n.toNat)
  | .rotri d a w n => if w = 1 ∧ 32 ≤ n.toNat then none else row1 d a w (fun _ x => (x.rotateRight n.toNat).toNat)
  | .li d k => some { dst := d, srcs := [], val := fun s => s.imm k }
  | .addpc d k => some { dst := d, srcs := [], val := fun s => s.me.pc + s.imm k * 4 }
  | _ => none

end Sys2Proof.Machine

open Sys2Proof Sys2Proof.Machine

/-- 03 R59: every member of majors 0x01 and 0x02 writes the exact result reduced to n bits, for every source (a port gives its
head, once) and every destination that is no port; the next word stands at PC + 4; nothing else changes. -/
def Obligations.ScalarTable : Prop :=
  ∀ (i : Instr) (r : ScalarRow) (s : State), tableR59 i = some r → Ready s → (∀ a ∈ r.srcs, SrcOk s a) → DstOk r.dst →
    Leads (exec i s) (((s.popped r.srcs).wrote r.dst (r.val s)).wordDone (s.me.pc + 4))

/-- 03 R60, R61: the same for the immediate forms and the constants. -/
def Obligations.ImmediateTable : Prop :=
  ∀ (i : Instr) (r : ScalarRow) (s : State), tableR60 i = some r → Ready s → (∀ a ∈ r.srcs, SrcOk s a) → DstOk r.dst →
    Leads (exec i s) (((s.popped r.srcs).wrote r.dst (r.val s)).wordDone (s.me.pc + 4))
/-! ## Masks (03 R69) -/

namespace Sys2Proof.Machine

/-- M[m] as a word reads it; m0 is the current active mask (01 R16). -/
def msrc (s : State) (m : BitVec 3) : W32 := s.me.m[m.toNat]?.getD 0

/-- The state with M[d] = x; the bits above the visible lanes read 0 (02 R48). -/
def State.mwrote (d : BitVec 3) (x : W32) (s : State) : State := s.mapMe (fun t => t.putM d.toNat (x &&& t.visible))

/-- 03 R69: the members that read masks and write a scalar register. -/
def tableMaskRead : Instr → Option ScalarRow
  | .mto a d => some { dst := d, srcs := [], val := fun s => (msrc s a).setWidth 64 }
  | .mcount a d => some { dst := d, srcs := [], val := fun s => BitVec.ofNat 64 ((Finset.range 32).filter (fun L => (msrc s a).getLsbD L = true)).card }
  | .mfirst a d => some { dst := d, srcs := [], val := fun s => BitVec.ofNat 64 (if msrc s a = 0 then s.me.lanes else padicValNat 2 (msrc s a).toNat) }
  | _ => none

end Sys2Proof.Machine

/-- 03 R69: the mask members that write a scalar register. -/
def Sys2Proof.Machine.SaysMaskRead : Prop :=
  ∀ (i : Instr) (r : ScalarRow) (s : State), tableMaskRead i = some r → Ready s → DstOk r.dst →
    Leads (exec i s) ((s.wrote r.dst (r.val s)).wordDone (s.me.pc + 4))

/-- 03 R69: the members that write a mask register, which is not m0. -/
def Sys2Proof.Machine.SaysMaskWrite : Prop :=
  ∀ (d a b : BitVec 3) (r : BitVec 6) (s : State), Ready s → d ≠ 0 →
    let gives (i : Instr) (x : W32) := Leads (exec i s) ((s.mwrote d x).wordDone (s.me.pc + 4))
    gives (.mand d a b) (msrc s a &&& msrc s b) ∧ gives (.mor d a b) (msrc s a ||| msrc s b) ∧
    gives (.mxor d a b) (msrc s a ^^^ msrc s b) ∧ gives (.mandn d a b) (msrc s a &&& ~~~msrc s b) ∧
    gives (.mnot d a) (~~~msrc s a) ∧ gives (.mmov d a) (msrc s a) ∧
    (SrcOk s r → Leads (exec (.mfrom d r) s) (((s.popped [r]).mwrote d ((src s r).setWidth 32)).wordDone (s.me.pc + 4)))

/-- 03 R69: the mask members that write a scalar register.
03 R69: the members that write a mask register, which is not m0. -/
def Obligations.MaskValues : Prop :=
  Sys2Proof.Machine.SaysMaskRead ∧ Sys2Proof.Machine.SaysMaskWrite

/-! ## Branches and jumps (03 R64, R65, R68) -/

namespace Sys2Proof.Machine

/-- What a branch or a jump says: its sources, whether it writes the link, whether it is taken, where to. -/
structure FlowRow where
  srcs : List (BitVec 6)
  link : Bool
  taken : State → Bool
  target : State → W64

/-- 03 R64: the conditions against zero. -/
def brTaken (c : Nat) (a : Int) : Bool :=
  match c with
  | 0 => a == 0
  | 1 => a != 0
  | 2 => decide (a < 0)
  | 3 => decide (0 ≤ a)
  | 4 => decide (0 < a)
  | _ => decide (a ≤ 0)

/-- 03 R64: the conditions on two registers. -/
def brrTaken (c : Nat) (a b : W64) : Bool :=
  match c with
  | 0 => a == b
  | 1 => a != b
  | 2 => decide (a.toInt < b.toInt)
  | 3 => decide (b.toInt ≤ a.toInt)
  | 4 => decide (a.toNat < b.toNat)
  | _ => decide (b.toNat ≤ a.toNat)

/-- 03 R64, R65, R68: the table; a hint before the word extends the offset (01 R27), but for the mask branches. -/
def tableFlow : Instr → Option FlowRow
  | .br c a o => if 6 ≤ c.toNat then none else
      some { srcs := [a], link := false, taken := fun s => brTaken c.toNat (src s a).toInt, target := fun s => s.me.pc + s.imm o * 4 }
  | .brr c a b o => if 6 ≤ c.toNat then none else
      some { srcs := [a, b], link := false, taken := fun s => brrTaken c.toNat (src s a) (src s b), target := fun s => s.me.pc + s.imm o * 4 }
  | .j o => some { srcs := [], link := false, taken := fun _ => true, target := fun s => s.me.pc + s.imm o * 4 }
  | .call o => some { srcs := [], link := true, taken := fun _ => true, target := fun s => s.me.pc + s.imm o * 4 }
  | .bany m o => some { srcs := [], link := false, taken := fun s => msrc s m &&& msrc s 0 != 0, target := fun s => s.me.pc + o.signExtend 64 * 4 }
  | .ball m o => some { srcs := [], link := false, taken := fun s => msrc s m &&& msrc s 0 == msrc s 0, target := fun s => s.me.pc + o.signExtend 64 * 4 }
  | .bnone m o => some { srcs := [], link := false, taken := fun s => msrc s m &&& msrc s 0 == 0, target := fun s => s.me.pc + o.signExtend 64 * 4 }
  | _ => none

/-- 03 R65: the jumps through a register. -/
def tableIndirect : Instr → Option FlowRow
  | .jr a => some { srcs := [a], link := false, taken := fun _ => true, target := fun s => src s a }
  | .callr a => some { srcs := [a], link := true, taken := fun _ => true, target := fun s => src s a }
  | .ret => some { srcs := [1], link := false, taken := fun _ => true, target := fun s => src s 1 }
  | _ => none

/-- The state after a branch or a jump: s1 holds PC + 4 if it links. -/
def FlowRow.after (r : FlowRow) (s : State) : State :=
  let p := s.popped r.srcs
  (if r.link then p.wrote 1 (s.me.pc + 4) else p).wordDone (if r.taken s then r.target s else s.me.pc + 4)

end Sys2Proof.Machine

/-- 03 R64, R65, R68: where branches, direct jumps and calls go; they change PC and the link register alone. -/
def Sys2Proof.Machine.SaysBranchTable : Prop :=
  ∀ (i : Instr) (r : FlowRow) (s : State), tableFlow i = some r → Ready s → (∀ a ∈ r.srcs, SrcOk s a) → Leads (exec i s) (r.after s)

/-- 03 R65: a jump through a register goes to an aligned target; another target traps MISALIGNED at the jump, with TADDR the
target, before any register is written. -/
def Sys2Proof.Machine.SaysIndirectJump : Prop :=
  ∀ (i : Instr) (r : FlowRow) (s : State), tableIndirect i = some r → Ready s → (∀ a ∈ r.srcs, SrcOk s a) →
    ((r.target s).toNat % 4 = 0 → Leads (exec i s) (r.after s)) ∧
    ((r.target s).toNat % 4 ≠ 0 → ∃ b : State, b.timeless = (s.popped r.srcs).timeless ∧
      exec i s = .next (b.takeTrap { cause := .misaligned, tval := 0, lanes := s.me.visible, taddr := r.target s }))

/-- 03 R64, R65, R68: where branches, direct jumps and calls go; they change PC and the link register alone.
03 R65: a jump through a register goes to an aligned target; another target traps MISALIGNED at the jump, with TADDR the target,
before any register is written. -/
def Obligations.Branches : Prop :=
  Sys2Proof.Machine.SaysBranchTable ∧ Sys2Proof.Machine.SaysIndirectJump

/-! ## The active-mask stack (02 R45 to R47, 03 R67) -/

namespace Sys2Proof.Machine

/-- The state with an entry pushed; the core keeps the top 8 beside the issue logic (02 R47). -/
def State.pushed (e : MaskEntry) (s : State) : State :=
  s.mapMe (fun t => { t with stack := e :: t.stack, near := Min.min (t.near + 1) 8 })

/-- The state with the top entry gone. -/
def State.poppedMask (s : State) : State := s.mapMe (fun t => { t with stack := t.stack.tail, near := t.near - 1 })

/-- The state with the top entry replaced. -/
def State.topped (e : MaskEntry) (s : State) : State := s.mapMe (fun t => { t with stack := e :: t.stack.tail })

end Sys2Proof.Machine

/-- 02 R45: `mif` and `mpush` at a depth below 32. -/
def Sys2Proof.Machine.SaysMaskPush : Prop :=
  ∀ (m : BitVec 3) (o : BitVec 16) (s : State), Ready s → s.me.stack.length < 32 →
    let L := s.me.pc + o.signExtend 64 * 4
    let m0 := msrc s 0
    let k := msrc s m
    Leads (exec (.mif m o) s)
      (let p := s.pushed { kind := .ifs, outer := m0, pend := m0 &&& ~~~k, pc := s.me.pc, rcv := L }
       if m0 &&& k ≠ 0 then (p.mwrote 0 (m0 &&& k)).wordDone (s.me.pc + 4) else p.wordDone L) ∧
    Leads (exec (.mpush o) s)
      ((s.pushed { kind := .loop, outer := m0, pend := 0, pc := s.me.pc, rcv := L }).wordDone (s.me.pc + 4))

/-- 02 R45: `melse`, `mend`, `mlimit` and `mpop`, whose top entry is of the right kind and stands beside the issue logic. -/
def Sys2Proof.Machine.SaysMaskTop : Prop :=
  ∀ (m : BitVec 3) (o : BitVec 16) (e : MaskEntry) (s : State), Ready s → s.me.stack.head? = some e → s.me.near ≠ 0 →
    let L := s.me.pc + o.signExtend 64 * 4
    let m0 := msrc s 0
    let k := msrc s m
    (e.kind = .ifs → Leads (exec (.melse o) s)
      (if e.pend ≠ 0 then ((s.topped { e with rcv := L, pend := 0 }).mwrote 0 e.pend).wordDone (s.me.pc + 4)
       else ((s.topped { e with rcv := L }).mwrote 0 e.outer).wordDone L)) ∧
    (e.kind = .ifs → Leads (exec .mend s) ((s.poppedMask.mwrote 0 e.outer).wordDone (s.me.pc + 4))) ∧
    (e.kind = .loop → Leads (exec (.mlimit m) s)
      (if m0 &&& k = 0 then s.wordDone e.rcv else (s.mwrote 0 (m0 &&& k)).wordDone (s.me.pc + 4))) ∧
    (e.kind = .loop → Leads (exec .mpop s) ((s.poppedMask.mwrote 0 e.outer).wordDone (s.me.pc + 4)))

/-- 02 R47: MASKSTACK, with TVAL = DEPTH, before any effect: a push at depth 32, the others at depth 0 or with a top entry of the
other kind. -/
def Sys2Proof.Machine.SaysMaskStackTrap : Prop :=
  ∀ (i : Instr) (s : State), Ready s →
    ((s.me.stack.length = 32 ∧ ((∃ m o, i = .mif m o) ∨ ∃ o, i = .mpush o)) ∨
     ((∀ e, s.me.stack.head? = some e → e.kind = .loop) ∧ ((∃ o, i = .melse o) ∨ i = .mend)) ∨
     ((∀ e, s.me.stack.head? = some e → e.kind = .ifs) ∧ ((∃ m, i = .mlimit m) ∨ i = .mpop))) →
    ∃ b : State, b.timeless = s.timeless ∧ exec i s = .next (b.takeTrap
      { cause := .maskstack, tval := BitVec.ofNat 64 s.me.stack.length, lanes := s.me.visible, taddr := 0 })
/-! ## Ports as destinations (01 R14) -/

/-- 02 R45: `mif` and `mpush` at a depth below 32.
02 R45: `melse`, `mend`, `mlimit` and `mpop`, whose top entry is of the right kind and stands beside the issue logic.
02 R47: MASKSTACK, with TVAL = DEPTH, before any effect: a push at depth 32, the others at depth 0 or with a top entry of the
other kind. -/
def Obligations.MaskStack : Prop :=
  Sys2Proof.Machine.SaysMaskPush ∧ Sys2Proof.Machine.SaysMaskTop ∧ Sys2Proof.Machine.SaysMaskStackTrap

/-- 01 R14: a word of the three tables whose destination is a port with room, in a strand of PRIV 1 or 2, pushes the result to
that port's queue, once its sources are read; then the word is done. -/
def Sys2Proof.Machine.SaysPortDestination : Prop :=
  ∀ (i : Instr) (r : ScalarRow) (s : State), (tableR59 i = some r ∨ tableR60 i = some r ∨ tableMaskRead i = some r) → Ready s →
    (∀ a ∈ r.srcs, SrcOk s a) → isPort r.dst = true → s.me.priv ≠ 0 → s.portRoom r.dst.toNat = true →
    ∃ (f : Form) (b : State), b.timeless = (s.popped r.srcs).timeless ∧
      exec i s = .next (State.complete f b (s.me.pc + 4) 1 (b.portPush r.dst.toNat (r.val s))).writeGraftLog

/-- 01 R14, R33: with PRIV 0 a word of the tables that names a port traps PRIVILEGED, whatever the queues hold: it has no
effect and pops nothing. -/
def Sys2Proof.Machine.SaysPortPrivilege : Prop :=
  ∀ (i : Instr) (r : ScalarRow) (s : State), (tableR59 i = some r ∨ tableR60 i = some r ∨ tableMaskRead i = some r) → Ready s →
    s.me.priv = 0 → (isPort r.dst = true ∨ ∃ a ∈ r.srcs, isPort a = true) →
    exec i s = .next (s.takeTrap { cause := .privileged, tval := (encode i).setWidth 64, lanes := s.me.visible, taddr := 0 })

/-- 01 R14: a word of the three tables whose destination is a port with room, in a strand of PRIV 1 or 2, pushes the result to that
port's queue, once its sources are read; then the word is done.
01 R14, R33: with PRIV 0 a word of the tables that names a port traps PRIVILEGED, whatever the queues hold: it has no effect and
pops nothing. -/
def Obligations.Ports : Prop :=
  Sys2Proof.Machine.SaysPortDestination ∧ Sys2Proof.Machine.SaysPortPrivilege

/-! ## Taking a trap, halting, returning (02 R51 to R56) -/

/-- 02 R53: a trap entry of any cause, with TMASKED = 0 and a handler: the results on their way are written (their registers
hold them already; nothing is pending), the trap registers are set, TPC names the trapping instruction or the first modifying hint
before it (01 R24), for `trap` and `brk` always the word itself (03 R71), TMASKED is 1, coverage and hints are gone, PC is the handler's address; registers, m0, the mask stack, memory and
all else stay. -/
def Obligations.TrapEntry : Prop :=
  ∀ (x : Trap) (s : State), s.me.tmasked = false → s.blk.handler ≠ 0 → s.me.stepping = false →
    (s.takeTrap x).timeless = (s.mapMe (fun t => { t with
      tpc := if x.word then t.pc else t.hints.first.getD t.pc, tcause := BitVec.ofNat 8 x.cause.code, tlanes := x.lanes &&& t.visible,
      taddr := x.taddr, tval := x.tval, tmasked := true, stall := [], hints := .none, pc := s.blk.handler,
      fetch := [], spin := false, matched := false, memWait := none, flight := none, wait := .none, tretMask := none })).timeless

/-- 02 R55, R56: a trap of any cause while TMASKED = 1, or without a handler, halts the strand: it issues nothing more, its trap
registers hold the trap, its block has failed with the first such cause, and a record with cause, TPC, m0, NESTED, TLANES and
TADDR is posted to its partition's `qfault`.  That the trap registers are written also where the trap halts the strand is the model's choice (log entry 18),
and so is NESTED in the record of every halt with TMASKED = 1 (log entry 60). -/
def Obligations.TrapHalts : Prop :=
  ∀ (x : Trap) (s : State), (s.me.tmasked = true ∨ s.blk.handler = 0) →
    let t := s.takeTrap x
    let tpc := if x.word then s.me.pc else s.me.hints.first.getD s.me.pc
    t.me.run = .halted ∧ t.me.tpc = tpc ∧ t.me.tcause = BitVec.ofNat 8 x.cause.code ∧ t.me.tlanes = x.lanes &&& s.me.visible ∧
    t.me.taddr = x.taddr ∧ t.me.tval = x.tval ∧ t.me.pc = s.me.pc ∧ t.me.s = s.me.s ∧ t.me.v = s.me.v ∧ t.me.m = s.me.m ∧
    t.me.stack = s.me.stack ∧ t.me.tmasked = s.me.tmasked ∧
    t.blk.failed = some (s.blk.failed.getD x.cause) ∧ t.blk.nfault = s.blk.nfault + 1 ∧ t.strands = s.strands ∧ t.blocks = s.blocks ∧
    t.core = s.core ∧ t.dram = s.dram ∧ t.slices = s.slices ∧
    ∃ m0 : Nat, m0 = (msrc s 0).toNat ∧ ∃ head : W64, t.vds = (s.postFault s.blk.vd
      [head, tpc, BitVec.ofNat 64 (m0 * 2 ^ 32 + (if s.me.tmasked then 32 else 0) + s.me.slot % 32),
       BitVec.ofNat 64 (x.lanes &&& s.me.visible).toNat, x.taddr]).vds ∧ slice head 7 0 = x.cause.code

/-- 03 R71: `trap` raises SOFTWARE with its immediate in TVAL, TPC at the `trap` word whatever hints stand before it; `brk` without a
debugger raises BREAKPOINT in the same way, and in a block of a debug session stops the strand behind the word, whose count of the
coverage is used up (01 R25), and then the strands of its block (21 R348). -/
def Sys2Proof.Machine.SaysSoftwareTraps : Prop :=
  ∀ (k : BitVec 20) (s : State), Ready s →
    (∃ b : State, b.timeless = s.timeless ∧
      exec (.trap k) s = .next (b.takeTrap { cause := .software, tval := k.setWidth 64, lanes := s.me.visible, taddr := 0, word := true })) ∧
    (s.blk.debug = false → ∃ (b : State) (f : Form), b.timeless = s.timeless ∧
      exec (.brk k) s = .next ((b.takeTrap { cause := .breakpoint, tval := k.setWidth 64, lanes := s.me.visible, taddr := 0, word := true }).countIssue f)) ∧
    (s.blk.debug = true → Leads (exec (.brk k) s) ((s.mapMe (fun t => { t with
      run := .stopped, tpc := t.pc, tval := k.setWidth 64, pc := t.pc + 4, stopPc := t.pc, wake := true, matched := false, tretMask := none,
      stall := t.stall.tail, hints := .none, memWait := none, flight := none, wait := .none })).dueOnce 0 (.debugStop s.me.block)))

/-- 02 R54, 03 R72: `tret` returns to TPC with TMASKED = 0; the next non-hint instruction runs under m0 AND TLANES; a TPC that is no
multiple of 4 traps MISALIGNED with TADDR = TPC, before any effect. -/
def Sys2Proof.Machine.SaysTrapReturn : Prop :=
  ∀ s : State, Ready s →
    (s.me.tpc.toNat % 4 = 0 → Leads (exec .tret s) (s.mapMe (fun t => { t with
      pc := t.tpc, tmasked := false, stall := [], hints := .none, fetch := [], matched := false, memWait := none, flight := none,
      tretMask := some t.tlanes }))) ∧
    (s.me.tpc.toNat % 4 ≠ 0 → ∃ b : State, b.timeless = s.timeless ∧
      exec .tret s = .next (b.takeTrap { cause := .misaligned, tval := 0, lanes := s.me.visible, taddr := s.me.tpc }))

/-- 03 R71: `trap` raises SOFTWARE with its immediate in TVAL, TPC at the `trap` word whatever hints stand before it; `brk` without a
debugger raises BREAKPOINT in the same way, and in a block of a debug session stops the strand behind the word, whose count of the
coverage is used up (01 R25), and then the strands of its block (21 R348).
02 R54, 03 R72: `tret` returns to TPC with TMASKED = 0; the next non-hint instruction runs under m0 AND TLANES; a TPC that is no
multiple of 4 traps MISALIGNED with TADDR = TPC, before any effect. -/
def Obligations.TrapWords : Prop :=
  Sys2Proof.Machine.SaysSoftwareTraps ∧ Sys2Proof.Machine.SaysTrapReturn

/-- 01 R32: a word whose major is 0x00 or reserved, whose fn or kind is not listed, or whose fields are not allowed, traps ILLEGAL
with the word in TVAL and no effect. -/
def Obligations.IllegalWords : Prop :=
  (∀ (i : Instr) (s : State), i.isWord = true → i.wellFormed = false → Ready s →
    exec i s = .next (s.takeTrap { cause := .illegal, tval := (encode i).setWidth 64, lanes := s.me.visible, taddr := 0 })) ∧
  (∀ (x : BitVec 26) (s : State), Ready s →
    exec (.ill x) s = .next (s.takeTrap { cause := .illegal, tval := x.setWidth 64, lanes := s.me.visible, taddr := 0 })) ∧
  (∀ (w : W32) (s : State), Ready s →
    exec (.unallocatedEncoding w) s = .next (s.takeTrap { cause := .illegal, tval := w.setWidth 64, lanes := s.me.visible, taddr := 0 }))

/-! ## System words (03 R70, R72 to R75) -/

/-- 03 R70, R72: `nop`, `tmask`, `tunmask`. -/
def Sys2Proof.Machine.SaysTrapMaskWords : Prop :=
  ∀ s : State, Ready s →
    Leads (exec .nop s) (s.wordDone (s.me.pc + 4)) ∧
    Leads (exec .tmask s) ((s.mapMe (fun t => { t with tmasked := true })).wordDone (s.me.pc + 4)) ∧
    Leads (exec .tunmask s) ((s.mapMe (fun t => { t with tmasked := false })).wordDone (s.me.pc + 4))

namespace Sys2Proof.Machine

/-- 07 R147, 03 R70: what an engine has not sealed becomes one final batch. -/
def Batches.final (b : Batches) : Batches :=
  if b.unsealed = [] then b
  else { last := b.last + 1, unsealed := [],
         batches := b.batches ++ [{ num := b.last + 1, ops := b.unsealed, reported := false, joined := false }] }

end Sys2Proof.Machine

/-- 03 R70, R74, R75: `exit` ends the strand, closes its batches and discards its hints; `yield` and `sleep` move past the word, end the
coverage and wait (the times of their ends are the model's, log entry 5); a set wake flag ends a `sleep` at once and is
consumed by it. -/
def Sys2Proof.Machine.SaysWaitingWords : Prop :=
  ∀ (a : BitVec 6) (s : State), Ready s →
    Leads (exec .exit s) ((s.mapMe (fun t => { t with
      run := .exited, mx := t.mx.final, cp := t.cp.final, sw := t.sw.final, hints := .none, stall := [], memWait := none,
      flight := none, wait := .none, tretMask := none })).checkBlock s.me.block) ∧
    Leads (exec .yield s) ((((s.wordDone (s.me.pc + 4)).mapMe (fun t => { t with stall := [], wait := .yielding })).undue
      (.yieldEnd s.me.id)).due (9 * acTicks) (.yieldEnd s.me.id)) ∧
    (SrcOk s a → Leads (exec (.sleep a) s)
      (let p := ((s.popped [a]).wordDone (s.me.pc + 4)).mapMe (fun t => { t with stall := [] })
       if s.me.wake then p.mapMe (fun t => { t with wake := false })
       else
         let q := (p.mapMe (fun t => { t with wait := .sleeping })).undue (.sleepTimeout s.me.id)
         if src s a = 0 then q else q.due (Min.min (src s a).toNat (2 ^ 32 - 1) * acTicks) (.sleepTimeout s.me.id)))

/-- 03 R70, R72: `nop`, `tmask`, `tunmask`.
03 R70, R74, R75: `exit` ends the strand, closes its batches and discards its hints; `yield` and `sleep` move past the word, end
the coverage and wait (the times of their ends are the model's, log entry 5); a set wake flag ends a `sleep` at once and is
consumed by it. -/
def Obligations.StrandWords : Prop :=
  Sys2Proof.Machine.SaysTrapMaskWords ∧ Sys2Proof.Machine.SaysWaitingWords

/-! ## Special registers (01 R29, R30, 03 R73) -/

namespace Sys2Proof.Machine

/-- The open batches of an engine (07 R147). -/
def openBatches (b : Batches) : Nat := (b.batches.dropWhile (fun k => k.ops.all (fun o => o.done))).length

/-- 01 R29, R30: what each special register reads as. -/
def special (s : State) (n : Nat) : W64 :=
  let t := s.me
  let CTRL : Nat := (if t.tmasked then 16 else 0) + (if t.prot then 8 else 0) + (if t.chk then 4 else 0) + t.rm.toNat
  if n = 0x000 then t.wid else if n = 0x001 then s.blk.widf else if n = 0x002 then BitVec.ofNat 64 t.slot
  else if n = 0x003 then BitVec.ofNat 64 s.blk.index else if n = 0x004 then BitVec.ofNat 64 t.role
  else if n = 0x005 then (s.placeOf s.blk.vd s.blk.core).setWidth 64
  else if n = 0x006 then (if t.prot then 16 else 32)
  else if n = 0x007 then BitVec.ofNat 64 (s.now / 8)
  else if n = 0x008 then BitVec.ofNat 64 ((s.now - t.launchAt) / 10)
  else if n = 0x009 then BitVec.ofNat 64 CTRL
  else if n = 0x00A then t.tpc else if n = 0x00B then t.tcause.setWidth 64
  else if n = 0x00C then (t.tlanes &&& t.visible).setWidth 64 else if n = 0x00D then t.taddr else if n = 0x00E then t.tval
  else if 0x010 ≤ n ∧ n ≤ 0x017 then (t.fmt[n - 0x010]?.getD 0).setWidth 64
  else if n = 0x018 then t.gang.setWidth 64
  else if n = 0x019 then BitVec.ofNat 64 (openBatches t.sw * 256 + openBatches t.cp * 16 + openBatches t.mx)
  else if n = 0x01A then BitVec.ofNat 64 t.stack.length else if n = 0x01B then t.sowfrom.setWidth 64
  else BitVec.ofNat 64 t.priv

/-- 01 R29, R30: what a write of each special register does: the RW fields take the value, all else is ignored. -/
def specialWrite (n : Nat) (x : W64) (t : Strand) : Strand :=
  if n = 0x009 then { t with chk := x.getLsbD 2, rm := x.setWidth 2 }
  else if n = 0x00A then { t with tpc := x } else if n = 0x00B then { t with tcause := x.setWidth 8 }
  else if n = 0x00C then { t with tlanes := x.setWidth 32 &&& t.visible } else if n = 0x00D then { t with taddr := x }
  else if n = 0x00E then { t with tval := x }
  else if h : 0x010 ≤ n ∧ n ≤ 0x017 then { t with fmt := t.fmt.set (n - 0x010) (x.setWidth 16) (by omega) }
  else if n = 0x018 then { t with gang := x.setWidth 32 }
  else t

/-- 01 R29: the numbers that are listed. -/
def specialNumber (n : Nat) : Prop := n ≤ 0x00E ∨ (0x010 ≤ n ∧ n ≤ 0x01C)

end Sys2Proof.Machine

/-- 03 R73, 01 R29, R30: `sread` of every listed register and `swrite` of every listed one but WID. -/
def Obligations.SpecialRegisters : Prop :=
  ∀ (a : BitVec 6) (r : BitVec 10) (s : State), Ready s → specialNumber r.toNat →
    (DstOk a → Leads (exec (.sread a r) s) ((s.wrote a (special s r.toNat)).wordDone (s.me.pc + 4))) ∧
    (r ≠ 0 → SrcOk s a →
      Leads (exec (.swrite a r) s) (((s.popped [a]).mapMe (specialWrite r.toNat (src s a))).wordDone (s.me.pc + 4)))

/-! ## Vector results (04 R76 to R95) -/

namespace Sys2Proof.Machine

/-- What an elementwise vector word says: its destination, its vector and scalar sources, whether a channel source is only peeked,
whether its fields are allowed in this state, and the element of each lane. -/
structure LaneRow where
  dst : BitVec 7
  vsrcs : List (BitVec 7)
  ssrcs : List (BitVec 6) := []
  peek : Bool := false
  ok : State → Prop := fun _ => True
  val : State → Nat → W32

/-- Element L of a source (04 R76). -/
def el (s : State) (f : BitVec 7) (L : Nat) : W32 := Vec.lane (vsrc s f) L

/-- 01 R15: K = 1 peeks, and needs a channel among the sources. -/
def kAllowed (k : BitVec 1) (fs : List (BitVec 7)) : Prop := k = 1 → ∃ f ∈ fs, isChan f = true

/-- 04 R80, 01 R28: the sum modulo 2^32, or clamped to the signed range after a `hint.mod` with sat = 1. -/
def vsum (s : State) (x : Int) : W32 :=
  match s.me.hints.mod with
  | some (_, true) => BitVec.ofInt 32 (Max.max (-(2 ^ 31)) (Min.min x (2 ^ 31 - 1)))
  | _ => BitVec.ofInt 32 x

/-- 04 R80: a row of two vector sources, in exact integers. -/
def vrow2 (d a b : BitVec 7) (k : BitVec 1) (op : W32 → W32 → Int) : Option LaneRow :=
  some { dst := d, vsrcs := [a, b], peek := k == 1, ok := fun _ => kAllowed k [a, b],
         val := fun s L => BitVec.ofInt 32 (op (el s a L) (el s b L)) }

/-- 04 R80. -/
def tableR80 : Instr → Option LaneRow
  | .vadd d a b k => some { dst := d, vsrcs := [a, b], peek := k == 1, ok := fun _ => kAllowed k [a, b],
                            val := fun s L => vsum s ((el s a L).toInt + (el s b L).toInt) }
  | .vsub d a b k => some { dst := d, vsrcs := [a, b], peek := k == 1, ok := fun _ => kAllowed k [a, b],
                            val := fun s L => vsum s ((el s a L).toInt - (el s b L).toInt) }
  | .vmul d a b k => vrow2 d a b k (fun x y => x.toInt * y.toInt)
  | .vmulh d a b k => vrow2 d a b k (fun x y => x.toInt * y.toInt / 2 ^ 32)
  | .vmulhn d a b k => vrow2 d a b k (fun x y => x.toNat * y.toNat / 2 ^ 32)
  | .vmin d a b k => vrow2 d a b k (fun x y => Min.min x.toInt y.toInt)
  | .vmax d a b k => vrow2 d a b k (fun x y => Max.max x.toInt y.toInt)
  | .vminn d a b k => vrow2 d a b k (fun x y => (Min.min x.toNat y.toNat : Nat))
  | .vmaxn d a b k => vrow2 d a b k (fun x y => (Max.max x.toNat y.toNat : Nat))
  | .vand d a b k => vrow2 d a b k (fun x y => (x.toNat &&& y.toNat : Nat))
  | .vor d a b k => vrow2 d a b k (fun x y => (x.toNat ||| y.toNat : Nat))
  | .vxor d a b k => vrow2 d a b k (fun x y => (x.toNat ^^^ y.toNat : Nat))
  | .vshl d a b k => vrow2 d a b k (fun x y => x.toNat * 2 ^ (y.toNat % 32))
  | .vshr d a b k => vrow2 d a b k (fun x y => x.toNat / 2 ^ (y.toNat % 32))
  | .vsar d a b k => vrow2 d a b k (fun x y => x.toInt / 2 ^ (y.toNat % 32))
  | .vabsd d a b k => vrow2 d a b k (fun x y => (x.toInt - y.toInt).natAbs)
  | _ => none

/-- A row of three plain registers. -/
def vrow3 (d a b c : BitVec 6) (op : State → W32 → W32 → W32 → W32) : Option LaneRow :=
  some { dst := d.setWidth 7, vsrcs := [a.setWidth 7, b.setWidth 7, c.setWidth 7],
         val := fun s L => op s (el s (a.setWidth 7) L) (el s (b.setWidth 7) L) (el s (c.setWidth 7) L) }

/-- 04 R82. -/
def tableR82 : Instr → Option LaneRow
  | .vmad d a b c => vrow3 d a b c (fun _ x y z => BitVec.ofInt 32 (x.toInt * y.toInt + z.toInt))
  | .vfsl d a b c => vrow3 d a b c (fun _ x y z => ((x ++ y) <<< (z.toNat % 32)).extractLsb' 32 32)
  | .vfsr d a b c => vrow3 d a b c (fun _ x y z => ((x ++ y) >>> (z.toNat % 32)).extractLsb' 0 32)
  | .vbsel d a b c => vrow3 d a b c (fun _ x y z => (x &&& z) ||| (y &&& ~~~z))
  | _ => none

/-- c of 04 R84: the immediate, extended by a hint before the word. -/
def vimm (s : State) (i : BitVec 8) : W32 :=
  match s.me.hints.ximm with
  | some x => (x ++ i).signExtend 32
  | none => i.signExtend 32

/-- A row of one source and the immediate. -/
def vrowi (d a : BitVec 7) (i : BitVec 8) (op : State → W32 → W32 → W32) : Option LaneRow :=
  some { dst := d, vsrcs := [a], val := fun s L => op s (el s a L) (vimm s i) }

/-- 04 R84. -/
def tableR84 : Instr → Option LaneRow
  | .vaddi d a i => vrowi d a i (fun s x c => vsum s (x.toInt + c.toInt))
  | .vandi d a i => vrowi d a i (fun _ x c => x &&& c)
  | .vori d a i => vrowi d a i (fun _ x c => x ||| c)
  | .vxori d a i => vrowi d a i (fun _ x c => x ^^^ c)
  | .vshli d a i => vrowi d a i (fun _ x c => BitVec.ofInt 32 (x.toNat * 2 ^ (c.toNat % 32)))
  | .vshri d a i => vrowi d a i (fun _ x c => BitVec.ofInt 32 (x.toNat / 2 ^ (c.toNat % 32)))
  | .vsari d a i => vrowi d a i (fun _ x c => BitVec.ofInt 32 (x.toInt / 2 ^ (c.toNat % 32)))
  | .vmovi d i => some { dst := d, vsrcs := [], val := fun s _ => vimm s i }
  | _ => none

/-- b of 04 R85: the low or the high half of the scalar. -/
def halfOf (s : State) (r : BitVec 6) (m : BitVec 2) : W32 := if m = 0 then (src s r).extractLsb' 0 32 else (src s r).extractLsb' 32 32

/-- A row of one vector source and one scalar. -/
def vrows (d a : BitVec 7) (r : BitVec 6) (m : BitVec 2) (op : State → W32 → W32 → W32) : Option LaneRow :=
  some { dst := d, vsrcs := [a], ssrcs := [r], ok := fun _ => m.toNat < 2, val := fun s L => op s (el s a L) (halfOf s r m) }

/-- 04 R85. -/
def tableR85 : Instr → Option LaneRow
  | .vbcast d r m => some { dst := d, vsrcs := [], ssrcs := [r], ok := fun _ => m.toNat < 2, val := fun s _ => halfOf s r m }
  | .vadds d a r m => vrows d a r m (fun s x b => vsum s (x.toInt + b.toInt))
  | .vmuls d a r m => vrows d a r m (fun _ x b => x * b)
  | .vmulhns d a r m => vrows d a r m (fun _ x b => BitVec.ofInt 32 (x.toNat * b.toNat / 2 ^ 32))
  | .vshls d a r m => vrows d a r m (fun _ x b => BitVec.ofInt 32 (x.toNat * 2 ^ (b.toNat % 32)))
  | .vshrs d a r m => vrows d a r m (fun _ x b => BitVec.ofInt 32 (x.toNat / 2 ^ (b.toNat % 32)))
  | .vlaneid d r m => some { dst := d, vsrcs := [], ssrcs := [r], ok := fun _ => m.toNat < 2,
                             val := fun s L => BitVec.ofNat 32 L + halfOf s r m }
  | _ => none

/-- 04 R86; N is the visible lane count. -/
def tableR86 : Instr → Option LaneRow
  | .vxch d a i => some { dst := d, vsrcs := [a], ok := fun s => i.toNat ∈ [1, 2, 4, 8, 16] ∧ (s.me.prot = true → i.toNat < 16),
                          val := fun s L => el s a (L ^^^ i.toNat) }
  | .vrot d a k => some { dst := d, vsrcs := [a], val := fun s L => el s a ((L + k.toNat) % s.me.lanes) }
  | .vperm d a b k => some { dst := d, vsrcs := [a, b], peek := k == 1, ok := fun _ => kAllowed k [a, b],
                             val := fun s L => el s a ((el s b L).toNat % s.me.lanes) }
  | _ => none

/-- 04 R87: Combine: an absent value gives the other. -/
def joinBy {α : Type} (op : α → α → α) : Option α → Option α → Option α
  | none, y => y
  | x, none => x
  | some x, some y => some (op x y)

/-- 04 R87: the fixed tree over 2^k lanes from base: the two halves combine last. -/
def tree {α : Type} (op : α → α → α) (leaf : Nat → Option α) : Nat → Nat → Option α
  | 0, base => leaf base
  | k + 1, base => joinBy op (tree op leaf k base) (tree op leaf k (base + 2 ^ k))

/-- The leaf of lane L: absent when inactive. -/
def leaf {α : Type} (s : State) (f : BitVec 7) (read : W32 → α) (L : Nat) : Option α :=
  if s.active.getLsbD L then some (read (el s f L)) else none

/-- 04 R88: a row of a group reduction; the group of lane L starts at base. -/
def vrowg (d a : BitVec 7) (g : BitVec 8) (op : W32 → W32 → W32) : Option LaneRow :=
  some { dst := d, vsrcs := [a], ok := fun s => g.toNat ∈ [2, 4, 8, 16, 32] ∧ (s.me.prot = true → g.toNat < 32),
         val := fun s L => (tree op (leaf s a id) (Nat.log2 g.toNat) (L / g.toNat * g.toNat)).getD 0 }

/-- 04 R88. -/
def tableR88 : Instr → Option LaneRow
  | .vgadd d a g => vrowg d a g (fun x y => x + y)
  | .vgmax d a g => vrowg d a g (fun x y => if y.toInt < x.toInt then x else y)
  | .vgmaxn d a g => vrowg d a g (fun x y => if y.toNat < x.toNat then x else y)
  | .vgor d a g => vrowg d a g (fun x y => x ||| y)
  | .vscan d a g => some (LaneRow.mk d [a] [] false
      (fun s => g.toNat ∈ [2, 4, 8, 16, 32] ∧ (s.me.prot = true → g.toNat < 32))
      (fun s L => BitVec.ofNat 32 (((Finset.Icc (L / g.toNat * g.toNat) L).filter (fun k => s.active.getLsbD k = true)).sum
        (fun k => (el s a k).toNat))))
  | _ => none

/-- A row of FP32 operands. -/
def frow2 (d a b : BitVec 7) (k : BitVec 1) (op : Rnd → W32 → W32 → W32) : Option LaneRow :=
  some { dst := d, vsrcs := [a, b], peek := k == 1, ok := fun _ => kAllowed k [a, b], val := fun s L => op s.mode (el s a L) (el s b L) }

def frow1 (d a : BitVec 7) (k : BitVec 1) (op : Rnd → W32 → W32) : Option LaneRow :=
  some { dst := d, vsrcs := [a], peek := k == 1, ok := fun _ => kAllowed k [a], val := fun s L => op s.mode (el s a L) }

/-- 04 R83, R89 to R91: the FP32 members; the mode M is CTRL.RM or a hint's (R79), and matters where R89 and R90 say so. -/
def tableR89 : Instr → Option LaneRow
  | .vfma d a b c => vrow3 d a b c (fun s => fFma s.mode)
  | .vfms d a b c => vrow3 d a b c (fun s => fFms s.mode)
  | .vfnma d a b c => vrow3 d a b c (fun s => fFnma s.mode)
  | .vfadd d a b k => frow2 d a b k fAdd
  | .vfsub d a b k => frow2 d a b k fSub
  | .vfmul d a b k => frow2 d a b k fMul
  | .vfmin d a b k => frow2 d a b k (fun _ => fMin)
  | .vfmax d a b k => frow2 d a b k (fun _ => fMax)
  | .vfscale d a b k => frow2 d a b k fScale
  | .vfabs d a k => frow1 d a k (fun _ x => x &&& 0x7FFFFFFF)
  | .vfneg d a k => frow1 d a k (fun _ x => x ^^^ 0x80000000)
  | .vfclass d a k => frow1 d a k (fun _ => fClass)
  | .vfrcp d a k => frow1 d a k (fun _ => fRcp)
  | .vfrsq d a k => frow1 d a k (fun _ => fRsq)
  | .vfsqrt d a k => frow1 d a k fSqrt
  | .vfexp2 d a k => frow1 d a k (fun _ => fExp2)
  | .vflog2 d a k => frow1 d a k (fun _ => fLog2)
  | .vfsin d a k => frow1 d a k (fun _ => fSin)
  | .vfcos d a k => frow1 d a k (fun _ => fCos)
  | _ => none

/-- 04 R93, R94: how lane L rounds the source element x under the rm field. -/
def rounds (s : State) (r : BitVec 3) (L : Nat) (x : W32) : Rounding :=
  if r.toNat < 4 then .mode (Rnd.ofCode r.toNat) else if r.toNat = 4 then .sr (srValue s.me.wid L x) else .mode s.mode

/-- A row of a conversion of one element. -/
def crow (d a : BitVec 7) (r : BitVec 3) (op : Rounding → W32 → W32) : Option LaneRow :=
  some { dst := d, vsrcs := [a], ok := fun _ => r.toNat ≤ 5, val := fun s L => op (rounds s r L (el s a L)) (el s a L) }

/-- A row of a packing conversion: element L of register a + 1 goes to the high half. -/
def prow (d a : BitVec 7) (r : BitVec 3) (t : Ieee) : Option LaneRow :=
  some { dst := d, vsrcs := [a, a + 1], ok := fun _ => r.toNat ≤ 5 ∧ a.toNat < 63,
         val := fun s L => BitVec.ofNat 16 (t.encode (rounds s r L (el s (a + 1) L)) (f32 (el s (a + 1) L)))
           ++ BitVec.ofNat 16 (t.encode (rounds s r L (el s a L)) (f32 (el s a L))) }

/-- FMT[i] and what it says (04 R95). -/
def fmtOf (s : State) (i : BitVec 3) : BitVec 16 := s.me.fmt[i.toNat]?.getD 0

/-- 04 R95: the format value is valid: S + E + M from 1 to 8, and bit 0 is 0. -/
def fmtValid (f : BitVec 16) : Prop :=
  let n := (f.extractLsb' 15 1).toNat + (f.extractLsb' 12 3).toNat + (f.extractLsb' 9 3).toNat
  1 ≤ n ∧ n ≤ 8 ∧ f.getLsbD 0 = false

/-- 04 R93, R95. -/
def tableR93 : Instr → Option LaneRow
  | .vcvtF32I32 d a r => crow d a r (fun m x => toF32 m (FVal.ofInt x.toInt))
  | .vcvtF32N32 d a r => crow d a r (fun m x => toF32 m (FVal.ofInt x.toNat))
  | .vcvtI32F32 d a r => crow d a r (fun m x => BitVec.ofInt 32 ((f32 x).toInt m (-(2 ^ 31)) (2 ^ 31 - 1)))
  | .vcvtN32F32 d a r => crow d a r (fun m x => BitVec.ofInt 32 ((f32 x).toInt m 0 (2 ^ 32 - 1)))
  | .vcvtRint d a r => crow d a r (fun m x => toF32 (.mode .rne) ((f32 x).rint m))
  | .vcvtBf16F32 d a r => prow d a r bf16
  | .vcvtF16F32 d a r => prow d a r fp16
  | .vcvtF32Bf16 d a h => some (LaneRow.mk d [a] [] false (fun _ => True) (fun s L =>
      toF32 (.mode .rne) (bf16.decode (if h = 1 then (el s a L).extractLsb' 16 16 else (el s a L).extractLsb' 0 16).toNat)))
  | .vcvtF32F16 d a h => some (LaneRow.mk d [a] [] false (fun _ => True) (fun s L =>
      toF32 (.mode .rne) (fp16.decode (if h = 1 then (el s a L).extractLsb' 16 16 else (el s a L).extractLsb' 0 16).toNat)))
  | .vcvtNfF32 d a f r => some (LaneRow.mk d [a] [] false (fun s => r.toNat ≤ 5 ∧ fmtValid (fmtOf s f)) (fun s L =>
      BitVec.ofNat 32 ((Narrow.of (fmtOf s f)).encode (rounds s r L (el s a L)) (f32 (el s a L)))))
  | .vcvtF32Nf d a f r => some (LaneRow.mk d [a] [] false (fun s => r.toNat ≤ 5 ∧ fmtValid (fmtOf s f)) (fun s L =>
      toF32 (rounds s r L (el s a L)) ((Narrow.of (fmtOf s f)).decode (el s a L).toNat)))
  | _ => none

/-- A vector word may issue: its fields are allowed, its scalar and vector sources can be read and its destination written, and
where the destination is a channel, no pair of protected lanes that the word writes disagrees (02 R48). -/
structure LaneRow.Ready (r : LaneRow) (s : State) : Prop where
  strand : Sys2Proof.Machine.Ready s
  ok : r.ok s
  budget : s.me.budget ≤ 64
  scalars : ∀ a ∈ r.ssrcs, SrcOk s a
  sources : ∀ f ∈ r.vsrcs, VSrcOk s f
  dest : VDstOk s (if r.peek then [] else r.vsrcs) r.dst
  paired : isChan r.dst = true → s.disagree s.active = 0

/-- The vector that an elementwise word leaves: the active lanes take the new elements, the others keep theirs (00 R9). -/
def LaneRow.result (r : LaneRow) (s : State) : Vec :=
  Vec.tab (fun L => if s.active.getLsbD L then r.val s L else vkept s r.dst L)

/-- The state after an elementwise word. -/
def LaneRow.after (r : LaneRow) (s : State) : State :=
  let w := (s.popped r.ssrcs).vwrote r.dst (r.result s)
  (if r.peek then w else w.vpopped r.vsrcs).wordDone (s.me.pc + 4)

end Sys2Proof.Machine

/-- 04 R80: the members of major 0x18. -/
def Sys2Proof.Machine.SaysVectorIntegers : Prop :=
  ∀ (i : Instr) (r : LaneRow) (s : State), tableR80 i = some r → r.Ready s → Leads (exec i s) (r.after s)

/-- 04 R82, R84, R85: four-operand forms, immediates, scalar operands. -/
def Sys2Proof.Machine.SaysVectorForms : Prop :=
  ∀ (i : Instr) (r : LaneRow) (s : State), (tableR82 i = some r ∨ tableR84 i = some r ∨ tableR85 i = some r) → r.Ready s →
    Leads (exec i s) (r.after s)

/-- 04 R86, R88: lane exchange, rotation and permutation; group reductions and the scan. -/
def Sys2Proof.Machine.SaysLaneMovement : Prop :=
  ∀ (i : Instr) (r : LaneRow) (s : State), (tableR86 i = some r ∨ tableR88 i = some r) → r.Ready s → Leads (exec i s) (r.after s)

/-- 04 R80: the members of major 0x18.
04 R82, R84, R85: four-operand forms, immediates, scalar operands.
04 R86, R88: lane exchange, rotation and permutation; group reductions and the scan. -/
def Obligations.VectorTables : Prop :=
  Sys2Proof.Machine.SaysVectorIntegers ∧ Sys2Proof.Machine.SaysVectorForms ∧ Sys2Proof.Machine.SaysLaneMovement

/-- 04 R83, R89 to R91: the FP32 members. -/
def Sys2Proof.Machine.SaysVectorFloats : Prop :=
  ∀ (i : Instr) (r : LaneRow) (s : State), tableR89 i = some r → r.Ready s → Leads (exec i s) (r.after s)

/-- 04 R93 to R95: the conversions; an invalid format traps FORMAT, with TVAL the format value, before any channel is popped. That it
traps under an empty mask too is the model's choice (log entry 43). -/
def Sys2Proof.Machine.SaysConversions : Prop :=
  (∀ (i : Instr) (r : LaneRow) (s : State), tableR93 i = some r → r.Ready s → Leads (exec i s) (r.after s)) ∧
  (∀ (d a : BitVec 7) (f r : BitVec 3) (i : Instr) (s : State), (i = .vcvtNfF32 d a f r ∨ i = .vcvtF32Nf d a f r) → Ready s → r.toNat ≤ 5 →
    s.me.budget ≤ 64 → VSrcOk s a → VDstOk s [a] d → ¬ fmtValid (fmtOf s f) →
    ∃ b : State, b.timeless = s.timeless ∧
      exec i s = .next (b.takeTrap { cause := .format, tval := (fmtOf s f).setWidth 64, lanes := s.me.visible, taddr := 0 }))

/-- 04 R83, R89 to R91: the FP32 members.
04 R93 to R95: the conversions; an invalid format traps FORMAT, with TVAL the format value, before any channel is popped. That it
traps under an empty mask too is the model's choice (log entry 43). -/
def Obligations.FloatTables : Prop :=
  Sys2Proof.Machine.SaysVectorFloats ∧ Sys2Proof.Machine.SaysConversions

/-- 04 R86: `vinsl` writes one lane, if it is active; `vextl` reads one, active or not. -/
def Sys2Proof.Machine.SaysOneLane : Prop :=
  ∀ (d a : BitVec 7) (l : BitVec 5) (n : BitVec 8) (r x : BitVec 6) (m : BitVec 2) (s : State), Ready s → s.me.budget ≤ 64 →
    (s.me.prot = true → l.toNat < 16 ∧ n.toNat < 16) →
    (m.toNat < 2 → SrcOk s r → VDstOk s [] d → (isChan d = true → s.disagree (s.active &&& (1#32 <<< l.toNat)) = 0) →
      Leads (exec (.vinsl d l r m) s)
      (((s.popped [r]).vwrote d (Vec.tab (fun L => if L = l.toNat ∧ s.active.getLsbD L = true then halfOf s r m else vkept s d L))).wordDone
        (s.me.pc + 4))) ∧
    (n.toNat < 32 → DstOk x → VSrcOk s a → s.active ≠ 0 → s.disagree (1#32 <<< n.toNat) = 0 → Leads (exec (.vextl x a n) s)
      (((s.wrote x ((el s a n.toNat).setWidth 64)).vpopped [a]).wordDone (s.me.pc + 4)))

/-- 04 R87, R79: the reductions to a scalar, by the fixed tree over the active lanes; a NaN result is the canonical NaN, also where one
active lane alone gives it. -/
def Sys2Proof.Machine.SaysReductions : Prop :=
  ∀ (d : BitVec 6) (a : BitVec 7) (s : State), Ready s → s.me.budget ≤ 64 → DstOk d → VSrcOk s a → s.active ≠ 0 →
    s.active &&& ~~~s.me.visible = 0 → s.disagree s.active = 0 →
    let k := if s.me.prot then 4 else 5
    let gives (i : Instr) (x : W64) := Leads (exec i s) (((s.wrote d x).vpopped [a]).wordDone (s.me.pc + 4))
    let canonical (x : W32) : W64 := if f32 x = .nan then 0x7FC00000 else x.setWidth 64
    gives (.vradd d a) (BitVec.ofInt 64 (((Finset.range 32).filter (fun L => s.active.getLsbD L = true)).sum (fun L => (el s a L).toInt))) ∧
    gives (.vrmax d a) (((tree (fun x y : W32 => if y.toInt < x.toInt then x else y) (leaf s a id) k 0).getD 0).signExtend 64) ∧
    gives (.vrmin d a) (((tree (fun x y : W32 => if x.toInt < y.toInt then x else y) (leaf s a id) k 0).getD 0).signExtend 64) ∧
    gives (.vrmaxn d a) (((tree (fun x y : W32 => if y.toNat < x.toNat then x else y) (leaf s a id) k 0).getD 0).setWidth 64) ∧
    gives (.vrfadd d a) (canonical ((tree (fAdd (Rnd.ofCode s.me.rm.toNat)) (leaf s a id) k 0).getD 0)) ∧
    gives (.vrfmax d a) (canonical ((tree fMax (leaf s a id) k 0).getD 0))

/-- 04 R86: `vinsl` writes one lane, if it is active; `vextl` reads one, active or not.
04 R87, R79: the reductions to a scalar, by the fixed tree over the active lanes; a NaN result is the canonical NaN, also where
one active lane alone gives it. -/
def Obligations.VectorScalars : Prop :=
  Sys2Proof.Machine.SaysOneLane ∧ Sys2Proof.Machine.SaysReductions

/-- 04 R81, R92: `vcmp` and `vfcmp` write one bit a lane: the condition in an active lane, 0 in an inactive one. -/
def Sys2Proof.Machine.SaysVectorCompares : Prop :=
  ∀ (c m : BitVec 3) (a b : BitVec 7) (s : State), Ready s → s.me.budget ≤ 64 → m ≠ 0 → VSrcOk s a → VSrcOk s b → s.active ≠ 0 →
    s.disagree s.active = 0 →
    let gives (i : Instr) (p : W32 → W32 → Bool) := ∃ x : W32, (∀ L < 32, x.getLsbD L = (s.active.getLsbD L && p (el s a L) (el s b L))) ∧
      Leads (exec i s) (((s.mwrote m x).vpopped [a, b]).wordDone (s.me.pc + 4))
    (c.toNat ≤ 5 → gives (.vcmp c m a b) (fun x y => match c.toNat with
      | 0 => x == y
      | 1 => x != y
      | 2 => decide (x.toInt < y.toInt)
      | 3 => decide (y.toInt ≤ x.toInt)
      | 4 => decide (x.toNat < y.toNat)
      | _ => decide (y.toNat ≤ x.toNat))) ∧
    (c.toNat ≤ 4 → gives (.vfcmp c m a b) (fun x y =>
      let nan := f32 x = .nan ∨ f32 y = .nan
      match c.toNat with
      | 0 => decide (¬ nan ∧ (f32 x).cmp (f32 y) = 0)
      | 1 => decide (¬ nan ∧ (f32 x).cmp (f32 y) < 0)
      | 2 => decide (¬ nan ∧ (f32 x).cmp (f32 y) ≤ 0)
      | 3 => decide nan
      | _ => decide (nan ∨ (f32 x).cmp (f32 y) ≠ 0)))

/-- 02 R54: a vector word of the tables whose mask m0 AND TLANES is zero writes no register, but still takes out and puts in its
channel entries; a compare, a reduction and `vextl` leave their destinations as they were. -/
def Sys2Proof.Machine.SaysEmptyMask : Prop :=
  ∀ (c m : BitVec 3) (a b : BitVec 7) (d : BitVec 6) (n : BitVec 8) (s : State), Ready s → s.me.budget ≤ 64 → m ≠ 0 → VSrcOk s a → VSrcOk s b →
    DstOk d → s.active = 0 → c.toNat ≤ 4 → n.toNat < 16 →
    (∀ i ∈ [Instr.vcmp c m a b, .vfcmp c m a b], Leads (exec i s) ((s.vpopped [a, b]).wordDone (s.me.pc + 4))) ∧
    (∀ i ∈ [Instr.vradd d a, .vrmax d a, .vrmin d a, .vrmaxn d a, .vrfadd d a, .vrfmax d a, .vextl d a n],
      Leads (exec i s) ((s.vpopped [a]).wordDone (s.me.pc + 4)))

/-- 02 R49: where a pair of protected lanes that a compare writes a bit from disagrees, the strand halts with PROTECT_MISMATCH, the
record names the lanes, and nothing is written. -/
def Sys2Proof.Machine.SaysProtectMismatch : Prop :=
  ∀ (c m : BitVec 3) (a b : BitVec 7) (s : State), Ready s → s.me.budget ≤ 64 → m ≠ 0 → VSrcOk s a → VSrcOk s b → s.active ≠ 0 →
    c.toNat ≤ 5 → s.me.prot = true →
    let bad := s.me.shadow &&& s.active &&& s.me.visible
    bad ≠ 0 → ∃ (w : State) (f : Form), w.timeless = s.timeless ∧
      exec (.vcmp c m a b) s = .next ((w.halt { cause := .protectMismatch, tval := 0, lanes := bad, taddr := 0 }).countIssue f)

/-- 04 R81, R92: `vcmp` and `vfcmp` write one bit a lane: the condition in an active lane, 0 in an inactive one.
02 R54: a vector word of the tables whose mask m0 AND TLANES is zero writes no register, but still takes out and puts in its
channel entries; a compare, a reduction and `vextl` leave their destinations as they were.
02 R49: where a pair of protected lanes that a compare writes a bit from disagrees, the strand halts with PROTECT_MISMATCH, the
record names the lanes, and nothing is written. -/
def Obligations.MaskedVector : Prop :=
  Sys2Proof.Machine.SaysVectorCompares ∧ Sys2Proof.Machine.SaysEmptyMask ∧ Sys2Proof.Machine.SaysProtectMismatch

/-! ## Rounding once (04 R79) -/

namespace Sys2Proof.Machine

/-- The real number that a finite value stands for. -/
def FVal.real : FVal → Option ℚ
  | .fin neg mag exp => some ((if neg then -1 else 1) * (mag : ℚ) * (2 : ℚ) ^ exp)
  | _ => none

/-- The real number of a finite FP32 code. -/
def real32 (x : W32) : Option ℚ := (f32 x).real

/-- 04 R79, IEEE 754: r is x, which lies within the finite range, rounded once in mode m: the nearest finite value, the even one of
two; or the next one towards zero, below or above. -/
def IsRounded (m : Rnd) (x : ℚ) (r : W32) : Prop :=
  ∃ y, real32 r = some y ∧
    match m with
    | .rne => ∀ (k : W32) (z : ℚ), real32 k = some z → |x - y| ≤ |x - z| ∧ (|x - y| = |x - z| → z ≠ y → r.getLsbD 0 = false)
    | .rz => |y| ≤ |x| ∧ 0 ≤ y * x ∧ ∀ (k : W32) (z : ℚ), real32 k = some z → |z| ≤ |x| → |z| ≤ |y|
    | .rdn => y ≤ x ∧ ∀ (k : W32) (z : ℚ), real32 k = some z → z ≤ x → z ≤ y
    | .rup => x ≤ y ∧ ∀ (k : W32) (z : ℚ), real32 k = some z → x ≤ z → y ≤ z

/-- The largest finite FP32 value. -/
def maxFinite32 : ℚ := (2 ^ 24 - 1) * 2 ^ 104

end Sys2Proof.Machine

/-- 04 R79, R83, R89: add, subtract, multiply and the three fused members give the exact value rounded once in M, whenever it lies
within the finite range. -/
def Sys2Proof.Machine.SaysRoundedOnce : Prop :=
  ∀ (m : Rnd) (a b c : W32) (x y z : ℚ), real32 a = some x → real32 b = some y → real32 c = some z →
    (|x + y| ≤ maxFinite32 → IsRounded m (x + y) (fAdd m a b)) ∧
    (|x - y| ≤ maxFinite32 → IsRounded m (x - y) (fSub m a b)) ∧
    (|x * y| ≤ maxFinite32 → IsRounded m (x * y) (fMul m a b)) ∧
    (|x * y + z| ≤ maxFinite32 → IsRounded m (x * y + z) (fFma m a b c)) ∧
    (|x * y - z| ≤ maxFinite32 → IsRounded m (x * y - z) (fFms m a b c)) ∧
    (|z - x * y| ≤ maxFinite32 → IsRounded m (z - x * y) (fFnma m a b c))

/-- 04 R79: a NaN operand, and an invalid operation, give the canonical NaN in every arithmetic member; `vfmin` and `vfmax` give the
other operand for one NaN. -/
def Sys2Proof.Machine.SaysCanonicalNan : Prop :=
  ∀ (m : Rnd) (a b c : W32),
    (f32 a = .nan → fAdd m a b = 0x7FC00000 ∧ fAdd m b a = 0x7FC00000 ∧ fSub m a b = 0x7FC00000 ∧ fSub m b a = 0x7FC00000 ∧
      fMul m a b = 0x7FC00000 ∧ fMul m b a = 0x7FC00000 ∧ fFma m a b c = 0x7FC00000 ∧ fFma m b a c = 0x7FC00000 ∧
      fFma m b c a = 0x7FC00000 ∧ fScale m a b = 0x7FC00000 ∧ fRcp a = 0x7FC00000 ∧ fRsq a = 0x7FC00000 ∧ fSqrt m a = 0x7FC00000 ∧
      fExp2 a = 0x7FC00000 ∧ fLog2 a = 0x7FC00000 ∧ fSin a = 0x7FC00000 ∧ fCos a = 0x7FC00000 ∧
      (f32 b = .nan → fMin a b = 0x7FC00000 ∧ fMax a b = 0x7FC00000) ∧
      (f32 b ≠ .nan → fMin a b = b ∧ fMin b a = b ∧ fMax a b = b ∧ fMax b a = b)) ∧
    (∀ n : Bool, f32 a = .inf n → f32 b = .inf (!n) → fAdd m a b = 0x7FC00000) ∧
    (∀ n k e : _, f32 a = .inf n → f32 b = .fin k 0 e → fMul m a b = 0x7FC00000 ∧ fMul m b a = 0x7FC00000 ∧ fFma m a b c = 0x7FC00000)


/-! ## The values of the other FP32 members and of the conversions (04 R83, R89 to R91, R93 to R95) -/

namespace Sys2Proof.Machine

/-- 04 R79 for a result that is a real number: r is x rounded once in mode m. -/
def RealRounded (m : Rnd) (x : ℝ) (r : W32) : Prop :=
  ∃ y, real32 r = some y ∧
    match m with
    | .rne => ∀ (k : W32) (z : ℚ), real32 k = some z → |x - y| ≤ |x - z| ∧ (|x - y| = |x - z| → z ≠ y → r.getLsbD 0 = false)
    | .rz => |(y : ℝ)| ≤ |x| ∧ 0 ≤ y * x ∧ ∀ (k : W32) (z : ℚ), real32 k = some z → |(z : ℝ)| ≤ |x| → |z| ≤ |y|
    | .rdn => (y : ℝ) ≤ x ∧ ∀ (k : W32) (z : ℚ), real32 k = some z → (z : ℝ) ≤ x → z ≤ y
    | .rup => x ≤ (y : ℝ) ∧ ∀ (k : W32) (z : ℚ), real32 k = some z → x ≤ (z : ℝ) → y ≤ z

/-- The code c of a format, whose finite codes stand for the values `val`, is x rounded once in mode m; `tie` says that two nearest
values are told apart by the even code. -/
def RoundsIn (val : Nat → Option ℚ) (tie : Prop) (m : Rnd) (x : ℚ) (c : Nat) : Prop :=
  ∃ y, val c = some y ∧
    match m with
    | .rne => ∀ (k : Nat) (z : ℚ), val k = some z → |x - y| ≤ |x - z| ∧ (tie → |x - y| = |x - z| → z ≠ y → c % 2 = 0)
    | .rz => |y| ≤ |x| ∧ 0 ≤ y * x ∧ ∀ (k : Nat) (z : ℚ), val k = some z → |z| ≤ |x| → |z| ≤ |y|
    | .rdn => y ≤ x ∧ ∀ (k : Nat) (z : ℚ), val k = some z → z ≤ x → z ≤ y
    | .rup => x ≤ y ∧ ∀ (k : Nat) (z : ℚ), val k = some z → x ≤ z → y ≤ z

/-- The value of a code of an IEEE format. -/
def Ieee.val (t : Ieee) (c : Nat) : Option ℚ := (t.decode c).real

/-- The largest finite value of an IEEE format, and half the spacing of the values there. -/
def Ieee.maxFinite (t : Ieee) : ℚ := (2 ^ t.p - 1) * (2 : ℚ) ^ ((2 : ℤ) ^ (t.eb - 1) - t.p)
def Ieee.halfStep (t : Ieee) : ℚ := (2 : ℚ) ^ ((2 : ℤ) ^ (t.eb - 1) - t.p - 1)

/-- The code of an infinity, and of the largest finite value, of one sign. -/
def Ieee.infOf (t : Ieee) (neg : Bool) : Nat := (if neg then 2 ^ (t.p - 1 + t.eb) else 0) + (2 ^ t.eb - 1) * 2 ^ (t.p - 1)
def Ieee.maxOf (t : Ieee) (neg : Bool) : Nat := t.infOf neg - 1

/-- 04 R79, IEEE 754: whether a value of one sign beyond the finite range becomes an infinity. -/
def toInfinity (t : Ieee) (m : Rnd) (x : ℚ) : Prop :=
  match m with
  | .rne => t.maxFinite + t.halfStep ≤ |x|
  | .rz => False
  | .rdn => x < 0
  | .rup => 0 < x

/-- The integer that a value rounds to in mode m. -/
def intRound (m : Rnd) (x : ℚ) : ℤ :=
  match m with
  | .rne => if x - ⌊x⌋ < 1 / 2 ∨ (x - ⌊x⌋ = 1 / 2 ∧ ⌊x⌋ % 2 = 0) then ⌊x⌋ else ⌊x⌋ + 1
  | .rz => if 0 ≤ x then ⌊x⌋ else ⌈x⌉
  | .rdn => ⌊x⌋
  | .rup => ⌈x⌉

/-- 04 R95: the value of an n-bit code, by the fields of the format value. -/
def narrowValue (f : BitVec 16) (c : Nat) : ℚ :=
  let S := slice f 15 15
  let E := slice f 14 12
  let M := slice f 11 9
  let bias : ℤ := ((f.extractLsb' 1 8).toInt)
  let n := S + E + M
  let sign : ℚ := if S = 1 ∧ c / 2 ^ (n - 1) % 2 = 1 then -1 else 1
  let e := c / 2 ^ M % 2 ^ E
  let frac : ℚ := (c % 2 ^ M : Nat)
  if E = 0 then ((if S = 1 ∧ 2 ^ (n - 1) ≤ c then (c : ℚ) - 2 ^ n else c)) * (2 : ℚ) ^ (-bias)
  else if e = 0 then sign * (frac / 2 ^ M) * (2 : ℚ) ^ (1 - bias)
  else sign * (1 + frac / 2 ^ M) * (2 : ℚ) ^ ((e : ℤ) - bias)

/-- The values of the codes of a narrow format. -/
def narrowVal (f : BitVec 16) (c : Nat) : Option ℚ :=
  if c < 2 ^ (slice f 15 15 + slice f 14 12 + slice f 11 9) then some (narrowValue f c) else none

end Sys2Proof.Machine

/-- 04 R83, R89: an exact zero sum is +0, -0 in RDN, but two zeros of one sign keep it; `vfmin` and `vfmax` of two operands that are no
NaN give the lesser and the greater, -0 below +0; `vfscale` gives A x 2^Sx(B) rounded once, an infinity and a zero unchanged.  04 R91:
`vfclass` sets the one bit of the class. -/
def Sys2Proof.Machine.SaysFloatMembers : Prop :=
  ∀ (m : Rnd) (a b c : W32),
    fAdd m 0 0 = 0 ∧ fAdd m 0x80000000 0x80000000 = 0x80000000 ∧ (fAdd m 0 0x80000000 = if m = .rdn then 0x80000000 else 0) ∧
    (∀ x y z : ℚ, real32 a = some x → real32 b = some y → real32 c = some z →
      (x ≠ 0 → x + y = 0 → fAdd m a b = if m = .rdn then 0x80000000 else 0) ∧
      (x * y ≠ 0 → x * y + z = 0 → fFma m a b c = if m = .rdn then 0x80000000 else 0) ∧
      (x < y → fMin a b = a ∧ fMin b a = a ∧ fMax a b = b ∧ fMax b a = b) ∧
      (|x * (2 : ℚ) ^ b.toInt| ≤ maxFinite32 → IsRounded m (x * (2 : ℚ) ^ b.toInt) (fScale m a b)) ∧
      (x = 0 → fScale m a b = a)) ∧
    fMin 0x80000000 0 = 0x80000000 ∧ fMin 0 0x80000000 = 0x80000000 ∧ fMax 0x80000000 0 = 0 ∧ fMax 0 0x80000000 = 0 ∧
    (f32 b ≠ .nan → fMin 0xFF800000 b = 0xFF800000 ∧ fMin b 0xFF800000 = 0xFF800000 ∧ fMax 0x7F800000 b = 0x7F800000 ∧
      fMax b 0x7F800000 = 0x7F800000) ∧
    (∀ n, f32 a = .inf n → fScale m a b = a) ∧
    (∀ x : ℚ, real32 a = some x →
      (x ≤ -(2 : ℚ) ^ (-126 : ℤ) → fClass a = 2 ^ 1) ∧ (-(2 : ℚ) ^ (-126 : ℤ) < x → x < 0 → fClass a = 2 ^ 2) ∧
      (0 < x → x < (2 : ℚ) ^ (-126 : ℤ) → fClass a = 2 ^ 5) ∧ ((2 : ℚ) ^ (-126 : ℤ) ≤ x → fClass a = 2 ^ 6)) ∧
    fClass 0xFF800000 = 2 ^ 0 ∧ fClass 0x80000000 = 2 ^ 3 ∧ fClass 0 = 2 ^ 4 ∧ fClass 0x7F800000 = 2 ^ 7 ∧
    (f32 a = .nan → fClass a = if a.getLsbD 22 then 2 ^ 9 else 2 ^ 8)

/-- 04 R90: `vfrcp` and `vfrsq` are rounded once in RNE, `vfsqrt` in M; `vfexp2` of an integer and `vflog2` of a power of two are exact; no
result of `vfsin` or `vfcos` exceeds 1 in magnitude; and each member's special values. -/
def Sys2Proof.Machine.SaysFloatFunctions : Prop :=
  (∀ (m : Rnd) (a : W32) (x : ℚ), real32 a = some x →
    (x ≠ 0 → |1 / x| ≤ maxFinite32 → IsRounded .rne (1 / x) (fRcp a)) ∧
    (x ≠ 0 → maxFinite32 < |1 / x| → fRcp a = if x < 0 then 0xFF800000 else 0x7F800000) ∧
    (0 < x → RealRounded .rne (1 / √(x : ℝ)) (fRsq a) ∧ RealRounded m (√(x : ℝ)) (fSqrt m a)) ∧
    (x < 0 → fRsq a = 0x7FC00000 ∧ fSqrt m a = 0x7FC00000 ∧ fLog2 a = 0x7FC00000) ∧
    (∀ k : ℤ, x = k → (-149 ≤ k → k ≤ 127 → real32 (fExp2 a) = some ((2 : ℚ) ^ k)) ∧ (128 ≤ k → fExp2 a = 0x7F800000) ∧
      (k ≤ -150 → fExp2 a = 0)) ∧
    (∀ k : ℤ, x = (2 : ℚ) ^ k → real32 (fLog2 a) = some (k : ℚ)) ∧
    (∃ y, real32 (fSin a) = some y ∧ |y| ≤ 1) ∧ (∃ y, real32 (fCos a) = some y ∧ |y| ≤ 1)) ∧
  (∀ m : Rnd,
    fRcp 0 = 0x7F800000 ∧ fRcp 0x80000000 = 0xFF800000 ∧ fRcp 0x7F800000 = 0 ∧ fRcp 0xFF800000 = 0x80000000 ∧
    fRsq 0 = 0x7F800000 ∧ fRsq 0x80000000 = 0xFF800000 ∧ fRsq 0x7F800000 = 0 ∧ fRsq 0xFF800000 = 0x7FC00000 ∧
    fSqrt m 0 = 0 ∧ fSqrt m 0x80000000 = 0x80000000 ∧ fSqrt m 0x7F800000 = 0x7F800000 ∧ fSqrt m 0xFF800000 = 0x7FC00000 ∧
    fExp2 0xFF800000 = 0 ∧ fExp2 0x7F800000 = 0x7F800000 ∧
    fLog2 0 = 0xFF800000 ∧ fLog2 0x80000000 = 0xFF800000 ∧ fLog2 0x7F800000 = 0x7F800000 ∧ fLog2 0xFF800000 = 0x7FC00000 ∧
    fSin 0 = 0 ∧ fSin 0x80000000 = 0x80000000 ∧ fCos 0 = 0x3F800000 ∧ fCos 0x80000000 = 0x3F800000 ∧
    fSin 0x7F800000 = 0x7FC00000 ∧ fSin 0xFF800000 = 0x7FC00000 ∧ fCos 0x7F800000 = 0x7FC00000 ∧ fCos 0xFF800000 = 0x7FC00000)

/-- 04 R79, R93, R94: an exact value goes to FP32, BF16 or binary16 rounded once in the mode, or by the stochastic rule between its two
neighbours; beyond the range it gives an infinity or the largest finite value as the mode says, the latter for SR; a NaN gives the
format's canonical NaN.  Integer targets round and then saturate, and a NaN gives 0; `rint` gives the integer that the mode rounds to.
R94: the rounding value of a lane. -/
def Sys2Proof.Machine.SaysConversionValues : Prop :=
  (∀ (t : Ieee) (m : Rnd) (r : Nat) (v : FVal) (x : ℚ), t ∈ [fp32, bf16, fp16] → v.real = some x →
    (|x| ≤ t.maxFinite → RoundsIn t.val True m x (t.encode (.mode m) v)) ∧
    (t.maxFinite < |x| → (toInfinity t m x → t.encode (.mode m) v = t.infOf (decide (x < 0))) ∧
      (¬ toInfinity t m x → t.encode (.mode m) v = t.maxOf (decide (x < 0))) ∧ t.encode (.sr r) v = t.maxOf (decide (x < 0))) ∧
    (∀ k : Nat, t.val k = some x → t.val (t.encode (.sr r) v) = some x) ∧
    (∀ lo hi : ℚ, (∃ k, t.val k = some lo) → (∃ k, t.val k = some hi) → lo < x → x < hi →
      (∀ (k : Nat) (z : ℚ), t.val k = some z → z ≤ lo ∨ hi ≤ z) →
      t.val (t.encode (.sr r) v) = some (if (r : ℤ) < ⌊(x - lo) / (hi - lo) * 2 ^ 24⌋ then hi else lo))) ∧
  (∀ (t : Ieee) (q : Rounding) (n : Bool), t ∈ [fp32, bf16, fp16] → t.encode q .nan = t.nan ∧ t.encode q (.inf n) = t.infOf n) ∧
  fp32.nan = 0x7FC00000 ∧ bf16.nan = 0x7FC0 ∧ fp16.nan = 0x7E00 ∧
  (∀ (m : Rnd) (a : W32) (x : ℚ) (lo hi : ℤ), real32 a = some x → lo ≤ 0 → 0 ≤ hi → hi < 2 ^ 32 → -(2 ^ 32) < lo →
    (f32 a).toInt (.mode m) lo hi = Max.max lo (Min.min hi (intRound m x)) ∧
    real32 (toF32 (.mode .rne) ((f32 a).rint (.mode m))) = some (intRound m x : ℚ)) ∧
  (∀ (q : Rounding) (lo hi : ℤ), FVal.nan.toInt q lo hi = 0 ∧ (FVal.inf true).toInt q lo hi = lo ∧ (FVal.inf false).toInt q lo hi = hi) ∧
  (∀ m : Rnd, toF32 (.mode .rne) ((f32 0x80000000).rint (.mode m)) = 0x80000000) ∧
  (∀ (wid : W64) (L : Nat) (x : W32),
    let h0 := x.toNat ^^^ wid.toNat % 2 ^ 32 ^^^ L * 0x9E3779B9 % 2 ^ 32
    let h1 := (h0 ^^^ h0 / 2 ^ 16) * 0x85EBCA6B % 2 ^ 32
    let h2 := (h1 ^^^ h1 / 2 ^ 13) * 0xC2B2AE35 % 2 ^ 32
    srValue wid L x = (h2 ^^^ h2 / 2 ^ 16) % 2 ^ 24)

/-- 04 R95: a valid format's codes have the values of the rule's table, a code of magnitude zero the value +0; `vcvt.nf.f32` gives the
value of the format to which the mode rounds, saturates above its largest and below its least value, infinities too, gives 0 for a NaN and
writes zero without a sign; which of two nearest values an RNE tie takes in a format without fraction bits is the model's choice (log entry
44) and is not said here. -/
def Sys2Proof.Machine.SaysNarrowValues : Prop :=
  ∀ f : BitVec 16, fmtValid f →
    (∀ c : Nat, c < 2 ^ (Narrow.of f).width → ((Narrow.of f).decode c).real = some (narrowValue f c) ∧
      (narrowValue f c = 0 → (Narrow.of f).decode c = .fin false 0 0)) ∧
    (∀ (m : Rnd) (a : W32) (x : ℚ), real32 a = some x →
      let c := (Narrow.of f).encode (.mode m) (f32 a)
      ∃ y, narrowVal f c = some y ∧ (y = 0 → c = 0) ∧
        ((∃ k z, narrowVal f k = some z ∧ x ≤ z) → (∃ k z, narrowVal f k = some z ∧ z ≤ x) →
          RoundsIn (narrowVal f) (slice f 14 12 = 0 ∨ slice f 11 9 ≠ 0) m x c) ∧
        ((∀ k z, narrowVal f k = some z → z < x) → ∀ k z, narrowVal f k = some z → z ≤ y) ∧
        ((∀ k z, narrowVal f k = some z → x < z) → ∀ k z, narrowVal f k = some z → y ≤ z)) ∧
    (∀ q : Rounding, (Narrow.of f).encode q .nan = 0 ∧
      ∃ lo hi, narrowVal f ((Narrow.of f).encode q (.inf true)) = some lo ∧ narrowVal f ((Narrow.of f).encode q (.inf false)) = some hi ∧
        ∀ k z, narrowVal f k = some z → lo ≤ z ∧ z ≤ hi)

/-- 04 R79, R83, R89: add, subtract, multiply and the three fused members give the exact value rounded once in M, whenever it lies
within the finite range.
04 R79: a NaN operand, and an invalid operation, give the canonical NaN in every arithmetic member; `vfmin` and `vfmax` give the
other operand for one NaN.
04 R83, R89: an exact zero sum is +0, -0 in RDN, but two zeros of one sign keep it; `vfmin` and `vfmax` of two operands that are
no NaN give the lesser and the greater, -0 below +0; `vfscale` gives A x 2^Sx(B) rounded once, an infinity and a zero unchanged.
04 R91: `vfclass` sets the one bit of the class.
04 R90: `vfrcp` and `vfrsq` are rounded once in RNE, `vfsqrt` in M; `vfexp2` of an integer and `vflog2` of a power of two are
exact; no result of `vfsin` or `vfcos` exceeds 1 in magnitude; and each member's special values.
04 R79, R93, R94: an exact value goes to FP32, BF16 or binary16 rounded once in the mode, or by the stochastic rule between its
two neighbours; beyond the range it gives an infinity or the largest finite value as the mode says, the latter for SR; a NaN gives
the format's canonical NaN. Integer targets round and then saturate, and a NaN gives 0; `rint` gives the integer that the mode
rounds to. R94: the rounding value of a lane.
04 R95: a valid format's codes have the values of the rule's table, a code of magnitude zero the value +0; `vcvt.nf.f32` gives the
value of the format to which the mode rounds, saturates above its largest and below its least value, infinities too, gives 0 for a
NaN and writes zero without a sign; which of two nearest values an RNE tie takes in a format without fraction bits is the model's
choice (log entry 44) and is not said here. -/
def Obligations.Float32Rules : Prop :=
  Sys2Proof.Machine.SaysRoundedOnce ∧ Sys2Proof.Machine.SaysCanonicalNan ∧ Sys2Proof.Machine.SaysFloatMembers ∧ Sys2Proof.Machine.SaysFloatFunctions ∧ Sys2Proof.Machine.SaysConversionValues ∧ Sys2Proof.Machine.SaysNarrowValues

/-! ## Local memory (03 R62, R63; 05 R98 to R112) -/

namespace Sys2Proof.Machine

/-- No access of the strand is in progress. -/
structure Still (s : State) : Prop where
  flight : s.me.flight = none
  walked : s.me.memWait = none

/-- The focus: the strand's block and core are the ones beside it, and neither stands in a list too. -/
structure Focused (s : State) : Prop where
  core : s.core.id = s.blk.core
  block : ∀ b ∈ s.blocks, b.id ≠ s.blk.id
  strand : ∀ t ∈ s.strands, t.id ≠ s.me.id

/-- 03 R62, 05 R106: x of n bytes, extended to the register's width. -/
def extended (w n x : Nat) (signed : Bool) : BitVec w :=
  if signed then (BitVec.ofNat (8 * n) x).signExtend w else BitVec.ofNat w x

/-- Byte k of a value (00 R6). -/
def byteOf {w : Nat} (x : BitVec w) (k : Nat) : Byte := x.extractLsb' (8 * k) 8

/-- The bytes of the block's own window as a number (00 R6). -/
def windowNum (s : State) (off n : Nat) : Nat := ((List.range n).map (fun k => (Memory.get s.blk.window (off + k)).toNat * 256 ^ k)).sum

/-- 01 R20: an address that names no place but the own one, or none. -/
def noPeer (ea : W64) : Prop := ea.toNat < 2 ^ 20 ∨ 2 ^ 25 ≤ ea.toNat

/-- 05 R111, 01 R20: what an access of n bytes to such an address fails with. -/
def localCause (s : State) (n : Nat) (ea : W64) : Option Cause :=
  if ea.toNat % n ≠ 0 then some .misaligned
  else if ea.toNat < 0xC0000 ∧ ea.toNat + n ≤ s.blk.windowSize then none
  else some .permission

/-- What a vector load or store says: its space, its data and base fields, its vector sources, the size and extension of its
elements, how many units a lane has, the unit numbers, their addresses and (for a store) their bytes. -/
structure MemRow where
  space : BitVec 1
  data : BitVec 7
  base : BitVec 6
  vsrcs : List (BitVec 7)
  size : Nat
  signed : Bool := false
  per : Nat := 1
  units : State → List Nat
  ea : State → Nat → W64
  byte : State → Nat → Nat → Byte := fun _ _ _ => 0

/-- The active lanes. -/
def activeLanes (s : State) : List Nat := (List.range 32).filter (fun L => s.active.getLsbD L)

/-- The size of sz (05 R105). -/
def vsize (z : BitVec 3) : Nat := 2 ^ (z.toNat / 2)

/-- 05 R98, R106: the vector loads. -/
def tableLoads : Instr → Option MemRow
  | .vldIndexed p d b o z => if 4 < z.toNat then none else
    some { space := p, data := d, base := b, vsrcs := [o], size := vsize z, signed := z == 0 || z == 2, units := activeLanes,
           ea := fun s L => src s b + (el s o L).signExtend 64 }
  | .vldUnit p d b z => if 4 < z.toNat then none else
    some { space := p, data := d, base := b, vsrcs := [], size := vsize z, signed := z == 0 || z == 2, units := activeLanes,
           ea := fun s L => src s b + BitVec.ofNat 64 (L * vsize z) }
  | .vldBroadcast p d b z => if 4 < z.toNat then none else
    some { space := p, data := d, base := b, vsrcs := [], size := vsize z, signed := z == 0 || z == 2, units := activeLanes,
           ea := fun s _ => src s b }
  | _ => none

/-- 05 R98, R107, R108: the vector stores that pass through the L1. -/
def tableStores : Instr → Option MemRow
  | .vstIndexed p d b o z => if z = 0 ∨ z = 2 ∨ z = 4 then
      some { space := p, data := d, base := b, vsrcs := [d, o], size := vsize z, units := activeLanes,
             ea := fun s L => src s b + (el s o L).signExtend 64, byte := fun s L k => byteOf (el s d L) k }
    else none
  | .vstUnit p d b z => if z = 0 ∨ z = 2 ∨ z = 4 then
      some { space := p, data := d, base := b, vsrcs := [d], size := vsize z, units := activeLanes,
             ea := fun s L => src s b + BitVec.ofNat 64 (L * vsize z), byte := fun s L k => byteOf (el s d L) k }
    else none
  | .vstbm p d b o =>
      some { space := p, data := d, base := b, vsrcs := [d, o], size := 1, per := 4,
             units := fun s => (List.range (4 * s.me.lanes)).filter (fun k => s.active.getLsbD (k / 4) && (el s o (k / 4)).getLsbD (k % 4)),
             ea := fun s k => src s b + BitVec.ofNat 64 k, byte := fun s k _ => byteOf (el s d (k / 4)) (k % 4) }
  | _ => none

/-- 05 R112: whether a field of the word names a channel. -/
def MemRow.whole (r : MemRow) : Bool := (r.data :: r.vsrcs).any isChan

/-- The state in which a load or an atomic of the strand has its data: the strand is no longer demoted by `hint.spin` (07 R133). -/
def State.served (s : State) : State := s.mapMe (fun t => { t with spin := false })

/-- The state whose block has another window; a doubleword that was written whole holds no error any more (19 R330). -/
def State.windowed (w : Memory) (bad : List Nat) (s : State) : State := s.mapBlk (fun b => { b with window := w, corrupt := bad })

/-- A vector load or store whose operands stand ready; a value that leaves the lanes agrees in its pair (02 R49). -/
structure MemRow.Ready (store : Bool) (r : MemRow) (s : State) : Prop where
  ready : Machine.Ready s
  still : Still s
  budget : s.me.budget ≤ 64
  some' : s.active ≠ 0
  base : SrcOk s r.base
  srcs : ∀ f ∈ r.vsrcs, VSrcOk s f
  dst : store = false → VDstOk s r.vsrcs r.data
  agree : (store = true ∨ isChan r.data = true) → s.disagree s.active = 0

/-- The trap of 05 R112: u is the lowest unit that fails. -/
def MemRow.trap (r : MemRow) (cause : State → W64 → Option Cause) (u : Nat) (s : State) : Trap :=
  { cause := (cause s (r.ea s u)).getD .none, tval := 0, taddr := r.ea s u,
    lanes := if r.whole then s.me.m0 else
      (lanesOf 0xFFFFFFFF#32).foldl (fun m L => if (r.units s).any (fun v => v / r.per == L && (cause s (r.ea s v)).isSome)
        then m ||| (1#32 <<< L) else m) 0 }

/-- u is the lowest-numbered unit that fails. -/
def MemRow.firstFailure (r : MemRow) (cause : State → W64 → Option Cause) (s : State) (u : Nat) : Prop :=
  u ∈ r.units s ∧ (cause s (r.ea s u)).isSome = true ∧ ∀ v ∈ r.units s, v < u → cause s (r.ea s v) = none

/-- A unit of a lane that passes. -/
def MemRow.passes (r : MemRow) (cause : State → W64 → Option Cause) (s : State) (u : Nat) : Prop :=
  u ∈ r.units s ∧ ∀ v ∈ r.units s, v / r.per = u / r.per → cause s (r.ea s v) = none

end Sys2Proof.Machine

/-- 03 R62, R63, 05 R106, R110 to R112: a local load from the own window, scalar or vector: when every lane passes, the data are
extended into the destination (0 in the lanes of a channel entry that do not load); a lane that is misaligned or outside the
window fails: the other lanes load, and the word traps with the lanes that failed, and the cause and the address of the lowest; a
word that names a channel then does nothing, and TLANES is m0.  A lane that passes and reads a word with an uncorrectable error halts the
strand with POISON instead, and no lane loads (05 R113, 19 R330).  Of the bytes of a `vstbm` lane the lowest that fails gives TADDR and TCAUSE: the
model's choice (log entry 45). -/
def Sys2Proof.Machine.SaysLocalLoads : Prop :=
  (∀ (z : BitVec 3) (d a : BitVec 6) (i : BitVec 10) (s : State), Ready s → Still s → z.toNat ≤ 6 → SrcOk s a → DstOk d →
    let n := 2 ^ (z.toNat / 2)
    let ea := src s a + s.imm i
    noPeer ea →
    (localCause s n ea = none → s.blk.windowBad ea.toNat n = false → Leads (exec (.sld 1 z d a i) s)
      (((s.popped [a]).served.wrote d (extended 64 n (windowNum s ea.toNat n) (z == 0 || z == 2 || z == 4))).wordDone (s.me.pc + 4))) ∧
    (localCause s n ea = none → s.blk.windowBad ea.toNat n = true → ∃ (b : State) (f : Form), b.timeless = (s.popped [a]).timeless ∧
      exec (.sld 1 z d a i) s = .next ((b.halt { cause := .poison, tval := 0, lanes := s.me.visible, taddr := ea }).countIssue f)) ∧
    (∀ c, localCause s n ea = some c → ∃ b : State, b.timeless = (s.popped [a]).timeless ∧
      exec (.sld 1 z d a i) s = .next (b.takeTrap { cause := c, tval := 0, lanes := s.me.visible, taddr := ea }))) ∧
  (∀ (i : Instr) (r : MemRow) (s : State), tableLoads i = some r → r.space = 1 → r.Ready false s → (∀ L ∈ r.units s, noPeer (r.ea s L)) →
    let x := Vec.tab (fun L => if s.active.getLsbD L ∧ localCause s r.size (r.ea s L) = none
      then extended 32 r.size (windowNum s (r.ea s L).toNat r.size) r.signed else vkept s r.data L)
    let bad (L : Nat) : Prop := localCause s r.size (r.ea s L) = none ∧ s.blk.windowBad (r.ea s L).toNat r.size = true
    ((∃ L ∈ r.units s, bad L) → ((∃ L ∈ r.units s, localCause s r.size (r.ea s L) ≠ none) → r.whole = false) →
      ∃ (b : State) (f : Form) (ea : W64), b.timeless = (s.popped [r.base]).timeless ∧
        exec i s = .next ((b.halt { cause := .poison, tval := 0, lanes := s.me.visible, taddr := ea }).countIssue f)) ∧
    ((∀ L ∈ r.units s, localCause s r.size (r.ea s L) = none ∧ ¬ bad L) →
      Leads (exec i s) ((((s.popped [r.base]).served.vwrote r.data x).vpopped r.vsrcs).wordDone (s.me.pc + 4))) ∧
    ((∀ L ∈ r.units s, ¬ bad L) ∨ r.whole = true → ∀ u, r.firstFailure (fun s => localCause s r.size) s u → ∃ b : State,
      b.timeless = (if r.whole = true ∨ (∀ L ∈ r.units s, localCause s r.size (r.ea s L) ≠ none) then s.popped [r.base]
        else (s.popped [r.base]).served.vwrote r.data x).timeless ∧
      exec i s = .next (b.takeTrap (r.trap (fun s => localCause s r.size) u s))))

/-- 03 R62, R63, 05 R107, R108, R110 to R112: a local store to the own window: the bytes of the units of the lanes that pass, the
highest-numbered where several store to one byte, and no other byte of the window; nothing else but the end of the word. -/
def Sys2Proof.Machine.SaysLocalStores : Prop :=
  (∀ (z : BitVec 2) (d a : BitVec 6) (i : BitVec 10) (s : State), Ready s → SrcOk s d → SrcOk s a →
    let n := 2 ^ z.toNat
    let ea := src s a + s.imm i
    noPeer ea →
    (localCause s n ea = none → ∃ (w : Memory) (bad : List Nat), (∀ k ∈ bad, k ∈ s.blk.corrupt) ∧ Leads (exec (.sst 1 z d a i) s)
        (((s.popped [d, a]).windowed w bad).wordDone (s.me.pc + 4)) ∧
      (∀ off, Memory.get w off = if ea.toNat ≤ off ∧ off < ea.toNat + n then byteOf (src s d) (off - ea.toNat) else Memory.get s.blk.window off)) ∧
    (∀ c, localCause s n ea = some c → ∃ b : State, b.timeless = (s.popped [d, a]).timeless ∧
      exec (.sst 1 z d a i) s = .next (b.takeTrap { cause := c, tval := 0, lanes := s.me.visible, taddr := ea }))) ∧
  (∀ (i : Instr) (r : MemRow) (s : State), tableStores i = some r → r.space = 1 → r.Ready true s → (∀ u ∈ r.units s, noPeer (r.ea s u)) →
    let covers (u off : Nat) : Prop := r.passes (fun s => localCause s r.size) s u ∧ (r.ea s u).toNat ≤ off ∧ off < (r.ea s u).toNat + r.size
    let holds (w : Memory) : Prop := ∀ off,
      (∀ u, covers u off → (∀ v, covers v off → v ≤ u) → Memory.get w off = r.byte s u (off - (r.ea s u).toNat)) ∧
      ((∀ u, ¬ covers u off) → Memory.get w off = Memory.get s.blk.window off)
    ((∀ u ∈ r.units s, localCause s r.size (r.ea s u) = none) → ∃ (w : Memory) (bad : List Nat), holds w ∧ (∀ k ∈ bad, k ∈ s.blk.corrupt) ∧ Leads (exec i s)
      ((((s.popped [r.base]).windowed w bad).vpopped r.vsrcs).wordDone (s.me.pc + 4))) ∧
    (∀ u, r.firstFailure (fun s => localCause s r.size) s u → ∃ (w : Memory) (bad : List Nat) (b : State),
      (if r.whole then w = s.blk.window else holds w) ∧ (∀ k ∈ bad, k ∈ s.blk.corrupt) ∧
      b.timeless = ((s.popped [r.base]).windowed w bad).timeless ∧
      exec i s = .next (b.takeTrap (r.trap (fun s => localCause s r.size) u s))))

/-- 03 R62, R63, 05 R106, R110 to R112: a local load from the own window, scalar or vector: when every lane passes, the data are
extended into the destination (0 in the lanes of a channel entry that do not load); a lane that is misaligned or outside the
window fails: the other lanes load, and the word traps with the lanes that failed, and the cause and the address of the lowest; a
word that names a channel then does nothing, and TLANES is m0. A lane that passes and reads a word with an uncorrectable error
halts the strand with POISON instead, and no lane loads (05 R113, 19 R330). Of the bytes of a `vstbm` lane the lowest that fails
gives TADDR and TCAUSE: the model's choice (log entry 45).
03 R62, R63, 05 R107, R108, R110 to R112: a local store to the own window: the bytes of the units of the lanes that pass, the
highest-numbered where several store to one byte, and no other byte of the window; nothing else but the end of the word. -/
def Obligations.LocalAccess : Prop :=
  Sys2Proof.Machine.SaysLocalLoads ∧ Sys2Proof.Machine.SaysLocalStores

/-! ## Global memory (05 R99, R101, R106, R107, R109) -/

namespace Sys2Proof.Machine

/-- 19 R319, R330: the core's TLB holds the translation of an address, with the permission, pa is where it leads, and no entry of the core's
caches that answers for the address holds an error. -/
def Mapped (s : State) (acc : Acc) (ea : W64) (pa : Nat) : Prop :=
  let answers (p : TreeNode) (e : TlbEntry) : Bool := e.answers p false s.blk.vd (decide (s.me.priv = 2)) ea.toNat
  ea.toNat < 2 ^ 56 ∧ (∀ e ∈ s.tlb, ∀ p ∈ corePlaces s.blk.core, answers p e = true → e.bad = false) ∧
    ∃ e : TlbEntry, s.tlb.find? (answers (.core s.blk.core)) = some e ∧
    s.permits s.me.priv acc e ea.toNat = true ∧ e.raw = false ∧ pa = e.addr ea.toNat

/-- The bytes that the L1 holds of an address, as a number. -/
def l1Num (s : State) (pa n : Nat) : Nat := ((List.range n).map (fun k => ((s.core.look (pa + k)).getD 0).toNat * 256 ^ k)).sum

/-- The L1 holds n bytes at pa, in sectors without an uncorrectable error. -/
def InL1 (s : State) (pa n : Nat) : Prop := ∀ k < n, (s.core.look (pa + k)).isSome = true ∧ (pa + k) / 64 ∉ s.core.corrupt

/-- 05 R101: the sets of the L1 have room for the lines of some bytes beside the lines that they hold. -/
def RoomInL1 (s : State) (bytes : List Nat) : Prop :=
  ∀ x ∈ bytes, ((bytes.map (· / 256)).filter (fun l => l % 64 = x / 256 % 64) ++ s.core.setLines (x / 256)).dedup.length ≤ 16

/-- 13 R235, 15 R268: the sets of the slices have room for some lines, and for the lines of their kilobytes, beside the lines that they
hold. -/
def RoomAtHome (s : State) (lines : List Nat) : Prop :=
  ∀ l ∈ lines, ∀ k < 4, ((lines.flatMap (fun n => (List.range 4).map (n / 4 * 4 + ·))).filter
    (fun n => sliceSet n = sliceSet (l / 4 * 4 + k))).dedup.length ≤ (s.freeWays (l / 4 * 4 + k)).length

/-- No partition records events (21 R343). -/
def Quiet (s : State) : Prop := ∀ v ∈ s.vds, v.measure.een = false

/-- Dirty bytes stand in rising order of their addresses (an invariant of the model). -/
def DirtySorted (s : State) : Prop := (s.core.dirty.map Prod.fst).Pairwise (· < ·)

/-- No non-temporal store of the strand waits (05 R109). -/
def NoNt (s : State) : Prop := ∀ e ∈ s.core.nt, e.strand ≠ s.me.id

end Sys2Proof.Machine

/-- 05 R101, R106, 03 R62: a global load whose lanes are aligned, translated by the core's TLB and held by the L1 completes with
the L1's bytes; it changes nothing else. -/
def Sys2Proof.Machine.SaysGlobalLoads : Prop :=
  (∀ (z : BitVec 3) (d a : BitVec 6) (i : BitVec 10) (s : State) (pa : Nat), Ready s → Still s → Focused s → NoNt s → z.toNat ≤ 6 → SrcOk s a → DstOk d →
    let n := 2 ^ (z.toNat / 2)
    let ea := src s a + s.imm i
    ea.toNat % n = 0 → Mapped s .read ea pa → InL1 s pa n →
    Leads (exec (.sld 0 z d a i) s)
      (((s.popped [a]).served.wrote d (extended 64 n (l1Num s pa n) (z == 0 || z == 2 || z == 4))).wordDone (s.me.pc + 4))) ∧
  (∀ (i : Instr) (r : MemRow) (s : State) (pa : Nat → Nat), tableLoads i = some r → r.space = 0 → r.Ready false s → Focused s → NoNt s →
    (∀ L ∈ r.units s, (r.ea s L).toNat % r.size = 0 ∧ Mapped s .read (r.ea s L) (pa L) ∧ InL1 s (pa L) r.size) →
    Leads (exec i s) ((((s.popped [r.base]).served.vwrote r.data (Vec.tab (fun L => if s.active.getLsbD L
      then extended 32 r.size (l1Num s (pa L) r.size) r.signed else vkept s r.data L))).vpopped r.vsrcs).wordDone (s.me.pc + 4)))

/-- 05 R101, R107, R108, 03 R62: a global store whose units are aligned and translated by the core's TLB, in an L1 whose sets have room
for its lines, is in the core's view at once: its bytes, the highest-numbered unit's where several store to one byte, are dirty in the
L1; every other byte that the core sees, the homes, the block, the strand and every other core stay. -/
def Sys2Proof.Machine.SaysGlobalStores : Prop :=
  let frame (s p t : State) : Prop := t.me.timeless = (p.wordDone (s.me.pc + 4)).me.timeless ∧ t.blk = p.blk ∧ t.strands = p.strands ∧
    t.blocks = p.blocks ∧ t.cores = p.cores ∧ t.dram = p.dram ∧ t.slices = p.slices ∧ t.bindings = p.bindings
  (∀ (z : BitVec 2) (d a : BitVec 6) (i : BitVec 10) (s : State) (pa : Nat), Ready s → Still s → SrcOk s d → SrcOk s a →
    let n := 2 ^ z.toNat
    let ea := src s a + s.imm i
    ea.toNat % n = 0 → Mapped s .write ea pa → RoomInL1 s ((List.range n).map (pa + ·)) →
    ∃ t, exec (.sst 0 z d a i) s = .next t ∧ frame s (s.popped [d, a]) t ∧
      ∀ x, t.core.look x = if pa ≤ x ∧ x < pa + n then some (byteOf (src s d) (x - pa)) else s.core.look x) ∧
  (∀ (i : Instr) (r : MemRow) (s : State) (pa : Nat → Nat), tableStores i = some r → r.space = 0 → r.Ready true s →
    (∀ u ∈ r.units s, (r.ea s u).toNat % r.size = 0 ∧ Mapped s .write (r.ea s u) (pa u)) →
    RoomInL1 s ((r.units s).flatMap (fun u => (List.range r.size).map (pa u + ·))) →
    let covers (u x : Nat) : Prop := u ∈ r.units s ∧ pa u ≤ x ∧ x < pa u + r.size
    ∃ t, exec i s = .next t ∧ frame s ((s.popped [r.base]).vpopped r.vsrcs) t ∧ ∀ x,
      (∀ u, covers u x → (∀ v, covers v x → v ≤ u) → t.core.look x = some (r.byte s u (x - pa u))) ∧
      ((∀ u, ¬ covers u x) → t.core.look x = s.core.look x))

/-- 05 R109: a `vstnt` whose lanes are aligned and translated: its bytes wait in the write-combining buffer beside the earlier
ones; the whole sectors that they touch leave the L1, whose dirty bytes there stand at their homes first (where the sets of the slices have
room for the lines and no partition records events); the L1's other sectors stay, and the strand is not drained (05 R122). -/
def Sys2Proof.Machine.SaysNonTemporalStore : Prop :=
  ∀ (d : BitVec 7) (b : BitVec 6) (z : BitVec 3) (s : State) (pa : Nat → Nat), Ready s → Still s → Focused s → s.me.budget ≤ 64 → s.active ≠ 0 →
    (z = 0 ∨ z = 2 ∨ z = 4) → SrcOk s b → VSrcOk s d → s.disagree s.active = 0 →
    (∀ L ∈ activeLanes s, (src s b + BitVec.ofNat 64 (L * vsize z)).toNat % vsize z = 0 ∧
      Mapped s .write (src s b + BitVec.ofNat 64 (L * vsize z)) (pa L)) →
    let covers (L x : Nat) : Prop := L ∈ activeLanes s ∧ pa L ≤ x ∧ x < pa L + vsize z
    ∃ (t : State) (cells : List Host.Cell), exec (.vstnt d b z) s = .next t ∧
      t.me.timeless = (s.wordDone (s.me.pc + 4)).me.timeless ∧ t.core.nt = s.core.nt ++ cells.map (fun c => NtByte.mk s.me.id c.1 c.2 false) ∧
      t.blk = ((s.popped [b]).vpopped [d]).blk ∧ t.strands = s.strands ∧ t.cores = s.cores ∧
      (∀ x, (∀ L, covers L x → (∀ M, covers M x → M ≤ L) → Cells.find cells x = some (byteOf (el s d L) (x - pa L))) ∧
        ((∀ L, ¬ covers L x) → Cells.find cells x = none)) ∧
      let touched (x : Nat) : Prop := ∃ L y, covers L y ∧ y / 64 = x / 64
      (∀ x, (touched x → t.core.look x = none) ∧ (¬ touched x → t.core.look x = s.core.look x)) ∧
      (DirtySorted s → RoomAtHome s (s.core.dirty.map (fun e => e.1 / 256)) → Quiet s →
        ∀ x v, touched x → Cells.find s.core.dirty x = some v → t.homeByte x = v)

/-- 05 R101, R106, 03 R62: a global load whose lanes are aligned, translated by the core's TLB and held by the L1 completes with the
L1's bytes; it changes nothing else.
05 R101, R107, R108, 03 R62: a global store whose units are aligned and translated by the core's TLB, in an L1 whose sets have
room for its lines, is in the core's view at once: its bytes, the highest-numbered unit's where several store to one byte, are
dirty in the L1; every other byte that the core sees, the homes, the block, the strand and every other core stay.
05 R109: a `vstnt` whose lanes are aligned and translated: its bytes wait in the write-combining buffer beside the earlier ones;
the whole sectors that they touch leave the L1, whose dirty bytes there stand at their homes first (where the sets of the slices
have room for the lines and no partition records events); the L1's other sectors stay, and the strand is not drained (05 R122). -/
def Obligations.GlobalAccess : Prop :=
  Sys2Proof.Machine.SaysGlobalLoads ∧ Sys2Proof.Machine.SaysGlobalStores ∧ Sys2Proof.Machine.SaysNonTemporalStore

/-- 03 R62, 05 R103, R106, R112, R113: a load whose reply has come, scalar or vector (indexed, unit, broadcast), and no lane of which waits any
more, completes with the values that it brought: the destination takes them, extended, in the lanes that loaded, and keeps the others (0 in a
new entry of a channel); a lane that read marked data traps DECODE, in a word that names a channel before any lane has its value; poisoned
data halt the strand with POISON. -/
def Obligations.LoadReplies : Prop :=
  (∀ (i : Instr) (r : MemRow) (s : State) (m : MemWait) (vals : List (Nat × Nat)) (decode poison : List Nat), tableLoads i = some r →
    s.me.run = .running → s.me.issued = true → s.me.stepping = false → s.me.readyAt ≤ s.now → s.me.corrupt = [] → s.graftLog = [] →
    s.active ≠ 0 → (isChan r.data = true → s.disagree s.active = 0) → s.me.memWait = some m → m.failed = [] → m.waiting = [] → m.ok = [] →
    m.got = [] → (∀ v ∈ vals, v.1 < 32 ∧ v.1 ∉ decode) → s.me.flight = some (.loaded vals decode poison) →
    let x := Vec.tab (fun L => if vals.any (fun v => v.1 == L) then extended 32 r.size (lookupD vals L 0) r.signed else vkept s r.data L)
    (decode = [] → poison = [] → vals ≠ [] → Leads (exec i s) (((s.vwrote r.data x).vpopped r.vsrcs).wordDone (s.me.pc + 4))) ∧
    (r.space = 0 → decode ≠ [] → poison = [] → ∃ (b : State) (lanes : W32) (ea : W64),
      b.timeless = (if r.whole = true ∨ vals = [] then s else s.vwrote r.data x).timeless ∧
      (∀ L < 32, lanes.getLsbD L = if r.whole then s.me.m0.getLsbD L else decode.contains L) ∧
      exec i s = .next (b.takeTrap { cause := .decode, tval := 0, lanes := lanes, taddr := ea })) ∧
    (poison ≠ [] → ∃ (f : Form) (ea : W64),
      exec i s = .next ((s.halt { cause := .poison, tval := 0, lanes := s.me.visible, taddr := ea }).countIssue f))) ∧
  ∀ (p : BitVec 1) (z : BitVec 3) (d a : BitVec 6) (i : BitVec 10) (s : State) (m : MemWait) (v : Nat) (decode poison : List Nat),
    s.me.run = .running → s.me.issued = true → s.me.stepping = false → s.me.readyAt ≤ s.now → s.me.corrupt = [] → s.graftLog = [] →
    z.toNat ≤ 6 → DstOk d → s.me.memWait = some m → m.failed = [] → m.waiting = [] → m.ok = [] → m.got = [] → (decode = [] ∨ decode = [0]) → (poison = [] ∨ poison = [0]) →
    s.me.flight = some (.loaded [(0, v)] decode poison) →
    let n := 2 ^ (z.toNat / 2)
    let ea := s.sreg a + s.imm i
    (decode = [] → poison = [] → Leads (exec (.sld p z d a i) s)
      ((s.wrote d (extended 64 n v (z == 0 || z == 2 || z == 4))).wordDone (s.me.pc + 4))) ∧
    (p = 0 → decode = [0] → poison = [] → exec (.sld p z d a i) s =
      .next (s.takeTrap { cause := .decode, tval := 0, lanes := s.me.visible, taddr := ea })) ∧
    (poison = [0] → ∃ f : Form, exec (.sld p z d a i) s =
      .next ((s.halt { cause := .poison, tval := 0, lanes := s.me.visible, taddr := ea }).countIssue f))

/-! ## Atomics (05 R100, R115 to R118) -/

namespace Sys2Proof.Machine

/-- What an atomic says: its operation's number in R115's table, its scope and order, and the new value of a word from the old one, the
operand v and the element w of the register after it. -/
structure AtomRow (n : Nat) where
  fn : Nat
  scope : BitVec 3
  ord : BitVec 2
  new : BitVec n → BitVec n → BitVec n → BitVec n

/-- 05 R116: the scalar atomics: sd, sa, sb, and the row. -/
def tableR116 : Instr → Option (BitVec 6 × BitVec 6 × BitVec 6 × AtomRow 64)
  | .satmAdd d a b c r => some (d, a, b, { fn := 0, scope := c, ord := r, new := fun o v _ => o + v })
  | .satmMin d a b c r => some (d, a, b, { fn := 1, scope := c, ord := r, new := fun o v _ => BitVec.ofInt 64 (Min.min o.toInt v.toInt) })
  | .satmMax d a b c r => some (d, a, b, { fn := 2, scope := c, ord := r, new := fun o v _ => BitVec.ofInt 64 (Max.max o.toInt v.toInt) })
  | .satmXchg d a b c r => some (d, a, b, { fn := 5, scope := c, ord := r, new := fun _ v _ => v })
  | .satmCas d a b c r => some (d, a, b, { fn := 6, scope := c, ord := r, new := fun o v w => if o = v then w else o })
  | .satmAnd d a b c r => some (d, a, b, { fn := 8, scope := c, ord := r, new := fun o v _ => o &&& v })
  | .satmOr d a b c r => some (d, a, b, { fn := 9, scope := c, ord := r, new := fun o v _ => o ||| v })
  | .satmXor d a b c r => some (d, a, b, { fn := 10, scope := c, ord := r, new := fun o v _ => o ^^^ v })
  | _ => none

/-- 05 R115: the vector atomics: vd, sb, vo, and the row. -/
def tableR115 : Instr → Option (BitVec 6 × BitVec 6 × BitVec 6 × AtomRow 32)
  | .vatmAdd d b o c r => some (d, b, o, { fn := 0, scope := c, ord := r, new := fun o v _ => o + v })
  | .vatmMin d b o c r => some (d, b, o, { fn := 1, scope := c, ord := r, new := fun o v _ => BitVec.ofInt 32 (Min.min o.toInt v.toInt) })
  | .vatmMax d b o c r => some (d, b, o, { fn := 2, scope := c, ord := r, new := fun o v _ => BitVec.ofInt 32 (Max.max o.toInt v.toInt) })
  | .vatmMinn d b o c r => some (d, b, o, { fn := 3, scope := c, ord := r, new := fun o v _ => BitVec.ofNat 32 (Min.min o.toNat v.toNat) })
  | .vatmMaxn d b o c r => some (d, b, o, { fn := 4, scope := c, ord := r, new := fun o v _ => BitVec.ofNat 32 (Max.max o.toNat v.toNat) })
  | .vatmXchg d b o c r => some (d, b, o, { fn := 5, scope := c, ord := r, new := fun _ v _ => v })
  | .vatmCas d b o c r => some (d, b, o, { fn := 6, scope := c, ord := r, new := fun o v w => if o = v then w else o })
  | .vatmFadd d b o c r => some (d, b, o, { fn := 7, scope := c, ord := r, new := fun o v _ => fAdd .rne o v })
  | .vatmAnd d b o c r => some (d, b, o, { fn := 8, scope := c, ord := r, new := fun o v _ => o &&& v })
  | .vatmOr d b o c r => some (d, b, o, { fn := 9, scope := c, ord := r, new := fun o v _ => o ||| v })
  | .vatmXor d b o c r => some (d, b, o, { fn := 10, scope := c, ord := r, new := fun o v _ => o ^^^ v })
  | .vatmIncw d b o c r => some (d, b, o, { fn := 11, scope := c, ord := r, new := fun o v _ => if v.toNat ≤ o.toNat then 0 else o + 1 })
  | .vatmDecw d b o c r => some (d, b, o, { fn := 12, scope := c, ord := r, new := fun o v _ => if o = 0 ∨ v.toNat < o.toNat then v else o - 1 })
  | _ => none

/-- 05 R118: a release before the atomic. -/
def AtomRow.released {n : Nat} (r : AtomRow n) (s : State) : State := if r.ord.getLsbD 1 then s.publish r.scope else s

/-- 05 R118: an acquire after it. -/
def AtomRow.acquired {n : Nat} (r : AtomRow n) (s : State) : State := if r.ord.getLsbD 0 then s.refresh r.scope else s

/-- 05 R120, 14 R249, 19 R309: a release of scope c can complete: at cluster scope and wider the strand's packets are acknowledged and no link
holds the core's dirty bytes; below, no packet of the strand is still to be performed. -/
def CanRelease (c : BitVec 3) (s : State) : Prop :=
  if 2 ≤ c.toNat then s.me.peerStores = 0 ∧ s.heldBack s.blk.core (s.core.dirty.map Prod.fst) = false
  else ∀ p ∈ s.core.packets, p.strand ≠ s.me.id

/-- The release of the atomic need not wait. -/
def AtomRow.mayRelease {n : Nat} (r : AtomRow n) (s : State) : Prop := r.ord.getLsbD 1 = true → CanRelease r.scope s

/-- A doubleword of the window with the bytes of x at off. -/
def stored {n : Nat} (m : Nat → Byte) (off : Nat) (x : BitVec n) (k : Nat) : Byte :=
  if off ≤ k ∧ k < off + n / 8 then byteOf x (k - off) else m k

/-- 05 R115: the lanes in ascending order: each reads the old word and stores the new one; the last bytes, and each lane's old word. -/
def atomSeq (new : Nat → W32 → W32) (off : Nat → Nat) : List Nat → (Nat → Byte) → (Nat → Byte) × List (Nat × W32)
  | [], m => (m, [])
  | L :: r, m =>
    let old : W32 := BitVec.ofNat 32 (((List.range 4).map (fun k => (m (off L + k)).toNat * 256 ^ k)).sum)
    let (m', res) := atomSeq new off r (stored m (off L) (new L old))
    (m', (L, old) :: res)

end Sys2Proof.Machine

/-- 05 R100, R116 to R118: a scalar atomic of block, core or cluster scope on the own window: the old doubleword in sd, the new one in
the window, the release before it and the acquire after it.  At die scope and wider the request leaves for the home: the L1 holds
the sector no more, and the operation is due there.  Once the reply has come, sd takes the old doubleword. -/
def Obligations.ScalarAtomics : Prop :=
  ∀ (i : Instr) (d a b : BitVec 6) (r : AtomRow 64) (s : State), tableR116 i = some (d, a, b, r) → Focused s → s.me.stepping = false →
    s.graftLog = [] → DstOk d →
    let srcs := (if r.fn = 6 then [d] else []) ++ [a, b]
    let ea := src s a
    let v := if r.fn = 6 then src s d else src s b
    let old : W64 := BitVec.ofNat 64 (windowNum s ea.toNat 8)
    (Ready s → Still s → (∀ f ∈ srcs, SrcOk s f) → r.mayRelease s → r.scope.toNat ≤ 2 → noPeer ea → localCause s 8 ea = none →
      s.blk.windowBad ea.toNat 8 = false → ∃ (w : Memory) (bad : List Nat), (∀ k ∈ bad, k ∈ s.blk.corrupt) ∧
        (∀ off, Memory.get w off = stored (Memory.get s.blk.window) ea.toNat (r.new old v (src s b)) off) ∧
        Leads (exec i s) ((r.acquired (((r.released (s.popped srcs)).windowed w bad).served.wrote d old)).wordDone (s.me.pc + 4))) ∧
    (∀ pa, Ready s → Still s → (∀ f ∈ srcs, SrcOk s f) → r.mayRelease s → 3 ≤ r.scope.toNat → r.scope.toNat ≤ 5 → ea.toNat % 8 = 0 →
      Mapped s .atomic ea pa → ∃ t, exec i s = .next t ∧
        t.me.flight = some (.atomic r.fn 8 [{ lane := 0, pa := pa, v := v, w := src s b }]) ∧ t.me.pc = s.me.pc ∧ t.me.s = s.me.s ∧
        t.me.issued = true ∧ t.blk = (s.popped srcs).blk ∧ t.strands = s.strands ∧
        (∃ k, t.now ≤ k ∧ { at_ := k, ev := .atomicPerform s.me.id } ∈ t.agenda) ∧ ∀ x, x / 64 = pa / 64 → t.core.look x = none) ∧
    (∀ m v, s.me.run = .running → s.me.issued = true → s.me.readyAt ≤ s.now → s.me.corrupt = [] → s.me.memWait = some m → m.failed = [] →
      m.waiting = [] → m.ok = [] → m.got = [] → s.me.flight = some (.loaded [(0, v)] [] []) →
      Leads (exec i s) ((r.acquired (s.wrote d (BitVec.ofNat 64 v))).wordDone (s.me.pc + 4)))

/-- 05 R100, R111, R112, R115, R117, R118: a vector atomic of block, core or cluster scope on the own window: the active lanes that
pass, in ascending order; each takes the old word; a lane that fails traps.  At die scope and wider the request leaves for the homes.
Once the reply has come, the lanes take the old words. -/
def Obligations.VectorAtomics : Prop :=
  ∀ (i : Instr) (d b o : BitVec 6) (r : AtomRow 32) (s : State), tableR115 i = some (d, b, o, r) → Focused s → s.me.stepping = false →
    s.graftLog = [] → s.me.budget ≤ 64 → d.toNat < s.me.budget → (r.fn = 6 → d.toNat + 1 < s.me.budget) → o.toNat < s.me.budget →
    s.active ≠ 0 → s.disagree s.active = 0 → s.me.run = .running →
    let ea (L : Nat) : W64 := src s b + (el s (o.setWidth 7) L).signExtend 64
    let v (L : Nat) : W32 := el s (d.setWidth 7) L
    let w (L : Nat) : W32 := el s (BitVec.ofNat 7 (d.toNat + 1)) L
    let good := (activeLanes s).filter (fun L => decide (localCause s 4 (ea L) = none))
    let run := atomSeq (fun L x => r.new x (v L) (w L)) (fun L => (ea L).toNat) good (Memory.get s.blk.window)
    let put (p : State) : State := p.vwrote (d.setWidth 7) (Vec.tab (fun L => lookupD run.2 L (vkept s (d.setWidth 7) L)))
    (Ready s → Still s → SrcOk s b → r.mayRelease s → r.scope.toNat ≤ 2 → (∀ L ∈ activeLanes s, noPeer (ea L)) →
      (∀ L ∈ good, s.blk.windowBad (ea L).toNat 4 = false) → ∃ (win : Memory) (bad : List Nat), (∀ k ∈ bad, k ∈ s.blk.corrupt) ∧
      (∀ off, Memory.get win off = run.1 off) ∧
      let after (p : State) : State := put ((r.released p).windowed win bad).served
      ((∀ L ∈ activeLanes s, localCause s 4 (ea L) = none) →
        Leads (exec i s) ((r.acquired (after (s.popped [b]))).wordDone (s.me.pc + 4))) ∧
      (∀ u ∈ activeLanes s, ∀ c, localCause s 4 (ea u) = some c → (∀ L ∈ activeLanes s, L < u → localCause s 4 (ea L) = none) →
        ∃ (q : State) (lanes : W32), q.timeless = (if good = [] then s.popped [b] else after (s.popped [b])).timeless ∧
          (∀ L < 32, lanes.getLsbD L = (s.active.getLsbD L && (localCause s 4 (ea L)).isSome)) ∧
          exec i s = .next (q.takeTrap { cause := c, tval := 0, lanes := lanes, taddr := ea u }))) ∧
    (∀ pa : Nat → Nat, Ready s → Still s → SrcOk s b → r.mayRelease s → 3 ≤ r.scope.toNat → r.scope.toNat ≤ 5 →
      (∀ L ∈ activeLanes s, (ea L).toNat % 4 = 0 ∧ Mapped s .atomic (ea L) (pa L)) → ∃ (t : State) (as : List AtomLane), exec i s = .next t ∧
        t.me.flight = some (.atomic r.fn 4 as) ∧ as.map (fun k => (k.lane, k.pa, k.v.setWidth 32)) = (activeLanes s).map (fun L => (L, pa L, v L)) ∧
        (r.fn = 6 → as.map (fun k => k.w.setWidth 32) = (activeLanes s).map w) ∧ t.me.pc = s.me.pc ∧ t.me.v = s.me.v ∧
        t.me.issued = true ∧ t.blk = (s.popped [b]).blk ∧ t.strands = s.strands ∧
        (∃ k, t.now ≤ k ∧ { at_ := k, ev := .atomicPerform s.me.id } ∈ t.agenda) ∧ ∀ L ∈ activeLanes s, ∀ x, x / 64 = pa L / 64 → t.core.look x = none) ∧
    (∀ (m : MemWait) (vals : List (Nat × Nat)), s.me.issued = true → s.me.readyAt ≤ s.now → s.me.corrupt = [] → s.me.memWait = some m →
      m.failed = [] → m.waiting = [] → m.ok = [] → m.got = [] → vals ≠ [] → s.me.flight = some (.loaded vals [] []) →
      Leads (exec i s) ((r.acquired (s.vwrote (d.setWidth 7) (Vec.tab (fun L =>
        if vals.any (fun e => e.1 == L) then BitVec.ofNat 32 (lookupD vals L 0) else vkept s (d.setWidth 7) L)))).wordDone (s.me.pc + 4)))

/-! ## Phase boundaries and line operations (05 R119 to R124) -/

namespace Sys2Proof.Machine

/-- The strand waits: it stays at its word and shows the reason (21 R342). -/
def Waits (reason : Nat) (o : Out) (s : State) : Prop :=
  ∃ t, o = .next t ∧ t.me.reason = reason ∧ t.me.pc = s.me.pc ∧ t.me.run = .running ∧ t.me.s = s.me.s ∧ t.me.v = s.me.v ∧ t.me.m = s.me.m ∧
    t.blk = s.blk ∧ t.core = s.core ∧ t.dram = s.dram ∧ t.slices = s.slices

/-- The strand has done the word and emptied its fetch buffer; the block and the other strands, blocks and cores stay. -/
def WordOnly (fetch : List FetchLine) (s t : State) : Prop :=
  t.me.timeless = { (s.wordDone (s.me.pc + 4)).me.timeless with fetch := fetch } ∧ t.blk = s.blk ∧ t.strands = s.strands ∧
    t.blocks = s.blocks ∧ t.cores = s.cores

end Sys2Proof.Machine

/-- 05 R120 to R122: `pub`, `acq`, `pubacq`, `drain` of every scope.  A publication of cluster scope or wider leaves no dirty byte: each
stands at its home (where the sets of the slices have room for the lines and no partition records events, so that nothing else moves), a
valid sector keeps what it held, a partly dirty one is gone.  An acquire of those scopes leaves the core's L1 with its dirty bytes alone.
A release that cannot complete yet waits. -/
def Sys2Proof.Machine.SaysPhaseBoundaries : Prop :=
  ∀ (c : BitVec 3) (s : State), Ready s → Focused s → DirtySorted s → c.toNat ≤ 5 →
    let lines := s.core.dirty.map (fun e => e.1 / 256)
    let published (t : State) : Prop := t.core.dirty = [] ∧ (RoomAtHome s lines → Quiet s →
      (∀ x b, Cells.find s.core.dirty x = some b → t.homeByte x = b) ∧
      (∀ x, x / 256 ∉ lines → isDram x = false → Memory.get t.dram x = Memory.get s.dram x))
    (c.toNat < 2 → (CanRelease c s → Leads (exec (.pub c) s) (s.wordDone (s.me.pc + 4))) ∧
      (∀ i : Instr, i = .acq c ∨ (i = .pubacq c ∧ CanRelease c s) →
        Leads (exec i s) ((s.mapMe (fun t => { t with fetch := [] })).wordDone (s.me.pc + 4)))) ∧
    (¬ CanRelease c s → Waits 4 (exec (.pub c) s) s ∧ Waits 4 (exec (.pubacq c) s) s) ∧
    (2 ≤ c.toNat → CanRelease c s →
      (∃ t, exec (.pub c) s = .next t ∧ WordOnly s.me.fetch s t ∧ published t ∧
        ∀ x, t.core.look x = if s.core.valid.contains (x / 64) then s.core.look x else none) ∧
      (∃ t, exec (.pubacq c) s = .next t ∧ WordOnly [] s t ∧ published t ∧ ∀ x, t.core.look x = none)) ∧
    (2 ≤ c.toNat → ∃ t, exec (.acq c) s = .next t ∧ WordOnly [] s t ∧ t.dram = s.dram ∧ t.slices = s.slices ∧
      ∀ x, t.core.look x = Cells.find s.core.dirty x) ∧
    ((∀ e ∈ s.core.nt, e.strand ≠ s.me.id) → Leads (exec (.drain c) s) (s.wordDone (s.me.pc + 4))) ∧
    ((∃ e ∈ s.core.nt, e.strand = s.me.id) → Waits 4 (exec (.drain c) s) s)

/-- 05 R123, R124: `clean` sends the line's dirty bytes home, and at die scope and wider a DRAM line is clean in its slice; `inval`
drops the L1's sectors of the line that hold no dirty byte, and at die scope and wider a clean copy of the slice.  No dirty byte is
lost, and nothing else changes (no partition recording events).  While a link holds what goes home, both wait (19 R309). -/
def Sys2Proof.Machine.SaysLineOperations : Prop :=
  ∀ (c : BitVec 3) (a : BitVec 6) (s : State) (pa : Nat), Ready s → Still s → Focused s → DirtySorted s → c.toNat ≤ 5 → SrcOk s a →
    Mapped s .read (src s a) pa → Quiet s →
    let word (t : State) : Prop := t.me.timeless = (s.wordDone (s.me.pc + 4)).me.timeless ∧ t.blk = (s.popped [a]).blk ∧ t.strands = s.strands ∧
      t.blocks = s.blocks ∧ t.cores = s.cores
    let held := s.heldBack s.blk.core [pa]
    (held = true → Waits 4 (exec (.clean c a) s) s ∧ (3 ≤ c.toNat → Waits 4 (exec (.inval c a) s) s)) ∧
    (held = false → ∃ t, exec (.clean c a) s = .next t ∧ word t ∧
      (∀ x, x / 256 = pa / 256 → Cells.find t.core.dirty x = none ∧ (∀ b, Cells.find s.core.dirty x = some b → t.homeByte x = b)) ∧
      (∀ x, x / 256 ≠ pa / 256 → t.core.look x = s.core.look x) ∧
      (3 ≤ c.toNat → isDram pa = true → (t.sliceLine (pa / 256)).dirty = 0)) ∧
    ((c.toNat < 3 ∨ held = false) → ∃ t, exec (.inval c a) s = .next t ∧ word t ∧ t.core.dirty = s.core.dirty ∧ t.dram = s.dram ∧
      (∀ k, k ∈ t.core.valid ↔ k ∈ s.core.valid ∧ (k / 4 = pa / 256 → ∃ e ∈ s.core.dirty, e.1 / 64 = k)) ∧
      (∀ x, x / 256 ≠ pa / 256 → t.core.look x = s.core.look x) ∧
      (3 ≤ c.toNat → isDram pa = true → (s.sliceLine (pa / 256)).dirty = 0 → ∀ l ∈ t.slices, l.line ≠ pa / 256) ∧
      (c.toNat < 3 ∨ isDram pa = false ∨ (s.sliceLine (pa / 256)).dirty ≠ 0 → t.slices = s.slices))

/-- 05 R120 to R122: `pub`, `acq`, `pubacq`, `drain` of every scope. A publication of cluster scope or wider leaves no dirty byte:
each stands at its home (where the sets of the slices have room for the lines and no partition records events, so that nothing
else moves), a valid sector keeps what it held, a partly dirty one is gone. An acquire of those scopes leaves the core's L1 with
its dirty bytes alone. A release that cannot complete yet waits.
05 R123, R124: `clean` sends the line's dirty bytes home, and at die scope and wider a DRAM line is clean in its slice; `inval`
drops the L1's sectors of the line that hold no dirty byte, and at die scope and wider a clean copy of the slice. No dirty byte is
lost, and nothing else changes (no partition recording events). While a link holds what goes home, both wait (19 R309). -/
def Obligations.PhaseWords : Prop :=
  Sys2Proof.Machine.SaysPhaseBoundaries ∧ Sys2Proof.Machine.SaysLineOperations

/-! ## Accumulator tiles, gangs, batches (08 R161 to R171, 09 R174 to R181, 07 R147) -/

namespace Sys2Proof.Machine

/-- The tile that a word names; a tile that the block does not hold is no operand. -/
def tileOf (s : State) (a : BitVec 3) : Tile := s.blk.tiles[a.toNat]?.getD .init

/-- The state with tile a changed. -/
def State.withTile (a : BitVec 3) (f : Tile → Tile) (s : State) : State :=
  s.mapBlk (fun b => { b with tiles := b.tiles.set a.toNat (f (tileOf s a)) })

/-- 08 R167: a matrix operation of the block that names the tile is not complete. -/
def Busy (s : State) (a : BitVec 3) : Prop := ∃ m ∈ s.mxops, m.block = s.blk.id ∧ m.acc = a.toNat ∧ m.done = false

/-- The element of row r and column j of a tile (08 R161). -/
def elemOf (t : Tile) (r : BitVec 4) (g : BitVec 2) (L : Nat) : Elem :=
  match t.elems.find? (fun e => e.1 == 128 * r.toNat + 32 * g.toNat + L) with
  | some e => e.2
  | none => { a := 0, rw := 0, nan := false, ru := false }

/-- 08 R161: the exact sum. -/
def exactSum (e : Elem) : Int := e.a.toInt + e.rw.toInt * 2 ^ 26

/-- A strand in the middle of a word, whose wait has ended. -/
structure Resumed (s : State) : Prop where
  running : s.me.run = .running
  issued : s.me.issued = true
  free : s.me.stepping = false
  due : s.me.readyAt ≤ s.now
  whole : s.me.corrupt = []
  noLog : s.graftLog = []

/-- The engine's batches of the strand (01 R21): 0 mx, 1 cp, 2 sw. -/
def engineOf (e : BitVec 2) (t : Strand) : Batches := if e = 0 then t.mx else if e = 1 then t.cp else t.sw

def withEngine (e : BitVec 2) (b : Batches) (s : State) : State :=
  s.mapMe (fun t => if e = 0 then { t with mx := b } else if e = 1 then { t with cp := b } else { t with sw := b })

/-- 07 R147: the batches sealed up to now, the unsealed operations in one more. -/
def sealed (b : Batches) : Batches :=
  { last := b.last + 1, unsealed := [], batches := b.batches ++ [{ num := b.last + 1, ops := b.unsealed, reported := false, joined := false }] }

/-- A batch whose operations are all complete. -/
def Batch.over (k : Batch) : Bool := k.ops.all (fun o => o.done)

/-- 07 R147: the complete batches: with those of every lower number. -/
def completeOf (b : Batches) : List Batch := b.batches.takeWhile Batch.over

/-- 14 R253: what observing the complete batches does: each joins once, at the widest scope of its operations. -/
def observed (e : BitVec 2) (s : State) : State :=
  let b := engineOf e s.me
  let scopes := ((completeOf b).filter (fun k => !k.joined)).flatMap (fun k => k.ops.map (fun o => o.join.toNat))
  let s1 := withEngine e { b with batches := b.batches.map (fun k => { k with joined := k.joined || k.over }) } s
  if scopes = [] then s1 else s1.refresh (BitVec.ofNat 3 (scopes.foldl Nat.max 0))

/-- 09 R180: the first fault of a batch. -/
def firstFault (k : Batch) : Option BatchFault := (k.ops.filterMap (·.fault)).head?

end Sys2Proof.Machine

/-- 08 R167, 09 R178: the tile members without a read-out: they wait for the tile's operations; then `azero`, `aanchor` and `arange`
change what they name of the tile, `astat` reads the summary. -/
def Sys2Proof.Machine.SaysTileMembers : Prop :=
  ∀ (a : BitVec 3) (r d : BitVec 6) (k : BitVec 6) (s : State), Ready s → a.toNat < s.blk.tiles.length → k.toNat ∈ [20, 24, 28, 32, 36, 41] →
    SrcOk s r → DstOk d →
    let t := tileOf s a
    (¬ Busy s a →
      Leads (exec (.azero a) s) ((s.withTile a (fun t => { t with elems := [], poison := [], rcount := 0 })).wordDone (s.me.pc + 4)) ∧
      Leads (exec (.aanchor a r) s) (((s.popped [r]).withTile a (fun t => { t with g := (src s r).setWidth 10 })).wordDone (s.me.pc + 4)) ∧
      Leads (exec (.arange a k) s) ((s.withTile a (fun t => { t with d := k.toNat })).wordDone (s.me.pc + 4)) ∧
      (t.d < 64 → Leads (exec (.astat d a) s) ((s.wrote d
        (((if t.poison = [] then 0#14 else 4#14) ||| (if t.elems.any (fun e => e.2.ru) then 2#14 else 0#14) |||
            (if t.elems.any (fun e => e.2.nan) then 1#14 else 0#14)).setWidth 16 ++ BitVec.ofNat 6 t.d ++ t.g ++ t.rcount : BitVec 64)).wordDone
          (s.me.pc + 4)))) ∧
    (Busy s a → (∀ i ∈ [Instr.azero a, .arange a k, .astat d a], Waits 10 (exec i s) s) ∧ (isPort r = false → Waits 10 (exec (.aanchor a r) s) s))

/-- 08 R170, R171, 09 R178: the read-outs of a strand that is not protected, from elements that no error has reached: `aread` gives
S x 2^(G-19) x scale, rounded once to nearest even; the canonical NaN where NAN is set or the scale is a NaN; `aread.raw` gives A, and
Rw with the flags. -/
def Sys2Proof.Machine.SaysReadOut : Prop :=
  ∀ (d : BitVec 7) (a : BitVec 3) (r : BitVec 4) (g : BitVec 2) (x : BitVec 6) (s : State), Ready s → s.me.budget ≤ 64 → s.me.prot = false →
    a.toNat < s.blk.tiles.length → ¬ Busy s a → s.active ≠ 0 →
    (∀ L < 32, s.active.getLsbD L = true → 128 * r.toNat + 32 * g.toNat + L ∉ (tileOf s a).poison) →
    let e (L : Nat) : Elem := elemOf (tileOf s a) r g L
    (SrcOk s x → VDstOk s [] d → ∃ v : Vec,
      Leads (exec (.aread d a r g x) s) (((s.popped [x]).vwrote d (Vec.tab (fun L => if s.active.getLsbD L then Vec.lane v L else vkept s d L))).wordDone
        (s.me.pc + 4)) ∧
      ∀ L < 32, ((e L).nan = true ∨ f32 ((src s x).setWidth 32) = .nan → Vec.lane v L = 0x7FC00000) ∧
        (∀ q : ℚ, (e L).nan = false → real32 ((src s x).setWidth 32) = some q →
          let y := (exactSum (e L) : ℚ) * (2 : ℚ) ^ ((tileOf s a).g.toInt - 19) * q
          |y| ≤ maxFinite32 → IsRounded .rne y (Vec.lane v L))) ∧
    (d.toNat + 1 < s.me.budget → Leads (exec (.areadRaw d a r g) s)
      (((s.vwrote d (Vec.tab (fun L => if s.active.getLsbD L then (e L).a.signExtend 32 else vkept s d L))).vwrote (d + 1) (Vec.tab (fun L =>
        if s.active.getLsbD L then (0#14 ++ (if (e L).ru then 1#1 else 0#1) ++ (if (e L).nan then 1#1 else 0#1) ++ (e L).rw : BitVec 32)
        else vkept s (d + 1) L))).wordDone (s.me.pc + 4)))

/-- 08 R167, 09 R178: the tile members without a read-out: they wait for the tile's operations; then `azero`, `aanchor` and `arange`
change what they name of the tile, `astat` reads the summary.
08 R170, R171, 09 R178: the read-outs of a strand that is not protected, from elements that no error has reached: `aread` gives S
x 2^(G-19) x scale, rounded once to nearest even; the canonical NaN where NAN is set or the scale is a NaN; `aread.raw` gives A,
and Rw with the flags. -/
def Obligations.TileWords : Prop :=
  Sys2Proof.Machine.SaysTileMembers ∧ Sys2Proof.Machine.SaysReadOut

/-- 08 R162 to R165, R173: an arrival and a drain lose nothing: A + Rw x 2^26 and what stands in the queues add up to the same sum, with
the arriving partial; no queue holds more than four; a drain leaves both empty. Partials lie below 2^27 in magnitude (08 R160). -/
def Obligations.ExactAccumulation : Prop :=
  ∀ (g : Stage) (t : Int), g.pq.length ≤ 4 → g.nq.length ≤ 4 → (∀ x ∈ g.pq, 0 < x ∧ x < 2 ^ 27) → (∀ x ∈ g.nq, x < 0 ∧ -(2 ^ 27) < x) →
    -(2 ^ 27) < t → t < 2 ^ 27 →
    let total (g : Stage) : Int := exactSum g.e + g.pq.sum + g.nq.sum
    ((g.arrive t).rovf = false → total (g.arrive t) = total g + t) ∧
    (g.arrive t).pq.length ≤ 4 ∧ (g.arrive t).nq.length ≤ 4 ∧
    ((g.drain 9).rovf = false → total (g.drain 9) = total g) ∧ (g.drain 9).pq = [] ∧ (g.drain 9).nq = []

/-- 09 R174, R175, R181: a matrix word waits for its gang and is done once its rendezvous is complete; the first strand of a gang opens
the latch, after its earlier stores to peers' windows (14 R252), for which it waits; a GANG value that is not allowed traps GANG with the word.  `gangset` and `gangclr` write GANG. -/
def Obligations.MatrixWords : Prop :=
  ∀ (a : BitVec 3) (w : BitVec 7) (r k : BitVec 4) (x y p : BitVec 1) (c : BitVec 6) (s : State),
    (∀ i ∈ [Instr.mma a w r k x y p, .mmac a w r k x y p],
      (Resumed s → s.me.wait = .released → Leads (exec i s) ((s.mapMe (fun t => { t with wait := .none })).wordDone (s.me.pc + 4))) ∧
      (Ready s → s.me.wait = .none → s.me.kind = 1 → a.toNat < s.blk.tiles.length → w.toNat + k.toNat + 1 ≤ s.blk.planes.length →
        r.toNat < s.blk.trays.length → (p = 1 ∨ k.toNat + 1 ≤ (s.blk.trays[r.toNat]?.getD .init).nslot) →
        let slots := (List.range 32).filter (fun j => s.me.gang.getLsbD j)
        let strand (j : Nat) : Option Strand := (s.strandsOf s.me.block).find? (fun t => t.slot == j)
        let allowed := 2 ≤ slots.length ∧ slots.length ≤ 6 ∧ s.me.slot ∈ slots ∧ ∀ j ∈ slots, ∃ t, strand j = some t ∧ t.kind = 1
        (¬ allowed → ∃ b : State, b.timeless = s.timeless ∧
          exec i s = .next (b.takeTrap { cause := .gang, tval := (encode i).setWidth 64, lanes := s.me.visible, taddr := 0 })) ∧
        (allowed → (∀ j ∈ slots, ∀ t, strand j = some t → t.run ≠ .halted ∧ t.run ≠ .exited) → ¬ CanRelease 1 s → Waits 4 (exec i s) s) ∧
        (allowed → (∀ j ∈ slots, ∀ t, strand j = some t → t.run ≠ .halted ∧ t.run ≠ .exited) → CanRelease 1 s → s.blk.latch = none →
          ∃ t, exec i s = .next t ∧ t.me.wait = .gang ∧ t.me.reason = 11 ∧ t.me.pc = s.me.pc ∧ t.me.s = s.me.s ∧ t.me.mx = s.me.mx ∧
            t.blk = { s.blk with latch := some { word := encode i, gang := s.me.gang, joined := [s.me.slot] } } ∧ t.mxops = s.mxops))) ∧
    (Ready s → SrcOk s c → Leads (exec (.gangset c) s)
      (((s.popped [c]).mapMe (fun t => { t with gang := (src s c).setWidth 32 })).wordDone (s.me.pc + 4))) ∧
    (Ready s → Leads (exec .gangclr s) ((s.mapMe (fun t => { t with gang := 0 })).wordDone (s.me.pc + 4)))

/-- 07 R147, 09 R179, R180, 14 R253: `seal` numbers the unsealed operations as one batch, or traps BATCH with the engine's code where 16
would stand open; `waitb` waits while more than n stand open; it and `testb` observe the complete batches: each joins once; the
lowest one with a fault not yet reported traps with that fault; else they are done, `testb` with the highest complete number. -/
def Obligations.BatchWords : Prop :=
  ∀ (d : BitVec 6) (e : BitVec 2) (n : BitVec 4) (s : State), Ready s → Focused s → s.me.wait = .none → e.toNat ≤ 2 → DstOk d →
    let b := engineOf e s.me
    let c := completeOf b
    ((openBatches (sealed b) < 16 → Leads (exec (.seal d e) s)
        ((((withEngine e (sealed b) s).mapMe (fun t => { t with wake := t.wake || (sealed b).batches.all Batch.over })).wrote d
          (BitVec.ofNat 64 (b.last + 1))).wordDone (s.me.pc + 4))) ∧
      (16 ≤ openBatches (sealed b) → ∃ q : State, q.timeless = s.timeless ∧
        exec (.seal d e) s = .next (q.takeTrap { cause := .batch, tval := e.setWidth 64, lanes := s.me.visible, taddr := 0 }))) ∧
    (n.toNat < openBatches b → Waits 10 (exec (.waitb e n) s) s) ∧
    (∀ i ∈ [Instr.waitb e n, .testb d e], (i = .waitb e n → openBatches b ≤ n.toNat) →
      ((∀ k ∈ c, k.reported = true ∨ firstFault k = none) → Leads (exec i s) (((if i = .testb d e
          then (observed e s).wrote d (BitVec.ofNat 64 ((c.getLast?.map (·.num)).getD 0)) else observed e s)).wordDone (s.me.pc + 4))) ∧
      (∀ (l r : List Batch) (k : Batch) (f : BatchFault), c = l ++ k :: r → (∀ j ∈ l, j.reported = true ∨ firstFault j = none) →
        k.reported = false → firstFault k = some f → ∃ q : State,
          q.timeless = (let o := observed e s; withEngine e { engineOf e o.me with batches := (engineOf e o.me).batches.map (fun j =>
            if j.num = k.num then { j with reported := true } else j) } o).timeless ∧
          exec i s = .next (q.takeTrap { cause := f.cause, tval := f.tval, lanes := s.me.visible, taddr := f.taddr })))

/-! ## Trays, barriers, channels (07 R137 to R145, 09 R190 to R194, 11 R201) -/

namespace Sys2Proof.Machine

/-- A field of the window's bytes (00 R6). -/
def windowField (s : State) (off n : Nat) : Nat := windowNum s off n

/-- 09 R190: the offset of the first field of the descriptor at off that breaks its range (a descriptor that does not fit reports
offset 0: DESIGN CHOICE). -/
def badDescriptor (s : State) (off : Nat) : Option Nat :=
  let base := windowField s off 4
  let slot := windowField s (off + 4) 4
  let nslot := windowField s (off + 8) 1
  let atype := windowField s (off + 9) 1
  if base % 128 ≠ 0 ∨ s.blk.windowSize < base + nslot * slot then some 0
  else if slot % 128 ≠ 0 ∨ slot < 128 ∨ 2 ^ 18 < slot then some 4
  else if nslot < 1 ∨ 32 < nslot then some 8
  else if 4 < atype then some 9
  else if atype = 0 ∧ formatOk (BitVec.ofNat 16 (windowField s (off + 10) 2)) = false then some 10
  else if 2 < windowField s (off + 12) 1 then some 12
  else if 1 < windowField s (off + 13) 1 then some 13
  else none

/-- 07 R138, 09 R190: the empty tray that the descriptor at off describes. -/
def describedTray (s : State) (off : Nat) (old : Tray) : Tray :=
  { base := windowField s off 4, slot := windowField s (off + 4) 4, nslot := windowField s (off + 8) 1, atype := windowField s (off + 9) 1,
    afmt := BitVec.ofNat 16 (windowField s (off + 10) 2), scale := windowField s (off + 12) 1, stream := windowField s (off + 13) 1 == 1,
    kslot := windowField s (off + 14) 2, layout := BitVec.ofNat 64 (windowField s (off + 16) 8), step := windowField s (off + 24) 4,
    count := windowField s (off + 28) 4, head := 0, tail := 0, free := windowField s (off + 8) 1, res := 0, filled := 0, landed := [],
    gen := old.gen + 1, fetched := 0, unit := old.unit }

def trayOf (s : State) (t : BitVec 4) : Tray := s.blk.trays[t.toNat]?.getD .init

def State.withTray (t : BitVec 4) (f : Tray → Tray) (s : State) : State :=
  s.mapBlk (fun b => { b with trays := b.trays.set t.toNat (f (trayOf s t)) })

/-- A matrix operation of the block that reads the tray is outstanding (09 R191). -/
def Reading (s : State) (t : BitVec 4) : Prop := ∃ m ∈ s.mxops, m.block = s.blk.id ∧ m.tray = t.toNat ∧ m.done = false

/-- 03 R75: the strands of the block are woken. -/
def State.blockWoken (s : State) : State := s.mapStrands (fun t => t.block == s.blk.id) Strand.woken

/-- The window of the block with the bytes of x at off. -/
def windowWith {n : Nat} (s : State) (off : Nat) (x : BitVec n) (w : Memory) : Prop :=
  ∀ k, Memory.get w k = stored (Memory.get s.blk.window) off x k

/-- 07 R141: the fields of a barrier doubleword as one word. -/
def barWord (round xfer pend exp : Nat) : W64 := BitVec.ofNat 64 (round * 2 ^ 56 + xfer * 2 ^ 40 + pend * 2 ^ 24 + exp)

/-- 07 R142, R143: a doubleword after its transfer and arrival counts have changed. -/
def barNext (x : W64) (f g : Nat → Nat) : W64 :=
  let round := (x.extractLsb' 56 8).toNat
  let xfer := (x.extractLsb' 40 16).toNat
  let pend := (x.extractLsb' 24 16).toNat
  let exp := (x.extractLsb' 0 16).toNat
  if xfer = 0xFFFF then barWord round xfer pend exp
  else if f xfer = 0 ∧ g pend = 0 then barWord ((round + 1) % 256) 0 exp exp
  else barWord round (f xfer) (g pend) exp

/-- The block after a change of one of its phase-bit barriers: its window, the doublewords of it that still hold an error, the scopes of
joins that are still noted (14 R253). -/
def State.barred (w : Memory) (bad : List Nat) (rounds : List RoundScope) (s : State) : State :=
  s.mapBlk (fun b => { b with window := w, corrupt := bad, rounds := rounds })

/-- What such a change keeps of errors and of noted joins it had before. -/
def OnlyOld (s : State) (bad : List Nat) (rounds : List RoundScope) : Prop :=
  (∀ k ∈ bad, k ∈ s.blk.corrupt) ∧ ∀ r ∈ rounds, r ∈ s.blk.rounds

/-- 14 R253: the scope at which a `barwait` for the end of a round acquires: the core, or the widest destination of the copies that ended
the round. -/
def roundJoin (s : State) (off round : Nat) : BitVec 3 :=
  ((s.blk.rounds.find? (fun r => r.off == off && r.round == round)).map (·.scope)).getD 1

/-- 03 R75, 07 R133, R142: the end of a round wakes the block's strands, which `hint.spin` demotes no more. -/
def roundEnds (old new : W64) (s : State) : State :=
  if new.extractLsb' 56 8 = old.extractLsb' 56 8 then s
  else (s.mapStrands (fun t => t.block == s.blk.id) (fun t => { t with spin := false })).blockWoken

end Sys2Proof.Machine

/-- 07 R138 to R140, 09 R190 to R192: the tray words.  `tinit` sets up an empty tray of the next generation, of a descriptor that holds
(one that does not, traps FORMAT with the offset of the first field that breaks its range); `twait` waits for a filled slot and
empties the fetch buffer; `tpop` frees the head; `tfilled` reads the counts; `tcommit` reserves and lands a slot at once.  `tpop` and
`tcommit` are releases at core scope (14 R248, R256) and wait for the strand's earlier stores to peers' windows. -/
def Obligations.TrayWords : Prop :=
  ∀ (t : BitVec 4) (r d : BitVec 6) (s : State), Ready s → Focused s → t.toNat < s.blk.trays.length → SrcOk s r → DstOk d →
    let y := trayOf s t
    let off := (src s r).toNat
    (noPeer (src s r) → localCause s 32 (src s r) = none → ¬ Reading s t → (∀ c ∈ s.copies, c.side ≠ CoreSide.tray t.toNat) →
      (badDescriptor s off = none → windowField s (off + 13) 1 = 0 →
        Leads (exec (.tinit t r) s) (((s.popped [r]).withTray t (fun y => describedTray s off y)).wordDone (s.me.pc + 4))) ∧
      (badDescriptor s off = none → windowField s (off + 13) 1 = 1 → ∃ u, exec (.tinit t r) s = .next u ∧ u.me.pc = s.me.pc + 4 ∧
        u.blk = ((s.popped [r]).withTray t (fun y => describedTray s off y)).blk ∧
        ∃ c, u.copies = s.copies ++ [c] ∧ c.stream = true ∧ c.side = CoreSide.tray t.toNat ∧ c.block = s.blk.id ∧ c.kind = .cpg) ∧
      (∀ k, badDescriptor s off = some k → ∃ q : State, q.timeless = (s.popped [r]).timeless ∧ exec (.tinit t r) s =
        .next (q.takeTrap { cause := .format, tval := BitVec.ofNat 64 (0x10000 + k), lanes := s.me.visible, taddr := 0 }))) ∧
    (∀ c, noPeer (src s r) → localCause s 32 (src s r) = some c → ∃ q : State, q.timeless = (s.popped [r]).timeless ∧ exec (.tinit t r) s =
      .next (q.takeTrap { cause := c, tval := 0, lanes := s.me.visible, taddr := src s r })) ∧
    (y.filled ≠ 0 → Leads (exec (.twait t) s) ((s.mapMe (fun t => { t with fetch := [] })).wordDone (s.me.pc + 4))) ∧
    (y.filled = 0 → Waits 6 (exec (.twait t) s) s) ∧
    (y.filled ≠ 0 → ¬ Reading s t → ¬ CanRelease 1 s → Waits 4 (exec (.tpop t) s) s) ∧
    (y.filled ≠ 0 → ¬ Reading s t → CanRelease 1 s → Leads (exec (.tpop t) s) ((s.withTray t (fun y =>
      { y with filled := y.filled - 1, free := y.free + 1, head := (y.head + 1) % y.nslot })).wordDone (s.me.pc + 4))) ∧
    (y.filled = 0 ∨ Reading s t → Waits 6 (exec (.tpop t) s) s) ∧
    Leads (exec (.tfilled t d) s) ((s.wrote d (BitVec.ofNat 64 (y.filled + y.free * 2 ^ 8 + y.head * 2 ^ 16 + y.tail * 2 ^ 24 +
      y.gen.toNat * 2 ^ 32))).wordDone (s.me.pc + 4)) ∧
    (y.stream = false → y.free = 0 → Waits 6 (exec (.tcommit t) s) s) ∧
    (y.stream = false → y.free ≠ 0 → ¬ CanRelease 1 s → Waits 4 (exec (.tcommit t) s) s) ∧
    (y.stream = false → y.free ≠ 0 → CanRelease 1 s → y.res = 0 → y.landed = [] → y.tail = (y.head + y.filled) % y.nslot → 0 < y.nslot →
      Leads (exec (.tcommit t) s) (((s.withTray t (fun y =>
        { y with free := y.free - 1, filled := y.filled + 1, tail := (y.tail + 1) % y.nslot })).blockWoken).wordDone (s.me.pc + 4))) ∧
    (y.stream = false → y.free ≠ 0 → CanRelease 1 s → y.landed = [] → y.tail ≠ (y.head + y.filled) % y.nslot → 0 < y.nslot →
      Leads (exec (.tcommit t) s) (((s.withTray t (fun y =>
        { y with free := y.free - 1, res := y.res + 1, tail := (y.tail + 1) % y.nslot, landed := [y.tail] })).blockWoken).wordDone (s.me.pc + 4)))

/-- 07 R141 to R143, 09 R193: the phase-bit barrier in the own window: `barinit` writes the whole doubleword (ILLEGAL with the word for a
count outside 1 to 65,535); `bararr` and `barexp` change it as R142 says, after the strand's earlier stores to peers' windows (14 R248),
and an abandoned one stays so; `barwait` passes once ROUND
differs, and acquires at the scope of what ended the round, waits with reason 8, or traps ABANDONED. -/
def Sys2Proof.Machine.SaysBarrierWords : Prop :=
  ∀ (a b : BitVec 6) (s : State), Ready s → Focused s → s.me.block = s.blk.id → s.me.wait ≠ .sleeping → SrcOk s a → SrcOk s b → noPeer (src s a) →
    let off := (src s a).toNat
    let x : W64 := BitVec.ofNat 64 (windowNum s off 8)
    let n := (src s b).toNat
    (localCause s 8 (src s a) = none →
      (1 ≤ n → n ≤ 65535 → ∃ w bad rounds, windowWith s off (BitVec.ofNat 64 (n * 2 ^ 24 + n)) w ∧ OnlyOld s bad rounds ∧
        Leads (exec (.barinit a b) s) (((s.popped [a, b]).barred w bad rounds).wordDone (s.me.pc + 4))) ∧
      (n < 1 ∨ 65535 < n → ∃ q : State, q.timeless = (s.popped [a, b]).timeless ∧ exec (.barinit a b) s =
        .next (q.takeTrap { cause := .illegal, tval := (encode (.barinit a b)).setWidth 64, lanes := s.me.visible, taddr := 0 })) ∧
      (¬ CanRelease 1 s → isPort a = false → isPort b = false → Waits 4 (exec (.bararr a) s) s ∧ Waits 4 (exec (.barexp a b) s) s) ∧
      (CanRelease 1 s → ∃ w bad rounds, windowWith s off (barNext x id (fun p => p - 1)) w ∧ OnlyOld s bad rounds ∧ Leads (exec (.bararr a) s)
        ((roundEnds x (barNext x id (fun p => p - 1)) ((s.popped [a]).barred w bad rounds)).wordDone (s.me.pc + 4))) ∧
      (CanRelease 1 s → ∃ w bad rounds, windowWith s off (barNext x (fun f => Nat.min (f + (n + 255) / 256) 0xFFFE) id) w ∧ OnlyOld s bad rounds ∧
        Leads (exec (.barexp a b) s)
        ((roundEnds x (barNext x (fun f => Nat.min (f + (n + 255) / 256) 0xFFFE) id) ((s.popped [a, b]).barred w bad rounds)).wordDone
          (s.me.pc + 4))) ∧
      (x.extractLsb' 40 16 = 0xFFFF#16 → ∃ q : State, q.timeless = (s.popped [a, b]).timeless ∧ exec (.barwait a b) s =
        .next (q.takeTrap { cause := .abandoned, tval := 0, lanes := s.me.visible, taddr := 0 })) ∧
      (x.extractLsb' 40 16 ≠ 0xFFFF#16 → x.extractLsb' 56 8 ≠ (src s b).extractLsb' 0 8 → Leads (exec (.barwait a b) s)
        (((s.popped [a, b]).refresh (roundJoin s off ((src s b).extractLsb' 0 8).toNat)).wordDone (s.me.pc + 4))) ∧
      (x.extractLsb' 40 16 ≠ 0xFFFF#16 → x.extractLsb' 56 8 = (src s b).extractLsb' 0 8 → isPort a = false → isPort b = false →
        (∀ t ∈ s.strands, t.block = s.blk.id → t.run ≠ .halted) → Waits 8 (exec (.barwait a b) s) s)) ∧
    (∀ c, localCause s 8 (src s a) = some c → ∀ i ∈ [Instr.barinit a b, .bararr a, .barwait a b, .barexp a b], ∃ q : State,
      (q.timeless = (s.popped [a]).timeless ∨ q.timeless = (s.popped [a, b]).timeless) ∧
      exec i s = .next (q.takeTrap { cause := c, tval := 0, lanes := s.me.visible, taddr := src s a }))

/-- 07 R144, 11 R201, R202: `barsync`, once the strand's earlier stores to peers' windows are performed (14 R248): a strand that others of the block have still to join arrives and waits with reason 9; the last to
arrive releases the phase, wakes the block and is done; a released strand is done.  `cbarsync`: a released strand is done, its view
refreshed; the last strand of the group publishes, releases the phase and is done.  A barrier word at a peer's window sends a packet. -/
def Sys2Proof.Machine.SaysBarrierPhases : Prop :=
  ∀ (b : BitVec 4) (a : BitVec 6) (s : State), Focused s → s.me.block = s.blk.id → s.me.handler = false → b.toNat < s.blk.barriers.length →
    let r := s.blk.barriers[b.toNat]?.getD .init
    let present (arrived : List Nat) : Prop := ∀ t ∈ s.strands, t.block = s.blk.id → t.slot ∈ arrived ∨ t.run = .exited ∨ t.handler = true
    let sound : Prop := ∀ t ∈ s.strands, t.block = s.blk.id → t.run ≠ .halted
    let bar (f : Barrier) (s : State) : State := s.mapBlk (fun k => { k with barriers := k.barriers.set b.toNat f })
    (Ready s → s.me.wait = .none → ¬ CanRelease 0 s → Waits 4 (exec (.barsync b) s) s) ∧
    (Ready s → s.me.wait = .none → CanRelease 0 s → sound → s.me.slot ∉ r.released → s.me.slot ∉ r.timedOut →
      (¬ present (setInsert r.arrived s.me.slot) → ∃ u, exec (.barsync b) s = .next u ∧ u.me.pc = s.me.pc ∧ u.me.reason = 9 ∧
        u.me.wait = .blockBarrier b.toNat ∧
        u.blk = (bar { r with arrived := setInsert r.arrived s.me.slot, firstAt := some (r.firstAt.getD s.now) } s).blk) ∧
      (present (setInsert r.arrived s.me.slot) → ∃ u, exec (.barsync b) s = .next u ∧ u.me.pc = s.me.pc + 4 ∧ u.me.wait = .none ∧
        u.me.fetch = [] ∧ u.me.s = s.me.s ∧ u.me.v = s.me.v ∧ u.me.m = s.me.m ∧
        u.blk = (bar { r with arrived := [], firstAt := none, released := r.released ++ (setInsert r.arrived s.me.slot).filter (fun k => k != s.me.slot) } s).blk ∧
        (∀ t ∈ u.strands, t.block = s.blk.id → t.spin = false ∧ t.wait ≠ .sleeping))) ∧
    (Resumed s → s.me.wait = .blockBarrier b.toNat → s.me.slot ∈ r.released → Leads (exec (.barsync b) s)
      (((bar { r with released := r.released.filter (fun k => k != s.me.slot) } s).mapMe (fun t => { t with wait := .none, fetch := [] })).wordDone
        (s.me.pc + 4))) ∧
    (∀ (g : GroupBarrier), s.groupBars = [g] → g.group = s.blk.group →
      (Resumed s → s.me.wait = .clusterBarrier → s.me.id ∈ g.released → ∃ u, exec .cbarsync s = .next u ∧ u.me.pc = s.me.pc + 4 ∧
        u.me.wait = .none ∧ u.me.fetch = [] ∧ u.me.s = s.me.s ∧ u.core.valid = [] ∧ u.core.dirty = s.core.dirty ∧
        u.groupBars = [{ g with released := g.released.filter (fun k => k != s.me.id) }]) ∧
      (Ready s → s.me.wait = .none → CanRelease 2 s → g.halted = false → s.me.id ∉ g.released → s.me.id ∉ g.timedOut →
        (∀ k ∈ s.allBlocks, k.group = s.blk.group → ∀ t ∈ s.strandsOf k.id, t.run ≠ .halted ∧
          (t.id = s.me.id ∨ t.id ∈ g.arrived ∨ t.run = .exited ∨ t.handler = true)) →
        ∃ u stopped, exec .cbarsync s = .next u ∧ u.me.pc = s.me.pc + 4 ∧ u.me.wait = .none ∧ u.me.fetch = [] ∧ u.me.s = s.me.s ∧
          u.core.valid = [] ∧ u.core.dirty = [] ∧ u.groupBars = [{ g with arrived := [], firstAt := none, stoppedAt := stopped, released := g.released ++ (setInsert g.arrived s.me.id).filter (fun k => k != s.me.id) }])) ∧
    (∀ block off, Ready s → SrcOk s a → (src s a).toNat % 8 = 0 → s.localRef (src s a) 8 true = some (.peer block off) → CanRelease 2 s →
      ∃ u, exec (.bararr a) s = .next u ∧ u.me.pc = s.me.pc + 4 ∧ u.me.peerStores = 1 ∧ u.core.dirty = [] ∧ u.blk = s.blk ∧
        u.core.packets = s.core.packets ++ [{ strand := s.me.id, block := block, off := off, bytes := [], act := 1, amount := 0 }] ∧
        { at_ := s.now + 20 * acTicks, ev := .peerLocalAccess s.core.id } ∈ u.agenda)

/-- 07 R141 to R143, 09 R193: the phase-bit barrier in the own window: `barinit` writes the whole doubleword (ILLEGAL with the word
for a count outside 1 to 65,535); `bararr` and `barexp` change it as R142 says, after the strand's earlier stores to peers'
windows (14 R248), and an abandoned one stays so; `barwait` passes once ROUND differs, and acquires at the scope of what ended the
round, waits with reason 8, or traps ABANDONED.
07 R144, 11 R201, R202: `barsync`, once the strand's earlier stores to peers' windows are performed (14 R248): a strand that
others of the block have still to join arrives and waits with reason 9; the last to arrive releases the phase, wakes the block and
is done; a released strand is done. `cbarsync`: a released strand is done, its view refreshed; the last strand of the group
publishes, releases the phase and is done. A barrier word at a peer's window sends a packet. -/
def Obligations.Barriers : Prop :=
  Sys2Proof.Machine.SaysBarrierWords ∧ Sys2Proof.Machine.SaysBarrierPhases

/-- 07 R137, 09 R194: `chbind` binds the reader's end (value 0) or the writer's (1) to the strand's slot, unless another slot holds it
(CHANNEL) or the value is another (ILLEGAL); `chclose` releases and closes what the slot holds; `chlen` reads the length; a number beyond
the block's channels traps CHANNEL with the number. -/
def Obligations.ChannelWords : Prop :=
  ∀ (c r d : BitVec 6) (s : State), Ready s → SrcOk s r → DstOk d →
    let x := src s r
    let chan (f : Channel → Channel) (ch : Channel) (s : State) : State := s.mapBlk (fun b => { b with channels := b.channels.set c.toNat (f ch) })
    let traps (i : Instr) (rs : List (BitVec 6)) (cause : Cause) (v : W64) : Prop := ∃ q : State, q.timeless = (s.popped rs).timeless ∧
      exec i s = .next (q.takeTrap { cause := cause, tval := v, lanes := s.me.visible, taddr := 0 })
    (∀ ch, s.blk.channels[c.toNat]? = some ch →
      let free (e : Option Nat) (closed : Bool) : Prop := closed = true ∨ e = none ∨ e = some s.me.slot
      (x = 0 → free ch.reader ch.readerClosed → Leads (exec (.chbind c r) s)
        ((chan (fun k => { k with reader := some s.me.slot, readerClosed := false }) ch (s.popped [r])).wordDone (s.me.pc + 4))) ∧
      (x = 1 → free ch.writer ch.writerClosed → Leads (exec (.chbind c r) s)
        ((chan (fun k => { k with writer := some s.me.slot, writerClosed := false }) ch (s.popped [r])).wordDone (s.me.pc + 4))) ∧
      (x = 0 → ¬ free ch.reader ch.readerClosed → traps (.chbind c r) [r] .channel (c.setWidth 64)) ∧
      (x = 1 → ¬ free ch.writer ch.writerClosed → traps (.chbind c r) [r] .channel (c.setWidth 64)) ∧
      (2 ≤ x.toNat → traps (.chbind c r) [r] .illegal ((encode (.chbind c r)).setWidth 64)) ∧
      Leads (exec (.chclose c) s) ((chan (fun k =>
        { k with reader := if k.reader = some s.me.slot then none else k.reader, readerClosed := k.readerClosed || k.reader == some s.me.slot, writer := if k.writer = some s.me.slot then none else k.writer, writerClosed := k.writerClosed || k.writer == some s.me.slot })
        ch s).wordDone (s.me.pc + 4)) ∧
      Leads (exec (.chlen c d) s) ((s.wrote d (BitVec.ofNat 64 ch.entries.length)).wordDone (s.me.pc + 4))) ∧
    (s.blk.channels.length ≤ c.toNat → traps (.chbind c r) [r] .channel (c.setWidth 64) ∧ traps (.chclose c) [] .channel (c.setWidth 64) ∧
      traps (.chlen c d) [] .channel (c.setWidth 64))

/-! ## Copies (09 R182 to R186, 22 R361) -/

namespace Sys2Proof.Machine

/-- 09 R184: what a destination descriptor of `cpg`, `cps` or `cpm` must hold, field by field: a KIND that is listed and that the copy
takes, zero in every field that is reserved for the KIND, a tray or plane of the block, a tray that is not streamed. -/
def descriptorOk (kind : CopyKind) (b : Block) (x : W64) : Prop :=
  let f (hi lo : Nat) : Nat := slice x hi lo
  let multicast := kind = .cpm
  f 53 52 = 0 ∧ f 31 25 = 0 ∧ (¬ multicast → f 57 55 = 0 ∧ f 24 20 = 0) ∧
  ((f 63 60 = 0 ∧ f 54 54 = 0) ∨
   (f 63 60 = 1 ∧ kind ≠ .cps ∧ f 59 58 = 0 ∧ f 51 48 = 0 ∧ f 19 4 = 0 ∧ ∃ t, b.trays[f 3 0]? = some t ∧ t.stream = false) ∨
   (f 63 60 = 2 ∧ kind = .cpg ∧ f 59 58 = 0 ∧ f 54 54 = 0 ∧ f 24 7 = 0 ∧ f 6 0 < b.planes.length))

/-- 09 R184: the barrier and the core side lie in the window (KIND 0). -/
def descriptorFits (b : Block) (x : W64) (span : Nat) : Prop :=
  slice x 63 60 = 0 → (slice x 59 59 = 1 → slice x 51 32 % 8 = 0 ∧ slice x 51 32 + 8 ≤ b.windowSize) ∧ slice x 19 0 + span ≤ b.windowSize

/-- 09 R184: the core side. -/
def namedSide (x : W64) : CoreSide :=
  if slice x 63 60 = 0 then .window (slice x 19 0) else if slice x 63 60 = 1 then .tray (slice x 3 0) else .plane (slice x 6 0)

/-- 09 R185: the completion word that a scalar names: none, or an offset in the own window. -/
def WordAt (s : State) (q : BitVec 6) (cw : Option Nat) : Prop :=
  (src s q = 0 ∧ cw = none) ∨ (src s q ≠ 0 ∧ noPeer (src s q) ∧ localCause s 8 (src s q) = none ∧ cw = some (src s q).toNat)

/-- 09 R183: the core's record cache holds the record that a register names. -/
def RecordAt (s : State) (l : BitVec 6) (align : Nat) (bs : List Byte) : Prop :=
  (src s l).toNat % align = 0 ∧ ∃ pa, Mapped s .read (src s l) pa ∧ s.core.records.find? (fun r => r.1 == pa) = some (pa, bs)

/-- The box origin: five registers from sC. -/
def originOf (s : State) (c : BitVec 6) : List Int :=
  (List.range 5).map (fun k => if c.toNat + k = 0 then 0 else (s.me.s[c.toNat + k]?.getD 0).toInt)

/-- 09 R186: the copies of the core that are issued and not complete. -/
def copiesOut (s : State) : Nat := (s.copies.filter (fun c => c.core == s.blk.core && !c.stream && !c.finished)).length

/-- 22 R352: the operations that the virtual device has outstanding as initiator: its remote copies, and its sows on their way to a peer. -/
def initiated (s : State) : Nat :=
  (s.copies.filter (fun c => (c.kind == .cpx true || c.kind == .cpx false) && c.vd == s.blk.vd && !c.finished)).length +
    (s.sows.filter (fun o => (match o.phase with | .abroad _ => true | _ => false) && o.vd == s.blk.vd)).length

end Sys2Proof.Machine

/-- 07 R146, 09 R183 to R186, 22 R361: that the record is checked (FORMAT) before the descriptor (ILLEGAL) is the model's choice (log entry 34).
A copy whose records stand in the record cache and keep their rules is forked: it enters the
engine with its layout, origin, core side and completion word, counts among the strand's unsealed copies, and the strand goes on.  A record
or descriptor that breaks a rule traps FORMAT or ILLEGAL, a layout address off its alignment MISALIGNED; a 65th copy waits with reason 10, a
`cpx` also while its virtual device has 1,024 operations outstanding as initiator (22 R352); a copy waits with reason 4 while packets of its
strand are still to be performed (14 R252). -/
def Obligations.CopyWords : Prop :=
  ∀ (l c d q : BitVec 6) (s : State), Ready s → Still s → Focused s → SrcOk s l → SrcOk s d → SrcOk s q → c.toNat + 5 ≤ 56 →
    let x := src s d
    let origin := originOf s c
    let traps (i : Instr) (cause : Cause) (v a : W64) : Prop := ∃ b : State, b.timeless = ((s.popped [l, d, q]).mapMe (fun t =>
      { t with memWait := none })).timeless ∧
      ∃ w : Option MemWait, exec i s = .next ((b.mapMe (fun t => { t with memWait := w })).takeTrap
        { cause := cause, tval := v, lanes := s.me.visible, taddr := a })
    let forked (i : Instr) (kind : CopyKind) (join : BitVec 3) (lay : Layout) (side : CoreSide) (cw : Option Nat) : Prop :=
      ∃ (t : State) (o : CopyOp), exec i s = .next t ∧ t.copies = s.copies ++ [o] ∧ o.kind = kind ∧ o.lay = lay ∧ o.origin = origin ∧
        o.side = side ∧ o.cw = cw ∧ o.strand = s.me.id ∧ o.block = s.blk.id ∧ o.core = s.blk.core ∧ o.vd = s.blk.vd ∧ o.priv = s.me.priv ∧
        o.next = 0 ∧ o.finished = false ∧ o.stream = false ∧ o.id = s.nextId ∧
        t.me.cp = { s.me.cp with unsealed := s.me.cp.unsealed ++ [{ op := o.id, join := join, done := false, fault := none }] } ∧
        t.me.pc = s.me.pc + 4 ∧ t.me.s = s.me.s ∧ t.blk = s.blk ∧ t.dram = s.dram ∧ t.slices = s.slices ∧ t.core = s.core ∧
        { at_ := s.now, ev := .copyChunkLand o.id } ∈ t.agenda
    (64 ≤ copiesOut s → ∀ i ∈ [Instr.cpg l c d q, .cps l c d q, .cpm l c d q, .cpx l c d q], Waits 10 (exec i s) s) ∧
    (initiated s ≥ 1024 → Waits 10 (exec (.cpx l c d q) s) s) ∧
    (copiesOut s < 64 → initiated s < 1024 → (∃ p ∈ s.core.packets, p.strand = s.me.id) →
      ∀ i ∈ [Instr.cpg l c d q, .cps l c d q, .cpm l c d q, .cpx l c d q], Waits 4 (exec i s) s) ∧
    (copiesOut s < 64 → initiated s < 1024 → CanRelease 1 s → (src s l).toNat % 128 ≠ 0 → ∀ i ∈ [Instr.cpg l c d q, .cps l c d q, .cpm l c d q, .cpx l c d q],
      traps i .misaligned 0 (src s l)) ∧
    (∀ (bs : List Byte) (cw : Option Nat), copiesOut s < 64 → initiated s < 1024 → CanRelease 1 s → RecordAt s l 128 bs → WordAt s q cw →
      let lay := Layout.of bs
      (∀ p ∈ [(Instr.cpg l c d q, CopyKind.cpg, (1 : BitVec 3)), (.cps l c d q, .cps, 3), (.cpm l c d q, .cpm, 2)],
        (∀ v, lay.check bs origin = some v → traps p.1 .format (BitVec.ofNat 64 v) 0) ∧
        (lay.check bs origin = none → ¬ descriptorOk p.2.1 s.blk x → traps p.1 .illegal ((encode p.1).setWidth 64) 0) ∧
        (lay.check bs origin = none → descriptorOk p.2.1 s.blk x → descriptorFits s.blk x lay.span →
          forked p.1 p.2.1 p.2.2 lay (namedSide x) cw)) ∧
      (∀ rs, RecordAt s d 64 rs → lay.check bs origin = none → recField rs 17 1 ≤ 63 → recField rs 18 1 ≤ 1 → recField rs 19 5 = 0 →
        recField rs 32 32 = 0 → forked (.cpx l c d q) (.cpx (recField rs 18 1 == 1)) (if recField rs 18 1 = 1 then 4 else 5) lay (.window 0) cw))

/-! ## Beds and sows (12 R223 to R229) -/

namespace Sys2Proof.Machine

/-- 12 R212: the bed that a register's low half names, in the strand's partition. -/
def BedAt (s : State) (a : BitVec 6) (bed : Bed) : Prop :=
  s.beds.find? (fun b => b.number == (src s a).setWidth 32) = some bed ∧ bed.part = s.blk.vd

/-- The block's unclaimed offers for a bed, and those and its queued sows. -/
def offersOf (b : Block) (n : BitVec 32) : Nat := ((b.offers.find? (fun e => e.bed == n)).map (·.count)).getD 0
def heldOf (b : Block) (n : BitVec 32) : Nat := ((b.offers.find? (fun e => e.bed == n)).map (fun e => e.count + e.queue.length)).getD 0

/-- A word of the strand that writes d and changes nothing of the block but its offers, and nothing of the beds but the reports on their
way. -/
def OffersOnly (s : State) (rs : List (BitVec 6)) (d : BitVec 6) (x : W64) (t : State) : Prop :=
  t.me.timeless = (((s.popped rs).wrote d x).wordDone (s.me.pc + 4)).me.timeless ∧ t.blk = { s.blk with offers := t.blk.offers } ∧
    t.strands = s.strands ∧ t.beds.map (fun k => { k with reports := [] }) = s.beds.map (fun k => { k with reports := [] }) ∧ t.sows = s.sows ∧
    t.core = s.core

end Sys2Proof.Machine

/-- 12 R223 to R225: an offer to a bed whose root holds the core enters as many offers as there is room for (256 with the queue in take
mode, the free slots and registers in spawn mode), a withdrawal removes as many as are unclaimed; the number is written; an absent bed
traps BED with its number. -/
def Sys2Proof.Machine.SaysOfferWords : Prop :=
  ∀ (d a b : BitVec 6) (s : State), Ready s → Focused s → SrcOk s a → SrcOk s b → DstOk d → (s.blk.offers.map (·.bed)).Nodup →
    let num : BitVec 32 := (src s a).setWidth 32
    let n := (src s b).toNat
    (∀ bed, BedAt s a bed → bed.root.holds s.blk.core = true → n < 2 ^ 16 → (s.bedsHeld s.blk.core).length < 64 →
      ((∀ e ∈ s.blk.offers, e.bed = num → e.spawn = false) →
        let k := Nat.min n (256 - heldOf s.blk num)
        ∃ t, exec (.offerTake d a b) s = .next t ∧ OffersOnly s [a, b] d (BitVec.ofNat 64 k) t ∧ offersOf t.blk num = offersOf s.blk num + k) ∧
      (bed.handler ≠ 0 → (∀ e ∈ s.blk.offers, e.bed = num → e.spawn = true) →
        let k := (s.freeSlots s.blk.core s.me.budget n).length
        ∃ t, exec (.offerSpawn d a b) s = .next t ∧ OffersOnly s [a, b] d (BitVec.ofNat 64 k) t ∧ offersOf t.blk num = offersOf s.blk num + k)) ∧
    (∀ bed, BedAt s a bed →
      let k := Nat.min n (offersOf s.blk num)
      ∃ t, exec (.withdraw d a b) s = .next t ∧ OffersOnly s [a, b] d (BitVec.ofNat 64 k) t ∧ offersOf t.blk num = offersOf s.blk num - k) ∧
    ((∀ e ∈ s.beds, e.number = num → e.part ≠ s.blk.vd) → n < 2 ^ 16 → ∀ i ∈ [Instr.offerTake d a b, .offerSpawn d a b, .withdraw d a b],
      ∃ q : State, q.timeless = (s.popped [a, b]).timeless ∧
        exec i s = .next (q.takeTrap { cause := .bed, tval := num.setWidth 64, lanes := s.me.visible, taddr := 0 }))

/-- 12 R226, R227: `sow` forks a sow of its registers, published at its bed's scope, once fewer than 64 of the core have not ended (that the
limit counts all that have not ended is the model's choice, log entry 51); `take`
takes the first sow of its bed's queue into its registers, 0 past the payload, and SOWFROM (0 for a sow from another package, R228); with unclaimed offers and no sow it waits with
reason 12, with neither it traps BED. -/
def Sys2Proof.Machine.SaysSowWords : Prop :=
  ∀ (q a b d : BitVec 6) (n : BitVec 3) (u : BitVec 1) (s : State), Ready s → Focused s → SrcOk s q → SrcOk s a →
    let num : BitVec 32 := (src s a).setWidth 32
    let out := (s.sows.filter (fun o => decide (o.core = s.blk.core ∧ o.foreign = none ∧ o.phase ≠ .ended))).length
    (b.toNat + n.toNat + 1 ≤ 56 →
      (64 ≤ out → Waits 10 (exec (.sow q a b n u) s) s) ∧
      (∀ cw, out < 64 → WordAt s q cw → CanRelease 0 s →
        (∀ bed, BedAt s a bed → CanRelease (BitVec.ofNat 3 bed.scope) s) → ∃ (t : State) (o : SowOp), exec (.sow q a b n u) s = .next t ∧ t.sows = s.sows ++ [o] ∧
        o.bed = num ∧ o.strand = s.me.id ∧ o.block = s.blk.id ∧ o.core = s.blk.core ∧ o.cw = cw ∧ o.parked = false ∧
        o.payload = (List.range (n.toNat + 1)).map (fun k => if b.toNat + k = 0 then 0 else s.me.s[b.toNat + k]?.getD 0) ∧
        (∀ bed, BedAt s a bed → bed.scope < 8 → o.scope.toNat = bed.scope ∧ o.gone = false ∧ o.unord = (u == 1 || bed.unord) ∧
          (2 ≤ bed.scope → t.core.dirty = [])) ∧
        ((∀ e ∈ s.beds, e.number = num → e.part ≠ s.blk.vd) → o.gone = true ∧ t.core = s.core) ∧
        t.me.sw = { s.me.sw with unsealed := s.me.sw.unsealed ++ [{ op := o.id, join := 0, done := false, fault := none }] } ∧
        t.me.pc = s.me.pc + 4 ∧ t.me.s = s.me.s ∧ t.blk = s.blk ∧ t.beds = s.beds)) ∧
    (d.toNat + n.toNat + 1 ≤ 56 →
      (∀ (e : Offer) (id : Nat) (r : List Nat) (o : SowOp), s.blk.offers.find? (fun e => e.bed == num) = some e → e.queue = id :: r →
        s.sows.find? (fun o => o.id == id) = some o → o.id = id → o.bed = num → o.scope.toNat ≤ 5 →
        (∀ k, (s.clusterOf (coreCluster o.core)).state ≠ .draining k) → ∃ t, exec (.take d a n) s = .next t ∧ t.me.pc = s.me.pc + 4 ∧
          (∀ k ≤ n.toNat, d.toNat + k ≠ 0 → t.me.s[d.toNat + k]?.getD 0 = o.payload[k]?.getD 0) ∧
          (∀ j < 64, (j < d.toNat ∨ d.toNat + n.toNat < j) → t.me.s[j]?.getD 0 = s.me.s[j]?.getD 0) ∧
          t.me.sowfrom = (if o.foreign.isSome then 0 else placeOffset s.blk.core o.core) ∧ (∀ k ∈ t.sows, k.id ≠ id)) ∧
      ((∀ e ∈ s.blk.offers, e.bed = num → e.queue = []) →
        (∀ (bed : Bed) (e : Offer), BedAt s a bed → s.blk.offers.find? (fun e => e.bed == num) = some e → e.count ≠ 0 → e.spawn = false →
          Waits 12 (exec (.take d a n) s) s) ∧
        (offersOf s.blk num = 0 → ∃ p : State, p.timeless = (s.popped [a]).timeless ∧
          exec (.take d a n) s = .next (p.takeTrap { cause := .bed, tval := num.setWidth 64, lanes := s.me.visible, taddr := 0 }))))

/-- 12 R223 to R225: an offer to a bed whose root holds the core enters as many offers as there is room for (256 with the queue in
take mode, the free slots and registers in spawn mode), a withdrawal removes as many as are unclaimed; the number is written; an
absent bed traps BED with its number.
12 R226, R227: `sow` forks a sow of its registers, published at its bed's scope, once fewer than 64 of the core have not ended
(that the limit counts all that have not ended is the model's choice, log entry 51); `take` takes the first sow of its bed's queue
into its registers, 0 past the payload, and SOWFROM (0 for a sow from another package, R228); with unclaimed offers and no sow it
waits with reason 12, with neither it traps BED. -/
def Obligations.SowingWords : Prop :=
  Sys2Proof.Machine.SaysOfferWords ∧ Sys2Proof.Machine.SaysSowWords

/-- 12 R213, R229: `bedcfg` of a descriptor that stands in the core's L1, at PRIV 1, for the strand's own partition: a new bed of cluster,
die or package scope that keeps its rules is entered, with its root around the place that the descriptor names (here the own core), and 0 is
written; a clear present bit deletes the bed; a scope outside 2 to 5 or another rule broken writes 3 and changes nothing, another partition
writes 2. -/
def Obligations.BedTable : Prop :=
  ∀ (d a : BitVec 6) (s : State) (pa : Nat) (v : VDev), Ready s → Still s → Focused s → NoNt s → s.me.priv = 1 → SrcOk s a → DstOk d →
    (src s a).toNat % 32 = 0 → Mapped s .read (src s a) pa → pa % 32 = 0 → InL1 s pa 32 → s.vd? s.blk.vd = some v →
    v.holds (coreCluster s.blk.core) = true → s.blk.core < 512 →
    let f (off n : Nat) : Nat := l1Num s (pa + off) n
    let num : BitVec 32 := BitVec.ofNat 32 (f 0 4)
    let after (x : Nat) (beds : List Bed) : Prop := ∃ t, exec (.bedcfg d a) s = .next t ∧ t.beds = beds ∧
      t.me.timeless = (((s.popped [a]).wrote d (BitVec.ofNat 64 x)).wordDone (s.me.pc + 4)).me.timeless ∧ t.strands = s.strands
    let good : Prop := 2 ≤ f 4 1 ∧ f 4 1 ≤ 5 ∧ f 5 1 < 4 ∧ f 6 2 ≤ 1024 ∧ f 8 8 % 4 = 0 ∧ f 20 12 = 0
    f 18 2 = 0 →
    (good → f 16 2 = s.blk.vd → f 5 1 % 2 = 1 → f 4 1 ≤ 4 → (∀ b ∈ s.beds, b.number ≠ num) → s.beds.length < 4096 →
      let root := if f 4 1 = 2 then TreeNode.cluster (coreCluster s.blk.core) else if f 4 1 = 3 then .die (coreDie s.blk.core) else .package
      ((s.beds.filter (fun b => b.root == root)).map (·.cold)).sum + f 6 2 ≤
        (if f 4 1 = 2 then 1024 else if f 4 1 = 3 then 8192 else 32768) →
      after 0 (s.beds ++ [{ number := num, scope := f 4 1, unord := decide (2 ≤ f 5 1), cold := f 6 2, handler := BitVec.ofNat 64 (f 8 8), part := s.blk.vd, root := root, copies := [], pointers := [], frame := [], reports := [], colds := [], foreign := none }])) ∧
    (∀ bed, good → f 16 2 = s.blk.vd → f 5 1 % 2 = 0 → s.beds.find? (fun b => b.number == num) = some bed → bed.part = s.blk.vd → bed.frame = [] →
      after 0 (s.beds.filter (fun b => b.number != num))) ∧
    (¬ good → after 3 s.beds) ∧
    (good → f 16 2 ≠ s.blk.vd → after 2 s.beds)

/-! ## Tasks (17 R300 to R303) -/

/-- 17 R301 to R303: `emit` of a record of the own window joins the queue of successor q, published at package scope; a strand that has no
such successor traps ILLEGAL; `tdone` flushes nothing where the strand has emitted nothing that waits; `spawn` joins the partition's work
queue, an absent queue traps PERMISSION. -/
def Obligations.TaskWords : Prop :=
  ∀ (q : BitVec 4) (a b : BitVec 6) (s : State), Ready s → Still s → Focused s → SrcOk s a → SrcOk s b → CanRelease 4 s →
    (∀ (p : Nat × Nat) (m n : Node) (w : Nat), s.blk.hasNode = some p → s.nodes.find? (fun k => k.die == p.1 && k.idx == p.2) = some m →
      m.succ[q.toNat]? = some w → s.nodes.find? (fun k => k.die == w / 2 ^ 14 % 4 && k.idx == w % 2 ^ 14) = some n → n.thresh ≠ 0 →
      n.vd = s.blk.vd →
      (noPeer (src s a) → localCause s 64 (src s a) = none → n.recs.length + 1 < n.thresh → n.thresh ≤ 256 → ∃ t, exec (.emit q a) s = .next t ∧
        t.nodes = s.nodes.map (fun k => if k.die = n.die ∧ k.idx = n.idx
          then { k with recs := k.recs ++ [((List.range 64).map (fun j => Memory.get s.blk.window ((src s a).toNat + j)), s.now, s.me.id)] } else k) ∧
        t.me.timeless = ((s.popped [a]).wordDone (s.me.pc + 4)).me.timeless ∧ t.core.dirty = [] ∧ t.blk = s.blk) ∧
      ((∀ r ∈ n.recs, r.2.2 ≠ s.me.id) → Leads (exec (.tdone q) s) (s.wordDone (s.me.pc + 4)))) ∧
    (s.blk.hasNode = none → (∃ t : State, t.timeless = (s.popped [a]).timeless ∧ exec (.emit q a) s = .next (t.takeTrap
        { cause := .illegal, tval := (encode (.emit q a)).setWidth 64, lanes := s.me.visible, taddr := 0 })) ∧
      ∃ t : State, t.timeless = s.timeless ∧ exec (.tdone q) s = .next (t.takeTrap
        { cause := .illegal, tval := (encode (.tdone q)).setWidth 64, lanes := s.me.visible, taddr := 0 })) ∧
    (∀ w : WorkQueue, (src s a).toNat < 2048 → s.queues.find? (fun k => k.vd == s.blk.vd && k.vnum == (src s a).toNat) = some w →
      noPeer (src s b) → localCause s 128 (src s b) = none → w.msgs.length < 256 → ∃ t, exec (.spawn a b) s = .next t ∧
        t.queues = s.queues.map (fun k => if k.num = w.num then { k with msgs := k.msgs ++ [{ bytes := (List.range 128).map (fun j => Memory.get s.blk.window ((src s b).toNat + j)), at_ := s.now, priv := s.me.priv }] } else k) ∧
        t.me.timeless = ((s.popped [a, b]).wordDone (s.me.pc + 4)).me.timeless ∧ t.core.dirty = [] ∧ t.blk = s.blk) ∧
    ((2048 ≤ (src s a).toNat ∨ ∀ k ∈ s.queues, k.vd = s.blk.vd → k.vnum ≠ (src s a).toNat) → ∃ t : State, t.timeless = (s.popped [a, b]).timeless ∧
      exec (.spawn a b) s = .next (t.takeTrap { cause := .permission, tval := 0, lanes := s.me.visible, taddr := src s a }))

/-! ## Grafts (15 R273 to R277) -/

namespace Sys2Proof.Machine

/-- 15 R273: a range of one 64 KiB region that the core's caches map for writing with a page that holds it whole, in backed DRAM. -/
def RegionAt (s : State) (va : W64) (region : Nat) : Prop :=
  va.toNat % 65536 = 0 ∧ region * 65536 + 65535 < nearBase ∧ (region * 65536 + 65535) % 2 ^ 36 < firmwareOffset ∧
    va.toNat < 2 ^ 56 ∧ ∃ e : TlbEntry, (∀ k < 65536, s.tlbHit (corePlaces s.blk.core) false s.blk.vd (decide (s.me.priv = 2)) (va.toNat + k) = some e) ∧
      65536 ≤ e.size ∧ e.w = true ∧ e.u = true ∧ e.raw = false ∧ e.addr va.toNat = region * 65536 ∧ e.va ≤ va.toNat ∧ va.toNat + 65536 ≤ e.va + e.size

/-- A graft word that completes: it writes d, and changes nothing of the strand else. -/
def GraftDone (s : State) (a b d : BitVec 6) (x : W64) (t : State) : Prop :=
  t.me.timeless = (((s.popped [a, b]).wrote d x).wordDone (s.me.pc + 4)).me.timeless ∧ t.blk = s.blk ∧ t.core = s.core ∧ t.strands = s.strands

end Sys2Proof.Machine

/-- 15 R273 to R277, over one region: `gload` of 0 unloads a handle of the virtual device that nothing uses; `gbind` binds a region that is not
bound, with loaded images; `gunbind` unbinds one whose blocks are all raw; `gconv` forks the conversion of a bound region,
once the strand's earlier stores to peers' windows are performed (14 R252); `gstat` with
selector 3 gives the quota; the lowest refusal code is written where the range member refuses.  `gload` of an image in near store that
nothing spoils takes a free handle while the quota is not reached. -/
def Obligations.GraftWords : Prop :=
  ∀ (d a b q : BitVec 6) (s : State) (v : VDev), Ready s → Still s → Focused s → SrcOk s a → SrcOk s b → SrcOk s q → DstOk d →
    s.vd? s.blk.vd = some v →
    let va := src s a
    let x := src s b
    let own (h : Nat) : Prop := ∃ i ∈ s.images, i.handle = h ∧ i.owner = s.blk.vd
    let mine := (s.images.filter (fun i => i.owner == s.blk.vd)).length
    (va = 0 →
      let h := slice x 5 0
      let st := if ¬ own h then 4 else if s.bindings.any (Binding.uses h) then 3 else 0
      ∃ t, exec (.gload d a b) s = .next t ∧ GraftDone s a b d (BitVec.ofNat 64 (h + st * 256)) t ∧
        t.images = if st = 0 then s.images.filter (fun i => i.handle != h) else s.images) ∧
    (∀ pa : Nat, va ≠ 0 → va.toNat % 256 = 0 → (∀ k < 8, Mapped s .read (va + BitVec.ofNat 64 (256 * k)) (pa + 256 * k)) →
      nearBase ≤ pa → pa % 256 = 0 → (∀ k < 2048, s.backed (pa + k) = true) → (∀ k < 32, pa / 64 + k ∉ s.poison) →
      s.heldBack s.blk.core ((List.range 8).map (fun k => pa + 256 * k)) = false → mine < v.gquota → v.gquota ≤ 64 → s.images.length < 64 →
      ∃ (t : State) (h : Nat), exec (.gload d a b) s = .next t ∧ GraftDone s a b d (BitVec.ofNat 64 h) t ∧ h < 64 ∧ (∀ i ∈ s.images, i.handle ≠ h) ∧
        t.images = s.images ++ [{ handle := h, owner := s.blk.vd, words := (List.range 512).map (fun k => BitVec.ofNat 32 (((List.range 4).map (fun j => (Memory.get s.dram (pa + 4 * k + j)).toNat * 256 ^ j)).sum)) }]) ∧
    (∀ region, RegionAt s va region → slice x 47 32 = 1 → slice x 63 48 = 0 → slice x 31 18 = 0 → slice x 15 14 = 0 → slice x 7 6 = 0 →
      (slice x 17 17 = 0 → (∀ k ∈ s.bindings, k.region ≠ region) → own (slice x 5 0) → own (slice x 13 8) →
        ∃ t, exec (.gbind d a b) s = .next t ∧ GraftDone s a b d 0 t ∧ t.bindings = s.bindings ++ [{ region := region, rawmode := false, blk1k := slice x 16 16 == 1, enc := slice x 5 0, dec := slice x 13 8, owner := s.blk.vd, encoded := [], conv := false, next := 0, enc2 := 0, dec2 := 0, blk2 := false, raw2 := false, va := va, fallbacks := 0, fetchFaults := 0, lastCode := 0, lastPhase := 0 }]) ∧
      (slice x 17 17 = 0 → (∃ k, s.bindings.find? (fun k => k.region == region) = some k ∧ k.owner ≠ s.blk.vd) →
        own (slice x 5 0) → own (slice x 13 8) →
        ∃ t, exec (.gbind d a b) s = .next t ∧ GraftDone s a b d 4 t ∧ t.bindings = s.bindings) ∧
      (∀ k, s.bindings.find? (fun k => k.region == region) = some k → k.owner = s.blk.vd → k.conv = false →
        (slice x 17 0 = 0 → ∃ t, exec (.gunbind d a b) s = .next t ∧
          GraftDone s a b d (if k.encoded = [] then 0 else 6) t ∧
          t.bindings = if k.encoded = [] then s.bindings.filter (fun k => k.region != region) else s.bindings) ∧
        (copiesOut s < 64 → ¬ CanRelease 1 s → Waits 4 (exec (.gconv q a b) s) s) ∧
        (src s q = 0 → slice x 17 17 = 0 → own (slice x 5 0) → own (slice x 13 8) → copiesOut s < 64 → CanRelease 1 s →
          (∀ c ∈ s.copies, c.kind ≠ .gconv) → ∃ (t : State) (c : CopyOp), exec (.gconv q a b) s = .next t ∧ t.me.pc = s.me.pc + 4 ∧ t.me.s = s.me.s ∧
            t.copies = s.copies ++ [c] ∧ c.kind = .gconv ∧ c.origin = [(region : Int)] ∧ c.finished = false ∧
            t.bindings = s.bindings.map (fun j => if j.region = region then (if j.conv then j else
              { j with conv := true, next := 0, enc2 := slice x 5 0, dec2 := slice x 13 8, blk2 := slice x 16 16 == 1, raw2 := false }) else j) ∧
            { at_ := s.now, ev := .gconvBlock c.id } ∈ t.agenda))) ∧
    (∀ pa, x = 3 → Mapped s .read va pa → ∃ t, exec (.gstat d a b) s = .next t ∧
      GraftDone s a b d (BitVec.ofNat 64 (mine % 64 + v.gquota % 64 * 256)) t) ∧
    (∀ pa, x.toNat < 3 → Mapped s .read va pa → (∀ k ∈ s.bindings, k.region ≠ pa / 65536) → ∃ t, exec (.gstat d a b) s = .next t ∧
      GraftDone s a b d 0 t)

/-! ## Privileged words (19 R325 to R328) -/

namespace Sys2Proof.Machine

/-- 19 R327: the block that a PLACE of a virtual device and an index name. -/
def NamedBlock (s : State) (x y : W64) (b : Block) : Prop :=
  ∃ v c, s.vd? (slice x 21 16) = some v ∧ v.coreAt (slice x 13 0) = some c ∧
    s.allBlocks.find? (fun b => decide (b.vd = v.num ∧ b.core = c ∧ b.index = slice y 4 0 ∧ b.phase ≠ .ended)) = some b

/-- 21 R343: a record count: 0, or a power of two from 128 to 2^24. -/
def recordCount (n : Nat) : Bool := decide (n = 0) || (List.range 18).any (fun k => decide (n = 2 ^ (k + 7)))

/-- 21 R339, R343: what a write of y to a measurement item leaves of the partition's items; a field that is out of range keeps its value. -/
def ItemWritten (item : Nat) (y : W64) (m n : Measure) : Prop :=
  let ev := slice y 7 0
  let known := ev ≤ 0x12 ∨ (0x20 ≤ ev ∧ ev ≤ 0x2F)
  let ring (old new : Ring) (base : Bool) : Prop :=
    if (if base then y.toNat % 4096 = 0 ∧ y.toNat < 2 ^ 56 else recordCount y.toNat) then
      new.base = (if base then y else old.base) ∧ new.size = (if base then old.size else y.toNat) ∧ new.head = 0 ∧ new.drops = 0
    else new = old
  (if item < 0x20 then
      (∀ c, n.select[item]? = some c → slice c 7 0 = (if known then ev else slice (m.select[item]?.getD 0) 7 0) ∧ c.getLsbD 8 = y.getLsbD 9) ∧
      (known → ∀ c, n.count[item]? = some c → c = 0) ∧ ∀ j, j ≠ item → n.select[j]? = m.select[j]?
    else n.select = m.select) ∧
  n.enable = (if item = 0x20 then y.extractLsb' 0 32 else m.enable) ∧
  n.snapReq = (m.snapReq || (decide (item = 0x20) && y.getLsbD 63)) ∧
  n.sen = (if item = 0x21 then y.getLsbD 0 else m.sen) ∧ n.een = (if item = 0x21 then y.getLsbD 1 else m.een) ∧
  n.k = (if item = 0x21 ∧ 6 ≤ slice y 12 8 ∧ slice y 12 8 ≤ 20 then slice y 12 8 else m.k) ∧
  n.snapj = (if item = 0x21 ∧ slice y 20 16 ≤ 24 then slice y 20 16 else m.snapj) ∧
  (if item = 0x22 ∨ item = 0x23 then ring m.sample n.sample (item == 0x22) else n.sample = m.sample) ∧
  (if item = 0x24 ∨ item = 0x25 then ring m.event n.event (item == 0x24) else n.event = m.event)

/-- 19 R327: a block is held. -/
def holding (s : State) (k : Block) : State :=
  { s with blocks := s.blocks.map (fun j => if j.id = k.id then { j with held := true } else j) }

end Sys2Proof.Machine

/-- 01 R23, R33, 19 R325 to R328: with PRIV 0 each privileged word traps PRIVILEGED.  With PRIV 1 or more: `tlbinv` of all of the own virtual
device at package scope, with nothing on its way, leaves no translation of it; `evict` holds the block that it names and is done once the block
is EVICTED, it waits till then with reason 10; `resume` lets a held, evicted block back to the scheduler; `pmcfg` writes the item: the event selection of a
counter, which a listed event clears; the enable mask and the request of a snapshot; the sample control; a ring's base or size, with a fresh
control block of zeros (here of a base in near store); a field that is out of range keeps its value (21 R339, R343). -/
def Obligations.PrivilegedWords : Prop :=
  ∀ (c : BitVec 3) (a b d : BitVec 6) (s : State), Ready s → Focused s → SrcOk s a ∨ s.me.priv = 0 → SrcOk s b ∨ s.me.priv = 0 →
    let x := src s a
    let y := src s b
    (s.me.priv = 0 → 1 ≤ c.toNat → c.toNat ≤ 4 → ∀ i ∈ [Instr.tlbinv c a b, .evict a b, .resume a b, .pmcfg a b, .bedcfg d a],
      exec i s = .next (s.takeTrap { cause := .privileged, tval := (encode i).setWidth 64, lanes := s.me.visible, taddr := 0 })) ∧
    (1 ≤ s.me.priv → CanRelease 4 s → slice y 63 48 = 0 → slice y 15 14 = 0 → slice y 7 0 = 2 → slice y 13 8 = s.blk.vd →
      (∀ t ∈ s.allStrands, t.flight = none) → (∀ k ∈ s.core :: s.cores, k.nt = []) → ∃ t, exec (.tlbinv 4 a b) s = .next t ∧
        t.me.timeless = ((s.popped [a, b]).wordDone (s.me.pc + 4)).me.timeless ∧ t.blk = s.blk ∧ t.core.dirty = [] ∧
        t.tlb = s.tlb.filter (fun e => e.vd != s.blk.vd) ∧ t.walks = s.walks.filter (fun e => e.vd != s.blk.vd)) ∧
    (1 ≤ s.me.priv → slice x 63 22 = 0 → slice x 15 14 = 0 → slice y 63 5 = 0 → (s.me.priv = 1 → slice x 21 16 = s.blk.vd) →
      ((∀ k, ¬ NamedBlock s x y k) → ∀ i ∈ [Instr.evict a b, .resume a b], Leads (exec i s) ((s.popped [a, b]).wordDone (s.me.pc + 4))) ∧
      (∀ k, NamedBlock s x y k → k.id ≠ s.blk.id →
        (k.phase = .evicted → Leads (exec (.evict a b) s)
          ((holding (s.popped [a, b]) k).wordDone (s.me.pc + 4))) ∧
        (k.phase = .running → ∃ t, exec (.evict a b) s = .next t ∧ t.me.pc = s.me.pc ∧ t.me.reason = 10 ∧
          ∀ j, t.blocks.find? (fun j => j.id == k.id) = some j → j.held = true) ∧
        (k.phase = .evicted → k.held = true → ∃ t, exec (.resume a b) s = .next t ∧
          t.me.timeless = ((s.popped [a, b]).wordDone (s.me.pc + 4)).me.timeless ∧
          t.blocks = s.blocks.map (fun j => if j.id = k.id then { j with held := false } else j)))) ∧
    (1 ≤ s.me.priv → slice x 63 8 = 0 → slice x 7 0 < 0x26 → ∃ t, exec (.pmcfg a b) s = .next t ∧
      t.me.timeless = ((s.popped [a, b]).wordDone (s.me.pc + 4)).me.timeless ∧ t.blk = s.blk ∧ t.strands = s.strands ∧
      (∀ v, s.vd? s.blk.vd = some v → ∃ w, t.vd? s.blk.vd = some w ∧ ItemWritten (slice x 7 0) y v.measure w.measure ∧
        (slice x 7 0 = 0x20 → y.getLsbD 63 = true → { at_ := s.now, ev := .counterSnapshot s.blk.vd } ∈ t.agenda) ∧
        (∀ (r : Ring) (pa : Nat), 0x22 ≤ slice x 7 0 → r = (if slice x 7 0 < 0x24 then w.measure.sample else w.measure.event) → r.head = 0 →
          (slice x 7 0 % 2 = 0 → y.toNat % 4096 = 0 ∧ y.toNat < 2 ^ 56) → (slice x 7 0 % 2 = 1 → recordCount y.toNat) →
          s.deviceAddr s.blk.vd .write r.base.toNat = some pa → pa % 64 = 0 → isDram pa = false →
          ∀ k < 64, Memory.get t.dram (pa + k) = 0))) ∧
    (1 ≤ s.me.priv → (slice x 63 8 ≠ 0 ∨ 0x26 ≤ slice x 7 0) → ∃ q : State, q.timeless = (s.popped [a, b]).timeless ∧ exec (.pmcfg a b) s =
      .next (q.takeTrap { cause := .illegal, tval := (encode (.pmcfg a b)).setWidth 64, lanes := s.me.visible, taddr := 0 }))

/-! ## Hints (01 R24 to R28) -/

namespace Sys2Proof.Machine

/-- A hint has passed: the PC moves on, coverage and the hints for the next word stay. -/
def State.hinted (s : State) : State := s.mapMe (fun t => { t with pc := t.pc + 4, matched := false })

/-- 01 R24: the hints for the next word, the first of them remembered. -/
def State.hintsFor (s : State) (f : Hints → Hints) : State :=
  s.mapMe (fun t => { t with hints := f { t.hints with first := some (t.hints.first.getD t.pc) } })

end Sys2Proof.Machine

/-- 01 R24, R25, R28: `hint.stall` replaces the coverage by its seven counts, c0 first; the modifying hints wait for the next word beside
those of the other kinds; `hint.spin` marks the strand; `hint.pref` changes nothing that the strand holds, nor a byte that its core has stored
(where no set of its L1 is full), and nothing at all where its address does not translate. -/
def Sys2Proof.Machine.SaysHintMembers : Prop :=
  ∀ (g f e d c b a r : BitVec 3) (x : BitVec 22) (n m t : BitVec 1) (u p : BitVec 6) (s : State), Ready s →
    Leads (exec (.hintStall g f e d c b a) s)
      (s.hinted.mapMe (fun t => { t with stall := [a.toNat, b.toNat, c.toNat, d.toNat, e.toNat, f.toNat, g.toNat] })) ∧
    Leads (exec (.hintXimm x) s) (s.hintsFor (fun h => { h with ximm := some x })).hinted ∧
    Leads (exec (.hintMem n m u) s) (s.hintsFor (fun h => { h with mem := some (u, m == 1, n == 1) })).hinted ∧
    (r.toNat ≤ 3 ∨ r.toNat = 7 → Leads (exec (.hintMod t r) s) (s.hintsFor (fun h => { h with mod := some (r, t == 1) })).hinted) ∧
    Leads (exec .hintSpin s) (s.hinted.mapMe (fun t => { t with spin := true })) ∧
    (SrcOk s p → (∃ t, exec (.hintPref p) s = .next t ∧ t.me.timeless = (s.popped [p]).hinted.me.timeless ∧ t.blk = s.blk ∧
        t.strands = s.strands ∧ t.blocks = s.blocks ∧ ((∀ l, (s.core.setLines l).length < 16) → t.core.dirty = s.core.dirty)) ∧
      (2 ^ 56 ≤ (src s p).toNat → Leads (exec (.hintPref p) s) (s.popped [p]).hinted))

/-! ## The port steps (01 R14; 19 R322, R323, R329; 21 R347; 22 R360) -/

namespace Sys2Proof.Machine

/-- A port step that gives S[d] the head x and makes w of the strand's virtual device. -/
def PortGives (s : State) (d : BitVec 6) (x : W64) (w : VDev) (o : Out) : Prop :=
  ∃ t, o = .next t ∧ t.me.timeless = (s.wrote d x).me.timeless ∧ t.blk = s.blk ∧ (t.vd? s.blk.vd).map VDev.timeless = some w.timeless

end Sys2Proof.Machine

/-- 01 R14: a read takes the head of its queue, a write appends to it: a page request is marked as read, a fault record, a notice or
a mail leaves; a write of `qpage` publishes, of `qmgmt` enters the outbound mailbox, of `qevent` changes no register.  An empty
queue, a full mailbox and stores that peers have not acknowledged wait with reason 7; at PRIV 0 all trap PRIVILEGED. -/
def Sys2Proof.Machine.SaysPortSteps : Prop :=
  ∀ (d a : BitVec 6) (s : State) (v : VDev), s.me.run = .running → s.graftLog = [] → s.me.latch = [] → DstOk d → a.toNat < 56 →
    s.vd? s.blk.vd = some v → v.num = s.blk.vd →
    (s.me.priv = 1 →
      (∀ q, v.pageReqs.find? (fun q => !q.popped) = some q →
        PortGives s d (q.word false) { v with pageReqs := popRequest v.pageReqs } (exec (.qpageRead d) s)) ∧
      (∀ x r, v.faultQ = x :: r → PortGives s d x { v with faultQ := r } (exec (.qfaultRead d) s)) ∧
      (∀ x r, v.measure.notices = x :: r → PortGives s d x { v with measure := { v.measure with notices := r } } (exec (.qeventRead d) s)) ∧
      (∀ x r, v.mailIn = x :: r → PortGives s d x { v with mailIn := r } (exec (.qmgmtRead d) s)) ∧
      (v.pageReqs = [] → Waits 7 (exec (.qpageRead d) s) s) ∧ (v.faultQ = [] → Waits 7 (exec (.qfaultRead d) s) s) ∧
      (v.measure.notices = [] → Waits 7 (exec (.qeventRead d) s) s) ∧ (v.mailIn = [] → Waits 7 (exec (.qmgmtRead d) s) s)) ∧
    (1 ≤ s.me.priv →
      (CanRelease 4 s → s.me.memWait = none → s.core.id = s.blk.core → ∃ t, exec (.qpageWrite a) s = .next t ∧ t.me = s.me ∧ t.blk = s.blk ∧ t.core.dirty = []) ∧
      (s.me.peerStores ≠ 0 → Waits 7 (exec (.qpageWrite a) s) s) ∧
      (∃ t, exec (.qeventWrite a) s = .next t ∧ t.me = s.me ∧ t.blk = s.blk) ∧
      (v.mailOut.length < 64 → ∃ t, exec (.qmgmtWrite a) s = .next t ∧ t.me = s.me ∧ t.blk = s.blk ∧
        (t.vd? s.blk.vd).map VDev.timeless = some { v with mailOut := v.mailOut ++ [src s a] }.timeless) ∧
      (64 ≤ v.mailOut.length → Waits 7 (exec (.qmgmtWrite a) s) s)) ∧
    (s.me.priv = 0 → ∀ i ∈ [Instr.qpageRead d, .qfaultRead d, .qeventRead d, .qmgmtRead d, .qpageWrite a, .qeventWrite a, .qmgmtWrite a],
      exec i s = .next (s.takeTrap { cause := .privileged, tval := (s.me.fetched.getD 0).setWidth 64, lanes := s.me.visible, taddr := 0 }))

/-- 01 R24, R25, R28: `hint.stall` replaces the coverage by its seven counts, c0 first; the modifying hints wait for the next word
beside those of the other kinds; `hint.spin` marks the strand; `hint.pref` changes nothing that the strand holds, nor a byte that
its core has stored (where no set of its L1 is full), and nothing at all where its address does not translate.
01 R14: a read takes the head of its queue, a write appends to it: a page request is marked as read, a fault record, a notice or a
mail leaves; a write of `qpage` publishes, of `qmgmt` enters the outbound mailbox, of `qevent` changes no register. An empty
queue, a full mailbox and stores that peers have not acknowledged wait with reason 7; at PRIV 0 all trap PRIVILEGED. -/
def Obligations.HintWords : Prop :=
  Sys2Proof.Machine.SaysHintMembers ∧ Sys2Proof.Machine.SaysPortSteps

/-! ## The transducer (15 R263 to R265) -/

namespace Sys2Proof.Machine

/-- What a transducer word says: its cost in STEPS, the fault that its own checks find, where the PC goes, and its effect. -/
structure XdRow where
  cost  : XdRun → Nat := fun _ => 1
  fault : XdRun → Option Nat := fun _ => none
  pc    : XdRun → Int := fun r => (r.pc : Int) + 1
  eff   : XdRun → XdRun := id

/-- G[x]. -/
def XdRun.reg (r : XdRun) (x : BitVec 4) : W32 := if x = 0 then 0 else r.g[x.toNat]?.getD 0

/-- G[x] ← v; g0 ignores writes. -/
def XdRun.with_ (r : XdRun) (x : BitVec 4) (v : W32) : XdRun :=
  { r with g := Vector.ofFn (fun k => if k.val = x.toNat ∧ k.val ≠ 0 then v else r.g[k.val]?.getD 0) }

/-- The row of a word with a register result. -/
def xdResult (d : BitVec 4) (f : XdRun → W32) : Option XdRow := some { eff := fun r => r.with_ d (f r) }

/-- The row of a branch. -/
def xdBranch (k : BitVec 15) (c : XdRun → Bool) : Option XdRow := some { pc := fun r => (r.pc : Int) + if c r then k.toInt else 1 }

/-- 15 R265, with R264's costs and faults (4 OVERRUN, 5 INPUT, 6 BACKREF); `halt` and `fail` end the run and stand below. -/
def tableR265 : Instr → Option XdRow
  | .xdGetb d => some { eff := fun r => if r.ic < r.input.length then { r.with_ d ((r.input[r.ic]?.getD 0).setWidth 32) with ic := r.ic + 1 }
                                        else { r.with_ d 0 with eof := true } }
  | .xdPeekb d k => xdResult d (fun r => (r.input[r.ic + k.toNat]?.getD 0).setWidth 32)
  | .xdPutb a => some { fault := fun r => if r.outlim ≤ r.oc then some 4 else none
                        eff := fun r => { r with output := r.output ++ [(r.reg a).setWidth 8], oc := r.oc + 1 } }
  | .xdPutn a b => some { cost := fun r => Nat.max 1 (r.reg b).toNat
                          fault := fun r => if r.outlim < r.oc + (r.reg b).toNat then some 4 else none
                          eff := fun r => { r with output := r.output ++ List.replicate (r.reg b).toNat ((r.reg a).setWidth 8)
                                                   oc := r.oc + (r.reg b).toNat } }
  | .xdCpin a => some { cost := fun r => Nat.max 1 (r.reg a).toNat
                        fault := fun r => if r.outlim < r.oc + (r.reg a).toNat then some 4
                                          else if r.input.length < r.ic + (r.reg a).toNat then some 5 else none
                        eff := fun r => { r with output := r.output ++ (List.range (r.reg a).toNat).map (fun k => r.input[r.ic + k]?.getD 0)
                                                 ic := r.ic + (r.reg a).toNat, oc := r.oc + (r.reg a).toNat } }
  | .xdBack a b => some { cost := fun r => Nat.max 1 (r.reg b).toNat
                          fault := fun r => if (r.reg a).toNat = 0 ∨ r.oc < (r.reg a).toNat then some 6
                                            else if r.outlim < r.oc + (r.reg b).toNat then some 4 else none
                          eff := fun r => { r with output := r.output ++ (List.range (r.reg b).toNat).map (fun k =>
                                                     r.output[r.oc - (r.reg a).toNat + k % (r.reg a).toNat]?.getD 0)
                                                   oc := r.oc + (r.reg b).toNat } }
  | .xdAddi d a k => xdResult d (fun r => r.reg a + k.signExtend 32)
  | .xdAdd d a b => xdResult d (fun r => r.reg a + r.reg b)
  | .xdSub d a b => xdResult d (fun r => r.reg a - r.reg b)
  | .xdAnd d a b => xdResult d (fun r => r.reg a &&& r.reg b)
  | .xdOr d a b => xdResult d (fun r => r.reg a ||| r.reg b)
  | .xdXor d a b => xdResult d (fun r => r.reg a ^^^ r.reg b)
  | .xdShl d a b => xdResult d (fun r => BitVec.ofNat 32 ((r.reg a).toNat * 2 ^ ((r.reg b).toNat % 32)))
  | .xdShr d a b => xdResult d (fun r => BitVec.ofNat 32 ((r.reg a).toNat / 2 ^ ((r.reg b).toNat % 32)))
  | .xdTbl d a => xdResult d (fun r => r.table[(r.reg a).toNat % 256]?.getD 0)
  | .xdBeq a b k => xdBranch k (fun r => r.reg a == r.reg b)
  | .xdBne a b k => xdBranch k (fun r => r.reg a != r.reg b)
  | .xdBltn a b k => xdBranch k (fun r => decide ((r.reg a).toNat < (r.reg b).toNat))
  | .xdBeof k => xdBranch k (fun r => r.eof || decide (r.ic = r.input.length))
  | .xdJmp k => xdBranch k (fun _ => true)
  | .xdLen d => xdResult d (fun r => BitVec.ofNat 32 (r.input.length - r.ic))
  | .xdOpos d => xdResult d (fun r => BitVec.ofNat 32 r.oc)
  | _ => none

/-- 15 R264: the end of a word: over the budget it is not executed (3 BUDGET), its own fault, a PC outside 0 to 255 (2 PCRANGE), else
its effect; a faulting word has no effect. -/
def XdRow.ends (x : XdRow) (r : XdRun) : XdRun :=
  let bad (c : Nat) : XdRun := { r with ended := some (.fault c 0) }
  if (if r.encode then 64 * r.size else 32 * r.size) < r.steps + x.cost r then bad 3
  else match x.fault r with
    | some c => bad c
    | none => if x.pc r < 0 ∨ 255 < x.pc r then bad 2 else { x.eff r with steps := r.steps + x.cost r, pc := (x.pc r).toNat }

end Sys2Proof.Machine

/-- 15 R263 to R265: each transducer word on the run in progress, its budget, its faults and its effect; `halt` ends with success unless a
decode has not written the whole block (7 SHORT), `fail` ends with FAIL and its immediate.  Nothing else of the machine changes. -/
def Obligations.TransducerWords : Prop :=
  ∀ (s : State) (r : XdRun), s.xd = some r → r.ended = none → r.output.length = r.oc →
    let spent : Prop := (if r.encode then 64 * r.size else 32 * r.size) < r.steps + 1
    let ends (i : Instr) (e : XdRun) : Prop := exec i s = .next { s with xd := some e }
    (∀ i x, tableR265 i = some x → ends i (x.ends r)) ∧
    (spent → ∀ i ∈ [Instr.xdHalt, .xdFail 0], ends i { r with ended := some (.fault 3 0) }) ∧
    (¬ spent → (r.encode = true ∨ r.oc = r.size) → ends .xdHalt { r with steps := r.steps + 1, ended := some .success }) ∧
    (¬ spent → r.encode = false → r.oc ≠ r.size → ends .xdHalt { r with ended := some (.fault 7 0) }) ∧
    (∀ k, ¬ spent → ends (.xdFail k) { r with ended := some (.fault 8 k) })

/-! ## Events of the memory path (05 R103, R109, R120; 11 R202; 13 R235, R238; 15 R268, R269; 19 R320, R321) -/

namespace Sys2Proof.Machine

/-- An event happens, and what it leaves. -/
def Happens (i : Instr) (s : State) (P : State → Prop) : Prop := ∃ t, exec i s = .next t ∧ P t

/-- No graft binds the region of an address. -/
def Unbound (s : State) (pa : Nat) : Prop := ∀ b ∈ s.bindings, b.region ≠ pa / 65536

/-- DRAM lists its bytes in rising order of address. -/
def DramSorted (s : State) : Prop := (s.dram.map Prod.fst).Pairwise (· < ·)

/-- Each slice line that is listed is listed once, with its bytes in order. -/
def SlicesOnce (s : State) : Prop :=
  s.slices.Pairwise (fun a b => a.line ≠ b.line) ∧ ∀ l ∈ s.slices, (l.cells.map Prod.fst).Pairwise (· < ·)

/-- 19 R319: no cache of the core, and no walk cache, answers for an address of the block's virtual device. -/
def Uncached (s : State) (ea : W64) : Prop :=
  ea.toNat < 2 ^ 56 ∧ s.me.priv ≠ 2 ∧ (∀ e ∈ s.walks, e.vd ≠ s.blk.vd) ∧
    ∀ e ∈ s.tlb, ∀ p ∈ corePlaces s.blk.core, e.answers p false s.blk.vd false ea.toNat = false

/-- 19 R321, R322: what a miss of a unit leaves, in its strand and in the queue of its stage, by either event that walks. -/
def Asks (s : State) (m : MemWait) (w : LaneWait) (stage2 : Bool) (page acc : Nat) (q : List PageReq) (queue : State → Option (List PageReq)) : Prop :=
  let waits (t : State) (id : Option Nat) : Prop :=
    t.me = { s.me with memWait := some { m with waiting := [{ lane := w.lane, ea := w.ea, stage2 := stage2, id := id }] } } ∧ t.blk = s.blk ∧ t.core = s.core
  let unread := (q.filter (fun r => !r.popped)).length
  let fresh : Prop := ∀ r ∈ q, ¬ (r.page = page ∧ r.vd = s.blk.vd)
  ∀ i ∈ [Instr.pageRequest (.strand s.me.id), .translationWalk (.strand s.me.id)],
    (fresh → unread < 256 → Happens i s (fun t => ∃ id, (∀ r ∈ q, r.id ≠ id) ∧ waits t (some id) ∧
      queue t = some (q ++ [{ page := page, acc := acc, vd := s.blk.vd, id := id, popped := false }]))) ∧
    (∀ r, q.find? (fun r => decide (r.page = page ∧ r.vd = s.blk.vd)) = some r → Happens i s (fun t => queue t = some q ∧ waits t (some r.id))) ∧
    (fresh → 256 ≤ unread → Happens i s (fun t => queue t = some q ∧ waits t none ∧ ∃ d ∈ t.agenda, d.ev = .pageRequest (.strand s.me.id)))

/-- The flight of a strand becomes f; a demotion by `hint.spin` ends (07 R133). -/
def arrived (f : Flight) (t : Strand) : Strand := { t with flight := some f, spin := false }

end Sys2Proof.Machine

/-- 13 R235, R238, 15 R268, R269, 05 R109, R101: at the home of an address of unbound DRAM, a read makes its sector valid with the bytes of
DRAM and counts down the line's use count; the end of a DRAM read makes the sectors valid that loads and atomics in flight ask for; a
capacity eviction stores the dirty sectors and the line leaves, the others stay; a write of waiting non-temporal bytes is performed and takes them out of the core's buffer. -/
def Sys2Proof.Machine.SaysHomeRequests : Prop :=
  ∀ (s : State) (pa core use : Nat) (free : Bool), s.graftLog = [] → pa < nearBase → Unbound s pa → SlicesOnce s → DramSorted s →
    (s.freeWays (pa / 256) ≠ [] ∨ ∃ k ∈ s.slices, k.line = pa / 256) →
    let line := pa / 256
    let l := s.sliceLine line
    let seen (x : Nat) : Byte := if bit l.valid (x / 64 % 4) then Memory.get l.cells x else Memory.get s.dram x
    (use ≠ 1 → l.use = 0 → Happens (.homeRead pa use free) s (fun t =>
      bit (t.sliceLine line).valid (pa / 64 % 4) = true ∧ (∀ x, x / 64 = pa / 64 → t.homeByte x = seen x) ∧
      (t.sliceLine line).use = use - 1 ∧ (use ≠ 0 → (t.sliceLine line).free = free) ∧ t.dram = s.dram ∧ t.poison = s.poison ∧ t.me = s.me)) ∧
    (Happens (.dramReadComplete line) s (fun t =>
      (∀ k ∈ s.allStrands, ∀ us n u f na, k.flight = some (.load us n u f na) → ∀ u ∈ us, u.pa / 256 = line →
        bit (t.sliceLine line).valid (u.pa / 64 % 4) = true) ∧
      (∀ k ∈ s.allStrands, ∀ fn n ls, k.flight = some (.atomic fn n ls) → ∀ u ∈ ls, u.pa / 256 = line →
        bit (t.sliceLine line).valid (u.pa / 64 % 4) = true) ∧
      (∀ x, x / 256 = line → bit (t.sliceLine line).valid (x / 64 % 4) = true → t.homeByte x = seen x) ∧ t.dram = s.dram ∧ t.me = s.me)) ∧
    (Happens (.writeBackSequence line) s (fun t => t.slices = s.slices.filter (fun k => k.line != line) ∧ (∀ x, Memory.get t.dram x =
        if x / 256 = line ∧ bit l.dirty (x / 64 % 4) then Memory.get l.cells x else Memory.get s.dram x) ∧ t.me = s.me)) ∧
    (∀ (strand : Nat) (b : Byte) (q : Bool), (s.coreOf core).id = core → s.heldBack core [line * 256] = false →
      (s.coreOf core).nt.filter (fun e => e.addr / 256 == line) = [NtByte.mk strand pa b q] →
      (∀ k, s.strand? strand ≠ some k) → Happens (.homeWrite core line) s (fun t => t.homeByte pa = b ∧
        (∀ x, x ≠ pa → x / 64 = pa / 64 → t.homeByte x = seen x) ∧ (∀ e ∈ (t.coreOf core).nt, e.addr / 256 ≠ line) ∧ t.me = s.me))

/-- 05 R103, R106, R115 to R120, 11 R202: a load's reply brings the values, from the homes or from a peer; an atomic is performed at
its home, its old value travels back and the reply is due; an acknowledgement counts down; a peer's packet is performed in its window and acknowledged. -/
def Sys2Proof.Machine.SaysReplyEvents : Prop :=
  ∀ (s : State) (k : Nat), s.graftLog = [] → Focused s →
    (∀ (t : Strand) (vals : List (Nat × Nat)) (d p : List Nat), s.strand? k = some t → t.flight = some (.performed vals d p) →
      ∀ i ∈ [Instr.memoryReply k, .atomicReply k], exec i s = .next (s.mapStrand k (arrived (.loaded vals d p)))) ∧
    (∀ (u : UnitPa) (n use : Nat) (free na : Bool), s.me.id = k → s.me.block = s.blk.id → s.me.flight = some (.load [u] n use free na) →
      u.raw = false → 0 < n → u.pa / 64 = (u.pa + n - 1) / 64 → InL1 s u.pa n → NoNt s → (∀ m, s.me.memWait = some m → ∀ f ∈ m.failed, f.cause ≠ .poison) →
      Happens (.memoryReply k) s (fun t => t.me = arrived (.loaded [(u.unit, l1Num s u.pa n)] [] []) s.me ∧ t.core.timeless = s.core.timeless)) ∧
    (∀ (fn n : Nat) (l : AtomLane), s.me.id = k → s.me.flight = some (.atomic fn n [l]) → n = 4 ∨ n = 8 → l.pa % n = 0 →
      nearBase ≤ l.pa → l.pa / 64 ∉ s.poison → DramSorted s → s.me.block = s.blk.id →
      s.heldBack s.blk.core [l.pa] = false → (∀ e ∈ s.core.dirty, e.1 / 64 ≠ l.pa / 64) →
      let old := bytesAt (Memory.get s.dram) l.pa n
      Happens (.atomicPerform k) s (fun t => t.me = { s.me with flight := some (.performed [(l.lane, old)] [] []) } ∧
        (∀ j < n, Memory.get t.dram (l.pa + j) = (l.newBytes fn n old)[j]?.getD 0) ∧
        (∀ x, x < l.pa ∨ l.pa + n ≤ x → Memory.get t.dram x = Memory.get s.dram x) ∧
        ∃ d, { at_ := s.now + d, ev := .atomicReply k } ∈ t.agenda)) ∧
    (exec (.storeAcknowledge k) s = .next (s.mapStrand k (fun t => { t with peerStores := t.peerStores - 1 }))) ∧
    (∀ (p : PeerStore) (r : List PeerStore), s.blk.core = k → s.core.packets = p :: r → p.act = 0 → p.block = s.blk.id →
      p.off + p.bytes.length ≤ s.blk.windowSize → (s.blk.window.map Prod.fst).Pairwise (· < ·) → Happens (.peerLocalAccess k) s (fun t => t.core = { s.core with packets := r } ∧
        (∀ x, Memory.get t.blk.window x = if p.off ≤ x ∧ x < p.off + p.bytes.length then p.bytes[x - p.off]?.getD 0 else Memory.get s.blk.window x) ∧
        t.agenda = s.agenda ++ [{ at_ := s.now + 20 * acTicks, ev := .storeAcknowledge p.strand }] ∧ t.me = s.me))

/-- 13 R235, R238, 15 R268, R269, 05 R109, R101: at the home of an address of unbound DRAM, a read makes its sector valid with the
bytes of DRAM and counts down the line's use count; the end of a DRAM read makes the sectors valid that loads and atomics in
flight ask for; a capacity eviction stores the dirty sectors and the line leaves, the others stay; a write of waiting non-temporal
bytes is performed and takes them out of the core's buffer.
05 R103, R106, R115 to R120, 11 R202: a load's reply brings the values, from the homes or from a peer; an atomic is performed at
its home, its old value travels back and the reply is due; an acknowledgement counts down; a peer's packet is performed in its
window and acknowledged. -/
def Obligations.HomeEvents : Prop :=
  Sys2Proof.Machine.SaysHomeRequests ∧ Sys2Proof.Machine.SaysReplyEvents

/-- 07 R378, 19 R320, R321: the line of the PC enters the fetch buffer once it is translated and read; a next line that the PC enters
stays as it was read, and the other line leaves; a unit whose translation has
arrived is translated, by either event that tries it again.  A fault without a page asks for it: a walk that finds the entry of the stage-1 root
table invalid (R317) puts a request with the page of the address and the access's ACC into its virtual device's queue, one that finds no IPA for
that table (R314) a request with the table's page, the device and ACC 0 into the hypervisor's; it takes an id that no outstanding request of the queue has, joins a
request of its page, and waits where 256 requests stand unread.  A copy that waited takes its turn, a conversion its next block. -/
def Sys2Proof.Machine.SaysTranslationEvents : Prop :=
  ∀ (s : State), s.graftLog = [] → Focused s → s.me.block = s.blk.id →
    (∀ l, s.me.run = .running → s.me.issued = false → s.me.fetch.find? (fun l => l.line == s.me.pc.toNat / 256) = some l → l.ready ≤ s.now →
      bit (l.marks ||| l.poison) (s.me.pc.toNat / 64 % 4) = false → Happens (.fetchLineFill s.me.id) s (fun t => ∃ r, t.me.fetch = l :: r ∧
        (∀ f ∈ r, f.line = s.me.pc.toNat / 256 + 1) ∧ t.me.pc = s.me.pc ∧ t.me.s = s.me.s ∧ t.me.v = s.me.v ∧ t.me.m = s.me.m ∧ t.blk = s.blk)) ∧
    (∀ pa, s.me.run = .running → s.me.issued = false → s.me.memWait = none → (∀ l ∈ s.me.fetch, l.line ≠ s.me.pc.toNat / 256) → Mapped s .exec s.me.pc pa → pa % 256 = s.me.pc.toNat % 256 →
      InL1 s (pa / 256 * 256) 256 → Happens (.fetchLineFill s.me.id) s (fun t => ∃ f r, t.me.fetch = f :: r ∧ f.line = s.me.pc.toNat / 256 ∧
        (∀ j < 256, Memory.get f.cells (s.me.pc.toNat / 256 * 256 + j) = (s.core.look (pa / 256 * 256 + j)).getD 0) ∧ t.me.pc = s.me.pc ∧
        t.me.s = s.me.s ∧ t.me.v = s.me.v ∧ t.me.m = s.me.m ∧ t.blk = s.blk)) ∧
    (∀ (m : MemWait) (w : LaneWait) (pa : Nat), s.me.memWait = some m → m.waiting = [w] → w.id = none → Mapped s m.acc w.ea pa →
      ∀ i ∈ [Instr.pageRequest (.strand s.me.id), .translationWalk (.strand s.me.id)], Happens i s (fun t => ∃ (d : Bool) (p : Nat),
        t.me = { s.me with memWait := some { m with waiting := [], ok := m.ok ++ [{ unit := w.lane, pa := pa, raw := false, discard := d, ea := w.ea, page := p }] } } ∧
        t.blk = s.blk ∧ t.core = s.core)) ∧
    (∀ (m : MemWait) (w : LaneWait) (v : VDev), s.me.memWait = some m → m.waiting = [w] → w.id = none → Uncached s w.ea → s.vd? s.blk.vd = some v → v.num = s.blk.vd →
      (∀ (l : Leaf) (log : WalkLog), s.guestTable (coreDie s.blk.core) v v.s1root.toNat = (.leaf l, log) →
        let entry := l.oa + 8 * (w.ea.toNat / 2 ^ 48 % 256)
        bit (s.plainByte entry) 0 = false → s.readsHeld (coreDie s.blk.core) (log.reads ++ [entry]) = false →
        Asks s m w false (w.ea.toNat / 4096) m.acc.code v.pageReqs (fun t => (t.vd? s.blk.vd).map (·.pageReqs))) ∧
      (v.ipalim.toNat ≤ v.s1root.toNat → Asks s m w true (v.s1root.toNat / 4096) 0 s.stage2 (fun t => some t.stage2))) ∧
    (∀ (op : Nat) (c : CopyOp), s.copy? op = some c → ∀ i ∈ [Instr.pageRequest (.engine op), .translationWalk (.engine op)],
      (c.kind = .gconv → Happens i s (fun t => (∃ d ∈ t.agenda, d.ev = .gconvBlock op ∧ d.at_ ≤ t.now) ∧ t.copies = s.copies ∧ t.me = s.me ∧ t.blk = s.blk)) ∧
      (c.kind ≠ .gconv → exec i s = exec (.copyChunkLand op) s ∧ Happens i s (fun _ => True)))

/-! ## Events of strands and barriers (02 R47, R55; 03 R74, R75; 07 R145; 11 R201; 17 R298; 19 R329; 21 R349) -/

namespace Sys2Proof.Machine

/-- A strand that waits for w goes on. -/
def waitOver (w : Wait) (t : Strand) : Strand := if t.wait = w then { t with wait := .none, reason := 0 } else t

/-- 07 R145, 19 R329: the first word of a time-out's record: the place, the block's index, the barrier, the length, the code. -/
def timeoutHead (s : State) (b : Block) (k n code : Nat) : W64 :=
  BitVec.ofNat 64 ((s.placeOf b.vd b.core).toNat * 2 ^ 32 + b.index % 32 * 2 ^ 20 + k % 16 * 2 ^ 16 + 2 * n % 256 * 256 + code)

/-- The strands of a block that have not arrived: neither exited nor halted, no handler. -/
def absent (s : State) (b : Block) (here : Strand → Bool) : List Strand :=
  (s.strandsOf b.id).filter (fun t => decide (t.run = .running) && !t.handler && !here t)

end Sys2Proof.Machine

/-- 03 R74, R75, 02 R47, R55, 17 R298, 19 R329, 21 R349: a `sleep`'s time limit and the end of a `yield` let the strand go on; a mask-stack entry
returns; a PC match register that fires raises BREAKPOINT before its word; a strand masked for 2^20 ac of its block's eviction stops, with a
record; the oldest held fault record enters its queue when it fits whole. -/
def Sys2Proof.Machine.SaysStrandTimes : Prop :=
  ∀ (s : State) (k : Nat), s.graftLog = [] →
    exec (.sleepTimeout k) s = .next (s.mapStrand k (waitOver .sleeping)) ∧
    exec (.yieldEnd k) s = .next (s.mapStrand k (waitOver .yielding)) ∧
    exec (.maskStackRefill k) s = .next (s.mapStrand k (fun t => { t with near := if t.near = 0 ∧ t.stack ≠ [] then 1 else t.near })) ∧
    (∀ (j : Nat) (m : Match), Focused s → s.me.id = k → s.me.block = s.blk.id → s.me.tmasked = false → s.me.matched = false → s.me.issued = false →
      s.me.pcMatch[j]? = some m → m.enable = true → m.addr = s.me.pc → (∀ i < j, ∀ m', s.me.pcMatch[i]? = some m' → m'.enable = true → m'.addr ≠ s.me.pc) →
      s.blk.debug = false → exec (.pcMatch k) s =
        .next (s.takeTrap { cause := .breakpoint, tval := BitVec.ofNat 64 (0x100000 + j), lanes := s.me.visible, taddr := 0 })) ∧
    (s.me.id = k → s.me.block = s.blk.id → s.blk.phase = .stopping → s.me.tmasked = true → s.me.run = .running →
      (∀ t ∈ s.strands, t.id ≠ k) → s.blk.stopAt + 2 ^ 20 * acTicks ≤ s.now → exec (.maskoverrun k) s =
        .next ((s.mapMe (fun t => { t with overrun := true })).postFault s.blk.vd
          [recordWord (s.placeOf s.blk.vd s.blk.core) s.blk.index 0 2 0x80, BitVec.ofNat 64 (s.me.slot % 32), s.me.tpc])) ∧
    (∀ (v : VDev) (r : List W64) (rest : List (List W64)), s.vd? k = some v → v.num = k → v.heldFaults = r :: rest →
      Happens (.faultRecordPush k) s (fun t => t.vd? k = some (if v.faultQ.length + r.length ≤ 256
        then { v with faultQ := v.faultQ ++ r, heldFaults := rest } else v) ∧ t.me = s.me ∧ t.blk = s.blk))

/-- 07 R145, 11 R201: a barrier phase that has not ended T after its first arrival ends: the strands that had arrived are marked to trap
BARRIER_TIMEOUT, and one record names the strands that had not. -/
def Sys2Proof.Machine.SaysBarrierTimeouts : Prop :=
  ∀ (s : State), s.graftLog = [] → (∀ b ∈ s.blocks, b.id ≠ s.blk.id) →
    (∀ (k : Nat) (r : Barrier) (t0 : Nat), s.blk.barriers[k]? = some r → r.firstAt = some t0 → s.clockRuns s.blk = true →
      t0 + s.blk.timeout * acTicks ≤ s.now → absent s s.blk (fun t => r.arrived.contains t.slot) ≠ [] → Happens (.blockBarrierTimeout s.blk.id k) s (fun t =>
        t.blk.barriers[k]? = some { r with arrived := [], firstAt := none, timedOut := r.timedOut ++ r.arrived } ∧
        (∀ j, j ≠ k → t.blk.barriers[j]? = s.blk.barriers[j]?) ∧ t.me = s.me ∧ t.strands = s.strands ∧
        t.vds = (s.postFault s.blk.vd (timeoutHead s s.blk k (absent s s.blk (fun t => r.arrived.contains t.slot)).length 0x83 ::
          (absent s s.blk (fun t => r.arrived.contains t.slot)).flatMap (fun t => [BitVec.ofNat 64 ((t.m[0]?.getD 0).toNat * 2 ^ 32 + t.slot % 32), t.pc]))).vds)) ∧
    (∀ (g : GroupBarrier) (t0 : Nat), s.groupBars.find? (fun g => g.group == s.blk.group) = some g → g.firstAt = some t0 → s.clockRuns s.blk = true →
      (∀ b ∈ s.blocks, b.group ≠ s.blk.group) → s.blk.phase ≠ .ended → s.blk.id ≠ 0 →
      t0 + s.blk.timeout * acTicks ≤ s.now → absent s s.blk (fun t => g.arrived.contains t.id) ≠ [] → Happens (.clusterBarrierTimeout s.blk.group) s (fun t =>
        t.groupBars.find? (fun g => g.group == s.blk.group) = some { g with arrived := [], firstAt := none, timedOut := g.timedOut ++ g.arrived } ∧
        t.me = s.me ∧ t.blk = s.blk ∧
        t.vds = (s.postFault s.blk.vd (timeoutHead s s.blk 0 (absent s s.blk (fun t => g.arrived.contains t.id)).length 0x84 ::
          (absent s s.blk (fun t => g.arrived.contains t.id)).flatMap (fun t => [BitVec.ofNat 64 ((t.m[0]?.getD 0).toNat * 2 ^ 32 + t.slot % 32), t.pc]))).vds))

/-- 03 R74, R75, 02 R47, R55, 17 R298, 19 R329, 21 R349: a `sleep`'s time limit and the end of a `yield` let the strand go on; a mask-
stack entry returns; a PC match register that fires raises BREAKPOINT before its word; a strand masked for 2^20 ac of its block's
eviction stops, with a record; the oldest held fault record enters its queue when it fits whole.
07 R145, 11 R201: a barrier phase that has not ended T after its first arrival ends: the strands that had arrived are marked to
trap BARRIER_TIMEOUT, and one record names the strands that had not.
07 R378, 19 R320, R321: the line of the PC enters the fetch buffer once it is translated and read; a next line that the PC enters
stays as it was read, and the other line leaves; a unit whose translation has arrived is translated, by either event that tries it
again. A fault without a page asks for it: a walk that finds the entry of the stage-1 root table invalid (R317) puts a request
with the page of the address and the access's ACC into its virtual device's queue, one that finds no IPA for that table (R314) a
request with the table's page, the device and ACC 0 into the hypervisor's; it takes an id that no outstanding request of the queue
has, joins a request of its page, and waits where 256 requests stand unread. A copy that waited takes its turn, a conversion its
next block. -/
def Obligations.StrandEvents : Prop :=
  Sys2Proof.Machine.SaysStrandTimes ∧ Sys2Proof.Machine.SaysBarrierTimeouts ∧ Sys2Proof.Machine.SaysTranslationEvents

/-! ## Events of the copy engine and of the matrix array (07 R139, R146; 08 R158 to R169; 09 R174 to R176, R185, R186) -/

namespace Sys2Proof.Machine

/-- 11 R210: the cluster of the block in the focus does not drain. -/
def Undrained (s : State) : Prop := ∀ k, (s.clusterOf (coreCluster s.blk.core)).state ≠ .draining k

/-- The copy that an event names: of the block in the focus, which runs, at the head of those of its strand's copies that wait for no
translation, waiting for nothing; no other copy of the core is due (07 R146). -/
structure CopyTurn (s : State) (c : CopyOp) : Prop where
  named  : s.copies.find? (fun k => k.id == c.id) = some c
  block  : c.block = s.blk.id
  runs   : s.blk.phase = .running
  open_  : c.finished = false ∧ c.stream = false
  core   : c.core = s.blk.core
  head   : ((s.copies.filter (fun k => decide (k.strand = c.strand) && !k.stream && !k.finished && (k.waiting.isNone || k.id == c.id))).head?.map
             (·.id)) = some c.id
  alone  : ∀ k ∈ s.copies, k.id ≠ c.id → ∀ d ∈ s.agenda, d.ev ≠ .copyChunkLand k.id
  settled : c.waiting = none

/-- A copy of n 32-bit elements of one dimension, without conversion or scales, all inside the extents, into the window at `off`. -/
structure PlainCopy (s : State) (c : CopyOp) (n o off : Nat) : Prop where
  kind  : c.kind = .cpg
  side  : c.side = .window off
  types : c.lay.gtype = c.lay.ctype ∧ (c.lay.gtype = 3 ∨ c.lay.gtype = 4) ∧ c.lay.block = 0
  shape : c.lay.box = [n, 1, 1, 1, 1] ∧ (∃ e, o + n ≤ e ∧ c.lay.ext = [e, 1, 1, 1, 1]) ∧ c.origin = [(o : Int), 0, 0, 0, 0]
  size  : 0 < n ∧ n ≤ 1024

/-- 07 R147: the members' batches hold the operation as done. -/
def opEnded (op : Nat) (f : Option BatchFault) (b : Batches) : Batches :=
  let g (o : BatchOp) : BatchOp := if o.op = op then { o with done := true, fault := f } else o
  { b with batches := b.batches.map (fun k => { k with ops := k.ops.map g }), unsealed := b.unsealed.map g }

end Sys2Proof.Machine

/-- 07 R139, R146, 09 R185, R186: the engine's turn of a copy: a tray's slot is reserved, or the copy refused where the generation has
changed; a chunk's elements land where the record puts them; a copy whose elements have all landed writes its completion word, ends in
its batch and leaves. -/
def Obligations.CopyEvents : Prop :=
  ∀ (s : State) (c : CopyOp), s.graftLog = [] → (∀ b ∈ s.blocks, b.id ≠ s.blk.id) → CopyTurn s c → Undrained s → (∀ k ∈ s.copies, k ≠ c → k.id ≠ c.id) →
    (∀ (k : Nat) (y : Tray), c.kind = .cpg → c.side = .tray k → c.slot = none → c.status = 0 → c.decided = [] → c.next < c.lay.total →
      s.blk.trays[k]? = some y → c.conflict s.blk = none →
      ((c.gen = none ∨ c.gen = some y.gen.toNat) → y.free ≠ 0 → Happens (.trayReserve c.id) s (fun t =>
        t.blk = { s.blk with trays := s.blk.trays.set k { y with free := y.free - 1, res := y.res + 1, tail := (y.tail + 1) % y.nslot } } ∧
        t.copies = s.copies.map (fun j => if j.id = c.id then { j with slot := some y.tail } else j) ∧ t.me = s.me)) ∧
      (c.gen ≠ none → c.gen ≠ some y.gen.toNat → Happens (.trayReserve c.id) s (fun t => t.blk = s.blk ∧
        t.copies = s.copies.map (fun j => if j.id = c.id then { j with decided := [.refuse 3] } else j)))) ∧
    (∀ (n o off pa : Nat), PlainCopy s c n o off → c.next = 0 → c.status = 0 → c.decided = [] → c.remoteEnd = none → c.conflict s.blk = none →
      pa % 4 = 0 → nearBase ≤ pa → pa + 4 * n < nearLimit → (∀ k < 4 * n, (pa + k) / 64 ∉ s.poison) → s.heldBack c.core ((List.range (4 * n)).map (pa + ·)) = false →
      off + 4 * n ≤ 2 ^ 20 → (s.blk.window.map Prod.fst).Pairwise (· < ·) → (∀ b ∈ s.blk.window, b.2 ≠ 0) →
      (∀ e ∈ s.tlb, e.bad = false) →
      (∀ k < 4 * n, ∃ e : TlbEntry, s.tlb.find? (fun e => e.answers (.core c.core) false c.vd (decide (c.priv = 2))
          (c.lay.base + BitVec.ofNat 64 (4 * o + k)).toNat) = some e ∧
        (c.lay.base + BitVec.ofNat 64 (4 * o + k)).toNat < 2 ^ 56 ∧ s.permits c.priv .read e (c.lay.base + BitVec.ofNat 64 (4 * o + k)).toNat = true ∧
        e.raw = false ∧ e.addr (c.lay.base + BitVec.ofNat 64 (4 * o + k)).toNat = pa + k) → Happens (.copyChunkLand c.id) s (fun t =>
        (∀ x, Memory.get t.blk.window x = if off ≤ x ∧ x < off + 4 * n then Memory.get s.dram (pa + (x - off)) else Memory.get s.blk.window x) ∧
        (∃ d, t.copies.find? (fun k => k.id == c.id) = some d ∧ d.next = n ∧ d.status = 0 ∧ d.bytes = c.bytes + 32 * n) ∧
        (∃ d ∈ t.agenda, d.ev = .copyComplete c.id ∧ d.at_ ≤ s.now) ∧ t.me = s.me)) ∧
    (c.kind = .cps → c.status = 0 → c.cross = false → c.decided = [] → c.lay.total ≤ c.next → c.bar = none → c.bytes < 2 ^ 35 →
      s.blk.eventOn = false → s.strandsOf s.blk.id ≠ [] → (∃ t ∈ s.strandsOf s.blk.id, t.over = false) → Happens (.copyComplete c.id) s (fun t =>
        t.copies = s.copies.filter (fun k => k.id != c.id) ∧ t.me.cp = opEnded c.id none s.me.cp ∧ t.me.s = s.me.s ∧ t.me.pc = s.me.pc ∧
        (∀ off, c.cw = some off → off % 8 = 0 → off + 8 ≤ s.blk.windowSize → (s.blk.window.map Prod.fst).Pairwise (· < ·) →
          windowNum t off 8 = 2 ^ 63 + c.bytes / 8)))

/-- 09 R174, R175, 08 R158 to R169: a rendezvous that is complete forks the latched operation; it starts when the array is free, `mma` on an
empty tile, or ends with FORMAT where a pairing fails (the value of TVAL is that of the statements of R157 and R177); a filled slot yields one
partial for each of 16 rows and 128 columns, its NaN products mark their elements, a product outside the window marks the operation
MATRIX_WINDOW, an unfilled slot is awaited; each partial arrives at its element; a column drains; with every element inside D bits the operation
ends in its members' batches; with S an element outside, or one whose residue overflowed, is saturated; without S the operation ends with
MATRIX_OVERFLOW, which names the first of them, and what A holds of one whose residue overflowed is not said.  When a started operation streams is
the model's choice (log entries 2 and 35): the statement says that the stream is due. -/
def Obligations.MatrixEvents : Prop :=
  ∀ (s : State), s.graftLog = [] → (∀ b ∈ s.blocks, b.id ≠ s.blk.id) → Undrained s →
    (∀ (a : BitVec 3) (w : BitVec 7) (r k : BitVec 4) (x y p : BitVec 1) (c : Bool) (l : Latch), s.blk.latch = some l →
      l.word = encode (if c then .mmac a w r k x y p else .mma a w r k x y p) → (∀ j < 32, l.gang.getLsbD j = true → j ∈ l.joined) → s.mxops = [] →
      s.me.block = s.blk.id → l.gang.getLsbD s.me.slot = true → s.me.slot < 32 → s.me.run = .running →
      Happens (.gangRendezvous s.blk.id) s (fun t => ∃ m, t.mxops = [m] ∧ m.mmac = c ∧ m.acc = a.toNat ∧ m.plane = w.toNat ∧ m.tray = r.toNat ∧
        m.kcnt = k.toNat + 1 ∧ m.t = (x == 1) ∧ m.s = (y == 1) ∧ m.p = (p == 1) ∧ m.started = false ∧ m.next = 0 ∧ m.fault = none ∧ s.me.id ∈ m.members ∧
        t.blk = { s.blk with latch := none } ∧ t.me.wait = .released ∧
        t.me.mx = { s.me.mx with unsealed := s.me.mx.unsealed ++ [{ op := m.id, join := 0, done := false, fault := none }] } ∧
        { at_ := s.now, ev := .matrixOpStart m.id } ∈ t.agenda)) ∧
    (∀ m : MxOp, s.mxops = [m] → m.block = s.blk.id → m.acc < s.blk.tiles.length →
      let tile := s.blk.tiles[m.acc]?.getD .init
      let q := m.id
      (m.started = false → m.done = false → m.check s.blk = none → Happens (.matrixOpStart q) s (fun t => t.mxops = [{ m with started := true }] ∧
        t.blk.tiles[m.acc]? = some (if m.mmac then tile else { tile with elems := [], rcount := 0 }) ∧ t.me = s.me ∧
        ∃ d, { at_ := s.now + d, ev := .matrixSlotStream q } ∈ t.agenda)) ∧
      (∀ v : W64, m.started = false → m.done = false → m.check s.blk = some v → s.blk.eventOn = false → s.blk.phase = .running → (∃ t ∈ s.strandsOf s.blk.id, t.over = false) →
        Happens (.matrixOpStart q) s (fun t => let f : BatchFault := { cause := .format, tval := v, taddr := 0 }
          (∀ n ∈ t.mxops, n = { m with done := true, fault := some f }) ∧ t.blk = s.blk ∧ t.me.mx = opEnded q (some f) s.me.mx)) ∧
      (∀ y : Tray, s.blk.trays[m.tray]? = some y → m.started = true → m.done = false → m.next < m.kcnt → m.arrivals = [] →
        let k := if m.p then 0 else m.next
        let base := y.base + (y.head + k) % y.nslot * y.slot
        let plane := s.blk.planes[m.plane + m.next]?.getD .init
        let part (i j : Nat) : Int × Bool × Bool := partialSum tile.g.toInt ((List.range y.kslot).map (fun k =>
          (y.activation s.blk base i k).mul (plane.weight m.t k j)))
        (k + 1 ≤ y.filled → Happens (.matrixSlotStream q) s (fun t => ∃ n, t.mxops = [n] ∧ n.next = m.next + 1 ∧ n.arrivals.length = 2048 ∧
          (∀ i < 16, ∀ j < 128, n.arrivals[128 * i + j]? = some (i, j, (part i j).1)) ∧
          (∀ i < 16, ∀ j < 128, (t.blk.tiles[m.acc]?.getD .init).elem (128 * i + j) =
            if (part i j).2.1 then { tile.elem (128 * i + j) with nan := true } else tile.elem (128 * i + j)) ∧
          (m.fault = none → (∃ i < 16, ∃ j < 128, (part i j).2.2 = true) → n.fault = some { cause := .matrixWindow, tval := BitVec.ofNat 64 m.acc, taddr := 0 }) ∧
          (m.fault ≠ none ∨ (∀ i < 16, ∀ j < 128, (part i j).2.2 = false) → n.fault = m.fault) ∧
          t.blk.trays[m.tray]? = some (if m.p then { y with filled := y.filled - 1, free := y.free + 1, head := (y.head + 1) % y.nslot } else y) ∧ t.me = s.me)) ∧
        (y.filled < k + 1 → Happens (.matrixSlotStream q) s (fun t => t.mxops = s.mxops ∧ t.blk = s.blk ∧ t.me = s.me ∧ ∃ d, { at_ := s.now + d, ev := .matrixSlotStream q } ∈ t.agenda))) ∧
      (∀ (i j : Nat) (x : Int) (z : List (Nat × Nat × Int)), m.arrivals = (i, j, x) :: z →
        Happens (.partialArrival q i j x) s (fun t => ∃ n, t.mxops = [n] ∧ n.arrivals = z ∧ t.me = s.me ∧
          let g := (stageOf m tile (128 * i + j)).arrive x
          (t.blk.tiles[m.acc]?.getD .init).elem (128 * i + j) = g.e ∧ lookupQ n.queues (128 * i + j) = (g.pq, g.nq) ∧
          (∀ k, k ≠ 128 * i + j → (t.blk.tiles[m.acc]?.getD .init).elem k = tile.elem k ∧ lookupQ n.queues k = lookupQ m.queues k))) ∧
      (∀ j, j < 128 → m.arrivals = [] → m.kcnt ≤ m.next → m.drained = j → Happens (.columnDrain q j) s (fun t => ∃ n, t.mxops = [n] ∧
        n.drained = j + 1 ∧ t.me = s.me ∧ (∀ i < 16, let g := (stageOf m tile (128 * i + j)).drain 9
          (t.blk.tiles[m.acc]?.getD .init).elem (128 * i + j) = g.e ∧ lookupQ n.queues (128 * i + j) = (g.pq, g.nq)) ∧
        (∀ k, k % 128 ≠ j → (t.blk.tiles[m.acc]?.getD .init).elem k = tile.elem k))) ∧
      (m.drained = 128 → m.done = false → s.blk.eventOn = false → s.blk.phase = .running → (∃ t ∈ s.strandsOf s.blk.id, t.over = false) →
        (tile.elems.map Prod.fst).Nodup → 1 ≤ tile.d → tile.d ≤ 41 →
        let wide (e : Nat × Elem) : Bool := !e.2.nan && (decide (2 ^ (tile.d - 1) ≤ (exactSum e.2).natAbs) || m.rovf.contains e.1)
        let ends (f : Option BatchFault) (left : Nat × Elem → Elem → Prop) : Prop := Happens (.matrixOpComplete q) s (fun t =>
          (∀ n ∈ t.mxops, n = { m with done := true, fault := f }) ∧ t.me.mx = opEnded q f s.me.mx ∧ t.me.s = s.me.s ∧
          ∀ e ∈ tile.elems, left e ((t.blk.tiles[m.acc]?.getD .init).elem e.1))
        ((∀ e ∈ tile.elems, wide e = false) → ends m.fault (fun e x => x = e.2)) ∧
        (m.s = true → ends m.fault (fun e x => if wide e then
            let top : Int := (if exactSum e.2 < 0 then -1 else 1) * ((2 : Int) ^ (tile.d - 1) - 1)
            exactSum x = top ∧ x.rw.toInt = top.sign * (top.natAbs / 2 ^ 26 : Nat) ∧ x.nan = e.2.nan ∧ x.ru = e.2.ru
          else x = e.2)) ∧
        (∀ e ∈ tile.elems, wide e = true → (∀ e' ∈ tile.elems, wide e' = true → e.1 ≤ e'.1) → e.1 < 2048 → m.s = false →
          ends (m.fault.or (some { cause := .matrixOverflow, tval := BitVec.ofNat 64 (m.acc + e.1 / 128 * 8 + e.1 % 128 * 128), taddr := 0 }))
            (fun e x => (e.1 ∉ m.rovf → x = e.2) ∧ x.rw = e.2.rw ∧ x.nan = e.2.nan ∧ x.ru = e.2.ru))))

/-! ## Events of a block's life and of its cluster (07 R149, R150; 03 R70; 11 R199, R208 to R211; 12 R222) -/

namespace Sys2Proof.Machine

/-- An event is due now. -/
def DueNow (ev : Instr) (t : State) : Prop := ∃ e ∈ t.agenda, e.ev = ev ∧ e.at_ ≤ t.now

/-- What the registers of a strand are (07 R150). -/
def SameRegs (a b : Strand) : Prop :=
  a.pc = b.pc ∧ a.s = b.s ∧ a.v = b.v ∧ a.m = b.m ∧ a.stack = b.stack ∧ a.tpc = b.tpc ∧ a.fmt = b.fmt ∧ a.gang = b.gang

/-- The block without what its life cycle changes. -/
def SameUnits (a b : Block) : Prop :=
  a.window = b.window ∧ a.tiles = b.tiles ∧ a.planes = b.planes ∧ a.channels = b.channels ∧ a.windowSize = b.windowSize

end Sys2Proof.Machine

/-- 07 R149, R150, 03 R70, 11 R200: the life of a resident block: a request stops it and every running block of its group, and the clocks of its
barriers; once the group's strands stand at safe points it drains; once the group's matrix operations and replies are in it is saved, its trays' generations advance; then it is evicted; it is restored and runs again with the
registers, window, tiles, planes and channels that it had; once its strands and operations have ended it leaves its core, its group's count
goes down. -/
def Obligations.BlockEvents : Prop :=
  ∀ (s : State), s.graftLog = [] → (∀ b ∈ s.blocks, b.id ≠ s.blk.id) → s.blk.id ≠ 0 → s.me.block = s.blk.id →
    let b := s.blk
    (b.phase = .running → b.latch = none → Happens (.evictionRequest b.id) s (fun t =>
      t.blk = { b with phase := .stopping, stopAt := s.now, frozenAt := if b.frozenAt = 0 then s.now else b.frozenAt } ∧ SameRegs t.me s.me ∧ DueNow (.draining b.id) t ∧
      ∀ k ∈ s.blocks, k.group = b.group → k.phase = .running → DueNow (.evictionRequest k.id) t)) ∧
    (b.phase = .stopping → b.latch = none → (∀ t ∈ s.strandsOf b.id, t.run = .running → t.tmasked = false ∧ t.wait ≠ .released ∧ t.wait ≠ .gang) →
      (∀ k ∈ s.blocks, k.group = b.group → k.phase ≠ .running ∧ k.phase ≠ .restoring ∧ k.phase ≠ .stopping) →
      Happens (.draining b.id) s (fun t => t.blk = { b with phase := .draining } ∧ SameRegs t.me s.me ∧ DueNow (.saving b.id) t ∧
        (s.me.run = .running → t.me.reason = 14))) ∧
    (b.phase = .stopping → (∃ k ∈ s.blocks, k.group = b.group ∧ k.phase = .running) → Happens (.draining b.id) s (fun t => t.blk = b ∧ t.me = s.me ∧
      ∃ e ∈ t.agenda, e.ev = .draining b.id)) ∧
    (b.phase = .draining → s.mxops = [] → (∀ t ∈ s.strandsOf b.id, t.flight = none) →
      (∀ k ∈ s.blocks, k.group = b.group → k.phase ≠ .stopping ∧ ∀ t ∈ s.strandsOf k.id, t.flight = none) → Happens (.saving b.id) s (fun t =>
      t.blk = { b with phase := .saving, trays := b.trays.map (fun y => { y with gen := y.gen + 1 }) } ∧ t.me = s.me)) ∧
    (b.phase = .saving → b.eventOn = false → Happens (.evicted b.id) s (fun t => t.blk = { b with phase := .evicted } ∧ t.me = s.me)) ∧
    (b.phase = .restoring → Happens (.restoring b.id) s (fun t => t.blk.phase = .restoring ∧ SameUnits t.blk b ∧ t.me = s.me ∧
      ∃ e ∈ t.agenda, e.ev = .running b.id)) ∧
    (b.phase = .restoring → b.eventOn = false → s.clusterIssues b.core = true → Happens (.running b.id) s (fun t => t.blk.phase = .running ∧ SameUnits t.blk b ∧ SameRegs t.me s.me)) ∧
    (∀ k : Task, (∀ t ∈ s.strandsOf b.id, t.over = true) → b.offers = [] → s.blockDone b.id = true → b.hasNode = none → b.eventOn = false →
      (∀ l, s.launch? b.die b.launch = some l → l.node = none) → s.tasks.find? (fun k => k.id == b.group) = some k → 2 ≤ k.blocksLeft → Happens (.blockComplete b.id) s (fun t =>
        (∀ j ∈ t.allBlocks, j.id ≠ b.id) ∧ (∀ u ∈ t.allStrands, u.block ≠ b.id) ∧
        (t.tasks.find? (fun k => k.id == b.group)).map (·.blocksLeft) = some (k.blocksLeft - 1)))

/-- 11 R199, R208 to R211: a spare takes the place of an empty worn core, and where there is none the cluster is withdrawn; a containment reset of an empty
cluster empties its L1s, and its handshake comes 256 cc later, with which it is offline until the controller brings it back; a drain stops issue and is
counted as a corrected error; that issue resumes exactly 2,048 cc after it, where the rule says at most, is the model's choice (log entry 30); a packet
lost in a reset never existed. -/
def Obligations.ClusterEvents : Prop :=
  ∀ (s : State) (c k : Nat), s.graftLog = [] → k < 8 → c < 64 → s.residentOn c = [] → s.beds = [] → s.sows = [] → s.copies = [] →
    let st := (s.clusterOf c).state
    ((s.clusterOf c).spare = none → st = .online → Happens (.spareSwap c k) s (fun t => (t.clusterOf c).spare = some (c * 8 + k) ∧
      (t.clusterOf c).state = .online ∧ (t.coreOf (c * 8 + k)).dirty = [] ∧ (t.coreOf (c * 8 + k)).nt = [])) ∧
    ((s.clusterOf c).spare ≠ none → Happens (.spareSwap c k) s (fun t => (t.clusterOf c).withdrawn = true ∧
      t.outbox = s.outbox ++ [OutMsg.retired 0 (c / 16) (c * 8 + k)])) ∧
    (st = .online → Happens (.clusterReset c) s (fun t => (t.clusterOf c).state = .resetting s.now ∧
      (∀ j < 8, (t.coreOf (c * 8 + j)).dirty = [] ∧ (t.coreOf (c * 8 + j)).nt = []) ∧
      { at_ := s.now + 256 * ccTicks, ev := .containmentHandshake c } ∈ t.agenda)) ∧
    (∀ t0 n, st = .resetting t0 → s.core.id = c * 8 → n < s.core.packets.length → Happens (.reassemblyTimeout c n) s (fun t =>
      t.core = { s.core with packets := s.core.packets.eraseIdx n } ∧ t.me = s.me)) ∧
    (∀ t0, st = .resetting t0 → Happens (.containmentHandshake c) s (fun t => (t.clusterOf c).state = .offline ∧
      ∀ j < 8, (t.coreOf (c * 8 + j)).packets = [])) ∧
    (st = .online ∨ st = .swapping → Happens (.drainAndRebuild c) s (fun t => (t.clusterOf c).state = .draining s.now ∧
      { at_ := s.now + 2048 * ccTicks, ev := .issueResume c } ∈ t.agenda ∧ t.me = s.me ∧ t.blk = s.blk)) ∧
    (∀ t0, st = .draining t0 → (∀ d ∈ s.agenda, ∀ k, d.ev ≠ .spareSwap c k) → (∀ j < 8, (s.coreOf (c * 8 + j)).events = []) →
      Happens (.issueResume c) s (fun t => (t.clusterOf c).state = .online ∧
      (∀ d, s.dies[c / 16]? = some d → t.dies[c / 16]? = some { d with corrected := d.corrected + 1 }) ∧ t.me = s.me ∧ t.blk = s.blk)) ∧
    (st = .offline → (s.clusterOf c).incoming = none → Happens (.clusterBackOnline c) s (fun t => (t.clusterOf c).state = .online))

/-! ## Events of the dies, links, debug sessions and of power (13 R236, R240 to R244; 19 R308, R309, R333; 21 R348 to R351; 22 R366; 23 R372 to R376) -/

/-- 13 R236, R240 to R244, 19 R330: on a die at a drain point (the model's: no block resident, log entry 26) the carve changes and near store starts over at
zero, a spare slice or row goes into use; the copy of a worn channel takes 7 ms and then names the spare; the scrubber counts what it
corrects and poisons what it cannot; an error that a check cannot correct marks a slice sector, an L1 sector, a word of local memory or a
register, or the translation entry, and a line whose tag is lost is fatal.  The model's choices: findings in an L1, a window, a register or a translation
entry come as PATROL_SCRUB too (log entry 54), and the cause of a lost tag has the number 2 (log entry 27). -/
def Sys2Proof.Machine.SaysDieUnits_ : Prop :=
  ∀ (s : State) (d : Nat) (y : DieUnits) (k : Nat), s.graftLog = [] → (h : d < 4) → s.dies[d]? = some y → (∀ b ∈ s.allBlocks, coreDie b.core ≠ d) →
    let now (t : State) (z : DieUnits) : Prop := t.dies[d]? = some z ∧ (∀ j, j ≠ d → t.dies[j]? = s.dies[j]?) ∧ t.me = s.me ∧ t.blk = s.blk
    let plain : Prop := ∀ l ∈ s.slices, s.binding? (l.line * 256) = none
    (k ≤ 32 → Happens (.carveChange d k) s (fun t => now t { y with carve := k } ∧
      (plain → ∀ x, nearBase + d * 2 ^ 28 ≤ x → x < nearBase + (d + 1) * 2 ^ 28 → Memory.get t.dram x = 0 ∧ x / 64 ∉ t.poison))) ∧
    (y.slice = none → Happens (.sliceSwap d k) s (fun t => now t { y with slice := some k } ∧
      (plain → ∀ l ∈ t.slices, homeDie (l.line * 256) = d → sliceOf (l.line * 256) ≠ k))) ∧
    (y.channel = none → y.copying = none → Happens (.channelSwap d k) s (fun t => now t { y with copying := some k } ∧
      { at_ := s.now + 7 * 1000000 * nsTicks, ev := .channelCopyEnd d } ∈ t.agenda)) ∧
    (∀ u, y.copying = some u → Happens (.channelCopyEnd d) s (fun t => now t { y with channel := some u, copying := none })) ∧
    (Happens (.rowRepair d k) s (fun t => ∃ rows, now t { y with rows := rows, rowErrors := y.rowErrors.filter (fun e => e.1 != k) } ∧ k ∈ rows ∧
      ∀ j, j ≠ k → (j ∈ rows ↔ j ∈ y.rows))) ∧
    (homeDie (k * 64) = d → Happens (.patrolScrub k .clean) s (fun t => t = s) ∧
      (∀ p ∈ [EccPlace.stored, .cached, .tag, .code], Happens (.patrolScrub k (.corrected p)) s (fun t =>
        ∃ z, now t z ∧ z.corrected = y.corrected + 1 ∧ t.poison = s.poison)) ∧
      Happens (.patrolScrub k (.uncorrectable .stored)) s (fun t => k ∈ t.poison ∧ (∀ j, j ≠ k → (j ∈ t.poison ↔ j ∈ s.poison)) ∧ t.dies = s.dies)) ∧
    Happens (.patrolScrub k (.uncorrectable .cached)) s (fun t => t.poison = s.poison ∧ t.me = s.me ∧ t.blk = s.blk ∧
      ∀ l ∈ s.slices, l.line = k / 4 → bit l.valid (k % 4) = true → ∃ m ∈ t.slices, m.line = l.line ∧ m.cells = l.cells ∧ bit m.poison (k % 4) = true) ∧
    Happens (.patrolScrub k (.uncorrectable .tag)) s (fun t => k / 4 ∈ t.control.lostTags ∧ DueNow (.fatalError 2) t ∧ t.me = s.me ∧ t.blk = s.blk) ∧
    (k ∈ s.core.valid → Happens (.patrolScrub k (.uncorrectable (.l1 s.core.id))) s (fun t => k ∈ t.core.corrupt ∧ t.me = s.me ∧ t.blk = s.blk)) ∧
    (8 * k < s.blk.windowSize → Happens (.patrolScrub k (.uncorrectable (.window s.blk.id))) s (fun t =>
      k ∈ t.blk.corrupt ∧ t.blk.window = s.blk.window ∧ t.me = s.me)) ∧
    (∀ r, 0 < r → r < 64 → Happens (.patrolScrub r (.uncorrectable (.register s.me.id))) s (fun t => RegName.scalar r ∈ t.me.corrupt ∧
      t.me.s = s.me.s ∧ t.blk = s.blk)) ∧
    (∀ r, r < 128 → Happens (.patrolScrub (64 + r) (.uncorrectable (.register s.me.id))) s (fun t => RegName.vector r ∈ t.me.corrupt ∧
      t.me.v = s.me.v ∧ t.blk = s.blk)) ∧
    (∀ e, s.tlb[k]? = some e → Happens (.patrolScrub k (.uncorrectable .translation)) s (fun t => t.tlb[k]? = some { e with bad := true } ∧
      t.me = s.me ∧ t.blk = s.blk))

/-- 19 R308, R309, R333, R334: a link replays after a failure or a missing acknowledgement, as a free value says once more or with success (log entry 56), and
maps out a lane after eight in a row; a failed lane takes a spare of its direction, without one the link is lost, which is fatal, as a
retraining is that fails; a fatal error stops the package with FATAL and a dump for each die.  That a lost link's cause has the number 1 is the
model's choice (log entry 27). -/
def Sys2Proof.Machine.SaysLinkEvents : Prop :=
  ∀ (s : State) (k c : Nat) (l : Link), s.graftLog = [] → k < 6 → s.links[k]? = some l →
    let others (t : State) : Prop := (∀ j, j ≠ k → t.links[j]? = s.links[j]?) ∧ t.me = s.me ∧ t.blk = s.blk
    (l.retrain = false → l.lost = false → ∀ i ∈ [Instr.linkReplay k, .linkAckTimeout k], Happens i s (fun t => ∃ m, t.links[k]? = some m ∧
      others t ∧ m.replays = l.replays + 1 ∧ m.lost = false ∧ m.retrain = false ∧
      (m.fails = 0 ∧ m.flitsUp = [] ∧ m.flitsDown = [] ∨
        m.fails = l.fails + 1 ∧ m.flitsUp.length = l.flitsUp.length ∧ m.flitsDown.length = l.flitsDown.length ∧
          (8 ≤ m.fails → DueNow (.linkRetrain k true) t) ∧
          (m.fails < 8 → { at_ := s.now + 64 * ccTicks, ev := .linkReplay k } ∈ t.agenda)))) ∧
    (Happens (.linkRetrain k false) s (fun t => t.links[k]? = some { l with retrain := true } ∧ others t ∧
      ∃ e ∈ t.agenda, e.ev = .linkRetrainComplete k ∧ e.at_ ≤ s.now + 2000 * nsTicks)) ∧
    (l.sparesUp ≠ 0 → l.sparesDown ≠ 0 → Happens (.linkRetrain k true) s (fun t => others t ∧
      (t.links[k]? = some { l with retrain := true, sparesUp := l.sparesUp - 1 } ∨
        t.links[k]? = some { l with retrain := true, sparesDown := l.sparesDown - 1 }) ∧
      ∃ e ∈ t.agenda, e.ev = .linkRetrainComplete k ∧ e.at_ ≤ s.now + 2000 * nsTicks)) ∧
    (l.sparesUp = 0 → l.sparesDown = 0 → Happens (.linkRetrain k true) s (fun t => t.links[k]? = some { l with lost := true, retrain := false } ∧
      others t ∧ DueNow (.fatalError 1) t)) ∧
    (l.retrain = true → Happens (.linkRetrainComplete k) s (fun t => others t ∧ (t.links[k]? = some { l with retrain := false, fails := 0 } ∨
      t.links[k]? = some { l with lost := true, retrain := false } ∧ DueNow (.fatalError 1) t))) ∧
    (s.control.stopped = false → Happens (.fatalError c) s (fun t =>
      t.control = { s.control with stopped := true, fatal := true, dump := t.control.dump } ∧
      t.control.dump.map (fun r => (r.cause, r.time, r.die)) = (List.range 4).map (fun d => (c, s.now, d)) ∧
      (∀ r ∈ t.control.dump, r.lost = s.control.lostTags.filter (fun x => homeDie (x * 256) == r.die)) ∧
      t.agenda = [] ∧ t.outbox = s.outbox ++ [OutMsg.fatal c] ∧ t.me = s.me ∧ t.blk = s.blk)) ∧
    (s.control.stopped = true → exec (.fatalError c) s = .next s)

/-- 13 R236, R240 to R244, 19 R330: on a die at a drain point (the model's: no block resident, log entry 26) the carve changes and
near store starts over at zero, a spare slice or row goes into use; the copy of a worn channel takes 7 ms and then names the
spare; the scrubber counts what it corrects and poisons what it cannot; an error that a check cannot correct marks a slice sector,
an L1 sector, a word of local memory or a register, or the translation entry, and a line whose tag is lost is fatal. The model's
choices: findings in an L1, a window, a register or a translation entry come as PATROL_SCRUB too (log entry 54), and the cause of
a lost tag has the number 2 (log entry 27).
19 R308, R309, R333, R334: a link replays after a failure or a missing acknowledgement, as a free value says once more or with
success (log entry 56), and maps out a lane after eight in a row; a failed lane takes a spare of its direction, without one the
link is lost, which is fatal, as a retraining is that fails; a fatal error stops the package with FATAL and a dump for each die.
That a lost link's cause has the number 1 is the model's choice (log entry 27). -/
def Obligations.DieEvents : Prop :=
  Sys2Proof.Machine.SaysDieUnits_ ∧ Sys2Proof.Machine.SaysLinkEvents

/-- 21 R348 to R351, 02 R56: a session that holds the block stops its strands at their safe points, lets them go on (without the match check at the word where
they stopped), steps one, and reads and writes what it may while the strand is stopped; a halted strand can be read; a write to a strand that is not
stopped, one that would make m0 zero, or one that would change WID, is refused; a new PC makes another word the next one, to be fetched and checked.  The
model's choices: a refusal has code 2, for a strand whose step waits with its stall reason (log entry 28), and so has a write that R351 bars (log entry 37). -/
def Obligations.DebugEvents : Prop :=
  ∀ (s : State), s.graftLog = [] → Focused s → s.me.block = s.blk.id → s.blk.debug = true →
    let b := s.blk
    let k := s.me.id
    ((∀ t ∈ s.strandsOf b.id, t.wait ≠ .released ∧ t.wait ≠ .gang) → Happens (.debugStop b.id) s (fun t =>
      t.me = (if s.me.run = .running then { s.me.woken with run := .stopped, stepping := false, stopPc := s.me.pc } else s.me) ∧
      (∀ u ∈ t.strandsOf b.id, u.run ≠ .running))) ∧
    (s.me.run = .stopped → Happens (.debugContinue b.id) s (fun t =>
      t.me = { s.me with run := .running, matched := decide (s.me.pc = s.me.stopPc), stepping := false } ∧
      (∀ u ∈ t.strandsOf b.id, u.run ≠ .stopped ∧ u.stepping = false))) ∧
    (s.me.run = .stopped → Happens (.debugStep k) s (fun t =>
      t.me = { s.me with run := .running, matched := decide (s.me.pc = s.me.stopPc), stepping := true } ∧ t.blk = b ∧ t.strands = s.strands)) ∧
    (∀ q x, s.me.run = .running ∨ s.me.run = .exited → Happens (.debugStateAccess k (.write q x)) s (fun t =>
      t.outbox = s.outbox ++ [OutMsg.code 3 b.vd 2 (if s.me.stepping = true ∧ s.me.run = .running ∧ s.me.reason ≠ 0 then [BitVec.ofNat 8 s.me.reason] else [])] ∧
      t.me = s.me ∧ t.blk = b)) ∧
    (s.me.run = .halted → ∀ r < 56, 0 < r → ∀ x, s.me.s[r]? = some x → Happens (.debugStateAccess k (.read (.scalar r))) s (fun t =>
      t.outbox = s.outbox ++ [OutMsg.code 3 b.vd 0 (natBytes 8 x.toNat)] ∧ t.me = s.me ∧ t.blk = b)) ∧
    (s.me.run = .stopped →
      let told (code : Nat) (bs : List Byte) (t : State) : Prop := t.outbox = s.outbox ++ [OutMsg.code 3 b.vd code bs]
      (∀ r < 56, 0 < r → ∀ x, s.me.s[r]? = some x → Happens (.debugStateAccess k (.read (.scalar r))) s (fun t => told 0 (natBytes 8 x.toNat) t ∧
        t.me = s.me ∧ t.blk = b)) ∧
      (∀ r < 56, 0 < r → ∀ x, Happens (.debugStateAccess k (.write (.scalar r) x)) s (fun t => told 0 [] t ∧
        t.me = { Strand.putS r x s.me with corrupt := s.me.corrupt.filter (fun k => k != .scalar r) } ∧ t.blk = b)) ∧
      (∀ x, x.setWidth 32 &&& s.me.visible = 0 → Happens (.debugStateAccess k (.write (.mask 0) x)) s (fun t => told 2 [] t ∧ t.me = s.me)) ∧
      (∀ x, Happens (.debugStateAccess k (.write (.stack 0 1) x)) s (fun t => t.blk = b ∧ (x.setWidth 32 &&& s.me.visible = 0 → told 2 [] t ∧ t.me = s.me))) ∧
      (∀ x, s.me.flight = none → s.me.wait = .none → Happens (.debugStateAccess k (.write .pc x)) s (fun t => told 0 [] t ∧ t.blk = b ∧
        t.me = { s.me with pc := x, issued := false, latch := [], memWait := none, tretMask := none, fetch := [], reason := 0 })) ∧
      (∀ x, Happens (.debugStateAccess k (.write (.special 0) x)) s (fun t => told 2 [] t ∧ t.me = s.me)))

/-- 22 R366, 23 R372 to R376: power-on starts the package over (nothing due, no device listed, no alarm threshold, not ready), with NOFW where no image is at hand; a cold reset keeps
FATAL; the rails come up in R371's order and go down in the reverse order; an image that verifies starts the package, unless a link does not train, which is
fatal; a running firmware's successor that verifies may raise the minimum version; a power sample shows in PWR; the level goes up by one while the average of a
millisecond is over the limit; 105 °C makes THR show 12 or more, 115 °C stops all and raises ALARM; a status write clears ALARM with a 1 and sets FATAL.  The
model's choices (log entry 32): bring-up is one step, in which the timer stands at 0, the average is that of the last 100 samples, what stops at 115 °C is the agenda and
the rails, the least version comes with the successor's message; which rail, clock or link fails is a free value (log entries 7 and 57). -/
def Obligations.PhysicalEvents : Prop :=
  ∀ (s : State) (w c : Nat) (i : FirmwareImage), s.graftLog = [] →
    let up (t : State) (fatal : Bool) : Prop := t.agenda = [] ∧ t.vds = [] ∧ t.now = 0 ∧ t.dram = [] ∧ t.control.fatal = fatal ∧ t.control.ready = false ∧
      t.control.thr = 0 ∧ (t.control.rails = railOrder ∧ t.control.railLog = railOrder.map (Prod.mk true) ∧ t.control.nofw = true ∧ t.control.alarm = false ∨
        t.control.rails = [] ∧ t.control.alarm = true ∧ ∃ n, t.control.railLog = (railOrder.take n).map (Prod.mk true) ++ (railOrder.take n).reverse.map (Prod.mk false))
    (s.control.image = none → Happens .powerOn s (fun t => up t false) ∧ Happens .coldReset s (fun t => up t s.control.fatal)) ∧
    (s.control.rails = railOrder → s.control.nofw = true → i.keyOk = true → i.signedOk = true → s.control.minVersion ≤ i.version →
      Happens (.firmwareImageTransfer (.image i)) s (fun t => t.control.nofw = false ∧ t.control.image = some i ∧ t.control.version = i.version ∧
        t.control.firmware = some (Config.sha3 (i.body ++ i.signature)) ∧
        (t.control.ready = true ∧ (∃ v, t.vds = [v] ∧ v.mgmt = true ∧ v.enabled = true) ∧ (∀ k < 6, ∀ l, t.links[k]? = some l → l.lost = false) ∨
          t.control.ready = s.control.ready ∧ DueNow (.fatalError 1) t ∧ ∃ k < 6, ∃ l, t.links[k]? = some l ∧ l.lost = true))) ∧
    (∀ least, i.signedOk = false ∨ i.keyOk = false ∨ i.version < s.control.minVersion →
      exec (.firmwareImageTransfer (.image i)) s = .next s ∧ exec (.firmwareImageTransfer (.successor i least)) s = .next s) ∧
    (∀ least, s.control.ready = true → s.control.stopped = false → i.keyOk = true → i.signedOk = true → s.control.minVersion ≤ i.version →
      exec (.firmwareImageTransfer (.successor i least)) s =
        .next { s with control := { s.control with image := some i, minVersion := Nat.max s.control.minVersion least } }) ∧
    (∀ x : W32, exec (.firmwareImageTransfer (.status x)) s =
      .next { s with control := { s.control with alarm := s.control.alarm && !x.getLsbD 4, fatal := x.getLsbD 3 } }) ∧
    (w < 4096 → Happens (.powerSample w) s (fun t => t.control.pwr = BitVec.ofNat 12 w ∧ t.me = s.me ∧ t.control.thr = s.control.thr)) ∧
    (s.control.thr < 15 → Config.powerLimit * 100 < s.control.overLimit.sum → Happens .throttleStep s (fun t => t.control = { s.control with thr := s.control.thr + 1 })) ∧
    (s.control.overLimit.sum ≤ Config.powerLimit * 95 → Happens .throttleStep s (fun t => t.control = { s.control with thr := s.control.thr - 1 })) ∧
    (c < 115 → Happens (.thermalSample c) s (fun t => t.control = { s.control with temp := BitVec.ofNat 8 c, hot := decide (105 ≤ c) } ∧ t.me = s.me ∧
      (s.control.thr < 16 → t.control.status.toNat / 2 ^ 20 % 16 = if 105 ≤ c then Nat.max s.control.thr 12 else s.control.thr))) ∧
    (115 ≤ c → s.control.rails = railOrder → Happens (.thermalSample c) s (fun t => t.control.alarm = true ∧ t.control.rails = [] ∧
      t.control.railLog = s.control.railLog ++ railOrder.reverse.map (Prod.mk false) ∧
      t.control.stopped = true ∧ t.agenda = [] ∧ t.control.fatal = s.control.fatal ∧ t.control.dump = s.control.dump)) ∧
    exec .alarmClear s = .next { s with control := { s.control with alarm := false } } ∧
    exec .fatalClear s = .next { s with control := { s.control with fatal := false } }

/-! ## Events of beds, grafts, schedulers and measurement (12 R215 to R222; 15 R263, R264, R276; 17 R280 to R299; 21 R341, R345) -/

namespace Sys2Proof.Machine

/-- The strand, the block, the core and DRAM are as they were. -/
def Undisturbed (s t : State) : Prop := t.me = s.me ∧ t.blk = s.blk ∧ t.core = s.core ∧ t.dram = s.dram

/-- A bed keeps one count of each child. -/
def CountsOnce (b : Bed) : Prop := (b.copies.map Prod.fst).Nodup

/-- R215: the count that a node holds of a child. -/
def copyCount (b : Bed) (n : TreeNode) : Nat := ((b.copies.find? (fun e => decide (e.1 = n))).map Prod.snd).getD 0

/-- R216 step 3: a child of a node with offers, and none of the others with offers is nearer to where the sow comes from. -/
def NearestChild (o : SowOp) (b : Bed) (n k : TreeNode) : Prop :=
  k.parent = some n ∧ copyCount b k ≠ 0 ∧ ∀ j x, j.parent = some n → copyCount b j ≠ 0 → n ≠ .fabric → o.origin n = some x → x.distance k ≤ x.distance j

/-- A ring of a device has room: its control block and its next slot lie in unbound DRAM, apart, and the consumer's tail is behind its head. -/
def RoomAt (s : State) (vd base size head ctl slot : Nat) : Prop :=
  let tail := bytesNat (s.plainRead (ctl + 8) 8)
  0 < size ∧ s.deviceAddr vd .write base = some ctl ∧ s.deviceAddr vd .write (base + 64 + 32 * (head % size)) = some slot ∧ tail ≤ head ∧
    head < tail + size ∧ head < 2 ^ 64 ∧ slot % 32 = 0 ∧ ctl % 64 = 0 ∧ slot < nearBase ∧ ctl < nearBase ∧ Unbound s slot ∧ Unbound s ctl ∧ SlicesOnce s ∧ DramSorted s ∧
    slot / 64 ≠ ctl / 64 ∧ RoomAtHome s [slot / 256, ctl / 256]

/-- The cluster of a core does not drain (11 R210). -/
def NotDraining (s : State) (core : Nat) : Prop := ∀ x, (s.clusterOf (core / 8)).state ≠ .draining x

/-- What a hop of a sow waits for lets it go on: the drain of the cluster of the core where it stands, or the link between two dies. -/
def WayFree (s : State) (o : SowOp) : Prop :=
  (∀ c, o.node = .core c → NotDraining s c) ∧ ((∀ c, o.node ≠ .core c) → s.linkHeld o.hopFrom.onDie o.node.onDie = false)

/-- 15 R263: a run at its start. -/
def freshRun (encode : Bool) (size : Nat) (input : List Byte) (words : List W32) : XdRun :=
  { pc := 0, g := Vector.ofFn (fun k => if k.val = 15 then BitVec.ofNat 32 size else 0), ic := 0, oc := 0, eof := false, steps := 0, input := input,
    output := [], outlim := if encode then size - 66 else size, size := size, encode := encode, code := words.take 256, table := words.drop 256, ended := none }

/-- The slices have room for some bytes of DRAM, and neither they nor DRAM hold a mark or poison there. -/
def SoundBytes (s : State) (start size : Nat) : Prop :=
  SlicesOnce s ∧ DramSorted s ∧ RoomAtHome s ((List.range (size / 256)).map (fun k => start / 256 + k)) ∧ (∀ k ∈ s.poison, k < start / 64 ∨ (start + size) / 64 ≤ k) ∧
    ∀ l ∈ s.slices, start / 256 ≤ l.line → l.line < (start + size) / 256 → l.marks = 0 ∧ l.poison = 0

/-- R219: the sows of a bed's cold frame that stand there against its capacity. -/
def coldHeld (s : State) (b : Bed) : Nat := (b.frame.filter (fun k => ((s.sow? k).map (fun o => !o.returned)).getD false)).length

/-- What stands at an address of DRAM. -/
def HomeHas (t : State) (pa : Nat) (bs : List Byte) : Prop := ∀ j < bs.length, t.homeByte (pa + j) = bs[j]?.getD 0

end Sys2Proof.Machine

/-- 12 R215 to R222: a sow departs when no earlier ordered one stands before it; at a leaf it is accepted by the block that has offered longest, or
climbs, or bounces; at a node it goes to the nearest child with offers; at the root without any it parks, or is refused (by the cold capacity that the
bed had when it was issued, R229); a sow of a deleted bed ends; a report brings the child's count to its parent, 4 cc after its slot.  Two clauses are the
model's choices: a sow that comes back to its root starts anew there, without the distances of its sender (log entry 66), and one that a move of
its bed's root has left outside the root's subtree goes to the root (log entry 73). -/
def Obligations.SowEvents : Prop :=
  ∀ (s : State) (o : SowOp), s.graftLog = [] → s.sow? o.id = some o →
    (∀ b : Bed, o.gone = false → s.bed? o.bed = some b → b.foreign = none → CountsOnce b →
      let at_ (t : State) (o' : SowOp) : Prop := t.sow? o.id = some o' ∧ Undisturbed s t
      (o.phase = .held → (o.unord = true ∨ ∀ k ∈ s.sows, k.before o = false) → Happens (.sowSend o.id) s (fun t => (∃ e ∈ t.agenda, e.ev = .sowAtNode (.sow o.id)) ∧
        at_ t { o with phase := .climbing, fromCore := b.root.holds o.core, node := if b.root.holds o.core then .core o.core else b.root })) ∧
      (WayFree s o → o.phase = .climbing ∨ o.phase = .descending → o.node.chain.contains b.root = false → Happens (.sowAtNode (.sow o.id)) s (fun t =>
        at_ t { o with phase := .climbing, node := b.root, fromCore := false, bounced := none } ∧ ∃ e ∈ t.agenda, e.ev = .sowAtNode (.sow o.id))) ∧
      (∀ c, o.node = .core c → WayFree s o → o.node.chain.contains b.root = true →
        (s.accepter c b = none → o.phase = .climbing → Happens (.sowAtNode (.sow o.id)) s (fun t => at_ t
          { o with bounced := if o.bounced.isSome then some (.core c) else none, node := .cluster (c / 8) })) ∧
        (s.accepter c b = none → o.phase = .descending → Happens (.sowAtNode (.sow o.id)) s (fun t => at_ t
          { o with phase := .climbing, bounces := o.bounces + 1, bounced := some (.core c), node := .cluster (c / 8) })) ∧
        (∀ (k : Block) (e : Offer), o.phase = .climbing ∨ o.phase = .descending → s.accepter c b = some (k, e) → s.block? k.id = some k →
          e.spawn = false → Happens (.sowAtNode (.sow o.id)) s (fun t => t.sow? o.id = some { o with phase := .queued, bounced := none } ∧
            ((t.block? k.id).bind (fun k => k.offers.find? (fun f => f.bed == b.number))) = some { e with count := e.count - 1, queue := e.queue ++ [o.id] }))) ∧
      ((∀ c, o.node ≠ .core c) → (∀ p, o.node ≠ .peer p) → WayFree s o → o.node.chain.contains b.root = true → o.bounced = none → o.phase = .climbing ∨ o.phase = .descending →
        (∃ j, j.parent = some o.node ∧ copyCount b j ≠ 0) → Happens (.sowAtNode (.sow o.id)) s (fun t => ∃ k b', NearestChild o b o.node k ∧
          at_ t { o with phase := .descending, node := k } ∧ t.bed? o.bed = some b' ∧ ∀ j, copyCount b' j = if j = k then copyCount b k - 1 else copyCount b j)) ∧
      ((∀ c, o.node ≠ .core c) → (∀ p, o.node ≠ .peer p) → WayFree s o → o.node = b.root → o.phase = .climbing → o.bounced = none → (∀ j, j.parent = some o.node → copyCount b j = 0) →
        (o.parked = true ∨ o.returned = true ∨ coldHeld s b < b.coldFor o.id → o.cw = none → Happens (.sowAtNode (.sow o.id)) s (fun t =>
          at_ t { o with phase := .parked, parked := true, fromCore := o.fromCore && !o.returned } ∧
          t.bed? o.bed = some { b with frame := if o.parked || o.returned then o.id :: b.frame else b.frame ++ [o.id] })) ∧
        (b.coldFor o.id ≤ coldHeld s b → NotDraining s o.core → o.parked = false → o.returned = false → Happens (.sowAtNode (.sow o.id)) s (fun t => t.sow? o.id = none ∧
          ∀ off k, o.cw = some off → s.block? o.block = some k → (k.window.map Prod.fst).Pairwise (· < ·) → ∃ k', t.block? o.block = some k' ∧
            Memory.read k'.window off 8 = natBytes 8 (2 ^ 63 + 1 * 2 ^ 56 + Nat.min o.bounces 0xFFFF * 2 ^ 16)))) ∧
      (∀ (n p : TreeNode) (r : Report), n.parent = some p → s.linkHeld n.onDie p.onDie = false → p ≠ b.root → p ≠ .fabric →
        b.reports.find? (fun r => decide (r.node = n ∧ r.slot + 4 * ccTicks ≤ s.now)) = some r → Happens (.readinessReport n o.bed) s (fun t =>
        Undisturbed s t ∧ ∃ b', t.bed? o.bed = some b' ∧ (∀ j, copyCount b' j = if j = n then r.count else copyCount b j) ∧
        (b'.sum p ≠ b.sum p → (∃ q ∈ b'.reports, q.node = p ∧ q.count = b'.sum p) ∧
          ((∀ q ∈ b.reports, q.node = p → q.slot ≤ s.now) → ∃ e ∈ t.agenda, e.ev = .readinessReport p o.bed ∧ e.at_ ≤ s.now + 20 * ccTicks))))) ∧
    (o.gone = true ∨ s.bed? o.bed = none → o.accepted = false → o.phase = .climbing ∨ o.phase = .descending → WayFree s o → NotDraining s o.core →
      Happens (.sowAtNode (.sow o.id)) s (fun t => t.sow? o.id = none))

/-- 15 R263, R264, R268, R269, R271, R276: a run starts at word 0 on a block as it is stored, or on its plain bytes; a run whose next word would pass
the budget ends with BUDGET, every other run stays as it is.  A conversion sets the target in a region that does not stand under it, leaves one that
does, and takes its next unit, one target block, or the four that an old block of 1 KiB gives: the plain bytes stay, each block is stored by the
write-back sequence under the target, encoded where its payload decodes to it again, else raw, and NEXT goes on; one with a mark or poison in it gives STATUS 4; at the end of a region the
target replaces the pair; at its own end the completion word is written, at once or after the eviction of its block. -/
def Obligations.GraftEvents : Prop :=
  ∀ (s : State), s.graftLog = [] →
    (∀ line b v start n, s.blockAt (line * 256) = some (b, v, start) → b.code? start = some n → Happens (.transducerRun line false) s (fun t =>
      t = { s with xd := some (freshRun false v.size (Memory.read s.dram (start + 2) (bytesNat (Memory.read s.dram start 2) % 1024)) (s.imageWords v.dec)) })) ∧
    (∀ line b v start, s.blockAt (line * 256) = some (b, v, start) → (∀ x, start ≤ x → x < start + v.size → s.blockAt x = some (b, v, start)) →
      SoundBytes s start v.size → Happens (.transducerRun line true) s (fun t =>
        t.xd = some (freshRun true v.size (s.plainRead start v.size) (s.imageWords v.enc)) ∧ t.me = s.me ∧ t.blk = s.blk)) ∧
    (∀ (r : XdRun) (i : Instr), s.xd = some r → r.ended = none → xdDecode (r.code[r.pc]?.getD 0) = some i → exec .budget s =
      .next (if (if r.encode then 64 else 32) * r.size < r.steps + ((tableR265 i).map (fun x => x.cost r)).getD 1 then
        { s with xd := some { r with ended := some (.fault 3 0) } } else s)) ∧
    (s.xd = none → exec .budget s = .next s) ∧
    (∀ r : XdRun, s.xd = some r → r.ended ≠ none → exec .budget s = .next s) ∧
    (∀ (c : CopyOp), s.copy? c.id = some c → c.kind = .gconv → c.finished = false →
      (∀ (b : Binding) (rest : List Int), c.origin = (b.region : Int) :: rest → s.bindings.find? (fun k => (k.region : Int) == (b.region : Int)) = some b →
        let w := c.desc
        let met := b.enc = slice w 5 0 ∧ b.dec = slice w 13 8 ∧ b.blk1k = bit w 16 ∧ b.rawmode = bit w 17
        let entry (t : State) : Option Binding := t.bindings.find? (fun k => (k.region : Int) == (b.region : Int))
        let goesOn (t : State) : Prop := (∃ e ∈ t.agenda, e.ev = .gconvBlock c.id) ∧ t.me = s.me ∧ t.blk = s.blk
        let size := if b.blk2 then 1024 else 256
        let unit := Nat.max size (if b.blk1k then 1024 else 256)
        let start := b.region * 65536 + b.next * size
        let blocks := (List.range (unit / size)).map (fun k => start + k * size)
        let run (p : Nat) : XdRun := xdRunBlock true size (s.plainRead p size) (s.imageWords b.enc2)
        let back (p : Nat) : XdRun := xdRunBlock false size (run p).output (s.imageWords b.dec2)
        let fits (p : Nat) : Bool := decide ((run p).ended = some .success ∧ (back p).ended = some .success ∧ (back p).output = s.plainRead p size)
        (b.conv = false → met → Happens (.gconvBlock c.id) s (fun t => t.copy? c.id = some { c with origin := rest } ∧ t.bindings = s.bindings ∧ goesOn t ∧ t.dram = s.dram)) ∧
        (b.conv = false → ¬ met → Happens (.gconvBlock c.id) s (fun t => t.copy? c.id = some c ∧ goesOn t ∧ t.dram = s.dram ∧
          entry t = some { b with conv := true, next := 0, enc2 := slice w 5 0, dec2 := slice w 13 8, blk2 := bit w 16, raw2 := bit w 17 })) ∧
        (b.conv = true → 65536 ≤ b.next * size → Happens (.gconvBlock c.id) s (fun t => t.copy? c.id = some c ∧ goesOn t ∧ t.dram = s.dram ∧
          entry t = some { b with enc := b.enc2, dec := b.dec2, blk1k := b.blk2, rawmode := b.raw2, conv := false })) ∧
        (b.conv = true → b.next * size < 65536 → (b.blk1k = true → b.blk2 = false → b.next % 4 = 0) → SoundBytes s start unit → Quiet s →
          (∀ p n, start ≤ p → p < start + unit → b.code? p = some n →
            ∃ bs, s.decodeBlock { enc := b.enc, dec := b.dec, size := if b.blk1k then 1024 else 256, raw := b.rawmode } p n = .ok bs) →
          Happens (.gconvBlock c.id) s (fun t => goesOn t ∧ (∀ x, start ≤ x → x < start + unit → t.plainByte x = s.plainByte x) ∧
            t.copy? c.id = some { c with next := c.next + unit / size, rawn := c.rawn + (blocks.filter (fun p => !b.raw2 && !fits p)).length } ∧
            ∃ b', entry t = some b' ∧ b'.conv = true ∧ b'.next = b.next + unit / size ∧ ∀ p ∈ blocks,
              if b.raw2 = false ∧ fits p = true then
                Memory.read t.dram p (2 + (run p).output.length) = natBytes 2 (run p).output.length ++ (run p).output ∧
                  b'.code? p = some ((2 + (run p).output.length + 63) / 64 - 1)
              else Memory.read t.dram p size = s.plainRead p size ∧ b'.code? p = none)) ∧
        (∀ p ∈ blocks, ∀ l ∈ s.slices, p / 256 ≤ l.line → l.line < (p + size) / 256 → l.valid &&& (l.marks ||| l.poison) ≠ 0 → b.conv = true → b.next * size < 65536 →
          SlicesOnce s → DramSorted s → RoomAtHome s ((List.range (unit / 256)).map (fun k => start / 256 + k)) → (b.blk1k = true → b.blk2 = false → b.next % 4 = 0) →
          Happens (.gconvBlock c.id) s (fun t => ∃ c', t.copy? c.id = some c' ∧ c'.status = 4 ∧ c'.next = c.next + unit / size ∧ c'.origin = c.origin ∧
            (c.status = 4 → c'.taddr = c.taddr) ∧ (c.status ≠ 4 → unit = size →
              c'.taddr = c.lay.base + BitVec.ofNat 64 ((c.lay.ndim - c.origin.length) * 65536 + b.next * size))))) ∧
      (∀ (k : Block) (off : Nat), c.origin = [] → NotDraining s c.core → s.block? c.block = some k → c.cw = some off →
        (k.phase = .evicted → exec (.gconvBlock c.id) s = .next s) ∧
        (k.phase = .running → (k.window.map Prod.fst).Pairwise (· < ·) → Happens (.gconvBlock c.id) s (fun t => t.copy? c.id = none ∧
          ∃ k', t.block? c.block = some k' ∧ Memory.read k'.window off 8 =
            natBytes 8 (2 ^ 63 + c.status % 128 * 2 ^ 56 + Nat.min c.rawn (2 ^ 24 - 1) * 2 ^ 32 + c.next % 2 ^ 32)))))

/-- 17 R280 to R282, R286 to R299, 22 R354: a host's message enters its queue, with PRIV 1 on the owner's channel and else 0 (the model's choice, log
entry 29); the die takes messages, enters launches and steps
nodes; the ready pool places a group; a flush sends the oldest records in an instance; a node's end is recorded, counts down its successors' counters, unless it has failed, and fires one that comes to 0; one with re-arm takes its counter again;
records enter the ring and are notified, once more where a free value says that the notification was not delivered (log entry 58); the slices of a shared cluster follow each other; a group of lower priority gives way. -/
def Obligations.SchedulerEvents : Prop :=
  ∀ (s : State), s.graftLog = [] →
    (∀ (o : HostOp) (v : VDev) (q : WorkQueue), s.control.ready = true → s.control.stopped = false → s.openDies ≠ [] → s.hostOps = [] → (∀ k, o.conn = some k → k < 65536) → o.opcode = 0 → s.vd? o.vd = some v → v.enabled = true →
      o.secure = o.vd → o.length = 128 → o.payload.length = 128 → o.offset = 0 → s.queues.find? (fun q => q.vd == o.vd && q.vnum == o.index) = some q →
      q.msgs.length < 256 → (∀ p ∈ s.queues, p.num = q.num → p = q) → Happens (.workQueueMessage o) s (fun t => t.outbox = s.outbox ++ [OutMsg.code 0 o.vd 0 []] ∧ t.me = s.me ∧
        (t.queues.find? (fun p => p.num == q.num)).map (·.msgs) = some (q.msgs ++ [{ bytes := o.payload, at_ := s.now, priv := if o.ownerChannel then 1 else 0 }]) ∧
        ∃ e ∈ t.agenda, e.ev = .schedulerTake q.num ∧ e.at_ ≤ s.now + 6 * nsTicks)) ∧
    (∀ (q : WorkQueue) (m : Message) (n : Node), s.nextWork (q.num / 512) = some (.message q m) → s.tableRoom (q.num / 512) = true →
      messageBad m = false → recField m.bytes 8 1 = 1 → s.node? (recField m.bytes 10 2 / 2 ^ 14) (recField m.bytes 10 2 % 2 ^ 14) = some n → n.vd = q.vd → 2 ≤ n.counter →
      Happens (.schedulerTake q.num) s (fun t => t.node? n.die n.idx = some { n with counter := n.counter - 1 } ∧ Undisturbed s t ∧
        ∀ p ∈ t.queues, p.num = q.num → ∃ p0 ∈ s.queues, p = { p0 with msgs := p0.msgs.tail })) ∧
    (∀ (q : WorkQueue) (m : Message) (p : Plan) (s1 : State), s.nextWork (q.num / 512) = some (.message q m) → s.tableRoom (q.num / 512) = true →
      messageBad m = false → recField m.bytes 8 1 = 0 → 0 < (p.ext.drop 2).foldl (· * ·) 1 →
      (s.mapQueue q.num (fun q => { q with msgs := q.msgs.tail })).loadHeader q.vd q.priv (recField m.bytes 0 8) ((List.range 5).map (fun k => recField m.bytes (80 + 4 * k) 4)) = (.ok p, s1) →
      Happens (.schedulerTake q.num) s (fun t => ∃ l ∈ t.launches, l.vd = q.vd ∧ l.header = p.header ∧ l.tag = BitVec.ofNat 32 (recField m.bytes 12 4) ∧
        l.queue = some q.vnum ∧ l.args = (List.range 8).map (fun k => BitVec.ofNat 64 (recField m.bytes (16 + 8 * k) 8)) ∧ l.priv = q.priv ∧
        ∀ n < (p.ext.drop 2).foldl (· * ·) 1, ∃ k ∈ t.tasks, k.launch = l.idx ∧ k.die = l.die ∧ k.placed = false ∧ k.wid = groupTuple p.ext n ∧
          k.isRelaunch = false ∧ k.relaunch = 0 ∧ k.nrec = 0)) ∧
    (∀ (die : Nat) (n : Node) (i since : Nat) (rs : List (List Byte)) (rest : List (Nat × Nat × List (List Byte))), s.nextWork die = some (.inst n) →
      s.tableRoom die = true → s.node? n.die n.idx = some n → n.waiting = (i, since, rs) :: rest → Happens (.schedulerTake (die * 512)) s (fun t =>
        ∃ n', t.node? n.die n.idx = some n' ∧ n'.waiting = rest ∧ n'.counter = n.counter ∧ n'.recs = n.recs ∧ t.me = s.me ∧ t.blk = s.blk)) ∧
    (∀ (die : Nat) (k : Task), s.control.stopped = false →
      let s0 := s.readyClasses die
      (s0.waitingTasks die).find? s0.placeable = some k →
      (s0.evictedBlocks k ≠ [] → Happens (.readyPoolSow die) s (fun t =>
        (∀ j ∈ t.tasks, j.id = k.id → j.placed = true) ∧ ∀ b ∈ t.allBlocks, b.group = k.id → b.phase ≠ .evicted)) ∧
      (∀ l num v, s0.evictedBlocks k = [] → s0.launch? k.die k.launch = some l → k.cls = some num → s0.vd? l.vd = some v →
        (∀ site s1, s0.sowGroup l v num 16 = (some site, s1) → site.2.2 ≠ [] → Happens (.readyPoolSow die) s (fun t =>
          (∀ j ∈ t.tasks, j.id = k.id → j.placed = true) ∧ ∃ b ∈ t.blocks, b.group = k.id ∧ b.phase = .running ∧ b.core ∈ site.2.2)) ∧
        (∀ s1, s0.sowGroup l v num 16 = (none, s1) → Happens (.readyPoolSow die) s (fun t => t.tasks = s0.tasks ∧ t.allBlocks = s.allBlocks)))) ∧
    (∀ (n : Node) (r : List Byte × Nat × Nat) (rest : List (List Byte × Nat × Nat)), s.node? n.die n.idx = some n → n.recs = r :: rest → n.flush ≠ 0 → n.thresh ≠ 0 →
      r.2.1 + n.flush * 1000 * nsTicks ≤ s.now → n.waiting ≠ [] → Happens (.flushTimeout n.die n.idx) s (fun t => t.node? n.die n.idx =
        some { n with recs := n.recs.drop n.thresh, insts := n.insts + 1, running := n.running + 1, waiting := n.waiting ++ [(n.insts, s.now, (n.recs.take n.thresh).map (·.1))] } ∧
        Undisturbed s t)) ∧
    (∀ (n : Node) (v : VDev), s.node? n.die n.idx = some n → n.counter = 0 → n.recs = [] → n.running = 0 → n.done = false → s.vd? n.vd = some v →
      let named (t : State) (w : BitVec 16) : Option Node := t.node? (slice w 15 14) (slice w 13 0)
      let uses (w : BitVec 16) : Nat := (n.succ.filter (fun x => x == w)).length
      let ended (t : State) : Prop := t.node? n.die n.idx = some (if n.rearm = true ∧ n.failed = false then { n with counter := n.pred, done := false } else { n with done := true }) ∧
        Undisturbed s t ∧ DueNow (.completionRecord n.vd) t ∧ ∃ v' c, t.vd? n.vd = some v' ∧ v'.held = v.held ++ [c] ∧
        c.node = nodeWord n.die n.idx ∧ c.inst = BitVec.ofNat 32 n.insts ∧ (c.status = if n.failed then 1 else 0)
      (n.succ = [] ∨ n.failed = true → Happens (.nodeComplete n.die n.idx) s (fun t => ended t ∧ ∀ d i, ¬ (d = n.die ∧ i = n.idx) → t.node? d i = s.node? d i)) ∧
      (n.failed = false → (∀ w ∈ n.succ, ∃ m, named s w = some m ∧ m.vd = n.vd ∧ ¬ (m.die = n.die ∧ m.idx = n.idx) ∧ uses w < m.counter) →
        Happens (.nodeComplete n.die n.idx) s (fun t => ended t ∧ ∀ w ∈ n.succ, ∀ m, named s w = some m → named t w = some { m with counter := m.counter - uses w })) ∧
      (∀ w m, n.failed = false → n.succ = [w] → named s w = some m → m.vd = n.vd → ¬ (m.die = n.die ∧ m.idx = n.idx) → m.counter = 1 → m.recs = [] →
        (m.thresh ≠ 0 → m.running = 0 → m.done = false → Happens (.nodeComplete n.die n.idx) s (fun t => ended t ∧ named t w = some { m with counter := 0 } ∧ DueNow (.nodeComplete m.die m.idx) t)) ∧
        (m.thresh = 0 → s.tableRoom m.die = false → Happens (.nodeComplete n.die n.idx) s (fun t => ended t ∧
          named t w = some { m with counter := 0, insts := m.insts + 1, running := m.running + 1, waiting := m.waiting ++ [(m.insts, s.now, [])] })))) ∧
    (∀ (v : VDev), s.vd? v.num = some v →
      let again : Option Nat := if v.notifyT = 0 then none else some s.now
      (v.notifyNow s.now = true → v.mailOut = [] → Happens (.notification v.num) s (fun t => Undisturbed s t ∧
        (t.outbox = s.outbox ++ [OutMsg.notice v.num v.notifyTo 0 (BitVec.ofNat 64 v.ringHead)] ∧
            t.vd? v.num = some { v with sinceN := 0, sinceAt := none, owed := false, mailHeld := false } ∨
          t.outbox = s.outbox ∧ t.vd? v.num = some { v with sinceN := 0, sinceAt := again, owed := true, mailHeld := false }))) ∧
      (v.notifyNow s.now = false → v.mailHeld = false → Happens (.notification v.num) s (fun t => Undisturbed s t ∧ ∃ j ≤ v.mailOut.length,
        t.outbox = s.outbox ++ (v.mailOut.take j).map (fun x => OutMsg.notice v.num v.notifyTo 1 x) ∧
        t.vd? v.num = some { v with mailOut := v.mailOut.drop j, mailHeld := decide (j < v.mailOut.length),
                                    sinceAt := if j < v.mailOut.length then again else v.sinceAt })) ∧
      (∀ (c : Completion) (rest : List Completion) (ctl slot : Nat), v.held = c :: rest → RoomAt s v.num v.ringBase.toNat v.ringCount v.ringHead ctl slot →
        Happens (.completionRecord v.num) s (fun t => HomeHas t slot (Completion.bytes c) ∧ HomeHas t ctl (natBytes 8 (v.ringHead + 1)) ∧ t.me = s.me ∧ t.blk = s.blk ∧
          ∃ v', t.vd? v.num = some v' ∧ v'.ringHead = v.ringHead + 1 ∧ v'.held = rest ∧ v'.sinceN = v.sinceN + 1))) ∧
    (∀ die, (s.waitingTasks die ≠ [] → Happens (.aging die) s (fun t => DueNow (.readyPoolSow die) t ∧ Undisturbed s t)) ∧
      (s.waitingTasks die = [] → s.nextWork die = none → s.classes = [] → exec (.aging die) s = .next s)) ∧
    (∀ (cl : Nat) (o : VDev), (s.clusterOf cl).context = some o.num → (s.clusterOf cl).incoming = none → s.vd? o.num = some o →
      (s.vds.find? (fun v => v.num != o.num && v.enabled && s.wants cl v) = none → s.residentOn cl = [] → Happens (.sliceEnd cl) s (fun t =>
        (t.clusterOf cl).context = none ∧ Undisturbed s t)) ∧
      (s.vds.find? (fun v => v.num != o.num && v.enabled && s.wants cl v) = none → s.residentOn cl ≠ [] → Happens (.sliceEnd cl) s (fun t =>
        (t.clusterOf cl).context = some o.num ∧ (t.clusterOf cl).sliceAt = s.now ∧ Undisturbed s t ∧
        ∃ e ∈ t.agenda, e.ev = .sliceEnd cl ∧ e.at_ ≤ s.now + o.slice * 1000 * nsTicks)) ∧
      (∀ v, s.vds.find? (fun v => v.num != o.num && v.enabled && s.wants cl v) = some v → s.residentOn cl ≠ [] → Happens (.sliceEnd cl) s (fun t =>
        (t.clusterOf cl).context = some o.num ∧ (t.clusterOf cl).incoming = some v.num ∧ Undisturbed s t ∧ ∀ b ∈ s.residentOn cl, DueNow (.evictionRequest b.id) t))) ∧
    (∀ (die : Nat) (vs : List (Task × Block)), (∀ b ∈ s.allBlocks, b.die = die → b.phase ≠ .stopping ∧ b.phase ≠ .draining ∧ b.phase ≠ .saving) →
      ((s.waitingTasks die).filter (fun t => !s.placeable t)).findSome? (fun t => (s.displaced t).filter (fun vs => decide (vs ≠ []))) = some vs → Happens (.preEmption die) s (fun t =>
        Undisturbed s t ∧ ∀ v ∈ vs, DueNow (.evictionRequest v.2.id) t))

/-- 21 R341, R345: a core samples the next occupied slot and its next sample comes 2^K ac later; a snapshot of the counters is
16 records, or none where the ring has no room for them. -/
def Obligations.MeasureEvents : Prop :=
  ∀ (s : State), s.graftLog = [] →
    (∀ core, (∀ t ∈ s.allStrands, s.sampleable core t = false) → (s.samplePeriod core = none → exec (.sample core) s = .next s) ∧
      (∀ k, s.samplePeriod core = some k → Happens (.sample core) s (fun t => Undisturbed s t ∧ ∃ e ∈ t.agenda, e.ev = .sample core ∧ e.at_ ≤ s.now + 2 ^ k * acTicks))) ∧
    (∀ core (t : Strand) (b : Block) (v : VDev), nextSlot (s.coreOf core).lastSampled (s.allStrands.filter (s.sampleable core)) = some t → s.block? t.block = some b →
      s.vd? b.vd = some v → (s.coreOf core).id = core → t.reason < 16 → ∀ ctl slot, RoomAt s v.num v.measure.sample.base.toNat v.measure.sample.size v.measure.sample.head ctl slot →
      Happens (.sample core) s (fun u => (u.coreOf core).lastSampled = t.slot % 32 ∧ u.me = s.me ∧ u.blk = s.blk ∧ HomeHas u ctl (natBytes 8 (v.measure.sample.head + 1)) ∧
        (∃ v', u.vd? v.num = some v' ∧ v'.measure.sample.head = v.measure.sample.head + 1) ∧ ∃ why < 16, HomeHas u slot (natBytes 8 s.timeNs.toNat ++ natBytes 8 (if why = 0 then t.issuedPc else t.pc).toNat ++
          natBytes 8 t.wid.toNat ++ natBytes 2 (s.placeOf b.vd b.core).toNat ++ [BitVec.ofNat 8 (t.slot % 32), BitVec.ofNat 8 (b.index % 32),
            BitVec.ofNat 8 (why + if t.tmasked then 16 else 0), BitVec.ofNat 8 t.role, BitVec.ofNat 8 b.vd, 0]))) ∧
    (∀ (v : VDev), s.vd? v.num = some v →
      let m := v.measure
      let written (s : State) : State := s.mapVd v.num (fun w => { w with measure := { w.measure with snapReq := false } })
      (m.snapReq = false → m.snapAt = none → exec (.counterSnapshot v.num) s = .next s) ∧
      (m.snapReq = true → m.een = false ∨ m.event.size = 0 → exec (.counterSnapshot v.num) s = .next (written s)) ∧
      (∀ used, m.snapReq = true → m.een = true → 0 < m.event.size → s.ringUsed v.num m.event = some used → used + 16 ≤ m.event.size →
        Happens (.counterSnapshot v.num) s (fun t => t = (written ((List.range 16).foldl (fun s i => s.event v.num 4 (2 * i) 0 0
          (natBytes 8 (m.count[2 * i]?.getD 0).toNat ++ natBytes 8 (m.count[2 * i + 1]?.getD 0).toNat)) s)).writeGraftLog)) ∧
      (m.snapReq = true → m.een = true → 0 < m.event.size →
        s.ringUsed v.num m.event = none ∨ (∃ used, s.ringUsed v.num m.event = some used ∧ used ≤ m.event.size ∧ m.event.size < used + 16) →
        Happens (.counterSnapshot v.num) s (fun t => t.me = s.me ∧ t.blk = s.blk ∧ ∃ v', t.vd? v.num = some v' ∧
          v'.measure.event.head = m.event.head ∧ v'.measure.event.dropping = true ∧ v'.measure.snapReq = false ∧
          (s.deviceAddr v.num .write (m.event.base.toNat + 16) ≠ none → v'.measure.event.drops = Nat.min (m.event.drops + 16) (2 ^ 64 - 1)) ∧
          (s.deviceAddr v.num .write (m.event.base.toNat + 16) = none → v'.measure.event.drops = m.event.drops ∧ Undisturbed s t))) ∧
      (∀ x, m.snapReq = false → m.snapAt = some x → x ≤ s.now → Happens (.counterSnapshot v.num) s (fun t => t.me = s.me ∧ t.blk = s.blk ∧
        (∃ v', t.vd? v.num = some v' ∧ v'.measure.snapAt = some (s.now + 2 ^ m.snapj * 1000 * nsTicks)) ∧
        ∃ e ∈ t.agenda, e.ev = .counterSnapshot v.num ∧ e.at_ ≤ s.now + 2 ^ m.snapj * 1000 * nsTicks)))

/-! ## Events of hosts, of the management port and of the fabric (22 R353 to R369; 19 R311, R312) -/

namespace Sys2Proof.Machine

/-- A management command of 64 bytes that this package can take, in its turn, for the device that its byte 1 names (22 R354, R356, R357). -/
def CommandFor (s : State) (c : MgmtCmd) (code : Nat) (v : VDev) : Prop :=
  s.control.ready = true ∧ s.control.stopped = false ∧ s.openDies ≠ [] ∧ (c.conn = none ∨ s.hostOps = []) ∧
    (∀ k, c.conn = some k → k < 65536) ∧ (s.hostOps.filter (fun h => h.op.vd == v.num)).length < 4096 ∧ c.opcode = 3 ∧ c.index = 0 ∧ c.offset = 0 ∧
    c.length = 64 ∧ c.bytes.length = 64 ∧ recField c.bytes 0 1 = code ∧ recField c.bytes 1 1 = v.num ∧ v.num < 64 ∧
    s.vd? v.num = some v

/-- Sent by the owner of the device that it names. -/
def FromOwner (c : MgmtCmd) (v : VDev) : Prop := c.operator = false ∧ c.sender = v.num

/-- Sent by the operator: through the management device, or before there is one (log entry 1). -/
def FromOperator (s : State) (c : MgmtCmd) : Prop :=
  c.operator = true ∧ ((∀ v ∈ s.vds, v.mgmt = false) ∨ ∃ u, s.vd? c.sender = some u ∧ u.mgmt = true)

/-- Bytes of a command that its map leaves reserved are 0. -/
def ReservedZero (c : MgmtCmd) (used : Nat → Bool) : Prop := ∀ k, 2 ≤ k → k < 64 → used k = false → c.bytes[k]?.getD 0 = 0

/-- The command is answered, and nothing but its device changes. -/
def Answered (s : State) (v : VDev) (code : Nat) (data : List Byte) (v' : VDev) (t : State) : Prop :=
  t.outbox = s.outbox ++ [OutMsg.code 3 v.num code data] ∧ t.vd? v.num = some v' ∧ (∀ n, n ≠ v.num → t.vd? n = s.vd? n) ∧ t.me = s.me ∧ t.blk = s.blk ∧ t.core = s.core

end Sys2Proof.Machine

/-- 22 R355, R356, 19 R311: a window operation of at most a sector that its window admits and whose page is there writes or reads its bytes at the device's addresses,
and is answered with code 0; without such a window the answer is 1; outside it, or where the window does not permit it, 2; an op that is not the
kind's is malformed, 5: which code answers which fault, and their order, are the model's choice (log entry 31). -/
def Obligations.WindowEvents : Prop :=
  ∀ (s : State) (o : HostOp) (v : VDev), s.graftLog = [] → s.control.ready = true → s.control.stopped = false → s.openDies ≠ [] → s.hostOps = [] → s.vd? o.vd = some v → v.enabled = true →
    (∀ k, o.conn = some k → k < 65536) → o.peer = none → o.secure = o.vd → o.length < 2 ^ 32 →
    (∀ w e, v.windows.find? (fun w => w.num == o.index) = some w → w.any = true → 0 < o.length →
      let va := w.base.toNat + o.offset
      let pa := e.addr va
      o.offset + o.length ≤ w.size.toNat → va % 64 + o.length ≤ 64 → va < 2 ^ 56 → (∀ d < 4, s.tlbHit [.die d] true o.vd false va = some { e with place := .die d }) → pa % 64 = va % 64 → pa < nearBase → Unbound s pa →
      (∀ d < 4, s.readsHeld d [pa] = false) → SlicesOnce s → DramSorted s → s.backed pa = true → (∀ k ∈ s.tlb, k.bad = false) → RoomAtHome s [pa / 256] →
      (o.opcode = 1 → w.w = true → o.payload.length = o.length → s.permits 1 .write e va = true → Happens (.windowWrite o) s (fun t => HomeHas t pa o.payload ∧ t.hostOps = [] ∧
        t.outbox = s.outbox ++ [OutMsg.code 1 o.vd 0 []] ∧ t.me = s.me ∧ t.blk = s.blk)) ∧
      (o.opcode = 2 → w.r = true → o.payload = [] → s.permits 1 .read e va = true → e.raw = false → s.homePoison pa = false → s.homeMark pa = false → pa / 64 ∉ s.poison → (s.sliceLine (pa / 256)).use = 0 →
        Happens (.windowRead o) s (fun t => t.hostOps = [] ∧ t.me = s.me ∧ t.blk = s.blk ∧ t.outbox = s.outbox ++ [OutMsg.code 2 o.vd 0
          ((List.range o.length).map (fun k => let x := pa + k; if bit (s.sliceLine (pa / 256)).valid (x / 64 % 4) then Memory.get (s.sliceLine (pa / 256)).cells x else Memory.get s.dram x))]))) ∧
    (o.opcode = 2 → v.windows.find? (fun w => w.num == o.index) = none → o.payload = [] → Happens (.windowRead o) s (fun t => t.outbox = s.outbox ++ [OutMsg.code 2 o.vd 1 []] ∧ t.hostOps = [] ∧ Undisturbed s t)) ∧
    (o.opcode ≠ 2 → Happens (.windowRead o) s (fun t => t.outbox = s.outbox ++ [OutMsg.code 2 o.vd 5 []] ∧ t.hostOps = [] ∧ Undisturbed s t)) ∧
    (∀ w, o.opcode = 1 → v.windows.find? (fun w => w.num == o.index) = some w → w.size.toNat < o.offset + o.length ∨ w.w = false → o.payload.length = o.length → Happens (.windowWrite o) s (fun t =>
      t.outbox = s.outbox ++ [OutMsg.code 1 o.vd 2 []] ∧ t.hostOps = [] ∧ Undisturbed s t))

/-- 22 R357 to R363, R368, 19 R311, R312: each management command, sent by whom the spec lets send it with the fields in their ranges, has its
effect on its device and is answered with code 0 (ATTEST with the report and the 4,627 bytes of its signature); a malformed one is answered with 5, one of
the wrong sender with 2; neither changes anything (that the form is looked at before the sender, and which fault gets which code, are the model's choice: log entry 31); once the package has stopped the operator gets the dump (with code 1, the model's choice: log entry 27). -/
def Obligations.ManagementCommands : Prop :=
  ∀ (s : State) (c : MgmtCmd) (v : VDev), s.graftLog = [] →
    let f (off n : Nat) : Nat := recField c.bytes off n
    (CommandFor s c 1 v → FromOwner c v → v.enabled = true → ReservedZero c (fun k => (8 ≤ k && k < 10) || (16 ≤ k && k < 49)) → f 8 1 ≤ 63 → f 9 1 < 16 → f 16 8 % 65536 = 0 →
      f 24 8 % 65536 = 0 → f 48 1 ≤ 63 → (f 9 1 / 8 % 2 = 1 → f 32 16 = 0 ∧ f 48 1 = 0) → Happens (.window c) s (fun t => ∃ w : Window, Answered s v 0 []
        { v with windows := v.windows.filter (fun k => k.num != f 8 1) ++ (if f 9 1 / 4 % 2 = 1 then [w] else []) } t ∧ w.num = f 8 1 ∧ w.base = BitVec.ofNat 64 (f 16 8) ∧ w.size = BitVec.ofNat 64 (f 24 8) ∧
        (w.r = true ↔ f 9 1 % 2 = 1) ∧ (w.w = true ↔ f 9 1 / 2 % 2 = 1) ∧ (w.any = true ↔ f 9 1 / 8 % 2 = 1) ∧ w.peer = (BitVec.ofNat 128 (f 32 16), f 48 1) ∧ w.cmd = c.bytes.drop 1)) ∧
    (∀ j < 17, s.bindings = [] → CommandFor s c 2 v → FromOwner c v → v.enabled = true → ReservedZero c (fun k => (8 ≤ k && k < 20)) → f 8 8 % 64 = 0 → f 16 4 = 2 ^ (j + 4) → Happens (.ring c) s (fun t =>
      Answered s v 0 [] { v with ringBase := BitVec.ofNat 64 (f 8 8), ringCount := f 16 4, ringHead := 0 } t)) ∧
    (CommandFor s c 3 v → FromOwner c v → v.enabled = true → ReservedZero c (fun k => (8 ≤ k && k < 36)) → 1 ≤ f 32 2 → f 32 2 ≤ 256 → Happens (.notify c) s (fun t =>
      Answered s v 0 [] { v with notifyTo := (c.bytes.drop 8).take 24, notifyN := f 32 2, notifyT := f 34 2 } t)) ∧
    (CommandFor s c 4 v → FromOwner c v ∨ FromOperator s c → v.enabled = true → ReservedZero c (fun k => k == 8 || (16 ≤ k && k < 24)) → f 8 1 ≤ 1 → (FromOwner c v → f 16 8 = 0) → Happens (.debug c) s (fun t =>
      Answered s v 0 [] { v with debug := decide (f 8 1 = 1), microVds := if f 8 1 = 1 then BitVec.ofNat 64 (f 16 8) else 0 } t)) ∧
    (CommandFor s c 5 v → FromOwner c v ∨ FromOperator s c → v.enabled = true → ReservedZero c (fun k => (8 ≤ k && k < 40)) → Happens (.attest c) s (fun t => ∃ body,
      Answered s v 0 (body ++ identitySign (Config.sha3 body)) v t ∧ (identitySign (Config.sha3 body)).length = 4627 ∧ body.take 40 = natBytes 8 (1 + if Config.form then 256 else 0) ++ (c.bytes.drop 8).take 32 ∧
      (body.drop 40).take 64 = natBytes 64 (s.control.firmware.getD 0).toNat ∧ body.drop 232 = natBytes 8 s.timeNs.toNat ++ natBytes 8 s.control.version)) ∧
    (CommandFor s c 6 v → FromOperator s c → v.enabled = false → (Descriptor.of c.bytes).ok c.bytes = true → s.descriptorRefused v.num (Descriptor.of c.bytes) = false → Happens (.vdcfg c) s (fun t =>
      (f 16 8 ≠ v.s1root.toNat ∨ f 8 8 ≠ v.s2root.toNat → ∀ e ∈ t.tlb, e.vd ≠ v.num) ∧ Answered s v 0 [] { v with enabled := decide (f 37 1 % 2 = 1), mgmt := decide (f 37 1 / 2 % 2 = 1), s2root := BitVec.ofNat 64 (f 8 8), s1root := BitVec.ofNat 64 (f 16 8), ipalim := BitVec.ofNat 64 (f 24 8), x0 := f 32 2 % 8, y0 := f 32 2 / 8 % 8, width := f 32 2 / 64 % 8 + 1, height := f 32 2 / 512 % 8 + 1, gquota := f 36 1, slice := if f 40 4 = 0 then 2000 else f 40 4, shared := BitVec.ofNat 64 (f 48 8), cmd := c.bytes.drop 1 } t)) ∧
    (CommandFor s c 7 v → FromOperator s c → ReservedZero c (fun k => k == 8 || k == 9 || (16 ≤ k && k < 33)) → f 8 1 ≤ 31 → f 9 1 ≤ 1 → f 32 1 ≤ 63 → Happens (.fabbed c) s (fun t =>
      Answered s v 0 [] { v with peers := v.peers.filter (fun q => q.idx != f 8 1) ++ (if f 9 1 = 1 then [{ idx := f 8 1, addr := BitVec.ofNat 128 (f 16 16), vd := f 32 1, cmd := c.bytes.drop 1, reachable := !s.control.lostPeers.contains (BitVec.ofNat 128 (f 16 16)) }] else []) } t)) ∧
    (CommandFor s c 8 v → FromOperator s c → ReservedZero c (fun k => (8 ≤ k && k < 14)) → f 8 2 ≤ 2047 → f 11 1 ≤ 2 → f 12 2 ≤ 2047 →
      (f 10 1 = 0 → Happens (.queue c) s (fun t => t.queues = s.queues.filter (fun q => q.num != f 8 2) ∧ Answered s v 0 [] v t)) ∧
      (f 10 1 = 1 → f 11 1 ≠ 2 ∨ v.mgmt = true → (∀ q ∈ s.queues, q.num ≠ f 8 2 → ¬(q.vd = v.num ∧ q.vnum = f 12 2)) → Happens (.queue c) s (fun t => Answered s v 0 [] v t ∧
        ∃ q ∈ t.queues, q.num = f 8 2 ∧ q.vd = v.num ∧ q.vnum = f 12 2 ∧ q.priv = f 11 1 ∧ q.cmd = (c.bytes.drop 1).take 15))) ∧
    (CommandFor s c 9 v → FromOwner c v → v.enabled = true → 1 ≤ f 8 1 → f 8 1 ≤ 6 → ReservedZero c (fun k => k == 8 || (16 ≤ k && k < 16 + 8 * f 8 1)) →
      (v.mailIn.length + f 8 1 ≤ 64 → Happens (.mailbox c) s (fun t => Answered s v 0 [] { v with mailIn := v.mailIn ++ (List.range (f 8 1)).map (fun k => BitVec.ofNat 64 (f (16 + 8 * k) 8)) } t)) ∧
      (64 < v.mailIn.length + f 8 1 → Happens (.mailbox c) s (fun t => Answered s v 4 [] v t))) ∧
    (s.control.ready = true → s.control.stopped = false → s.openDies ≠ [] → s.hostOps = [] → (∀ k, c.conn = some k → k < 65536) → c.bytes.length ≠ 64 → ∀ i ∈ [Instr.window c, .ring c, .notify c, .debug c, .attest c, .vdcfg c, .fabbed c, .queue c, .mailbox c],
      exec i s = .next { s with outbox := s.outbox ++ [OutMsg.code 3 (f 1 1) 5 []] }) ∧
    (s.control.stopped = true → s.openDies ≠ [] → (∀ k, c.conn = some k → k < 65536) → FromOperator s c → ∀ i ∈ [Instr.window c, .ring c, .notify c, .debug c, .attest c, .vdcfg c, .fabbed c, .queue c, .mailbox c],
      exec i s = .next { s with outbox := s.outbox ++ [OutMsg.code 3 (f 1 1) 1 []] ++ s.control.dump.map OutMsg.dump }) ∧
    (CommandFor s c 9 v → s.hostOps = [] → FromOperator s c ∨ c.sender ≠ v.num → 1 ≤ f 8 1 → f 8 1 ≤ 6 → ReservedZero c (fun k => k == 8 || (16 ≤ k && k < 16 + 8 * f 8 1)) →
      exec (.mailbox c) s = .next { s with outbox := s.outbox ++ [OutMsg.code 3 v.num 2 []] })

/-- 22 R353, R363 to R365, 12 R228: a peer's sow for a bed whose root stands in this package's fabric unit comes to that root, one for no bed is answered
REFUSED_GONE; a peer's report overwrites the count of the root's child; a peer out of reach, toward which the sows on their way end and the remote copies meet UNREACHABLE, or within it again; a registration that a
listed pair sends is taken, another one refused, and the root has the answer; a lane's failure takes the spare, a second one narrows the port, which leaves service at its drain point (the model's, log entry 26). -/
def Obligations.FabricEvents : Prop :=
  ∀ (s : State), s.graftLog = [] →
    (∀ (p k : Nat) (b : Bed) (v : VDev), s.bed? b.number = some b → b.root = .fabric → b.foreign = none → b.frame = [] → CountsOnce b → s.vd? b.part = some v → (∃ q ∈ v.peers, q.idx = p ∧ q.reachable = true) →
      Happens (.fabricReadinessReport p b.number k) s (fun t => Undisturbed s t ∧ ∃ b', t.bed? b.number = some b' ∧ ∀ j, copyCount b' j = if j = .peer p then k else copyCount b j)) ∧
    (∀ addr, Happens (.peerReachable addr) s (fun t => Undisturbed s t ∧ t.control.lostPeers.contains addr = false ∧ t.beds = s.beds ∧ (∀ v ∈ t.vds, ∀ p ∈ v.peers, p.addr = addr → p.reachable = true) ∧
      ∀ n v, s.vd? n = some v → ∃ v', t.vd? n = some v' ∧ v'.peers.map (·.addr) = v.peers.map (·.addr))) ∧
    (∀ addr, (∀ c, NotDraining s c) → Happens (.peerUnreachable addr) s (fun t => t.control.lostPeers.contains addr = true ∧ (∀ v ∈ t.vds, ∀ p ∈ v.peers, p.addr = addr → p.reachable = false) ∧ t.core = s.core ∧ t.dram = s.dram ∧
      (∀ b ∈ t.beds, ∀ p v, s.vd? b.part = some v → (∃ q ∈ v.peers, q.idx = p ∧ q.addr = addr) → copyCount b (.peer p) = 0) ∧
      (∀ o ∈ s.sows, ∀ p b v, o.phase = .abroad (some p) → o.accepted = false → s.bed? o.bed = some b → s.vd? b.part = some v → (∃ q ∈ v.peers, q.idx = p ∧ q.addr = addr) →
        ∀ x ∈ t.sows, x.id ≠ o.id) ∧
      ∀ c ∈ s.copies, ∀ pull, c.kind = .cpx pull → (RemoteTarget.of c.remote).addr = addr → c.finished = false → c.status = 0 →
        (∃ c' ∈ t.copies, c'.id = c.id ∧ c'.status = 6) ∧ DueNow (.copyComplete c.id) t)) ∧
    (∀ (r : PeerDevice) (v : VDev) (bed : BitVec 32), s.vd? v.num = some v → v.enabled = true →
      ((∃ p ∈ v.peers, p.addr = r.addr ∧ p.vd = r.vd) → s.bed? bed = none → s.beds.length < 4096 → Happens (.bedRegistration r v.num bed) s (fun t => Undisturbed s t ∧
        t.outbox = s.outbox ++ [OutMsg.registered r.addr r.vd bed true] ∧
        ∃ b, t.beds = s.beds ++ [b] ∧ b.number = bed ∧ b.part = v.num ∧ b.root = .fabric ∧ b.scope = 5 ∧ b.foreign = some r.addr)) ∧
      ((∀ p ∈ v.peers, ¬ (p.addr = r.addr ∧ p.vd = r.vd)) ∨ s.bed? bed ≠ none → exec (.bedRegistration r v.num bed) s =
        .next { s with outbox := s.outbox ++ [OutMsg.registered r.addr r.vd bed false] })) ∧
    (∀ (p : PeerSow), s.bed? p.bed = none → exec (.sowAtNode (.incoming p)) s = .next { s with outbox := s.outbox ++ [OutMsg.sowEnd p.addr p.bed 2] }) ∧
    (∀ (p : PeerSow) (b : Bed) (v : VDev), s.bed? p.bed = some b → b.foreign = none → b.root = .fabric → s.vd? b.part = some v →
      (∃ q ∈ v.peers, q.addr = p.addr ∧ q.reachable = true) → 1 ≤ p.payload.length → p.payload.length ≤ 8 → Happens (.sowAtNode (.incoming p)) s (fun t =>
        Undisturbed s t ∧ t.outbox = s.outbox ∧ ∃ x, t.sows = s.sows ++ [x] ∧ x.bed = p.bed ∧ x.payload = p.payload ∧ x.unord = p.unord ∧ x.node = .fabric ∧
          x.phase = .climbing ∧ x.foreign = some p.addr ∧ x.from_ s.blk.core = 0 ∧ DueNow (.sowAtNode (.sow x.id)) t)) ∧
    (∀ (k : Nat) (p : Port), (h : k < 8) → s.ports[k] = p → p.inService = true →
      let others (t : State) : Prop := Undisturbed s t ∧ ∀ j, j ≠ k → t.ports[j]? = s.ports[j]?
      (p.spare = false → Happens (.portLaneFailure k) s (fun t => others t ∧ t.ports[k] = { p with spare := true })) ∧
      (p.spare = true → Happens (.portLaneFailure k) s (fun t => others t ∧ t.ports[k] = { p with narrowed := true } ∧ ∃ e ∈ t.agenda, e.ev = .portOutOfService k)) ∧
      (p.narrowed = true → s.hostOps = [] → Happens (.portOutOfService k) s (fun t => others t ∧ t.ports[k] = { p with inService := false } ∧ t.outbox = s.outbox ++ [OutMsg.retired 3 (k / 2) k])))

/-! ## The encoding, the step, reset (01 R12, R13, R22; 02 R39, R56; 07 R378; 15 R264, R265; 19 R333; 21 R349; 23 R376) -/

namespace Sys2Proof.Machine

/-- A part of a word that reads or writes a port (19 R322, R323, R329; 21 R347; 22 R360): it belongs to a strand's word. -/
def isPortStep (i : Instr) : Bool :=
  match i with
  | .qpageRead _ | .qpageWrite _ | .qfaultRead _ | .qeventWrite _ | .qeventRead _ | .qmgmtRead _ | .qmgmtWrite _ => true
  | _ => false

/-- What a unit of the package does by itself: no word of a strand, of a transducer, and no part of one. -/
def UnitEvent (i : Instr) : Prop := i.isWord = false ∧ isPortStep i = false ∧ ∀ w, xdDecode w ≠ some i

/-- No two strands have one identity. -/
def StrandsOnce (s : State) : Prop := s.strands.Pairwise (fun a b => a.id ≠ b.id) ∧ ∀ t ∈ s.strands, t.id ≠ s.me.id

/-- The package has been stopped: no strand issues and nothing is due. -/
def Stopped (s : State) : Prop := s.control.stopped = true ∧ s.agenda = []

end Sys2Proof.Machine

/-- 01 R12, R13, R22, 15 R265: of every word of a strand and of a transducer, each operand at every value of its field, decoding its encoding
gives it back, from the word and from its four bytes; and every 32-bit word is the encoding of what it decodes to, so no bit of a word is lost. -/
def Obligations.EncodeDecode : Prop :=
  (∀ i : Instr, i.isWord = true → (∀ w, i ≠ .unallocatedEncoding w) → decode (encode i) = i ∧ ∀ rest, decodeBytes (encodeBytes i ++ rest) = .ok (i, rest)) ∧
  (∀ w : W32, encode (decode w) = w ∧ (decode w).isWord = true) ∧
  (∀ (w : W32) (i : Instr), xdDecode w = some i ↔ (encode i = w ∧ ∃ v, xdDecode v = some i))

/-- 01 R12, R13, R22 to R24, 15 R265: words written out from the encodings of the spec, and what they are. -/
def Obligations.DecodeSamples : Prop :=
  decode 0x04050C40 = .add 5 3 4 0 ∧ decode 0x28500287 = .li 5 647 ∧ decode 0x31051008 = .sld 0 4 5 4 8 ∧ decode 0x3849FFFD = .br 1 9 (-3) ∧
  decode 0x6C101083 = .vfma 4 1 2 3 ∧ decode 0xD8004140 = .barinit 4 5 ∧ decode 0xFC1FFF84 = .hintStall 7 7 7 7 6 0 4 ∧
  xdDecode 0x08800000 = some (.xdGetb 1) ∧ xdDecode 0xB8000000 = some .xdHalt ∧ xdDecode 0x98000009 = some (.xdBeof 9)

/-- 02 R39, 01 R12, 07 R378, 15 R263, 21 R349: a step is the move of one agent, which is one of those that can move (the order among them is
the model's free value, log entry 3).  A strand that moves, with no PC match that fires and the line of its PC in the fetch buffer, executes
the instruction that the four bytes at its PC decode to; an event that is due happens and leaves the agenda; a transducer run executes its
word; with nothing to move, only time goes on. -/
def Obligations.StepRunsDecoded : Prop :=
  (∀ (s : State) m, s.moves = [m] → s.choose = (m, s)) ∧ (∀ s : State, s.moves ≠ [] → s.choose.1 ∈ s.moves) ∧
  (∀ (s : State) id s1 (i : Instr) (l : FetchLine), s.choose = (.strand id, s1) →
    let f := s1.focus id
    f.me.matchIndex = none → f.me.fetchLine? f.me.pc.toNat = some l → bit (l.marks ||| l.poison) (f.me.pc.toNat / 64 % 4) = false →
    decodeBytes (Memory.read l.cells f.me.pc.toNat 4) = .ok (i, []) → step s = exec i f) ∧
  (∀ (s : State) id, s.me.id = id → s.me.block = s.blk.id → s.core.id = s.blk.core → s.focus id = s) ∧
  (∀ (s : State) k s1 d, s.choose = (.event k, s1) → s1.agenda[k]? = some d → step s = exec d.ev { s1 with agenda := s1.agenda.eraseIdx k }) ∧
  (∀ (s : State) s1 r i, s.choose = (.run, s1) → s1.xd = some r → xdDecode (r.code[r.pc]?.getD 0) = some i → step s = exec i s1) ∧
  (∀ s : State, s.moves = [] → ∃ t, step s = .next t ∧ s.now ≤ t.now ∧ t.me = s.me ∧ t.blk = s.blk ∧ t.core = s.core ∧ t.dram = s.dram ∧ t.agenda = s.agenda ∧ t.control = s.control)

/-- 23 R376, 02 R38, 17 R280, 19 R310: after reset nothing is resident, configured, queued or stored, and the one thing that comes is power-on, which is
the first step.  (That reset starts there, with every register that the spec gives no reset value at zero, is the model's, log entries 1, 4 and 6.) -/
def Obligations.ResetState : Prop :=
  let r := State.reset
  r.agenda = [{ at_ := 0, ev := .powerOn }] ∧ r.allStrands = [] ∧ r.allBlocks = [] ∧ r.vds = [] ∧ r.queues = [] ∧ r.launches = [] ∧ r.tasks = [] ∧ r.beds = [] ∧ r.bindings = [] ∧
  r.images = [] ∧ r.copies = [] ∧ r.dram = [] ∧ r.slices = [] ∧ r.tlb = [] ∧ r.xd = none ∧ r.control.ready = false ∧ step r = exec .powerOn { r with agenda := [] }

/-- 02 R56, 01 R32, 15 R264: no step is refused, and none stops the machine: whatever the strands' registers, their words and memory hold, a step answers a next state.  (The
premises say that what is due are events of units and that a strand is listed once; nothing else puts a word there.) -/
def Obligations.EveryStepAnswers : Prop :=
  ∀ s : State, (∀ e ∈ s.agenda, UnitEvent e.ev) → StrandsOnce s → goesOn (step s)

/-- 19 R333, 23 R375: a package that a fatal error has stopped stays stopped whatever step it makes: no strand, block, core or byte of memory changes. -/
def Obligations.StoppedStays : Prop :=
  ∀ s t : State, Stopped s → step s = .next t → Stopped t ∧ t.me = s.me ∧ t.strands = s.strands ∧ t.blk = s.blk ∧ t.blocks = s.blocks ∧ t.core = s.core ∧ t.cores = s.cores ∧
    t.dram = s.dram ∧ t.slices = s.slices ∧ t.bindings = s.bindings ∧ t.outbox = s.outbox
end

