-- ==== Sys2Proof/Laws/State.lean ====
section
/-!
SUPPORT. Sys2Proof/Laws/State.lean: what each named update of the state leaves alone, one lemma per field, so that no proof
unfolds a record update.
-/

namespace Sys2Proof.Machine

/-! State.mapMe -/

@[simp] theorem State.mapMe_now (f : Strand → Strand) (s : State) : (s.mapMe f).now = s.now := rfl
@[simp] theorem State.mapMe_blk (f : Strand → Strand) (s : State) : (s.mapMe f).blk = s.blk := rfl
@[simp] theorem State.mapMe_core (f : Strand → Strand) (s : State) : (s.mapMe f).core = s.core := rfl
@[simp] theorem State.mapMe_strands (f : Strand → Strand) (s : State) : (s.mapMe f).strands = s.strands := rfl
@[simp] theorem State.mapMe_blocks (f : Strand → Strand) (s : State) : (s.mapMe f).blocks = s.blocks := rfl
@[simp] theorem State.mapMe_cores (f : Strand → Strand) (s : State) : (s.mapMe f).cores = s.cores := rfl
@[simp] theorem State.mapMe_agenda (f : Strand → Strand) (s : State) : (s.mapMe f).agenda = s.agenda := rfl
@[simp] theorem State.mapMe_free (f : Strand → Strand) (s : State) : (s.mapMe f).free = s.free := rfl
@[simp] theorem State.mapMe_nextId (f : Strand → Strand) (s : State) : (s.mapMe f).nextId = s.nextId := rfl
@[simp] theorem State.mapMe_dram (f : Strand → Strand) (s : State) : (s.mapMe f).dram = s.dram := rfl
@[simp] theorem State.mapMe_slices (f : Strand → Strand) (s : State) : (s.mapMe f).slices = s.slices := rfl
@[simp] theorem State.mapMe_poison (f : Strand → Strand) (s : State) : (s.mapMe f).poison = s.poison := rfl
@[simp] theorem State.mapMe_graftLog (f : Strand → Strand) (s : State) : (s.mapMe f).graftLog = s.graftLog := rfl
@[simp] theorem State.mapMe_dies (f : Strand → Strand) (s : State) : (s.mapMe f).dies = s.dies := rfl
@[simp] theorem State.mapMe_links (f : Strand → Strand) (s : State) : (s.mapMe f).links = s.links := rfl
@[simp] theorem State.mapMe_ports (f : Strand → Strand) (s : State) : (s.mapMe f).ports = s.ports := rfl
@[simp] theorem State.mapMe_clusters (f : Strand → Strand) (s : State) : (s.mapMe f).clusters = s.clusters := rfl
@[simp] theorem State.mapMe_groupBars (f : Strand → Strand) (s : State) : (s.mapMe f).groupBars = s.groupBars := rfl
@[simp] theorem State.mapMe_images (f : Strand → Strand) (s : State) : (s.mapMe f).images = s.images := rfl
@[simp] theorem State.mapMe_bindings (f : Strand → Strand) (s : State) : (s.mapMe f).bindings = s.bindings := rfl
@[simp] theorem State.mapMe_xd (f : Strand → Strand) (s : State) : (s.mapMe f).xd = s.xd := rfl
@[simp] theorem State.mapMe_copies (f : Strand → Strand) (s : State) : (s.mapMe f).copies = s.copies := rfl
@[simp] theorem State.mapMe_mxops (f : Strand → Strand) (s : State) : (s.mapMe f).mxops = s.mxops := rfl
@[simp] theorem State.mapMe_sows (f : Strand → Strand) (s : State) : (s.mapMe f).sows = s.sows := rfl
@[simp] theorem State.mapMe_beds (f : Strand → Strand) (s : State) : (s.mapMe f).beds = s.beds := rfl
@[simp] theorem State.mapMe_vds (f : Strand → Strand) (s : State) : (s.mapMe f).vds = s.vds := rfl
@[simp] theorem State.mapMe_stage2 (f : Strand → Strand) (s : State) : (s.mapMe f).stage2 = s.stage2 := rfl
@[simp] theorem State.mapMe_pkgFaults (f : Strand → Strand) (s : State) : (s.mapMe f).pkgFaults = s.pkgFaults := rfl
@[simp] theorem State.mapMe_tlb (f : Strand → Strand) (s : State) : (s.mapMe f).tlb = s.tlb := rfl
@[simp] theorem State.mapMe_walks (f : Strand → Strand) (s : State) : (s.mapMe f).walks = s.walks := rfl
@[simp] theorem State.mapMe_uses (f : Strand → Strand) (s : State) : (s.mapMe f).uses = s.uses := rfl
@[simp] theorem State.mapMe_queues (f : Strand → Strand) (s : State) : (s.mapMe f).queues = s.queues := rfl
@[simp] theorem State.mapMe_launches (f : Strand → Strand) (s : State) : (s.mapMe f).launches = s.launches := rfl
@[simp] theorem State.mapMe_tasks (f : Strand → Strand) (s : State) : (s.mapMe f).tasks = s.tasks := rfl
@[simp] theorem State.mapMe_nodes (f : Strand → Strand) (s : State) : (s.mapMe f).nodes = s.nodes := rfl
@[simp] theorem State.mapMe_classes (f : Strand → Strand) (s : State) : (s.mapMe f).classes = s.classes := rfl
@[simp] theorem State.mapMe_control (f : Strand → Strand) (s : State) : (s.mapMe f).control = s.control := rfl
@[simp] theorem State.mapMe_hostOps (f : Strand → Strand) (s : State) : (s.mapMe f).hostOps = s.hostOps := rfl
@[simp] theorem State.mapMe_outbox (f : Strand → Strand) (s : State) : (s.mapMe f).outbox = s.outbox := rfl

@[simp] theorem State.mapMe_me (f : Strand → Strand) (s : State) : (s.mapMe f).me = f s.me := rfl

/-! State.mapBlk -/

@[simp] theorem State.mapBlk_now (f : Block → Block) (s : State) : (s.mapBlk f).now = s.now := rfl
@[simp] theorem State.mapBlk_me (f : Block → Block) (s : State) : (s.mapBlk f).me = s.me := rfl
@[simp] theorem State.mapBlk_core (f : Block → Block) (s : State) : (s.mapBlk f).core = s.core := rfl
@[simp] theorem State.mapBlk_strands (f : Block → Block) (s : State) : (s.mapBlk f).strands = s.strands := rfl
@[simp] theorem State.mapBlk_blocks (f : Block → Block) (s : State) : (s.mapBlk f).blocks = s.blocks := rfl
@[simp] theorem State.mapBlk_cores (f : Block → Block) (s : State) : (s.mapBlk f).cores = s.cores := rfl
@[simp] theorem State.mapBlk_agenda (f : Block → Block) (s : State) : (s.mapBlk f).agenda = s.agenda := rfl
@[simp] theorem State.mapBlk_free (f : Block → Block) (s : State) : (s.mapBlk f).free = s.free := rfl
@[simp] theorem State.mapBlk_nextId (f : Block → Block) (s : State) : (s.mapBlk f).nextId = s.nextId := rfl
@[simp] theorem State.mapBlk_dram (f : Block → Block) (s : State) : (s.mapBlk f).dram = s.dram := rfl
@[simp] theorem State.mapBlk_slices (f : Block → Block) (s : State) : (s.mapBlk f).slices = s.slices := rfl
@[simp] theorem State.mapBlk_poison (f : Block → Block) (s : State) : (s.mapBlk f).poison = s.poison := rfl
@[simp] theorem State.mapBlk_graftLog (f : Block → Block) (s : State) : (s.mapBlk f).graftLog = s.graftLog := rfl
@[simp] theorem State.mapBlk_dies (f : Block → Block) (s : State) : (s.mapBlk f).dies = s.dies := rfl
@[simp] theorem State.mapBlk_links (f : Block → Block) (s : State) : (s.mapBlk f).links = s.links := rfl
@[simp] theorem State.mapBlk_ports (f : Block → Block) (s : State) : (s.mapBlk f).ports = s.ports := rfl
@[simp] theorem State.mapBlk_clusters (f : Block → Block) (s : State) : (s.mapBlk f).clusters = s.clusters := rfl
@[simp] theorem State.mapBlk_groupBars (f : Block → Block) (s : State) : (s.mapBlk f).groupBars = s.groupBars := rfl
@[simp] theorem State.mapBlk_images (f : Block → Block) (s : State) : (s.mapBlk f).images = s.images := rfl
@[simp] theorem State.mapBlk_bindings (f : Block → Block) (s : State) : (s.mapBlk f).bindings = s.bindings := rfl
@[simp] theorem State.mapBlk_xd (f : Block → Block) (s : State) : (s.mapBlk f).xd = s.xd := rfl
@[simp] theorem State.mapBlk_copies (f : Block → Block) (s : State) : (s.mapBlk f).copies = s.copies := rfl
@[simp] theorem State.mapBlk_mxops (f : Block → Block) (s : State) : (s.mapBlk f).mxops = s.mxops := rfl
@[simp] theorem State.mapBlk_sows (f : Block → Block) (s : State) : (s.mapBlk f).sows = s.sows := rfl
@[simp] theorem State.mapBlk_beds (f : Block → Block) (s : State) : (s.mapBlk f).beds = s.beds := rfl
@[simp] theorem State.mapBlk_vds (f : Block → Block) (s : State) : (s.mapBlk f).vds = s.vds := rfl
@[simp] theorem State.mapBlk_stage2 (f : Block → Block) (s : State) : (s.mapBlk f).stage2 = s.stage2 := rfl
@[simp] theorem State.mapBlk_pkgFaults (f : Block → Block) (s : State) : (s.mapBlk f).pkgFaults = s.pkgFaults := rfl
@[simp] theorem State.mapBlk_tlb (f : Block → Block) (s : State) : (s.mapBlk f).tlb = s.tlb := rfl
@[simp] theorem State.mapBlk_walks (f : Block → Block) (s : State) : (s.mapBlk f).walks = s.walks := rfl
@[simp] theorem State.mapBlk_uses (f : Block → Block) (s : State) : (s.mapBlk f).uses = s.uses := rfl
@[simp] theorem State.mapBlk_queues (f : Block → Block) (s : State) : (s.mapBlk f).queues = s.queues := rfl
@[simp] theorem State.mapBlk_launches (f : Block → Block) (s : State) : (s.mapBlk f).launches = s.launches := rfl
@[simp] theorem State.mapBlk_tasks (f : Block → Block) (s : State) : (s.mapBlk f).tasks = s.tasks := rfl
@[simp] theorem State.mapBlk_nodes (f : Block → Block) (s : State) : (s.mapBlk f).nodes = s.nodes := rfl
@[simp] theorem State.mapBlk_classes (f : Block → Block) (s : State) : (s.mapBlk f).classes = s.classes := rfl
@[simp] theorem State.mapBlk_control (f : Block → Block) (s : State) : (s.mapBlk f).control = s.control := rfl
@[simp] theorem State.mapBlk_hostOps (f : Block → Block) (s : State) : (s.mapBlk f).hostOps = s.hostOps := rfl
@[simp] theorem State.mapBlk_outbox (f : Block → Block) (s : State) : (s.mapBlk f).outbox = s.outbox := rfl

@[simp] theorem State.mapBlk_blk (f : Block → Block) (s : State) : (s.mapBlk f).blk = f s.blk := rfl

/-! State.mapCore -/

@[simp] theorem State.mapCore_now (f : Core → Core) (s : State) : (s.mapCore f).now = s.now := rfl
@[simp] theorem State.mapCore_me (f : Core → Core) (s : State) : (s.mapCore f).me = s.me := rfl
@[simp] theorem State.mapCore_blk (f : Core → Core) (s : State) : (s.mapCore f).blk = s.blk := rfl
@[simp] theorem State.mapCore_strands (f : Core → Core) (s : State) : (s.mapCore f).strands = s.strands := rfl
@[simp] theorem State.mapCore_blocks (f : Core → Core) (s : State) : (s.mapCore f).blocks = s.blocks := rfl
@[simp] theorem State.mapCore_cores (f : Core → Core) (s : State) : (s.mapCore f).cores = s.cores := rfl
@[simp] theorem State.mapCore_agenda (f : Core → Core) (s : State) : (s.mapCore f).agenda = s.agenda := rfl
@[simp] theorem State.mapCore_free (f : Core → Core) (s : State) : (s.mapCore f).free = s.free := rfl
@[simp] theorem State.mapCore_nextId (f : Core → Core) (s : State) : (s.mapCore f).nextId = s.nextId := rfl
@[simp] theorem State.mapCore_dram (f : Core → Core) (s : State) : (s.mapCore f).dram = s.dram := rfl
@[simp] theorem State.mapCore_slices (f : Core → Core) (s : State) : (s.mapCore f).slices = s.slices := rfl
@[simp] theorem State.mapCore_poison (f : Core → Core) (s : State) : (s.mapCore f).poison = s.poison := rfl
@[simp] theorem State.mapCore_graftLog (f : Core → Core) (s : State) : (s.mapCore f).graftLog = s.graftLog := rfl
@[simp] theorem State.mapCore_dies (f : Core → Core) (s : State) : (s.mapCore f).dies = s.dies := rfl
@[simp] theorem State.mapCore_links (f : Core → Core) (s : State) : (s.mapCore f).links = s.links := rfl
@[simp] theorem State.mapCore_ports (f : Core → Core) (s : State) : (s.mapCore f).ports = s.ports := rfl
@[simp] theorem State.mapCore_clusters (f : Core → Core) (s : State) : (s.mapCore f).clusters = s.clusters := rfl
@[simp] theorem State.mapCore_groupBars (f : Core → Core) (s : State) : (s.mapCore f).groupBars = s.groupBars := rfl
@[simp] theorem State.mapCore_images (f : Core → Core) (s : State) : (s.mapCore f).images = s.images := rfl
@[simp] theorem State.mapCore_bindings (f : Core → Core) (s : State) : (s.mapCore f).bindings = s.bindings := rfl
@[simp] theorem State.mapCore_xd (f : Core → Core) (s : State) : (s.mapCore f).xd = s.xd := rfl
@[simp] theorem State.mapCore_copies (f : Core → Core) (s : State) : (s.mapCore f).copies = s.copies := rfl
@[simp] theorem State.mapCore_mxops (f : Core → Core) (s : State) : (s.mapCore f).mxops = s.mxops := rfl
@[simp] theorem State.mapCore_sows (f : Core → Core) (s : State) : (s.mapCore f).sows = s.sows := rfl
@[simp] theorem State.mapCore_beds (f : Core → Core) (s : State) : (s.mapCore f).beds = s.beds := rfl
@[simp] theorem State.mapCore_vds (f : Core → Core) (s : State) : (s.mapCore f).vds = s.vds := rfl
@[simp] theorem State.mapCore_stage2 (f : Core → Core) (s : State) : (s.mapCore f).stage2 = s.stage2 := rfl
@[simp] theorem State.mapCore_pkgFaults (f : Core → Core) (s : State) : (s.mapCore f).pkgFaults = s.pkgFaults := rfl
@[simp] theorem State.mapCore_tlb (f : Core → Core) (s : State) : (s.mapCore f).tlb = s.tlb := rfl
@[simp] theorem State.mapCore_walks (f : Core → Core) (s : State) : (s.mapCore f).walks = s.walks := rfl
@[simp] theorem State.mapCore_uses (f : Core → Core) (s : State) : (s.mapCore f).uses = s.uses := rfl
@[simp] theorem State.mapCore_queues (f : Core → Core) (s : State) : (s.mapCore f).queues = s.queues := rfl
@[simp] theorem State.mapCore_launches (f : Core → Core) (s : State) : (s.mapCore f).launches = s.launches := rfl
@[simp] theorem State.mapCore_tasks (f : Core → Core) (s : State) : (s.mapCore f).tasks = s.tasks := rfl
@[simp] theorem State.mapCore_nodes (f : Core → Core) (s : State) : (s.mapCore f).nodes = s.nodes := rfl
@[simp] theorem State.mapCore_classes (f : Core → Core) (s : State) : (s.mapCore f).classes = s.classes := rfl
@[simp] theorem State.mapCore_control (f : Core → Core) (s : State) : (s.mapCore f).control = s.control := rfl
@[simp] theorem State.mapCore_hostOps (f : Core → Core) (s : State) : (s.mapCore f).hostOps = s.hostOps := rfl
@[simp] theorem State.mapCore_outbox (f : Core → Core) (s : State) : (s.mapCore f).outbox = s.outbox := rfl

@[simp] theorem State.mapCore_core (f : Core → Core) (s : State) : (s.mapCore f).core = f s.core := rfl

/-! State.mapStrands -/

@[simp] theorem State.mapStrands_now (p : Strand → Bool) (f : Strand → Strand) (s : State) : (s.mapStrands p f).now = s.now := rfl
@[simp] theorem State.mapStrands_blk (p : Strand → Bool) (f : Strand → Strand) (s : State) : (s.mapStrands p f).blk = s.blk := rfl
@[simp] theorem State.mapStrands_core (p : Strand → Bool) (f : Strand → Strand) (s : State) : (s.mapStrands p f).core = s.core := rfl
@[simp] theorem State.mapStrands_blocks (p : Strand → Bool) (f : Strand → Strand) (s : State) : (s.mapStrands p f).blocks = s.blocks := rfl
@[simp] theorem State.mapStrands_cores (p : Strand → Bool) (f : Strand → Strand) (s : State) : (s.mapStrands p f).cores = s.cores := rfl
@[simp] theorem State.mapStrands_agenda (p : Strand → Bool) (f : Strand → Strand) (s : State) : (s.mapStrands p f).agenda = s.agenda := rfl
@[simp] theorem State.mapStrands_free (p : Strand → Bool) (f : Strand → Strand) (s : State) : (s.mapStrands p f).free = s.free := rfl
@[simp] theorem State.mapStrands_nextId (p : Strand → Bool) (f : Strand → Strand) (s : State) : (s.mapStrands p f).nextId = s.nextId := rfl
@[simp] theorem State.mapStrands_dram (p : Strand → Bool) (f : Strand → Strand) (s : State) : (s.mapStrands p f).dram = s.dram := rfl
@[simp] theorem State.mapStrands_slices (p : Strand → Bool) (f : Strand → Strand) (s : State) : (s.mapStrands p f).slices = s.slices := rfl
@[simp] theorem State.mapStrands_poison (p : Strand → Bool) (f : Strand → Strand) (s : State) : (s.mapStrands p f).poison = s.poison := rfl
@[simp] theorem State.mapStrands_graftLog (p : Strand → Bool) (f : Strand → Strand) (s : State) : (s.mapStrands p f).graftLog = s.graftLog := rfl
@[simp] theorem State.mapStrands_dies (p : Strand → Bool) (f : Strand → Strand) (s : State) : (s.mapStrands p f).dies = s.dies := rfl
@[simp] theorem State.mapStrands_links (p : Strand → Bool) (f : Strand → Strand) (s : State) : (s.mapStrands p f).links = s.links := rfl
@[simp] theorem State.mapStrands_ports (p : Strand → Bool) (f : Strand → Strand) (s : State) : (s.mapStrands p f).ports = s.ports := rfl
@[simp] theorem State.mapStrands_clusters (p : Strand → Bool) (f : Strand → Strand) (s : State) : (s.mapStrands p f).clusters = s.clusters := rfl
@[simp] theorem State.mapStrands_groupBars (p : Strand → Bool) (f : Strand → Strand) (s : State) : (s.mapStrands p f).groupBars = s.groupBars := rfl
@[simp] theorem State.mapStrands_images (p : Strand → Bool) (f : Strand → Strand) (s : State) : (s.mapStrands p f).images = s.images := rfl
@[simp] theorem State.mapStrands_bindings (p : Strand → Bool) (f : Strand → Strand) (s : State) : (s.mapStrands p f).bindings = s.bindings := rfl
@[simp] theorem State.mapStrands_xd (p : Strand → Bool) (f : Strand → Strand) (s : State) : (s.mapStrands p f).xd = s.xd := rfl
@[simp] theorem State.mapStrands_copies (p : Strand → Bool) (f : Strand → Strand) (s : State) : (s.mapStrands p f).copies = s.copies := rfl
@[simp] theorem State.mapStrands_mxops (p : Strand → Bool) (f : Strand → Strand) (s : State) : (s.mapStrands p f).mxops = s.mxops := rfl
@[simp] theorem State.mapStrands_sows (p : Strand → Bool) (f : Strand → Strand) (s : State) : (s.mapStrands p f).sows = s.sows := rfl
@[simp] theorem State.mapStrands_beds (p : Strand → Bool) (f : Strand → Strand) (s : State) : (s.mapStrands p f).beds = s.beds := rfl
@[simp] theorem State.mapStrands_vds (p : Strand → Bool) (f : Strand → Strand) (s : State) : (s.mapStrands p f).vds = s.vds := rfl
@[simp] theorem State.mapStrands_stage2 (p : Strand → Bool) (f : Strand → Strand) (s : State) : (s.mapStrands p f).stage2 = s.stage2 := rfl
@[simp] theorem State.mapStrands_pkgFaults (p : Strand → Bool) (f : Strand → Strand) (s : State) : (s.mapStrands p f).pkgFaults = s.pkgFaults := rfl
@[simp] theorem State.mapStrands_tlb (p : Strand → Bool) (f : Strand → Strand) (s : State) : (s.mapStrands p f).tlb = s.tlb := rfl
@[simp] theorem State.mapStrands_walks (p : Strand → Bool) (f : Strand → Strand) (s : State) : (s.mapStrands p f).walks = s.walks := rfl
@[simp] theorem State.mapStrands_uses (p : Strand → Bool) (f : Strand → Strand) (s : State) : (s.mapStrands p f).uses = s.uses := rfl
@[simp] theorem State.mapStrands_queues (p : Strand → Bool) (f : Strand → Strand) (s : State) : (s.mapStrands p f).queues = s.queues := rfl
@[simp] theorem State.mapStrands_launches (p : Strand → Bool) (f : Strand → Strand) (s : State) : (s.mapStrands p f).launches = s.launches := rfl
@[simp] theorem State.mapStrands_tasks (p : Strand → Bool) (f : Strand → Strand) (s : State) : (s.mapStrands p f).tasks = s.tasks := rfl
@[simp] theorem State.mapStrands_nodes (p : Strand → Bool) (f : Strand → Strand) (s : State) : (s.mapStrands p f).nodes = s.nodes := rfl
@[simp] theorem State.mapStrands_classes (p : Strand → Bool) (f : Strand → Strand) (s : State) : (s.mapStrands p f).classes = s.classes := rfl
@[simp] theorem State.mapStrands_control (p : Strand → Bool) (f : Strand → Strand) (s : State) : (s.mapStrands p f).control = s.control := rfl
@[simp] theorem State.mapStrands_hostOps (p : Strand → Bool) (f : Strand → Strand) (s : State) : (s.mapStrands p f).hostOps = s.hostOps := rfl
@[simp] theorem State.mapStrands_outbox (p : Strand → Bool) (f : Strand → Strand) (s : State) : (s.mapStrands p f).outbox = s.outbox := rfl


/-! State.mapStrand -/

@[simp] theorem State.mapStrand_now (id : Nat) (f : Strand → Strand) (s : State) : (s.mapStrand id f).now = s.now := rfl
@[simp] theorem State.mapStrand_blk (id : Nat) (f : Strand → Strand) (s : State) : (s.mapStrand id f).blk = s.blk := rfl
@[simp] theorem State.mapStrand_core (id : Nat) (f : Strand → Strand) (s : State) : (s.mapStrand id f).core = s.core := rfl
@[simp] theorem State.mapStrand_blocks (id : Nat) (f : Strand → Strand) (s : State) : (s.mapStrand id f).blocks = s.blocks := rfl
@[simp] theorem State.mapStrand_cores (id : Nat) (f : Strand → Strand) (s : State) : (s.mapStrand id f).cores = s.cores := rfl
@[simp] theorem State.mapStrand_agenda (id : Nat) (f : Strand → Strand) (s : State) : (s.mapStrand id f).agenda = s.agenda := rfl
@[simp] theorem State.mapStrand_free (id : Nat) (f : Strand → Strand) (s : State) : (s.mapStrand id f).free = s.free := rfl
@[simp] theorem State.mapStrand_nextId (id : Nat) (f : Strand → Strand) (s : State) : (s.mapStrand id f).nextId = s.nextId := rfl
@[simp] theorem State.mapStrand_dram (id : Nat) (f : Strand → Strand) (s : State) : (s.mapStrand id f).dram = s.dram := rfl
@[simp] theorem State.mapStrand_slices (id : Nat) (f : Strand → Strand) (s : State) : (s.mapStrand id f).slices = s.slices := rfl
@[simp] theorem State.mapStrand_poison (id : Nat) (f : Strand → Strand) (s : State) : (s.mapStrand id f).poison = s.poison := rfl
@[simp] theorem State.mapStrand_graftLog (id : Nat) (f : Strand → Strand) (s : State) : (s.mapStrand id f).graftLog = s.graftLog := rfl
@[simp] theorem State.mapStrand_dies (id : Nat) (f : Strand → Strand) (s : State) : (s.mapStrand id f).dies = s.dies := rfl
@[simp] theorem State.mapStrand_links (id : Nat) (f : Strand → Strand) (s : State) : (s.mapStrand id f).links = s.links := rfl
@[simp] theorem State.mapStrand_ports (id : Nat) (f : Strand → Strand) (s : State) : (s.mapStrand id f).ports = s.ports := rfl
@[simp] theorem State.mapStrand_clusters (id : Nat) (f : Strand → Strand) (s : State) : (s.mapStrand id f).clusters = s.clusters := rfl
@[simp] theorem State.mapStrand_groupBars (id : Nat) (f : Strand → Strand) (s : State) : (s.mapStrand id f).groupBars = s.groupBars := rfl
@[simp] theorem State.mapStrand_images (id : Nat) (f : Strand → Strand) (s : State) : (s.mapStrand id f).images = s.images := rfl
@[simp] theorem State.mapStrand_bindings (id : Nat) (f : Strand → Strand) (s : State) : (s.mapStrand id f).bindings = s.bindings := rfl
@[simp] theorem State.mapStrand_xd (id : Nat) (f : Strand → Strand) (s : State) : (s.mapStrand id f).xd = s.xd := rfl
@[simp] theorem State.mapStrand_copies (id : Nat) (f : Strand → Strand) (s : State) : (s.mapStrand id f).copies = s.copies := rfl
@[simp] theorem State.mapStrand_mxops (id : Nat) (f : Strand → Strand) (s : State) : (s.mapStrand id f).mxops = s.mxops := rfl
@[simp] theorem State.mapStrand_sows (id : Nat) (f : Strand → Strand) (s : State) : (s.mapStrand id f).sows = s.sows := rfl
@[simp] theorem State.mapStrand_beds (id : Nat) (f : Strand → Strand) (s : State) : (s.mapStrand id f).beds = s.beds := rfl
@[simp] theorem State.mapStrand_vds (id : Nat) (f : Strand → Strand) (s : State) : (s.mapStrand id f).vds = s.vds := rfl
@[simp] theorem State.mapStrand_stage2 (id : Nat) (f : Strand → Strand) (s : State) : (s.mapStrand id f).stage2 = s.stage2 := rfl
@[simp] theorem State.mapStrand_pkgFaults (id : Nat) (f : Strand → Strand) (s : State) : (s.mapStrand id f).pkgFaults = s.pkgFaults := rfl
@[simp] theorem State.mapStrand_tlb (id : Nat) (f : Strand → Strand) (s : State) : (s.mapStrand id f).tlb = s.tlb := rfl
@[simp] theorem State.mapStrand_walks (id : Nat) (f : Strand → Strand) (s : State) : (s.mapStrand id f).walks = s.walks := rfl
@[simp] theorem State.mapStrand_uses (id : Nat) (f : Strand → Strand) (s : State) : (s.mapStrand id f).uses = s.uses := rfl
@[simp] theorem State.mapStrand_queues (id : Nat) (f : Strand → Strand) (s : State) : (s.mapStrand id f).queues = s.queues := rfl
@[simp] theorem State.mapStrand_launches (id : Nat) (f : Strand → Strand) (s : State) : (s.mapStrand id f).launches = s.launches := rfl
@[simp] theorem State.mapStrand_tasks (id : Nat) (f : Strand → Strand) (s : State) : (s.mapStrand id f).tasks = s.tasks := rfl
@[simp] theorem State.mapStrand_nodes (id : Nat) (f : Strand → Strand) (s : State) : (s.mapStrand id f).nodes = s.nodes := rfl
@[simp] theorem State.mapStrand_classes (id : Nat) (f : Strand → Strand) (s : State) : (s.mapStrand id f).classes = s.classes := rfl
@[simp] theorem State.mapStrand_control (id : Nat) (f : Strand → Strand) (s : State) : (s.mapStrand id f).control = s.control := rfl
@[simp] theorem State.mapStrand_hostOps (id : Nat) (f : Strand → Strand) (s : State) : (s.mapStrand id f).hostOps = s.hostOps := rfl
@[simp] theorem State.mapStrand_outbox (id : Nat) (f : Strand → Strand) (s : State) : (s.mapStrand id f).outbox = s.outbox := rfl


/-! State.mapBlocks -/

@[simp] theorem State.mapBlocks_now (p : Block → Bool) (f : Block → Block) (s : State) : (s.mapBlocks p f).now = s.now := rfl
@[simp] theorem State.mapBlocks_me (p : Block → Bool) (f : Block → Block) (s : State) : (s.mapBlocks p f).me = s.me := rfl
@[simp] theorem State.mapBlocks_core (p : Block → Bool) (f : Block → Block) (s : State) : (s.mapBlocks p f).core = s.core := rfl
@[simp] theorem State.mapBlocks_strands (p : Block → Bool) (f : Block → Block) (s : State) : (s.mapBlocks p f).strands = s.strands := rfl
@[simp] theorem State.mapBlocks_cores (p : Block → Bool) (f : Block → Block) (s : State) : (s.mapBlocks p f).cores = s.cores := rfl
@[simp] theorem State.mapBlocks_agenda (p : Block → Bool) (f : Block → Block) (s : State) : (s.mapBlocks p f).agenda = s.agenda := rfl
@[simp] theorem State.mapBlocks_free (p : Block → Bool) (f : Block → Block) (s : State) : (s.mapBlocks p f).free = s.free := rfl
@[simp] theorem State.mapBlocks_nextId (p : Block → Bool) (f : Block → Block) (s : State) : (s.mapBlocks p f).nextId = s.nextId := rfl
@[simp] theorem State.mapBlocks_dram (p : Block → Bool) (f : Block → Block) (s : State) : (s.mapBlocks p f).dram = s.dram := rfl
@[simp] theorem State.mapBlocks_slices (p : Block → Bool) (f : Block → Block) (s : State) : (s.mapBlocks p f).slices = s.slices := rfl
@[simp] theorem State.mapBlocks_poison (p : Block → Bool) (f : Block → Block) (s : State) : (s.mapBlocks p f).poison = s.poison := rfl
@[simp] theorem State.mapBlocks_graftLog (p : Block → Bool) (f : Block → Block) (s : State) : (s.mapBlocks p f).graftLog = s.graftLog := rfl
@[simp] theorem State.mapBlocks_dies (p : Block → Bool) (f : Block → Block) (s : State) : (s.mapBlocks p f).dies = s.dies := rfl
@[simp] theorem State.mapBlocks_links (p : Block → Bool) (f : Block → Block) (s : State) : (s.mapBlocks p f).links = s.links := rfl
@[simp] theorem State.mapBlocks_ports (p : Block → Bool) (f : Block → Block) (s : State) : (s.mapBlocks p f).ports = s.ports := rfl
@[simp] theorem State.mapBlocks_clusters (p : Block → Bool) (f : Block → Block) (s : State) : (s.mapBlocks p f).clusters = s.clusters := rfl
@[simp] theorem State.mapBlocks_groupBars (p : Block → Bool) (f : Block → Block) (s : State) : (s.mapBlocks p f).groupBars = s.groupBars := rfl
@[simp] theorem State.mapBlocks_images (p : Block → Bool) (f : Block → Block) (s : State) : (s.mapBlocks p f).images = s.images := rfl
@[simp] theorem State.mapBlocks_bindings (p : Block → Bool) (f : Block → Block) (s : State) : (s.mapBlocks p f).bindings = s.bindings := rfl
@[simp] theorem State.mapBlocks_xd (p : Block → Bool) (f : Block → Block) (s : State) : (s.mapBlocks p f).xd = s.xd := rfl
@[simp] theorem State.mapBlocks_copies (p : Block → Bool) (f : Block → Block) (s : State) : (s.mapBlocks p f).copies = s.copies := rfl
@[simp] theorem State.mapBlocks_mxops (p : Block → Bool) (f : Block → Block) (s : State) : (s.mapBlocks p f).mxops = s.mxops := rfl
@[simp] theorem State.mapBlocks_sows (p : Block → Bool) (f : Block → Block) (s : State) : (s.mapBlocks p f).sows = s.sows := rfl
@[simp] theorem State.mapBlocks_beds (p : Block → Bool) (f : Block → Block) (s : State) : (s.mapBlocks p f).beds = s.beds := rfl
@[simp] theorem State.mapBlocks_vds (p : Block → Bool) (f : Block → Block) (s : State) : (s.mapBlocks p f).vds = s.vds := rfl
@[simp] theorem State.mapBlocks_stage2 (p : Block → Bool) (f : Block → Block) (s : State) : (s.mapBlocks p f).stage2 = s.stage2 := rfl
@[simp] theorem State.mapBlocks_pkgFaults (p : Block → Bool) (f : Block → Block) (s : State) : (s.mapBlocks p f).pkgFaults = s.pkgFaults := rfl
@[simp] theorem State.mapBlocks_tlb (p : Block → Bool) (f : Block → Block) (s : State) : (s.mapBlocks p f).tlb = s.tlb := rfl
@[simp] theorem State.mapBlocks_walks (p : Block → Bool) (f : Block → Block) (s : State) : (s.mapBlocks p f).walks = s.walks := rfl
@[simp] theorem State.mapBlocks_uses (p : Block → Bool) (f : Block → Block) (s : State) : (s.mapBlocks p f).uses = s.uses := rfl
@[simp] theorem State.mapBlocks_queues (p : Block → Bool) (f : Block → Block) (s : State) : (s.mapBlocks p f).queues = s.queues := rfl
@[simp] theorem State.mapBlocks_launches (p : Block → Bool) (f : Block → Block) (s : State) : (s.mapBlocks p f).launches = s.launches := rfl
@[simp] theorem State.mapBlocks_tasks (p : Block → Bool) (f : Block → Block) (s : State) : (s.mapBlocks p f).tasks = s.tasks := rfl
@[simp] theorem State.mapBlocks_nodes (p : Block → Bool) (f : Block → Block) (s : State) : (s.mapBlocks p f).nodes = s.nodes := rfl
@[simp] theorem State.mapBlocks_classes (p : Block → Bool) (f : Block → Block) (s : State) : (s.mapBlocks p f).classes = s.classes := rfl
@[simp] theorem State.mapBlocks_control (p : Block → Bool) (f : Block → Block) (s : State) : (s.mapBlocks p f).control = s.control := rfl
@[simp] theorem State.mapBlocks_hostOps (p : Block → Bool) (f : Block → Block) (s : State) : (s.mapBlocks p f).hostOps = s.hostOps := rfl
@[simp] theorem State.mapBlocks_outbox (p : Block → Bool) (f : Block → Block) (s : State) : (s.mapBlocks p f).outbox = s.outbox := rfl


/-! State.mapBlock -/

@[simp] theorem State.mapBlock_now (id : Nat) (f : Block → Block) (s : State) : (s.mapBlock id f).now = s.now := rfl
@[simp] theorem State.mapBlock_me (id : Nat) (f : Block → Block) (s : State) : (s.mapBlock id f).me = s.me := rfl
@[simp] theorem State.mapBlock_core (id : Nat) (f : Block → Block) (s : State) : (s.mapBlock id f).core = s.core := rfl
@[simp] theorem State.mapBlock_strands (id : Nat) (f : Block → Block) (s : State) : (s.mapBlock id f).strands = s.strands := rfl
@[simp] theorem State.mapBlock_cores (id : Nat) (f : Block → Block) (s : State) : (s.mapBlock id f).cores = s.cores := rfl
@[simp] theorem State.mapBlock_agenda (id : Nat) (f : Block → Block) (s : State) : (s.mapBlock id f).agenda = s.agenda := rfl
@[simp] theorem State.mapBlock_free (id : Nat) (f : Block → Block) (s : State) : (s.mapBlock id f).free = s.free := rfl
@[simp] theorem State.mapBlock_nextId (id : Nat) (f : Block → Block) (s : State) : (s.mapBlock id f).nextId = s.nextId := rfl
@[simp] theorem State.mapBlock_dram (id : Nat) (f : Block → Block) (s : State) : (s.mapBlock id f).dram = s.dram := rfl
@[simp] theorem State.mapBlock_slices (id : Nat) (f : Block → Block) (s : State) : (s.mapBlock id f).slices = s.slices := rfl
@[simp] theorem State.mapBlock_poison (id : Nat) (f : Block → Block) (s : State) : (s.mapBlock id f).poison = s.poison := rfl
@[simp] theorem State.mapBlock_graftLog (id : Nat) (f : Block → Block) (s : State) : (s.mapBlock id f).graftLog = s.graftLog := rfl
@[simp] theorem State.mapBlock_dies (id : Nat) (f : Block → Block) (s : State) : (s.mapBlock id f).dies = s.dies := rfl
@[simp] theorem State.mapBlock_links (id : Nat) (f : Block → Block) (s : State) : (s.mapBlock id f).links = s.links := rfl
@[simp] theorem State.mapBlock_ports (id : Nat) (f : Block → Block) (s : State) : (s.mapBlock id f).ports = s.ports := rfl
@[simp] theorem State.mapBlock_clusters (id : Nat) (f : Block → Block) (s : State) : (s.mapBlock id f).clusters = s.clusters := rfl
@[simp] theorem State.mapBlock_groupBars (id : Nat) (f : Block → Block) (s : State) : (s.mapBlock id f).groupBars = s.groupBars := rfl
@[simp] theorem State.mapBlock_images (id : Nat) (f : Block → Block) (s : State) : (s.mapBlock id f).images = s.images := rfl
@[simp] theorem State.mapBlock_bindings (id : Nat) (f : Block → Block) (s : State) : (s.mapBlock id f).bindings = s.bindings := rfl
@[simp] theorem State.mapBlock_xd (id : Nat) (f : Block → Block) (s : State) : (s.mapBlock id f).xd = s.xd := rfl
@[simp] theorem State.mapBlock_copies (id : Nat) (f : Block → Block) (s : State) : (s.mapBlock id f).copies = s.copies := rfl
@[simp] theorem State.mapBlock_mxops (id : Nat) (f : Block → Block) (s : State) : (s.mapBlock id f).mxops = s.mxops := rfl
@[simp] theorem State.mapBlock_sows (id : Nat) (f : Block → Block) (s : State) : (s.mapBlock id f).sows = s.sows := rfl
@[simp] theorem State.mapBlock_beds (id : Nat) (f : Block → Block) (s : State) : (s.mapBlock id f).beds = s.beds := rfl
@[simp] theorem State.mapBlock_vds (id : Nat) (f : Block → Block) (s : State) : (s.mapBlock id f).vds = s.vds := rfl
@[simp] theorem State.mapBlock_stage2 (id : Nat) (f : Block → Block) (s : State) : (s.mapBlock id f).stage2 = s.stage2 := rfl
@[simp] theorem State.mapBlock_pkgFaults (id : Nat) (f : Block → Block) (s : State) : (s.mapBlock id f).pkgFaults = s.pkgFaults := rfl
@[simp] theorem State.mapBlock_tlb (id : Nat) (f : Block → Block) (s : State) : (s.mapBlock id f).tlb = s.tlb := rfl
@[simp] theorem State.mapBlock_walks (id : Nat) (f : Block → Block) (s : State) : (s.mapBlock id f).walks = s.walks := rfl
@[simp] theorem State.mapBlock_uses (id : Nat) (f : Block → Block) (s : State) : (s.mapBlock id f).uses = s.uses := rfl
@[simp] theorem State.mapBlock_queues (id : Nat) (f : Block → Block) (s : State) : (s.mapBlock id f).queues = s.queues := rfl
@[simp] theorem State.mapBlock_launches (id : Nat) (f : Block → Block) (s : State) : (s.mapBlock id f).launches = s.launches := rfl
@[simp] theorem State.mapBlock_tasks (id : Nat) (f : Block → Block) (s : State) : (s.mapBlock id f).tasks = s.tasks := rfl
@[simp] theorem State.mapBlock_nodes (id : Nat) (f : Block → Block) (s : State) : (s.mapBlock id f).nodes = s.nodes := rfl
@[simp] theorem State.mapBlock_classes (id : Nat) (f : Block → Block) (s : State) : (s.mapBlock id f).classes = s.classes := rfl
@[simp] theorem State.mapBlock_control (id : Nat) (f : Block → Block) (s : State) : (s.mapBlock id f).control = s.control := rfl
@[simp] theorem State.mapBlock_hostOps (id : Nat) (f : Block → Block) (s : State) : (s.mapBlock id f).hostOps = s.hostOps := rfl
@[simp] theorem State.mapBlock_outbox (id : Nat) (f : Block → Block) (s : State) : (s.mapBlock id f).outbox = s.outbox := rfl


/-! State.mapVd -/

@[simp] theorem State.mapVd_now (n : Nat) (f : VDev → VDev) (s : State) : (s.mapVd n f).now = s.now := rfl
@[simp] theorem State.mapVd_me (n : Nat) (f : VDev → VDev) (s : State) : (s.mapVd n f).me = s.me := rfl
@[simp] theorem State.mapVd_blk (n : Nat) (f : VDev → VDev) (s : State) : (s.mapVd n f).blk = s.blk := rfl
@[simp] theorem State.mapVd_core (n : Nat) (f : VDev → VDev) (s : State) : (s.mapVd n f).core = s.core := rfl
@[simp] theorem State.mapVd_strands (n : Nat) (f : VDev → VDev) (s : State) : (s.mapVd n f).strands = s.strands := rfl
@[simp] theorem State.mapVd_blocks (n : Nat) (f : VDev → VDev) (s : State) : (s.mapVd n f).blocks = s.blocks := rfl
@[simp] theorem State.mapVd_cores (n : Nat) (f : VDev → VDev) (s : State) : (s.mapVd n f).cores = s.cores := rfl
@[simp] theorem State.mapVd_agenda (n : Nat) (f : VDev → VDev) (s : State) : (s.mapVd n f).agenda = s.agenda := rfl
@[simp] theorem State.mapVd_free (n : Nat) (f : VDev → VDev) (s : State) : (s.mapVd n f).free = s.free := rfl
@[simp] theorem State.mapVd_nextId (n : Nat) (f : VDev → VDev) (s : State) : (s.mapVd n f).nextId = s.nextId := rfl
@[simp] theorem State.mapVd_dram (n : Nat) (f : VDev → VDev) (s : State) : (s.mapVd n f).dram = s.dram := rfl
@[simp] theorem State.mapVd_slices (n : Nat) (f : VDev → VDev) (s : State) : (s.mapVd n f).slices = s.slices := rfl
@[simp] theorem State.mapVd_poison (n : Nat) (f : VDev → VDev) (s : State) : (s.mapVd n f).poison = s.poison := rfl
@[simp] theorem State.mapVd_graftLog (n : Nat) (f : VDev → VDev) (s : State) : (s.mapVd n f).graftLog = s.graftLog := rfl
@[simp] theorem State.mapVd_dies (n : Nat) (f : VDev → VDev) (s : State) : (s.mapVd n f).dies = s.dies := rfl
@[simp] theorem State.mapVd_links (n : Nat) (f : VDev → VDev) (s : State) : (s.mapVd n f).links = s.links := rfl
@[simp] theorem State.mapVd_ports (n : Nat) (f : VDev → VDev) (s : State) : (s.mapVd n f).ports = s.ports := rfl
@[simp] theorem State.mapVd_clusters (n : Nat) (f : VDev → VDev) (s : State) : (s.mapVd n f).clusters = s.clusters := rfl
@[simp] theorem State.mapVd_groupBars (n : Nat) (f : VDev → VDev) (s : State) : (s.mapVd n f).groupBars = s.groupBars := rfl
@[simp] theorem State.mapVd_images (n : Nat) (f : VDev → VDev) (s : State) : (s.mapVd n f).images = s.images := rfl
@[simp] theorem State.mapVd_bindings (n : Nat) (f : VDev → VDev) (s : State) : (s.mapVd n f).bindings = s.bindings := rfl
@[simp] theorem State.mapVd_xd (n : Nat) (f : VDev → VDev) (s : State) : (s.mapVd n f).xd = s.xd := rfl
@[simp] theorem State.mapVd_copies (n : Nat) (f : VDev → VDev) (s : State) : (s.mapVd n f).copies = s.copies := rfl
@[simp] theorem State.mapVd_mxops (n : Nat) (f : VDev → VDev) (s : State) : (s.mapVd n f).mxops = s.mxops := rfl
@[simp] theorem State.mapVd_sows (n : Nat) (f : VDev → VDev) (s : State) : (s.mapVd n f).sows = s.sows := rfl
@[simp] theorem State.mapVd_beds (n : Nat) (f : VDev → VDev) (s : State) : (s.mapVd n f).beds = s.beds := rfl
@[simp] theorem State.mapVd_stage2 (n : Nat) (f : VDev → VDev) (s : State) : (s.mapVd n f).stage2 = s.stage2 := rfl
@[simp] theorem State.mapVd_pkgFaults (n : Nat) (f : VDev → VDev) (s : State) : (s.mapVd n f).pkgFaults = s.pkgFaults := rfl
@[simp] theorem State.mapVd_tlb (n : Nat) (f : VDev → VDev) (s : State) : (s.mapVd n f).tlb = s.tlb := rfl
@[simp] theorem State.mapVd_walks (n : Nat) (f : VDev → VDev) (s : State) : (s.mapVd n f).walks = s.walks := rfl
@[simp] theorem State.mapVd_uses (n : Nat) (f : VDev → VDev) (s : State) : (s.mapVd n f).uses = s.uses := rfl
@[simp] theorem State.mapVd_queues (n : Nat) (f : VDev → VDev) (s : State) : (s.mapVd n f).queues = s.queues := rfl
@[simp] theorem State.mapVd_launches (n : Nat) (f : VDev → VDev) (s : State) : (s.mapVd n f).launches = s.launches := rfl
@[simp] theorem State.mapVd_tasks (n : Nat) (f : VDev → VDev) (s : State) : (s.mapVd n f).tasks = s.tasks := rfl
@[simp] theorem State.mapVd_nodes (n : Nat) (f : VDev → VDev) (s : State) : (s.mapVd n f).nodes = s.nodes := rfl
@[simp] theorem State.mapVd_classes (n : Nat) (f : VDev → VDev) (s : State) : (s.mapVd n f).classes = s.classes := rfl
@[simp] theorem State.mapVd_control (n : Nat) (f : VDev → VDev) (s : State) : (s.mapVd n f).control = s.control := rfl
@[simp] theorem State.mapVd_hostOps (n : Nat) (f : VDev → VDev) (s : State) : (s.mapVd n f).hostOps = s.hostOps := rfl
@[simp] theorem State.mapVd_outbox (n : Nat) (f : VDev → VDev) (s : State) : (s.mapVd n f).outbox = s.outbox := rfl

@[simp] theorem State.mapVd_vds (n : Nat) (f : VDev → VDev) (s : State) : (s.mapVd n f).vds = updIf (fun v => v.num == n) f s.vds := rfl

/-! State.mapDie -/

@[simp] theorem State.mapDie_now (die : Nat) (f : DieUnits → DieUnits) (s : State) : (s.mapDie die f).now = s.now := rfl
@[simp] theorem State.mapDie_me (die : Nat) (f : DieUnits → DieUnits) (s : State) : (s.mapDie die f).me = s.me := rfl
@[simp] theorem State.mapDie_blk (die : Nat) (f : DieUnits → DieUnits) (s : State) : (s.mapDie die f).blk = s.blk := rfl
@[simp] theorem State.mapDie_core (die : Nat) (f : DieUnits → DieUnits) (s : State) : (s.mapDie die f).core = s.core := rfl
@[simp] theorem State.mapDie_strands (die : Nat) (f : DieUnits → DieUnits) (s : State) : (s.mapDie die f).strands = s.strands := rfl
@[simp] theorem State.mapDie_blocks (die : Nat) (f : DieUnits → DieUnits) (s : State) : (s.mapDie die f).blocks = s.blocks := rfl
@[simp] theorem State.mapDie_cores (die : Nat) (f : DieUnits → DieUnits) (s : State) : (s.mapDie die f).cores = s.cores := rfl
@[simp] theorem State.mapDie_agenda (die : Nat) (f : DieUnits → DieUnits) (s : State) : (s.mapDie die f).agenda = s.agenda := rfl
@[simp] theorem State.mapDie_free (die : Nat) (f : DieUnits → DieUnits) (s : State) : (s.mapDie die f).free = s.free := rfl
@[simp] theorem State.mapDie_nextId (die : Nat) (f : DieUnits → DieUnits) (s : State) : (s.mapDie die f).nextId = s.nextId := rfl
@[simp] theorem State.mapDie_dram (die : Nat) (f : DieUnits → DieUnits) (s : State) : (s.mapDie die f).dram = s.dram := rfl
@[simp] theorem State.mapDie_slices (die : Nat) (f : DieUnits → DieUnits) (s : State) : (s.mapDie die f).slices = s.slices := rfl
@[simp] theorem State.mapDie_poison (die : Nat) (f : DieUnits → DieUnits) (s : State) : (s.mapDie die f).poison = s.poison := rfl
@[simp] theorem State.mapDie_graftLog (die : Nat) (f : DieUnits → DieUnits) (s : State) : (s.mapDie die f).graftLog = s.graftLog := rfl
@[simp] theorem State.mapDie_links (die : Nat) (f : DieUnits → DieUnits) (s : State) : (s.mapDie die f).links = s.links := rfl
@[simp] theorem State.mapDie_ports (die : Nat) (f : DieUnits → DieUnits) (s : State) : (s.mapDie die f).ports = s.ports := rfl
@[simp] theorem State.mapDie_clusters (die : Nat) (f : DieUnits → DieUnits) (s : State) : (s.mapDie die f).clusters = s.clusters := rfl
@[simp] theorem State.mapDie_groupBars (die : Nat) (f : DieUnits → DieUnits) (s : State) : (s.mapDie die f).groupBars = s.groupBars := rfl
@[simp] theorem State.mapDie_images (die : Nat) (f : DieUnits → DieUnits) (s : State) : (s.mapDie die f).images = s.images := rfl
@[simp] theorem State.mapDie_bindings (die : Nat) (f : DieUnits → DieUnits) (s : State) : (s.mapDie die f).bindings = s.bindings := rfl
@[simp] theorem State.mapDie_xd (die : Nat) (f : DieUnits → DieUnits) (s : State) : (s.mapDie die f).xd = s.xd := rfl
@[simp] theorem State.mapDie_copies (die : Nat) (f : DieUnits → DieUnits) (s : State) : (s.mapDie die f).copies = s.copies := rfl
@[simp] theorem State.mapDie_mxops (die : Nat) (f : DieUnits → DieUnits) (s : State) : (s.mapDie die f).mxops = s.mxops := rfl
@[simp] theorem State.mapDie_sows (die : Nat) (f : DieUnits → DieUnits) (s : State) : (s.mapDie die f).sows = s.sows := rfl
@[simp] theorem State.mapDie_beds (die : Nat) (f : DieUnits → DieUnits) (s : State) : (s.mapDie die f).beds = s.beds := rfl
@[simp] theorem State.mapDie_vds (die : Nat) (f : DieUnits → DieUnits) (s : State) : (s.mapDie die f).vds = s.vds := rfl
@[simp] theorem State.mapDie_stage2 (die : Nat) (f : DieUnits → DieUnits) (s : State) : (s.mapDie die f).stage2 = s.stage2 := rfl
@[simp] theorem State.mapDie_pkgFaults (die : Nat) (f : DieUnits → DieUnits) (s : State) : (s.mapDie die f).pkgFaults = s.pkgFaults := rfl
@[simp] theorem State.mapDie_tlb (die : Nat) (f : DieUnits → DieUnits) (s : State) : (s.mapDie die f).tlb = s.tlb := rfl
@[simp] theorem State.mapDie_walks (die : Nat) (f : DieUnits → DieUnits) (s : State) : (s.mapDie die f).walks = s.walks := rfl
@[simp] theorem State.mapDie_uses (die : Nat) (f : DieUnits → DieUnits) (s : State) : (s.mapDie die f).uses = s.uses := rfl
@[simp] theorem State.mapDie_queues (die : Nat) (f : DieUnits → DieUnits) (s : State) : (s.mapDie die f).queues = s.queues := rfl
@[simp] theorem State.mapDie_launches (die : Nat) (f : DieUnits → DieUnits) (s : State) : (s.mapDie die f).launches = s.launches := rfl
@[simp] theorem State.mapDie_tasks (die : Nat) (f : DieUnits → DieUnits) (s : State) : (s.mapDie die f).tasks = s.tasks := rfl
@[simp] theorem State.mapDie_nodes (die : Nat) (f : DieUnits → DieUnits) (s : State) : (s.mapDie die f).nodes = s.nodes := rfl
@[simp] theorem State.mapDie_classes (die : Nat) (f : DieUnits → DieUnits) (s : State) : (s.mapDie die f).classes = s.classes := rfl
@[simp] theorem State.mapDie_control (die : Nat) (f : DieUnits → DieUnits) (s : State) : (s.mapDie die f).control = s.control := rfl
@[simp] theorem State.mapDie_hostOps (die : Nat) (f : DieUnits → DieUnits) (s : State) : (s.mapDie die f).hostOps = s.hostOps := rfl
@[simp] theorem State.mapDie_outbox (die : Nat) (f : DieUnits → DieUnits) (s : State) : (s.mapDie die f).outbox = s.outbox := rfl


/-! State.mapLink -/

@[simp] theorem State.mapLink_now (link : Nat) (f : Link → Link) (s : State) : (s.mapLink link f).now = s.now := rfl
@[simp] theorem State.mapLink_me (link : Nat) (f : Link → Link) (s : State) : (s.mapLink link f).me = s.me := rfl
@[simp] theorem State.mapLink_blk (link : Nat) (f : Link → Link) (s : State) : (s.mapLink link f).blk = s.blk := rfl
@[simp] theorem State.mapLink_core (link : Nat) (f : Link → Link) (s : State) : (s.mapLink link f).core = s.core := rfl
@[simp] theorem State.mapLink_strands (link : Nat) (f : Link → Link) (s : State) : (s.mapLink link f).strands = s.strands := rfl
@[simp] theorem State.mapLink_blocks (link : Nat) (f : Link → Link) (s : State) : (s.mapLink link f).blocks = s.blocks := rfl
@[simp] theorem State.mapLink_cores (link : Nat) (f : Link → Link) (s : State) : (s.mapLink link f).cores = s.cores := rfl
@[simp] theorem State.mapLink_agenda (link : Nat) (f : Link → Link) (s : State) : (s.mapLink link f).agenda = s.agenda := rfl
@[simp] theorem State.mapLink_free (link : Nat) (f : Link → Link) (s : State) : (s.mapLink link f).free = s.free := rfl
@[simp] theorem State.mapLink_nextId (link : Nat) (f : Link → Link) (s : State) : (s.mapLink link f).nextId = s.nextId := rfl
@[simp] theorem State.mapLink_dram (link : Nat) (f : Link → Link) (s : State) : (s.mapLink link f).dram = s.dram := rfl
@[simp] theorem State.mapLink_slices (link : Nat) (f : Link → Link) (s : State) : (s.mapLink link f).slices = s.slices := rfl
@[simp] theorem State.mapLink_poison (link : Nat) (f : Link → Link) (s : State) : (s.mapLink link f).poison = s.poison := rfl
@[simp] theorem State.mapLink_graftLog (link : Nat) (f : Link → Link) (s : State) : (s.mapLink link f).graftLog = s.graftLog := rfl
@[simp] theorem State.mapLink_dies (link : Nat) (f : Link → Link) (s : State) : (s.mapLink link f).dies = s.dies := rfl
@[simp] theorem State.mapLink_ports (link : Nat) (f : Link → Link) (s : State) : (s.mapLink link f).ports = s.ports := rfl
@[simp] theorem State.mapLink_clusters (link : Nat) (f : Link → Link) (s : State) : (s.mapLink link f).clusters = s.clusters := rfl
@[simp] theorem State.mapLink_groupBars (link : Nat) (f : Link → Link) (s : State) : (s.mapLink link f).groupBars = s.groupBars := rfl
@[simp] theorem State.mapLink_images (link : Nat) (f : Link → Link) (s : State) : (s.mapLink link f).images = s.images := rfl
@[simp] theorem State.mapLink_bindings (link : Nat) (f : Link → Link) (s : State) : (s.mapLink link f).bindings = s.bindings := rfl
@[simp] theorem State.mapLink_xd (link : Nat) (f : Link → Link) (s : State) : (s.mapLink link f).xd = s.xd := rfl
@[simp] theorem State.mapLink_copies (link : Nat) (f : Link → Link) (s : State) : (s.mapLink link f).copies = s.copies := rfl
@[simp] theorem State.mapLink_mxops (link : Nat) (f : Link → Link) (s : State) : (s.mapLink link f).mxops = s.mxops := rfl
@[simp] theorem State.mapLink_sows (link : Nat) (f : Link → Link) (s : State) : (s.mapLink link f).sows = s.sows := rfl
@[simp] theorem State.mapLink_beds (link : Nat) (f : Link → Link) (s : State) : (s.mapLink link f).beds = s.beds := rfl
@[simp] theorem State.mapLink_vds (link : Nat) (f : Link → Link) (s : State) : (s.mapLink link f).vds = s.vds := rfl
@[simp] theorem State.mapLink_stage2 (link : Nat) (f : Link → Link) (s : State) : (s.mapLink link f).stage2 = s.stage2 := rfl
@[simp] theorem State.mapLink_pkgFaults (link : Nat) (f : Link → Link) (s : State) : (s.mapLink link f).pkgFaults = s.pkgFaults := rfl
@[simp] theorem State.mapLink_tlb (link : Nat) (f : Link → Link) (s : State) : (s.mapLink link f).tlb = s.tlb := rfl
@[simp] theorem State.mapLink_walks (link : Nat) (f : Link → Link) (s : State) : (s.mapLink link f).walks = s.walks := rfl
@[simp] theorem State.mapLink_uses (link : Nat) (f : Link → Link) (s : State) : (s.mapLink link f).uses = s.uses := rfl
@[simp] theorem State.mapLink_queues (link : Nat) (f : Link → Link) (s : State) : (s.mapLink link f).queues = s.queues := rfl
@[simp] theorem State.mapLink_launches (link : Nat) (f : Link → Link) (s : State) : (s.mapLink link f).launches = s.launches := rfl
@[simp] theorem State.mapLink_tasks (link : Nat) (f : Link → Link) (s : State) : (s.mapLink link f).tasks = s.tasks := rfl
@[simp] theorem State.mapLink_nodes (link : Nat) (f : Link → Link) (s : State) : (s.mapLink link f).nodes = s.nodes := rfl
@[simp] theorem State.mapLink_classes (link : Nat) (f : Link → Link) (s : State) : (s.mapLink link f).classes = s.classes := rfl
@[simp] theorem State.mapLink_control (link : Nat) (f : Link → Link) (s : State) : (s.mapLink link f).control = s.control := rfl
@[simp] theorem State.mapLink_hostOps (link : Nat) (f : Link → Link) (s : State) : (s.mapLink link f).hostOps = s.hostOps := rfl
@[simp] theorem State.mapLink_outbox (link : Nat) (f : Link → Link) (s : State) : (s.mapLink link f).outbox = s.outbox := rfl


/-! State.mapPort -/

@[simp] theorem State.mapPort_now (port : Nat) (f : Port → Port) (s : State) : (s.mapPort port f).now = s.now := rfl
@[simp] theorem State.mapPort_me (port : Nat) (f : Port → Port) (s : State) : (s.mapPort port f).me = s.me := rfl
@[simp] theorem State.mapPort_blk (port : Nat) (f : Port → Port) (s : State) : (s.mapPort port f).blk = s.blk := rfl
@[simp] theorem State.mapPort_core (port : Nat) (f : Port → Port) (s : State) : (s.mapPort port f).core = s.core := rfl
@[simp] theorem State.mapPort_strands (port : Nat) (f : Port → Port) (s : State) : (s.mapPort port f).strands = s.strands := rfl
@[simp] theorem State.mapPort_blocks (port : Nat) (f : Port → Port) (s : State) : (s.mapPort port f).blocks = s.blocks := rfl
@[simp] theorem State.mapPort_cores (port : Nat) (f : Port → Port) (s : State) : (s.mapPort port f).cores = s.cores := rfl
@[simp] theorem State.mapPort_agenda (port : Nat) (f : Port → Port) (s : State) : (s.mapPort port f).agenda = s.agenda := rfl
@[simp] theorem State.mapPort_free (port : Nat) (f : Port → Port) (s : State) : (s.mapPort port f).free = s.free := rfl
@[simp] theorem State.mapPort_nextId (port : Nat) (f : Port → Port) (s : State) : (s.mapPort port f).nextId = s.nextId := rfl
@[simp] theorem State.mapPort_dram (port : Nat) (f : Port → Port) (s : State) : (s.mapPort port f).dram = s.dram := rfl
@[simp] theorem State.mapPort_slices (port : Nat) (f : Port → Port) (s : State) : (s.mapPort port f).slices = s.slices := rfl
@[simp] theorem State.mapPort_poison (port : Nat) (f : Port → Port) (s : State) : (s.mapPort port f).poison = s.poison := rfl
@[simp] theorem State.mapPort_graftLog (port : Nat) (f : Port → Port) (s : State) : (s.mapPort port f).graftLog = s.graftLog := rfl
@[simp] theorem State.mapPort_dies (port : Nat) (f : Port → Port) (s : State) : (s.mapPort port f).dies = s.dies := rfl
@[simp] theorem State.mapPort_links (port : Nat) (f : Port → Port) (s : State) : (s.mapPort port f).links = s.links := rfl
@[simp] theorem State.mapPort_clusters (port : Nat) (f : Port → Port) (s : State) : (s.mapPort port f).clusters = s.clusters := rfl
@[simp] theorem State.mapPort_groupBars (port : Nat) (f : Port → Port) (s : State) : (s.mapPort port f).groupBars = s.groupBars := rfl
@[simp] theorem State.mapPort_images (port : Nat) (f : Port → Port) (s : State) : (s.mapPort port f).images = s.images := rfl
@[simp] theorem State.mapPort_bindings (port : Nat) (f : Port → Port) (s : State) : (s.mapPort port f).bindings = s.bindings := rfl
@[simp] theorem State.mapPort_xd (port : Nat) (f : Port → Port) (s : State) : (s.mapPort port f).xd = s.xd := rfl
@[simp] theorem State.mapPort_copies (port : Nat) (f : Port → Port) (s : State) : (s.mapPort port f).copies = s.copies := rfl
@[simp] theorem State.mapPort_mxops (port : Nat) (f : Port → Port) (s : State) : (s.mapPort port f).mxops = s.mxops := rfl
@[simp] theorem State.mapPort_sows (port : Nat) (f : Port → Port) (s : State) : (s.mapPort port f).sows = s.sows := rfl
@[simp] theorem State.mapPort_beds (port : Nat) (f : Port → Port) (s : State) : (s.mapPort port f).beds = s.beds := rfl
@[simp] theorem State.mapPort_vds (port : Nat) (f : Port → Port) (s : State) : (s.mapPort port f).vds = s.vds := rfl
@[simp] theorem State.mapPort_stage2 (port : Nat) (f : Port → Port) (s : State) : (s.mapPort port f).stage2 = s.stage2 := rfl
@[simp] theorem State.mapPort_pkgFaults (port : Nat) (f : Port → Port) (s : State) : (s.mapPort port f).pkgFaults = s.pkgFaults := rfl
@[simp] theorem State.mapPort_tlb (port : Nat) (f : Port → Port) (s : State) : (s.mapPort port f).tlb = s.tlb := rfl
@[simp] theorem State.mapPort_walks (port : Nat) (f : Port → Port) (s : State) : (s.mapPort port f).walks = s.walks := rfl
@[simp] theorem State.mapPort_uses (port : Nat) (f : Port → Port) (s : State) : (s.mapPort port f).uses = s.uses := rfl
@[simp] theorem State.mapPort_queues (port : Nat) (f : Port → Port) (s : State) : (s.mapPort port f).queues = s.queues := rfl
@[simp] theorem State.mapPort_launches (port : Nat) (f : Port → Port) (s : State) : (s.mapPort port f).launches = s.launches := rfl
@[simp] theorem State.mapPort_tasks (port : Nat) (f : Port → Port) (s : State) : (s.mapPort port f).tasks = s.tasks := rfl
@[simp] theorem State.mapPort_nodes (port : Nat) (f : Port → Port) (s : State) : (s.mapPort port f).nodes = s.nodes := rfl
@[simp] theorem State.mapPort_classes (port : Nat) (f : Port → Port) (s : State) : (s.mapPort port f).classes = s.classes := rfl
@[simp] theorem State.mapPort_control (port : Nat) (f : Port → Port) (s : State) : (s.mapPort port f).control = s.control := rfl
@[simp] theorem State.mapPort_hostOps (port : Nat) (f : Port → Port) (s : State) : (s.mapPort port f).hostOps = s.hostOps := rfl
@[simp] theorem State.mapPort_outbox (port : Nat) (f : Port → Port) (s : State) : (s.mapPort port f).outbox = s.outbox := rfl


/-! State.due -/

@[simp] theorem State.due_now (dt : Nat) (ev : Instr) (s : State) : (s.due dt ev).now = s.now := rfl
@[simp] theorem State.due_me (dt : Nat) (ev : Instr) (s : State) : (s.due dt ev).me = s.me := rfl
@[simp] theorem State.due_blk (dt : Nat) (ev : Instr) (s : State) : (s.due dt ev).blk = s.blk := rfl
@[simp] theorem State.due_core (dt : Nat) (ev : Instr) (s : State) : (s.due dt ev).core = s.core := rfl
@[simp] theorem State.due_strands (dt : Nat) (ev : Instr) (s : State) : (s.due dt ev).strands = s.strands := rfl
@[simp] theorem State.due_blocks (dt : Nat) (ev : Instr) (s : State) : (s.due dt ev).blocks = s.blocks := rfl
@[simp] theorem State.due_cores (dt : Nat) (ev : Instr) (s : State) : (s.due dt ev).cores = s.cores := rfl
@[simp] theorem State.due_free (dt : Nat) (ev : Instr) (s : State) : (s.due dt ev).free = s.free := rfl
@[simp] theorem State.due_nextId (dt : Nat) (ev : Instr) (s : State) : (s.due dt ev).nextId = s.nextId := rfl
@[simp] theorem State.due_dram (dt : Nat) (ev : Instr) (s : State) : (s.due dt ev).dram = s.dram := rfl
@[simp] theorem State.due_slices (dt : Nat) (ev : Instr) (s : State) : (s.due dt ev).slices = s.slices := rfl
@[simp] theorem State.due_poison (dt : Nat) (ev : Instr) (s : State) : (s.due dt ev).poison = s.poison := rfl
@[simp] theorem State.due_graftLog (dt : Nat) (ev : Instr) (s : State) : (s.due dt ev).graftLog = s.graftLog := rfl
@[simp] theorem State.due_dies (dt : Nat) (ev : Instr) (s : State) : (s.due dt ev).dies = s.dies := rfl
@[simp] theorem State.due_links (dt : Nat) (ev : Instr) (s : State) : (s.due dt ev).links = s.links := rfl
@[simp] theorem State.due_ports (dt : Nat) (ev : Instr) (s : State) : (s.due dt ev).ports = s.ports := rfl
@[simp] theorem State.due_clusters (dt : Nat) (ev : Instr) (s : State) : (s.due dt ev).clusters = s.clusters := rfl
@[simp] theorem State.due_groupBars (dt : Nat) (ev : Instr) (s : State) : (s.due dt ev).groupBars = s.groupBars := rfl
@[simp] theorem State.due_images (dt : Nat) (ev : Instr) (s : State) : (s.due dt ev).images = s.images := rfl
@[simp] theorem State.due_bindings (dt : Nat) (ev : Instr) (s : State) : (s.due dt ev).bindings = s.bindings := rfl
@[simp] theorem State.due_xd (dt : Nat) (ev : Instr) (s : State) : (s.due dt ev).xd = s.xd := rfl
@[simp] theorem State.due_copies (dt : Nat) (ev : Instr) (s : State) : (s.due dt ev).copies = s.copies := rfl
@[simp] theorem State.due_mxops (dt : Nat) (ev : Instr) (s : State) : (s.due dt ev).mxops = s.mxops := rfl
@[simp] theorem State.due_sows (dt : Nat) (ev : Instr) (s : State) : (s.due dt ev).sows = s.sows := rfl
@[simp] theorem State.due_beds (dt : Nat) (ev : Instr) (s : State) : (s.due dt ev).beds = s.beds := rfl
@[simp] theorem State.due_vds (dt : Nat) (ev : Instr) (s : State) : (s.due dt ev).vds = s.vds := rfl
@[simp] theorem State.due_stage2 (dt : Nat) (ev : Instr) (s : State) : (s.due dt ev).stage2 = s.stage2 := rfl
@[simp] theorem State.due_pkgFaults (dt : Nat) (ev : Instr) (s : State) : (s.due dt ev).pkgFaults = s.pkgFaults := rfl
@[simp] theorem State.due_tlb (dt : Nat) (ev : Instr) (s : State) : (s.due dt ev).tlb = s.tlb := rfl
@[simp] theorem State.due_walks (dt : Nat) (ev : Instr) (s : State) : (s.due dt ev).walks = s.walks := rfl
@[simp] theorem State.due_uses (dt : Nat) (ev : Instr) (s : State) : (s.due dt ev).uses = s.uses := rfl
@[simp] theorem State.due_queues (dt : Nat) (ev : Instr) (s : State) : (s.due dt ev).queues = s.queues := rfl
@[simp] theorem State.due_launches (dt : Nat) (ev : Instr) (s : State) : (s.due dt ev).launches = s.launches := rfl
@[simp] theorem State.due_tasks (dt : Nat) (ev : Instr) (s : State) : (s.due dt ev).tasks = s.tasks := rfl
@[simp] theorem State.due_nodes (dt : Nat) (ev : Instr) (s : State) : (s.due dt ev).nodes = s.nodes := rfl
@[simp] theorem State.due_classes (dt : Nat) (ev : Instr) (s : State) : (s.due dt ev).classes = s.classes := rfl
@[simp] theorem State.due_control (dt : Nat) (ev : Instr) (s : State) : (s.due dt ev).control = s.control := rfl
@[simp] theorem State.due_hostOps (dt : Nat) (ev : Instr) (s : State) : (s.due dt ev).hostOps = s.hostOps := rfl
@[simp] theorem State.due_outbox (dt : Nat) (ev : Instr) (s : State) : (s.due dt ev).outbox = s.outbox := rfl

@[simp] theorem State.due_agenda (dt : Nat) (ev : Instr) (s : State) : (s.due dt ev).agenda = s.agenda ++ [{ at_ := s.now + dt, ev := ev }] := rfl

/-! State.dueOnce -/

@[simp] theorem State.dueOnce_now (dt : Nat) (ev : Instr) (s : State) : (s.dueOnce dt ev).now = s.now := by
  unfold State.dueOnce; split <;> rfl
@[simp] theorem State.dueOnce_me (dt : Nat) (ev : Instr) (s : State) : (s.dueOnce dt ev).me = s.me := by
  unfold State.dueOnce; split <;> rfl
@[simp] theorem State.dueOnce_blk (dt : Nat) (ev : Instr) (s : State) : (s.dueOnce dt ev).blk = s.blk := by
  unfold State.dueOnce; split <;> rfl
@[simp] theorem State.dueOnce_core (dt : Nat) (ev : Instr) (s : State) : (s.dueOnce dt ev).core = s.core := by
  unfold State.dueOnce; split <;> rfl
@[simp] theorem State.dueOnce_strands (dt : Nat) (ev : Instr) (s : State) : (s.dueOnce dt ev).strands = s.strands := by
  unfold State.dueOnce; split <;> rfl
@[simp] theorem State.dueOnce_blocks (dt : Nat) (ev : Instr) (s : State) : (s.dueOnce dt ev).blocks = s.blocks := by
  unfold State.dueOnce; split <;> rfl
@[simp] theorem State.dueOnce_cores (dt : Nat) (ev : Instr) (s : State) : (s.dueOnce dt ev).cores = s.cores := by
  unfold State.dueOnce; split <;> rfl
@[simp] theorem State.dueOnce_free (dt : Nat) (ev : Instr) (s : State) : (s.dueOnce dt ev).free = s.free := by
  unfold State.dueOnce; split <;> rfl
@[simp] theorem State.dueOnce_nextId (dt : Nat) (ev : Instr) (s : State) : (s.dueOnce dt ev).nextId = s.nextId := by
  unfold State.dueOnce; split <;> rfl
@[simp] theorem State.dueOnce_dram (dt : Nat) (ev : Instr) (s : State) : (s.dueOnce dt ev).dram = s.dram := by
  unfold State.dueOnce; split <;> rfl
@[simp] theorem State.dueOnce_slices (dt : Nat) (ev : Instr) (s : State) : (s.dueOnce dt ev).slices = s.slices := by
  unfold State.dueOnce; split <;> rfl
@[simp] theorem State.dueOnce_poison (dt : Nat) (ev : Instr) (s : State) : (s.dueOnce dt ev).poison = s.poison := by
  unfold State.dueOnce; split <;> rfl
@[simp] theorem State.dueOnce_graftLog (dt : Nat) (ev : Instr) (s : State) : (s.dueOnce dt ev).graftLog = s.graftLog := by
  unfold State.dueOnce; split <;> rfl
@[simp] theorem State.dueOnce_dies (dt : Nat) (ev : Instr) (s : State) : (s.dueOnce dt ev).dies = s.dies := by
  unfold State.dueOnce; split <;> rfl
@[simp] theorem State.dueOnce_links (dt : Nat) (ev : Instr) (s : State) : (s.dueOnce dt ev).links = s.links := by
  unfold State.dueOnce; split <;> rfl
@[simp] theorem State.dueOnce_ports (dt : Nat) (ev : Instr) (s : State) : (s.dueOnce dt ev).ports = s.ports := by
  unfold State.dueOnce; split <;> rfl
@[simp] theorem State.dueOnce_clusters (dt : Nat) (ev : Instr) (s : State) : (s.dueOnce dt ev).clusters = s.clusters := by
  unfold State.dueOnce; split <;> rfl
@[simp] theorem State.dueOnce_groupBars (dt : Nat) (ev : Instr) (s : State) : (s.dueOnce dt ev).groupBars = s.groupBars := by
  unfold State.dueOnce; split <;> rfl
@[simp] theorem State.dueOnce_images (dt : Nat) (ev : Instr) (s : State) : (s.dueOnce dt ev).images = s.images := by
  unfold State.dueOnce; split <;> rfl
@[simp] theorem State.dueOnce_bindings (dt : Nat) (ev : Instr) (s : State) : (s.dueOnce dt ev).bindings = s.bindings := by
  unfold State.dueOnce; split <;> rfl
@[simp] theorem State.dueOnce_xd (dt : Nat) (ev : Instr) (s : State) : (s.dueOnce dt ev).xd = s.xd := by
  unfold State.dueOnce; split <;> rfl
@[simp] theorem State.dueOnce_copies (dt : Nat) (ev : Instr) (s : State) : (s.dueOnce dt ev).copies = s.copies := by
  unfold State.dueOnce; split <;> rfl
@[simp] theorem State.dueOnce_mxops (dt : Nat) (ev : Instr) (s : State) : (s.dueOnce dt ev).mxops = s.mxops := by
  unfold State.dueOnce; split <;> rfl
@[simp] theorem State.dueOnce_sows (dt : Nat) (ev : Instr) (s : State) : (s.dueOnce dt ev).sows = s.sows := by
  unfold State.dueOnce; split <;> rfl
@[simp] theorem State.dueOnce_beds (dt : Nat) (ev : Instr) (s : State) : (s.dueOnce dt ev).beds = s.beds := by
  unfold State.dueOnce; split <;> rfl
@[simp] theorem State.dueOnce_vds (dt : Nat) (ev : Instr) (s : State) : (s.dueOnce dt ev).vds = s.vds := by
  unfold State.dueOnce; split <;> rfl
@[simp] theorem State.dueOnce_stage2 (dt : Nat) (ev : Instr) (s : State) : (s.dueOnce dt ev).stage2 = s.stage2 := by
  unfold State.dueOnce; split <;> rfl
@[simp] theorem State.dueOnce_pkgFaults (dt : Nat) (ev : Instr) (s : State) : (s.dueOnce dt ev).pkgFaults = s.pkgFaults := by
  unfold State.dueOnce; split <;> rfl
@[simp] theorem State.dueOnce_tlb (dt : Nat) (ev : Instr) (s : State) : (s.dueOnce dt ev).tlb = s.tlb := by
  unfold State.dueOnce; split <;> rfl
@[simp] theorem State.dueOnce_walks (dt : Nat) (ev : Instr) (s : State) : (s.dueOnce dt ev).walks = s.walks := by
  unfold State.dueOnce; split <;> rfl
@[simp] theorem State.dueOnce_uses (dt : Nat) (ev : Instr) (s : State) : (s.dueOnce dt ev).uses = s.uses := by
  unfold State.dueOnce; split <;> rfl
@[simp] theorem State.dueOnce_queues (dt : Nat) (ev : Instr) (s : State) : (s.dueOnce dt ev).queues = s.queues := by
  unfold State.dueOnce; split <;> rfl
@[simp] theorem State.dueOnce_launches (dt : Nat) (ev : Instr) (s : State) : (s.dueOnce dt ev).launches = s.launches := by
  unfold State.dueOnce; split <;> rfl
@[simp] theorem State.dueOnce_tasks (dt : Nat) (ev : Instr) (s : State) : (s.dueOnce dt ev).tasks = s.tasks := by
  unfold State.dueOnce; split <;> rfl
@[simp] theorem State.dueOnce_nodes (dt : Nat) (ev : Instr) (s : State) : (s.dueOnce dt ev).nodes = s.nodes := by
  unfold State.dueOnce; split <;> rfl
@[simp] theorem State.dueOnce_classes (dt : Nat) (ev : Instr) (s : State) : (s.dueOnce dt ev).classes = s.classes := by
  unfold State.dueOnce; split <;> rfl
@[simp] theorem State.dueOnce_control (dt : Nat) (ev : Instr) (s : State) : (s.dueOnce dt ev).control = s.control := by
  unfold State.dueOnce; split <;> rfl
@[simp] theorem State.dueOnce_hostOps (dt : Nat) (ev : Instr) (s : State) : (s.dueOnce dt ev).hostOps = s.hostOps := by
  unfold State.dueOnce; split <;> rfl
@[simp] theorem State.dueOnce_outbox (dt : Nat) (ev : Instr) (s : State) : (s.dueOnce dt ev).outbox = s.outbox := by
  unfold State.dueOnce; split <;> rfl


/-! State.undue -/

@[simp] theorem State.undue_now (ev : Instr) (s : State) : (s.undue ev).now = s.now := rfl
@[simp] theorem State.undue_me (ev : Instr) (s : State) : (s.undue ev).me = s.me := rfl
@[simp] theorem State.undue_blk (ev : Instr) (s : State) : (s.undue ev).blk = s.blk := rfl
@[simp] theorem State.undue_core (ev : Instr) (s : State) : (s.undue ev).core = s.core := rfl
@[simp] theorem State.undue_strands (ev : Instr) (s : State) : (s.undue ev).strands = s.strands := rfl
@[simp] theorem State.undue_blocks (ev : Instr) (s : State) : (s.undue ev).blocks = s.blocks := rfl
@[simp] theorem State.undue_cores (ev : Instr) (s : State) : (s.undue ev).cores = s.cores := rfl
@[simp] theorem State.undue_free (ev : Instr) (s : State) : (s.undue ev).free = s.free := rfl
@[simp] theorem State.undue_nextId (ev : Instr) (s : State) : (s.undue ev).nextId = s.nextId := rfl
@[simp] theorem State.undue_dram (ev : Instr) (s : State) : (s.undue ev).dram = s.dram := rfl
@[simp] theorem State.undue_slices (ev : Instr) (s : State) : (s.undue ev).slices = s.slices := rfl
@[simp] theorem State.undue_poison (ev : Instr) (s : State) : (s.undue ev).poison = s.poison := rfl
@[simp] theorem State.undue_graftLog (ev : Instr) (s : State) : (s.undue ev).graftLog = s.graftLog := rfl
@[simp] theorem State.undue_dies (ev : Instr) (s : State) : (s.undue ev).dies = s.dies := rfl
@[simp] theorem State.undue_links (ev : Instr) (s : State) : (s.undue ev).links = s.links := rfl
@[simp] theorem State.undue_ports (ev : Instr) (s : State) : (s.undue ev).ports = s.ports := rfl
@[simp] theorem State.undue_clusters (ev : Instr) (s : State) : (s.undue ev).clusters = s.clusters := rfl
@[simp] theorem State.undue_groupBars (ev : Instr) (s : State) : (s.undue ev).groupBars = s.groupBars := rfl
@[simp] theorem State.undue_images (ev : Instr) (s : State) : (s.undue ev).images = s.images := rfl
@[simp] theorem State.undue_bindings (ev : Instr) (s : State) : (s.undue ev).bindings = s.bindings := rfl
@[simp] theorem State.undue_xd (ev : Instr) (s : State) : (s.undue ev).xd = s.xd := rfl
@[simp] theorem State.undue_copies (ev : Instr) (s : State) : (s.undue ev).copies = s.copies := rfl
@[simp] theorem State.undue_mxops (ev : Instr) (s : State) : (s.undue ev).mxops = s.mxops := rfl
@[simp] theorem State.undue_sows (ev : Instr) (s : State) : (s.undue ev).sows = s.sows := rfl
@[simp] theorem State.undue_beds (ev : Instr) (s : State) : (s.undue ev).beds = s.beds := rfl
@[simp] theorem State.undue_vds (ev : Instr) (s : State) : (s.undue ev).vds = s.vds := rfl
@[simp] theorem State.undue_stage2 (ev : Instr) (s : State) : (s.undue ev).stage2 = s.stage2 := rfl
@[simp] theorem State.undue_pkgFaults (ev : Instr) (s : State) : (s.undue ev).pkgFaults = s.pkgFaults := rfl
@[simp] theorem State.undue_tlb (ev : Instr) (s : State) : (s.undue ev).tlb = s.tlb := rfl
@[simp] theorem State.undue_walks (ev : Instr) (s : State) : (s.undue ev).walks = s.walks := rfl
@[simp] theorem State.undue_uses (ev : Instr) (s : State) : (s.undue ev).uses = s.uses := rfl
@[simp] theorem State.undue_queues (ev : Instr) (s : State) : (s.undue ev).queues = s.queues := rfl
@[simp] theorem State.undue_launches (ev : Instr) (s : State) : (s.undue ev).launches = s.launches := rfl
@[simp] theorem State.undue_tasks (ev : Instr) (s : State) : (s.undue ev).tasks = s.tasks := rfl
@[simp] theorem State.undue_nodes (ev : Instr) (s : State) : (s.undue ev).nodes = s.nodes := rfl
@[simp] theorem State.undue_classes (ev : Instr) (s : State) : (s.undue ev).classes = s.classes := rfl
@[simp] theorem State.undue_control (ev : Instr) (s : State) : (s.undue ev).control = s.control := rfl
@[simp] theorem State.undue_hostOps (ev : Instr) (s : State) : (s.undue ev).hostOps = s.hostOps := rfl
@[simp] theorem State.undue_outbox (ev : Instr) (s : State) : (s.undue ev).outbox = s.outbox := rfl


/-! State.postFault -/

@[simp] theorem State.postFault_now (vd : Nat) (ws : List W64) (s : State) : (s.postFault vd ws).now = s.now := rfl
@[simp] theorem State.postFault_me (vd : Nat) (ws : List W64) (s : State) : (s.postFault vd ws).me = s.me := rfl
@[simp] theorem State.postFault_blk (vd : Nat) (ws : List W64) (s : State) : (s.postFault vd ws).blk = s.blk := rfl
@[simp] theorem State.postFault_core (vd : Nat) (ws : List W64) (s : State) : (s.postFault vd ws).core = s.core := rfl
@[simp] theorem State.postFault_strands (vd : Nat) (ws : List W64) (s : State) : (s.postFault vd ws).strands = s.strands := rfl
@[simp] theorem State.postFault_blocks (vd : Nat) (ws : List W64) (s : State) : (s.postFault vd ws).blocks = s.blocks := rfl
@[simp] theorem State.postFault_cores (vd : Nat) (ws : List W64) (s : State) : (s.postFault vd ws).cores = s.cores := rfl
@[simp] theorem State.postFault_agenda (vd : Nat) (ws : List W64) (s : State) : (s.postFault vd ws).agenda = s.agenda := rfl
@[simp] theorem State.postFault_free (vd : Nat) (ws : List W64) (s : State) : (s.postFault vd ws).free = s.free := rfl
@[simp] theorem State.postFault_nextId (vd : Nat) (ws : List W64) (s : State) : (s.postFault vd ws).nextId = s.nextId := rfl
@[simp] theorem State.postFault_dram (vd : Nat) (ws : List W64) (s : State) : (s.postFault vd ws).dram = s.dram := rfl
@[simp] theorem State.postFault_slices (vd : Nat) (ws : List W64) (s : State) : (s.postFault vd ws).slices = s.slices := rfl
@[simp] theorem State.postFault_poison (vd : Nat) (ws : List W64) (s : State) : (s.postFault vd ws).poison = s.poison := rfl
@[simp] theorem State.postFault_graftLog (vd : Nat) (ws : List W64) (s : State) : (s.postFault vd ws).graftLog = s.graftLog := rfl
@[simp] theorem State.postFault_dies (vd : Nat) (ws : List W64) (s : State) : (s.postFault vd ws).dies = s.dies := rfl
@[simp] theorem State.postFault_links (vd : Nat) (ws : List W64) (s : State) : (s.postFault vd ws).links = s.links := rfl
@[simp] theorem State.postFault_ports (vd : Nat) (ws : List W64) (s : State) : (s.postFault vd ws).ports = s.ports := rfl
@[simp] theorem State.postFault_clusters (vd : Nat) (ws : List W64) (s : State) : (s.postFault vd ws).clusters = s.clusters := rfl
@[simp] theorem State.postFault_groupBars (vd : Nat) (ws : List W64) (s : State) : (s.postFault vd ws).groupBars = s.groupBars := rfl
@[simp] theorem State.postFault_images (vd : Nat) (ws : List W64) (s : State) : (s.postFault vd ws).images = s.images := rfl
@[simp] theorem State.postFault_bindings (vd : Nat) (ws : List W64) (s : State) : (s.postFault vd ws).bindings = s.bindings := rfl
@[simp] theorem State.postFault_xd (vd : Nat) (ws : List W64) (s : State) : (s.postFault vd ws).xd = s.xd := rfl
@[simp] theorem State.postFault_copies (vd : Nat) (ws : List W64) (s : State) : (s.postFault vd ws).copies = s.copies := rfl
@[simp] theorem State.postFault_mxops (vd : Nat) (ws : List W64) (s : State) : (s.postFault vd ws).mxops = s.mxops := rfl
@[simp] theorem State.postFault_sows (vd : Nat) (ws : List W64) (s : State) : (s.postFault vd ws).sows = s.sows := rfl
@[simp] theorem State.postFault_beds (vd : Nat) (ws : List W64) (s : State) : (s.postFault vd ws).beds = s.beds := rfl
@[simp] theorem State.postFault_stage2 (vd : Nat) (ws : List W64) (s : State) : (s.postFault vd ws).stage2 = s.stage2 := rfl
@[simp] theorem State.postFault_pkgFaults (vd : Nat) (ws : List W64) (s : State) : (s.postFault vd ws).pkgFaults = s.pkgFaults := rfl
@[simp] theorem State.postFault_tlb (vd : Nat) (ws : List W64) (s : State) : (s.postFault vd ws).tlb = s.tlb := rfl
@[simp] theorem State.postFault_walks (vd : Nat) (ws : List W64) (s : State) : (s.postFault vd ws).walks = s.walks := rfl
@[simp] theorem State.postFault_uses (vd : Nat) (ws : List W64) (s : State) : (s.postFault vd ws).uses = s.uses := rfl
@[simp] theorem State.postFault_queues (vd : Nat) (ws : List W64) (s : State) : (s.postFault vd ws).queues = s.queues := rfl
@[simp] theorem State.postFault_launches (vd : Nat) (ws : List W64) (s : State) : (s.postFault vd ws).launches = s.launches := rfl
@[simp] theorem State.postFault_tasks (vd : Nat) (ws : List W64) (s : State) : (s.postFault vd ws).tasks = s.tasks := rfl
@[simp] theorem State.postFault_nodes (vd : Nat) (ws : List W64) (s : State) : (s.postFault vd ws).nodes = s.nodes := rfl
@[simp] theorem State.postFault_classes (vd : Nat) (ws : List W64) (s : State) : (s.postFault vd ws).classes = s.classes := rfl
@[simp] theorem State.postFault_control (vd : Nat) (ws : List W64) (s : State) : (s.postFault vd ws).control = s.control := rfl
@[simp] theorem State.postFault_hostOps (vd : Nat) (ws : List W64) (s : State) : (s.postFault vd ws).hostOps = s.hostOps := rfl
@[simp] theorem State.postFault_outbox (vd : Nat) (ws : List W64) (s : State) : (s.postFault vd ws).outbox = s.outbox := rfl


/-! State.postPackageFault -/

@[simp] theorem State.postPackageFault_now (ws : List W64) (s : State) : (s.postPackageFault ws).now = s.now := rfl
@[simp] theorem State.postPackageFault_me (ws : List W64) (s : State) : (s.postPackageFault ws).me = s.me := rfl
@[simp] theorem State.postPackageFault_blk (ws : List W64) (s : State) : (s.postPackageFault ws).blk = s.blk := rfl
@[simp] theorem State.postPackageFault_core (ws : List W64) (s : State) : (s.postPackageFault ws).core = s.core := rfl
@[simp] theorem State.postPackageFault_strands (ws : List W64) (s : State) : (s.postPackageFault ws).strands = s.strands := rfl
@[simp] theorem State.postPackageFault_blocks (ws : List W64) (s : State) : (s.postPackageFault ws).blocks = s.blocks := rfl
@[simp] theorem State.postPackageFault_cores (ws : List W64) (s : State) : (s.postPackageFault ws).cores = s.cores := rfl
@[simp] theorem State.postPackageFault_agenda (ws : List W64) (s : State) : (s.postPackageFault ws).agenda = s.agenda := rfl
@[simp] theorem State.postPackageFault_free (ws : List W64) (s : State) : (s.postPackageFault ws).free = s.free := rfl
@[simp] theorem State.postPackageFault_nextId (ws : List W64) (s : State) : (s.postPackageFault ws).nextId = s.nextId := rfl
@[simp] theorem State.postPackageFault_dram (ws : List W64) (s : State) : (s.postPackageFault ws).dram = s.dram := rfl
@[simp] theorem State.postPackageFault_slices (ws : List W64) (s : State) : (s.postPackageFault ws).slices = s.slices := rfl
@[simp] theorem State.postPackageFault_poison (ws : List W64) (s : State) : (s.postPackageFault ws).poison = s.poison := rfl
@[simp] theorem State.postPackageFault_graftLog (ws : List W64) (s : State) : (s.postPackageFault ws).graftLog = s.graftLog := rfl
@[simp] theorem State.postPackageFault_dies (ws : List W64) (s : State) : (s.postPackageFault ws).dies = s.dies := rfl
@[simp] theorem State.postPackageFault_links (ws : List W64) (s : State) : (s.postPackageFault ws).links = s.links := rfl
@[simp] theorem State.postPackageFault_ports (ws : List W64) (s : State) : (s.postPackageFault ws).ports = s.ports := rfl
@[simp] theorem State.postPackageFault_clusters (ws : List W64) (s : State) : (s.postPackageFault ws).clusters = s.clusters := rfl
@[simp] theorem State.postPackageFault_groupBars (ws : List W64) (s : State) : (s.postPackageFault ws).groupBars = s.groupBars := rfl
@[simp] theorem State.postPackageFault_images (ws : List W64) (s : State) : (s.postPackageFault ws).images = s.images := rfl
@[simp] theorem State.postPackageFault_bindings (ws : List W64) (s : State) : (s.postPackageFault ws).bindings = s.bindings := rfl
@[simp] theorem State.postPackageFault_xd (ws : List W64) (s : State) : (s.postPackageFault ws).xd = s.xd := rfl
@[simp] theorem State.postPackageFault_copies (ws : List W64) (s : State) : (s.postPackageFault ws).copies = s.copies := rfl
@[simp] theorem State.postPackageFault_mxops (ws : List W64) (s : State) : (s.postPackageFault ws).mxops = s.mxops := rfl
@[simp] theorem State.postPackageFault_sows (ws : List W64) (s : State) : (s.postPackageFault ws).sows = s.sows := rfl
@[simp] theorem State.postPackageFault_beds (ws : List W64) (s : State) : (s.postPackageFault ws).beds = s.beds := rfl
@[simp] theorem State.postPackageFault_vds (ws : List W64) (s : State) : (s.postPackageFault ws).vds = s.vds := rfl
@[simp] theorem State.postPackageFault_stage2 (ws : List W64) (s : State) : (s.postPackageFault ws).stage2 = s.stage2 := rfl
@[simp] theorem State.postPackageFault_tlb (ws : List W64) (s : State) : (s.postPackageFault ws).tlb = s.tlb := rfl
@[simp] theorem State.postPackageFault_walks (ws : List W64) (s : State) : (s.postPackageFault ws).walks = s.walks := rfl
@[simp] theorem State.postPackageFault_uses (ws : List W64) (s : State) : (s.postPackageFault ws).uses = s.uses := rfl
@[simp] theorem State.postPackageFault_queues (ws : List W64) (s : State) : (s.postPackageFault ws).queues = s.queues := rfl
@[simp] theorem State.postPackageFault_launches (ws : List W64) (s : State) : (s.postPackageFault ws).launches = s.launches := rfl
@[simp] theorem State.postPackageFault_tasks (ws : List W64) (s : State) : (s.postPackageFault ws).tasks = s.tasks := rfl
@[simp] theorem State.postPackageFault_nodes (ws : List W64) (s : State) : (s.postPackageFault ws).nodes = s.nodes := rfl
@[simp] theorem State.postPackageFault_classes (ws : List W64) (s : State) : (s.postPackageFault ws).classes = s.classes := rfl
@[simp] theorem State.postPackageFault_control (ws : List W64) (s : State) : (s.postPackageFault ws).control = s.control := rfl
@[simp] theorem State.postPackageFault_hostOps (ws : List W64) (s : State) : (s.postPackageFault ws).hostOps = s.hostOps := rfl
@[simp] theorem State.postPackageFault_outbox (ws : List W64) (s : State) : (s.postPackageFault ws).outbox = s.outbox := rfl

@[simp] theorem State.postPackageFault_pkgFaults (ws : List W64) (s : State) : (s.postPackageFault ws).pkgFaults = s.pkgFaults ++ ws := rfl

/-! State.wakeStrands -/

@[simp] theorem State.wakeStrands_now (p : Strand → Bool) (s : State) : (s.wakeStrands p).now = s.now := rfl
@[simp] theorem State.wakeStrands_blk (p : Strand → Bool) (s : State) : (s.wakeStrands p).blk = s.blk := rfl
@[simp] theorem State.wakeStrands_core (p : Strand → Bool) (s : State) : (s.wakeStrands p).core = s.core := rfl
@[simp] theorem State.wakeStrands_blocks (p : Strand → Bool) (s : State) : (s.wakeStrands p).blocks = s.blocks := rfl
@[simp] theorem State.wakeStrands_cores (p : Strand → Bool) (s : State) : (s.wakeStrands p).cores = s.cores := rfl
@[simp] theorem State.wakeStrands_agenda (p : Strand → Bool) (s : State) : (s.wakeStrands p).agenda = s.agenda := rfl
@[simp] theorem State.wakeStrands_free (p : Strand → Bool) (s : State) : (s.wakeStrands p).free = s.free := rfl
@[simp] theorem State.wakeStrands_nextId (p : Strand → Bool) (s : State) : (s.wakeStrands p).nextId = s.nextId := rfl
@[simp] theorem State.wakeStrands_dram (p : Strand → Bool) (s : State) : (s.wakeStrands p).dram = s.dram := rfl
@[simp] theorem State.wakeStrands_slices (p : Strand → Bool) (s : State) : (s.wakeStrands p).slices = s.slices := rfl
@[simp] theorem State.wakeStrands_poison (p : Strand → Bool) (s : State) : (s.wakeStrands p).poison = s.poison := rfl
@[simp] theorem State.wakeStrands_graftLog (p : Strand → Bool) (s : State) : (s.wakeStrands p).graftLog = s.graftLog := rfl
@[simp] theorem State.wakeStrands_dies (p : Strand → Bool) (s : State) : (s.wakeStrands p).dies = s.dies := rfl
@[simp] theorem State.wakeStrands_links (p : Strand → Bool) (s : State) : (s.wakeStrands p).links = s.links := rfl
@[simp] theorem State.wakeStrands_ports (p : Strand → Bool) (s : State) : (s.wakeStrands p).ports = s.ports := rfl
@[simp] theorem State.wakeStrands_clusters (p : Strand → Bool) (s : State) : (s.wakeStrands p).clusters = s.clusters := rfl
@[simp] theorem State.wakeStrands_groupBars (p : Strand → Bool) (s : State) : (s.wakeStrands p).groupBars = s.groupBars := rfl
@[simp] theorem State.wakeStrands_images (p : Strand → Bool) (s : State) : (s.wakeStrands p).images = s.images := rfl
@[simp] theorem State.wakeStrands_bindings (p : Strand → Bool) (s : State) : (s.wakeStrands p).bindings = s.bindings := rfl
@[simp] theorem State.wakeStrands_xd (p : Strand → Bool) (s : State) : (s.wakeStrands p).xd = s.xd := rfl
@[simp] theorem State.wakeStrands_copies (p : Strand → Bool) (s : State) : (s.wakeStrands p).copies = s.copies := rfl
@[simp] theorem State.wakeStrands_mxops (p : Strand → Bool) (s : State) : (s.wakeStrands p).mxops = s.mxops := rfl
@[simp] theorem State.wakeStrands_sows (p : Strand → Bool) (s : State) : (s.wakeStrands p).sows = s.sows := rfl
@[simp] theorem State.wakeStrands_beds (p : Strand → Bool) (s : State) : (s.wakeStrands p).beds = s.beds := rfl
@[simp] theorem State.wakeStrands_vds (p : Strand → Bool) (s : State) : (s.wakeStrands p).vds = s.vds := rfl
@[simp] theorem State.wakeStrands_stage2 (p : Strand → Bool) (s : State) : (s.wakeStrands p).stage2 = s.stage2 := rfl
@[simp] theorem State.wakeStrands_pkgFaults (p : Strand → Bool) (s : State) : (s.wakeStrands p).pkgFaults = s.pkgFaults := rfl
@[simp] theorem State.wakeStrands_tlb (p : Strand → Bool) (s : State) : (s.wakeStrands p).tlb = s.tlb := rfl
@[simp] theorem State.wakeStrands_walks (p : Strand → Bool) (s : State) : (s.wakeStrands p).walks = s.walks := rfl
@[simp] theorem State.wakeStrands_uses (p : Strand → Bool) (s : State) : (s.wakeStrands p).uses = s.uses := rfl
@[simp] theorem State.wakeStrands_queues (p : Strand → Bool) (s : State) : (s.wakeStrands p).queues = s.queues := rfl
@[simp] theorem State.wakeStrands_launches (p : Strand → Bool) (s : State) : (s.wakeStrands p).launches = s.launches := rfl
@[simp] theorem State.wakeStrands_tasks (p : Strand → Bool) (s : State) : (s.wakeStrands p).tasks = s.tasks := rfl
@[simp] theorem State.wakeStrands_nodes (p : Strand → Bool) (s : State) : (s.wakeStrands p).nodes = s.nodes := rfl
@[simp] theorem State.wakeStrands_classes (p : Strand → Bool) (s : State) : (s.wakeStrands p).classes = s.classes := rfl
@[simp] theorem State.wakeStrands_control (p : Strand → Bool) (s : State) : (s.wakeStrands p).control = s.control := rfl
@[simp] theorem State.wakeStrands_hostOps (p : Strand → Bool) (s : State) : (s.wakeStrands p).hostOps = s.hostOps := rfl
@[simp] theorem State.wakeStrands_outbox (p : Strand → Bool) (s : State) : (s.wakeStrands p).outbox = s.outbox := rfl


/-! State.checkBlock -/

@[simp] theorem State.checkBlock_now (b : Nat) (s : State) : (s.checkBlock b).now = s.now := by
  unfold State.checkBlock; split <;> simp
@[simp] theorem State.checkBlock_me (b : Nat) (s : State) : (s.checkBlock b).me = s.me := by
  unfold State.checkBlock; split <;> simp
@[simp] theorem State.checkBlock_blk (b : Nat) (s : State) : (s.checkBlock b).blk = s.blk := by
  unfold State.checkBlock; split <;> simp
@[simp] theorem State.checkBlock_core (b : Nat) (s : State) : (s.checkBlock b).core = s.core := by
  unfold State.checkBlock; split <;> simp
@[simp] theorem State.checkBlock_strands (b : Nat) (s : State) : (s.checkBlock b).strands = s.strands := by
  unfold State.checkBlock; split <;> simp
@[simp] theorem State.checkBlock_blocks (b : Nat) (s : State) : (s.checkBlock b).blocks = s.blocks := by
  unfold State.checkBlock; split <;> simp
@[simp] theorem State.checkBlock_cores (b : Nat) (s : State) : (s.checkBlock b).cores = s.cores := by
  unfold State.checkBlock; split <;> simp
@[simp] theorem State.checkBlock_free (b : Nat) (s : State) : (s.checkBlock b).free = s.free := by
  unfold State.checkBlock; split <;> simp
@[simp] theorem State.checkBlock_nextId (b : Nat) (s : State) : (s.checkBlock b).nextId = s.nextId := by
  unfold State.checkBlock; split <;> simp
@[simp] theorem State.checkBlock_dram (b : Nat) (s : State) : (s.checkBlock b).dram = s.dram := by
  unfold State.checkBlock; split <;> simp
@[simp] theorem State.checkBlock_slices (b : Nat) (s : State) : (s.checkBlock b).slices = s.slices := by
  unfold State.checkBlock; split <;> simp
@[simp] theorem State.checkBlock_poison (b : Nat) (s : State) : (s.checkBlock b).poison = s.poison := by
  unfold State.checkBlock; split <;> simp
@[simp] theorem State.checkBlock_graftLog (b : Nat) (s : State) : (s.checkBlock b).graftLog = s.graftLog := by
  unfold State.checkBlock; split <;> simp
@[simp] theorem State.checkBlock_dies (b : Nat) (s : State) : (s.checkBlock b).dies = s.dies := by
  unfold State.checkBlock; split <;> simp
@[simp] theorem State.checkBlock_links (b : Nat) (s : State) : (s.checkBlock b).links = s.links := by
  unfold State.checkBlock; split <;> simp
@[simp] theorem State.checkBlock_ports (b : Nat) (s : State) : (s.checkBlock b).ports = s.ports := by
  unfold State.checkBlock; split <;> simp
@[simp] theorem State.checkBlock_clusters (b : Nat) (s : State) : (s.checkBlock b).clusters = s.clusters := by
  unfold State.checkBlock; split <;> simp
@[simp] theorem State.checkBlock_groupBars (b : Nat) (s : State) : (s.checkBlock b).groupBars = s.groupBars := by
  unfold State.checkBlock; split <;> simp
@[simp] theorem State.checkBlock_images (b : Nat) (s : State) : (s.checkBlock b).images = s.images := by
  unfold State.checkBlock; split <;> simp
@[simp] theorem State.checkBlock_bindings (b : Nat) (s : State) : (s.checkBlock b).bindings = s.bindings := by
  unfold State.checkBlock; split <;> simp
@[simp] theorem State.checkBlock_xd (b : Nat) (s : State) : (s.checkBlock b).xd = s.xd := by
  unfold State.checkBlock; split <;> simp
@[simp] theorem State.checkBlock_copies (b : Nat) (s : State) : (s.checkBlock b).copies = s.copies := by
  unfold State.checkBlock; split <;> simp
@[simp] theorem State.checkBlock_mxops (b : Nat) (s : State) : (s.checkBlock b).mxops = s.mxops := by
  unfold State.checkBlock; split <;> simp
@[simp] theorem State.checkBlock_sows (b : Nat) (s : State) : (s.checkBlock b).sows = s.sows := by
  unfold State.checkBlock; split <;> simp
@[simp] theorem State.checkBlock_beds (b : Nat) (s : State) : (s.checkBlock b).beds = s.beds := by
  unfold State.checkBlock; split <;> simp
@[simp] theorem State.checkBlock_vds (b : Nat) (s : State) : (s.checkBlock b).vds = s.vds := by
  unfold State.checkBlock; split <;> simp
@[simp] theorem State.checkBlock_stage2 (b : Nat) (s : State) : (s.checkBlock b).stage2 = s.stage2 := by
  unfold State.checkBlock; split <;> simp
@[simp] theorem State.checkBlock_pkgFaults (b : Nat) (s : State) : (s.checkBlock b).pkgFaults = s.pkgFaults := by
  unfold State.checkBlock; split <;> simp
@[simp] theorem State.checkBlock_tlb (b : Nat) (s : State) : (s.checkBlock b).tlb = s.tlb := by
  unfold State.checkBlock; split <;> simp
@[simp] theorem State.checkBlock_walks (b : Nat) (s : State) : (s.checkBlock b).walks = s.walks := by
  unfold State.checkBlock; split <;> simp
@[simp] theorem State.checkBlock_uses (b : Nat) (s : State) : (s.checkBlock b).uses = s.uses := by
  unfold State.checkBlock; split <;> simp
@[simp] theorem State.checkBlock_queues (b : Nat) (s : State) : (s.checkBlock b).queues = s.queues := by
  unfold State.checkBlock; split <;> simp
@[simp] theorem State.checkBlock_launches (b : Nat) (s : State) : (s.checkBlock b).launches = s.launches := by
  unfold State.checkBlock; split <;> simp
@[simp] theorem State.checkBlock_tasks (b : Nat) (s : State) : (s.checkBlock b).tasks = s.tasks := by
  unfold State.checkBlock; split <;> simp
@[simp] theorem State.checkBlock_nodes (b : Nat) (s : State) : (s.checkBlock b).nodes = s.nodes := by
  unfold State.checkBlock; split <;> simp
@[simp] theorem State.checkBlock_classes (b : Nat) (s : State) : (s.checkBlock b).classes = s.classes := by
  unfold State.checkBlock; split <;> simp
@[simp] theorem State.checkBlock_control (b : Nat) (s : State) : (s.checkBlock b).control = s.control := by
  unfold State.checkBlock; split <;> simp
@[simp] theorem State.checkBlock_hostOps (b : Nat) (s : State) : (s.checkBlock b).hostOps = s.hostOps := by
  unfold State.checkBlock; split <;> simp
@[simp] theorem State.checkBlock_outbox (b : Nat) (s : State) : (s.checkBlock b).outbox = s.outbox := by
  unfold State.checkBlock; split <;> simp


/-! State.settle -/

@[simp] theorem State.settle_now (s : State) : (s.settle).now = s.now := rfl
@[simp] theorem State.settle_blk (s : State) : (s.settle).blk = s.blk := rfl
@[simp] theorem State.settle_core (s : State) : (s.settle).core = s.core := rfl
@[simp] theorem State.settle_strands (s : State) : (s.settle).strands = s.strands := rfl
@[simp] theorem State.settle_blocks (s : State) : (s.settle).blocks = s.blocks := rfl
@[simp] theorem State.settle_cores (s : State) : (s.settle).cores = s.cores := rfl
@[simp] theorem State.settle_agenda (s : State) : (s.settle).agenda = s.agenda := rfl
@[simp] theorem State.settle_free (s : State) : (s.settle).free = s.free := rfl
@[simp] theorem State.settle_nextId (s : State) : (s.settle).nextId = s.nextId := rfl
@[simp] theorem State.settle_dram (s : State) : (s.settle).dram = s.dram := rfl
@[simp] theorem State.settle_slices (s : State) : (s.settle).slices = s.slices := rfl
@[simp] theorem State.settle_poison (s : State) : (s.settle).poison = s.poison := rfl
@[simp] theorem State.settle_graftLog (s : State) : (s.settle).graftLog = s.graftLog := rfl
@[simp] theorem State.settle_dies (s : State) : (s.settle).dies = s.dies := rfl
@[simp] theorem State.settle_links (s : State) : (s.settle).links = s.links := rfl
@[simp] theorem State.settle_ports (s : State) : (s.settle).ports = s.ports := rfl
@[simp] theorem State.settle_clusters (s : State) : (s.settle).clusters = s.clusters := rfl
@[simp] theorem State.settle_groupBars (s : State) : (s.settle).groupBars = s.groupBars := rfl
@[simp] theorem State.settle_images (s : State) : (s.settle).images = s.images := rfl
@[simp] theorem State.settle_bindings (s : State) : (s.settle).bindings = s.bindings := rfl
@[simp] theorem State.settle_xd (s : State) : (s.settle).xd = s.xd := rfl
@[simp] theorem State.settle_copies (s : State) : (s.settle).copies = s.copies := rfl
@[simp] theorem State.settle_mxops (s : State) : (s.settle).mxops = s.mxops := rfl
@[simp] theorem State.settle_sows (s : State) : (s.settle).sows = s.sows := rfl
@[simp] theorem State.settle_beds (s : State) : (s.settle).beds = s.beds := rfl
@[simp] theorem State.settle_vds (s : State) : (s.settle).vds = s.vds := rfl
@[simp] theorem State.settle_stage2 (s : State) : (s.settle).stage2 = s.stage2 := rfl
@[simp] theorem State.settle_pkgFaults (s : State) : (s.settle).pkgFaults = s.pkgFaults := rfl
@[simp] theorem State.settle_tlb (s : State) : (s.settle).tlb = s.tlb := rfl
@[simp] theorem State.settle_walks (s : State) : (s.settle).walks = s.walks := rfl
@[simp] theorem State.settle_uses (s : State) : (s.settle).uses = s.uses := rfl
@[simp] theorem State.settle_queues (s : State) : (s.settle).queues = s.queues := rfl
@[simp] theorem State.settle_launches (s : State) : (s.settle).launches = s.launches := rfl
@[simp] theorem State.settle_tasks (s : State) : (s.settle).tasks = s.tasks := rfl
@[simp] theorem State.settle_nodes (s : State) : (s.settle).nodes = s.nodes := rfl
@[simp] theorem State.settle_classes (s : State) : (s.settle).classes = s.classes := rfl
@[simp] theorem State.settle_control (s : State) : (s.settle).control = s.control := rfl
@[simp] theorem State.settle_hostOps (s : State) : (s.settle).hostOps = s.hostOps := rfl
@[simp] theorem State.settle_outbox (s : State) : (s.settle).outbox = s.outbox := rfl


/-! State.stepEnd -/

@[simp] theorem State.stepEnd_now (s : State) : (s.stepEnd).now = s.now := by
  unfold State.stepEnd; split <;> simp
@[simp] theorem State.stepEnd_blk (s : State) : (s.stepEnd).blk = s.blk := by
  unfold State.stepEnd; split <;> simp
@[simp] theorem State.stepEnd_core (s : State) : (s.stepEnd).core = s.core := by
  unfold State.stepEnd; split <;> simp
@[simp] theorem State.stepEnd_strands (s : State) : (s.stepEnd).strands = s.strands := by
  unfold State.stepEnd; split <;> simp
@[simp] theorem State.stepEnd_blocks (s : State) : (s.stepEnd).blocks = s.blocks := by
  unfold State.stepEnd; split <;> simp
@[simp] theorem State.stepEnd_cores (s : State) : (s.stepEnd).cores = s.cores := by
  unfold State.stepEnd; split <;> simp
@[simp] theorem State.stepEnd_free (s : State) : (s.stepEnd).free = s.free := by
  unfold State.stepEnd; split <;> simp
@[simp] theorem State.stepEnd_nextId (s : State) : (s.stepEnd).nextId = s.nextId := by
  unfold State.stepEnd; split <;> simp
@[simp] theorem State.stepEnd_dram (s : State) : (s.stepEnd).dram = s.dram := by
  unfold State.stepEnd; split <;> simp
@[simp] theorem State.stepEnd_slices (s : State) : (s.stepEnd).slices = s.slices := by
  unfold State.stepEnd; split <;> simp
@[simp] theorem State.stepEnd_poison (s : State) : (s.stepEnd).poison = s.poison := by
  unfold State.stepEnd; split <;> simp
@[simp] theorem State.stepEnd_graftLog (s : State) : (s.stepEnd).graftLog = s.graftLog := by
  unfold State.stepEnd; split <;> simp
@[simp] theorem State.stepEnd_dies (s : State) : (s.stepEnd).dies = s.dies := by
  unfold State.stepEnd; split <;> simp
@[simp] theorem State.stepEnd_links (s : State) : (s.stepEnd).links = s.links := by
  unfold State.stepEnd; split <;> simp
@[simp] theorem State.stepEnd_ports (s : State) : (s.stepEnd).ports = s.ports := by
  unfold State.stepEnd; split <;> simp
@[simp] theorem State.stepEnd_clusters (s : State) : (s.stepEnd).clusters = s.clusters := by
  unfold State.stepEnd; split <;> simp
@[simp] theorem State.stepEnd_groupBars (s : State) : (s.stepEnd).groupBars = s.groupBars := by
  unfold State.stepEnd; split <;> simp
@[simp] theorem State.stepEnd_images (s : State) : (s.stepEnd).images = s.images := by
  unfold State.stepEnd; split <;> simp
@[simp] theorem State.stepEnd_bindings (s : State) : (s.stepEnd).bindings = s.bindings := by
  unfold State.stepEnd; split <;> simp
@[simp] theorem State.stepEnd_xd (s : State) : (s.stepEnd).xd = s.xd := by
  unfold State.stepEnd; split <;> simp
@[simp] theorem State.stepEnd_copies (s : State) : (s.stepEnd).copies = s.copies := by
  unfold State.stepEnd; split <;> simp
@[simp] theorem State.stepEnd_mxops (s : State) : (s.stepEnd).mxops = s.mxops := by
  unfold State.stepEnd; split <;> simp
@[simp] theorem State.stepEnd_sows (s : State) : (s.stepEnd).sows = s.sows := by
  unfold State.stepEnd; split <;> simp
@[simp] theorem State.stepEnd_beds (s : State) : (s.stepEnd).beds = s.beds := by
  unfold State.stepEnd; split <;> simp
@[simp] theorem State.stepEnd_vds (s : State) : (s.stepEnd).vds = s.vds := by
  unfold State.stepEnd; split <;> simp
@[simp] theorem State.stepEnd_stage2 (s : State) : (s.stepEnd).stage2 = s.stage2 := by
  unfold State.stepEnd; split <;> simp
@[simp] theorem State.stepEnd_pkgFaults (s : State) : (s.stepEnd).pkgFaults = s.pkgFaults := by
  unfold State.stepEnd; split <;> simp
@[simp] theorem State.stepEnd_tlb (s : State) : (s.stepEnd).tlb = s.tlb := by
  unfold State.stepEnd; split <;> simp
@[simp] theorem State.stepEnd_walks (s : State) : (s.stepEnd).walks = s.walks := by
  unfold State.stepEnd; split <;> simp
@[simp] theorem State.stepEnd_uses (s : State) : (s.stepEnd).uses = s.uses := by
  unfold State.stepEnd; split <;> simp
@[simp] theorem State.stepEnd_queues (s : State) : (s.stepEnd).queues = s.queues := by
  unfold State.stepEnd; split <;> simp
@[simp] theorem State.stepEnd_launches (s : State) : (s.stepEnd).launches = s.launches := by
  unfold State.stepEnd; split <;> simp
@[simp] theorem State.stepEnd_tasks (s : State) : (s.stepEnd).tasks = s.tasks := by
  unfold State.stepEnd; split <;> simp
@[simp] theorem State.stepEnd_nodes (s : State) : (s.stepEnd).nodes = s.nodes := by
  unfold State.stepEnd; split <;> simp
@[simp] theorem State.stepEnd_classes (s : State) : (s.stepEnd).classes = s.classes := by
  unfold State.stepEnd; split <;> simp
@[simp] theorem State.stepEnd_control (s : State) : (s.stepEnd).control = s.control := by
  unfold State.stepEnd; split <;> simp
@[simp] theorem State.stepEnd_hostOps (s : State) : (s.stepEnd).hostOps = s.hostOps := by
  unfold State.stepEnd; split <;> simp
@[simp] theorem State.stepEnd_outbox (s : State) : (s.stepEnd).outbox = s.outbox := by
  unfold State.stepEnd; split <;> simp


/-! State.retire -/

@[simp] theorem State.retire_now (pc : W64) (cost : Nat) (hint : Bool) (s : State) : (s.retire pc cost hint).now = s.now := by
  unfold State.retire; split <;> simp
@[simp] theorem State.retire_blk (pc : W64) (cost : Nat) (hint : Bool) (s : State) : (s.retire pc cost hint).blk = s.blk := by
  unfold State.retire; split <;> simp
@[simp] theorem State.retire_core (pc : W64) (cost : Nat) (hint : Bool) (s : State) : (s.retire pc cost hint).core = s.core := by
  unfold State.retire; split <;> simp
@[simp] theorem State.retire_strands (pc : W64) (cost : Nat) (hint : Bool) (s : State) : (s.retire pc cost hint).strands = s.strands := by
  unfold State.retire; split <;> simp
@[simp] theorem State.retire_blocks (pc : W64) (cost : Nat) (hint : Bool) (s : State) : (s.retire pc cost hint).blocks = s.blocks := by
  unfold State.retire; split <;> simp
@[simp] theorem State.retire_cores (pc : W64) (cost : Nat) (hint : Bool) (s : State) : (s.retire pc cost hint).cores = s.cores := by
  unfold State.retire; split <;> simp
@[simp] theorem State.retire_free (pc : W64) (cost : Nat) (hint : Bool) (s : State) : (s.retire pc cost hint).free = s.free := by
  unfold State.retire; split <;> simp
@[simp] theorem State.retire_nextId (pc : W64) (cost : Nat) (hint : Bool) (s : State) : (s.retire pc cost hint).nextId = s.nextId := by
  unfold State.retire; split <;> simp
@[simp] theorem State.retire_dram (pc : W64) (cost : Nat) (hint : Bool) (s : State) : (s.retire pc cost hint).dram = s.dram := by
  unfold State.retire; split <;> simp
@[simp] theorem State.retire_slices (pc : W64) (cost : Nat) (hint : Bool) (s : State) : (s.retire pc cost hint).slices = s.slices := by
  unfold State.retire; split <;> simp
@[simp] theorem State.retire_poison (pc : W64) (cost : Nat) (hint : Bool) (s : State) : (s.retire pc cost hint).poison = s.poison := by
  unfold State.retire; split <;> simp
@[simp] theorem State.retire_graftLog (pc : W64) (cost : Nat) (hint : Bool) (s : State) : (s.retire pc cost hint).graftLog = s.graftLog := by
  unfold State.retire; split <;> simp
@[simp] theorem State.retire_dies (pc : W64) (cost : Nat) (hint : Bool) (s : State) : (s.retire pc cost hint).dies = s.dies := by
  unfold State.retire; split <;> simp
@[simp] theorem State.retire_links (pc : W64) (cost : Nat) (hint : Bool) (s : State) : (s.retire pc cost hint).links = s.links := by
  unfold State.retire; split <;> simp
@[simp] theorem State.retire_ports (pc : W64) (cost : Nat) (hint : Bool) (s : State) : (s.retire pc cost hint).ports = s.ports := by
  unfold State.retire; split <;> simp
@[simp] theorem State.retire_clusters (pc : W64) (cost : Nat) (hint : Bool) (s : State) : (s.retire pc cost hint).clusters = s.clusters := by
  unfold State.retire; split <;> simp
@[simp] theorem State.retire_groupBars (pc : W64) (cost : Nat) (hint : Bool) (s : State) : (s.retire pc cost hint).groupBars = s.groupBars := by
  unfold State.retire; split <;> simp
@[simp] theorem State.retire_images (pc : W64) (cost : Nat) (hint : Bool) (s : State) : (s.retire pc cost hint).images = s.images := by
  unfold State.retire; split <;> simp
@[simp] theorem State.retire_bindings (pc : W64) (cost : Nat) (hint : Bool) (s : State) : (s.retire pc cost hint).bindings = s.bindings := by
  unfold State.retire; split <;> simp
@[simp] theorem State.retire_xd (pc : W64) (cost : Nat) (hint : Bool) (s : State) : (s.retire pc cost hint).xd = s.xd := by
  unfold State.retire; split <;> simp
@[simp] theorem State.retire_copies (pc : W64) (cost : Nat) (hint : Bool) (s : State) : (s.retire pc cost hint).copies = s.copies := by
  unfold State.retire; split <;> simp
@[simp] theorem State.retire_mxops (pc : W64) (cost : Nat) (hint : Bool) (s : State) : (s.retire pc cost hint).mxops = s.mxops := by
  unfold State.retire; split <;> simp
@[simp] theorem State.retire_sows (pc : W64) (cost : Nat) (hint : Bool) (s : State) : (s.retire pc cost hint).sows = s.sows := by
  unfold State.retire; split <;> simp
@[simp] theorem State.retire_beds (pc : W64) (cost : Nat) (hint : Bool) (s : State) : (s.retire pc cost hint).beds = s.beds := by
  unfold State.retire; split <;> simp
@[simp] theorem State.retire_vds (pc : W64) (cost : Nat) (hint : Bool) (s : State) : (s.retire pc cost hint).vds = s.vds := by
  unfold State.retire; split <;> simp
@[simp] theorem State.retire_stage2 (pc : W64) (cost : Nat) (hint : Bool) (s : State) : (s.retire pc cost hint).stage2 = s.stage2 := by
  unfold State.retire; split <;> simp
@[simp] theorem State.retire_pkgFaults (pc : W64) (cost : Nat) (hint : Bool) (s : State) : (s.retire pc cost hint).pkgFaults = s.pkgFaults := by
  unfold State.retire; split <;> simp
@[simp] theorem State.retire_tlb (pc : W64) (cost : Nat) (hint : Bool) (s : State) : (s.retire pc cost hint).tlb = s.tlb := by
  unfold State.retire; split <;> simp
@[simp] theorem State.retire_walks (pc : W64) (cost : Nat) (hint : Bool) (s : State) : (s.retire pc cost hint).walks = s.walks := by
  unfold State.retire; split <;> simp
@[simp] theorem State.retire_uses (pc : W64) (cost : Nat) (hint : Bool) (s : State) : (s.retire pc cost hint).uses = s.uses := by
  unfold State.retire; split <;> simp
@[simp] theorem State.retire_queues (pc : W64) (cost : Nat) (hint : Bool) (s : State) : (s.retire pc cost hint).queues = s.queues := by
  unfold State.retire; split <;> simp
@[simp] theorem State.retire_launches (pc : W64) (cost : Nat) (hint : Bool) (s : State) : (s.retire pc cost hint).launches = s.launches := by
  unfold State.retire; split <;> simp
@[simp] theorem State.retire_tasks (pc : W64) (cost : Nat) (hint : Bool) (s : State) : (s.retire pc cost hint).tasks = s.tasks := by
  unfold State.retire; split <;> simp
@[simp] theorem State.retire_nodes (pc : W64) (cost : Nat) (hint : Bool) (s : State) : (s.retire pc cost hint).nodes = s.nodes := by
  unfold State.retire; split <;> simp
@[simp] theorem State.retire_classes (pc : W64) (cost : Nat) (hint : Bool) (s : State) : (s.retire pc cost hint).classes = s.classes := by
  unfold State.retire; split <;> simp
@[simp] theorem State.retire_control (pc : W64) (cost : Nat) (hint : Bool) (s : State) : (s.retire pc cost hint).control = s.control := by
  unfold State.retire; split <;> simp
@[simp] theorem State.retire_hostOps (pc : W64) (cost : Nat) (hint : Bool) (s : State) : (s.retire pc cost hint).hostOps = s.hostOps := by
  unfold State.retire; split <;> simp
@[simp] theorem State.retire_outbox (pc : W64) (cost : Nat) (hint : Bool) (s : State) : (s.retire pc cost hint).outbox = s.outbox := by
  unfold State.retire; split <;> simp


/-! State.count -/

@[simp] theorem State.count_now (vd ev n priv : Nat) (s : State) : (s.count vd ev n priv).now = s.now := rfl
@[simp] theorem State.count_me (vd ev n priv : Nat) (s : State) : (s.count vd ev n priv).me = s.me := rfl
@[simp] theorem State.count_blk (vd ev n priv : Nat) (s : State) : (s.count vd ev n priv).blk = s.blk := rfl
@[simp] theorem State.count_core (vd ev n priv : Nat) (s : State) : (s.count vd ev n priv).core = s.core := rfl
@[simp] theorem State.count_strands (vd ev n priv : Nat) (s : State) : (s.count vd ev n priv).strands = s.strands := rfl
@[simp] theorem State.count_blocks (vd ev n priv : Nat) (s : State) : (s.count vd ev n priv).blocks = s.blocks := rfl
@[simp] theorem State.count_cores (vd ev n priv : Nat) (s : State) : (s.count vd ev n priv).cores = s.cores := rfl
@[simp] theorem State.count_agenda (vd ev n priv : Nat) (s : State) : (s.count vd ev n priv).agenda = s.agenda := rfl
@[simp] theorem State.count_free (vd ev n priv : Nat) (s : State) : (s.count vd ev n priv).free = s.free := rfl
@[simp] theorem State.count_nextId (vd ev n priv : Nat) (s : State) : (s.count vd ev n priv).nextId = s.nextId := rfl
@[simp] theorem State.count_dram (vd ev n priv : Nat) (s : State) : (s.count vd ev n priv).dram = s.dram := rfl
@[simp] theorem State.count_slices (vd ev n priv : Nat) (s : State) : (s.count vd ev n priv).slices = s.slices := rfl
@[simp] theorem State.count_poison (vd ev n priv : Nat) (s : State) : (s.count vd ev n priv).poison = s.poison := rfl
@[simp] theorem State.count_graftLog (vd ev n priv : Nat) (s : State) : (s.count vd ev n priv).graftLog = s.graftLog := rfl
@[simp] theorem State.count_dies (vd ev n priv : Nat) (s : State) : (s.count vd ev n priv).dies = s.dies := rfl
@[simp] theorem State.count_links (vd ev n priv : Nat) (s : State) : (s.count vd ev n priv).links = s.links := rfl
@[simp] theorem State.count_ports (vd ev n priv : Nat) (s : State) : (s.count vd ev n priv).ports = s.ports := rfl
@[simp] theorem State.count_clusters (vd ev n priv : Nat) (s : State) : (s.count vd ev n priv).clusters = s.clusters := rfl
@[simp] theorem State.count_groupBars (vd ev n priv : Nat) (s : State) : (s.count vd ev n priv).groupBars = s.groupBars := rfl
@[simp] theorem State.count_images (vd ev n priv : Nat) (s : State) : (s.count vd ev n priv).images = s.images := rfl
@[simp] theorem State.count_bindings (vd ev n priv : Nat) (s : State) : (s.count vd ev n priv).bindings = s.bindings := rfl
@[simp] theorem State.count_xd (vd ev n priv : Nat) (s : State) : (s.count vd ev n priv).xd = s.xd := rfl
@[simp] theorem State.count_copies (vd ev n priv : Nat) (s : State) : (s.count vd ev n priv).copies = s.copies := rfl
@[simp] theorem State.count_mxops (vd ev n priv : Nat) (s : State) : (s.count vd ev n priv).mxops = s.mxops := rfl
@[simp] theorem State.count_sows (vd ev n priv : Nat) (s : State) : (s.count vd ev n priv).sows = s.sows := rfl
@[simp] theorem State.count_beds (vd ev n priv : Nat) (s : State) : (s.count vd ev n priv).beds = s.beds := rfl
@[simp] theorem State.count_stage2 (vd ev n priv : Nat) (s : State) : (s.count vd ev n priv).stage2 = s.stage2 := rfl
@[simp] theorem State.count_pkgFaults (vd ev n priv : Nat) (s : State) : (s.count vd ev n priv).pkgFaults = s.pkgFaults := rfl
@[simp] theorem State.count_tlb (vd ev n priv : Nat) (s : State) : (s.count vd ev n priv).tlb = s.tlb := rfl
@[simp] theorem State.count_walks (vd ev n priv : Nat) (s : State) : (s.count vd ev n priv).walks = s.walks := rfl
@[simp] theorem State.count_uses (vd ev n priv : Nat) (s : State) : (s.count vd ev n priv).uses = s.uses := rfl
@[simp] theorem State.count_queues (vd ev n priv : Nat) (s : State) : (s.count vd ev n priv).queues = s.queues := rfl
@[simp] theorem State.count_launches (vd ev n priv : Nat) (s : State) : (s.count vd ev n priv).launches = s.launches := rfl
@[simp] theorem State.count_tasks (vd ev n priv : Nat) (s : State) : (s.count vd ev n priv).tasks = s.tasks := rfl
@[simp] theorem State.count_nodes (vd ev n priv : Nat) (s : State) : (s.count vd ev n priv).nodes = s.nodes := rfl
@[simp] theorem State.count_classes (vd ev n priv : Nat) (s : State) : (s.count vd ev n priv).classes = s.classes := rfl
@[simp] theorem State.count_control (vd ev n priv : Nat) (s : State) : (s.count vd ev n priv).control = s.control := rfl
@[simp] theorem State.count_hostOps (vd ev n priv : Nat) (s : State) : (s.count vd ev n priv).hostOps = s.hostOps := rfl
@[simp] theorem State.count_outbox (vd ev n priv : Nat) (s : State) : (s.count vd ev n priv).outbox = s.outbox := rfl


/-! State.setM -/

@[simp] theorem State.setM_now (m : BitVec 3) (x : W32) (s : State) : (s.setM m x).now = s.now := rfl
@[simp] theorem State.setM_blk (m : BitVec 3) (x : W32) (s : State) : (s.setM m x).blk = s.blk := rfl
@[simp] theorem State.setM_core (m : BitVec 3) (x : W32) (s : State) : (s.setM m x).core = s.core := rfl
@[simp] theorem State.setM_strands (m : BitVec 3) (x : W32) (s : State) : (s.setM m x).strands = s.strands := rfl
@[simp] theorem State.setM_blocks (m : BitVec 3) (x : W32) (s : State) : (s.setM m x).blocks = s.blocks := rfl
@[simp] theorem State.setM_cores (m : BitVec 3) (x : W32) (s : State) : (s.setM m x).cores = s.cores := rfl
@[simp] theorem State.setM_agenda (m : BitVec 3) (x : W32) (s : State) : (s.setM m x).agenda = s.agenda := rfl
@[simp] theorem State.setM_free (m : BitVec 3) (x : W32) (s : State) : (s.setM m x).free = s.free := rfl
@[simp] theorem State.setM_nextId (m : BitVec 3) (x : W32) (s : State) : (s.setM m x).nextId = s.nextId := rfl
@[simp] theorem State.setM_dram (m : BitVec 3) (x : W32) (s : State) : (s.setM m x).dram = s.dram := rfl
@[simp] theorem State.setM_slices (m : BitVec 3) (x : W32) (s : State) : (s.setM m x).slices = s.slices := rfl
@[simp] theorem State.setM_poison (m : BitVec 3) (x : W32) (s : State) : (s.setM m x).poison = s.poison := rfl
@[simp] theorem State.setM_graftLog (m : BitVec 3) (x : W32) (s : State) : (s.setM m x).graftLog = s.graftLog := rfl
@[simp] theorem State.setM_dies (m : BitVec 3) (x : W32) (s : State) : (s.setM m x).dies = s.dies := rfl
@[simp] theorem State.setM_links (m : BitVec 3) (x : W32) (s : State) : (s.setM m x).links = s.links := rfl
@[simp] theorem State.setM_ports (m : BitVec 3) (x : W32) (s : State) : (s.setM m x).ports = s.ports := rfl
@[simp] theorem State.setM_clusters (m : BitVec 3) (x : W32) (s : State) : (s.setM m x).clusters = s.clusters := rfl
@[simp] theorem State.setM_groupBars (m : BitVec 3) (x : W32) (s : State) : (s.setM m x).groupBars = s.groupBars := rfl
@[simp] theorem State.setM_images (m : BitVec 3) (x : W32) (s : State) : (s.setM m x).images = s.images := rfl
@[simp] theorem State.setM_bindings (m : BitVec 3) (x : W32) (s : State) : (s.setM m x).bindings = s.bindings := rfl
@[simp] theorem State.setM_xd (m : BitVec 3) (x : W32) (s : State) : (s.setM m x).xd = s.xd := rfl
@[simp] theorem State.setM_copies (m : BitVec 3) (x : W32) (s : State) : (s.setM m x).copies = s.copies := rfl
@[simp] theorem State.setM_mxops (m : BitVec 3) (x : W32) (s : State) : (s.setM m x).mxops = s.mxops := rfl
@[simp] theorem State.setM_sows (m : BitVec 3) (x : W32) (s : State) : (s.setM m x).sows = s.sows := rfl
@[simp] theorem State.setM_beds (m : BitVec 3) (x : W32) (s : State) : (s.setM m x).beds = s.beds := rfl
@[simp] theorem State.setM_vds (m : BitVec 3) (x : W32) (s : State) : (s.setM m x).vds = s.vds := rfl
@[simp] theorem State.setM_stage2 (m : BitVec 3) (x : W32) (s : State) : (s.setM m x).stage2 = s.stage2 := rfl
@[simp] theorem State.setM_pkgFaults (m : BitVec 3) (x : W32) (s : State) : (s.setM m x).pkgFaults = s.pkgFaults := rfl
@[simp] theorem State.setM_tlb (m : BitVec 3) (x : W32) (s : State) : (s.setM m x).tlb = s.tlb := rfl
@[simp] theorem State.setM_walks (m : BitVec 3) (x : W32) (s : State) : (s.setM m x).walks = s.walks := rfl
@[simp] theorem State.setM_uses (m : BitVec 3) (x : W32) (s : State) : (s.setM m x).uses = s.uses := rfl
@[simp] theorem State.setM_queues (m : BitVec 3) (x : W32) (s : State) : (s.setM m x).queues = s.queues := rfl
@[simp] theorem State.setM_launches (m : BitVec 3) (x : W32) (s : State) : (s.setM m x).launches = s.launches := rfl
@[simp] theorem State.setM_tasks (m : BitVec 3) (x : W32) (s : State) : (s.setM m x).tasks = s.tasks := rfl
@[simp] theorem State.setM_nodes (m : BitVec 3) (x : W32) (s : State) : (s.setM m x).nodes = s.nodes := rfl
@[simp] theorem State.setM_classes (m : BitVec 3) (x : W32) (s : State) : (s.setM m x).classes = s.classes := rfl
@[simp] theorem State.setM_control (m : BitVec 3) (x : W32) (s : State) : (s.setM m x).control = s.control := rfl
@[simp] theorem State.setM_hostOps (m : BitVec 3) (x : W32) (s : State) : (s.setM m x).hostOps = s.hostOps := rfl
@[simp] theorem State.setM_outbox (m : BitVec 3) (x : W32) (s : State) : (s.setM m x).outbox = s.outbox := rfl


/-! State.setM0 -/

@[simp] theorem State.setM0_now (x : W32) (s : State) : (s.setM0 x).now = s.now := rfl
@[simp] theorem State.setM0_blk (x : W32) (s : State) : (s.setM0 x).blk = s.blk := rfl
@[simp] theorem State.setM0_core (x : W32) (s : State) : (s.setM0 x).core = s.core := rfl
@[simp] theorem State.setM0_strands (x : W32) (s : State) : (s.setM0 x).strands = s.strands := rfl
@[simp] theorem State.setM0_blocks (x : W32) (s : State) : (s.setM0 x).blocks = s.blocks := rfl
@[simp] theorem State.setM0_cores (x : W32) (s : State) : (s.setM0 x).cores = s.cores := rfl
@[simp] theorem State.setM0_agenda (x : W32) (s : State) : (s.setM0 x).agenda = s.agenda := rfl
@[simp] theorem State.setM0_free (x : W32) (s : State) : (s.setM0 x).free = s.free := rfl
@[simp] theorem State.setM0_nextId (x : W32) (s : State) : (s.setM0 x).nextId = s.nextId := rfl
@[simp] theorem State.setM0_dram (x : W32) (s : State) : (s.setM0 x).dram = s.dram := rfl
@[simp] theorem State.setM0_slices (x : W32) (s : State) : (s.setM0 x).slices = s.slices := rfl
@[simp] theorem State.setM0_poison (x : W32) (s : State) : (s.setM0 x).poison = s.poison := rfl
@[simp] theorem State.setM0_graftLog (x : W32) (s : State) : (s.setM0 x).graftLog = s.graftLog := rfl
@[simp] theorem State.setM0_dies (x : W32) (s : State) : (s.setM0 x).dies = s.dies := rfl
@[simp] theorem State.setM0_links (x : W32) (s : State) : (s.setM0 x).links = s.links := rfl
@[simp] theorem State.setM0_ports (x : W32) (s : State) : (s.setM0 x).ports = s.ports := rfl
@[simp] theorem State.setM0_clusters (x : W32) (s : State) : (s.setM0 x).clusters = s.clusters := rfl
@[simp] theorem State.setM0_groupBars (x : W32) (s : State) : (s.setM0 x).groupBars = s.groupBars := rfl
@[simp] theorem State.setM0_images (x : W32) (s : State) : (s.setM0 x).images = s.images := rfl
@[simp] theorem State.setM0_bindings (x : W32) (s : State) : (s.setM0 x).bindings = s.bindings := rfl
@[simp] theorem State.setM0_xd (x : W32) (s : State) : (s.setM0 x).xd = s.xd := rfl
@[simp] theorem State.setM0_copies (x : W32) (s : State) : (s.setM0 x).copies = s.copies := rfl
@[simp] theorem State.setM0_mxops (x : W32) (s : State) : (s.setM0 x).mxops = s.mxops := rfl
@[simp] theorem State.setM0_sows (x : W32) (s : State) : (s.setM0 x).sows = s.sows := rfl
@[simp] theorem State.setM0_beds (x : W32) (s : State) : (s.setM0 x).beds = s.beds := rfl
@[simp] theorem State.setM0_vds (x : W32) (s : State) : (s.setM0 x).vds = s.vds := rfl
@[simp] theorem State.setM0_stage2 (x : W32) (s : State) : (s.setM0 x).stage2 = s.stage2 := rfl
@[simp] theorem State.setM0_pkgFaults (x : W32) (s : State) : (s.setM0 x).pkgFaults = s.pkgFaults := rfl
@[simp] theorem State.setM0_tlb (x : W32) (s : State) : (s.setM0 x).tlb = s.tlb := rfl
@[simp] theorem State.setM0_walks (x : W32) (s : State) : (s.setM0 x).walks = s.walks := rfl
@[simp] theorem State.setM0_uses (x : W32) (s : State) : (s.setM0 x).uses = s.uses := rfl
@[simp] theorem State.setM0_queues (x : W32) (s : State) : (s.setM0 x).queues = s.queues := rfl
@[simp] theorem State.setM0_launches (x : W32) (s : State) : (s.setM0 x).launches = s.launches := rfl
@[simp] theorem State.setM0_tasks (x : W32) (s : State) : (s.setM0 x).tasks = s.tasks := rfl
@[simp] theorem State.setM0_nodes (x : W32) (s : State) : (s.setM0 x).nodes = s.nodes := rfl
@[simp] theorem State.setM0_classes (x : W32) (s : State) : (s.setM0 x).classes = s.classes := rfl
@[simp] theorem State.setM0_control (x : W32) (s : State) : (s.setM0 x).control = s.control := rfl
@[simp] theorem State.setM0_hostOps (x : W32) (s : State) : (s.setM0 x).hostOps = s.hostOps := rfl
@[simp] theorem State.setM0_outbox (x : W32) (s : State) : (s.setM0 x).outbox = s.outbox := rfl


/-! State.link -/

@[simp] theorem State.link_now (s : State) : (s.link).now = s.now := rfl
@[simp] theorem State.link_blk (s : State) : (s.link).blk = s.blk := rfl
@[simp] theorem State.link_core (s : State) : (s.link).core = s.core := rfl
@[simp] theorem State.link_strands (s : State) : (s.link).strands = s.strands := rfl
@[simp] theorem State.link_blocks (s : State) : (s.link).blocks = s.blocks := rfl
@[simp] theorem State.link_cores (s : State) : (s.link).cores = s.cores := rfl
@[simp] theorem State.link_agenda (s : State) : (s.link).agenda = s.agenda := rfl
@[simp] theorem State.link_free (s : State) : (s.link).free = s.free := rfl
@[simp] theorem State.link_nextId (s : State) : (s.link).nextId = s.nextId := rfl
@[simp] theorem State.link_dram (s : State) : (s.link).dram = s.dram := rfl
@[simp] theorem State.link_slices (s : State) : (s.link).slices = s.slices := rfl
@[simp] theorem State.link_poison (s : State) : (s.link).poison = s.poison := rfl
@[simp] theorem State.link_graftLog (s : State) : (s.link).graftLog = s.graftLog := rfl
@[simp] theorem State.link_dies (s : State) : (s.link).dies = s.dies := rfl
@[simp] theorem State.link_links (s : State) : (s.link).links = s.links := rfl
@[simp] theorem State.link_ports (s : State) : (s.link).ports = s.ports := rfl
@[simp] theorem State.link_clusters (s : State) : (s.link).clusters = s.clusters := rfl
@[simp] theorem State.link_groupBars (s : State) : (s.link).groupBars = s.groupBars := rfl
@[simp] theorem State.link_images (s : State) : (s.link).images = s.images := rfl
@[simp] theorem State.link_bindings (s : State) : (s.link).bindings = s.bindings := rfl
@[simp] theorem State.link_xd (s : State) : (s.link).xd = s.xd := rfl
@[simp] theorem State.link_copies (s : State) : (s.link).copies = s.copies := rfl
@[simp] theorem State.link_mxops (s : State) : (s.link).mxops = s.mxops := rfl
@[simp] theorem State.link_sows (s : State) : (s.link).sows = s.sows := rfl
@[simp] theorem State.link_beds (s : State) : (s.link).beds = s.beds := rfl
@[simp] theorem State.link_vds (s : State) : (s.link).vds = s.vds := rfl
@[simp] theorem State.link_stage2 (s : State) : (s.link).stage2 = s.stage2 := rfl
@[simp] theorem State.link_pkgFaults (s : State) : (s.link).pkgFaults = s.pkgFaults := rfl
@[simp] theorem State.link_tlb (s : State) : (s.link).tlb = s.tlb := rfl
@[simp] theorem State.link_walks (s : State) : (s.link).walks = s.walks := rfl
@[simp] theorem State.link_uses (s : State) : (s.link).uses = s.uses := rfl
@[simp] theorem State.link_queues (s : State) : (s.link).queues = s.queues := rfl
@[simp] theorem State.link_launches (s : State) : (s.link).launches = s.launches := rfl
@[simp] theorem State.link_tasks (s : State) : (s.link).tasks = s.tasks := rfl
@[simp] theorem State.link_nodes (s : State) : (s.link).nodes = s.nodes := rfl
@[simp] theorem State.link_classes (s : State) : (s.link).classes = s.classes := rfl
@[simp] theorem State.link_control (s : State) : (s.link).control = s.control := rfl
@[simp] theorem State.link_hostOps (s : State) : (s.link).hostOps = s.hostOps := rfl
@[simp] theorem State.link_outbox (s : State) : (s.link).outbox = s.outbox := rfl


/-! State.waits -/

@[simp] theorem State.waits_now (reason : Nat) (s : State) : (s.waits reason).now = s.now := rfl
@[simp] theorem State.waits_blk (reason : Nat) (s : State) : (s.waits reason).blk = s.blk := rfl
@[simp] theorem State.waits_core (reason : Nat) (s : State) : (s.waits reason).core = s.core := rfl
@[simp] theorem State.waits_strands (reason : Nat) (s : State) : (s.waits reason).strands = s.strands := rfl
@[simp] theorem State.waits_blocks (reason : Nat) (s : State) : (s.waits reason).blocks = s.blocks := rfl
@[simp] theorem State.waits_cores (reason : Nat) (s : State) : (s.waits reason).cores = s.cores := rfl
@[simp] theorem State.waits_agenda (reason : Nat) (s : State) : (s.waits reason).agenda = s.agenda := rfl
@[simp] theorem State.waits_free (reason : Nat) (s : State) : (s.waits reason).free = s.free := rfl
@[simp] theorem State.waits_nextId (reason : Nat) (s : State) : (s.waits reason).nextId = s.nextId := rfl
@[simp] theorem State.waits_dram (reason : Nat) (s : State) : (s.waits reason).dram = s.dram := rfl
@[simp] theorem State.waits_slices (reason : Nat) (s : State) : (s.waits reason).slices = s.slices := rfl
@[simp] theorem State.waits_poison (reason : Nat) (s : State) : (s.waits reason).poison = s.poison := rfl
@[simp] theorem State.waits_graftLog (reason : Nat) (s : State) : (s.waits reason).graftLog = s.graftLog := rfl
@[simp] theorem State.waits_dies (reason : Nat) (s : State) : (s.waits reason).dies = s.dies := rfl
@[simp] theorem State.waits_links (reason : Nat) (s : State) : (s.waits reason).links = s.links := rfl
@[simp] theorem State.waits_ports (reason : Nat) (s : State) : (s.waits reason).ports = s.ports := rfl
@[simp] theorem State.waits_clusters (reason : Nat) (s : State) : (s.waits reason).clusters = s.clusters := rfl
@[simp] theorem State.waits_groupBars (reason : Nat) (s : State) : (s.waits reason).groupBars = s.groupBars := rfl
@[simp] theorem State.waits_images (reason : Nat) (s : State) : (s.waits reason).images = s.images := rfl
@[simp] theorem State.waits_bindings (reason : Nat) (s : State) : (s.waits reason).bindings = s.bindings := rfl
@[simp] theorem State.waits_xd (reason : Nat) (s : State) : (s.waits reason).xd = s.xd := rfl
@[simp] theorem State.waits_copies (reason : Nat) (s : State) : (s.waits reason).copies = s.copies := rfl
@[simp] theorem State.waits_mxops (reason : Nat) (s : State) : (s.waits reason).mxops = s.mxops := rfl
@[simp] theorem State.waits_sows (reason : Nat) (s : State) : (s.waits reason).sows = s.sows := rfl
@[simp] theorem State.waits_beds (reason : Nat) (s : State) : (s.waits reason).beds = s.beds := rfl
@[simp] theorem State.waits_stage2 (reason : Nat) (s : State) : (s.waits reason).stage2 = s.stage2 := rfl
@[simp] theorem State.waits_pkgFaults (reason : Nat) (s : State) : (s.waits reason).pkgFaults = s.pkgFaults := rfl
@[simp] theorem State.waits_tlb (reason : Nat) (s : State) : (s.waits reason).tlb = s.tlb := rfl
@[simp] theorem State.waits_walks (reason : Nat) (s : State) : (s.waits reason).walks = s.walks := rfl
@[simp] theorem State.waits_uses (reason : Nat) (s : State) : (s.waits reason).uses = s.uses := rfl
@[simp] theorem State.waits_queues (reason : Nat) (s : State) : (s.waits reason).queues = s.queues := rfl
@[simp] theorem State.waits_launches (reason : Nat) (s : State) : (s.waits reason).launches = s.launches := rfl
@[simp] theorem State.waits_tasks (reason : Nat) (s : State) : (s.waits reason).tasks = s.tasks := rfl
@[simp] theorem State.waits_nodes (reason : Nat) (s : State) : (s.waits reason).nodes = s.nodes := rfl
@[simp] theorem State.waits_classes (reason : Nat) (s : State) : (s.waits reason).classes = s.classes := rfl
@[simp] theorem State.waits_control (reason : Nat) (s : State) : (s.waits reason).control = s.control := rfl
@[simp] theorem State.waits_hostOps (reason : Nat) (s : State) : (s.waits reason).hostOps = s.hostOps := rfl
@[simp] theorem State.waits_outbox (reason : Nat) (s : State) : (s.waits reason).outbox = s.outbox := rfl


/-! State.countWord -/

@[simp] theorem State.countWord_now (v : Bool) (s : State) : (s.countWord v).now = s.now := by
  unfold State.countWord; (repeat' split) <;> simp
@[simp] theorem State.countWord_me (v : Bool) (s : State) : (s.countWord v).me = s.me := by
  unfold State.countWord; (repeat' split) <;> simp
@[simp] theorem State.countWord_blk (v : Bool) (s : State) : (s.countWord v).blk = s.blk := by
  unfold State.countWord; (repeat' split) <;> simp
@[simp] theorem State.countWord_core (v : Bool) (s : State) : (s.countWord v).core = s.core := by
  unfold State.countWord; (repeat' split) <;> simp
@[simp] theorem State.countWord_strands (v : Bool) (s : State) : (s.countWord v).strands = s.strands := by
  unfold State.countWord; (repeat' split) <;> simp
@[simp] theorem State.countWord_blocks (v : Bool) (s : State) : (s.countWord v).blocks = s.blocks := by
  unfold State.countWord; (repeat' split) <;> simp
@[simp] theorem State.countWord_cores (v : Bool) (s : State) : (s.countWord v).cores = s.cores := by
  unfold State.countWord; (repeat' split) <;> simp
@[simp] theorem State.countWord_agenda (v : Bool) (s : State) : (s.countWord v).agenda = s.agenda := by
  unfold State.countWord; (repeat' split) <;> simp
@[simp] theorem State.countWord_free (v : Bool) (s : State) : (s.countWord v).free = s.free := by
  unfold State.countWord; (repeat' split) <;> simp
@[simp] theorem State.countWord_nextId (v : Bool) (s : State) : (s.countWord v).nextId = s.nextId := by
  unfold State.countWord; (repeat' split) <;> simp
@[simp] theorem State.countWord_dram (v : Bool) (s : State) : (s.countWord v).dram = s.dram := by
  unfold State.countWord; (repeat' split) <;> simp
@[simp] theorem State.countWord_slices (v : Bool) (s : State) : (s.countWord v).slices = s.slices := by
  unfold State.countWord; (repeat' split) <;> simp
@[simp] theorem State.countWord_poison (v : Bool) (s : State) : (s.countWord v).poison = s.poison := by
  unfold State.countWord; (repeat' split) <;> simp
@[simp] theorem State.countWord_graftLog (v : Bool) (s : State) : (s.countWord v).graftLog = s.graftLog := by
  unfold State.countWord; (repeat' split) <;> simp
@[simp] theorem State.countWord_dies (v : Bool) (s : State) : (s.countWord v).dies = s.dies := by
  unfold State.countWord; (repeat' split) <;> simp
@[simp] theorem State.countWord_links (v : Bool) (s : State) : (s.countWord v).links = s.links := by
  unfold State.countWord; (repeat' split) <;> simp
@[simp] theorem State.countWord_ports (v : Bool) (s : State) : (s.countWord v).ports = s.ports := by
  unfold State.countWord; (repeat' split) <;> simp
@[simp] theorem State.countWord_clusters (v : Bool) (s : State) : (s.countWord v).clusters = s.clusters := by
  unfold State.countWord; (repeat' split) <;> simp
@[simp] theorem State.countWord_groupBars (v : Bool) (s : State) : (s.countWord v).groupBars = s.groupBars := by
  unfold State.countWord; (repeat' split) <;> simp
@[simp] theorem State.countWord_images (v : Bool) (s : State) : (s.countWord v).images = s.images := by
  unfold State.countWord; (repeat' split) <;> simp
@[simp] theorem State.countWord_bindings (v : Bool) (s : State) : (s.countWord v).bindings = s.bindings := by
  unfold State.countWord; (repeat' split) <;> simp
@[simp] theorem State.countWord_xd (v : Bool) (s : State) : (s.countWord v).xd = s.xd := by
  unfold State.countWord; (repeat' split) <;> simp
@[simp] theorem State.countWord_copies (v : Bool) (s : State) : (s.countWord v).copies = s.copies := by
  unfold State.countWord; (repeat' split) <;> simp
@[simp] theorem State.countWord_mxops (v : Bool) (s : State) : (s.countWord v).mxops = s.mxops := by
  unfold State.countWord; (repeat' split) <;> simp
@[simp] theorem State.countWord_sows (v : Bool) (s : State) : (s.countWord v).sows = s.sows := by
  unfold State.countWord; (repeat' split) <;> simp
@[simp] theorem State.countWord_beds (v : Bool) (s : State) : (s.countWord v).beds = s.beds := by
  unfold State.countWord; (repeat' split) <;> simp
@[simp] theorem State.countWord_stage2 (v : Bool) (s : State) : (s.countWord v).stage2 = s.stage2 := by
  unfold State.countWord; (repeat' split) <;> simp
@[simp] theorem State.countWord_pkgFaults (v : Bool) (s : State) : (s.countWord v).pkgFaults = s.pkgFaults := by
  unfold State.countWord; (repeat' split) <;> simp
@[simp] theorem State.countWord_tlb (v : Bool) (s : State) : (s.countWord v).tlb = s.tlb := by
  unfold State.countWord; (repeat' split) <;> simp
@[simp] theorem State.countWord_walks (v : Bool) (s : State) : (s.countWord v).walks = s.walks := by
  unfold State.countWord; (repeat' split) <;> simp
@[simp] theorem State.countWord_uses (v : Bool) (s : State) : (s.countWord v).uses = s.uses := by
  unfold State.countWord; (repeat' split) <;> simp
@[simp] theorem State.countWord_queues (v : Bool) (s : State) : (s.countWord v).queues = s.queues := by
  unfold State.countWord; (repeat' split) <;> simp
@[simp] theorem State.countWord_launches (v : Bool) (s : State) : (s.countWord v).launches = s.launches := by
  unfold State.countWord; (repeat' split) <;> simp
@[simp] theorem State.countWord_tasks (v : Bool) (s : State) : (s.countWord v).tasks = s.tasks := by
  unfold State.countWord; (repeat' split) <;> simp
@[simp] theorem State.countWord_nodes (v : Bool) (s : State) : (s.countWord v).nodes = s.nodes := by
  unfold State.countWord; (repeat' split) <;> simp
@[simp] theorem State.countWord_classes (v : Bool) (s : State) : (s.countWord v).classes = s.classes := by
  unfold State.countWord; (repeat' split) <;> simp
@[simp] theorem State.countWord_control (v : Bool) (s : State) : (s.countWord v).control = s.control := by
  unfold State.countWord; (repeat' split) <;> simp
@[simp] theorem State.countWord_hostOps (v : Bool) (s : State) : (s.countWord v).hostOps = s.hostOps := by
  unfold State.countWord; (repeat' split) <;> simp
@[simp] theorem State.countWord_outbox (v : Bool) (s : State) : (s.countWord v).outbox = s.outbox := by
  unfold State.countWord; (repeat' split) <;> simp


/-! State.countIssue -/

@[simp] theorem State.countIssue_now (f : Form) (s : State) : (s.countIssue f).now = s.now := by
  unfold State.countIssue; (repeat' split) <;> simp
@[simp] theorem State.countIssue_me (f : Form) (s : State) : (s.countIssue f).me = s.me := by
  unfold State.countIssue; (repeat' split) <;> simp
@[simp] theorem State.countIssue_blk (f : Form) (s : State) : (s.countIssue f).blk = s.blk := by
  unfold State.countIssue; (repeat' split) <;> simp
@[simp] theorem State.countIssue_core (f : Form) (s : State) : (s.countIssue f).core = s.core := by
  unfold State.countIssue; (repeat' split) <;> simp
@[simp] theorem State.countIssue_strands (f : Form) (s : State) : (s.countIssue f).strands = s.strands := by
  unfold State.countIssue; (repeat' split) <;> simp
@[simp] theorem State.countIssue_blocks (f : Form) (s : State) : (s.countIssue f).blocks = s.blocks := by
  unfold State.countIssue; (repeat' split) <;> simp
@[simp] theorem State.countIssue_cores (f : Form) (s : State) : (s.countIssue f).cores = s.cores := by
  unfold State.countIssue; (repeat' split) <;> simp
@[simp] theorem State.countIssue_agenda (f : Form) (s : State) : (s.countIssue f).agenda = s.agenda := by
  unfold State.countIssue; (repeat' split) <;> simp
@[simp] theorem State.countIssue_free (f : Form) (s : State) : (s.countIssue f).free = s.free := by
  unfold State.countIssue; (repeat' split) <;> simp
@[simp] theorem State.countIssue_nextId (f : Form) (s : State) : (s.countIssue f).nextId = s.nextId := by
  unfold State.countIssue; (repeat' split) <;> simp
@[simp] theorem State.countIssue_dram (f : Form) (s : State) : (s.countIssue f).dram = s.dram := by
  unfold State.countIssue; (repeat' split) <;> simp
@[simp] theorem State.countIssue_slices (f : Form) (s : State) : (s.countIssue f).slices = s.slices := by
  unfold State.countIssue; (repeat' split) <;> simp
@[simp] theorem State.countIssue_poison (f : Form) (s : State) : (s.countIssue f).poison = s.poison := by
  unfold State.countIssue; (repeat' split) <;> simp
@[simp] theorem State.countIssue_graftLog (f : Form) (s : State) : (s.countIssue f).graftLog = s.graftLog := by
  unfold State.countIssue; (repeat' split) <;> simp
@[simp] theorem State.countIssue_dies (f : Form) (s : State) : (s.countIssue f).dies = s.dies := by
  unfold State.countIssue; (repeat' split) <;> simp
@[simp] theorem State.countIssue_links (f : Form) (s : State) : (s.countIssue f).links = s.links := by
  unfold State.countIssue; (repeat' split) <;> simp
@[simp] theorem State.countIssue_ports (f : Form) (s : State) : (s.countIssue f).ports = s.ports := by
  unfold State.countIssue; (repeat' split) <;> simp
@[simp] theorem State.countIssue_clusters (f : Form) (s : State) : (s.countIssue f).clusters = s.clusters := by
  unfold State.countIssue; (repeat' split) <;> simp
@[simp] theorem State.countIssue_groupBars (f : Form) (s : State) : (s.countIssue f).groupBars = s.groupBars := by
  unfold State.countIssue; (repeat' split) <;> simp
@[simp] theorem State.countIssue_images (f : Form) (s : State) : (s.countIssue f).images = s.images := by
  unfold State.countIssue; (repeat' split) <;> simp
@[simp] theorem State.countIssue_bindings (f : Form) (s : State) : (s.countIssue f).bindings = s.bindings := by
  unfold State.countIssue; (repeat' split) <;> simp
@[simp] theorem State.countIssue_xd (f : Form) (s : State) : (s.countIssue f).xd = s.xd := by
  unfold State.countIssue; (repeat' split) <;> simp
@[simp] theorem State.countIssue_copies (f : Form) (s : State) : (s.countIssue f).copies = s.copies := by
  unfold State.countIssue; (repeat' split) <;> simp
@[simp] theorem State.countIssue_mxops (f : Form) (s : State) : (s.countIssue f).mxops = s.mxops := by
  unfold State.countIssue; (repeat' split) <;> simp
@[simp] theorem State.countIssue_sows (f : Form) (s : State) : (s.countIssue f).sows = s.sows := by
  unfold State.countIssue; (repeat' split) <;> simp
@[simp] theorem State.countIssue_beds (f : Form) (s : State) : (s.countIssue f).beds = s.beds := by
  unfold State.countIssue; (repeat' split) <;> simp
@[simp] theorem State.countIssue_stage2 (f : Form) (s : State) : (s.countIssue f).stage2 = s.stage2 := by
  unfold State.countIssue; (repeat' split) <;> simp
@[simp] theorem State.countIssue_pkgFaults (f : Form) (s : State) : (s.countIssue f).pkgFaults = s.pkgFaults := by
  unfold State.countIssue; (repeat' split) <;> simp
@[simp] theorem State.countIssue_tlb (f : Form) (s : State) : (s.countIssue f).tlb = s.tlb := by
  unfold State.countIssue; (repeat' split) <;> simp
@[simp] theorem State.countIssue_walks (f : Form) (s : State) : (s.countIssue f).walks = s.walks := by
  unfold State.countIssue; (repeat' split) <;> simp
@[simp] theorem State.countIssue_uses (f : Form) (s : State) : (s.countIssue f).uses = s.uses := by
  unfold State.countIssue; (repeat' split) <;> simp
@[simp] theorem State.countIssue_queues (f : Form) (s : State) : (s.countIssue f).queues = s.queues := by
  unfold State.countIssue; (repeat' split) <;> simp
@[simp] theorem State.countIssue_launches (f : Form) (s : State) : (s.countIssue f).launches = s.launches := by
  unfold State.countIssue; (repeat' split) <;> simp
@[simp] theorem State.countIssue_tasks (f : Form) (s : State) : (s.countIssue f).tasks = s.tasks := by
  unfold State.countIssue; (repeat' split) <;> simp
@[simp] theorem State.countIssue_nodes (f : Form) (s : State) : (s.countIssue f).nodes = s.nodes := by
  unfold State.countIssue; (repeat' split) <;> simp
@[simp] theorem State.countIssue_classes (f : Form) (s : State) : (s.countIssue f).classes = s.classes := by
  unfold State.countIssue; (repeat' split) <;> simp
@[simp] theorem State.countIssue_control (f : Form) (s : State) : (s.countIssue f).control = s.control := by
  unfold State.countIssue; (repeat' split) <;> simp
@[simp] theorem State.countIssue_hostOps (f : Form) (s : State) : (s.countIssue f).hostOps = s.hostOps := by
  unfold State.countIssue; (repeat' split) <;> simp
@[simp] theorem State.countIssue_outbox (f : Form) (s : State) : (s.countIssue f).outbox = s.outbox := by
  unfold State.countIssue; (repeat' split) <;> simp


/-! State.advance -/

theorem State.advance_of_le (t : Nat) (s : State) (h : t ≤ s.now) : s.advance t = s := by
  unfold State.advance; simp [h]

theorem foldl_keeps {α β : Type} (g : State → α) (f : State → β → State) (h : ∀ s b, g (f s b) = g s) (l : List β) (s : State) :
    g (l.foldl f s) = g s := by
  induction l generalizing s with
  | nil => rfl
  | cons x r ih => simp [ih, h]

@[simp] theorem State.countTime_now (ac : Nat) (s : State) : (s.countTime ac).now = s.now := by
  unfold State.countTime
  rw [foldl_keeps (fun u => u.now) _ (by intro u t; (repeat' split) <;> simp), foldl_keeps (fun u => u.now) _ (by simp)]
@[simp] theorem State.countTime_me (ac : Nat) (s : State) : (s.countTime ac).me = s.me := by
  unfold State.countTime
  rw [foldl_keeps (fun u => u.me) _ (by intro u t; (repeat' split) <;> simp), foldl_keeps (fun u => u.me) _ (by simp)]
@[simp] theorem State.countTime_blk (ac : Nat) (s : State) : (s.countTime ac).blk = s.blk := by
  unfold State.countTime
  rw [foldl_keeps (fun u => u.blk) _ (by intro u t; (repeat' split) <;> simp), foldl_keeps (fun u => u.blk) _ (by simp)]
@[simp] theorem State.countTime_core (ac : Nat) (s : State) : (s.countTime ac).core = s.core := by
  unfold State.countTime
  rw [foldl_keeps (fun u => u.core) _ (by intro u t; (repeat' split) <;> simp), foldl_keeps (fun u => u.core) _ (by simp)]
@[simp] theorem State.countTime_strands (ac : Nat) (s : State) : (s.countTime ac).strands = s.strands := by
  unfold State.countTime
  rw [foldl_keeps (fun u => u.strands) _ (by intro u t; (repeat' split) <;> simp), foldl_keeps (fun u => u.strands) _ (by simp)]
@[simp] theorem State.countTime_blocks (ac : Nat) (s : State) : (s.countTime ac).blocks = s.blocks := by
  unfold State.countTime
  rw [foldl_keeps (fun u => u.blocks) _ (by intro u t; (repeat' split) <;> simp), foldl_keeps (fun u => u.blocks) _ (by simp)]
@[simp] theorem State.countTime_cores (ac : Nat) (s : State) : (s.countTime ac).cores = s.cores := by
  unfold State.countTime
  rw [foldl_keeps (fun u => u.cores) _ (by intro u t; (repeat' split) <;> simp), foldl_keeps (fun u => u.cores) _ (by simp)]
@[simp] theorem State.countTime_agenda (ac : Nat) (s : State) : (s.countTime ac).agenda = s.agenda := by
  unfold State.countTime
  rw [foldl_keeps (fun u => u.agenda) _ (by intro u t; (repeat' split) <;> simp), foldl_keeps (fun u => u.agenda) _ (by simp)]
@[simp] theorem State.countTime_free (ac : Nat) (s : State) : (s.countTime ac).free = s.free := by
  unfold State.countTime
  rw [foldl_keeps (fun u => u.free) _ (by intro u t; (repeat' split) <;> simp), foldl_keeps (fun u => u.free) _ (by simp)]
@[simp] theorem State.countTime_nextId (ac : Nat) (s : State) : (s.countTime ac).nextId = s.nextId := by
  unfold State.countTime
  rw [foldl_keeps (fun u => u.nextId) _ (by intro u t; (repeat' split) <;> simp), foldl_keeps (fun u => u.nextId) _ (by simp)]
@[simp] theorem State.countTime_dram (ac : Nat) (s : State) : (s.countTime ac).dram = s.dram := by
  unfold State.countTime
  rw [foldl_keeps (fun u => u.dram) _ (by intro u t; (repeat' split) <;> simp), foldl_keeps (fun u => u.dram) _ (by simp)]
@[simp] theorem State.countTime_slices (ac : Nat) (s : State) : (s.countTime ac).slices = s.slices := by
  unfold State.countTime
  rw [foldl_keeps (fun u => u.slices) _ (by intro u t; (repeat' split) <;> simp), foldl_keeps (fun u => u.slices) _ (by simp)]
@[simp] theorem State.countTime_poison (ac : Nat) (s : State) : (s.countTime ac).poison = s.poison := by
  unfold State.countTime
  rw [foldl_keeps (fun u => u.poison) _ (by intro u t; (repeat' split) <;> simp), foldl_keeps (fun u => u.poison) _ (by simp)]
@[simp] theorem State.countTime_graftLog (ac : Nat) (s : State) : (s.countTime ac).graftLog = s.graftLog := by
  unfold State.countTime
  rw [foldl_keeps (fun u => u.graftLog) _ (by intro u t; (repeat' split) <;> simp), foldl_keeps (fun u => u.graftLog) _ (by simp)]
@[simp] theorem State.countTime_dies (ac : Nat) (s : State) : (s.countTime ac).dies = s.dies := by
  unfold State.countTime
  rw [foldl_keeps (fun u => u.dies) _ (by intro u t; (repeat' split) <;> simp), foldl_keeps (fun u => u.dies) _ (by simp)]
@[simp] theorem State.countTime_links (ac : Nat) (s : State) : (s.countTime ac).links = s.links := by
  unfold State.countTime
  rw [foldl_keeps (fun u => u.links) _ (by intro u t; (repeat' split) <;> simp), foldl_keeps (fun u => u.links) _ (by simp)]
@[simp] theorem State.countTime_ports (ac : Nat) (s : State) : (s.countTime ac).ports = s.ports := by
  unfold State.countTime
  rw [foldl_keeps (fun u => u.ports) _ (by intro u t; (repeat' split) <;> simp), foldl_keeps (fun u => u.ports) _ (by simp)]
@[simp] theorem State.countTime_clusters (ac : Nat) (s : State) : (s.countTime ac).clusters = s.clusters := by
  unfold State.countTime
  rw [foldl_keeps (fun u => u.clusters) _ (by intro u t; (repeat' split) <;> simp), foldl_keeps (fun u => u.clusters) _ (by simp)]
@[simp] theorem State.countTime_groupBars (ac : Nat) (s : State) : (s.countTime ac).groupBars = s.groupBars := by
  unfold State.countTime
  rw [foldl_keeps (fun u => u.groupBars) _ (by intro u t; (repeat' split) <;> simp), foldl_keeps (fun u => u.groupBars) _ (by simp)]
@[simp] theorem State.countTime_images (ac : Nat) (s : State) : (s.countTime ac).images = s.images := by
  unfold State.countTime
  rw [foldl_keeps (fun u => u.images) _ (by intro u t; (repeat' split) <;> simp), foldl_keeps (fun u => u.images) _ (by simp)]
@[simp] theorem State.countTime_bindings (ac : Nat) (s : State) : (s.countTime ac).bindings = s.bindings := by
  unfold State.countTime
  rw [foldl_keeps (fun u => u.bindings) _ (by intro u t; (repeat' split) <;> simp), foldl_keeps (fun u => u.bindings) _ (by simp)]
@[simp] theorem State.countTime_xd (ac : Nat) (s : State) : (s.countTime ac).xd = s.xd := by
  unfold State.countTime
  rw [foldl_keeps (fun u => u.xd) _ (by intro u t; (repeat' split) <;> simp), foldl_keeps (fun u => u.xd) _ (by simp)]
@[simp] theorem State.countTime_copies (ac : Nat) (s : State) : (s.countTime ac).copies = s.copies := by
  unfold State.countTime
  rw [foldl_keeps (fun u => u.copies) _ (by intro u t; (repeat' split) <;> simp), foldl_keeps (fun u => u.copies) _ (by simp)]
@[simp] theorem State.countTime_mxops (ac : Nat) (s : State) : (s.countTime ac).mxops = s.mxops := by
  unfold State.countTime
  rw [foldl_keeps (fun u => u.mxops) _ (by intro u t; (repeat' split) <;> simp), foldl_keeps (fun u => u.mxops) _ (by simp)]
@[simp] theorem State.countTime_sows (ac : Nat) (s : State) : (s.countTime ac).sows = s.sows := by
  unfold State.countTime
  rw [foldl_keeps (fun u => u.sows) _ (by intro u t; (repeat' split) <;> simp), foldl_keeps (fun u => u.sows) _ (by simp)]
@[simp] theorem State.countTime_beds (ac : Nat) (s : State) : (s.countTime ac).beds = s.beds := by
  unfold State.countTime
  rw [foldl_keeps (fun u => u.beds) _ (by intro u t; (repeat' split) <;> simp), foldl_keeps (fun u => u.beds) _ (by simp)]
@[simp] theorem State.countTime_stage2 (ac : Nat) (s : State) : (s.countTime ac).stage2 = s.stage2 := by
  unfold State.countTime
  rw [foldl_keeps (fun u => u.stage2) _ (by intro u t; (repeat' split) <;> simp), foldl_keeps (fun u => u.stage2) _ (by simp)]
@[simp] theorem State.countTime_pkgFaults (ac : Nat) (s : State) : (s.countTime ac).pkgFaults = s.pkgFaults := by
  unfold State.countTime
  rw [foldl_keeps (fun u => u.pkgFaults) _ (by intro u t; (repeat' split) <;> simp), foldl_keeps (fun u => u.pkgFaults) _ (by simp)]
@[simp] theorem State.countTime_tlb (ac : Nat) (s : State) : (s.countTime ac).tlb = s.tlb := by
  unfold State.countTime
  rw [foldl_keeps (fun u => u.tlb) _ (by intro u t; (repeat' split) <;> simp), foldl_keeps (fun u => u.tlb) _ (by simp)]
@[simp] theorem State.countTime_walks (ac : Nat) (s : State) : (s.countTime ac).walks = s.walks := by
  unfold State.countTime
  rw [foldl_keeps (fun u => u.walks) _ (by intro u t; (repeat' split) <;> simp), foldl_keeps (fun u => u.walks) _ (by simp)]
@[simp] theorem State.countTime_uses (ac : Nat) (s : State) : (s.countTime ac).uses = s.uses := by
  unfold State.countTime
  rw [foldl_keeps (fun u => u.uses) _ (by intro u t; (repeat' split) <;> simp), foldl_keeps (fun u => u.uses) _ (by simp)]
@[simp] theorem State.countTime_queues (ac : Nat) (s : State) : (s.countTime ac).queues = s.queues := by
  unfold State.countTime
  rw [foldl_keeps (fun u => u.queues) _ (by intro u t; (repeat' split) <;> simp), foldl_keeps (fun u => u.queues) _ (by simp)]
@[simp] theorem State.countTime_launches (ac : Nat) (s : State) : (s.countTime ac).launches = s.launches := by
  unfold State.countTime
  rw [foldl_keeps (fun u => u.launches) _ (by intro u t; (repeat' split) <;> simp), foldl_keeps (fun u => u.launches) _ (by simp)]
@[simp] theorem State.countTime_tasks (ac : Nat) (s : State) : (s.countTime ac).tasks = s.tasks := by
  unfold State.countTime
  rw [foldl_keeps (fun u => u.tasks) _ (by intro u t; (repeat' split) <;> simp), foldl_keeps (fun u => u.tasks) _ (by simp)]
@[simp] theorem State.countTime_nodes (ac : Nat) (s : State) : (s.countTime ac).nodes = s.nodes := by
  unfold State.countTime
  rw [foldl_keeps (fun u => u.nodes) _ (by intro u t; (repeat' split) <;> simp), foldl_keeps (fun u => u.nodes) _ (by simp)]
@[simp] theorem State.countTime_classes (ac : Nat) (s : State) : (s.countTime ac).classes = s.classes := by
  unfold State.countTime
  rw [foldl_keeps (fun u => u.classes) _ (by intro u t; (repeat' split) <;> simp), foldl_keeps (fun u => u.classes) _ (by simp)]
@[simp] theorem State.countTime_control (ac : Nat) (s : State) : (s.countTime ac).control = s.control := by
  unfold State.countTime
  rw [foldl_keeps (fun u => u.control) _ (by intro u t; (repeat' split) <;> simp), foldl_keeps (fun u => u.control) _ (by simp)]
@[simp] theorem State.countTime_hostOps (ac : Nat) (s : State) : (s.countTime ac).hostOps = s.hostOps := by
  unfold State.countTime
  rw [foldl_keeps (fun u => u.hostOps) _ (by intro u t; (repeat' split) <;> simp), foldl_keeps (fun u => u.hostOps) _ (by simp)]
@[simp] theorem State.countTime_outbox (ac : Nat) (s : State) : (s.countTime ac).outbox = s.outbox := by
  unfold State.countTime
  rw [foldl_keeps (fun u => u.outbox) _ (by intro u t; (repeat' split) <;> simp), foldl_keeps (fun u => u.outbox) _ (by simp)]
@[simp] theorem State.advance_me (t : Nat) (s : State) : (s.advance t).me = s.me := by
  unfold State.advance; simp only []; (repeat' split) <;> simp
@[simp] theorem State.advance_blk (t : Nat) (s : State) : (s.advance t).blk = s.blk := by
  unfold State.advance; simp only []; (repeat' split) <;> simp
@[simp] theorem State.advance_core (t : Nat) (s : State) : (s.advance t).core = s.core := by
  unfold State.advance; simp only []; (repeat' split) <;> simp
@[simp] theorem State.advance_strands (t : Nat) (s : State) : (s.advance t).strands = s.strands := by
  unfold State.advance; simp only []; (repeat' split) <;> simp
@[simp] theorem State.advance_blocks (t : Nat) (s : State) : (s.advance t).blocks = s.blocks := by
  unfold State.advance; simp only []; (repeat' split) <;> simp
@[simp] theorem State.advance_cores (t : Nat) (s : State) : (s.advance t).cores = s.cores := by
  unfold State.advance; simp only []; (repeat' split) <;> simp
@[simp] theorem State.advance_agenda (t : Nat) (s : State) : (s.advance t).agenda = s.agenda := by
  unfold State.advance; simp only []; (repeat' split) <;> simp
@[simp] theorem State.advance_free (t : Nat) (s : State) : (s.advance t).free = s.free := by
  unfold State.advance; simp only []; (repeat' split) <;> simp
@[simp] theorem State.advance_nextId (t : Nat) (s : State) : (s.advance t).nextId = s.nextId := by
  unfold State.advance; simp only []; (repeat' split) <;> simp
@[simp] theorem State.advance_dram (t : Nat) (s : State) : (s.advance t).dram = s.dram := by
  unfold State.advance; simp only []; (repeat' split) <;> simp
@[simp] theorem State.advance_slices (t : Nat) (s : State) : (s.advance t).slices = s.slices := by
  unfold State.advance; simp only []; (repeat' split) <;> simp
@[simp] theorem State.advance_poison (t : Nat) (s : State) : (s.advance t).poison = s.poison := by
  unfold State.advance; simp only []; (repeat' split) <;> simp
@[simp] theorem State.advance_graftLog (t : Nat) (s : State) : (s.advance t).graftLog = s.graftLog := by
  unfold State.advance; simp only []; (repeat' split) <;> simp
@[simp] theorem State.advance_dies (t : Nat) (s : State) : (s.advance t).dies = s.dies := by
  unfold State.advance; simp only []; (repeat' split) <;> simp
@[simp] theorem State.advance_links (t : Nat) (s : State) : (s.advance t).links = s.links := by
  unfold State.advance; simp only []; (repeat' split) <;> simp
@[simp] theorem State.advance_ports (t : Nat) (s : State) : (s.advance t).ports = s.ports := by
  unfold State.advance; simp only []; (repeat' split) <;> simp
@[simp] theorem State.advance_clusters (t : Nat) (s : State) : (s.advance t).clusters = s.clusters := by
  unfold State.advance; simp only []; (repeat' split) <;> simp
@[simp] theorem State.advance_groupBars (t : Nat) (s : State) : (s.advance t).groupBars = s.groupBars := by
  unfold State.advance; simp only []; (repeat' split) <;> simp
@[simp] theorem State.advance_images (t : Nat) (s : State) : (s.advance t).images = s.images := by
  unfold State.advance; simp only []; (repeat' split) <;> simp
@[simp] theorem State.advance_bindings (t : Nat) (s : State) : (s.advance t).bindings = s.bindings := by
  unfold State.advance; simp only []; (repeat' split) <;> simp
@[simp] theorem State.advance_xd (t : Nat) (s : State) : (s.advance t).xd = s.xd := by
  unfold State.advance; simp only []; (repeat' split) <;> simp
@[simp] theorem State.advance_copies (t : Nat) (s : State) : (s.advance t).copies = s.copies := by
  unfold State.advance; simp only []; (repeat' split) <;> simp
@[simp] theorem State.advance_mxops (t : Nat) (s : State) : (s.advance t).mxops = s.mxops := by
  unfold State.advance; simp only []; (repeat' split) <;> simp
@[simp] theorem State.advance_sows (t : Nat) (s : State) : (s.advance t).sows = s.sows := by
  unfold State.advance; simp only []; (repeat' split) <;> simp
@[simp] theorem State.advance_beds (t : Nat) (s : State) : (s.advance t).beds = s.beds := by
  unfold State.advance; simp only []; (repeat' split) <;> simp
@[simp] theorem State.advance_stage2 (t : Nat) (s : State) : (s.advance t).stage2 = s.stage2 := by
  unfold State.advance; simp only []; (repeat' split) <;> simp
@[simp] theorem State.advance_pkgFaults (t : Nat) (s : State) : (s.advance t).pkgFaults = s.pkgFaults := by
  unfold State.advance; simp only []; (repeat' split) <;> simp
@[simp] theorem State.advance_tlb (t : Nat) (s : State) : (s.advance t).tlb = s.tlb := by
  unfold State.advance; simp only []; (repeat' split) <;> simp
@[simp] theorem State.advance_walks (t : Nat) (s : State) : (s.advance t).walks = s.walks := by
  unfold State.advance; simp only []; (repeat' split) <;> simp
@[simp] theorem State.advance_uses (t : Nat) (s : State) : (s.advance t).uses = s.uses := by
  unfold State.advance; simp only []; (repeat' split) <;> simp
@[simp] theorem State.advance_queues (t : Nat) (s : State) : (s.advance t).queues = s.queues := by
  unfold State.advance; simp only []; (repeat' split) <;> simp
@[simp] theorem State.advance_launches (t : Nat) (s : State) : (s.advance t).launches = s.launches := by
  unfold State.advance; simp only []; (repeat' split) <;> simp
@[simp] theorem State.advance_tasks (t : Nat) (s : State) : (s.advance t).tasks = s.tasks := by
  unfold State.advance; simp only []; (repeat' split) <;> simp
@[simp] theorem State.advance_nodes (t : Nat) (s : State) : (s.advance t).nodes = s.nodes := by
  unfold State.advance; simp only []; (repeat' split) <;> simp
@[simp] theorem State.advance_classes (t : Nat) (s : State) : (s.advance t).classes = s.classes := by
  unfold State.advance; simp only []; (repeat' split) <;> simp
@[simp] theorem State.advance_control (t : Nat) (s : State) : (s.advance t).control = s.control := by
  unfold State.advance; simp only []; (repeat' split) <;> simp
@[simp] theorem State.advance_hostOps (t : Nat) (s : State) : (s.advance t).hostOps = s.hostOps := by
  unfold State.advance; simp only []; (repeat' split) <;> simp
@[simp] theorem State.advance_outbox (t : Nat) (s : State) : (s.advance t).outbox = s.outbox := by
  unfold State.advance; simp only []; (repeat' split) <;> simp

/-! Strand updates -/

@[simp] theorem Strand.putS_id (r : Nat) (x : W64) (t : Strand) : (t.putS r x).id = t.id := rfl
@[simp] theorem Strand.putS_block (r : Nat) (x : W64) (t : Strand) : (t.putS r x).block = t.block := rfl
@[simp] theorem Strand.putS_run (r : Nat) (x : W64) (t : Strand) : (t.putS r x).run = t.run := rfl
@[simp] theorem Strand.putS_pc (r : Nat) (x : W64) (t : Strand) : (t.putS r x).pc = t.pc := rfl
@[simp] theorem Strand.putS_v (r : Nat) (x : W64) (t : Strand) : (t.putS r x).v = t.v := rfl
@[simp] theorem Strand.putS_m (r : Nat) (x : W64) (t : Strand) : (t.putS r x).m = t.m := rfl
@[simp] theorem Strand.putS_stack (r : Nat) (x : W64) (t : Strand) : (t.putS r x).stack = t.stack := rfl
@[simp] theorem Strand.putS_near (r : Nat) (x : W64) (t : Strand) : (t.putS r x).near = t.near := rfl
@[simp] theorem Strand.putS_mx (r : Nat) (x : W64) (t : Strand) : (t.putS r x).mx = t.mx := rfl
@[simp] theorem Strand.putS_cp (r : Nat) (x : W64) (t : Strand) : (t.putS r x).cp = t.cp := rfl
@[simp] theorem Strand.putS_sw (r : Nat) (x : W64) (t : Strand) : (t.putS r x).sw = t.sw := rfl
@[simp] theorem Strand.putS_tpc (r : Nat) (x : W64) (t : Strand) : (t.putS r x).tpc = t.tpc := rfl
@[simp] theorem Strand.putS_tcause (r : Nat) (x : W64) (t : Strand) : (t.putS r x).tcause = t.tcause := rfl
@[simp] theorem Strand.putS_tlanes (r : Nat) (x : W64) (t : Strand) : (t.putS r x).tlanes = t.tlanes := rfl
@[simp] theorem Strand.putS_taddr (r : Nat) (x : W64) (t : Strand) : (t.putS r x).taddr = t.taddr := rfl
@[simp] theorem Strand.putS_tval (r : Nat) (x : W64) (t : Strand) : (t.putS r x).tval = t.tval := rfl
@[simp] theorem Strand.putS_fmt (r : Nat) (x : W64) (t : Strand) : (t.putS r x).fmt = t.fmt := rfl
@[simp] theorem Strand.putS_gang (r : Nat) (x : W64) (t : Strand) : (t.putS r x).gang = t.gang := rfl
@[simp] theorem Strand.putS_sowfrom (r : Nat) (x : W64) (t : Strand) : (t.putS r x).sowfrom = t.sowfrom := rfl
@[simp] theorem Strand.putS_rm (r : Nat) (x : W64) (t : Strand) : (t.putS r x).rm = t.rm := rfl
@[simp] theorem Strand.putS_chk (r : Nat) (x : W64) (t : Strand) : (t.putS r x).chk = t.chk := rfl
@[simp] theorem Strand.putS_prot (r : Nat) (x : W64) (t : Strand) : (t.putS r x).prot = t.prot := rfl
@[simp] theorem Strand.putS_tmasked (r : Nat) (x : W64) (t : Strand) : (t.putS r x).tmasked = t.tmasked := rfl
@[simp] theorem Strand.putS_wid (r : Nat) (x : W64) (t : Strand) : (t.putS r x).wid = t.wid := rfl
@[simp] theorem Strand.putS_slot (r : Nat) (x : W64) (t : Strand) : (t.putS r x).slot = t.slot := rfl
@[simp] theorem Strand.putS_role (r : Nat) (x : W64) (t : Strand) : (t.putS r x).role = t.role := rfl
@[simp] theorem Strand.putS_kind (r : Nat) (x : W64) (t : Strand) : (t.putS r x).kind = t.kind := rfl
@[simp] theorem Strand.putS_budget (r : Nat) (x : W64) (t : Strand) : (t.putS r x).budget = t.budget := rfl
@[simp] theorem Strand.putS_priv (r : Nat) (x : W64) (t : Strand) : (t.putS r x).priv = t.priv := rfl
@[simp] theorem Strand.putS_handler (r : Nat) (x : W64) (t : Strand) : (t.putS r x).handler = t.handler := rfl
@[simp] theorem Strand.putS_launchAt (r : Nat) (x : W64) (t : Strand) : (t.putS r x).launchAt = t.launchAt := rfl
@[simp] theorem Strand.putS_hints (r : Nat) (x : W64) (t : Strand) : (t.putS r x).hints = t.hints := rfl
@[simp] theorem Strand.putS_stall (r : Nat) (x : W64) (t : Strand) : (t.putS r x).stall = t.stall := rfl
@[simp] theorem Strand.putS_pending (r : Nat) (x : W64) (t : Strand) : (t.putS r x).pending = t.pending := rfl
@[simp] theorem Strand.putS_readyAt (r : Nat) (x : W64) (t : Strand) : (t.putS r x).readyAt = t.readyAt := rfl
@[simp] theorem Strand.putS_issuedAt (r : Nat) (x : W64) (t : Strand) : (t.putS r x).issuedAt = t.issuedAt := rfl
@[simp] theorem Strand.putS_tretMask (r : Nat) (x : W64) (t : Strand) : (t.putS r x).tretMask = t.tretMask := rfl
@[simp] theorem Strand.putS_wake (r : Nat) (x : W64) (t : Strand) : (t.putS r x).wake = t.wake := rfl
@[simp] theorem Strand.putS_wait (r : Nat) (x : W64) (t : Strand) : (t.putS r x).wait = t.wait := rfl
@[simp] theorem Strand.putS_reason (r : Nat) (x : W64) (t : Strand) : (t.putS r x).reason = t.reason := rfl
@[simp] theorem Strand.putS_memWait (r : Nat) (x : W64) (t : Strand) : (t.putS r x).memWait = t.memWait := rfl
@[simp] theorem Strand.putS_flight (r : Nat) (x : W64) (t : Strand) : (t.putS r x).flight = t.flight := rfl
@[simp] theorem Strand.putS_spin (r : Nat) (x : W64) (t : Strand) : (t.putS r x).spin = t.spin := rfl
@[simp] theorem Strand.putS_matched (r : Nat) (x : W64) (t : Strand) : (t.putS r x).matched = t.matched := rfl
@[simp] theorem Strand.putS_pcMatch (r : Nat) (x : W64) (t : Strand) : (t.putS r x).pcMatch = t.pcMatch := rfl
@[simp] theorem Strand.putS_fetch (r : Nat) (x : W64) (t : Strand) : (t.putS r x).fetch = t.fetch := rfl
@[simp] theorem Strand.putS_issuedPc (r : Nat) (x : W64) (t : Strand) : (t.putS r x).issuedPc = t.issuedPc := rfl
@[simp] theorem Strand.putS_lastIssue (r : Nat) (x : W64) (t : Strand) : (t.putS r x).lastIssue = t.lastIssue := rfl
@[simp] theorem Strand.putS_issued (r : Nat) (x : W64) (t : Strand) : (t.putS r x).issued = t.issued := rfl
@[simp] theorem Strand.putS_latch (r : Nat) (x : W64) (t : Strand) : (t.putS r x).latch = t.latch := rfl
@[simp] theorem Strand.putS_shadow (r : Nat) (x : W64) (t : Strand) : (t.putS r x).shadow = t.shadow := rfl
@[simp] theorem Strand.putS_peerStores (r : Nat) (x : W64) (t : Strand) : (t.putS r x).peerStores = t.peerStores := rfl
@[simp] theorem Strand.putS_overrun (r : Nat) (x : W64) (t : Strand) : (t.putS r x).overrun = t.overrun := rfl
@[simp] theorem Strand.putS_stepping (r : Nat) (x : W64) (t : Strand) : (t.putS r x).stepping = t.stepping := rfl
@[simp] theorem Strand.putS_stopPc (r : Nat) (x : W64) (t : Strand) : (t.putS r x).stopPc = t.stopPc := rfl
@[simp] theorem Strand.putS_corrupt (r : Nat) (x : W64) (t : Strand) : (t.putS r x).corrupt = t.corrupt := rfl

@[simp] theorem Strand.putV_id (r : Nat) (x : Vec) (t : Strand) : (t.putV r x).id = t.id := rfl
@[simp] theorem Strand.putV_block (r : Nat) (x : Vec) (t : Strand) : (t.putV r x).block = t.block := rfl
@[simp] theorem Strand.putV_run (r : Nat) (x : Vec) (t : Strand) : (t.putV r x).run = t.run := rfl
@[simp] theorem Strand.putV_pc (r : Nat) (x : Vec) (t : Strand) : (t.putV r x).pc = t.pc := rfl
@[simp] theorem Strand.putV_s (r : Nat) (x : Vec) (t : Strand) : (t.putV r x).s = t.s := rfl
@[simp] theorem Strand.putV_m (r : Nat) (x : Vec) (t : Strand) : (t.putV r x).m = t.m := rfl
@[simp] theorem Strand.putV_stack (r : Nat) (x : Vec) (t : Strand) : (t.putV r x).stack = t.stack := rfl
@[simp] theorem Strand.putV_near (r : Nat) (x : Vec) (t : Strand) : (t.putV r x).near = t.near := rfl
@[simp] theorem Strand.putV_mx (r : Nat) (x : Vec) (t : Strand) : (t.putV r x).mx = t.mx := rfl
@[simp] theorem Strand.putV_cp (r : Nat) (x : Vec) (t : Strand) : (t.putV r x).cp = t.cp := rfl
@[simp] theorem Strand.putV_sw (r : Nat) (x : Vec) (t : Strand) : (t.putV r x).sw = t.sw := rfl
@[simp] theorem Strand.putV_tpc (r : Nat) (x : Vec) (t : Strand) : (t.putV r x).tpc = t.tpc := rfl
@[simp] theorem Strand.putV_tcause (r : Nat) (x : Vec) (t : Strand) : (t.putV r x).tcause = t.tcause := rfl
@[simp] theorem Strand.putV_tlanes (r : Nat) (x : Vec) (t : Strand) : (t.putV r x).tlanes = t.tlanes := rfl
@[simp] theorem Strand.putV_taddr (r : Nat) (x : Vec) (t : Strand) : (t.putV r x).taddr = t.taddr := rfl
@[simp] theorem Strand.putV_tval (r : Nat) (x : Vec) (t : Strand) : (t.putV r x).tval = t.tval := rfl
@[simp] theorem Strand.putV_fmt (r : Nat) (x : Vec) (t : Strand) : (t.putV r x).fmt = t.fmt := rfl
@[simp] theorem Strand.putV_gang (r : Nat) (x : Vec) (t : Strand) : (t.putV r x).gang = t.gang := rfl
@[simp] theorem Strand.putV_sowfrom (r : Nat) (x : Vec) (t : Strand) : (t.putV r x).sowfrom = t.sowfrom := rfl
@[simp] theorem Strand.putV_rm (r : Nat) (x : Vec) (t : Strand) : (t.putV r x).rm = t.rm := rfl
@[simp] theorem Strand.putV_chk (r : Nat) (x : Vec) (t : Strand) : (t.putV r x).chk = t.chk := rfl
@[simp] theorem Strand.putV_prot (r : Nat) (x : Vec) (t : Strand) : (t.putV r x).prot = t.prot := rfl
@[simp] theorem Strand.putV_tmasked (r : Nat) (x : Vec) (t : Strand) : (t.putV r x).tmasked = t.tmasked := rfl
@[simp] theorem Strand.putV_wid (r : Nat) (x : Vec) (t : Strand) : (t.putV r x).wid = t.wid := rfl
@[simp] theorem Strand.putV_slot (r : Nat) (x : Vec) (t : Strand) : (t.putV r x).slot = t.slot := rfl
@[simp] theorem Strand.putV_role (r : Nat) (x : Vec) (t : Strand) : (t.putV r x).role = t.role := rfl
@[simp] theorem Strand.putV_kind (r : Nat) (x : Vec) (t : Strand) : (t.putV r x).kind = t.kind := rfl
@[simp] theorem Strand.putV_budget (r : Nat) (x : Vec) (t : Strand) : (t.putV r x).budget = t.budget := rfl
@[simp] theorem Strand.putV_priv (r : Nat) (x : Vec) (t : Strand) : (t.putV r x).priv = t.priv := rfl
@[simp] theorem Strand.putV_handler (r : Nat) (x : Vec) (t : Strand) : (t.putV r x).handler = t.handler := rfl
@[simp] theorem Strand.putV_launchAt (r : Nat) (x : Vec) (t : Strand) : (t.putV r x).launchAt = t.launchAt := rfl
@[simp] theorem Strand.putV_hints (r : Nat) (x : Vec) (t : Strand) : (t.putV r x).hints = t.hints := rfl
@[simp] theorem Strand.putV_stall (r : Nat) (x : Vec) (t : Strand) : (t.putV r x).stall = t.stall := rfl
@[simp] theorem Strand.putV_pending (r : Nat) (x : Vec) (t : Strand) : (t.putV r x).pending = t.pending := rfl
@[simp] theorem Strand.putV_readyAt (r : Nat) (x : Vec) (t : Strand) : (t.putV r x).readyAt = t.readyAt := rfl
@[simp] theorem Strand.putV_issuedAt (r : Nat) (x : Vec) (t : Strand) : (t.putV r x).issuedAt = t.issuedAt := rfl
@[simp] theorem Strand.putV_tretMask (r : Nat) (x : Vec) (t : Strand) : (t.putV r x).tretMask = t.tretMask := rfl
@[simp] theorem Strand.putV_wake (r : Nat) (x : Vec) (t : Strand) : (t.putV r x).wake = t.wake := rfl
@[simp] theorem Strand.putV_wait (r : Nat) (x : Vec) (t : Strand) : (t.putV r x).wait = t.wait := rfl
@[simp] theorem Strand.putV_reason (r : Nat) (x : Vec) (t : Strand) : (t.putV r x).reason = t.reason := rfl
@[simp] theorem Strand.putV_memWait (r : Nat) (x : Vec) (t : Strand) : (t.putV r x).memWait = t.memWait := rfl
@[simp] theorem Strand.putV_flight (r : Nat) (x : Vec) (t : Strand) : (t.putV r x).flight = t.flight := rfl
@[simp] theorem Strand.putV_spin (r : Nat) (x : Vec) (t : Strand) : (t.putV r x).spin = t.spin := rfl
@[simp] theorem Strand.putV_matched (r : Nat) (x : Vec) (t : Strand) : (t.putV r x).matched = t.matched := rfl
@[simp] theorem Strand.putV_pcMatch (r : Nat) (x : Vec) (t : Strand) : (t.putV r x).pcMatch = t.pcMatch := rfl
@[simp] theorem Strand.putV_fetch (r : Nat) (x : Vec) (t : Strand) : (t.putV r x).fetch = t.fetch := rfl
@[simp] theorem Strand.putV_issuedPc (r : Nat) (x : Vec) (t : Strand) : (t.putV r x).issuedPc = t.issuedPc := rfl
@[simp] theorem Strand.putV_lastIssue (r : Nat) (x : Vec) (t : Strand) : (t.putV r x).lastIssue = t.lastIssue := rfl
@[simp] theorem Strand.putV_issued (r : Nat) (x : Vec) (t : Strand) : (t.putV r x).issued = t.issued := rfl
@[simp] theorem Strand.putV_latch (r : Nat) (x : Vec) (t : Strand) : (t.putV r x).latch = t.latch := rfl
@[simp] theorem Strand.putV_shadow (r : Nat) (x : Vec) (t : Strand) : (t.putV r x).shadow = t.shadow := rfl
@[simp] theorem Strand.putV_peerStores (r : Nat) (x : Vec) (t : Strand) : (t.putV r x).peerStores = t.peerStores := rfl
@[simp] theorem Strand.putV_overrun (r : Nat) (x : Vec) (t : Strand) : (t.putV r x).overrun = t.overrun := rfl
@[simp] theorem Strand.putV_stepping (r : Nat) (x : Vec) (t : Strand) : (t.putV r x).stepping = t.stepping := rfl
@[simp] theorem Strand.putV_stopPc (r : Nat) (x : Vec) (t : Strand) : (t.putV r x).stopPc = t.stopPc := rfl
@[simp] theorem Strand.putV_corrupt (r : Nat) (x : Vec) (t : Strand) : (t.putV r x).corrupt = t.corrupt := rfl

@[simp] theorem Strand.putM_id (r : Nat) (x : W32) (t : Strand) : (t.putM r x).id = t.id := rfl
@[simp] theorem Strand.putM_block (r : Nat) (x : W32) (t : Strand) : (t.putM r x).block = t.block := rfl
@[simp] theorem Strand.putM_run (r : Nat) (x : W32) (t : Strand) : (t.putM r x).run = t.run := rfl
@[simp] theorem Strand.putM_pc (r : Nat) (x : W32) (t : Strand) : (t.putM r x).pc = t.pc := rfl
@[simp] theorem Strand.putM_s (r : Nat) (x : W32) (t : Strand) : (t.putM r x).s = t.s := rfl
@[simp] theorem Strand.putM_v (r : Nat) (x : W32) (t : Strand) : (t.putM r x).v = t.v := rfl
@[simp] theorem Strand.putM_stack (r : Nat) (x : W32) (t : Strand) : (t.putM r x).stack = t.stack := rfl
@[simp] theorem Strand.putM_near (r : Nat) (x : W32) (t : Strand) : (t.putM r x).near = t.near := rfl
@[simp] theorem Strand.putM_mx (r : Nat) (x : W32) (t : Strand) : (t.putM r x).mx = t.mx := rfl
@[simp] theorem Strand.putM_cp (r : Nat) (x : W32) (t : Strand) : (t.putM r x).cp = t.cp := rfl
@[simp] theorem Strand.putM_sw (r : Nat) (x : W32) (t : Strand) : (t.putM r x).sw = t.sw := rfl
@[simp] theorem Strand.putM_tpc (r : Nat) (x : W32) (t : Strand) : (t.putM r x).tpc = t.tpc := rfl
@[simp] theorem Strand.putM_tcause (r : Nat) (x : W32) (t : Strand) : (t.putM r x).tcause = t.tcause := rfl
@[simp] theorem Strand.putM_tlanes (r : Nat) (x : W32) (t : Strand) : (t.putM r x).tlanes = t.tlanes := rfl
@[simp] theorem Strand.putM_taddr (r : Nat) (x : W32) (t : Strand) : (t.putM r x).taddr = t.taddr := rfl
@[simp] theorem Strand.putM_tval (r : Nat) (x : W32) (t : Strand) : (t.putM r x).tval = t.tval := rfl
@[simp] theorem Strand.putM_fmt (r : Nat) (x : W32) (t : Strand) : (t.putM r x).fmt = t.fmt := rfl
@[simp] theorem Strand.putM_gang (r : Nat) (x : W32) (t : Strand) : (t.putM r x).gang = t.gang := rfl
@[simp] theorem Strand.putM_sowfrom (r : Nat) (x : W32) (t : Strand) : (t.putM r x).sowfrom = t.sowfrom := rfl
@[simp] theorem Strand.putM_rm (r : Nat) (x : W32) (t : Strand) : (t.putM r x).rm = t.rm := rfl
@[simp] theorem Strand.putM_chk (r : Nat) (x : W32) (t : Strand) : (t.putM r x).chk = t.chk := rfl
@[simp] theorem Strand.putM_prot (r : Nat) (x : W32) (t : Strand) : (t.putM r x).prot = t.prot := rfl
@[simp] theorem Strand.putM_tmasked (r : Nat) (x : W32) (t : Strand) : (t.putM r x).tmasked = t.tmasked := rfl
@[simp] theorem Strand.putM_wid (r : Nat) (x : W32) (t : Strand) : (t.putM r x).wid = t.wid := rfl
@[simp] theorem Strand.putM_slot (r : Nat) (x : W32) (t : Strand) : (t.putM r x).slot = t.slot := rfl
@[simp] theorem Strand.putM_role (r : Nat) (x : W32) (t : Strand) : (t.putM r x).role = t.role := rfl
@[simp] theorem Strand.putM_kind (r : Nat) (x : W32) (t : Strand) : (t.putM r x).kind = t.kind := rfl
@[simp] theorem Strand.putM_budget (r : Nat) (x : W32) (t : Strand) : (t.putM r x).budget = t.budget := rfl
@[simp] theorem Strand.putM_priv (r : Nat) (x : W32) (t : Strand) : (t.putM r x).priv = t.priv := rfl
@[simp] theorem Strand.putM_handler (r : Nat) (x : W32) (t : Strand) : (t.putM r x).handler = t.handler := rfl
@[simp] theorem Strand.putM_launchAt (r : Nat) (x : W32) (t : Strand) : (t.putM r x).launchAt = t.launchAt := rfl
@[simp] theorem Strand.putM_hints (r : Nat) (x : W32) (t : Strand) : (t.putM r x).hints = t.hints := rfl
@[simp] theorem Strand.putM_stall (r : Nat) (x : W32) (t : Strand) : (t.putM r x).stall = t.stall := rfl
@[simp] theorem Strand.putM_pending (r : Nat) (x : W32) (t : Strand) : (t.putM r x).pending = t.pending := rfl
@[simp] theorem Strand.putM_readyAt (r : Nat) (x : W32) (t : Strand) : (t.putM r x).readyAt = t.readyAt := rfl
@[simp] theorem Strand.putM_issuedAt (r : Nat) (x : W32) (t : Strand) : (t.putM r x).issuedAt = t.issuedAt := rfl
@[simp] theorem Strand.putM_tretMask (r : Nat) (x : W32) (t : Strand) : (t.putM r x).tretMask = t.tretMask := rfl
@[simp] theorem Strand.putM_wake (r : Nat) (x : W32) (t : Strand) : (t.putM r x).wake = t.wake := rfl
@[simp] theorem Strand.putM_wait (r : Nat) (x : W32) (t : Strand) : (t.putM r x).wait = t.wait := rfl
@[simp] theorem Strand.putM_reason (r : Nat) (x : W32) (t : Strand) : (t.putM r x).reason = t.reason := rfl
@[simp] theorem Strand.putM_memWait (r : Nat) (x : W32) (t : Strand) : (t.putM r x).memWait = t.memWait := rfl
@[simp] theorem Strand.putM_flight (r : Nat) (x : W32) (t : Strand) : (t.putM r x).flight = t.flight := rfl
@[simp] theorem Strand.putM_spin (r : Nat) (x : W32) (t : Strand) : (t.putM r x).spin = t.spin := rfl
@[simp] theorem Strand.putM_matched (r : Nat) (x : W32) (t : Strand) : (t.putM r x).matched = t.matched := rfl
@[simp] theorem Strand.putM_pcMatch (r : Nat) (x : W32) (t : Strand) : (t.putM r x).pcMatch = t.pcMatch := rfl
@[simp] theorem Strand.putM_fetch (r : Nat) (x : W32) (t : Strand) : (t.putM r x).fetch = t.fetch := rfl
@[simp] theorem Strand.putM_issuedPc (r : Nat) (x : W32) (t : Strand) : (t.putM r x).issuedPc = t.issuedPc := rfl
@[simp] theorem Strand.putM_lastIssue (r : Nat) (x : W32) (t : Strand) : (t.putM r x).lastIssue = t.lastIssue := rfl
@[simp] theorem Strand.putM_issued (r : Nat) (x : W32) (t : Strand) : (t.putM r x).issued = t.issued := rfl
@[simp] theorem Strand.putM_latch (r : Nat) (x : W32) (t : Strand) : (t.putM r x).latch = t.latch := rfl
@[simp] theorem Strand.putM_shadow (r : Nat) (x : W32) (t : Strand) : (t.putM r x).shadow = t.shadow := rfl
@[simp] theorem Strand.putM_peerStores (r : Nat) (x : W32) (t : Strand) : (t.putM r x).peerStores = t.peerStores := rfl
@[simp] theorem Strand.putM_overrun (r : Nat) (x : W32) (t : Strand) : (t.putM r x).overrun = t.overrun := rfl
@[simp] theorem Strand.putM_stepping (r : Nat) (x : W32) (t : Strand) : (t.putM r x).stepping = t.stepping := rfl
@[simp] theorem Strand.putM_stopPc (r : Nat) (x : W32) (t : Strand) : (t.putM r x).stopPc = t.stopPc := rfl
@[simp] theorem Strand.putM_corrupt (r : Nat) (x : W32) (t : Strand) : (t.putM r x).corrupt = t.corrupt := rfl

@[simp] theorem Strand.pend_id (f : Form) (t0 : Nat) (t before : Strand) : (t.pend f t0 before).id = t.id := rfl
@[simp] theorem Strand.pend_block (f : Form) (t0 : Nat) (t before : Strand) : (t.pend f t0 before).block = t.block := rfl
@[simp] theorem Strand.pend_run (f : Form) (t0 : Nat) (t before : Strand) : (t.pend f t0 before).run = t.run := rfl
@[simp] theorem Strand.pend_pc (f : Form) (t0 : Nat) (t before : Strand) : (t.pend f t0 before).pc = t.pc := rfl
@[simp] theorem Strand.pend_s (f : Form) (t0 : Nat) (t before : Strand) : (t.pend f t0 before).s = t.s := rfl
@[simp] theorem Strand.pend_v (f : Form) (t0 : Nat) (t before : Strand) : (t.pend f t0 before).v = t.v := rfl
@[simp] theorem Strand.pend_m (f : Form) (t0 : Nat) (t before : Strand) : (t.pend f t0 before).m = t.m := rfl
@[simp] theorem Strand.pend_stack (f : Form) (t0 : Nat) (t before : Strand) : (t.pend f t0 before).stack = t.stack := rfl
@[simp] theorem Strand.pend_near (f : Form) (t0 : Nat) (t before : Strand) : (t.pend f t0 before).near = t.near := rfl
@[simp] theorem Strand.pend_mx (f : Form) (t0 : Nat) (t before : Strand) : (t.pend f t0 before).mx = t.mx := rfl
@[simp] theorem Strand.pend_cp (f : Form) (t0 : Nat) (t before : Strand) : (t.pend f t0 before).cp = t.cp := rfl
@[simp] theorem Strand.pend_sw (f : Form) (t0 : Nat) (t before : Strand) : (t.pend f t0 before).sw = t.sw := rfl
@[simp] theorem Strand.pend_tpc (f : Form) (t0 : Nat) (t before : Strand) : (t.pend f t0 before).tpc = t.tpc := rfl
@[simp] theorem Strand.pend_tcause (f : Form) (t0 : Nat) (t before : Strand) : (t.pend f t0 before).tcause = t.tcause := rfl
@[simp] theorem Strand.pend_tlanes (f : Form) (t0 : Nat) (t before : Strand) : (t.pend f t0 before).tlanes = t.tlanes := rfl
@[simp] theorem Strand.pend_taddr (f : Form) (t0 : Nat) (t before : Strand) : (t.pend f t0 before).taddr = t.taddr := rfl
@[simp] theorem Strand.pend_tval (f : Form) (t0 : Nat) (t before : Strand) : (t.pend f t0 before).tval = t.tval := rfl
@[simp] theorem Strand.pend_fmt (f : Form) (t0 : Nat) (t before : Strand) : (t.pend f t0 before).fmt = t.fmt := rfl
@[simp] theorem Strand.pend_gang (f : Form) (t0 : Nat) (t before : Strand) : (t.pend f t0 before).gang = t.gang := rfl
@[simp] theorem Strand.pend_sowfrom (f : Form) (t0 : Nat) (t before : Strand) : (t.pend f t0 before).sowfrom = t.sowfrom := rfl
@[simp] theorem Strand.pend_rm (f : Form) (t0 : Nat) (t before : Strand) : (t.pend f t0 before).rm = t.rm := rfl
@[simp] theorem Strand.pend_chk (f : Form) (t0 : Nat) (t before : Strand) : (t.pend f t0 before).chk = t.chk := rfl
@[simp] theorem Strand.pend_prot (f : Form) (t0 : Nat) (t before : Strand) : (t.pend f t0 before).prot = t.prot := rfl
@[simp] theorem Strand.pend_tmasked (f : Form) (t0 : Nat) (t before : Strand) : (t.pend f t0 before).tmasked = t.tmasked := rfl
@[simp] theorem Strand.pend_wid (f : Form) (t0 : Nat) (t before : Strand) : (t.pend f t0 before).wid = t.wid := rfl
@[simp] theorem Strand.pend_slot (f : Form) (t0 : Nat) (t before : Strand) : (t.pend f t0 before).slot = t.slot := rfl
@[simp] theorem Strand.pend_role (f : Form) (t0 : Nat) (t before : Strand) : (t.pend f t0 before).role = t.role := rfl
@[simp] theorem Strand.pend_kind (f : Form) (t0 : Nat) (t before : Strand) : (t.pend f t0 before).kind = t.kind := rfl
@[simp] theorem Strand.pend_budget (f : Form) (t0 : Nat) (t before : Strand) : (t.pend f t0 before).budget = t.budget := rfl
@[simp] theorem Strand.pend_priv (f : Form) (t0 : Nat) (t before : Strand) : (t.pend f t0 before).priv = t.priv := rfl
@[simp] theorem Strand.pend_handler (f : Form) (t0 : Nat) (t before : Strand) : (t.pend f t0 before).handler = t.handler := rfl
@[simp] theorem Strand.pend_launchAt (f : Form) (t0 : Nat) (t before : Strand) : (t.pend f t0 before).launchAt = t.launchAt := rfl
@[simp] theorem Strand.pend_hints (f : Form) (t0 : Nat) (t before : Strand) : (t.pend f t0 before).hints = t.hints := rfl
@[simp] theorem Strand.pend_stall (f : Form) (t0 : Nat) (t before : Strand) : (t.pend f t0 before).stall = t.stall := rfl
@[simp] theorem Strand.pend_readyAt (f : Form) (t0 : Nat) (t before : Strand) : (t.pend f t0 before).readyAt = t.readyAt := rfl
@[simp] theorem Strand.pend_issuedAt (f : Form) (t0 : Nat) (t before : Strand) : (t.pend f t0 before).issuedAt = t.issuedAt := rfl
@[simp] theorem Strand.pend_tretMask (f : Form) (t0 : Nat) (t before : Strand) : (t.pend f t0 before).tretMask = t.tretMask := rfl
@[simp] theorem Strand.pend_wake (f : Form) (t0 : Nat) (t before : Strand) : (t.pend f t0 before).wake = t.wake := rfl
@[simp] theorem Strand.pend_wait (f : Form) (t0 : Nat) (t before : Strand) : (t.pend f t0 before).wait = t.wait := rfl
@[simp] theorem Strand.pend_reason (f : Form) (t0 : Nat) (t before : Strand) : (t.pend f t0 before).reason = t.reason := rfl
@[simp] theorem Strand.pend_memWait (f : Form) (t0 : Nat) (t before : Strand) : (t.pend f t0 before).memWait = t.memWait := rfl
@[simp] theorem Strand.pend_flight (f : Form) (t0 : Nat) (t before : Strand) : (t.pend f t0 before).flight = t.flight := rfl
@[simp] theorem Strand.pend_spin (f : Form) (t0 : Nat) (t before : Strand) : (t.pend f t0 before).spin = t.spin := rfl
@[simp] theorem Strand.pend_matched (f : Form) (t0 : Nat) (t before : Strand) : (t.pend f t0 before).matched = t.matched := rfl
@[simp] theorem Strand.pend_pcMatch (f : Form) (t0 : Nat) (t before : Strand) : (t.pend f t0 before).pcMatch = t.pcMatch := rfl
@[simp] theorem Strand.pend_fetch (f : Form) (t0 : Nat) (t before : Strand) : (t.pend f t0 before).fetch = t.fetch := rfl
@[simp] theorem Strand.pend_issuedPc (f : Form) (t0 : Nat) (t before : Strand) : (t.pend f t0 before).issuedPc = t.issuedPc := rfl
@[simp] theorem Strand.pend_lastIssue (f : Form) (t0 : Nat) (t before : Strand) : (t.pend f t0 before).lastIssue = t.lastIssue := rfl
@[simp] theorem Strand.pend_issued (f : Form) (t0 : Nat) (t before : Strand) : (t.pend f t0 before).issued = t.issued := rfl
@[simp] theorem Strand.pend_latch (f : Form) (t0 : Nat) (t before : Strand) : (t.pend f t0 before).latch = t.latch := rfl
@[simp] theorem Strand.pend_shadow (f : Form) (t0 : Nat) (t before : Strand) : (t.pend f t0 before).shadow = t.shadow := rfl
@[simp] theorem Strand.pend_peerStores (f : Form) (t0 : Nat) (t before : Strand) : (t.pend f t0 before).peerStores = t.peerStores := rfl
@[simp] theorem Strand.pend_overrun (f : Form) (t0 : Nat) (t before : Strand) : (t.pend f t0 before).overrun = t.overrun := rfl
@[simp] theorem Strand.pend_stepping (f : Form) (t0 : Nat) (t before : Strand) : (t.pend f t0 before).stepping = t.stepping := rfl
@[simp] theorem Strand.pend_stopPc (f : Form) (t0 : Nat) (t before : Strand) : (t.pend f t0 before).stopPc = t.stopPc := rfl
@[simp] theorem Strand.pend_corrupt (f : Form) (t0 : Nat) (t before : Strand) : (t.pend f t0 before).corrupt = t.corrupt := rfl

@[simp] theorem Strand.clearInstr_id (t : Strand) : (t.clearInstr).id = t.id := rfl
@[simp] theorem Strand.clearInstr_block (t : Strand) : (t.clearInstr).block = t.block := rfl
@[simp] theorem Strand.clearInstr_run (t : Strand) : (t.clearInstr).run = t.run := rfl
@[simp] theorem Strand.clearInstr_pc (t : Strand) : (t.clearInstr).pc = t.pc := rfl
@[simp] theorem Strand.clearInstr_s (t : Strand) : (t.clearInstr).s = t.s := rfl
@[simp] theorem Strand.clearInstr_v (t : Strand) : (t.clearInstr).v = t.v := rfl
@[simp] theorem Strand.clearInstr_m (t : Strand) : (t.clearInstr).m = t.m := rfl
@[simp] theorem Strand.clearInstr_stack (t : Strand) : (t.clearInstr).stack = t.stack := rfl
@[simp] theorem Strand.clearInstr_near (t : Strand) : (t.clearInstr).near = t.near := rfl
@[simp] theorem Strand.clearInstr_mx (t : Strand) : (t.clearInstr).mx = t.mx := rfl
@[simp] theorem Strand.clearInstr_cp (t : Strand) : (t.clearInstr).cp = t.cp := rfl
@[simp] theorem Strand.clearInstr_sw (t : Strand) : (t.clearInstr).sw = t.sw := rfl
@[simp] theorem Strand.clearInstr_tpc (t : Strand) : (t.clearInstr).tpc = t.tpc := rfl
@[simp] theorem Strand.clearInstr_tcause (t : Strand) : (t.clearInstr).tcause = t.tcause := rfl
@[simp] theorem Strand.clearInstr_tlanes (t : Strand) : (t.clearInstr).tlanes = t.tlanes := rfl
@[simp] theorem Strand.clearInstr_taddr (t : Strand) : (t.clearInstr).taddr = t.taddr := rfl
@[simp] theorem Strand.clearInstr_tval (t : Strand) : (t.clearInstr).tval = t.tval := rfl
@[simp] theorem Strand.clearInstr_fmt (t : Strand) : (t.clearInstr).fmt = t.fmt := rfl
@[simp] theorem Strand.clearInstr_gang (t : Strand) : (t.clearInstr).gang = t.gang := rfl
@[simp] theorem Strand.clearInstr_sowfrom (t : Strand) : (t.clearInstr).sowfrom = t.sowfrom := rfl
@[simp] theorem Strand.clearInstr_rm (t : Strand) : (t.clearInstr).rm = t.rm := rfl
@[simp] theorem Strand.clearInstr_chk (t : Strand) : (t.clearInstr).chk = t.chk := rfl
@[simp] theorem Strand.clearInstr_prot (t : Strand) : (t.clearInstr).prot = t.prot := rfl
@[simp] theorem Strand.clearInstr_tmasked (t : Strand) : (t.clearInstr).tmasked = t.tmasked := rfl
@[simp] theorem Strand.clearInstr_wid (t : Strand) : (t.clearInstr).wid = t.wid := rfl
@[simp] theorem Strand.clearInstr_slot (t : Strand) : (t.clearInstr).slot = t.slot := rfl
@[simp] theorem Strand.clearInstr_role (t : Strand) : (t.clearInstr).role = t.role := rfl
@[simp] theorem Strand.clearInstr_kind (t : Strand) : (t.clearInstr).kind = t.kind := rfl
@[simp] theorem Strand.clearInstr_budget (t : Strand) : (t.clearInstr).budget = t.budget := rfl
@[simp] theorem Strand.clearInstr_priv (t : Strand) : (t.clearInstr).priv = t.priv := rfl
@[simp] theorem Strand.clearInstr_handler (t : Strand) : (t.clearInstr).handler = t.handler := rfl
@[simp] theorem Strand.clearInstr_launchAt (t : Strand) : (t.clearInstr).launchAt = t.launchAt := rfl
@[simp] theorem Strand.clearInstr_hints (t : Strand) : (t.clearInstr).hints = t.hints := rfl
@[simp] theorem Strand.clearInstr_stall (t : Strand) : (t.clearInstr).stall = t.stall := rfl
@[simp] theorem Strand.clearInstr_pending (t : Strand) : (t.clearInstr).pending = t.pending := rfl
@[simp] theorem Strand.clearInstr_readyAt (t : Strand) : (t.clearInstr).readyAt = t.readyAt := rfl
@[simp] theorem Strand.clearInstr_issuedAt (t : Strand) : (t.clearInstr).issuedAt = t.issuedAt := rfl
@[simp] theorem Strand.clearInstr_wake (t : Strand) : (t.clearInstr).wake = t.wake := rfl
@[simp] theorem Strand.clearInstr_reason (t : Strand) : (t.clearInstr).reason = t.reason := rfl
@[simp] theorem Strand.clearInstr_spin (t : Strand) : (t.clearInstr).spin = t.spin := rfl
@[simp] theorem Strand.clearInstr_matched (t : Strand) : (t.clearInstr).matched = t.matched := rfl
@[simp] theorem Strand.clearInstr_pcMatch (t : Strand) : (t.clearInstr).pcMatch = t.pcMatch := rfl
@[simp] theorem Strand.clearInstr_fetch (t : Strand) : (t.clearInstr).fetch = t.fetch := rfl
@[simp] theorem Strand.clearInstr_issuedPc (t : Strand) : (t.clearInstr).issuedPc = t.issuedPc := rfl
@[simp] theorem Strand.clearInstr_lastIssue (t : Strand) : (t.clearInstr).lastIssue = t.lastIssue := rfl
@[simp] theorem Strand.clearInstr_shadow (t : Strand) : (t.clearInstr).shadow = t.shadow := rfl
@[simp] theorem Strand.clearInstr_peerStores (t : Strand) : (t.clearInstr).peerStores = t.peerStores := rfl
@[simp] theorem Strand.clearInstr_overrun (t : Strand) : (t.clearInstr).overrun = t.overrun := rfl
@[simp] theorem Strand.clearInstr_stepping (t : Strand) : (t.clearInstr).stepping = t.stepping := rfl
@[simp] theorem Strand.clearInstr_stopPc (t : Strand) : (t.clearInstr).stopPc = t.stopPc := rfl
@[simp] theorem Strand.clearInstr_corrupt (t : Strand) : (t.clearInstr).corrupt = t.corrupt := rfl
@[simp] theorem Strand.clearInstr_issued (t : Strand) : (t.clearInstr).issued = false := rfl
@[simp] theorem Strand.clearInstr_latch (t : Strand) : (t.clearInstr).latch = [] := rfl
@[simp] theorem Strand.clearInstr_memWait (t : Strand) : (t.clearInstr).memWait = none := rfl
@[simp] theorem Strand.clearInstr_flight (t : Strand) : (t.clearInstr).flight = none := rfl
@[simp] theorem Strand.clearInstr_wait (t : Strand) : (t.clearInstr).wait = .none := rfl
@[simp] theorem Strand.clearInstr_tretMask (t : Strand) : (t.clearInstr).tretMask = none := rfl

@[simp] theorem Strand.setTrap_id (x : Trap) (t : Strand) : (t.setTrap x).id = t.id := rfl
@[simp] theorem Strand.setTrap_block (x : Trap) (t : Strand) : (t.setTrap x).block = t.block := rfl
@[simp] theorem Strand.setTrap_run (x : Trap) (t : Strand) : (t.setTrap x).run = t.run := rfl
@[simp] theorem Strand.setTrap_pc (x : Trap) (t : Strand) : (t.setTrap x).pc = t.pc := rfl
@[simp] theorem Strand.setTrap_s (x : Trap) (t : Strand) : (t.setTrap x).s = t.s := rfl
@[simp] theorem Strand.setTrap_v (x : Trap) (t : Strand) : (t.setTrap x).v = t.v := rfl
@[simp] theorem Strand.setTrap_m (x : Trap) (t : Strand) : (t.setTrap x).m = t.m := rfl
@[simp] theorem Strand.setTrap_stack (x : Trap) (t : Strand) : (t.setTrap x).stack = t.stack := rfl
@[simp] theorem Strand.setTrap_near (x : Trap) (t : Strand) : (t.setTrap x).near = t.near := rfl
@[simp] theorem Strand.setTrap_mx (x : Trap) (t : Strand) : (t.setTrap x).mx = t.mx := rfl
@[simp] theorem Strand.setTrap_cp (x : Trap) (t : Strand) : (t.setTrap x).cp = t.cp := rfl
@[simp] theorem Strand.setTrap_sw (x : Trap) (t : Strand) : (t.setTrap x).sw = t.sw := rfl
@[simp] theorem Strand.setTrap_fmt (x : Trap) (t : Strand) : (t.setTrap x).fmt = t.fmt := rfl
@[simp] theorem Strand.setTrap_gang (x : Trap) (t : Strand) : (t.setTrap x).gang = t.gang := rfl
@[simp] theorem Strand.setTrap_sowfrom (x : Trap) (t : Strand) : (t.setTrap x).sowfrom = t.sowfrom := rfl
@[simp] theorem Strand.setTrap_rm (x : Trap) (t : Strand) : (t.setTrap x).rm = t.rm := rfl
@[simp] theorem Strand.setTrap_chk (x : Trap) (t : Strand) : (t.setTrap x).chk = t.chk := rfl
@[simp] theorem Strand.setTrap_prot (x : Trap) (t : Strand) : (t.setTrap x).prot = t.prot := rfl
@[simp] theorem Strand.setTrap_tmasked (x : Trap) (t : Strand) : (t.setTrap x).tmasked = t.tmasked := rfl
@[simp] theorem Strand.setTrap_wid (x : Trap) (t : Strand) : (t.setTrap x).wid = t.wid := rfl
@[simp] theorem Strand.setTrap_slot (x : Trap) (t : Strand) : (t.setTrap x).slot = t.slot := rfl
@[simp] theorem Strand.setTrap_role (x : Trap) (t : Strand) : (t.setTrap x).role = t.role := rfl
@[simp] theorem Strand.setTrap_kind (x : Trap) (t : Strand) : (t.setTrap x).kind = t.kind := rfl
@[simp] theorem Strand.setTrap_budget (x : Trap) (t : Strand) : (t.setTrap x).budget = t.budget := rfl
@[simp] theorem Strand.setTrap_priv (x : Trap) (t : Strand) : (t.setTrap x).priv = t.priv := rfl
@[simp] theorem Strand.setTrap_handler (x : Trap) (t : Strand) : (t.setTrap x).handler = t.handler := rfl
@[simp] theorem Strand.setTrap_launchAt (x : Trap) (t : Strand) : (t.setTrap x).launchAt = t.launchAt := rfl
@[simp] theorem Strand.setTrap_hints (x : Trap) (t : Strand) : (t.setTrap x).hints = t.hints := rfl
@[simp] theorem Strand.setTrap_stall (x : Trap) (t : Strand) : (t.setTrap x).stall = t.stall := rfl
@[simp] theorem Strand.setTrap_pending (x : Trap) (t : Strand) : (t.setTrap x).pending = t.pending := rfl
@[simp] theorem Strand.setTrap_readyAt (x : Trap) (t : Strand) : (t.setTrap x).readyAt = t.readyAt := rfl
@[simp] theorem Strand.setTrap_issuedAt (x : Trap) (t : Strand) : (t.setTrap x).issuedAt = t.issuedAt := rfl
@[simp] theorem Strand.setTrap_tretMask (x : Trap) (t : Strand) : (t.setTrap x).tretMask = t.tretMask := rfl
@[simp] theorem Strand.setTrap_wake (x : Trap) (t : Strand) : (t.setTrap x).wake = t.wake := rfl
@[simp] theorem Strand.setTrap_wait (x : Trap) (t : Strand) : (t.setTrap x).wait = t.wait := rfl
@[simp] theorem Strand.setTrap_reason (x : Trap) (t : Strand) : (t.setTrap x).reason = t.reason := rfl
@[simp] theorem Strand.setTrap_memWait (x : Trap) (t : Strand) : (t.setTrap x).memWait = t.memWait := rfl
@[simp] theorem Strand.setTrap_flight (x : Trap) (t : Strand) : (t.setTrap x).flight = t.flight := rfl
@[simp] theorem Strand.setTrap_spin (x : Trap) (t : Strand) : (t.setTrap x).spin = t.spin := rfl
@[simp] theorem Strand.setTrap_matched (x : Trap) (t : Strand) : (t.setTrap x).matched = t.matched := rfl
@[simp] theorem Strand.setTrap_pcMatch (x : Trap) (t : Strand) : (t.setTrap x).pcMatch = t.pcMatch := rfl
@[simp] theorem Strand.setTrap_fetch (x : Trap) (t : Strand) : (t.setTrap x).fetch = t.fetch := rfl
@[simp] theorem Strand.setTrap_issuedPc (x : Trap) (t : Strand) : (t.setTrap x).issuedPc = t.issuedPc := rfl
@[simp] theorem Strand.setTrap_lastIssue (x : Trap) (t : Strand) : (t.setTrap x).lastIssue = t.lastIssue := rfl
@[simp] theorem Strand.setTrap_issued (x : Trap) (t : Strand) : (t.setTrap x).issued = t.issued := rfl
@[simp] theorem Strand.setTrap_latch (x : Trap) (t : Strand) : (t.setTrap x).latch = t.latch := rfl
@[simp] theorem Strand.setTrap_shadow (x : Trap) (t : Strand) : (t.setTrap x).shadow = t.shadow := rfl
@[simp] theorem Strand.setTrap_peerStores (x : Trap) (t : Strand) : (t.setTrap x).peerStores = t.peerStores := rfl
@[simp] theorem Strand.setTrap_overrun (x : Trap) (t : Strand) : (t.setTrap x).overrun = t.overrun := rfl
@[simp] theorem Strand.setTrap_stepping (x : Trap) (t : Strand) : (t.setTrap x).stepping = t.stepping := rfl
@[simp] theorem Strand.setTrap_stopPc (x : Trap) (t : Strand) : (t.setTrap x).stopPc = t.stopPc := rfl
@[simp] theorem Strand.setTrap_corrupt (x : Trap) (t : Strand) : (t.setTrap x).corrupt = t.corrupt := rfl
@[simp] theorem Strand.setTrap_tpc (x : Trap) (t : Strand) : (t.setTrap x).tpc = x.pc t := rfl
@[simp] theorem Strand.setTrap_tcause (x : Trap) (t : Strand) : (t.setTrap x).tcause = BitVec.ofNat 8 x.cause.code := rfl
@[simp] theorem Strand.setTrap_tlanes (x : Trap) (t : Strand) : (t.setTrap x).tlanes = x.lanes &&& t.visible := rfl
@[simp] theorem Strand.setTrap_taddr (x : Trap) (t : Strand) : (t.setTrap x).taddr = x.taddr := rfl
@[simp] theorem Strand.setTrap_tval (x : Trap) (t : Strand) : (t.setTrap x).tval = x.tval := rfl

@[simp] theorem Strand.setCtrl_id (x : W64) (t : Strand) : (t.setCtrl x).id = t.id := rfl
@[simp] theorem Strand.setCtrl_block (x : W64) (t : Strand) : (t.setCtrl x).block = t.block := rfl
@[simp] theorem Strand.setCtrl_run (x : W64) (t : Strand) : (t.setCtrl x).run = t.run := rfl
@[simp] theorem Strand.setCtrl_pc (x : W64) (t : Strand) : (t.setCtrl x).pc = t.pc := rfl
@[simp] theorem Strand.setCtrl_s (x : W64) (t : Strand) : (t.setCtrl x).s = t.s := rfl
@[simp] theorem Strand.setCtrl_v (x : W64) (t : Strand) : (t.setCtrl x).v = t.v := rfl
@[simp] theorem Strand.setCtrl_m (x : W64) (t : Strand) : (t.setCtrl x).m = t.m := rfl
@[simp] theorem Strand.setCtrl_stack (x : W64) (t : Strand) : (t.setCtrl x).stack = t.stack := rfl
@[simp] theorem Strand.setCtrl_near (x : W64) (t : Strand) : (t.setCtrl x).near = t.near := rfl
@[simp] theorem Strand.setCtrl_mx (x : W64) (t : Strand) : (t.setCtrl x).mx = t.mx := rfl
@[simp] theorem Strand.setCtrl_cp (x : W64) (t : Strand) : (t.setCtrl x).cp = t.cp := rfl
@[simp] theorem Strand.setCtrl_sw (x : W64) (t : Strand) : (t.setCtrl x).sw = t.sw := rfl
@[simp] theorem Strand.setCtrl_tpc (x : W64) (t : Strand) : (t.setCtrl x).tpc = t.tpc := rfl
@[simp] theorem Strand.setCtrl_tcause (x : W64) (t : Strand) : (t.setCtrl x).tcause = t.tcause := rfl
@[simp] theorem Strand.setCtrl_tlanes (x : W64) (t : Strand) : (t.setCtrl x).tlanes = t.tlanes := rfl
@[simp] theorem Strand.setCtrl_taddr (x : W64) (t : Strand) : (t.setCtrl x).taddr = t.taddr := rfl
@[simp] theorem Strand.setCtrl_tval (x : W64) (t : Strand) : (t.setCtrl x).tval = t.tval := rfl
@[simp] theorem Strand.setCtrl_fmt (x : W64) (t : Strand) : (t.setCtrl x).fmt = t.fmt := rfl
@[simp] theorem Strand.setCtrl_gang (x : W64) (t : Strand) : (t.setCtrl x).gang = t.gang := rfl
@[simp] theorem Strand.setCtrl_sowfrom (x : W64) (t : Strand) : (t.setCtrl x).sowfrom = t.sowfrom := rfl
@[simp] theorem Strand.setCtrl_prot (x : W64) (t : Strand) : (t.setCtrl x).prot = t.prot := rfl
@[simp] theorem Strand.setCtrl_tmasked (x : W64) (t : Strand) : (t.setCtrl x).tmasked = t.tmasked := rfl
@[simp] theorem Strand.setCtrl_wid (x : W64) (t : Strand) : (t.setCtrl x).wid = t.wid := rfl
@[simp] theorem Strand.setCtrl_slot (x : W64) (t : Strand) : (t.setCtrl x).slot = t.slot := rfl
@[simp] theorem Strand.setCtrl_role (x : W64) (t : Strand) : (t.setCtrl x).role = t.role := rfl
@[simp] theorem Strand.setCtrl_kind (x : W64) (t : Strand) : (t.setCtrl x).kind = t.kind := rfl
@[simp] theorem Strand.setCtrl_budget (x : W64) (t : Strand) : (t.setCtrl x).budget = t.budget := rfl
@[simp] theorem Strand.setCtrl_priv (x : W64) (t : Strand) : (t.setCtrl x).priv = t.priv := rfl
@[simp] theorem Strand.setCtrl_handler (x : W64) (t : Strand) : (t.setCtrl x).handler = t.handler := rfl
@[simp] theorem Strand.setCtrl_launchAt (x : W64) (t : Strand) : (t.setCtrl x).launchAt = t.launchAt := rfl
@[simp] theorem Strand.setCtrl_hints (x : W64) (t : Strand) : (t.setCtrl x).hints = t.hints := rfl
@[simp] theorem Strand.setCtrl_stall (x : W64) (t : Strand) : (t.setCtrl x).stall = t.stall := rfl
@[simp] theorem Strand.setCtrl_pending (x : W64) (t : Strand) : (t.setCtrl x).pending = t.pending := rfl
@[simp] theorem Strand.setCtrl_readyAt (x : W64) (t : Strand) : (t.setCtrl x).readyAt = t.readyAt := rfl
@[simp] theorem Strand.setCtrl_issuedAt (x : W64) (t : Strand) : (t.setCtrl x).issuedAt = t.issuedAt := rfl
@[simp] theorem Strand.setCtrl_tretMask (x : W64) (t : Strand) : (t.setCtrl x).tretMask = t.tretMask := rfl
@[simp] theorem Strand.setCtrl_wake (x : W64) (t : Strand) : (t.setCtrl x).wake = t.wake := rfl
@[simp] theorem Strand.setCtrl_wait (x : W64) (t : Strand) : (t.setCtrl x).wait = t.wait := rfl
@[simp] theorem Strand.setCtrl_reason (x : W64) (t : Strand) : (t.setCtrl x).reason = t.reason := rfl
@[simp] theorem Strand.setCtrl_memWait (x : W64) (t : Strand) : (t.setCtrl x).memWait = t.memWait := rfl
@[simp] theorem Strand.setCtrl_flight (x : W64) (t : Strand) : (t.setCtrl x).flight = t.flight := rfl
@[simp] theorem Strand.setCtrl_spin (x : W64) (t : Strand) : (t.setCtrl x).spin = t.spin := rfl
@[simp] theorem Strand.setCtrl_matched (x : W64) (t : Strand) : (t.setCtrl x).matched = t.matched := rfl
@[simp] theorem Strand.setCtrl_pcMatch (x : W64) (t : Strand) : (t.setCtrl x).pcMatch = t.pcMatch := rfl
@[simp] theorem Strand.setCtrl_fetch (x : W64) (t : Strand) : (t.setCtrl x).fetch = t.fetch := rfl
@[simp] theorem Strand.setCtrl_issuedPc (x : W64) (t : Strand) : (t.setCtrl x).issuedPc = t.issuedPc := rfl
@[simp] theorem Strand.setCtrl_lastIssue (x : W64) (t : Strand) : (t.setCtrl x).lastIssue = t.lastIssue := rfl
@[simp] theorem Strand.setCtrl_issued (x : W64) (t : Strand) : (t.setCtrl x).issued = t.issued := rfl
@[simp] theorem Strand.setCtrl_latch (x : W64) (t : Strand) : (t.setCtrl x).latch = t.latch := rfl
@[simp] theorem Strand.setCtrl_shadow (x : W64) (t : Strand) : (t.setCtrl x).shadow = t.shadow := rfl
@[simp] theorem Strand.setCtrl_peerStores (x : W64) (t : Strand) : (t.setCtrl x).peerStores = t.peerStores := rfl
@[simp] theorem Strand.setCtrl_overrun (x : W64) (t : Strand) : (t.setCtrl x).overrun = t.overrun := rfl
@[simp] theorem Strand.setCtrl_stepping (x : W64) (t : Strand) : (t.setCtrl x).stepping = t.stepping := rfl
@[simp] theorem Strand.setCtrl_stopPc (x : W64) (t : Strand) : (t.setCtrl x).stopPc = t.stopPc := rfl
@[simp] theorem Strand.setCtrl_corrupt (x : W64) (t : Strand) : (t.setCtrl x).corrupt = t.corrupt := rfl

@[simp] theorem Strand.pushMask_id (e : MaskEntry) (t : Strand) : (t.pushMask e).id = t.id := rfl
@[simp] theorem Strand.pushMask_block (e : MaskEntry) (t : Strand) : (t.pushMask e).block = t.block := rfl
@[simp] theorem Strand.pushMask_run (e : MaskEntry) (t : Strand) : (t.pushMask e).run = t.run := rfl
@[simp] theorem Strand.pushMask_pc (e : MaskEntry) (t : Strand) : (t.pushMask e).pc = t.pc := rfl
@[simp] theorem Strand.pushMask_s (e : MaskEntry) (t : Strand) : (t.pushMask e).s = t.s := rfl
@[simp] theorem Strand.pushMask_v (e : MaskEntry) (t : Strand) : (t.pushMask e).v = t.v := rfl
@[simp] theorem Strand.pushMask_m (e : MaskEntry) (t : Strand) : (t.pushMask e).m = t.m := rfl
@[simp] theorem Strand.pushMask_mx (e : MaskEntry) (t : Strand) : (t.pushMask e).mx = t.mx := rfl
@[simp] theorem Strand.pushMask_cp (e : MaskEntry) (t : Strand) : (t.pushMask e).cp = t.cp := rfl
@[simp] theorem Strand.pushMask_sw (e : MaskEntry) (t : Strand) : (t.pushMask e).sw = t.sw := rfl
@[simp] theorem Strand.pushMask_tpc (e : MaskEntry) (t : Strand) : (t.pushMask e).tpc = t.tpc := rfl
@[simp] theorem Strand.pushMask_tcause (e : MaskEntry) (t : Strand) : (t.pushMask e).tcause = t.tcause := rfl
@[simp] theorem Strand.pushMask_tlanes (e : MaskEntry) (t : Strand) : (t.pushMask e).tlanes = t.tlanes := rfl
@[simp] theorem Strand.pushMask_taddr (e : MaskEntry) (t : Strand) : (t.pushMask e).taddr = t.taddr := rfl
@[simp] theorem Strand.pushMask_tval (e : MaskEntry) (t : Strand) : (t.pushMask e).tval = t.tval := rfl
@[simp] theorem Strand.pushMask_fmt (e : MaskEntry) (t : Strand) : (t.pushMask e).fmt = t.fmt := rfl
@[simp] theorem Strand.pushMask_gang (e : MaskEntry) (t : Strand) : (t.pushMask e).gang = t.gang := rfl
@[simp] theorem Strand.pushMask_sowfrom (e : MaskEntry) (t : Strand) : (t.pushMask e).sowfrom = t.sowfrom := rfl
@[simp] theorem Strand.pushMask_rm (e : MaskEntry) (t : Strand) : (t.pushMask e).rm = t.rm := rfl
@[simp] theorem Strand.pushMask_chk (e : MaskEntry) (t : Strand) : (t.pushMask e).chk = t.chk := rfl
@[simp] theorem Strand.pushMask_prot (e : MaskEntry) (t : Strand) : (t.pushMask e).prot = t.prot := rfl
@[simp] theorem Strand.pushMask_tmasked (e : MaskEntry) (t : Strand) : (t.pushMask e).tmasked = t.tmasked := rfl
@[simp] theorem Strand.pushMask_wid (e : MaskEntry) (t : Strand) : (t.pushMask e).wid = t.wid := rfl
@[simp] theorem Strand.pushMask_slot (e : MaskEntry) (t : Strand) : (t.pushMask e).slot = t.slot := rfl
@[simp] theorem Strand.pushMask_role (e : MaskEntry) (t : Strand) : (t.pushMask e).role = t.role := rfl
@[simp] theorem Strand.pushMask_kind (e : MaskEntry) (t : Strand) : (t.pushMask e).kind = t.kind := rfl
@[simp] theorem Strand.pushMask_budget (e : MaskEntry) (t : Strand) : (t.pushMask e).budget = t.budget := rfl
@[simp] theorem Strand.pushMask_priv (e : MaskEntry) (t : Strand) : (t.pushMask e).priv = t.priv := rfl
@[simp] theorem Strand.pushMask_handler (e : MaskEntry) (t : Strand) : (t.pushMask e).handler = t.handler := rfl
@[simp] theorem Strand.pushMask_launchAt (e : MaskEntry) (t : Strand) : (t.pushMask e).launchAt = t.launchAt := rfl
@[simp] theorem Strand.pushMask_hints (e : MaskEntry) (t : Strand) : (t.pushMask e).hints = t.hints := rfl
@[simp] theorem Strand.pushMask_stall (e : MaskEntry) (t : Strand) : (t.pushMask e).stall = t.stall := rfl
@[simp] theorem Strand.pushMask_pending (e : MaskEntry) (t : Strand) : (t.pushMask e).pending = t.pending := rfl
@[simp] theorem Strand.pushMask_readyAt (e : MaskEntry) (t : Strand) : (t.pushMask e).readyAt = t.readyAt := rfl
@[simp] theorem Strand.pushMask_issuedAt (e : MaskEntry) (t : Strand) : (t.pushMask e).issuedAt = t.issuedAt := rfl
@[simp] theorem Strand.pushMask_tretMask (e : MaskEntry) (t : Strand) : (t.pushMask e).tretMask = t.tretMask := rfl
@[simp] theorem Strand.pushMask_wake (e : MaskEntry) (t : Strand) : (t.pushMask e).wake = t.wake := rfl
@[simp] theorem Strand.pushMask_wait (e : MaskEntry) (t : Strand) : (t.pushMask e).wait = t.wait := rfl
@[simp] theorem Strand.pushMask_reason (e : MaskEntry) (t : Strand) : (t.pushMask e).reason = t.reason := rfl
@[simp] theorem Strand.pushMask_memWait (e : MaskEntry) (t : Strand) : (t.pushMask e).memWait = t.memWait := rfl
@[simp] theorem Strand.pushMask_flight (e : MaskEntry) (t : Strand) : (t.pushMask e).flight = t.flight := rfl
@[simp] theorem Strand.pushMask_spin (e : MaskEntry) (t : Strand) : (t.pushMask e).spin = t.spin := rfl
@[simp] theorem Strand.pushMask_matched (e : MaskEntry) (t : Strand) : (t.pushMask e).matched = t.matched := rfl
@[simp] theorem Strand.pushMask_pcMatch (e : MaskEntry) (t : Strand) : (t.pushMask e).pcMatch = t.pcMatch := rfl
@[simp] theorem Strand.pushMask_fetch (e : MaskEntry) (t : Strand) : (t.pushMask e).fetch = t.fetch := rfl
@[simp] theorem Strand.pushMask_issuedPc (e : MaskEntry) (t : Strand) : (t.pushMask e).issuedPc = t.issuedPc := rfl
@[simp] theorem Strand.pushMask_lastIssue (e : MaskEntry) (t : Strand) : (t.pushMask e).lastIssue = t.lastIssue := rfl
@[simp] theorem Strand.pushMask_issued (e : MaskEntry) (t : Strand) : (t.pushMask e).issued = t.issued := rfl
@[simp] theorem Strand.pushMask_latch (e : MaskEntry) (t : Strand) : (t.pushMask e).latch = t.latch := rfl
@[simp] theorem Strand.pushMask_shadow (e : MaskEntry) (t : Strand) : (t.pushMask e).shadow = t.shadow := rfl
@[simp] theorem Strand.pushMask_peerStores (e : MaskEntry) (t : Strand) : (t.pushMask e).peerStores = t.peerStores := rfl
@[simp] theorem Strand.pushMask_overrun (e : MaskEntry) (t : Strand) : (t.pushMask e).overrun = t.overrun := rfl
@[simp] theorem Strand.pushMask_stepping (e : MaskEntry) (t : Strand) : (t.pushMask e).stepping = t.stepping := rfl
@[simp] theorem Strand.pushMask_stopPc (e : MaskEntry) (t : Strand) : (t.pushMask e).stopPc = t.stopPc := rfl
@[simp] theorem Strand.pushMask_corrupt (e : MaskEntry) (t : Strand) : (t.pushMask e).corrupt = t.corrupt := rfl
@[simp] theorem Strand.pushMask_stack (e : MaskEntry) (t : Strand) : (t.pushMask e).stack = e :: t.stack := rfl

@[simp] theorem Strand.popMask_id (t : Strand) : (t.popMask).id = t.id := rfl
@[simp] theorem Strand.popMask_block (t : Strand) : (t.popMask).block = t.block := rfl
@[simp] theorem Strand.popMask_run (t : Strand) : (t.popMask).run = t.run := rfl
@[simp] theorem Strand.popMask_pc (t : Strand) : (t.popMask).pc = t.pc := rfl
@[simp] theorem Strand.popMask_s (t : Strand) : (t.popMask).s = t.s := rfl
@[simp] theorem Strand.popMask_v (t : Strand) : (t.popMask).v = t.v := rfl
@[simp] theorem Strand.popMask_m (t : Strand) : (t.popMask).m = t.m := rfl
@[simp] theorem Strand.popMask_mx (t : Strand) : (t.popMask).mx = t.mx := rfl
@[simp] theorem Strand.popMask_cp (t : Strand) : (t.popMask).cp = t.cp := rfl
@[simp] theorem Strand.popMask_sw (t : Strand) : (t.popMask).sw = t.sw := rfl
@[simp] theorem Strand.popMask_tpc (t : Strand) : (t.popMask).tpc = t.tpc := rfl
@[simp] theorem Strand.popMask_tcause (t : Strand) : (t.popMask).tcause = t.tcause := rfl
@[simp] theorem Strand.popMask_tlanes (t : Strand) : (t.popMask).tlanes = t.tlanes := rfl
@[simp] theorem Strand.popMask_taddr (t : Strand) : (t.popMask).taddr = t.taddr := rfl
@[simp] theorem Strand.popMask_tval (t : Strand) : (t.popMask).tval = t.tval := rfl
@[simp] theorem Strand.popMask_fmt (t : Strand) : (t.popMask).fmt = t.fmt := rfl
@[simp] theorem Strand.popMask_gang (t : Strand) : (t.popMask).gang = t.gang := rfl
@[simp] theorem Strand.popMask_sowfrom (t : Strand) : (t.popMask).sowfrom = t.sowfrom := rfl
@[simp] theorem Strand.popMask_rm (t : Strand) : (t.popMask).rm = t.rm := rfl
@[simp] theorem Strand.popMask_chk (t : Strand) : (t.popMask).chk = t.chk := rfl
@[simp] theorem Strand.popMask_prot (t : Strand) : (t.popMask).prot = t.prot := rfl
@[simp] theorem Strand.popMask_tmasked (t : Strand) : (t.popMask).tmasked = t.tmasked := rfl
@[simp] theorem Strand.popMask_wid (t : Strand) : (t.popMask).wid = t.wid := rfl
@[simp] theorem Strand.popMask_slot (t : Strand) : (t.popMask).slot = t.slot := rfl
@[simp] theorem Strand.popMask_role (t : Strand) : (t.popMask).role = t.role := rfl
@[simp] theorem Strand.popMask_kind (t : Strand) : (t.popMask).kind = t.kind := rfl
@[simp] theorem Strand.popMask_budget (t : Strand) : (t.popMask).budget = t.budget := rfl
@[simp] theorem Strand.popMask_priv (t : Strand) : (t.popMask).priv = t.priv := rfl
@[simp] theorem Strand.popMask_handler (t : Strand) : (t.popMask).handler = t.handler := rfl
@[simp] theorem Strand.popMask_launchAt (t : Strand) : (t.popMask).launchAt = t.launchAt := rfl
@[simp] theorem Strand.popMask_hints (t : Strand) : (t.popMask).hints = t.hints := rfl
@[simp] theorem Strand.popMask_stall (t : Strand) : (t.popMask).stall = t.stall := rfl
@[simp] theorem Strand.popMask_pending (t : Strand) : (t.popMask).pending = t.pending := rfl
@[simp] theorem Strand.popMask_readyAt (t : Strand) : (t.popMask).readyAt = t.readyAt := rfl
@[simp] theorem Strand.popMask_issuedAt (t : Strand) : (t.popMask).issuedAt = t.issuedAt := rfl
@[simp] theorem Strand.popMask_tretMask (t : Strand) : (t.popMask).tretMask = t.tretMask := rfl
@[simp] theorem Strand.popMask_wake (t : Strand) : (t.popMask).wake = t.wake := rfl
@[simp] theorem Strand.popMask_wait (t : Strand) : (t.popMask).wait = t.wait := rfl
@[simp] theorem Strand.popMask_reason (t : Strand) : (t.popMask).reason = t.reason := rfl
@[simp] theorem Strand.popMask_memWait (t : Strand) : (t.popMask).memWait = t.memWait := rfl
@[simp] theorem Strand.popMask_flight (t : Strand) : (t.popMask).flight = t.flight := rfl
@[simp] theorem Strand.popMask_spin (t : Strand) : (t.popMask).spin = t.spin := rfl
@[simp] theorem Strand.popMask_matched (t : Strand) : (t.popMask).matched = t.matched := rfl
@[simp] theorem Strand.popMask_pcMatch (t : Strand) : (t.popMask).pcMatch = t.pcMatch := rfl
@[simp] theorem Strand.popMask_fetch (t : Strand) : (t.popMask).fetch = t.fetch := rfl
@[simp] theorem Strand.popMask_issuedPc (t : Strand) : (t.popMask).issuedPc = t.issuedPc := rfl
@[simp] theorem Strand.popMask_lastIssue (t : Strand) : (t.popMask).lastIssue = t.lastIssue := rfl
@[simp] theorem Strand.popMask_issued (t : Strand) : (t.popMask).issued = t.issued := rfl
@[simp] theorem Strand.popMask_latch (t : Strand) : (t.popMask).latch = t.latch := rfl
@[simp] theorem Strand.popMask_shadow (t : Strand) : (t.popMask).shadow = t.shadow := rfl
@[simp] theorem Strand.popMask_peerStores (t : Strand) : (t.popMask).peerStores = t.peerStores := rfl
@[simp] theorem Strand.popMask_overrun (t : Strand) : (t.popMask).overrun = t.overrun := rfl
@[simp] theorem Strand.popMask_stepping (t : Strand) : (t.popMask).stepping = t.stepping := rfl
@[simp] theorem Strand.popMask_stopPc (t : Strand) : (t.popMask).stopPc = t.stopPc := rfl
@[simp] theorem Strand.popMask_corrupt (t : Strand) : (t.popMask).corrupt = t.corrupt := rfl
@[simp] theorem Strand.popMask_stack (t : Strand) : (t.popMask).stack = t.stack.tail := rfl

@[simp] theorem Strand.setTop_id (e : MaskEntry) (t : Strand) : (t.setTop e).id = t.id := rfl
@[simp] theorem Strand.setTop_block (e : MaskEntry) (t : Strand) : (t.setTop e).block = t.block := rfl
@[simp] theorem Strand.setTop_run (e : MaskEntry) (t : Strand) : (t.setTop e).run = t.run := rfl
@[simp] theorem Strand.setTop_pc (e : MaskEntry) (t : Strand) : (t.setTop e).pc = t.pc := rfl
@[simp] theorem Strand.setTop_s (e : MaskEntry) (t : Strand) : (t.setTop e).s = t.s := rfl
@[simp] theorem Strand.setTop_v (e : MaskEntry) (t : Strand) : (t.setTop e).v = t.v := rfl
@[simp] theorem Strand.setTop_m (e : MaskEntry) (t : Strand) : (t.setTop e).m = t.m := rfl
@[simp] theorem Strand.setTop_near (e : MaskEntry) (t : Strand) : (t.setTop e).near = t.near := rfl
@[simp] theorem Strand.setTop_mx (e : MaskEntry) (t : Strand) : (t.setTop e).mx = t.mx := rfl
@[simp] theorem Strand.setTop_cp (e : MaskEntry) (t : Strand) : (t.setTop e).cp = t.cp := rfl
@[simp] theorem Strand.setTop_sw (e : MaskEntry) (t : Strand) : (t.setTop e).sw = t.sw := rfl
@[simp] theorem Strand.setTop_tpc (e : MaskEntry) (t : Strand) : (t.setTop e).tpc = t.tpc := rfl
@[simp] theorem Strand.setTop_tcause (e : MaskEntry) (t : Strand) : (t.setTop e).tcause = t.tcause := rfl
@[simp] theorem Strand.setTop_tlanes (e : MaskEntry) (t : Strand) : (t.setTop e).tlanes = t.tlanes := rfl
@[simp] theorem Strand.setTop_taddr (e : MaskEntry) (t : Strand) : (t.setTop e).taddr = t.taddr := rfl
@[simp] theorem Strand.setTop_tval (e : MaskEntry) (t : Strand) : (t.setTop e).tval = t.tval := rfl
@[simp] theorem Strand.setTop_fmt (e : MaskEntry) (t : Strand) : (t.setTop e).fmt = t.fmt := rfl
@[simp] theorem Strand.setTop_gang (e : MaskEntry) (t : Strand) : (t.setTop e).gang = t.gang := rfl
@[simp] theorem Strand.setTop_sowfrom (e : MaskEntry) (t : Strand) : (t.setTop e).sowfrom = t.sowfrom := rfl
@[simp] theorem Strand.setTop_rm (e : MaskEntry) (t : Strand) : (t.setTop e).rm = t.rm := rfl
@[simp] theorem Strand.setTop_chk (e : MaskEntry) (t : Strand) : (t.setTop e).chk = t.chk := rfl
@[simp] theorem Strand.setTop_prot (e : MaskEntry) (t : Strand) : (t.setTop e).prot = t.prot := rfl
@[simp] theorem Strand.setTop_tmasked (e : MaskEntry) (t : Strand) : (t.setTop e).tmasked = t.tmasked := rfl
@[simp] theorem Strand.setTop_wid (e : MaskEntry) (t : Strand) : (t.setTop e).wid = t.wid := rfl
@[simp] theorem Strand.setTop_slot (e : MaskEntry) (t : Strand) : (t.setTop e).slot = t.slot := rfl
@[simp] theorem Strand.setTop_role (e : MaskEntry) (t : Strand) : (t.setTop e).role = t.role := rfl
@[simp] theorem Strand.setTop_kind (e : MaskEntry) (t : Strand) : (t.setTop e).kind = t.kind := rfl
@[simp] theorem Strand.setTop_budget (e : MaskEntry) (t : Strand) : (t.setTop e).budget = t.budget := rfl
@[simp] theorem Strand.setTop_priv (e : MaskEntry) (t : Strand) : (t.setTop e).priv = t.priv := rfl
@[simp] theorem Strand.setTop_handler (e : MaskEntry) (t : Strand) : (t.setTop e).handler = t.handler := rfl
@[simp] theorem Strand.setTop_launchAt (e : MaskEntry) (t : Strand) : (t.setTop e).launchAt = t.launchAt := rfl
@[simp] theorem Strand.setTop_hints (e : MaskEntry) (t : Strand) : (t.setTop e).hints = t.hints := rfl
@[simp] theorem Strand.setTop_stall (e : MaskEntry) (t : Strand) : (t.setTop e).stall = t.stall := rfl
@[simp] theorem Strand.setTop_pending (e : MaskEntry) (t : Strand) : (t.setTop e).pending = t.pending := rfl
@[simp] theorem Strand.setTop_readyAt (e : MaskEntry) (t : Strand) : (t.setTop e).readyAt = t.readyAt := rfl
@[simp] theorem Strand.setTop_issuedAt (e : MaskEntry) (t : Strand) : (t.setTop e).issuedAt = t.issuedAt := rfl
@[simp] theorem Strand.setTop_tretMask (e : MaskEntry) (t : Strand) : (t.setTop e).tretMask = t.tretMask := rfl
@[simp] theorem Strand.setTop_wake (e : MaskEntry) (t : Strand) : (t.setTop e).wake = t.wake := rfl
@[simp] theorem Strand.setTop_wait (e : MaskEntry) (t : Strand) : (t.setTop e).wait = t.wait := rfl
@[simp] theorem Strand.setTop_reason (e : MaskEntry) (t : Strand) : (t.setTop e).reason = t.reason := rfl
@[simp] theorem Strand.setTop_memWait (e : MaskEntry) (t : Strand) : (t.setTop e).memWait = t.memWait := rfl
@[simp] theorem Strand.setTop_flight (e : MaskEntry) (t : Strand) : (t.setTop e).flight = t.flight := rfl
@[simp] theorem Strand.setTop_spin (e : MaskEntry) (t : Strand) : (t.setTop e).spin = t.spin := rfl
@[simp] theorem Strand.setTop_matched (e : MaskEntry) (t : Strand) : (t.setTop e).matched = t.matched := rfl
@[simp] theorem Strand.setTop_pcMatch (e : MaskEntry) (t : Strand) : (t.setTop e).pcMatch = t.pcMatch := rfl
@[simp] theorem Strand.setTop_fetch (e : MaskEntry) (t : Strand) : (t.setTop e).fetch = t.fetch := rfl
@[simp] theorem Strand.setTop_issuedPc (e : MaskEntry) (t : Strand) : (t.setTop e).issuedPc = t.issuedPc := rfl
@[simp] theorem Strand.setTop_lastIssue (e : MaskEntry) (t : Strand) : (t.setTop e).lastIssue = t.lastIssue := rfl
@[simp] theorem Strand.setTop_issued (e : MaskEntry) (t : Strand) : (t.setTop e).issued = t.issued := rfl
@[simp] theorem Strand.setTop_latch (e : MaskEntry) (t : Strand) : (t.setTop e).latch = t.latch := rfl
@[simp] theorem Strand.setTop_shadow (e : MaskEntry) (t : Strand) : (t.setTop e).shadow = t.shadow := rfl
@[simp] theorem Strand.setTop_peerStores (e : MaskEntry) (t : Strand) : (t.setTop e).peerStores = t.peerStores := rfl
@[simp] theorem Strand.setTop_overrun (e : MaskEntry) (t : Strand) : (t.setTop e).overrun = t.overrun := rfl
@[simp] theorem Strand.setTop_stepping (e : MaskEntry) (t : Strand) : (t.setTop e).stepping = t.stepping := rfl
@[simp] theorem Strand.setTop_stopPc (e : MaskEntry) (t : Strand) : (t.setTop e).stopPc = t.stopPc := rfl
@[simp] theorem Strand.setTop_corrupt (e : MaskEntry) (t : Strand) : (t.setTop e).corrupt = t.corrupt := rfl
@[simp] theorem Strand.setTop_stack (e : MaskEntry) (t : Strand) : (t.setTop e).stack = e :: t.stack.tail := rfl

theorem getElem?_set! {α : Type} {n : Nat} (a : Vector α n) (r k : Nat) (x : α) :
    (⟨a.toArray.set! r x, by simp⟩ : Vector α n)[k]? = if r = k ∧ r < n then some x else a[k]? := by
  obtain ⟨a, rfl⟩ := a
  simp [Array.getElem?_setIfInBounds]
  split <;> simp_all

/-- 01 R14: a scalar register after a write: the written one holds the value, the others what they held. -/
theorem Strand.putS_get (r k : Nat) (x : W64) (t : Strand) :
    (t.putS r x).s[k]? = if r = k ∧ r < 64 then some x else t.s[k]? := getElem?_set! t.s r k x

/-- 02 R38: a vector register after a write. -/
theorem Strand.putV_get (r k : Nat) (x : Vec) (t : Strand) :
    (t.putV r x).v[k]? = if r = k ∧ r < 64 then some x else t.v[k]? := getElem?_set! t.v r k x

/-- 01 R16: a mask register after a write. -/
theorem Strand.putM_get (r k : Nat) (x : W32) (t : Strand) :
    (t.putM r x).m[k]? = if r = k ∧ r < 8 then some x else t.m[k]? := getElem?_set! t.m r k x

/-! Block updates -/

@[simp] theorem Block.writeWindow_id (off : Nat) (bs : List Byte) (b : Block) : (b.writeWindow off bs).id = b.id := rfl
@[simp] theorem Block.writeWindow_core (off : Nat) (bs : List Byte) (b : Block) : (b.writeWindow off bs).core = b.core := rfl
@[simp] theorem Block.writeWindow_index (off : Nat) (bs : List Byte) (b : Block) : (b.writeWindow off bs).index = b.index := rfl
@[simp] theorem Block.writeWindow_vd (off : Nat) (bs : List Byte) (b : Block) : (b.writeWindow off bs).vd = b.vd := rfl
@[simp] theorem Block.writeWindow_die (off : Nat) (bs : List Byte) (b : Block) : (b.writeWindow off bs).die = b.die := rfl
@[simp] theorem Block.writeWindow_launch (off : Nat) (bs : List Byte) (b : Block) : (b.writeWindow off bs).launch = b.launch := rfl
@[simp] theorem Block.writeWindow_group (off : Nat) (bs : List Byte) (b : Block) : (b.writeWindow off bs).group = b.group := rfl
@[simp] theorem Block.writeWindow_pos (off : Nat) (bs : List Byte) (b : Block) : (b.writeWindow off bs).pos = b.pos := rfl
@[simp] theorem Block.writeWindow_groupX (off : Nat) (bs : List Byte) (b : Block) : (b.writeWindow off bs).groupX = b.groupX := rfl
@[simp] theorem Block.writeWindow_groupY (off : Nat) (bs : List Byte) (b : Block) : (b.writeWindow off bs).groupY = b.groupY := rfl
@[simp] theorem Block.writeWindow_extent (off : Nat) (bs : List Byte) (b : Block) : (b.writeWindow off bs).extent = b.extent := rfl
@[simp] theorem Block.writeWindow_handler (off : Nat) (bs : List Byte) (b : Block) : (b.writeWindow off bs).handler = b.handler := rfl
@[simp] theorem Block.writeWindow_widf (off : Nat) (bs : List Byte) (b : Block) : (b.writeWindow off bs).widf = b.widf := rfl
@[simp] theorem Block.writeWindow_prot (off : Nat) (bs : List Byte) (b : Block) : (b.writeWindow off bs).prot = b.prot := rfl
@[simp] theorem Block.writeWindow_chk (off : Nat) (bs : List Byte) (b : Block) : (b.writeWindow off bs).chk = b.chk := rfl
@[simp] theorem Block.writeWindow_relaunch (off : Nat) (bs : List Byte) (b : Block) : (b.writeWindow off bs).relaunch = b.relaunch := rfl
@[simp] theorem Block.writeWindow_sampleOn (off : Nat) (bs : List Byte) (b : Block) : (b.writeWindow off bs).sampleOn = b.sampleOn := rfl
@[simp] theorem Block.writeWindow_eventOn (off : Nat) (bs : List Byte) (b : Block) : (b.writeWindow off bs).eventOn = b.eventOn := rfl
@[simp] theorem Block.writeWindow_timeout (off : Nat) (bs : List Byte) (b : Block) : (b.writeWindow off bs).timeout = b.timeout := rfl
@[simp] theorem Block.writeWindow_priority (off : Nat) (bs : List Byte) (b : Block) : (b.writeWindow off bs).priority = b.priority := rfl
@[simp] theorem Block.writeWindow_hasNode (off : Nat) (bs : List Byte) (b : Block) : (b.writeWindow off bs).hasNode = b.hasNode := rfl
@[simp] theorem Block.writeWindow_launchAt (off : Nat) (bs : List Byte) (b : Block) : (b.writeWindow off bs).launchAt = b.launchAt := rfl
@[simp] theorem Block.writeWindow_windowSize (off : Nat) (bs : List Byte) (b : Block) : (b.writeWindow off bs).windowSize = b.windowSize := rfl
@[simp] theorem Block.writeWindow_tiles (off : Nat) (bs : List Byte) (b : Block) : (b.writeWindow off bs).tiles = b.tiles := rfl
@[simp] theorem Block.writeWindow_planes (off : Nat) (bs : List Byte) (b : Block) : (b.writeWindow off bs).planes = b.planes := rfl
@[simp] theorem Block.writeWindow_trays (off : Nat) (bs : List Byte) (b : Block) : (b.writeWindow off bs).trays = b.trays := rfl
@[simp] theorem Block.writeWindow_channels (off : Nat) (bs : List Byte) (b : Block) : (b.writeWindow off bs).channels = b.channels := rfl
@[simp] theorem Block.writeWindow_barriers (off : Nat) (bs : List Byte) (b : Block) : (b.writeWindow off bs).barriers = b.barriers := rfl
@[simp] theorem Block.writeWindow_latch (off : Nat) (bs : List Byte) (b : Block) : (b.writeWindow off bs).latch = b.latch := rfl
@[simp] theorem Block.writeWindow_offers (off : Nat) (bs : List Byte) (b : Block) : (b.writeWindow off bs).offers = b.offers := rfl
@[simp] theorem Block.writeWindow_phase (off : Nat) (bs : List Byte) (b : Block) : (b.writeWindow off bs).phase = b.phase := rfl
@[simp] theorem Block.writeWindow_held (off : Nat) (bs : List Byte) (b : Block) : (b.writeWindow off bs).held = b.held := rfl
@[simp] theorem Block.writeWindow_debug (off : Nat) (bs : List Byte) (b : Block) : (b.writeWindow off bs).debug = b.debug := rfl
@[simp] theorem Block.writeWindow_failed (off : Nat) (bs : List Byte) (b : Block) : (b.writeWindow off bs).failed = b.failed := rfl
@[simp] theorem Block.writeWindow_nfault (off : Nat) (bs : List Byte) (b : Block) : (b.writeWindow off bs).nfault = b.nfault := rfl
@[simp] theorem Block.writeWindow_firstPlace (off : Nat) (bs : List Byte) (b : Block) : (b.writeWindow off bs).firstPlace = b.firstPlace := rfl
@[simp] theorem Block.writeWindow_stopAt (off : Nat) (bs : List Byte) (b : Block) : (b.writeWindow off bs).stopAt = b.stopAt := rfl
@[simp] theorem Block.writeWindow_frozenAt (off : Nat) (bs : List Byte) (b : Block) : (b.writeWindow off bs).frozenAt = b.frozenAt := rfl
@[simp] theorem Block.writeWindow_rounds (off : Nat) (bs : List Byte) (b : Block) : (b.writeWindow off bs).rounds = b.rounds := rfl

@[simp] theorem updChan_id (b : Block) (c : Nat) (f : Channel → Channel) : (updChan b c f).id = b.id := rfl
@[simp] theorem updChan_core (b : Block) (c : Nat) (f : Channel → Channel) : (updChan b c f).core = b.core := rfl
@[simp] theorem updChan_index (b : Block) (c : Nat) (f : Channel → Channel) : (updChan b c f).index = b.index := rfl
@[simp] theorem updChan_vd (b : Block) (c : Nat) (f : Channel → Channel) : (updChan b c f).vd = b.vd := rfl
@[simp] theorem updChan_die (b : Block) (c : Nat) (f : Channel → Channel) : (updChan b c f).die = b.die := rfl
@[simp] theorem updChan_launch (b : Block) (c : Nat) (f : Channel → Channel) : (updChan b c f).launch = b.launch := rfl
@[simp] theorem updChan_group (b : Block) (c : Nat) (f : Channel → Channel) : (updChan b c f).group = b.group := rfl
@[simp] theorem updChan_pos (b : Block) (c : Nat) (f : Channel → Channel) : (updChan b c f).pos = b.pos := rfl
@[simp] theorem updChan_groupX (b : Block) (c : Nat) (f : Channel → Channel) : (updChan b c f).groupX = b.groupX := rfl
@[simp] theorem updChan_groupY (b : Block) (c : Nat) (f : Channel → Channel) : (updChan b c f).groupY = b.groupY := rfl
@[simp] theorem updChan_extent (b : Block) (c : Nat) (f : Channel → Channel) : (updChan b c f).extent = b.extent := rfl
@[simp] theorem updChan_handler (b : Block) (c : Nat) (f : Channel → Channel) : (updChan b c f).handler = b.handler := rfl
@[simp] theorem updChan_widf (b : Block) (c : Nat) (f : Channel → Channel) : (updChan b c f).widf = b.widf := rfl
@[simp] theorem updChan_prot (b : Block) (c : Nat) (f : Channel → Channel) : (updChan b c f).prot = b.prot := rfl
@[simp] theorem updChan_chk (b : Block) (c : Nat) (f : Channel → Channel) : (updChan b c f).chk = b.chk := rfl
@[simp] theorem updChan_relaunch (b : Block) (c : Nat) (f : Channel → Channel) : (updChan b c f).relaunch = b.relaunch := rfl
@[simp] theorem updChan_sampleOn (b : Block) (c : Nat) (f : Channel → Channel) : (updChan b c f).sampleOn = b.sampleOn := rfl
@[simp] theorem updChan_eventOn (b : Block) (c : Nat) (f : Channel → Channel) : (updChan b c f).eventOn = b.eventOn := rfl
@[simp] theorem updChan_timeout (b : Block) (c : Nat) (f : Channel → Channel) : (updChan b c f).timeout = b.timeout := rfl
@[simp] theorem updChan_priority (b : Block) (c : Nat) (f : Channel → Channel) : (updChan b c f).priority = b.priority := rfl
@[simp] theorem updChan_hasNode (b : Block) (c : Nat) (f : Channel → Channel) : (updChan b c f).hasNode = b.hasNode := rfl
@[simp] theorem updChan_launchAt (b : Block) (c : Nat) (f : Channel → Channel) : (updChan b c f).launchAt = b.launchAt := rfl
@[simp] theorem updChan_windowSize (b : Block) (c : Nat) (f : Channel → Channel) : (updChan b c f).windowSize = b.windowSize := rfl
@[simp] theorem updChan_window (b : Block) (c : Nat) (f : Channel → Channel) : (updChan b c f).window = b.window := rfl
@[simp] theorem updChan_tiles (b : Block) (c : Nat) (f : Channel → Channel) : (updChan b c f).tiles = b.tiles := rfl
@[simp] theorem updChan_planes (b : Block) (c : Nat) (f : Channel → Channel) : (updChan b c f).planes = b.planes := rfl
@[simp] theorem updChan_trays (b : Block) (c : Nat) (f : Channel → Channel) : (updChan b c f).trays = b.trays := rfl
@[simp] theorem updChan_barriers (b : Block) (c : Nat) (f : Channel → Channel) : (updChan b c f).barriers = b.barriers := rfl
@[simp] theorem updChan_latch (b : Block) (c : Nat) (f : Channel → Channel) : (updChan b c f).latch = b.latch := rfl
@[simp] theorem updChan_offers (b : Block) (c : Nat) (f : Channel → Channel) : (updChan b c f).offers = b.offers := rfl
@[simp] theorem updChan_phase (b : Block) (c : Nat) (f : Channel → Channel) : (updChan b c f).phase = b.phase := rfl
@[simp] theorem updChan_held (b : Block) (c : Nat) (f : Channel → Channel) : (updChan b c f).held = b.held := rfl
@[simp] theorem updChan_debug (b : Block) (c : Nat) (f : Channel → Channel) : (updChan b c f).debug = b.debug := rfl
@[simp] theorem updChan_failed (b : Block) (c : Nat) (f : Channel → Channel) : (updChan b c f).failed = b.failed := rfl
@[simp] theorem updChan_nfault (b : Block) (c : Nat) (f : Channel → Channel) : (updChan b c f).nfault = b.nfault := rfl
@[simp] theorem updChan_firstPlace (b : Block) (c : Nat) (f : Channel → Channel) : (updChan b c f).firstPlace = b.firstPlace := rfl
@[simp] theorem updChan_stopAt (b : Block) (c : Nat) (f : Channel → Channel) : (updChan b c f).stopAt = b.stopAt := rfl
@[simp] theorem updChan_frozenAt (b : Block) (c : Nat) (f : Channel → Channel) : (updChan b c f).frozenAt = b.frozenAt := rfl
@[simp] theorem updChan_corrupt (b : Block) (c : Nat) (f : Channel → Channel) : (updChan b c f).corrupt = b.corrupt := rfl
@[simp] theorem updChan_rounds (b : Block) (c : Nat) (f : Channel → Channel) : (updChan b c f).rounds = b.rounds := rfl

@[simp] theorem updTray_id (b : Block) (c : Nat) (f : Tray → Tray) : (updTray b c f).id = b.id := rfl
@[simp] theorem updTray_core (b : Block) (c : Nat) (f : Tray → Tray) : (updTray b c f).core = b.core := rfl
@[simp] theorem updTray_index (b : Block) (c : Nat) (f : Tray → Tray) : (updTray b c f).index = b.index := rfl
@[simp] theorem updTray_vd (b : Block) (c : Nat) (f : Tray → Tray) : (updTray b c f).vd = b.vd := rfl
@[simp] theorem updTray_die (b : Block) (c : Nat) (f : Tray → Tray) : (updTray b c f).die = b.die := rfl
@[simp] theorem updTray_launch (b : Block) (c : Nat) (f : Tray → Tray) : (updTray b c f).launch = b.launch := rfl
@[simp] theorem updTray_group (b : Block) (c : Nat) (f : Tray → Tray) : (updTray b c f).group = b.group := rfl
@[simp] theorem updTray_pos (b : Block) (c : Nat) (f : Tray → Tray) : (updTray b c f).pos = b.pos := rfl
@[simp] theorem updTray_groupX (b : Block) (c : Nat) (f : Tray → Tray) : (updTray b c f).groupX = b.groupX := rfl
@[simp] theorem updTray_groupY (b : Block) (c : Nat) (f : Tray → Tray) : (updTray b c f).groupY = b.groupY := rfl
@[simp] theorem updTray_extent (b : Block) (c : Nat) (f : Tray → Tray) : (updTray b c f).extent = b.extent := rfl
@[simp] theorem updTray_handler (b : Block) (c : Nat) (f : Tray → Tray) : (updTray b c f).handler = b.handler := rfl
@[simp] theorem updTray_widf (b : Block) (c : Nat) (f : Tray → Tray) : (updTray b c f).widf = b.widf := rfl
@[simp] theorem updTray_prot (b : Block) (c : Nat) (f : Tray → Tray) : (updTray b c f).prot = b.prot := rfl
@[simp] theorem updTray_chk (b : Block) (c : Nat) (f : Tray → Tray) : (updTray b c f).chk = b.chk := rfl
@[simp] theorem updTray_relaunch (b : Block) (c : Nat) (f : Tray → Tray) : (updTray b c f).relaunch = b.relaunch := rfl
@[simp] theorem updTray_sampleOn (b : Block) (c : Nat) (f : Tray → Tray) : (updTray b c f).sampleOn = b.sampleOn := rfl
@[simp] theorem updTray_eventOn (b : Block) (c : Nat) (f : Tray → Tray) : (updTray b c f).eventOn = b.eventOn := rfl
@[simp] theorem updTray_timeout (b : Block) (c : Nat) (f : Tray → Tray) : (updTray b c f).timeout = b.timeout := rfl
@[simp] theorem updTray_priority (b : Block) (c : Nat) (f : Tray → Tray) : (updTray b c f).priority = b.priority := rfl
@[simp] theorem updTray_hasNode (b : Block) (c : Nat) (f : Tray → Tray) : (updTray b c f).hasNode = b.hasNode := rfl
@[simp] theorem updTray_launchAt (b : Block) (c : Nat) (f : Tray → Tray) : (updTray b c f).launchAt = b.launchAt := rfl
@[simp] theorem updTray_windowSize (b : Block) (c : Nat) (f : Tray → Tray) : (updTray b c f).windowSize = b.windowSize := rfl
@[simp] theorem updTray_window (b : Block) (c : Nat) (f : Tray → Tray) : (updTray b c f).window = b.window := rfl
@[simp] theorem updTray_tiles (b : Block) (c : Nat) (f : Tray → Tray) : (updTray b c f).tiles = b.tiles := rfl
@[simp] theorem updTray_planes (b : Block) (c : Nat) (f : Tray → Tray) : (updTray b c f).planes = b.planes := rfl
@[simp] theorem updTray_channels (b : Block) (c : Nat) (f : Tray → Tray) : (updTray b c f).channels = b.channels := rfl
@[simp] theorem updTray_barriers (b : Block) (c : Nat) (f : Tray → Tray) : (updTray b c f).barriers = b.barriers := rfl
@[simp] theorem updTray_latch (b : Block) (c : Nat) (f : Tray → Tray) : (updTray b c f).latch = b.latch := rfl
@[simp] theorem updTray_offers (b : Block) (c : Nat) (f : Tray → Tray) : (updTray b c f).offers = b.offers := rfl
@[simp] theorem updTray_phase (b : Block) (c : Nat) (f : Tray → Tray) : (updTray b c f).phase = b.phase := rfl
@[simp] theorem updTray_held (b : Block) (c : Nat) (f : Tray → Tray) : (updTray b c f).held = b.held := rfl
@[simp] theorem updTray_debug (b : Block) (c : Nat) (f : Tray → Tray) : (updTray b c f).debug = b.debug := rfl
@[simp] theorem updTray_failed (b : Block) (c : Nat) (f : Tray → Tray) : (updTray b c f).failed = b.failed := rfl
@[simp] theorem updTray_nfault (b : Block) (c : Nat) (f : Tray → Tray) : (updTray b c f).nfault = b.nfault := rfl
@[simp] theorem updTray_firstPlace (b : Block) (c : Nat) (f : Tray → Tray) : (updTray b c f).firstPlace = b.firstPlace := rfl
@[simp] theorem updTray_stopAt (b : Block) (c : Nat) (f : Tray → Tray) : (updTray b c f).stopAt = b.stopAt := rfl
@[simp] theorem updTray_frozenAt (b : Block) (c : Nat) (f : Tray → Tray) : (updTray b c f).frozenAt = b.frozenAt := rfl
@[simp] theorem updTray_corrupt (b : Block) (c : Nat) (f : Tray → Tray) : (updTray b c f).corrupt = b.corrupt := rfl
@[simp] theorem updTray_rounds (b : Block) (c : Nat) (f : Tray → Tray) : (updTray b c f).rounds = b.rounds := rfl

end Sys2Proof.Machine
end

