-- ==== Sys2Proof/Laws/Issue.lean ====
section
/-!
SUPPORT. Sys2Proof/Laws/Issue.lean: what the issue of a word does (01 R24 to R33), said once: the verdict on a word that is
allowed, the state at issue, how it reads, and the state after a word that completes.
-/

namespace Sys2Proof.Machine

/-! ## State without clocks -/

@[simp] theorem VDev.timeless_timeless (v : VDev) : v.timeless.timeless = v.timeless := rfl

@[simp] theorem Core.timeless_timeless (c : Core) : c.timeless.timeless = c.timeless := rfl

@[simp] theorem State.timeless_timeless (s : State) : s.timeless.timeless = s.timeless := by
  simp [State.timeless, Strand.timeless, Function.comp_def]

theorem State.timeless_mapMe (f : Strand → Strand) (s : State) (h : ∀ t, (f t).timeless = (f t.timeless).timeless) :
    (s.mapMe f).timeless = (s.timeless.mapMe f).timeless := by
  simp only [State.timeless, State.mapMe, h s.me]
  simp [Function.comp_def]

theorem State.timeless_count (vd ev n priv : Nat) (s : State) : (s.count vd ev n priv).timeless = s.timeless := by
  simp only [State.count, State.mapVd, State.timeless, updIf, List.map_map]
  congr 1
  apply List.map_congr_left
  intro v _
  simp only [Function.comp]
  split
  · simp only [VDev.timeless, Measure.add]
    split <;> rfl
  · rfl

theorem State.timeless_countWord (v : Bool) (s : State) : (s.countWord v).timeless = s.timeless := by
  simp only [State.countWord]
  split <;> simp only [State.timeless_count]

theorem State.timeless_countIssue (f : Form) (s : State) : (s.countIssue f).timeless = s.timeless := by
  unfold State.countIssue
  split
  · rfl
  · exact State.timeless_countWord _ s

theorem State.writeGraftLog_nil (s : State) (h : s.graftLog = []) : s.writeGraftLog = s := by
  unfold State.writeGraftLog
  rw [h]; simp only [List.foldl_nil]
  cases s; simp_all

theorem State.timeless_mapBlk (f : Block → Block) (s : State) : (s.mapBlk f).timeless = s.timeless.mapBlk f := rfl

@[simp] theorem State.timeless_blk (s : State) : s.timeless.blk = s.blk := rfl
@[simp] theorem State.timeless_core (s : State) : s.timeless.core = s.core.timeless := rfl
@[simp] theorem State.timeless_me (s : State) : s.timeless.me = s.me.timeless := rfl

/-! ## A word that is allowed -/

/-- What 01 R33 asks of a word, its strand being ready. -/
structure Allowed (f : Form) (s : State) : Prop where
  ok      : f.ok = true
  prot    : s.me.prot = true → f.okProt = true
  level   : f.level ≤ s.me.priv
  names   : f.use.namesOk s.me.budget = true
  units   : f.units = true
  ported  : s.me.priv = 0 → f.use.namesPort = false
  heads   : ∀ p ∈ f.use.popPorts, (s.portHead p).isSome = true
  room    : ∀ p ∈ f.use.pushPorts, s.portRoom p = true
  chans   : s.chanCheck f.use = (none, false)

theorem readyTime_nil (t : Strand) (names : List RegName) (all : Bool) (t0 : Nat) (h : t.pending = []) : readyTime t names all t0 = t0 := by
  simp [readyTime, h]

theorem issueTime_ready (f : Form) (s : State) (h : Ready s) : issueTime f s = s.now := by
  have hp := h.settled; have hd := h.due; have hs := h.spaced
  unfold issueTime
  simp only [readyTime_nil _ _ _ _ hp, allFixedTime, hp, List.foldl_nil]
  have hb : Nat.max s.now s.me.readyAt = s.now := Nat.max_eq_left hd
  rw [hb]
  split
  · have : s.me.issuedAt + f.count s.me * acTicks ≤ s.now := by simp only [acTicks] at *; omega
    exact Nat.max_eq_left this
  · split <;> rfl

theorem stillPending_nil (f : Form) (n : Nat) (x : Strand) (h : x.pending = []) : stillPending f n x = none := by
  simp only [stillPending, h, List.any_nil]
  exact List.find?_eq_none.2 (by simp)

/-- 01 R33: a word that is allowed goes. -/
theorem verdict_go (f : Form) (s : State) (h : Ready s) (a : Allowed f s) : verdict f s = .go := by
  have h1 : ¬ (s.me.run ≠ .running) := by simp [h.running]
  have h2 : ¬ (f.ok = false ∨ (s.me.prot = true ∧ f.okProt = false)) := by
    rintro (e | ⟨e, e'⟩)
    · simp [a.ok] at e
    · simp [a.prot e] at e'
  have h3 : ¬ (s.me.priv < f.level ∨ (s.me.priv = 0 ∧ f.use.namesPort = true)) := by
    rintro (e | ⟨e, e'⟩)
    · have := a.level; omega
    · simp [a.ported e] at e'
  have h4 : (f.use.popPorts.any (fun p => (s.portHead p).isNone) || f.use.pushPorts.any (fun p => !s.portRoom p)) = false := by
    simp only [Bool.or_eq_false_iff, List.any_eq_false]
    constructor
    · intro p hp; have := a.heads p hp; simp [Option.isSome_iff_ne_none] at this; simp [this]
    · intro p hp; simp [a.room p hp]
  unfold verdict
  simp only [Bool.not_eq_true] at *
  rw [if_neg h1, if_neg (by simp [h.fresh]), if_neg h2, if_neg h3, if_neg (by simp [a.names, a.units])]
  simp only [a.chans, h4, stillPending_nil _ _ _ h.settled, ite_self]
  simp

/-- The state at the issue of a word. -/
def begun (f : Form) (s : State) : State :=
  let p := f.use.popPorts.foldl (fun s q => s.portPop q) s
  { p with me := { p.me with
      latch := f.use.popPorts.map (fun q => (RegName.scalar q, OldValue.scalar ((s.portHead q).getD 0)))
        ++ f.use.readChans.map (fun c =>
          (RegName.channel c, OldValue.vector (((s.blk.channels[c]?).bind (·.entries.head?)).getD (Vec.splat 0)))),
      reason := 0, issuedPc := p.me.pc, lastIssue := s.now,
      issuedAt := if f.hint then p.me.issuedAt else s.now } }

theorem portPop_now (p : Nat) (s : State) : (s.portPop p).now = s.now := by
  unfold State.portPop; (repeat' split) <;> simp
theorem portPop_me (p : Nat) (s : State) : (s.portPop p).me = s.me := by
  unfold State.portPop; (repeat' split) <;> simp
theorem portPop_blk (p : Nat) (s : State) : (s.portPop p).blk = s.blk := by
  unfold State.portPop; (repeat' split) <;> simp
theorem portPop_core (p : Nat) (s : State) : (s.portPop p).core = s.core := by
  unfold State.portPop; (repeat' split) <;> simp
theorem portPop_graftLog (p : Nat) (s : State) : (s.portPop p).graftLog = s.graftLog := by
  unfold State.portPop; (repeat' split) <;> simp
theorem portPop_free (p : Nat) (s : State) : (s.portPop p).free = s.free := by
  unfold State.portPop; (repeat' split) <;> simp
theorem portPop_dram (p : Nat) (s : State) : (s.portPop p).dram = s.dram := by
  unfold State.portPop; (repeat' split) <;> simp
theorem portPop_slices (p : Nat) (s : State) : (s.portPop p).slices = s.slices := by
  unfold State.portPop; (repeat' split) <;> simp

@[simp] theorem popped_now (rs : List (BitVec 6)) (s : State) : (s.popped rs).now = s.now := foldl_keeps (·.now) _ (fun s p => portPop_now p s) _ s
@[simp] theorem popped_me (rs : List (BitVec 6)) (s : State) : (s.popped rs).me = s.me := foldl_keeps (·.me) _ (fun s p => portPop_me p s) _ s
@[simp] theorem popped_blk (rs : List (BitVec 6)) (s : State) : (s.popped rs).blk = s.blk := foldl_keeps (·.blk) _ (fun s p => portPop_blk p s) _ s
@[simp] theorem popped_core (rs : List (BitVec 6)) (s : State) : (s.popped rs).core = s.core := foldl_keeps (·.core) _ (fun s p => portPop_core p s) _ s
@[simp] theorem popped_graftLog (rs : List (BitVec 6)) (s : State) : (s.popped rs).graftLog = s.graftLog := foldl_keeps (·.graftLog) _ (fun s p => portPop_graftLog p s) _ s
@[simp] theorem popped_free (rs : List (BitVec 6)) (s : State) : (s.popped rs).free = s.free := foldl_keeps (·.free) _ (fun s p => portPop_free p s) _ s
@[simp] theorem popped_dram (rs : List (BitVec 6)) (s : State) : (s.popped rs).dram = s.dram := foldl_keeps (·.dram) _ (fun s p => portPop_dram p s) _ s
@[simp] theorem popped_slices (rs : List (BitVec 6)) (s : State) : (s.popped rs).slices = s.slices := foldl_keeps (·.slices) _ (fun s p => portPop_slices p s) _ s

/-- 01 R14: a word without ports among its sources pops nothing. -/
theorem popped_plain (rs : List (BitVec 6)) (s : State) (h : ∀ r ∈ rs, isPort r = false) : s.popped rs = s := by
  have : rs.filter isPort = [] := by simpa using h
  simp [State.popped, Use.popPorts, this]

theorem popPorts_sr (u : Use) : u.popPorts = Use.popPorts { sr := u.sr } := rfl

theorem begun_eq (f : Form) (s : State) : begun f s = { s.popped f.use.sr with me := (begun f s).me } := rfl

@[simp] theorem begun_now (f : Form) (s : State) : (begun f s).now = s.now := popped_now f.use.sr s
@[simp] theorem begun_blk (f : Form) (s : State) : (begun f s).blk = s.blk := popped_blk f.use.sr s
@[simp] theorem begun_core (f : Form) (s : State) : (begun f s).core = s.core := popped_core f.use.sr s
@[simp] theorem begun_graftLog (f : Form) (s : State) : (begun f s).graftLog = s.graftLog := popped_graftLog f.use.sr s
@[simp] theorem begun_free (f : Form) (s : State) : (begun f s).free = s.free := popped_free f.use.sr s
@[simp] theorem begun_dram (f : Form) (s : State) : (begun f s).dram = s.dram := popped_dram f.use.sr s
@[simp] theorem begun_slices (f : Form) (s : State) : (begun f s).slices = s.slices := popped_slices f.use.sr s

theorem begun_me (f : Form) (s : State) : (begun f s).me = { s.me with
      latch := f.use.popPorts.map (fun q => (RegName.scalar q, OldValue.scalar ((s.portHead q).getD 0)))
        ++ f.use.readChans.map (fun c =>
          (RegName.channel c, OldValue.vector (((s.blk.channels[c]?).bind (·.entries.head?)).getD (Vec.splat 0)))),
      reason := 0, issuedPc := s.me.pc, lastIssue := s.now,
      issuedAt := if f.hint then s.me.issuedAt else s.now } := by
  have h : (f.use.popPorts.foldl (fun s q => s.portPop q) s).me = s.me := popped_me f.use.sr s
  simp only [begun, h]

theorem begun_timeless (f : Form) (s : State) : (begun f s).timeless = (s.popped f.use.sr).timeless := by
  rw [begun_eq, begun_me]
  simp only [State.timeless, Strand.timeless, popped_me]

theorem begin_ready (f : Form) (s : State) (h : Ready s) : s.begin f = begun f s := by
  have ht := issueTime_ready f s h
  have hst : staleReads f s.now s = [] := by simp [staleReads, h.settled]
  have hp : (f.use.popPorts.foldl (fun s p => s.portPop p) s).now = s.now := popped_now f.use.sr s
  unfold State.begin begun
  rw [if_neg (by simp [h.fresh])]
  simp only [ht, hst, ite_self, List.append_nil, List.length_nil, Nat.mul_zero, Nat.add_zero]
  rw [State.advance_of_le _ _ (by rw [hp])]

/-- 01 R33: what the issue of an allowed word answers. -/
theorem issue_ready (f : Form) (eff : State → Result) (s : State) (h : Ready s) (a : Allowed f s) :
    issue f eff s = .next (finish f (begun f s)
      (if f.vector ∧ (begun f s).active = 0 then f.emptyMask (begun f s) else eff (begun f s))).writeGraftLog := by
  have he : s.early f = false := by simp [State.early, issueTime_ready f s h]
  have hc : s.readsCorrupt f = false := by simp [State.readsCorrupt, h.whole]
  unfold issue
  rw [verdict_go f s h a, begin_ready f s h, he, hc]
  rfl

/-! ## Reading at issue -/

theorem find_map_none {α : Type} (l : List α) (k : α → RegName) (v : α → OldValue) (r : RegName) (h : ∀ x ∈ l, k x ≠ r) :
    (l.map (fun x => (k x, v x))).find? (fun e => decide (e.1 = r)) = none := by
  induction l with
  | nil => rfl
  | cons x l ih =>
    have := h x (by simp)
    simp only [List.map_cons, List.find?_cons, this, decide_false]
    exact ih (fun y hy => h y (by simp [hy]))

theorem find_map_some {α : Type} (l : List α) (k : α → RegName) (v : α → OldValue) (x : α) (hx : x ∈ l)
    (inj : ∀ y ∈ l, k y = k x → y = x) :
    (l.map (fun x => (k x, v x))).find? (fun e => decide (e.1 = k x)) = some (k x, v x) := by
  induction l with
  | nil => simp at hx
  | cons y l ih =>
    simp only [List.map_cons, List.find?_cons]
    by_cases e : k y = k x
    · have := inj y (by simp) e
      subst this; simp
    · simp only [e, decide_false]
      have : x ∈ l := by
        rcases List.mem_cons.1 hx with rfl | h
        · simp at e
        · exact h
      exact ih this (fun z hz => inj z (by simp [hz]))

theorem mem_setInsert (l : List Nat) (a x : Nat) : x ∈ setInsert l a ↔ x = a ∨ x ∈ l := by
  induction l with
  | nil => simp [setInsert]
  | cons y l ih =>
    simp only [setInsert]
    split
    · simp
    · split
      · rename_i _ e; subst e; simp
      · simp [ih]; tauto

theorem mem_foldl_setInsert {α : Type} (l : List α) (k : α → Nat) (acc : List Nat) (x : Nat) :
    x ∈ l.foldl (fun m r => setInsert m (k r)) acc ↔ x ∈ acc ∨ ∃ r ∈ l, k r = x := by
  induction l generalizing acc with
  | nil => simp
  | cons y l ih =>
    simp only [List.foldl_cons, ih, mem_setInsert, List.mem_cons, exists_eq_or_imp]
    constructor
    · rintro ((rfl | h) | h)
      · exact .inr (.inl rfl)
      · exact .inl h
      · exact .inr (.inr h)
    · rintro (h | rfl | h)
      · exact .inl (.inr h)
      · exact .inl (.inl rfl)
      · exact .inr h

theorem mem_popPorts (u : Use) (p : Nat) : p ∈ u.popPorts ↔ ∃ r ∈ u.sr, isPort r = true ∧ r.toNat = p := by
  simp only [Use.popPorts, mem_foldl_setInsert, List.mem_filter]
  constructor
  · rintro (h | ⟨r, ⟨h1, h2⟩, h3⟩)
    · simp at h
    · exact ⟨r, h1, h2, h3⟩
  · rintro ⟨r, h1, h2, h3⟩
    exact .inr ⟨r, ⟨h1, h2⟩, h3⟩

theorem mem_pushPorts (u : Use) (p : Nat) : p ∈ u.pushPorts ↔ ∃ r ∈ u.sw, isPort r = true ∧ r.toNat = p := by
  simp only [Use.pushPorts, mem_foldl_setInsert, List.mem_filter]
  constructor
  · rintro (h | ⟨r, ⟨h1, h2⟩, h3⟩)
    · simp at h
    · exact ⟨r, h1, h2, h3⟩
  · rintro ⟨r, h1, h2, h3⟩
    exact .inr ⟨r, ⟨h1, h2⟩, h3⟩

theorem isPort_iff (r : BitVec 6) : isPort r = true ↔ 56 ≤ r.toNat ∧ r.toNat < 60 := by simp [isPort]

theorem latched_begun_plain (f : Form) (s : State) (n : Nat) (hn : n < 56) : latched (begun f s).me.latch (.scalar n) = none := by
  rw [begun_me]
  simp only [latched, List.find?_append]
  rw [find_map_none, find_map_none]
  · rfl
  · intro c _; simp
  · intro q hq
    obtain ⟨r, -, h2, h3⟩ := (mem_popPorts _ _).1 hq
    rw [isPort_iff] at h2
    simp; omega

theorem latched_begun_port (f : Form) (s : State) (p : Nat) (hp : p ∈ f.use.popPorts) :
    latched (begun f s).me.latch (.scalar p) = some (.scalar ((s.portHead p).getD 0)) := by
  rw [begun_me]
  simp only [latched, List.find?_append]
  rw [find_map_some _ _ _ p hp (by simp)]
  rfl

/-- 01 R14: the value that a word reads from a scalar field. -/
theorem sreg_begun (f : Form) (s : State) (r : BitVec 6) (hr : r ∈ f.use.sr) (h : SrcOk s r) : (begun f s).sreg r = src s r := by
  unfold State.sreg src
  by_cases h0 : r = 0
  · simp [h0]
  simp only [h0, if_false]
  by_cases hp : isPort r = true
  · rw [latched_begun_port f s r.toNat ((mem_popPorts _ _).2 ⟨r, hr, hp, rfl⟩)]
    simp [hp]
  · have hn : r.toNat < 56 := by
      rcases h with h | ⟨h, -⟩
      · exact h
      · exact absurd h hp
    rw [latched_begun_plain f s r.toNat hn, begun_me]
    simp [hp]

/-- 01 R14: the same for a register of a range. -/
theorem srange_begun (f : Form) (s : State) (r : BitVec 6) (k : Nat) (h : r.toNat + k < 56) :
    (begun f s).srange r k = if r.toNat + k = 0 then 0 else s.me.s[r.toNat + k]?.getD 0 := by
  unfold State.srange
  rw [latched_begun_plain f s _ h, begun_me]

theorem latched_begun_vector (f : Form) (s : State) (n : Nat) : latched (begun f s).me.latch (.vector n) = none := by
  rw [begun_me]
  simp only [latched, List.find?_append]
  rw [find_map_none, find_map_none]
  · rfl
  · intro c _; simp
  · intro c _; simp

theorem latched_begun_mask (f : Form) (s : State) (n : Nat) : latched (begun f s).me.latch (.mask n) = none := by
  rw [begun_me]
  simp only [latched, List.find?_append]
  rw [find_map_none, find_map_none]
  · rfl
  · intro c _; simp
  · intro c _; simp

theorem mem_readChans (u : Use) (c : Nat) : c ∈ u.readChans ↔ ∃ f ∈ u.vr, isChan f = true ∧ chanIndex f = c := by
  simp only [Use.readChans, mem_foldl_setInsert, List.mem_filter]
  constructor
  · rintro (h | ⟨r, ⟨h1, h2⟩, h3⟩)
    · simp at h
    · exact ⟨r, h1, h2, h3⟩
  · rintro ⟨r, h1, h2, h3⟩
    exact .inr ⟨r, ⟨h1, h2⟩, h3⟩

/-- 01 R15: the vector that a word reads from a vector field. -/
theorem vreg_begun (f : Form) (s : State) (r : BitVec 7) (hr : r ∈ f.use.vr) : (begun f s).vreg r = vsrc s r := by
  unfold State.vreg vsrc
  split
  · rename_i hc
    have : latched (begun f s).me.latch (.channel (chanIndex r))
        = some (.vector (((s.blk.channels[chanIndex r]?).bind (·.entries.head?)).getD (Vec.splat 0))) := by
      rw [begun_me]
      simp only [latched, List.find?_append]
      rw [find_map_none _ _ _ _ (by intro c _; simp), find_map_some _ _ _ (chanIndex r)
        ((mem_readChans _ _).2 ⟨r, hr, hc, rfl⟩) (by simp)]
      rfl
    rw [this]
  · rw [latched_begun_vector, begun_me]

/-- 01 R16: the mask that a word reads. -/
theorem mreg_begun (f : Form) (s : State) (m : BitVec 3) : (begun f s).mreg m = s.me.m[m.toNat]?.getD 0 := by
  unfold State.mreg
  rw [latched_begun_mask, begun_me]

theorem imm_begun {k : Nat} (f : Form) (s : State) (i : BitVec k) : (begun f s).imm i = s.imm i := by
  simp only [State.imm, begun_me]

theorem target_begun {k : Nat} (f : Form) (s : State) (i : BitVec k) : (begun f s).target i = s.target i := by
  simp only [State.target, imm_begun]
  rw [begun_me]

theorem plainTarget_begun {k : Nat} (f : Form) (s : State) (i : BitVec k) : (begun f s).plainTarget i = s.plainTarget i := by
  simp only [State.plainTarget]
  rw [begun_me]

theorem active_begun (f : Form) (s : State) : (begun f s).active = s.active := by
  simp only [State.active, begun_me, Strand.m0]

theorem nextPc_begun (f : Form) (s : State) : (begun f s).nextPc = s.me.pc + 4 := by
  simp only [State.nextPc]
  rw [begun_me]

/-! ## The end of a word -/

theorem timeless_wordDone (pc : W64) (s : State) : (s.wordDone pc).timeless = (s.timeless.wordDone pc).timeless :=
  State.timeless_mapMe _ s (fun _ => rfl)

/-- 21 R350: a strand that no debugger steps does not stop at the end of its word. -/
theorem stepEnd_free (s : State) (h : s.me.stepping = false) : s.stepEnd = s := by simp [State.stepEnd, h]

/-- The end of a word that is no hint. -/
theorem retire_free (pc : W64) (cost : Nat) (s : State) (h : s.me.stepping = false) : s.retire pc cost false = s.mapMe (fun t =>
    { t with pc := pc, readyAt := Nat.max t.readyAt (s.now + cost * acTicks), issued := false, latch := [],
             reason := if t.reason = 3 then 3 else 0, hints := .none, memWait := none, flight := none, matched := false, tretMask := none }) := by
  unfold State.retire
  rw [if_neg (by simp), stepEnd_free _ (by simpa using h)]

theorem mend_whole (f : Form) (mask : W32) (t : Strand) (h : t.corrupt = []) : t.mend f mask = t := by simp [Strand.mend, h]

/-- A word that is no hint and whose effect is done: PC, hints and coverage, and nothing else but clocks. -/
theorem complete_timeless (f : Form) (b s : State) (pc : W64) (cost : Nat) (hf : f.hint = false)
    (hs : (s.popChans f.use).me.stepping = false) (hw : (s.popChans f.use).me.corrupt = []) :
    (State.complete f b pc cost s).timeless = ((s.popChans f.use).wordDone pc).timeless := by
  unfold State.complete
  generalize s.popChans f.use = p at hs hw ⊢
  have e : ∀ q : State, q.me.stepping = false → (q.retire pc cost f.hint).timeless = (q.timeless.mapMe (fun t =>
      { t with pc := pc, hints := .none, memWait := none, flight := none, matched := false, tretMask := none })).timeless := by
    intro q hq
    rw [hf, retire_free _ _ _ hq]
    simp only [State.mapMe, State.timeless, Strand.timeless]
    simp [Function.comp_def]
  have hm : p.mapMe (fun t => ((t.pend f b.now b.me).uncover f).mend f b.active) = p.mapMe (fun t => (t.pend f b.now b.me).uncover f) := by
    simp only [State.mapMe, mend_whole f b.active ((p.me.pend f b.now b.me).uncover f) (by simp [Strand.uncover, hf, hw])]
  rw [hm, e _ (by simp [Strand.uncover, hf, hs]), State.timeless_countIssue]
  simp only [State.wordDone, State.mapMe, State.timeless, Strand.timeless, Strand.uncover, Strand.pend, hf]
  simp [Function.comp_def]

theorem popChans_nil (u : Use) (s : State) (h : u.readChans = []) : s.popChans u = s := by
  unfold State.popChans; simp [h]

@[simp] theorem popChans_me (u : Use) (s : State) : (s.popChans u).me = s.me := by
  unfold State.popChans; split
  · rfl
  · exact foldl_keeps (·.me) _ (by simp) _ s

@[simp] theorem popChans_graftLog (u : Use) (s : State) : (s.popChans u).graftLog = s.graftLog := by
  unfold State.popChans; split
  · rfl
  · exact foldl_keeps (·.graftLog) _ (by simp) _ s

theorem popChans_timeless (u : Use) (s : State) : (s.popChans u).timeless = s.timeless.popChans u := by
  unfold State.popChans; split
  · rfl
  · generalize u.readChans = l
    induction l generalizing s with
    | nil => rfl
    | cons c l ih => simp only [List.foldl_cons, ih, State.timeless_mapBlk]

@[simp] theorem complete_graftLog (f : Form) (b s : State) (pc : W64) (cost : Nat) : (State.complete f b pc cost s).graftLog = s.graftLog := by
  simp [State.complete]

/-- 01 R24: an allowed word whose effect is done leads to the effect's state with the word done. -/
theorem leads_done (f : Form) (eff : State → Result) (s s1 : State) (h : Ready s) (a : Allowed f s) (hf : f.hint = false)
    (hv : f.vector = false ∨ s.active ≠ 0) (he : eff (begun f s) = .done s1) (hl : s1.graftLog = []) (hst : s1.me.stepping = false)
    (hw : s1.me.corrupt = []) :
    Leads (issue f eff s) ((s1.popChans f.use).wordDone (s.me.pc + 4)) := by
  refine ⟨_, issue_ready f eff s h a, ?_⟩
  rw [if_neg (by rw [active_begun]; rintro ⟨h1, h2⟩; rcases hv with hv | hv <;> simp_all), he]
  simp only [finish]
  rw [State.writeGraftLog_nil _ (by simp [hl]), nextPc_begun, complete_timeless _ _ _ _ _ hf (by simp [hst]) (by simp [hw])]

/-- The same for a word that goes on elsewhere (03 R64). -/
theorem leads_jump (f : Form) (eff : State → Result) (s s1 : State) (pc : W64) (cost : Nat) (h : Ready s) (a : Allowed f s)
    (hf : f.hint = false) (hv : f.vector = false) (he : eff (begun f s) = .jump pc cost s1) (hl : s1.graftLog = [])
    (hst : s1.me.stepping = false) (hw : s1.me.corrupt = []) :
    Leads (issue f eff s) ((s1.popChans f.use).wordDone pc) := by
  refine ⟨_, issue_ready f eff s h a, ?_⟩
  rw [if_neg (by simp [hv]), he]
  simp only [finish]
  rw [State.writeGraftLog_nil _ (by simp [hl]), complete_timeless _ _ _ _ _ hf (by simp [hst]) (by simp [hw])]

theorem Leads.congr {o : Out} {e e' : State} (h : Leads o e) (he : e.timeless = e'.timeless) : Leads o e' := by
  obtain ⟨t, h1, h2⟩ := h
  exact ⟨t, h1, h2.trans he⟩

/-! ## Words of scalar operands -/

/-- 01 R33: a word without vector operands is allowed when its fields are, its level is reached and its ports stand ready. -/
theorem allowed_scalar (f : Form) (s : State) (hok : f.ok = true) (hprot : s.me.prot = true → f.okProt = true)
    (hl : f.level ≤ s.me.priv) (hu : f.units = true) (hsr : ∀ r ∈ f.use.sr, SrcOk s r) (hsw : ∀ r ∈ f.use.sw, DstOk r)
    (hrange : ∀ r ∈ f.use.range, 0 < r.2 ∧ r.1.toNat + r.2 ≤ 56) (hwrange : ∀ r ∈ f.use.wrange, 0 < r.2 ∧ r.1.toNat + r.2 ≤ 56) (hvr : f.use.vr = []) (hvw : f.use.vw = []) (hmw : ∀ m ∈ f.use.mw, m ≠ 0) :
    Allowed f s where
  ok := hok
  prot := hprot
  level := hl
  units := hu
  names := by
    simp only [Use.namesOk, hvr, hvw, List.all_nil, Bool.and_true, Bool.and_eq_true, List.all_eq_true, decide_eq_true_eq]
    refine ⟨⟨⟨⟨?_, ?_⟩, fun r hr => (hrange r hr).2⟩, fun r hr => (hwrange r hr).2⟩, hmw⟩
    · intro r hr
      rcases hsr r hr with h | ⟨h, -⟩
      · omega
      · rw [isPort_iff] at h; omega
    · intro r hr; have := hsw r hr; simp only [DstOk] at this; omega
  ported := by
    intro h0
    simp only [Use.namesPort, Bool.or_eq_false_iff, List.any_eq_false, isPort_iff]
    refine ⟨⟨⟨?_, ?_⟩, ?_⟩, ?_⟩
    · intro r hr h2
      rcases hsr r hr with h | ⟨-, h, -⟩
      · omega
      · exact h h0
    · intro r hr h2
      have := hsw r hr; simp only [DstOk] at this; omega
    · intro r hr h2
      have := hrange r hr; omega
    · intro r hr h2
      have := hwrange r hr; omega
  heads := by
    intro p hp
    obtain ⟨r, hr, h2, h3⟩ := (mem_popPorts _ _).1 hp
    rcases hsr r hr with h | ⟨-, -, h⟩
    · rw [isPort_iff] at h2; omega
    · rw [← h3]; exact h
  room := by
    intro p hp
    obtain ⟨r, hr, h2, -⟩ := (mem_pushPorts _ _).1 hp
    have := hsw r hr; simp only [DstOk] at this
    rw [isPort_iff] at h2; omega
  chans := by simp [State.chanCheck, Use.readChans, Use.writeChans, hvr, hvw]

theorem setS_plain (d : BitVec 6) (x : W64) (s : State) (h : DstOk d) : s.setS d x = s.wrote d x := by
  have : isPort d = false := by
    by_contra hc
    rw [Bool.not_eq_false, isPort_iff] at hc
    simp only [DstOk] at h; omega
  simp [State.setS, State.wrote, this]

theorem wrote_timeless (d : BitVec 6) (x : W64) (s : State) : (s.wrote d x).timeless = (s.timeless.wrote d x).timeless := by
  unfold State.wrote; split
  · simp
  · exact State.timeless_mapMe _ s (fun _ => rfl)

theorem wrote_me_stepping (d : BitVec 6) (x : W64) (s : State) : (s.wrote d x).me.stepping = s.me.stepping := by
  unfold State.wrote; split <;> rfl

theorem wrote_me_corrupt (d : BitVec 6) (x : W64) (s : State) : (s.wrote d x).me.corrupt = s.me.corrupt := by
  unfold State.wrote; split <;> rfl

theorem wrote_graftLog (d : BitVec 6) (x : W64) (s : State) : (s.wrote d x).graftLog = s.graftLog := by
  unfold State.wrote; split <;> rfl

/-- 03 R59 and its like: a word of scalar operands with one scalar result leads to that result and nothing else. -/
theorem scalarOp_leads (f : Form) (d : BitVec 6) (x : State → W64) (y : W64) (s : State) (h : Ready s) (a : Allowed f s)
    (hf : f.hint = false) (hv : f.vector = false) (hvr : f.use.vr = []) (hd : DstOk d) (hx : x (begun f s) = y) :
    Leads (scalarOp f d x s) (((s.popped f.use.sr).wrote d y).wordDone (s.me.pc + 4)) := by
  unfold scalarOp
  have hr : f.use.readChans = [] := by simp [Use.readChans, hvr]
  refine Leads.congr (leads_done f _ s ((begun f s).wrote d y) h a hf (.inl hv) ?_ ?_ ?_ ?_) ?_
  · simp only [hx, setS_plain _ _ _ hd]
  · rw [wrote_graftLog, begun_graftLog, h.noLog]
  · rw [wrote_me_stepping, begun_me]; exact h.free
  · rw [wrote_me_corrupt, begun_me]; exact h.whole
  · rw [popChans_nil _ _ hr, timeless_wordDone, wrote_timeless, begun_timeless, ← wrote_timeless, ← timeless_wordDone]

end Sys2Proof.Machine
end

