-- ==== Sys2Proof/Laws/Memory.lean ====
section
/-!
SUPPORT. Sys2Proof/Laws/Memory.lean: the laws of sparse memory: read after write, and that every operation keeps the canonical
form.
-/

namespace Sys2Proof.Machine

/-- Every listed address is at least lo. -/
def Memory.from (lo : Nat) (m : Memory) : Prop := ∀ c ∈ m, lo ≤ c.1

@[simp] theorem Memory.wf_nil : Memory.wf [] = true := rfl

theorem Memory.wf_cons (a : Nat) (b : Byte) (r : Memory) :
    Memory.wf ((a, b) :: r) = true ↔ b ≠ 0 ∧ Memory.from (a + 1) r ∧ Memory.wf r = true := by
  induction r generalizing a b with
  | nil => simp [Memory.wf, Memory.from]
  | cons c r ih =>
    obtain ⟨a', b'⟩ := c
    have h := ih a' b'
    simp only [Memory.wf, Memory.from, List.mem_cons, forall_eq_or_imp, bne_iff_ne, Bool.and_eq_true, decide_eq_true_eq]
    rw [h]
    simp only [Memory.from]
    constructor
    · rintro ⟨⟨hb, hl⟩, hb', hf, hw⟩
      exact ⟨hb, ⟨hl, fun c hc => by have := hf c hc; omega⟩, hb', hf, hw⟩
    · rintro ⟨hb, ⟨hl, -⟩, hb', hf, hw⟩
      exact ⟨⟨hb, hl⟩, hb', hf, hw⟩

/-- An address below every listed one reads 0. -/
theorem Memory.get_below (m : Memory) (lo a : Nat) (h : Memory.from lo m) (ha : a < lo) : Memory.get m a = 0 := by
  induction m with
  | nil => rfl
  | cons c r ih =>
    obtain ⟨x, b⟩ := c
    have hx : lo ≤ x := h (x, b) (by simp)
    have : x ≠ a := by omega
    simp only [Memory.get, this, if_false]
    exact ih (fun c hc => h c (by simp [hc]))

/-- 05 R98: a byte that has been written reads as written. -/
theorem Memory.get_set_same (m : Memory) (a : Nat) (b : Byte) (h : Memory.wf m = true) : Memory.get (Memory.set m a b) a = b := by
  induction m with
  | nil => by_cases hb : b = 0#8 <;> simp [Memory.set, Memory.get, hb]
  | cons c r ih =>
    obtain ⟨x, v⟩ := c
    obtain ⟨-, hf, hw⟩ := (Memory.wf_cons x v r).1 h
    simp only [Memory.set]
    split
    · rename_i hlt
      by_cases hb : b = 0
      · have : x ≠ a := by omega
        simp only [hb, if_true, Memory.get, this, if_false]
        exact Memory.get_below r (x + 1) a hf (by omega)
      · rw [if_neg hb]; simp [Memory.get]
    · split
      · rename_i _ heq
        by_cases hb : b = 0
        · simp only [hb, if_true]
          exact Memory.get_below r (x + 1) a hf (by omega)
        · rw [if_neg hb]; simp [Memory.get]
      · rename_i _ hne
        have : x ≠ a := fun h => hne h.symm
        simp [Memory.get, this, ih hw]

/-- A write leaves every other byte alone. -/
theorem Memory.get_set_other (m : Memory) (a k : Nat) (b : Byte) (h : k ≠ a) : Memory.get (Memory.set m a b) k = Memory.get m k := by
  have ha : a ≠ k := fun e => h e.symm
  induction m with
  | nil => by_cases hb : b = 0#8 <;> simp [Memory.set, Memory.get, hb, ha]
  | cons c r ih =>
    obtain ⟨x, v⟩ := c
    simp only [Memory.set]
    split
    · by_cases hb : b = 0#8 <;> simp [hb, Memory.get, ha]
    · split
      · rename_i _ heq
        have : x ≠ k := by omega
        by_cases hb : b = 0#8 <;> simp [hb, Memory.get, ha, this]
      · simp [Memory.get, ih]

theorem Memory.get_set (m : Memory) (a k : Nat) (b : Byte) (h : Memory.wf m = true) :
    Memory.get (Memory.set m a b) k = if k = a then b else Memory.get m k := by
  by_cases e : k = a
  · subst e; simp [Memory.get_set_same m k b h]
  · simp [e, Memory.get_set_other m a k b e]

theorem Memory.from_set (m : Memory) (lo a : Nat) (b : Byte) (h : Memory.from lo m) (ha : lo ≤ a) :
    Memory.from lo (Memory.set m a b) := by
  induction m with
  | nil => by_cases hb : b = 0#8 <;> simp [Memory.set, Memory.from, hb, ha]
  | cons c r ih =>
    obtain ⟨x, v⟩ := c
    have hx : lo ≤ x := h (x, v) (by simp)
    have hr : Memory.from lo r := fun c hc => h c (by simp [hc])
    simp only [Memory.set]
    split
    · by_cases hb : b = 0
      · simpa [hb] using h
      · intro c hc; rw [if_neg hb] at hc; simp at hc; rcases hc with rfl | rfl | hc
        · exact ha
        · exact hx
        · exact hr c hc
    · split
      · by_cases hb : b = 0
        · simpa [hb] using hr
        · intro c hc; rw [if_neg hb] at hc; simp at hc; rcases hc with rfl | hc
          · exact ha
          · exact hr c hc
      · intro c hc; simp at hc; rcases hc with rfl | hc
        · exact hx
        · exact ih hr c hc

/-- A write keeps the canonical form. -/
theorem Memory.wf_set (m : Memory) (a : Nat) (b : Byte) (h : Memory.wf m = true) : Memory.wf (Memory.set m a b) = true := by
  induction m with
  | nil => by_cases hb : b = 0#8 <;> simp [Memory.set, Memory.wf, hb]
  | cons c r ih =>
    obtain ⟨x, v⟩ := c
    obtain ⟨hv, hf, hw⟩ := (Memory.wf_cons x v r).1 h
    simp only [Memory.set]
    split
    · by_cases hb : b = 0
      · simpa [hb] using h
      · simp only [hb, if_false]
        rw [Memory.wf_cons]
        refine ⟨hb, ?_, h⟩
        intro c hc; simp at hc; rcases hc with rfl | hc
        · simp; omega
        · have := hf c hc; omega
    · split
      · rename_i _ heq
        by_cases hb : b = 0
        · simpa [hb] using hw
        · simp only [hb, if_false]
          rw [Memory.wf_cons]
          exact ⟨hb, by subst heq; exact hf, hw⟩
      · rw [Memory.wf_cons]
        exact ⟨hv, Memory.from_set r (x + 1) a b hf (by omega), ih hw⟩

theorem Memory.wf_write (m : Memory) (a : Nat) (bs : List Byte) (h : Memory.wf m = true) : Memory.wf (Memory.write m a bs) = true := by
  induction bs generalizing m a with
  | nil => exact h
  | cons b r ih => exact ih _ _ (Memory.wf_set m a b h)

theorem Memory.wf_filter (m : Memory) (p : Host.Cell → Bool) (h : Memory.wf m = true) : Memory.wf (m.filter p) = true := by
  induction m with
  | nil => rfl
  | cons c r ih =>
    obtain ⟨x, v⟩ := c
    obtain ⟨hv, hf, hw⟩ := (Memory.wf_cons x v r).1 h
    simp only [List.filter_cons]
    split
    · rw [Memory.wf_cons]
      exact ⟨hv, fun c hc => hf c (List.mem_of_mem_filter hc), ih hw⟩
    · exact ih hw

theorem Memory.wf_clear (m : Memory) (a n : Nat) (h : Memory.wf m = true) : Memory.wf (Memory.clear m a n) = true :=
  Memory.wf_filter m _ h

/-- A write of bytes leaves every byte outside them alone. -/
theorem Memory.get_write_other (m : Memory) (a k : Nat) (bs : List Byte) (h : k < a ∨ a + bs.length ≤ k) :
    Memory.get (Memory.write m a bs) k = Memory.get m k := by
  induction bs generalizing m a with
  | nil => rfl
  | cons b r ih =>
    simp only [List.length_cons] at h
    simp only [Memory.write]
    rw [ih _ _ (by omega), Memory.get_set_other _ _ _ _ (by omega)]

/-- A write of bytes puts each where it belongs. -/
theorem Memory.get_write_same (m : Memory) (a i : Nat) (bs : List Byte) (h : Memory.wf m = true) (hi : i < bs.length) :
    Memory.get (Memory.write m a bs) (a + i) = bs[i] := by
  induction bs generalizing m a i with
  | nil => simp at hi
  | cons b r ih =>
    simp only [Memory.write]
    cases i with
    | zero =>
      rw [Memory.get_write_other _ _ _ _ (by omega), Nat.add_zero, Memory.get_set_same _ _ _ h]; rfl
    | succ j =>
      have : a + (j + 1) = a + 1 + j := by omega
      rw [this, ih _ _ _ (Memory.wf_set m a b h) (by simpa using hi)]; rfl

@[simp] theorem Memory.read_length (m : Memory) (a n : Nat) : (Memory.read m a n).length = n := by
  induction n generalizing a with
  | zero => rfl
  | succ n ih => simp [Memory.read, ih]

theorem Memory.read_get (m : Memory) (a n i : Nat) (h : i < (Memory.read m a n).length) : (Memory.read m a n)[i] = Memory.get m (a + i) := by
  induction n generalizing a i with
  | zero => simp [Memory.read] at h
  | succ n ih =>
    cases i with
    | zero => rfl
    | succ j =>
      have := ih (a + 1) j (by simpa [Memory.read] using h)
      simp only [Memory.read, List.getElem_cons_succ, this]
      congr 1; omega

/-- Reading back the bytes just written. -/
theorem Memory.read_write (m : Memory) (a : Nat) (bs : List Byte) (h : Memory.wf m = true) :
    Memory.read (Memory.write m a bs) a bs.length = bs := by
  apply List.ext_getElem (by simp)
  intro i h1 h2
  rw [Memory.read_get, Memory.get_write_same _ _ _ _ h h2]

/-- Reading bytes that a write does not touch. -/
theorem Memory.read_write_other (m : Memory) (a k n : Nat) (bs : List Byte) (h : k + n ≤ a ∨ a + bs.length ≤ k) :
    Memory.read (Memory.write m a bs) k n = Memory.read m k n := by
  apply List.ext_getElem (by simp)
  intro i h1 h2
  simp at h1
  rw [Memory.read_get, Memory.read_get, Memory.get_write_other _ _ _ _ (by omega)]

/-- Canonical memories that read alike are equal. -/
theorem Memory.ext (m k : Memory) (hm : Memory.wf m = true) (hk : Memory.wf k = true)
    (h : ∀ a, Memory.get m a = Memory.get k a) : m = k := by
  induction m generalizing k with
  | nil =>
    cases k with
    | nil => rfl
    | cons c r =>
      obtain ⟨x, v⟩ := c
      obtain ⟨hv, -, -⟩ := (Memory.wf_cons x v r).1 hk
      have := h x
      simp [Memory.get] at this
      exact absurd this.symm hv
  | cons c r ih =>
    obtain ⟨x, v⟩ := c
    obtain ⟨hv, hf, hw⟩ := (Memory.wf_cons x v r).1 hm
    cases k with
    | nil => have := h x; simp [Memory.get] at this; exact absurd this hv
    | cons d q =>
      obtain ⟨y, u⟩ := d
      obtain ⟨hu, hg, hq⟩ := (Memory.wf_cons y u q).1 hk
      have hxy : x = y := by
        rcases Nat.lt_trichotomy x y with hlt | he | hgt
        · have := h x
          simp only [Memory.get, if_true] at this
          have hne : y ≠ x := by omega
          simp only [hne, if_false, Memory.get_below q (y + 1) x hg (by omega)] at this
          exact absurd this hv
        · exact he
        · have := h y
          have hne : x ≠ y := by omega
          simp only [Memory.get, if_true, hne, if_false, Memory.get_below r (x + 1) y hf (by omega)] at this
          exact absurd this.symm hu
      subst hxy
      have hvu : v = u := by have := h x; simpa [Memory.get] using this
      subst hvu
      congr 1
      apply ih q hw hq
      intro a
      have := h a
      simp only [Memory.get] at this
      split at this
      · rename_i e; subst e
        rw [Memory.get_below r (x + 1) x hf (by omega), Memory.get_below q (x + 1) x hg (by omega)]
      · exact this

/-! ## Presence maps -/

theorem Cells.find_put_same (m : List Host.Cell) (a : Nat) (b : Byte) : Cells.find (Cells.put m a b) a = some b := by
  induction m with
  | nil => simp [Cells.put, Cells.find]
  | cons c r ih =>
    obtain ⟨x, v⟩ := c
    simp only [Cells.put]
    split
    · simp [Cells.find]
    · split
      · simp [Cells.find]
      · have : x ≠ a := by omega
        simp [Cells.find, this, ih]

theorem Cells.find_put_other (m : List Host.Cell) (a k : Nat) (b : Byte) (h : k ≠ a) :
    Cells.find (Cells.put m a b) k = Cells.find m k := by
  have ha : a ≠ k := fun e => h e.symm
  induction m with
  | nil => simp [Cells.put, Cells.find, ha]
  | cons c r ih =>
    obtain ⟨x, v⟩ := c
    simp only [Cells.put]
    split
    · simp [Cells.find, ha]
    · split
      · have : x ≠ k := by omega
        simp [Cells.find, ha, this]
      · simp [Cells.find, ih]

theorem Cells.find_putAll_other (m : List Host.Cell) (a k : Nat) (bs : List Byte) (h : k < a ∨ a + bs.length ≤ k) :
    Cells.find (Cells.putAll m a bs) k = Cells.find m k := by
  induction bs generalizing m a with
  | nil => rfl
  | cons b r ih =>
    simp only [List.length_cons] at h
    simp only [Cells.putAll]
    rw [ih _ _ (by omega), Cells.find_put_other _ _ _ _ (by omega)]

theorem Cells.find_putAll_same (m : List Host.Cell) (a i : Nat) (bs : List Byte) (hi : i < bs.length) :
    Cells.find (Cells.putAll m a bs) (a + i) = some bs[i] := by
  induction bs generalizing m a i with
  | nil => simp at hi
  | cons b r ih =>
    simp only [Cells.putAll]
    cases i with
    | zero => rw [Cells.find_putAll_other _ _ _ _ (by omega), Nat.add_zero, Cells.find_put_same]; rfl
    | succ j =>
      have : a + (j + 1) = a + 1 + j := by omega
      rw [this, ih _ _ _ (by simpa using hi)]; rfl

/-! ## Bytes -/

@[simp] theorem natBytes_length (n x : Nat) : (natBytes n x).length = n := by
  induction n generalizing x with
  | zero => rfl
  | succ n ih => simp [natBytes, ih]

/-- 00 R6: the bytes of a number hold it, little-endian. -/
theorem bytesNat_natBytes (n x : Nat) (h : x < 256 ^ n) : bytesNat (natBytes n x) = x := by
  induction n generalizing x with
  | zero => simp at h; simp [natBytes, bytesNat, h]
  | succ n ih =>
    simp only [natBytes, bytesNat, BitVec.toNat_ofNat]
    rw [ih (x / 256) (by rw [pow_succ] at h; omega)]
    omega

end Sys2Proof.Machine
end

