-- ==== Sys2Proof/Laws/Vector.lean ====
section
/-!
SUPPORT. Sys2Proof/Laws/Vector.lean: what the issue of a vector word does (00 R9, 01 R15, 02 R54), said once.
-/

namespace Sys2Proof.Machine

/-! ## Lanes -/

theorem Vec.lane_tab (g : Nat → W32) (L : Nat) (h : L < 32) : Vec.lane (Vec.tab g) L = g L := by
  simp [Vec.lane, Vec.tab, h]

theorem Vec.tab_congr (g k : Nat → W32) (h : ∀ L < 32, g L = k L) : Vec.tab g = Vec.tab k := by
  unfold Vec.tab
  congr 2
  apply List.map_congr_left
  intro L hL
  exact h L (List.mem_range.1 hL)

theorem Vec.tab_lane (v : Vec) : Vec.tab (fun L => Vec.lane v L) = v := by
  apply Vector.ext
  intro i hi
  have h := Vec.lane_tab (fun L => Vec.lane v L) i hi
  simp only [Vec.lane, Vector.getElem?_eq_getElem hi, Option.getD_some] at h
  exact h

theorem Vec.lane_splat (x : W32) (L : Nat) (h : L < 32) : Vec.lane (Vec.splat x) L = x := by
  simp [Vec.lane, Vec.splat, h]

theorem Vec.splat_zero : Vec.splat 0 = Vec.tab (fun _ => 0) := by
  rw [← Vec.tab_lane (Vec.splat 0)]
  exact Vec.tab_congr _ _ (fun L h => Vec.lane_splat 0 L h)

theorem bit_eq {n : Nat} (x : BitVec n) (i : Nat) : bit x i = x.getLsbD i := rfl

/-! ## Channels -/

theorem woken_timeless (t : Strand) : t.woken.timeless = t.timeless.woken.timeless := by
  simp only [Strand.woken, Strand.timeless]
  split <;> simp_all

theorem wakeStrands_timeless (p : Strand → Bool) (s : State) (hp : ∀ t, p t.timeless = p t) :
    (s.wakeStrands p).timeless = (s.timeless.wakeStrands p).timeless := by
  unfold State.wakeStrands State.mapStrands State.timeless
  simp only [hp]
  congr 1
  · split
    · exact woken_timeless s.me
    · rfl
  all_goals simp [Function.comp_def]

theorem chanPush_timeless (c : Nat) (x : Vec) (s : State) : (s.chanPush c x).timeless = (s.timeless.chanPush c x).timeless := by
  unfold State.chanPush
  simp only [State.timeless_blk]
  split
  · exact wakeStrands_timeless _ _ (fun _ => rfl)
  · simp [State.timeless_mapBlk]

@[simp] theorem chanPush_graftLog (c : Nat) (x : Vec) (s : State) : (s.chanPush c x).graftLog = s.graftLog := by
  unfold State.chanPush; dsimp only; split <;> simp

@[simp] theorem woken_stepping (t : Strand) : t.woken.stepping = t.stepping := by
  unfold Strand.woken; split <;> rfl

@[simp] theorem chanPush_me_stepping (c : Nat) (x : Vec) (s : State) : (s.chanPush c x).me.stepping = s.me.stepping := by
  unfold State.chanPush; dsimp only; split
  · simp only [State.wakeStrands, State.mapStrands]
    split <;> simp
  · simp

theorem vwrote_timeless (d : BitVec 7) (x : Vec) (s : State) : (s.vwrote d x).timeless = (s.timeless.vwrote d x).timeless := by
  unfold State.vwrote; split
  · exact chanPush_timeless _ _ _
  · exact State.timeless_mapMe _ s (fun _ => rfl)

@[simp] theorem vwrote_graftLog (d : BitVec 7) (x : Vec) (s : State) : (s.vwrote d x).graftLog = s.graftLog := by
  unfold State.vwrote; split <;> simp

@[simp] theorem woken_corrupt (t : Strand) : t.woken.corrupt = t.corrupt := by
  unfold Strand.woken; split <;> rfl

@[simp] theorem chanPush_me_corrupt (c : Nat) (x : Vec) (s : State) : (s.chanPush c x).me.corrupt = s.me.corrupt := by
  unfold State.chanPush; dsimp only; split
  · simp only [State.wakeStrands, State.mapStrands]
    split <;> simp
  · simp

@[simp] theorem vwrote_me_corrupt (d : BitVec 7) (x : Vec) (s : State) : (s.vwrote d x).me.corrupt = s.me.corrupt := by
  unfold State.vwrote; split <;> simp

@[simp] theorem vwrote_me_stepping (d : BitVec 7) (x : Vec) (s : State) : (s.vwrote d x).me.stepping = s.me.stepping := by
  unfold State.vwrote; split <;> simp

/-- 00 R9: a masked write of a vector destination, by its lanes. -/
theorem setV_eq (d : BitVec 7) (mask : W32) (x : Vec) (s : State) :
    s.setV d mask x = s.vwrote d (Vec.tab (fun L => if mask.getLsbD L then Vec.lane x L else vkept s d L)) := by
  unfold State.setV State.vwrote vkept vsrc
  simp only [bit_eq]
  by_cases h : isChan d = true
  · simp only [h, if_true]
    rfl
  · simp only [h]
    rfl

/-! ## A vector word that is allowed -/

theorem foldl_setInsert_ne_nil {α : Type} (l : List α) (k : α → Nat) (x : α) (h : x ∈ l) : l.foldl (fun m r => setInsert m (k r)) [] ≠ [] := by
  intro e
  have := (mem_foldl_setInsert l k [] (k x)).2 (.inr ⟨x, h, rfl⟩)
  rw [e] at this; simp at this

theorem chanCheck_ok (s : State) (u : Use) (hr : ∀ f ∈ u.vr, VSrcOk s f)
    (hw : ∀ f ∈ u.vw, isChan f = true → s.chanWrite (chanIndex f) (!u.peek && u.readChans.contains (chanIndex f)) = (none, false)) :
    s.chanCheck u = (none, false) := by
  have h1 : ∀ c ∈ u.readChans, s.chanRead c = (none, false) := by
    intro c hc
    obtain ⟨f, hf, h2, h3⟩ := (mem_readChans u c).1 hc
    rcases hr f hf with ⟨h, -⟩ | ⟨-, h⟩
    · simp [h] at h2
    · rw [← h3]; exact h
  have h2 : ∀ c ∈ u.writeChans, s.chanWrite c (!u.peek && u.readChans.contains c) = (none, false) := by
    intro c hc
    simp only [Use.writeChans, mem_foldl_setInsert, List.mem_filter] at hc
    rcases hc with h | ⟨f, ⟨hf, h2⟩, h3⟩
    · simp at h
    · rw [← h3]; exact hw f hf h2
  have h3 : ∀ x ∈ u.readChans.map s.chanRead ++ u.writeChans.map (fun c => s.chanWrite c (!u.peek && u.readChans.contains c)),
      x = (none, false) := by
    intro x hx
    rcases List.mem_append.1 hx with hx | hx
    · obtain ⟨c, hc, rfl⟩ := List.mem_map.1 hx; exact h1 c hc
    · obtain ⟨c, hc, rfl⟩ := List.mem_map.1 hx; exact h2 c hc
  unfold State.chanCheck
  generalize u.readChans.map s.chanRead ++ u.writeChans.map (fun c => s.chanWrite c (!u.peek && u.readChans.contains c)) = l at h3 ⊢
  have e1 : l.filterMap (·.1) = [] := by
    rw [List.filterMap_eq_nil_iff]; intro x hx; rw [h3 x hx]
  have e2 : l.any (·.2) = false := by
    rw [List.any_eq_false]; intro x hx; rw [h3 x hx]; simp
  simp only [e1, e2, List.head?_nil]

/-- 01 R33: a vector word is allowed when its fields are and its sources and destinations stand ready. -/
theorem allowed_vector (f : Form) (s : State) (hok : f.ok = true) (hprot : s.me.prot = true → f.okProt = true)
    (hl : f.level = 0) (hu : f.units = true) (hsr : ∀ r ∈ f.use.sr, SrcOk s r) (hsw : ∀ r ∈ f.use.sw, DstOk r)
    (hrange : f.use.range = []) (hwrange : f.use.wrange = []) (hvr : ∀ v ∈ f.use.vr, VSrcOk s v)
    (hvw : ∀ v ∈ f.use.vw, VDstOk s (if f.use.peek then [] else f.use.vr) v) (hmw : ∀ m ∈ f.use.mw, m ≠ 0) :
    Allowed f s := by
  have a := allowed_scalar { f with use := { f.use with vr := [], vw := [], mw := [] } } s hok hprot (by simp [hl]) hu hsr hsw
    (by simp [hrange]) (by simp [hwrange]) rfl rfl (by simp)
  refine { ok := hok, prot := hprot, level := by omega, units := hu, names := ?_, ported := a.ported, heads := a.heads,
           room := a.room, chans := ?_ }
  · have hn := a.names
    simp only [Use.namesOk, List.all_nil, Bool.and_true, Bool.and_eq_true, List.all_eq_true, decide_eq_true_eq, Bool.or_eq_true] at hn ⊢
    refine ⟨⟨⟨hn, ?_⟩, ?_⟩, hmw⟩
    · intro v hv
      rcases hvr v hv with ⟨-, h⟩ | ⟨h, -⟩
      · exact .inr h
      · exact .inl h
    · intro v hv
      rcases hvw v hv with ⟨-, h⟩ | ⟨h, -⟩
      · exact .inr h
      · exact .inl h
  · apply chanCheck_ok s _ hvr
    intro v hv hc
    rcases hvw v hv with ⟨h, -⟩ | ⟨-, h⟩
    · simp [h] at hc
    · by_cases hp : f.use.peek = true
      · simp only [hp, Bool.not_true, Bool.false_and]
        simpa [Use.readChans, hp] using h
      · simp only [Bool.not_eq_true] at hp
        simp only [hp] at h ⊢
        simpa [Use.readChans] using h

/-! ## Elementwise words -/

theorem vkept_begun (f : Form) (s : State) (d : BitVec 7) (L : Nat) : vkept (begun f s) d L = vkept s d L := by
  unfold vkept vsrc
  rw [begun_me, begun_blk]

theorem putV_same (r : Nat) (t : Strand) : t.putV r (t.v[r]?.getD (Vec.splat 0)) = t := by
  have : (⟨t.v.toArray.set! r (t.v[r]?.getD (Vec.splat 0)), by simp⟩ : Vector Vec 64) = t.v := by
    apply Vector.ext
    intro i hi
    have := getElem?_set! t.v r i (t.v[r]?.getD (Vec.splat 0))
    rw [Vector.getElem?_eq_getElem hi] at this
    split at this
    · rename_i e
      obtain ⟨rfl, -⟩ := e
      rw [Vector.getElem?_eq_getElem hi] at this
      simp [Vector.getElem?_eq_getElem hi]
    · rw [Vector.getElem?_eq_getElem hi] at this
      simpa using this
  unfold Strand.putV
  rw [this]

theorem finish_done_leads (f : Form) (r : Result) (s s1 : State) (hf : f.hint = false) (he : r = .done s1)
    (hl : s1.graftLog = []) (hst : s1.me.stepping = false) (hw : s1.me.corrupt = []) :
    (finish f (begun f s) r).writeGraftLog.timeless = ((s1.popChans f.use).wordDone (s.me.pc + 4)).timeless := by
  subst he
  simp only [finish]
  rw [State.writeGraftLog_nil _ (by simp [hl]), nextPc_begun, complete_timeless _ _ _ _ _ hf (by simp [hst]) (by simp [hw])]

/-- 04 R80 and its like: an elementwise word leads to its elements in the active lanes of its destination, the others as they
were, and nothing else. -/
theorem laneOp_leads (f : Form) (d : BitVec 7) (x : State → Nat → W32) (y : Nat → W32) (s : State) (h : Ready s) (a : Allowed f s)
    (hf : f.hint = false) (hv : f.vector = true) (hw : f.badFmt = none) (hd : f.use.vw = [d])
    (hp : isChan d = true → s.disagree s.active = 0)
    (hx : ∀ L < 32, s.active.getLsbD L = true → x (begun f s) L = y L) :
    Leads (laneOp f d x s)
      ((((s.popped f.use.sr).vwrote d (Vec.tab (fun L => if s.active.getLsbD L then y L else vkept s d L))).popChans f.use).wordDone
        (s.me.pc + 4)) := by
  unfold laneOp
  refine ⟨_, issue_ready f _ s h a, ?_⟩
  have hnames := a.names
  have goal : ∀ s1 : State, s1.timeless = ((begun f s).vwrote d (Vec.tab (fun L => if s.active.getLsbD L then y L else vkept s d L))).timeless →
      ((s1.popChans f.use).wordDone (s.me.pc + 4)).timeless =
      ((((s.popped f.use.sr).vwrote d (Vec.tab (fun L => if s.active.getLsbD L then y L else vkept s d L))).popChans f.use).wordDone
        (s.me.pc + 4)).timeless := by
    intro s1 e
    rw [timeless_wordDone, popChans_timeless, e, vwrote_timeless, begun_timeless, ← vwrote_timeless, ← popChans_timeless, ← timeless_wordDone]
  rw [active_begun]
  by_cases h0 : s.active = 0
  · rw [if_pos ⟨hv, h0⟩]
    have hval : (Vec.tab (fun L => if s.active.getLsbD L then y L else vkept s d L)) = Vec.tab (fun L => vkept s d L) := by
      apply Vec.tab_congr; intro L _; simp [h0]
    by_cases hc : isChan d = true
    · have hwr : f.use.writeChans = [chanIndex d] := by simp [Use.writeChans, hd, hc, setInsert]
      have he : f.emptyMask (begun f s) = .done ((begun f s).chanPush (chanIndex d) (Vec.splat 0)) := by
        simp [Form.emptyMask, hw, hwr]
      rw [finish_done_leads f _ s _ hf he (by simp [h.noLog]) (by simp [begun_me, h.free]) (by simp [begun_me, h.whole])]
      apply goal
      rw [hval, Vec.splat_zero]
      have : (fun L => vkept s d L) = fun _ => 0 := by funext L; simp [vkept, hc]
      rw [this]
      simp [State.vwrote, hc]
    · have hwr : f.use.writeChans = [] := by simp [Use.writeChans, hd, hc]
      have he : f.emptyMask (begun f s) = .done (begun f s) := by simp [Form.emptyMask, hw, hwr]
      rw [finish_done_leads f _ s _ hf he (by simp [h.noLog]) (by simp [begun_me, h.free]) (by simp [begun_me, h.whole])]
      apply goal
      rw [hval]
      have e2 : Vec.tab (fun L => vkept s d L) = (begun f s).me.v[d.toNat]?.getD (Vec.splat 0) := by
        rw [begun_me]
        have : (fun L => vkept s d L) = fun L => Vec.lane (s.me.v[d.toNat]?.getD (Vec.splat 0)) L := by
          funext L; simp [vkept, vsrc, hc]
        rw [this, Vec.tab_lane]
      simp only [State.vwrote, hc, e2, State.mapMe]
      rw [if_neg (by simp), putV_same]
  · rw [if_neg (by rintro ⟨-, h2⟩; exact h0 h2)]
    have he : (begun f s).putLanes d (Vec.tab (x (begun f s))) = .done ((begun f s).setV d s.active (Vec.tab (x (begun f s)))) := by
      unfold State.putLanes
      split
      · rename_i hc
        unfold State.compare
        rw [if_pos]
        · rw [active_begun]
        · have := hp hc
          unfold State.disagree at this ⊢
          rw [active_begun, begun_me]
          exact this
      · rw [active_begun]
    rw [setV_eq] at he
    rw [finish_done_leads f _ s _ hf he (by simp [h.noLog]) (by simp [begun_me, h.free]) (by simp [begun_me, h.whole])]
    apply goal
    congr 2
    apply Vec.tab_congr
    intro L hL
    rw [vkept_begun, Vec.lane_tab _ _ hL]
    split
    · rename_i hb; exact hx L hL hb
    · rfl

end Sys2Proof.Machine
end

