-- ==== Sys2Proof/Tests/Slice0.lean ====
section
/-!
SUPPORT. Sys2Proof/Tests/Slice0.lean: tests: ill-formed terms that the checks refuse, words written out from the spec's encodings, single
steps with results taken from the spec's rules, and for each statement with hypotheses a state and operands that meet them.
-/

set_option maxRecDepth 100000

open Sys2Proof Sys2Proof.Machine

namespace Sys2Proof.Tests

/-- The strand that `withFetchWord` places, PRIV 2, at a time when it may issue. -/
def w0 : State := { State.reset.withFetchWord 32 0 with now := 1000 }

/-- The same with PRIV p. -/
def wp (p : Nat) : State := w0.mapMe (fun t => { t with priv := p })

/-- The strand with some scalar registers set. -/
def regs (l : List (Nat × W64)) (t : Strand) : Strand := l.foldl (fun t e => Strand.putS e.1 e.2 t) t

/-- The strand after the word w, from w0 with these registers. -/
noncomputable def ran (w : Nat) (l : List (Nat × W64)) : State :=
  let s := { State.reset.withFetchWord 32 w with now := 1000 }
  match step { s with me := regs l s.me } with
  | .next t => t
  | _ => s

theorem ready0 : Ready w0 := ⟨rfl, rfl, rfl, rfl, by decide, by decide, rfl, rfl⟩

/-- The fields of a well-made state that a variation of the strand keeps. -/
theorem ready_me (f : Strand → Strand) (h : (f w0.me).run = .running ∧ (f w0.me).issued = false ∧ (f w0.me).pending = [] ∧
    (f w0.me).stepping = false ∧ (f w0.me).readyAt ≤ 1000 ∧ (f w0.me).issuedAt + 70 ≤ 1000 ∧ (f w0.me).corrupt = []) : Ready (w0.mapMe f) :=
  ⟨h.1, h.2.1, h.2.2.1, h.2.2.2.1, h.2.2.2.2.1, h.2.2.2.2.2.1, rfl, h.2.2.2.2.2.2⟩

theorem focused0 : Focused w0 := ⟨by decide, by decide, by decide⟩

theorem still0 : Still w0 := ⟨rfl, rfl⟩

theorem src_low {s : State} {r : BitVec 6} (h : decide (r.toNat < 56) = true) : SrcOk s r := Or.inl (of_decide_eq_true h)

theorem srcs_low {s : State} {l : List (BitVec 6)} (h : l.all (fun a => decide (a.toNat < 56)) = true) : ∀ a ∈ l, SrcOk s a :=
  fun a m => src_low (List.all_eq_true.mp h a m)

theorem src_port {s : State} {r : BitVec 6} (h : decide (isPort r = true ∧ s.me.priv ≠ 0 ∧ (s.portHead r.toNat).isSome = true) = true) :
    SrcOk s r := Or.inr (of_decide_eq_true h)

theorem dst_low {r : BitVec 6} (h : decide (r.toNat < 56) = true) : DstOk r :=
  (of_decide_eq_true h : r.toNat < 56)

theorem vsrc_low {s : State} {f : BitVec 7} (h : decide (isChan f = false ∧ f.toNat < s.me.budget) = true) : VSrcOk s f :=
  Or.inl (of_decide_eq_true h)

theorem vsrcs_low {s : State} {l : List (BitVec 7)} (h : l.all (fun f => decide (isChan f = false ∧ f.toNat < s.me.budget)) = true) :
    ∀ f ∈ l, VSrcOk s f := fun f m => vsrc_low (List.all_eq_true.mp h f m)

theorem vsrc_chan {s : State} {f : BitVec 7} (h : decide (isChan f = true ∧ s.chanRead (chanIndex f) = (none, false)) = true) : VSrcOk s f :=
  Or.inr (of_decide_eq_true h)

theorem vdst_low {s : State} {l : List (BitVec 7)} {f : BitVec 7} (h : decide (isChan f = false ∧ f.toNat < s.me.budget) = true) :
    VDstOk s l f := Or.inl (of_decide_eq_true h)

theorem vdst_chan {s : State} {l : List (BitVec 7)} {f : BitVec 7}
    (h : decide (isChan f = true ∧ s.chanWrite (chanIndex f) ((Use.readChans { vr := l }).contains (chanIndex f)) = (none, false)) = true) :
    VDstOk s l f := Or.inr (of_decide_eq_true h)

/-! ## Ill-formed terms: what each check of WellFormed.lean refuses, and beside it what it lets pass -/

/-- 03 R60: an amount of 32 on 32 bits. -/
theorem test_ill_formed_shift32 :
    ([.shli 0 0 1 32, .shri 0 0 1 32, .sari 0 0 1 32, .rotri 0 0 1 32] : List Instr).map Instr.wellFormed = List.replicate 4 false ∧
    ([.shli 0 0 1 31, .shri 0 0 1 31, .sari 0 0 1 31, .rotri 0 0 1 31] : List Instr).map Instr.wellFormed = List.replicate 4 true := by decide

/-- 03 R62, 05 R105. -/
theorem test_ill_formed_loadsize :
    ([.sld 0 7 0 0 0, .vldIndexed 0 0 0 0 5, .vldUnit 0 0 0 5, .vldBroadcast 0 0 0 5] : List Instr).map Instr.wellFormed = List.replicate 4 false ∧
    ([.sld 0 6 0 0 0, .vldIndexed 0 0 0 0 4, .vldUnit 0 0 0 4, .vldBroadcast 0 0 0 4] : List Instr).map Instr.wellFormed = List.replicate 4 true
      := by decide

/-- 03 R64, 04 R81, R92. -/
theorem test_ill_formed_condition :
    ([.br 6 0 0, .brr 6 0 0 0, .vcmp 6 0 0 0, .vfcmp 5 0 0 0] : List Instr).map Instr.wellFormed = List.replicate 4 false ∧
    ([.br 5 0 0, .brr 5 0 0 0, .vcmp 5 0 0 0, .vfcmp 4 0 0 0] : List Instr).map Instr.wellFormed = List.replicate 4 true := by decide

/-- 01 R15: K = 1 without a channel. -/
theorem test_ill_formed_peek :
    ([.vadd 0 63 63 1, .vsub 0 63 63 1, .vmul 0 63 63 1, .vmulh 0 63 63 1, .vmulhn 0 63 63 1, .vmin 0 63 63 1, .vmax 0 63 63 1, .vminn 0 63 63
      1, .vmaxn 0 63 63 1, .vand 0 63 63 1, .vor 0 63 63 1, .vxor 0 63 63 1, .vshl 0 63 63 1, .vshr 0 63 63 1, .vsar 0 63 63 1, .vabsd 0 63 63 1,
      .vperm 0 63 63 1, .vfadd 0 63 63 1, .vfsub 0 63 63 1, .vfmul 0 63 63 1] : List Instr).map Instr.wellFormed = List.replicate 20 false ∧
    ([.vadd 0 64 63 1, .vsub 0 64 63 1, .vmul 0 64 63 1, .vmulh 0 64 63 1, .vmulhn 0 64 63 1, .vmin 0 64 63 1, .vmax 0 64 63 1, .vminn 0 64 63
      1, .vmaxn 0 64 63 1, .vand 0 64 63 1, .vor 0 64 63 1, .vxor 0 64 63 1, .vshl 0 64 63 1, .vshr 0 64 63 1, .vsar 0 64 63 1, .vabsd 0 64 63 1,
      .vperm 0 64 63 1, .vfadd 0 64 63 1, .vfsub 0 64 63 1, .vfmul 0 64 63 1] : List Instr).map Instr.wellFormed = List.replicate 20 true := by
      decide

/-- 01 R15: K = 1 without a channel. -/
theorem test_ill_formed_peek_1 :
    ([.vfmin 0 63 63 1, .vfmax 0 63 63 1, .vfabs 0 63 1, .vfneg 0 63 1, .vfrcp 0 63 1, .vfrsq 0 63 1, .vfsqrt 0 63 1, .vfexp2 0 63 1, .vflog2 0
      63 1, .vfsin 0 63 1, .vfcos 0 63 1, .vfscale 0 63 63 1, .vfclass 0 63 1] : List Instr).map Instr.wellFormed = List.replicate 13 false ∧
    ([.vfmin 0 64 63 1, .vfmax 0 64 63 1, .vfabs 0 64 1, .vfneg 0 64 1, .vfrcp 0 64 1, .vfrsq 0 64 1, .vfsqrt 0 64 1, .vfexp2 0 64 1, .vflog2 0
      64 1, .vfsin 0 64 1, .vfcos 0 64 1, .vfscale 0 64 63 1, .vfclass 0 64 1] : List Instr).map Instr.wellFormed = List.replicate 13 true := by
      decide

/-- 04 R85. -/
theorem test_ill_formed_half :
    ([.vbcast 0 0 2, .vadds 0 0 0 2, .vmuls 0 0 0 2, .vmulhns 0 0 0 2, .vshls 0 0 0 2, .vshrs 0 0 0 2, .vlaneid 0 0 2, .vinsl 0 0 0 2] : List
      Instr).map Instr.wellFormed = List.replicate 8 false ∧
    ([.vbcast 0 0 1, .vadds 0 0 0 1, .vmuls 0 0 0 1, .vmulhns 0 0 0 1, .vshls 0 0 0 1, .vshrs 0 0 0 1, .vlaneid 0 0 1, .vinsl 0 0 0 1] : List
      Instr).map Instr.wellFormed = List.replicate 8 true := by decide

/-- 04 R86. -/
theorem test_ill_formed_exchange :
    ([.vxch 0 0 3] : List Instr).map Instr.wellFormed = List.replicate 1 false ∧
    ([.vxch 0 0 16] : List Instr).map Instr.wellFormed = List.replicate 1 true := by decide

/-- 04 R86. -/
theorem test_ill_formed_lane :
    ([.vextl 0 0 32] : List Instr).map Instr.wellFormed = List.replicate 1 false ∧
    ([.vextl 0 0 31] : List Instr).map Instr.wellFormed = List.replicate 1 true := by decide

/-- 04 R88. -/
theorem test_ill_formed_group :
    ([.vgadd 0 0 1, .vgmax 0 0 1, .vgmaxn 0 0 1, .vgor 0 0 1, .vscan 0 0 1] : List Instr).map Instr.wellFormed = List.replicate 5 false ∧
    ([.vgadd 0 0 32, .vgmax 0 0 32, .vgmaxn 0 0 32, .vgor 0 0 32, .vscan 0 0 32] : List Instr).map Instr.wellFormed = List.replicate 5 true :=
      by decide

/-- 04 R93. -/
theorem test_ill_formed_rounding :
    ([.vcvtF32I32 0 0 6, .vcvtI32F32 0 0 6, .vcvtF32N32 0 0 6, .vcvtN32F32 0 0 6, .vcvtNfF32 0 0 0 6, .vcvtF32Nf 0 0 0 6, .vcvtRint 0 0 6] :
      List Instr).map Instr.wellFormed = List.replicate 7 false ∧
    ([.vcvtF32I32 0 0 5, .vcvtI32F32 0 0 5, .vcvtF32N32 0 0 5, .vcvtN32F32 0 0 5, .vcvtNfF32 0 0 0 5, .vcvtF32Nf 0 0 0 5, .vcvtRint 0 0 5] :
      List Instr).map Instr.wellFormed = List.replicate 7 true := by decide

/-- 04 R93: a channel as the source of a packing conversion. -/
theorem test_ill_formed_packsource :
    ([.vcvtBf16F32 0 64 5, .vcvtF16F32 0 64 5] : List Instr).map Instr.wellFormed = List.replicate 2 false ∧
    ([.vcvtBf16F32 0 63 5, .vcvtF16F32 0 63 5] : List Instr).map Instr.wellFormed = List.replicate 2 true := by decide

/-- 05 R105: a store of a signed size. -/
theorem test_ill_formed_storesize :
    ([.vstIndexed 0 0 0 0 1, .vstUnit 0 0 0 1, .vstnt 0 0 1] : List Instr).map Instr.wellFormed = List.replicate 3 false ∧
    ([.vstIndexed 0 0 0 0 4, .vstUnit 0 0 0 4, .vstnt 0 0 4] : List Instr).map Instr.wellFormed = List.replicate 3 true := by decide

/-- 01 R19: scopes 6 and 7. -/
theorem test_ill_formed_scope :
    ([.vatmAdd 0 0 0 6 0, .vatmMin 0 0 0 6 0, .vatmMax 0 0 0 6 0, .vatmMinn 0 0 0 6 0, .vatmMaxn 0 0 0 6 0, .vatmXchg 0 0 0 6 0, .vatmCas 0 0 0
      6 0, .vatmFadd 0 0 0 6 0, .vatmAnd 0 0 0 6 0, .vatmOr 0 0 0 6 0, .vatmXor 0 0 0 6 0, .vatmIncw 0 0 0 6 0, .vatmDecw 0 0 0 6 0, .satmAdd 0 0
      0 6 0, .satmMin 0 0 0 6 0, .satmMax 0 0 0 6 0, .satmXchg 0 0 0 6 0, .satmCas 0 0 0 6 0, .satmAnd 0 0 0 6 0, .satmOr 0 0 0 6 0] : List
      Instr).map Instr.wellFormed = List.replicate 20 false ∧
    ([.vatmAdd 0 0 0 5 0, .vatmMin 0 0 0 5 0, .vatmMax 0 0 0 5 0, .vatmMinn 0 0 0 5 0, .vatmMaxn 0 0 0 5 0, .vatmXchg 0 0 0 5 0, .vatmCas 0 0 0
      5 0, .vatmFadd 0 0 0 5 0, .vatmAnd 0 0 0 5 0, .vatmOr 0 0 0 5 0, .vatmXor 0 0 0 5 0, .vatmIncw 0 0 0 5 0, .vatmDecw 0 0 0 5 0, .satmAdd 0 0
      0 5 0, .satmMin 0 0 0 5 0, .satmMax 0 0 0 5 0, .satmXchg 0 0 0 5 0, .satmCas 0 0 0 5 0, .satmAnd 0 0 0 5 0, .satmOr 0 0 0 5 0] : List
      Instr).map Instr.wellFormed = List.replicate 20 true := by decide

/-- 01 R19: scopes 6 and 7. -/
theorem test_ill_formed_scope_1 :
    ([.satmXor 0 0 0 6 0, .pub 6, .acq 6, .pubacq 6, .drain 6, .clean 6 0, .inval 6 0] : List Instr).map Instr.wellFormed = List.replicate 7 false ∧
    ([.satmXor 0 0 0 5 0, .pub 5, .acq 5, .pubacq 5, .drain 5, .clean 5 0, .inval 5 0] : List Instr).map Instr.wellFormed = List.replicate 7
      true := by decide

/-- 09 R178. -/
theorem test_ill_formed_rawdest :
    ([.areadRaw 64 0 0 0] : List Instr).map Instr.wellFormed = List.replicate 1 false ∧
    ([.areadRaw 63 0 0 0] : List Instr).map Instr.wellFormed = List.replicate 1 true := by decide

/-- 08 R167. -/
theorem test_ill_formed_range :
    ([.arange 0 40] : List Instr).map Instr.wellFormed = List.replicate 1 false ∧
    ([.arange 0 41] : List Instr).map Instr.wellFormed = List.replicate 1 true := by decide

/-- 01 R21: engine 3. -/
theorem test_ill_formed_engine :
    ([.seal 0 3, .waitb 3 0, .testb 0 3] : List Instr).map Instr.wellFormed = List.replicate 3 false ∧
    ([.seal 0 2, .waitb 2 0, .testb 0 2] : List Instr).map Instr.wellFormed = List.replicate 3 true := by decide

/-- 19 R325. -/
theorem test_ill_formed_tlbscope :
    ([.tlbinv 5 0 0] : List Instr).map Instr.wellFormed = List.replicate 1 false ∧
    ([.tlbinv 4 0 0] : List Instr).map Instr.wellFormed = List.replicate 1 true := by decide

/-- 01 R28. -/
theorem test_ill_formed_hintmod :
    ([.hintMod 0 4] : List Instr).map Instr.wellFormed = List.replicate 1 false ∧
    ([.hintMod 0 7] : List Instr).map Instr.wellFormed = List.replicate 1 true := by decide


/-! ## Single steps: results calculated by hand from the rules (03 R59 to R75, 04, 05 R115 to R117, 15 R265) -/

/-- Register k after the instruction i from these registers. -/
noncomputable def after (i : Instr) (l : List (Nat × W64)) (k : Nat) : Nat := ((ran (encode i).toNat l).me.s[k]?.getD 0).toNat

/-- The PC after it; the word stands at 0x10000. -/
noncomputable def pcAfter (i : Instr) (l : List (Nat × W64)) : Nat := (ran (encode i).toNat l).me.pc.toNat

theorem test_add_wraps : after (.add 5 3 4 0) [(3, 0xffffffffffffffff), (4, 2)] 5 = 1 := by decide

theorem test_add_word_extends : after (.add 5 3 4 1) [(3, 0x17fffffff), (4, 1)] 5 = 0xffffffff80000000 := by decide

theorem test_sub_wraps : after (.sub 5 3 4 0) [(3, 0), (4, 1)] 5 = 0xffffffffffffffff := by decide

theorem test_and : after (.and 5 3 4 0) [(3, 0xF0F0), (4, 0xFF00)] 5 = 0xF000 := by decide

theorem test_or : after (.or 5 3 4 0) [(3, 0xF0F0), (4, 0xFF00)] 5 = 0xFFF0 := by decide

theorem test_xor_same : after (.xor 3 3 3 0) [(3, 0xF0F0)] 3 = 0 := by decide

theorem test_andn : after (.andn 5 3 4 0) [(3, 0xF0F0), (4, 0xFF00)] 5 = 0xF0 := by decide

theorem test_shl_amount_mod : after (.shl 5 3 4 0) [(3, 3), (4, 65)] 5 = 6 := by decide

theorem test_shr_word : after (.shr 5 3 4 1) [(3, 0xFFFFFFFF80000000), (4, 31)] 5 = 1 := by decide

theorem test_sar_sign : after (.sar 5 3 4 0) [(3, 0x8000000000000000), (4, 63)] 5 = 0xffffffffffffffff := by decide

theorem test_mul_low : after (.mul 5 3 4 0) [(3, 0xffffffffffffffff), (4, 3)] 5 = 0xfffffffffffffffd := by decide

theorem test_mulh_signed : after (.mulh 5 3 4 0) [(3, 0xffffffffffffffff), (4, 3)] 5 = 0xffffffffffffffff := by decide

theorem test_mulhn_unsigned : after (.mulhn 5 3 4 0) [(3, 0xffffffffffffffff), (4, 3)] 5 = 2 := by decide

theorem test_min_signed : after (.min 5 3 4 0) [(3, 0xffffffffffffffff), (4, 1)] 5 = 0xffffffffffffffff := by decide

theorem test_max_signed : after (.max 5 3 4 0) [(3, 0xffffffffffffffff), (4, 1)] 5 = 1 := by decide

theorem test_minn_unsigned : after (.minn 5 3 4 0) [(3, 0xffffffffffffffff), (4, 1)] 5 = 1 := by decide

theorem test_maxn_unsigned : after (.maxn 5 3 4 0) [(3, 0xffffffffffffffff), (4, 1)] 5 = 0xffffffffffffffff := by decide

theorem test_slt : after (.slt 5 3 4 0) [(3, 0xffffffffffffffff), (4, 1)] 5 = 1 := by decide

theorem test_sltn : after (.sltn 5 3 4 0) [(3, 0xffffffffffffffff), (4, 1)] 5 = 0 := by decide

theorem test_seq_word : after (.seq 5 3 4 1) [(3, 0x100000007), (4, 7)] 5 = 1 := by decide

theorem test_sne : after (.sne 5 3 4 0) [(3, 0x100000007), (4, 7)] 5 = 1 := by decide

theorem test_div_zero : after (.div 5 3 4 0) [(3, 7), (4, 0)] 5 = 0xffffffffffffffff := by decide

theorem test_div_overflow : after (.div 5 3 4 1) [(3, 0x80000000), (4, 0xffffffffffffffff)] 5 = 0xffffffff80000000 := by decide

theorem test_divn : after (.divn 5 3 4 0) [(3, 0xffffffffffffffff), (4, 2)] 5 = 0x7fffffffffffffff := by decide

theorem test_rem_sign : after (.rem 5 3 4 0) [(3, 0xfffffffffffffff9), (4, 2)] 5 = 0xffffffffffffffff := by decide

theorem test_remn_zero : after (.remn 5 3 4 0) [(3, 9), (4, 0)] 5 = 9 := by decide

theorem test_clz_zero : after (.clz 5 3 1) [(3, 0xFFFFFFFF00000000)] 5 = 32 := by decide

theorem test_ctz : after (.ctz 5 3 0) [(3, 0x100)] 5 = 8 := by decide

theorem test_popc_word : after (.popc 5 3 1) [(3, 0xF0000000F)] 5 = 4 := by decide

theorem test_bext : after (.bext 5 3 4 0) [(3, 0xABCD), (4, 0x204)] 5 = 0xBC := by decide

theorem test_bins : after (.bins 5 3 4 0) [(5, 0xFFFF), (3, 0x2), (4, 0x204)] 5 = 0xF02F := by decide

theorem test_addi_negative : after (.addi 2 2 (-64)) [(2, 64)] 2 = 0 := by decide

theorem test_andi : after (.andi 2 3 (-16)) [(3, 0x1F)] 2 = 0x10 := by decide

theorem test_ori : after (.ori 2 3 1) [(3, 0x1E)] 2 = 0x1F := by decide

theorem test_xori_all : after (.xori 2 3 (-1)) [(3, 0)] 2 = 0xffffffffffffffff := by decide

theorem test_shli : after (.shli 5 4 0 3) [(4, 0x4000000000000001)] 5 = 8 := by decide

theorem test_shri : after (.shri 5 4 0 63) [(4, 0x8000000000000000)] 5 = 1 := by decide

theorem test_sari_word : after (.sari 5 4 1 31) [(4, 0x80000000)] 5 = 0xffffffffffffffff := by decide

theorem test_rotri : after (.rotri 5 4 0 4) [(4, 0x1F)] 5 = 0xF000000000000001 := by decide

theorem test_slti : after (.slti 5 4 (-1)) [(4, 0xfffffffffffffffe)] 5 = 1 := by decide

theorem test_sltni_minus_one : after (.sltni 5 4 (-1)) [(4, 5)] 5 = 1 := by decide

theorem test_li : after (.li 5 (-1)) [] 5 = 0xffffffffffffffff := by decide

theorem test_addpc : after (.addpc 6 16) [] 6 = 0x10040 := by decide

theorem test_zero_register : after (.addi 0 2 1) [(2, 7)] 0 = 0 := by decide

theorem test_mcount : after (.mcount 0 3) [] 3 = 32 := by decide

theorem test_mfirst : after (.mfirst 1 3) [] 3 = 32 := by decide

theorem test_mto : after (.mto 0 3) [] 3 = 0xFFFFFFFF := by decide

theorem test_br_taken : pcAfter (.br 1 9 (-3)) [(9, 1)] = 0xfff4 := by decide

theorem test_br_not : pcAfter (.br 1 9 (-3)) [] = 0x10004 := by decide

theorem test_brr_unsigned : pcAfter (.brr 4 3 4 5) [(3, 1), (4, 0xffffffffffffffff)] = 0x10014 := by decide

theorem test_j : pcAfter (.j (-1)) [] = 0xFFFC := by decide

theorem test_call : pcAfter (.call 64) [] = 0x10100 ∧ after (.call 64) [] 1 = 0x10004 := by decide

theorem test_jr : pcAfter (.jr 9) [(9, 0x20000)] = 0x20000 := by decide

theorem test_callr_same : pcAfter (.callr 1) [(1, 0x20000)] = 0x20000 ∧ after (.callr 1) [(1, 0x20000)] 1 = 0x10004 := by decide

theorem test_ret : pcAfter (.ret) [(1, 0x30000)] = 0x30000 := by decide

theorem test_nop : pcAfter (.nop) [] = 0x10004 := by decide

theorem test_mif_all : (ran (encode (.mif 2 2)).toNat []).me.pc = 0x10008 ∧ (ran (encode (.mif 2 2)).toNat []).me.m[0]? = some 0xFFFFFFFF := by decide

theorem test_mfrom : (ran (encode (.mfrom 3 5)).toNat [(5, 0x1F0000000A)]).me.m[3]? = some 0xA := by decide

theorem test_mnot : (ran (encode (.mnot 3 0)).toNat []).me.m[3]? = some 0 := by decide

theorem test_exit : (ran (encode .exit).toNat []).me.run = .exited := by decide

theorem test_trap_halts : (ran (encode (.trap 7)).toNat []).me.run = .halted := by decide

theorem test_ill_halts : (ran 0xFFFFFFFF []).me.run = .halted := by decide

theorem test_tmask : (ran (encode .tmask).toNat []).me.tmasked = true := by decide

theorem test_vmovi : ((ran (encode (.vmovi 7 (-1))).toNat []).me.v[7]?.getD (Vec.splat 0))[31]? = some 0xFFFFFFFF := by decide

theorem test_vbcast : ((ran (encode (.vbcast 2 9 0)).toNat [(9, 0x123456789)]).me.v[2]?.getD (Vec.splat 0))[5]? = some 0x23456789 := by decide

theorem test_vlaneid : ((ran (encode (.vlaneid 5 0 0)).toNat []).me.v[5]?.getD (Vec.splat 0))[31]? = some 31 := by decide

theorem test_vaddi : ((ran (encode (.vaddi 1 1 (-1))).toNat []).me.v[1]?.getD (Vec.splat 0))[0]? = some 0xFFFFFFFF := by decide

/-! ## Every row of the opcode table: a word with its fixed bits and a value in each field (01 R22, 15 R265; spec/opcode_table.json) -/

theorem test_decode_major_00 :
    decode 0x00008005 = .ill 32773  := by decide

theorem test_decode_major_01 :
    decode 0x04137671 = .add 19 29 39 1 ∧
    decode 0x046FE431 = .sub 47 57 3 1 ∧
    decode 0x048B55F1 = .and 11 21 31 1 ∧
    decode 0x04E7C7B1 = .or 39 49 59 1 ∧
    decode 0x05033571 = .xor 3 13 23 1 ∧
    decode 0x055FA731 = .andn 31 41 51 1 ∧
    decode 0x05BB14F1 = .shl 59 5 15 1 ∧
    decode 0x05D786B1 = .shr 23 33 43 1 ∧
    decode 0x0633F471 = .sar 51 61 7 1 ∧
    decode 0x064F6631 = .mul 15 25 35 1 ∧
    decode 0x06ABD7F1 = .mulh 43 53 63 1 ∧
    decode 0x06C745B1 = .mulhn 7 17 27 1 := by
  refine ⟨?_, ?_, ?_, ?_, ?_, ?_, ?_, ?_, ?_, ?_, ?_, ?_⟩ <;> decide

theorem test_decode_major_01_1 :
    decode 0x0723B771 = .min 35 45 55 1 ∧
    decode 0x077F2531 = .max 63 9 19 1 ∧
    decode 0x079B96F1 = .minn 27 37 47 1 ∧
    decode 0x07F704B1 = .maxn 55 1 11 1 := by
  refine ⟨?_, ?_, ?_, ?_⟩ <;> decide

theorem test_decode_major_02 :
    decode 0x08137671 = .slt 19 29 39 1 ∧
    decode 0x086FE431 = .sltn 47 57 3 1 ∧
    decode 0x088B55F1 = .seq 11 21 31 1 ∧
    decode 0x08E7C7B1 = .sne 39 49 59 1 ∧
    decode 0x09033571 = .div 3 13 23 1 ∧
    decode 0x095FA731 = .divn 31 41 51 1 ∧
    decode 0x09BB14F1 = .rem 59 5 15 1 ∧
    decode 0x09D786B1 = .remn 23 33 43 1 ∧
    decode 0x0A33F401 = .clz 51 61 1 ∧
    decode 0x0A484801 = .ctz 8 18 1 ∧
    decode 0x0A9D9C01 = .popc 29 39 1 ∧
    decode 0x0AF2F061 = .bext 50 60 6 1 := by
  refine ⟨?_, ?_, ?_, ?_, ?_, ?_, ?_, ?_, ?_, ?_, ?_, ?_⟩ <;> decide

theorem test_decode_major_02_1 :
    decode 0x0B0E6221 = .bins 14 24 34 1  := by decide

theorem test_decode_major_03 :
    decode 0x0EAD166B = .addi 42 52 5739  := by decide

theorem test_decode_major_04 :
    decode 0x13F27672 = .andi 63 9 13938  := by decide

theorem test_decode_major_05 :
    decode 0x15479679 = .ori 20 30 5753  := by decide

theorem test_decode_major_06 :
    decode 0x1A9CF680 = .xori 41 51 13952  := by decide

theorem test_decode_major_07 :
    decode 0x1FE2005C = .shli 62 8 1 28 ∧
    decode 0x1DA91078 = .shri 26 36 1 56 ∧
    decode 0x1F6FE054 = .sari 54 63 1 20 ∧
    decode 0x1D273070 = .rotri 18 28 1 48 := by
  refine ⟨?_, ?_, ?_, ?_⟩ <;> decide

theorem test_decode_major_08 :
    decode 0x22EE0157 = .slti 46 56 343  := by decide

theorem test_decode_major_09 :
    decode 0x2433615E = .sltni 3 13 8542  := by decide

theorem test_decode_major_0A :
    decode 0x298C16B7 = .li 24 792247  := by decide

theorem test_decode_major_0B :
    decode 0x2E6CAC11 = .addpc 38 830481  := by decide

theorem test_decode_major_0C :
    decode 0x3388485C = .sld 1 6 8 18 92  := by decide

theorem test_decode_major_0D :
    decode 0x366BD47F = .sst 1 1 43 53 127  := by decide

theorem test_decode_major_0E :
    decode 0x3A8496DB = .br 10 4 38619  := by decide

theorem test_decode_major_0F :
    decode 0x3FD98CAD = .brr 15 25 35 173  := by decide

theorem test_decode_major_10 :
    decode 0x4031CC3A = .j 3263546  := by decide

theorem test_decode_major_11 :
    decode 0x443216E7 = .call 3282663  := by decide

theorem test_decode_major_12 :
    decode 0x4800E400 = .jr 57 ∧
    decode 0x4840FC00 = .callr 63 ∧
    decode 0x48800400 = .ret := by
  refine ⟨?_, ?_, ?_⟩ <;> decide

theorem test_decode_major_13 :
    decode 0x4C38619C = .mif 7 24988 ∧
    decode 0x4C408C48 = .melse 35912 ∧
    decode 0x4C800000 = .mend ∧
    decode 0x4CC0D6F5 = .mpush 55029 ∧
    decode 0x4D180000 = .mlimit 3 ∧
    decode 0x4D400000 = .mpop ∧
    decode 0x4D90D6FD = .bany 2 55037 ∧
    decode 0x4DF86C57 = .ball 7 27735 ∧
    decode 0x4E3001B1 = .bnone 6 433 := by
  refine ⟨?_, ?_, ?_, ?_, ?_, ?_, ?_, ?_, ?_⟩ <;> decide

theorem test_decode_major_14 :
    decode 0x5026E000 = .mand 4 6 7 ∧
    decode 0x504BA000 = .mor 1 3 5 ∧
    decode 0x50B74000 = .mxor 6 7 2 ∧
    decode 0x50DDE000 = .mandn 3 5 7 ∧
    decode 0x513A0000 = .mnot 7 2 ∧
    decode 0x51770000 = .mmov 6 7 ∧
    decode 0x51A00700 = .mfrom 4 14 ∧
    decode 0x51C20E00 = .mto 2 28 ∧
    decode 0x52071500 = .mcount 7 42 ∧
    decode 0x52461C00 = .mfirst 6 56 := by
  refine ⟨?_, ?_, ?_, ?_, ?_, ?_, ?_, ?_, ?_, ?_⟩ <;> decide

theorem test_decode_major_15 :
    decode 0x54000000 = .nop ∧
    decode 0x54100000 = .exit ∧
    decode 0x542D2C95 = .trap 863381 ∧
    decode 0x54300000 = .tret ∧
    decode 0x544D7742 = .brk 882498 ∧
    decode 0x545281D4 = .sread 10 468 ∧
    decode 0x546601E2 = .swrite 24 482 ∧
    decode 0x54700000 = .tmask ∧
    decode 0x54800000 = .tunmask ∧
    decode 0x54900000 = .yield ∧
    decode 0x54A98000 = .sleep 38 := by
  refine ⟨?_, ?_, ?_, ?_, ?_, ?_, ?_, ?_, ?_, ?_, ?_⟩ <;> decide

theorem test_decode_major_18 :
    decode 0x6036F703 = .vadd 109 119 1 1 ∧
    decode 0x6044933B = .vsub 9 19 29 1 ∧
    decode 0x6092AF73 = .vmul 37 47 57 1 ∧
    decode 0x60E0CBAB = .vmulh 65 75 85 1 ∧
    decode 0x612EE7E3 = .vmulhn 93 103 113 1 ∧
    decode 0x617C831B = .vmin 121 3 13 1 ∧
    decode 0x618A9F53 = .vmax 21 31 41 1 ∧
    decode 0x61D8BB8B = .vminn 49 59 69 1 ∧
    decode 0x6226D7C3 = .vmaxn 77 87 97 1 ∧
    decode 0x6274F3FB = .vand 105 115 125 1 ∧
    decode 0x62828F33 = .vor 5 15 25 1 ∧
    decode 0x62D0AB6B = .vxor 33 43 53 1 := by
  refine ⟨?_, ?_, ?_, ?_, ?_, ?_, ?_, ?_, ?_, ?_, ?_, ?_⟩ <;> decide

theorem test_decode_major_18_1 :
    decode 0x631EC7A3 = .vshl 61 71 81 1 ∧
    decode 0x636CE3DB = .vshr 89 99 109 1 ∧
    decode 0x63BAFF13 = .vsar 117 127 9 1 ∧
    decode 0x63C89B4B = .vabsd 17 27 37 1 := by
  refine ⟨?_, ?_, ?_, ?_⟩ <;> decide

theorem test_decode_major_19 :
    decode 0x66F832C0 = .vcmp 5 7 65 75  := by decide

theorem test_decode_major_1A :
    decode 0x68253767 = .vmad 9 19 29 39 ∧
    decode 0x6996FE43 = .vfsl 37 47 57 3 ∧
    decode 0x6A04B55F = .vfsr 1 11 21 31 ∧
    decode 0x6B767C7B = .vbsel 29 39 49 59 := by
  refine ⟨?_, ?_, ?_, ?_⟩ <;> decide

theorem test_decode_major_1B :
    decode 0x6CE43357 = .vfma 57 3 13 23 ∧
    decode 0x6D55FA73 = .vfms 21 31 41 51 ∧
    decode 0x6EC7B14F = .vfnma 49 59 5 15 := by
  refine ⟨?_, ?_, ?_⟩ <;> decide

theorem test_decode_major_1C :
    decode 0x700697A1 = .vaddi 13 23 161 ∧
    decode 0x70512CB6 = .vandi 34 44 182 ∧
    decode 0x709BC1CB = .vori 55 65 203 ∧
    decode 0x70E656E0 = .vxori 76 86 224 ∧
    decode 0x7130EBF5 = .vshli 97 107 245 ∧
    decode 0x717B7F0A = .vshri 118 127 10 ∧
    decode 0x7185951F = .vsari 11 21 31 ∧
    decode 0x71D0002A = .vmovi 32 42 := by
  refine ⟨?_, ?_, ?_, ?_, ?_, ?_, ?_, ?_⟩ <;> decide

theorem test_decode_major_1D :
    decode 0x741700E2 = .vbcast 46 56 2 ∧
    decode 0x7461CD5D = .vadds 67 77 23 1 ∧
    decode 0x74AFE9CD = .vmuls 95 105 51 1 ∧
    decode 0x74FD853D = .vmulhns 123 5 15 1 ∧
    decode 0x750BA1AD = .vshls 23 33 43 1 ∧
    decode 0x7559BD1D = .vshrs 51 61 7 1 ∧
    decode 0x75A78067 = .vlaneid 79 25 3 := by
  refine ⟨?_, ?_, ?_, ?_, ?_, ?_, ?_⟩ <;> decide

theorem test_decode_major_1E :
    decode 0x78326EF8 = .vxch 100 110 248 ∧
    decode 0x787C830D = .vrot 121 3 13 ∧
    decode 0x78871845 = .vperm 14 24 34 1 ∧
    decode 0x78D5343E = .vextl 42 52 62 ∧
    decode 0x791F894D = .vinsl 63 9 19 1 := by
  refine ⟨?_, ?_, ?_, ?_, ?_⟩ <;> decide

theorem test_decode_major_1F :
    decode 0x7C0DE500 = .vradd 27 101 ∧
    decode 0x7C54F300 = .vrmax 41 115 ∧
    decode 0x7C9B8100 = .vrmin 55 1 ∧
    decode 0x7CC28F00 = .vrmaxn 5 15 ∧
    decode 0x7D099D00 = .vrfadd 19 29 ∧
    decode 0x7D50AB00 = .vrfmax 33 43 ∧
    decode 0x7E17B9C3 = .vgadd 47 57 195 ∧
    decode 0x7E624ED8 = .vgmax 68 78 216 ∧
    decode 0x7EACE3ED = .vgmaxn 89 99 237 ∧
    decode 0x7EF77802 = .vgor 110 120 2 ∧
    decode 0x7F018D17 = .vscan 3 13 23 := by
  refine ⟨?_, ?_, ?_, ?_, ?_, ?_, ?_, ?_, ?_, ?_, ?_⟩ <;> decide

theorem test_decode_major_20 :
    decode 0x800C2259 = .vfadd 24 34 44 1 ∧
    decode 0x805A3E91 = .vfsub 52 62 72 1 ∧
    decode 0x80A85AC9 = .vfmul 80 90 100 1 ∧
    decode 0x80F676FF = .vfmin 108 118 127 1 ∧
    decode 0x81041239 = .vfmax 8 18 28 1 ∧
    decode 0x81522E01 = .vfabs 36 46 1 ∧
    decode 0x819CC301 = .vfneg 57 67 1 ∧
    decode 0x81E75801 = .vfrcp 78 88 1 ∧
    decode 0x8231ED01 = .vfrsq 99 109 1 ∧
    decode 0x827C0201 = .vfsqrt 120 2 1 ∧
    decode 0x82869701 = .vfexp2 13 23 1 ∧
    decode 0x82D12C01 = .vflog2 34 44 1 := by
  refine ⟨?_, ?_, ?_, ?_, ?_, ?_, ?_, ?_, ?_, ?_, ?_, ?_⟩ <;> decide

theorem test_decode_major_20_1 :
    decode 0x831BC101 = .vfsin 55 65 1 ∧
    decode 0x83665601 = .vfcos 76 86 1 ∧
    decode 0x83B0EBEB = .vfscale 97 107 117 1 ∧
    decode 0x83FE8701 = .vfclass 125 7 1 := by
  refine ⟨?_, ?_, ?_, ?_⟩ <;> decide

theorem test_decode_major_21 :
    decode 0x8544CC00 = .vfcmp 2 4 38 48  := by decide

theorem test_decode_major_22 :
    decode 0x880B9C04 = .vcvtF32I32 46 56 2 ∧
    decode 0x8830E68E = .vcvtI32F32 67 77 7 ∧
    decode 0x88563108 = .vcvtF32N32 88 98 4 ∧
    decode 0x887B7B82 = .vcvtN32F32 109 119 1 ∧
    decode 0x8880860C = .vcvtBf16F32 2 12 6 ∧
    decode 0x88A5D090 = .vcvtF32Bf16 23 33 1 ∧
    decode 0x88CB1B0E = .vcvtF16F32 44 54 7 ∧
    decode 0x88F06590 = .vcvtF32F16 65 75 1 ∧
    decode 0x8915B028 = .vcvtNfF32 86 96 2 4 ∧
    decode 0x893CBE6E = .vcvtF32Nf 114 124 6 7 ∧
    decode 0x89438C04 = .vcvtRint 14 24 2 := by
  refine ⟨?_, ?_, ?_, ?_, ?_, ?_, ?_, ?_, ?_, ?_, ?_⟩ <;> decide

theorem test_decode_major_24 :
    decode 0x922DDE0B = .vldIndexed 1 45 55 65 3 ∧
    decode 0x92D06804 = .vldUnit 1 80 26 4 ∧
    decode 0x936CD807 = .vldBroadcast 1 108 54 7 := by
  refine ⟨?_, ?_, ?_⟩ <;> decide

theorem test_decode_major_25 :
    decode 0x960848E6 = .vstIndexed 1 8 18 28 6 ∧
    decode 0x96ABD407 = .vstUnit 1 43 53 7 ∧
    decode 0x953D1C01 = .vstnt 61 7 1 ∧
    decode 0x97DC9B84 = .vstbm 1 92 38 112 := by
  refine ⟨?_, ?_, ?_, ?_⟩ <;> decide

theorem test_decode_major_26 :
    decode 0x985DC052 = .vatmAdd 46 56 2 4 2 ∧
    decode 0x98A2DCBD = .vatmMin 17 27 37 7 1 ∧
    decode 0x9969F10B = .vatmMax 52 62 8 2 3 ∧
    decode 0x99AF0D77 = .vatmMinn 23 33 43 5 3 ∧
    decode 0x9A7421DE = .vatmMaxn 58 4 14 7 2 ∧
    decode 0x9ABB3E2D = .vatmXchg 29 39 49 3 1 ∧
    decode 0x9B7E529B = .vatmCas 63 10 20 6 3 ∧
    decode 0x9BC76EE7 = .vatmFadd 35 45 55 1 3 := by
  refine ⟨?_, ?_, ?_, ?_, ?_, ?_, ?_, ?_⟩ <;> decide

theorem test_decode_major_27 :
    decode 0x9C0C8352 = .vatmAnd 6 16 26 4 2 ∧
    decode 0x9CD39FBD = .vatmOr 41 51 61 7 1 ∧
    decode 0x9D18B40B = .vatmXor 12 22 32 2 3 ∧
    decode 0x9DDFC877 = .vatmIncw 47 57 3 5 3 ∧
    decode 0x9E24E4DE = .vatmDecw 18 28 38 7 2 := by
  refine ⟨?_, ?_, ?_, ?_, ?_⟩ <;> decide

theorem test_decode_major_28 :
    decode 0xA06BF92D = .satmAdd 53 63 9 3 1 ∧
    decode 0xA0B1159B = .satmMin 24 34 44 6 3 ∧
    decode 0xA17629E7 = .satmMax 59 5 15 1 3 ∧
    decode 0xA1BD4652 = .satmXchg 30 40 50 4 2 ∧
    decode 0xA2025ABD = .satmCas 1 11 21 7 1 ∧
    decode 0xA2C9770B = .satmAnd 36 46 56 2 3 ∧
    decode 0xA30E8B77 = .satmOr 7 17 27 5 3 ∧
    decode 0xA3D5A7DE = .satmXor 42 52 62 7 2 := by
  refine ⟨?_, ?_, ?_, ?_, ?_, ?_, ?_, ?_⟩ <;> decide

theorem test_decode_major_29 :
    decode 0xA40A0000 = .pub 5 ∧
    decode 0xA4180000 = .acq 4 ∧
    decode 0xA4260000 = .pubacq 3 ∧
    decode 0xA4340000 = .drain 2 ∧
    decode 0xA4439800 = .clean 1 51 ∧
    decode 0xA45E0800 = .inval 7 1 := by
  refine ⟨?_, ?_, ?_, ?_, ?_, ?_⟩ <;> decide

theorem test_decode_major_30 :
    decode 0xC051F27C = .mma 5 15 9 3 1 1 1 ∧
    decode 0xC0E8149C = .mmac 6 64 10 4 1 1 1 := by
  refine ⟨?_, ?_⟩ <;> decide

theorem test_decode_major_31 :
    decode 0xC4339B4F = .aread 103 1 11 1 15 ∧
    decode 0xC4454EC0 = .areadRaw 10 4 14 3 ∧
    decode 0xC4806000 = .azero 6 ∧
    decode 0xC4C05037 = .aanchor 5 55 ∧
    decode 0xC5003005 = .arange 3 5 ∧
    decode 0xC544B000 = .astat 9 3 := by
  refine ⟨?_, ?_, ?_, ?_, ?_, ?_⟩ <;> decide

theorem test_decode_major_32 :
    decode 0xC8174000 = .seal 23 1 ∧
    decode 0xC8407C00 = .waitb 1 15 ∧
    decode 0xC8B34000 = .testb 51 1 := by
  refine ⟨?_, ?_, ?_⟩ <;> decide

theorem test_decode_major_33 :
    decode 0xCC010000 = .gangset 1 ∧
    decode 0xCC400000 = .gangclr := by
  refine ⟨?_, ?_⟩ <;> decide

theorem test_decode_major_34 :
    decode 0xD0212726 = .cpg 8 18 28 38 ∧
    decode 0xD192EE02 = .cps 36 46 56 2 ∧
    decode 0xD2FCA51E = .cpm 63 10 20 30 ∧
    decode 0xD3726C3A = .cpx 28 38 48 58 := by
  refine ⟨?_, ?_, ?_, ?_⟩ <;> decide

theorem test_decode_major_35 :
    decode 0xD4202000 = .tinit 8 2 ∧
    decode 0xD4580000 = .twait 6 ∧
    decode 0xD4B40000 = .tpop 13 ∧
    decode 0xD4D1E000 = .tfilled 4 30 ∧
    decode 0xD5080000 = .tcommit 2 := by
  refine ⟨?_, ?_, ?_, ?_, ?_⟩ <;> decide

theorem test_decode_major_36 :
    decode 0xD8029CC0 = .barinit 41 51 ∧
    decode 0xD8437000 = .bararr 55 ∧
    decode 0xD883E200 = .barwait 62 8 ∧
    decode 0xD8C0C580 = .barexp 12 22 ∧
    decode 0xD9280000 = .barsync 10 ∧
    decode 0xD9400000 = .cbarsync := by
  refine ⟨?_, ?_, ?_, ?_, ?_, ?_⟩ <;> decide

theorem test_decode_major_37 :
    decode 0xDC21AC00 = .chbind 33 43 ∧
    decode 0xDC6F0000 = .chclose 47 ∧
    decode 0xDCB6FC00 = .chlen 54 63 := by
  refine ⟨?_, ?_, ?_⟩ <;> decide

theorem test_decode_major_38 :
    decode 0xE0043980 = .offerTake 4 14 24 ∧
    decode 0xE0198ED1 = .offerSpawn 25 35 45 ∧
    decode 0xE06EE020 = .withdraw 46 56 2 ∧
    decode 0xE0833573 = .sow 3 13 23 1 1 ∧
    decode 0xE0E6C004 = .take 38 48 2 ∧
    decode 0xE13B1400 = .bedcfg 59 5 := by
  refine ⟨?_, ?_, ?_, ?_, ?_, ?_⟩ <;> decide

theorem test_decode_major_39 :
    decode 0xE4253000 = .emit 9 19 ∧
    decode 0xE4417840 = .spawn 23 33 ∧
    decode 0xE4940000 = .tdone 5 := by
  refine ⟨?_, ?_, ?_⟩ <;> decide

theorem test_decode_major_3A :
    decode 0xE82CDBF0 = .gload 44 54 63 ∧
    decode 0xE8412D50 = .gbind 1 11 21 ∧
    decode 0xE89682A0 = .gunbind 22 32 42 ∧
    decode 0xE8EBD7F0 = .gconv 43 53 63 ∧
    decode 0xE93F2940 = .gstat 63 10 20 := by
  refine ⟨?_, ?_, ?_, ?_, ?_⟩ <;> decide

theorem test_decode_major_3B :
    decode 0xEC287E90 = .tlbinv 5 31 41 ∧
    decode 0xEC40AB40 = .evict 42 52 ∧
    decode 0xEC80E020 = .resume 56 2 ∧
    decode 0xECC01900 = .pmcfg 6 16 := by
  refine ⟨?_, ?_, ?_, ?_⟩ <;> decide

theorem test_decode_major_3F :
    decode 0xFC137537 = .hintStall 4 6 7 2 4 6 7 ∧
    decode 0xFC603C58 = .hintXimm 2112600 ∧
    decode 0xFC8000E0 = .hintMem 1 1 32 ∧
    decode 0xFCC0000B = .hintMod 1 3 ∧
    decode 0xFD000000 = .hintSpin ∧
    decode 0xFD6F0000 = .hintPref 47 := by
  refine ⟨?_, ?_, ?_, ?_, ?_, ?_⟩ <;> decide

theorem test_decode_xd :
    xdDecode 0x0B000000 = some (.xdGetb 6) ∧
    xdDecode 0x16807C6E = some (.xdPeekb 13 31854) ∧
    xdDecode 0x18580000 = some (.xdPutb 11) ∧
    xdDecode 0x20160000 = some (.xdPutn 2 12) ∧
    xdDecode 0x28780000 = some (.xdCpin 15) ∧
    xdDecode 0x30388000 = some (.xdBack 7 1) ∧
    xdDecode 0x3AF83C84 = some (.xdAddi 5 15 15492) ∧
    xdDecode 0x45270000 = some (.xdAdd 10 4 14) ∧
    xdDecode 0x4FC98000 = some (.xdSub 15 9 3) ∧
    xdDecode 0x52740000 = some (.xdAnd 4 14 8) ∧
    xdDecode 0x5C9E8000 = some (.xdOr 9 3 13) ∧
    xdDecode 0x67410000 = some (.xdXor 14 8 2) := by
  refine ⟨?_, ?_, ?_, ?_, ?_, ?_, ?_, ?_, ?_, ?_, ?_, ?_⟩ <;> decide

theorem test_decode_xd_1 :
    xdDecode 0x69EB8000 = some (.xdShl 3 13 7) ∧
    xdDecode 0x74160000 = some (.xdShr 8 2 12) ∧
    xdDecode 0x7EB80000 = some (.xdTbl 13 7) ∧
    xdDecode 0x805AD216 = some (.xdBeq 11 5 21014) ∧
    xdDecode 0x887D321D = some (.xdBne 15 10 12829) ∧
    xdDecode 0x902F9224 = some (.xdBltn 5 15 4644) ∧
    xdDecode 0x98001CCF = some (.xdBeof 7375) ∧
    xdDecode 0xA000677C = some (.xdJmp 26492) ∧
    xdDecode 0xAC000000 = some (.xdLen 8) ∧
    xdDecode 0xB7800000 = some (.xdOpos 15) ∧
    xdDecode 0xB8000000 = some (.xdHalt) ∧
    xdDecode 0xC0004783 = some (.xdFail 18307) := by
  refine ⟨?_, ?_, ?_, ?_, ?_, ?_, ?_, ?_, ?_, ?_, ?_, ?_⟩ <;> decide

/-! ## The spec's own examples of words (01, 03, 04, 05, 09, 12, 15 to 20: their tables of encodings) -/

theorem test_word_scalar :
    decode 0x04050C40 = .add 5 3 4 0 ∧ decode 0x09072090 = .div 7 8 9 0 ∧ decode 0x0AC61050 = .bext 6 4 5 0 ∧
    decode 0x0C20BFC0 = .addi 2 2 (-64) ∧ decode 0x1C510003 = .shli 5 4 0 3 ∧ decode 0x1C51205F = .sari 5 4 1 31 ∧
    decode 0x0D700020 = .addi 23 0 32 ∧ decode 0x0D5E0000 = .addi 21 56 0 ∧ decode 0x0F83C000 = .addi 56 15 0 := by
  refine ⟨?_, ?_, ?_, ?_, ?_, ?_, ?_, ?_, ?_⟩ <;> decide

theorem test_word_memory :
    decode 0x31051008 = .sld 0 4 5 4 8 ∧ decode 0x33851008 = .sld 1 6 5 4 8 ∧ decode 0x34E00810 = .sst 0 3 32 2 16 ∧
    decode 0x34CD3000 = .sst 0 3 13 12 0 ∧ decode 0x315C0C08 = .sld 0 5 28 3 8 ∧ decode 0x90861404 = .vldUnit 0 6 5 4 ∧
    decode 0x9206143C = .vldIndexed 1 6 5 7 4 ∧ decode 0x91061404 = .vldBroadcast 0 6 5 4 ∧ decode 0x94051034 = .vstIndexed 0 5 4 6 4 ∧
    decode 0x95051004 = .vstnt 5 4 4 ∧ decode 0x95851034 = .vstbm 0 5 4 6 ∧ decode 0x9006143C = .vldIndexed 0 6 5 7 4 := by
  refine ⟨?_, ?_, ?_, ?_, ?_, ?_, ?_, ?_, ?_, ?_, ?_, ?_⟩ <;> decide

theorem test_word_control :
    decode 0x3849FFFD = .br 1 9 (-3) ∧ decode 0x3849FFFE = .br 1 9 (-2) ∧ decode 0x3D031005 = .brr 4 3 4 5 ∧ decode 0x44000040 = .call 64 ∧
    decode 0x48800400 = .ret ∧ decode 0x48402400 = .callr 9 ∧ decode 0x4C100002 = .mif 2 2 ∧ decode 0x4C400002 = .melse 2 ∧
    decode 0x4C800000 = .mend ∧ decode 0x50194000 = .mand 3 1 2 ∧ decode 0x52030280 = .mcount 3 5 := by
  refine ⟨?_, ?_, ?_, ?_, ?_, ?_, ?_, ?_, ?_, ?_, ?_⟩ <;> decide

theorem test_word_system :
    decode 0x54000000 = .nop ∧ decode 0x54100000 = .exit ∧ decode 0x54200007 = .trap 7 ∧ decode 0x54300000 = .tret ∧
    decode 0x54510000 = .sread 4 0 ∧ decode 0x54614009 = .swrite 5 9 ∧ decode 0x54A18000 = .sleep 6 ∧
    decode 0xFC1FFF84 = .hintStall 7 7 7 7 6 0 4 ∧ decode 0xFC1FFF48 = .hintStall 7 7 7 7 5 1 0 := by
  refine ⟨?_, ?_, ?_, ?_, ?_, ?_, ?_, ?_, ?_⟩ <;> decide

theorem test_word_vector :
    decode 0x60418104 = .vsub 3 1 2 0 ∧ decode 0x60024505 = .vadd 4 69 2 1 ∧ decode 0x70008101 = .vaddi 1 1 1 ∧
    decode 0x700081FF = .vaddi 1 1 (-1) ∧ decode 0x71C380FF = .vmovi 7 (-1) ∧ decode 0x74010024 = .vbcast 2 9 0 ∧
    decode 0x75828000 = .vlaneid 5 0 0 ∧ decode 0x78008110 = .vxch 1 1 16 ∧ decode 0x78830110 = .vperm 6 1 8 0 ∧
    decode 0x78C28307 = .vextl 5 3 7 ∧ decode 0x7C030300 = .vradd 6 3 ∧ decode 0x7D030300 = .vrfadd 6 3 := by
  refine ⟨?_, ?_, ?_, ?_, ?_, ?_, ?_, ?_, ?_, ?_, ?_, ?_⟩ <;> decide

theorem test_word_vector_fp :
    decode 0x7E020308 = .vgadd 4 3 8 ∧ decode 0x7F020320 = .vscan 4 3 32 ∧ decode 0x80028104 = .vfadd 5 1 2 0 ∧
    decode 0x82428100 = .vfsqrt 5 1 0 ∧ decode 0x88010180 = .vcvtF32I32 4 3 0 ∧ decode 0x8801018A = .vcvtF32I32 4 3 5 ∧
    decode 0x88210182 = .vcvtI32F32 4 3 1 ∧ decode 0x890101A0 = .vcvtNfF32 4 3 2 0 ∧ decode 0x6C101083 = .vfma 4 1 2 3 ∧
    decode 0x68141083 = .vmad 5 1 2 3 ∧ decode 0x64906240 = .vcmp 1 1 3 9 ∧ decode 0x7D050600 = .vrfadd 10 6 := by
  refine ⟨?_, ?_, ?_, ?_, ?_, ?_, ?_, ?_, ?_, ?_, ?_, ?_⟩ <;> decide

theorem test_word_atomics :
    decode 0x980A20CC = .vatmAdd 5 4 6 3 0 ∧ decode 0x9B1020D3 = .vatmCas 8 4 6 4 3 ∧ decode 0xA00A20CF = .satmAdd 5 4 6 3 3 ∧
    decode 0xA300DB44 = .satmOr 0 27 26 1 0 ∧ decode 0xA000DB52 = .satmAdd 0 27 26 4 2 ∧ decode 0xA4060000 = .pub 3 ∧
    decode 0xA4160000 = .acq 3 ∧ decode 0xA4280000 = .pubacq 4 ∧ decode 0xA4360000 = .drain 3 ∧ decode 0xA4462000 = .clean 3 4 ∧
    decode 0xA4563800 = .inval 3 7 ∧ decode 0xA446B800 = .clean 3 23 := by
  refine ⟨?_, ?_, ?_, ?_, ?_, ?_, ?_, ?_, ?_, ?_, ?_, ?_⟩ <;> decide

theorem test_word_core :
    decode 0xC4021247 = .aread 4 1 2 1 7 ∧ decode 0xC4421000 = .areadRaw 4 1 0 0 ∧ decode 0xC4803000 = .azero 3 ∧
    decode 0xC4C01005 = .aanchor 1 5 ∧ decode 0xC5001018 = .arange 1 24 ∧ decode 0xC5431000 = .astat 6 1 ∧ decode 0xC8054000 = .seal 5 1 ∧
    decode 0xC8400000 = .waitb 0 0 ∧ decode 0xC8404400 = .waitb 1 1 ∧ decode 0xC8860000 = .testb 6 0 ∧
    decode 0xC0A22624 = .mmac 2 17 3 1 0 0 1 ∧ decode 0xC0000004 = .mma 0 0 0 0 0 0 1 := by
  refine ⟨?_, ?_, ?_, ?_, ?_, ?_, ?_, ?_, ?_, ?_, ?_, ?_⟩ <;> decide

theorem test_word_units :
    decode 0xD020A411 = .cpg 8 10 16 17 ∧ decode 0xD120A411 = .cps 8 10 16 17 ∧ decode 0xD220A411 = .cpm 8 10 16 17 ∧
    decode 0xD4085000 = .tinit 2 5 ∧ decode 0xD4480000 = .twait 2 ∧ decode 0xD4880000 = .tpop 2 ∧ decode 0xD4C86000 = .tfilled 2 6 ∧
    decode 0xD5080000 = .tcommit 2 ∧ decode 0xD8004140 = .barinit 4 5 ∧ decode 0xD8404000 = .bararr 4 ∧ decode 0xD8804180 = .barwait 4 6 ∧
    decode 0xD8C041C0 = .barexp 4 7 := by
  refine ⟨?_, ?_, ?_, ?_, ?_, ?_, ?_, ?_, ?_, ?_, ?_, ?_⟩ <;> decide

theorem test_word_engines :
    decode 0xD90C0000 = .barsync 3 ∧ decode 0xD9400000 = .cbarsync ∧ decode 0xE04A5090 = .withdraw 10 20 9 ∧
    decode 0xE00D50A0 = .offerTake 13 20 10 ∧ decode 0xE09150C2 = .sow 17 20 12 1 0 ∧ decode 0xE0C35002 = .take 3 20 1 ∧
    decode 0xE8095000 = .gload 9 20 0 ∧ decode 0xE85614B0 = .gbind 22 5 11 ∧ decode 0xE9191580 = .gstat 25 5 24 := by
  refine ⟨?_, ?_, ?_, ?_, ?_, ?_, ?_, ?_, ?_⟩ <;> decide

theorem test_word_transducer :
    xdDecode 0x08800000 = some (.xdGetb 1) ∧ xdDecode 0x09000000 = some (.xdGetb 2) ∧ xdDecode 0x39100001 = some (.xdAddi 2 2 1) ∧
    xdDecode 0x39000001 = some (.xdAddi 2 0 1) ∧ xdDecode 0x3A107FFF = some (.xdAddi 4 2 (-1)) ∧ xdDecode 0x20010000 = some (.xdPutn 0 2) ∧
    xdDecode 0x98000009 = some (.xdBeof 9) ∧ xdDecode 0xB8000000 = some .xdHalt := by
  refine ⟨?_, ?_, ?_, ?_, ?_, ?_, ?_, ?_⟩ <;> decide

/-- 06: the first words of the program `ntt` that the spec prints. -/
theorem test_word_program : decode 0x3C5A701F = .brr 1 26 28 31 ∧ decode 0x4C080005 = .mif 1 5 := by
  refine ⟨?_, ?_⟩ <;> decide

/-! ## What the statements assume can be met: scalar words and control flow -/

/-- A supervisor whose virtual device has something in every queue that it reads, and hints and coverage before its next word. -/
def wPort : State :=
  { w0.mapMe (fun t => { t with priv := 1, hints := { Hints.none with ximm := some 5, first := some 0xFFFC }, stall := [1, 2] }) with
    vds := [{ placedVd with faultQ := [5], mailIn := [6], pageReqs := [{ page := 3, acc := 1, vd := 0, id := 9, popped := false }] }] }

theorem ready_port : Ready wPort := ⟨rfl, rfl, rfl, rfl, by decide, by decide, rfl, rfl⟩

theorem meets_ScalarTable : ∃ i r, tableR59 i = some r ∧ Ready w0 ∧ (∀ a ∈ r.srcs, SrcOk w0 a) ∧ DstOk r.dst :=
  ⟨.mulh 55 55 0 1, _, rfl, ready0, srcs_low rfl, dst_low rfl⟩

theorem meets_ScalarTable_ports : ∃ i r, tableR59 i = some r ∧ Ready wPort ∧ (∀ a ∈ r.srcs, SrcOk wPort a) ∧ DstOk r.dst :=
  ⟨.bins 0 57 59 0, _, rfl, ready_port, fun a h => by
    rcases List.mem_cons.mp h with rfl | h
    · exact src_port (by decide)
    · rcases List.mem_cons.mp h with rfl | h
      · exact src_port (by decide)
      · rw [List.mem_singleton.mp h]; exact src_low rfl, dst_low rfl⟩

theorem meets_ImmediateTable : ∃ i r, tableR60 i = some r ∧ Ready wPort ∧ (∀ a ∈ r.srcs, SrcOk wPort a) ∧ DstOk r.dst :=
  ⟨.addi 55 1 (-1), _, rfl, ready_port, srcs_low rfl, dst_low rfl⟩

theorem meets_ImmediateTable_shift : ∃ i r, tableR60 i = some r ∧ Ready w0 ∧ (∀ a ∈ r.srcs, SrcOk w0 a) ∧ DstOk r.dst :=
  ⟨.rotri 1 55 1 31, _, rfl, ready0, srcs_low rfl, dst_low rfl⟩

theorem meets_MaskRead : ∃ i r, tableMaskRead i = some r ∧ Ready w0 ∧ DstOk r.dst := ⟨.mfirst 7 55, _, rfl, ready0, dst_low rfl⟩

theorem meets_MaskWrite : ∃ (d : BitVec 3) (r : BitVec 6), Ready w0 ∧ d ≠ 0 ∧ SrcOk w0 r := ⟨7, 55, ready0, by decide, src_low rfl⟩

theorem meets_BranchTable : ∃ i r, tableFlow i = some r ∧ Ready w0 ∧ (∀ a ∈ r.srcs, SrcOk w0 a) :=
  ⟨.brr 5 55 0 (-512), _, rfl, ready0, srcs_low rfl⟩

theorem meets_BranchTable_mask : ∃ i r, tableFlow i = some r ∧ Ready wPort ∧ (∀ a ∈ r.srcs, SrcOk wPort a) :=
  ⟨.ball 7 (-1), _, rfl, ready_port, nofun⟩

/-- s1 and s5 hold an aligned and another target. -/
def wJump : State := w0.mapMe (regs [(1, 0x2000), (5, 0x2002)])

theorem ready_jump : Ready wJump := ⟨rfl, rfl, rfl, rfl, by decide, by decide, rfl, rfl⟩

theorem meets_IndirectJump : ∃ i r, tableIndirect i = some r ∧ Ready wJump ∧ (∀ a ∈ r.srcs, SrcOk wJump a) ∧ (r.target wJump).toNat % 4 = 0 :=
  ⟨.ret, _, rfl, ready_jump, srcs_low rfl, by decide⟩

theorem meets_IndirectJump_misaligned :
    ∃ i r, tableIndirect i = some r ∧ Ready wJump ∧ (∀ a ∈ r.srcs, SrcOk wJump a) ∧ (r.target wJump).toNat % 4 ≠ 0 :=
  ⟨.callr 5, _, rfl, ready_jump, srcs_low rfl, by decide⟩

/-- The strand with a mask stack of n entries of one kind. -/
def wStack (n : Nat) (k : MaskKind) : State :=
  w0.mapMe (fun t => { t with stack := List.replicate n { kind := k, outer := 0xFFFFFFFF, pend := 1, pc := 0x10000, rcv := 0x10040 }, near := n })

theorem ready_stack (n : Nat) (k : MaskKind) : Ready (wStack n k) :=
  ⟨rfl, rfl, rfl, rfl, (by decide : (0 : Nat) ≤ 1000), (by decide : (0 : Nat) + 7 * acTicks ≤ 1000), rfl, rfl⟩

theorem meets_MaskPush : Ready (wStack 31 .ifs) ∧ (wStack 31 .ifs).me.stack.length < 32 := ⟨ready_stack _ _, by decide⟩

theorem meets_MaskTop_if : ∃ e, Ready (wStack 1 .ifs) ∧ (wStack 1 .ifs).me.stack.head? = some e ∧ (wStack 1 .ifs).me.near ≠ 0 ∧ e.kind = .ifs :=
  ⟨_, ready_stack _ _, rfl, by decide, rfl⟩

theorem meets_MaskTop_loop : ∃ e, Ready (wStack 1 .loop) ∧ (wStack 1 .loop).me.stack.head? = some e ∧ (wStack 1 .loop).me.near ≠ 0 ∧ e.kind = .loop :=
  ⟨_, ready_stack _ _, rfl, by decide, rfl⟩

theorem meets_MaskStackTrap_full : Ready (wStack 32 .loop) ∧ (wStack 32 .loop).me.stack.length = 32 := ⟨ready_stack _ _, by decide⟩

theorem meets_MaskStackTrap_loop : Ready (wStack 1 .loop) ∧ (∀ e, (wStack 1 .loop).me.stack.head? = some e → e.kind = .loop) :=
  ⟨ready_stack _ _, fun e h => by cases h; rfl⟩

theorem meets_MaskStackTrap_if : Ready (wStack 1 .ifs) ∧ (∀ e, (wStack 1 .ifs).me.stack.head? = some e → e.kind = .ifs) :=
  ⟨ready_stack _ _, fun e h => by cases h; rfl⟩

theorem meets_MaskStackTrap_empty : Ready w0 ∧ (∀ e, w0.me.stack.head? = some e → e.kind = .ifs) ∧ (∀ e, w0.me.stack.head? = some e → e.kind = .loop) :=
  ⟨ready0, nofun, nofun⟩

theorem meets_PortDestination : ∃ i r, tableR59 i = some r ∧ Ready wPort ∧ (∀ a ∈ r.srcs, SrcOk wPort a) ∧ isPort r.dst = true ∧
    wPort.me.priv ≠ 0 ∧ wPort.portRoom r.dst.toNat = true :=
  ⟨.add 59 1 2 0, _, rfl, ready_port, srcs_low rfl, rfl, by decide, by decide⟩

theorem meets_PortDestination_imm : ∃ i r, tableR60 i = some r ∧ Ready wPort ∧ (∀ a ∈ r.srcs, SrcOk wPort a) ∧ isPort r.dst = true ∧
    wPort.me.priv ≠ 0 ∧ wPort.portRoom r.dst.toNat = true :=
  ⟨.addi 56 15 0, _, rfl, ready_port, srcs_low rfl, rfl, by decide, by decide⟩

theorem meets_PortPrivilege : ∃ i r, tableR60 i = some r ∧ Ready (wp 0) ∧ (wp 0).me.priv = 0 ∧ (∃ a ∈ r.srcs, isPort a = true) :=
  ⟨.addi 5 56 0, _, rfl, ready_me _ (by decide), rfl, 56, by decide, rfl⟩

theorem meets_PortPrivilege_dst : ∃ i r, tableMaskRead i = some r ∧ Ready (wp 0) ∧ (wp 0).me.priv = 0 ∧ isPort r.dst = true :=
  ⟨.mto 1 59, _, rfl, ready_me _ (by decide), rfl, rfl⟩

/-- The strand's block has a trap handler. -/
def wHandler : State := w0.mapBlk (fun b => { b with handler := 0x8000 })

theorem meets_TrapEntry : wHandler.me.tmasked = false ∧ wHandler.blk.handler ≠ 0 ∧ wHandler.me.stepping = false := ⟨rfl, by decide, rfl⟩

theorem meets_TrapHalts_masked :
    (wHandler.mapMe (fun t => { t with tmasked := true })).me.tmasked = true ∧ (wHandler.mapMe (fun t => { t with tmasked := true })).blk.handler ≠ 0 :=
  ⟨rfl, by decide⟩

theorem meets_TrapHalts_none : w0.me.tmasked = false ∧ w0.blk.handler = 0 := ⟨rfl, rfl⟩

theorem meets_SoftwareTraps : Ready w0 ∧ w0.blk.debug = false := ⟨ready0, rfl⟩

/-- The block under a debug session. -/
def wDebug : State := w0.mapBlk (fun b => { b with debug := true })

theorem ready_debug : Ready wDebug := ⟨rfl, rfl, rfl, rfl, by decide, by decide, rfl, rfl⟩

theorem meets_SoftwareTraps_debug : Ready wDebug ∧ wDebug.blk.debug = true := ⟨ready_debug, rfl⟩

theorem meets_TrapReturn : Ready w0 ∧ w0.me.tpc.toNat % 4 = 0 := ⟨ready0, by decide⟩

theorem meets_TrapReturn_misaligned : Ready (w0.mapMe (fun t => { t with tpc := 0x10001 })) ∧
    (w0.mapMe (fun t => { t with tpc := 0x10001 })).me.tpc.toNat % 4 ≠ 0 := ⟨ready_me _ (by decide), by decide⟩

theorem meets_IllegalWords : ∃ i : Instr, i.isWord = true ∧ i.wellFormed = false ∧ Ready w0 := ⟨.shli 0 0 1 32, rfl, rfl, ready0⟩

theorem meets_TrapMaskWords : Ready w0 := ready0

theorem meets_WaitingWords : ∃ a, Ready w0 ∧ SrcOk w0 a := ⟨55, ready0, src_low rfl⟩

theorem meets_SpecialRegisters : ∃ (a : BitVec 6) (r : BitVec 10), Ready w0 ∧ specialNumber r.toNat ∧ DstOk a ∧ r ≠ 0 ∧ SrcOk w0 a :=
  ⟨55, 0x01C, ready0, Or.inr (by decide), dst_low rfl, by decide, src_low rfl⟩

theorem meets_SpecialRegisters_first : ∃ (a : BitVec 6) (r : BitVec 10), Ready w0 ∧ specialNumber r.toNat ∧ DstOk a :=
  ⟨0, 0x000, ready0, Or.inl (by decide), dst_low rfl⟩

/-! ## What the statements assume can be met: vector words -/

/-- The strand reads channel 0 and writes channel 1 of its block; a sum saturates; a mask of two lanes. -/
def wChan : State :=
  let ch (r w : Option Nat) (es : List Vec) : Channel := { depth := 8, entries := es, reader := r, writer := w, readerClosed := false, writerClosed := false }
  let s := w0.mapBlk (fun b => { b with channels := [ch (some 0) none [Vec.splat 3], ch none (some 0) []] })
  s.mapMe (fun t => { t with m := t.m.set 0 0x80000001, hints := { Hints.none with mod := some (7, true), first := some 0xFFFC } })

theorem ready_chan : Ready wChan := ⟨rfl, rfl, rfl, rfl, by decide, by decide, rfl, rfl⟩

/-- The protected strand whose lane 4 has a wrong shadow, in a mask without or with that lane. -/
def wProt (m : W32) : State := w0.mapMe (fun t => { t with prot := true, shadow := 0x10, m := t.m.set 0 m })

theorem ready_prot (m : W32) : Ready (wProt m) := ⟨rfl, rfl, rfl, rfl, (by decide : (0 : Nat) ≤ 1000), (by decide : (0 : Nat) + 7 * acTicks ≤ 1000), rfl, rfl⟩

theorem meets_VectorIntegers : ∃ i r, tableR80 i = some r ∧ r.Ready w0 :=
  ⟨.vmulh 63 62 0 0, _, rfl, ready0, nofun, by decide, nofun, vsrcs_low rfl, vdst_low rfl, nofun⟩

theorem meets_VectorIntegers_channels : ∃ i r, tableR80 i = some r ∧ r.Ready wChan :=
  ⟨.vadd 65 64 5 1, _, rfl, ready_chan, fun _ => ⟨64, by decide, rfl⟩, by decide, nofun, fun f h => by
    rcases List.mem_cons.mp h with rfl | h
    · exact vsrc_chan (by decide)
    · rw [List.mem_singleton.mp h]; exact vsrc_low rfl, vdst_chan (by decide), fun _ => by decide⟩

theorem meets_VectorForms : ∃ i r, tableR82 i = some r ∧ r.Ready w0 :=
  ⟨.vfsr 63 62 61 0, _, rfl, ready0, trivial, by decide, nofun, vsrcs_low rfl, vdst_low rfl, nofun⟩

theorem meets_VectorForms_immediate : ∃ i r, tableR84 i = some r ∧ r.Ready wPort :=
  ⟨.vaddi 63 62 (-1), _, rfl, ready_port, trivial, by decide, nofun, vsrcs_low rfl, vdst_low rfl, nofun⟩

theorem meets_VectorForms_scalar : ∃ i r, tableR85 i = some r ∧ r.Ready w0 :=
  ⟨.vmulhns 63 62 55 1, _, rfl, ready0, by decide, by decide, srcs_low rfl, vsrcs_low rfl, vdst_low rfl, nofun⟩

theorem meets_LaneMovement : ∃ i r, tableR86 i = some r ∧ r.Ready w0 :=
  ⟨.vxch 63 62 16, _, rfl, ready0, ⟨by decide, nofun⟩, by decide, nofun, vsrcs_low rfl, vdst_low rfl, nofun⟩

theorem meets_LaneMovement_group : ∃ i r, tableR88 i = some r ∧ r.Ready (wProt 1) :=
  ⟨.vscan 63 62 16, _, rfl, ready_prot 1, ⟨by decide, fun _ => by decide⟩, by decide, nofun, vsrcs_low rfl, vdst_low rfl, nofun⟩

theorem meets_VectorFloats : ∃ i r, tableR89 i = some r ∧ r.Ready w0 :=
  ⟨.vfma 63 62 61 60, _, rfl, ready0, trivial, by decide, nofun, vsrcs_low rfl, vdst_low rfl, nofun⟩

theorem meets_VectorFloats_one : ∃ i r, tableR89 i = some r ∧ r.Ready w0 :=
  ⟨.vfcos 63 0 0, _, rfl, ready0, nofun, by decide, nofun, vsrcs_low rfl, vdst_low rfl, nofun⟩

theorem meets_Conversions : ∃ i r, tableR93 i = some r ∧ r.Ready w0 :=
  ⟨.vcvtF32I32 63 62 5, _, rfl, ready0, by decide, by decide, nofun, vsrcs_low rfl, vdst_low rfl, nofun⟩

theorem meets_Conversions_packed : ∃ i r, tableR93 i = some r ∧ r.Ready w0 :=
  ⟨.vcvtF16F32 0 62 4, _, rfl, ready0, by decide, by decide, nofun, vsrcs_low rfl, vdst_low rfl, nofun⟩

/-- FMT0 holds the format of 8 bits with sign, 4 exponent and 3 mantissa bits. -/
def wFmt : State := w0.mapMe (fun t => { t with fmt := t.fmt.set 0 0xC60E })

theorem meets_Conversions_format : ∃ i r, tableR93 i = some r ∧ r.Ready wFmt :=
  ⟨.vcvtNfF32 63 62 0 0, _, rfl, ⟨rfl, rfl, rfl, rfl, by decide, by decide, rfl, rfl⟩, ⟨by decide, by decide, by decide, by decide⟩, by decide, nofun, vsrcs_low rfl,
    vdst_low rfl, nofun⟩

theorem meets_OneLane : ∃ (d a : BitVec 7) (l : BitVec 5) (n : BitVec 8) (r x : BitVec 6) (m : BitVec 2), Ready w0 ∧ w0.me.budget ≤ 64 ∧
    (w0.me.prot = true → l.toNat < 16 ∧ n.toNat < 16) ∧ m.toNat < 2 ∧ SrcOk w0 r ∧ VDstOk w0 [] d ∧ n.toNat < 32 ∧ DstOk x ∧ VSrcOk w0 a ∧
    w0.active ≠ 0 ∧ w0.disagree (1#32 <<< n.toNat) = 0 :=
  ⟨63, 62, 31, 31, 55, 0, 1, ready0, by decide, nofun, by decide, src_low rfl, vdst_low rfl, by decide, dst_low rfl, vsrc_low rfl, by decide, by decide⟩

theorem meets_OneLane_channel : ∃ (d : BitVec 7) (l : BitVec 5) (r : BitVec 6) (m : BitVec 2), Ready wChan ∧ wChan.me.budget ≤ 64 ∧ m.toNat < 2 ∧ SrcOk wChan r ∧
    VDstOk wChan [] d ∧ isChan d = true ∧ wChan.disagree (wChan.active &&& (1#32 <<< l.toNat)) = 0 :=
  ⟨65, 31, 55, 1, ready_chan, by decide, by decide, src_low rfl, vdst_chan (by decide), by decide, by decide⟩

theorem meets_OneLane_protected : ∃ (d a : BitVec 7) (l : BitVec 5) (n : BitVec 8) (r x : BitVec 6) (m : BitVec 2), Ready (wProt 1) ∧
    (wProt 1).me.prot = true ∧ l.toNat < 16 ∧ n.toNat < 16 ∧ m.toNat < 2 ∧ SrcOk (wProt 1) r ∧ VDstOk (wProt 1) [] d ∧ DstOk x ∧ VSrcOk (wProt 1) a ∧
    (wProt 1).active ≠ 0 ∧ (wProt 1).disagree (1#32 <<< n.toNat) = 0 :=
  ⟨63, 62, 15, 15, 55, 55, 0, ready_prot 1, rfl, by decide, by decide, by decide, src_low rfl, vdst_low rfl, dst_low rfl, vsrc_low rfl, by decide, by decide⟩

theorem meets_Reductions : ∃ (d : BitVec 6) (a : BitVec 7), Ready wChan ∧ wChan.me.budget ≤ 64 ∧ DstOk d ∧ VSrcOk wChan a ∧ wChan.active ≠ 0 ∧
    wChan.active &&& ~~~wChan.me.visible = 0 ∧ wChan.disagree wChan.active = 0 :=
  ⟨55, 64, ready_chan, by decide, dst_low rfl, vsrc_chan (by decide), by decide, by decide, by decide⟩

theorem meets_VectorCompares : ∃ (c m : BitVec 3) (a b : BitVec 7), Ready wChan ∧ wChan.me.budget ≤ 64 ∧ m ≠ 0 ∧ VSrcOk wChan a ∧ VSrcOk wChan b ∧
    wChan.active ≠ 0 ∧ wChan.disagree wChan.active = 0 ∧ c.toNat ≤ 4 :=
  ⟨4, 7, 64, 63, ready_chan, by decide, by decide, vsrc_chan (by decide), vsrc_low rfl, by decide, by decide, by decide⟩

theorem meets_VectorCompares_vcmp : ∃ (c m : BitVec 3) (a b : BitVec 7), Ready (wProt 1) ∧ (wProt 1).me.budget ≤ 64 ∧ m ≠ 0 ∧ VSrcOk (wProt 1) a ∧
    VSrcOk (wProt 1) b ∧ (wProt 1).active ≠ 0 ∧ (wProt 1).disagree (wProt 1).active = 0 ∧ c.toNat ≤ 5 :=
  ⟨5, 1, 0, 63, ready_prot 1, by decide, by decide, vsrc_low rfl, vsrc_low rfl, by decide, by decide, by decide⟩

/-- The first vector word after a return whose mask meets m0 in no lane. -/
def wEmpty : State := wChan.mapMe (fun t => { t with tretMask := some 0x10 })

theorem meets_EmptyMask : ∃ (c m : BitVec 3) (a b : BitVec 7) (d : BitVec 6) (n : BitVec 8), Ready wEmpty ∧ wEmpty.me.budget ≤ 64 ∧ m ≠ 0 ∧
    VSrcOk wEmpty a ∧ VSrcOk wEmpty b ∧ DstOk d ∧ wEmpty.active = 0 ∧ c.toNat ≤ 4 ∧ n.toNat < 16 :=
  ⟨4, 1, 64, 63, 55, 15, ⟨rfl, rfl, rfl, rfl, by decide, by decide, rfl, rfl⟩, by decide, by decide, vsrc_chan (by decide), vsrc_low rfl, dst_low rfl, by decide,
    by decide, by decide⟩

theorem meets_ProtectMismatch : ∃ (c m : BitVec 3) (a b : BitVec 7), Ready (wProt 0x11) ∧ (wProt 0x11).me.budget ≤ 64 ∧ m ≠ 0 ∧ VSrcOk (wProt 0x11) a ∧
    VSrcOk (wProt 0x11) b ∧ (wProt 0x11).active ≠ 0 ∧ c.toNat ≤ 5 ∧ (wProt 0x11).me.prot = true ∧
    (wProt 0x11).me.shadow &&& (wProt 0x11).active &&& (wProt 0x11).me.visible ≠ 0 :=
  ⟨5, 7, 0, 63, ready_prot _, by decide, by decide, vsrc_low rfl, vsrc_low rfl, by decide, by decide, rfl, by decide⟩

theorem meets_RoundedOnce : ∃ (x y z : ℚ), real32 0x3F800000 = some x ∧ real32 0xC0000000 = some y ∧ real32 0x00000001 = some z ∧
    |x + y| ≤ maxFinite32 ∧ |x - y| ≤ maxFinite32 ∧ |x * y| ≤ maxFinite32 ∧ |x * y + z| ≤ maxFinite32 ∧ |x * y - z| ≤ maxFinite32 ∧ |z - x * y| ≤ maxFinite32 := by
  refine ⟨2 ^ 23 * 2 ^ (-23 : ℤ), -(2 ^ 23 * 2 ^ (-22 : ℤ)), 1 * 2 ^ (-149 : ℤ), ?_, ?_, ?_, ?_⟩
  · have h : f32 0x3F800000#32 = .fin false 8388608 (-23) := by decide
    simp [real32, h, FVal.real]; norm_num
  · have h : f32 0xC0000000#32 = .fin true 8388608 (-22) := by decide
    simp [real32, h, FVal.real]; norm_num
  · have h : f32 0x00000001#32 = .fin false 1 (-149) := by decide
    simp [real32, h, FVal.real]
  · unfold maxFinite32; norm_num [abs_le]

theorem meets_CanonicalNan : f32 0x7F800001 = .nan ∧ f32 0x7FC00000 = .nan ∧ f32 0x3F800000 ≠ .nan ∧ f32 0xFF800000 = .inf true ∧ f32 0x7F800000 = .inf false ∧
    ∃ e, f32 0x80000000 = .fin true 0 e := ⟨by decide, by decide, by decide, by decide, by decide, _, rfl⟩

theorem meets_Conversions_invalid : ∃ (d a : BitVec 7) (f r : BitVec 3), Ready w0 ∧ r.toNat ≤ 5 ∧ w0.me.budget ≤ 64 ∧ VSrcOk w0 a ∧ VDstOk w0 [a] d ∧
    ¬ fmtValid (fmtOf w0 f) := ⟨63, 62, 7, 5, ready0, by decide, by decide, vsrc_low rfl, vdst_low rfl, fun h => absurd h.1 (by decide)⟩

theorem real_one : real32 0x3F800000 = some 1 := by
  have h : f32 0x3F800000#32 = .fin false 8388608 (-23) := by decide
  simp [real32, h, FVal.real]; norm_num

theorem real_minus_two : real32 0xC0000000 = some (-2) := by
  have h : f32 0xC0000000#32 = .fin true 8388608 (-22) := by decide
  simp [real32, h, FVal.real]; norm_num

theorem real_zero : real32 0 = some 0 := by
  have h : f32 0#32 = .fin false 0 (-149) := by decide
  simp [real32, h, FVal.real]

theorem real_tiny : real32 1 = some (2 ^ (-149 : ℤ)) := by
  have h : f32 1#32 = .fin false 1 (-149) := by decide
  simp [real32, h, FVal.real]

theorem meets_FloatMembers : real32 0x3F800000 = some 1 ∧ real32 0xC0000000 = some (-2) ∧ real32 0 = some 0 ∧ real32 1 = some (2 ^ (-149 : ℤ)) ∧
    |(1 : ℚ) * 2 ^ (127#32).toInt| ≤ maxFinite32 ∧ f32 0x7FC00000 = .nan ∧ f32 0xFF800000 = .inf true := by
  refine ⟨real_one, real_minus_two, real_zero, real_tiny, ?_, by decide, by decide⟩
  have h : (127#32).toInt = 127 := by decide
  rw [h]; unfold maxFinite32; norm_num

theorem meets_FloatFunctions : (∃ a x, real32 a = some x ∧ x ≠ 0 ∧ |1 / x| ≤ maxFinite32) ∧ (∃ a x, real32 a = some x ∧ 0 < x ∧ maxFinite32 < |1 / x|) ∧
    (∃ a x, real32 a = some x ∧ x < 0 ∧ x = ((-2 : ℤ) : ℚ)) ∧ (∃ a x, real32 a = some x ∧ x = (2 : ℚ) ^ (-149 : ℤ)) := by
  refine ⟨⟨_, _, real_one, ?_, ?_⟩, ⟨_, _, real_tiny, ?_, ?_⟩, ⟨_, _, real_minus_two, ?_, ?_⟩, ⟨_, _, real_tiny, rfl⟩⟩ <;> norm_num [maxFinite32]

theorem meets_ConversionValues : fp16 ∈ [fp32, bf16, fp16] ∧ (FVal.fin true 3 (-1)).real = some (-3 / 2) ∧ |(-3 / 2 : ℚ)| ≤ fp16.maxFinite ∧
    (FVal.fin false 1 16).real = some (2 ^ 16) ∧ fp16.maxFinite < |(2 : ℚ) ^ 16| ∧ toInfinity fp16 .rne (2 ^ 16) ∧ ¬ toInfinity fp16 .rz (2 ^ 16) := by
  refine ⟨by decide, ?_, ?_, ?_, ?_, ?_, id⟩ <;> norm_num [FVal.real, Ieee.maxFinite, fp16, toInfinity, Ieee.halfStep]

theorem meets_NarrowValues : fmtValid 0xC60E ∧ real32 0x3F800000 = some 1 ∧ (∃ z, narrowVal 0xC60E 0x7F = some z) ∧ (Narrow.of 0xC60E).width = 8 :=
  ⟨⟨by decide, by decide, by decide⟩, real_one, ⟨_, rfl⟩, by decide⟩

/-! ## What the statements assume can be met: memory, atomics, phases -/

/-- A window of 0x300 bytes, a page of the core's caches at 0x10000, some dirty bytes and eight valid sectors in the L1, addresses in s1 to s7
(s1, s2 the window; s3, s4 past it and off alignment; s5, s6 the page), ascending word offsets in v1. -/
def wMem : State :=
  let page (n : TreeNode) : TlbEntry := { place := n, fabric := false, vd := 0, hyper := true, va := 0x10000, size := 4096, pa := 0x40000, r := true, w := true, x := true, u := true, raw := false, discard := false, used := 0, bad := false }
  { w0.mapBlk (fun b => { b with window := (List.range 64).map (fun k => (k, BitVec.ofNat 8 (k + 1))), windowSize := 0x300 }) with
    tlb := [page (.core 0), page (.cluster 0)]
    core := { Core.init 0 with dirty := [(0x40000, 7), (0x40003, 8)], clean := (List.range 256).map (fun k => (0x40000 + k, BitVec.ofNat 8 k)), valid := [0x1000, 0x1001, 0x1002, 0x1003] }
    me := regs [(1, 0), (2, 0x2F8), (3, 0x300), (4, 0x2F9), (5, 0x10000), (6, 0x10040), (7, 0x10038)] { w0.me with v := w0.me.v.set 1 (Vec.tab (fun L => BitVec.ofNat 32 (L * 4))) } }

/-- The same with another mask. -/
def wMemM (m : W32) : State := wMem.mapMe (fun t => { t with m := t.m.set 0 m })

theorem ready_mem : Ready wMem := ⟨rfl, rfl, rfl, rfl, by decide, by decide, rfl, rfl⟩

theorem ready_memM (m : W32) : Ready (wMemM m) := ⟨rfl, rfl, rfl, rfl, (by decide : (0 : Nat) ≤ 1000), (by decide : (0 : Nat) + 7 * acTicks ≤ 1000), rfl, rfl⟩

theorem focused_mem : Focused wMem := ⟨by decide, by decide, by decide⟩

theorem mapped_mem {acc : Acc} {ea : W64} {pa : Nat} {s : State} (h : (decide (ea.toNat < 2 ^ 56) && s.tlb.all (fun e => !e.bad) &&
    match s.tlb.find? (fun e => e.answers (.core s.blk.core) false s.blk.vd (decide (s.me.priv = 2)) ea.toNat) with
    | some e => s.permits s.me.priv acc e ea.toNat && !e.raw && decide (pa = e.addr ea.toNat)
    | none => false) = true) : Mapped s acc ea pa := by
  simp only [Bool.and_eq_true, decide_eq_true_eq] at h
  refine ⟨h.1.1, fun e m _ _ _ => by simpa using List.all_eq_true.mp h.1.2 e m, ?_⟩
  have h := h.2
  split at h
  · rename_i e he
    simp only [Bool.and_eq_true, Bool.not_eq_true', decide_eq_true_eq] at h
    exact ⟨e, he, h.1.1, h.1.2, h.2⟩
  · exact absurd h (by decide)

theorem meets_LocalLoads : ∃ (z : BitVec 3) (d a : BitVec 6) (i : BitVec 10), Ready wMem ∧ Still wMem ∧ z.toNat ≤ 6 ∧ SrcOk wMem a ∧ DstOk d ∧
    noPeer (src wMem a + wMem.imm i) ∧ localCause wMem (2 ^ (z.toNat / 2)) (src wMem a + wMem.imm i) = none ∧
    wMem.blk.windowBad (src wMem a + wMem.imm i).toNat (2 ^ (z.toNat / 2)) = false :=
  ⟨6, 55, 2, 0, ready_mem, ⟨rfl, rfl⟩, by decide, src_low rfl, dst_low rfl, Or.inl (by decide), by decide, by decide⟩

/-- The window's first doubleword holds an uncorrectable error. -/
def wBad : State := wMem.mapBlk (fun b => { b with corrupt := [0] })

theorem ready_bad : Ready wBad := ⟨rfl, rfl, rfl, rfl, by decide, by decide, rfl, rfl⟩

theorem meets_LocalLoads_poison : ∃ (z : BitVec 3) (d a : BitVec 6) (i : BitVec 10), Ready wBad ∧ Still wBad ∧ z.toNat ≤ 6 ∧ SrcOk wBad a ∧ DstOk d ∧
    noPeer (src wBad a + wBad.imm i) ∧ localCause wBad (2 ^ (z.toNat / 2)) (src wBad a + wBad.imm i) = none ∧
    wBad.blk.windowBad (src wBad a + wBad.imm i).toNat (2 ^ (z.toNat / 2)) = true :=
  ⟨0, 55, 1, 7, ready_bad, ⟨rfl, rfl⟩, by decide, src_low rfl, dst_low rfl, Or.inl (by decide), by decide, by decide⟩

theorem meets_LocalLoads_misaligned : ∃ (z : BitVec 3) (a : BitVec 6) (i : BitVec 10) (c : Cause), noPeer (src wMem a + wMem.imm i) ∧
    localCause wMem (2 ^ (z.toNat / 2)) (src wMem a + wMem.imm i) = some c := ⟨2, 4, 0, .misaligned, Or.inl (by decide), by decide⟩

theorem meets_LocalLoads_permission : ∃ (z : BitVec 3) (a : BitVec 6) (i : BitVec 10) (c : Cause), noPeer (src wMem a + wMem.imm i) ∧
    localCause wMem (2 ^ (z.toNat / 2)) (src wMem a + wMem.imm i) = some c := ⟨0, 3, 0, .permission, Or.inl (by decide), by decide⟩

theorem meets_LocalLoads_vector : ∃ i r, tableLoads i = some r ∧ r.space = 1 ∧ r.Ready false wMem ∧ (∀ L ∈ r.units wMem, noPeer (r.ea wMem L)) ∧
    ∀ L ∈ r.units wMem, localCause wMem r.size (r.ea wMem L) = none ∧
      ¬ (localCause wMem r.size (r.ea wMem L) = none ∧ wMem.blk.windowBad (r.ea wMem L).toNat r.size = true) :=
  ⟨.vldUnit 1 63 1 4, _, rfl, rfl, ⟨ready_mem, ⟨rfl, rfl⟩, by decide, by decide, src_low rfl, nofun, fun _ => vdst_low rfl, nofun⟩,
    by unfold noPeer; decide, by decide⟩

theorem meets_LocalLoads_vector_trap : ∃ i r u, tableLoads i = some r ∧ r.space = 1 ∧ r.Ready false wMem ∧ (∀ L ∈ r.units wMem, noPeer (r.ea wMem L)) ∧
    (∀ L ∈ r.units wMem, ¬ (localCause wMem r.size (r.ea wMem L) = none ∧ wMem.blk.windowBad (r.ea wMem L).toNat r.size = true)) ∧
    r.firstFailure (fun s => localCause s r.size) wMem u :=
  ⟨.vldIndexed 1 63 2 1 4, _, 2, rfl, rfl, ⟨ready_mem, ⟨rfl, rfl⟩, by decide, by decide, src_low rfl, vsrcs_low rfl, fun _ => vdst_low rfl, nofun⟩,
    by unfold noPeer; decide, by decide, by decide, by decide, by decide⟩

theorem meets_LocalLoads_vector_poison : ∃ i r, tableLoads i = some r ∧ r.space = 1 ∧ r.Ready false wBad ∧ (∀ L ∈ r.units wBad, noPeer (r.ea wBad L)) ∧
    (∃ L ∈ r.units wBad, localCause wBad r.size (r.ea wBad L) = none ∧ wBad.blk.windowBad (r.ea wBad L).toNat r.size = true) ∧
    ((∃ L ∈ r.units wBad, localCause wBad r.size (r.ea wBad L) ≠ none) → r.whole = false) :=
  ⟨.vldBroadcast 1 63 1 4, _, rfl, rfl, ⟨ready_bad, ⟨rfl, rfl⟩, by decide, by decide, src_low rfl, nofun, fun _ => vdst_low rfl, nofun⟩,
    by unfold noPeer; decide, by decide, fun _ => rfl⟩

theorem meets_LocalStores : ∃ (z : BitVec 2) (d a : BitVec 6) (i : BitVec 10), Ready wMem ∧ SrcOk wMem d ∧ SrcOk wMem a ∧ noPeer (src wMem a + wMem.imm i) ∧
    localCause wMem (2 ^ z.toNat) (src wMem a + wMem.imm i) = none :=
  ⟨3, 55, 2, 0, ready_mem, src_low rfl, src_low rfl, Or.inl (by decide), by decide⟩

theorem meets_LocalStores_trap : ∃ (z : BitVec 2) (a : BitVec 6) (i : BitVec 10) (c : Cause), noPeer (src wMem a + wMem.imm i) ∧
    localCause wMem (2 ^ z.toNat) (src wMem a + wMem.imm i) = some c := ⟨3, 2, 4, .misaligned, Or.inl (by decide), by decide⟩

theorem meets_LocalStores_vector : ∃ i r, tableStores i = some r ∧ r.space = 1 ∧ r.Ready true wMem ∧ (∀ u ∈ r.units wMem, noPeer (r.ea wMem u)) ∧
    ∀ u ∈ r.units wMem, localCause wMem r.size (r.ea wMem u) = none :=
  ⟨.vstIndexed 1 63 1 1 4, _, rfl, rfl, ⟨ready_mem, ⟨rfl, rfl⟩, by decide, by decide, src_low rfl, vsrcs_low rfl, nofun, fun _ => by decide⟩,
    by unfold noPeer; decide, by decide⟩

theorem meets_LocalStores_vector_trap : ∃ i r u, tableStores i = some r ∧ r.space = 1 ∧ r.Ready true wMem ∧ (∀ u ∈ r.units wMem, noPeer (r.ea wMem u)) ∧
    r.firstFailure (fun s => localCause s r.size) wMem u :=
  ⟨.vstbm 1 63 2 1, _, 11, rfl, rfl, ⟨ready_mem, ⟨rfl, rfl⟩, by decide, by decide, src_low rfl, vsrcs_low rfl, nofun, fun _ => by decide⟩,
    by unfold noPeer; decide, by decide, by decide, by decide⟩

theorem nont_mem : NoNt wMem := by unfold NoNt; decide

theorem meets_GlobalLoads : ∃ (z : BitVec 3) (d a : BitVec 6) (i : BitVec 10) (pa : Nat), Ready wMem ∧ Still wMem ∧ Focused wMem ∧ NoNt wMem ∧ z.toNat ≤ 6 ∧
    SrcOk wMem a ∧ DstOk d ∧ (src wMem a + wMem.imm i).toNat % 2 ^ (z.toNat / 2) = 0 ∧ Mapped wMem .read (src wMem a + wMem.imm i) pa ∧
    InL1 wMem pa (2 ^ (z.toNat / 2)) :=
  ⟨6, 55, 7, 0, 0x40038, ready_mem, ⟨rfl, rfl⟩, focused_mem, nont_mem, by decide, src_low rfl, dst_low rfl, by decide, mapped_mem (by decide), by unfold InL1; decide⟩

theorem meets_GlobalLoads_vector : ∃ i r, ∃ pa : Nat → Nat, tableLoads i = some r ∧ r.space = 0 ∧ r.Ready false wMem ∧ Focused wMem ∧ NoNt wMem ∧
    (∀ L ∈ r.units wMem, (r.ea wMem L).toNat % r.size = 0 ∧ Mapped wMem .read (r.ea wMem L) (pa L) ∧ InL1 wMem (pa L) r.size) := by
  refine ⟨.vldUnit 0 63 5 4, _, fun L => 0x40000 + L * 4, rfl, rfl, ⟨ready_mem, ⟨rfl, rfl⟩, by decide, by decide, src_low rfl, nofun, fun _ => vdst_low rfl, nofun⟩, focused_mem, nont_mem, ?_⟩
  intro L h
  refine ⟨?_, mapped_mem ?_, ?_⟩ <;> revert L <;> (try unfold InL1) <;> decide

theorem meets_GlobalStores : ∃ (z : BitVec 2) (d a : BitVec 6) (i : BitVec 10) (pa : Nat), Ready wMem ∧ Still wMem ∧ SrcOk wMem d ∧ SrcOk wMem a ∧
    (src wMem a + wMem.imm i).toNat % 2 ^ z.toNat = 0 ∧ Mapped wMem .write (src wMem a + wMem.imm i) pa ∧
    RoomInL1 wMem ((List.range (2 ^ z.toNat)).map (pa + ·)) :=
  ⟨3, 55, 7, 0, 0x40038, ready_mem, ⟨rfl, rfl⟩, src_low rfl, src_low rfl, by decide, mapped_mem (by decide), by unfold RoomInL1; decide⟩

theorem meets_GlobalStores_vector : ∃ i r, ∃ pa : Nat → Nat, tableStores i = some r ∧ r.space = 0 ∧ r.Ready true wMem ∧
    (∀ u ∈ r.units wMem, (r.ea wMem u).toNat % r.size = 0 ∧ Mapped wMem .write (r.ea wMem u) (pa u)) ∧
    RoomInL1 wMem ((r.units wMem).flatMap (fun u => (List.range r.size).map (pa u + ·))) := by
  refine ⟨.vstUnit 0 63 5 4, _, fun L => 0x40000 + L * 4, rfl, rfl, ⟨ready_mem, ⟨rfl, rfl⟩, by decide, by decide, src_low rfl, vsrcs_low rfl, nofun, fun _ => by decide⟩, ?_, by unfold RoomInL1; decide⟩
  intro L h
  refine ⟨?_, mapped_mem ?_⟩ <;> revert L <;> decide

theorem meets_NonTemporalStore : ∃ (d : BitVec 7) (b : BitVec 6) (z : BitVec 3) (pa : Nat → Nat), Ready wMem ∧ Still wMem ∧ Focused wMem ∧ wMem.me.budget ≤ 64 ∧
    wMem.active ≠ 0 ∧ z = 4 ∧ SrcOk wMem b ∧ VSrcOk wMem d ∧ wMem.disagree wMem.active = 0 ∧
    DirtySorted wMem ∧ RoomAtHome wMem (wMem.core.dirty.map (fun e => e.1 / 256)) ∧ Quiet wMem ∧
    (∀ L ∈ activeLanes wMem, (src wMem b + BitVec.ofNat 64 (L * vsize z)).toNat % vsize z = 0 ∧
      Mapped wMem .write (src wMem b + BitVec.ofNat 64 (L * vsize z)) (pa L)) := by
  refine ⟨63, 5, 4, fun L => 0x40000 + L * 4, ready_mem, ⟨rfl, rfl⟩, focused_mem, by decide, by decide, rfl, src_low rfl, vsrc_low rfl, by decide, by unfold DirtySorted; decide, by unfold RoomAtHome; decide,
    by unfold Quiet; decide, ?_⟩
  intro L h
  refine ⟨?_, mapped_mem ?_⟩ <;> revert L <;> decide

/-- The strand's load has its reply. -/
def wReply (decode poison : List Nat) : State :=
  wMem.mapMe (fun t => { t with issued := true, memWait := some { acc := .read, ok := [], failed := [], waiting := [], got := [] }, flight := some (.loaded [(0, 7)] decode poison) })

theorem meets_LoadReplies : ∀ p ∈ [[], [0]], ∀ q ∈ [[], [0]], ∃ m v, (wReply p q).me.run = .running ∧ (wReply p q).me.issued = true ∧
    (wReply p q).me.stepping = false ∧ (wReply p q).me.readyAt ≤ (wReply p q).now ∧ (wReply p q).me.corrupt = [] ∧ (wReply p q).graftLog = [] ∧
    (wReply p q).me.memWait = some m ∧ m.failed = [] ∧ m.waiting = [] ∧ m.ok = [] ∧ m.got = [] ∧ (p = [] ∨ p = [0]) ∧
    (q = [] ∨ q = [0]) ∧ (wReply p q).me.flight = some (.loaded [(0, v)] p q) :=
  fun p hp q hq => ⟨_, 7, rfl, rfl, rfl, (by decide : (0 : Nat) ≤ 1000), rfl, rfl, rfl, rfl, rfl, rfl, rfl, by simpa using hp, by simpa using hq, rfl⟩

/-- The strand's vector load has its reply. -/
def wReplyV (decode poison : List Nat) : State :=
  wMem.mapMe (fun t => { t with
    issued := true, memWait := some { acc := .read, ok := [], failed := [], waiting := [], got := [] },
    flight := some (.loaded [(1, 7), (31, 9)] decode poison) })

theorem meets_LoadReplies_vector : ∀ p ∈ [[], [0]], ∀ q ∈ [[], [2]], ∃ i r m vals, tableLoads i = some r ∧ r.space = 0 ∧ (wReplyV p q).me.run = .running ∧
    (wReplyV p q).me.issued = true ∧ (wReplyV p q).me.stepping = false ∧ (wReplyV p q).me.readyAt ≤ (wReplyV p q).now ∧ (wReplyV p q).me.corrupt = [] ∧
    (wReplyV p q).graftLog = [] ∧ (wReplyV p q).active ≠ 0 ∧ (isChan r.data = true → (wReplyV p q).disagree (wReplyV p q).active = 0) ∧
    (wReplyV p q).me.memWait = some m ∧ m.failed = [] ∧ m.waiting = [] ∧ m.ok = [] ∧ m.got = [] ∧ (∀ v ∈ vals, v.1 < 32 ∧ v.1 ∉ p) ∧ vals ≠ [] ∧
    (wReplyV p q).me.flight = some (.loaded vals p q) :=
  fun p hp q _ => ⟨.vldUnit 0 63 5 4, _, _, [(1, 7), (31, 9)], rfl, rfl, rfl, rfl, rfl, (by decide : (0 : Nat) ≤ 1000), rfl, rfl,
    (by decide : wMem.active ≠ 0), nofun, rfl, rfl, rfl, rfl, rfl,
    (by decide : ∀ p ∈ [[], [0]], ∀ v ∈ [((1 : Nat), (7 : Nat)), (31, 9)], v.1 < 32 ∧ v.1 ∉ p) p hp, by decide, rfl⟩

theorem release_mem (c : BitVec 3) : CanRelease c wMem := by
  unfold CanRelease; split
  · decide
  · decide

theorem meets_ScalarAtomics : ∃ i d a b, ∃ r : AtomRow 64, tableR116 i = some (d, a, b, r) ∧ Focused wMem ∧ wMem.me.stepping = false ∧ wMem.graftLog = [] ∧
    DstOk d ∧ Ready wMem ∧ Still wMem ∧ (∀ f ∈ [d, a, b], SrcOk wMem f) ∧ r.mayRelease wMem ∧ r.scope.toNat ≤ 2 ∧ noPeer (src wMem a) ∧
    localCause wMem 8 (src wMem a) = none ∧ wMem.blk.windowBad (src wMem a).toNat 8 = false :=
  ⟨.satmCas 55 2 54 2 3, _, _, _, _, rfl, focused_mem, rfl, rfl, dst_low rfl, ready_mem, ⟨rfl, rfl⟩, srcs_low rfl, fun _ => release_mem _, by decide, Or.inl (by decide), by decide, by decide⟩

theorem meets_ScalarAtomics_far : ∃ i d a b, ∃ r : AtomRow 64, ∃ pa, tableR116 i = some (d, a, b, r) ∧ Ready wMem ∧ Still wMem ∧ (∀ f ∈ [a, b], SrcOk wMem f) ∧
    r.mayRelease wMem ∧ 3 ≤ r.scope.toNat ∧ r.scope.toNat ≤ 5 ∧ (src wMem a).toNat % 8 = 0 ∧ Mapped wMem .atomic (src wMem a) pa :=
  ⟨.satmAdd 0 7 55 5 2, _, _, _, _, 0x40038, rfl, ready_mem, ⟨rfl, rfl⟩, srcs_low rfl, fun _ => release_mem _, by decide, by decide, by decide, mapped_mem (by decide)⟩

theorem meets_ScalarAtomics_reply : ∃ i d a b, ∃ r : AtomRow 64, ∃ m v, tableR116 i = some (d, a, b, r) ∧ (wReply [] []).me.run = .running ∧
    (wReply [] []).me.issued = true ∧ (wReply [] []).me.readyAt ≤ (wReply [] []).now ∧ (wReply [] []).me.corrupt = [] ∧ (wReply [] []).me.memWait = some m ∧ m.failed = [] ∧
    m.waiting = [] ∧ m.ok = [] ∧ m.got = [] ∧ (wReply [] []).me.flight = some (.loaded [(0, v)] [] []) ∧ Focused (wReply [] []) ∧ DstOk d :=
  ⟨.satmXor 55 7 0 4 1, _, _, _, _, _, _, rfl, rfl, rfl, by decide, rfl, rfl, rfl, rfl, rfl, rfl, rfl, ⟨by decide, by decide, by decide⟩, dst_low rfl⟩

theorem meets_VectorAtomics : ∃ i d b o, ∃ r : AtomRow 32, tableR115 i = some (d, b, o, r) ∧ Focused wMem ∧ wMem.me.stepping = false ∧ wMem.graftLog = [] ∧
    wMem.me.budget ≤ 64 ∧ d.toNat < wMem.me.budget ∧ (r.fn = 6 → d.toNat + 1 < wMem.me.budget) ∧ o.toNat < wMem.me.budget ∧ wMem.active ≠ 0 ∧
    wMem.disagree wMem.active = 0 ∧ wMem.me.run = .running ∧ Ready wMem ∧ Still wMem ∧ SrcOk wMem b ∧ r.mayRelease wMem ∧ r.scope.toNat ≤ 2 ∧
    ∀ L ∈ activeLanes wMem, noPeer (src wMem b + (el wMem (o.setWidth 7) L).signExtend 64) ∧ localCause wMem 4 (src wMem b + (el wMem (o.setWidth 7) L).signExtend 64) = none ∧
      wMem.blk.windowBad (src wMem b + (el wMem (o.setWidth 7) L).signExtend 64).toNat 4 = false :=
  ⟨.vatmCas 62 1 1 2 3, _, _, _, _, rfl, focused_mem, rfl, rfl, by decide, by decide, by decide, by decide, by decide, by decide, rfl, ready_mem, ⟨rfl, rfl⟩, src_low rfl,
    fun _ => release_mem _, by decide, by unfold noPeer; decide⟩

theorem meets_VectorAtomics_trap : ∃ i d b o, ∃ r : AtomRow 32, ∃ u c, tableR115 i = some (d, b, o, r) ∧ u ∈ activeLanes wMem ∧
    (∀ L ∈ activeLanes wMem, noPeer (src wMem b + (el wMem (o.setWidth 7) L).signExtend 64)) ∧
    localCause wMem 4 (src wMem b + (el wMem (o.setWidth 7) u).signExtend 64) = some c ∧
    (∀ L ∈ activeLanes wMem, L < u → localCause wMem 4 (src wMem b + (el wMem (o.setWidth 7) L).signExtend 64) = none) :=
  ⟨.vatmIncw 63 2 1 0 0, _, _, _, _, 2, .permission, rfl, by decide, by unfold noPeer; decide, by decide, by decide⟩

theorem meets_VectorAtomics_far : ∃ i d b o, ∃ r : AtomRow 32, ∃ pa : Nat → Nat, tableR115 i = some (d, b, o, r) ∧ r.mayRelease wMem ∧ 3 ≤ r.scope.toNat ∧ r.scope.toNat ≤ 5 ∧
    SrcOk wMem b ∧ (∀ L ∈ activeLanes wMem, (src wMem b + (el wMem (o.setWidth 7) L).signExtend 64).toNat % 4 = 0 ∧
      Mapped wMem .atomic (src wMem b + (el wMem (o.setWidth 7) L).signExtend 64) (pa L)) := by
  refine ⟨.vatmFadd 63 5 1 3 3, _, _, _, _, fun L => 0x40000 + L * 4, rfl, fun _ => release_mem _, by decide, by decide, src_low rfl, ?_⟩
  intro L h
  refine ⟨?_, mapped_mem ?_⟩ <;> revert L <;> decide

theorem meets_VectorAtomics_reply : ∃ m vals, Focused (wReply [] []) ∧ (wReply [] []).active ≠ 0 ∧ (wReply [] []).me.issued = true ∧ (wReply [] []).me.readyAt ≤ (wReply [] []).now ∧
    (wReply [] []).me.corrupt = [] ∧ (wReply [] []).me.memWait = some m ∧ m.failed = [] ∧ m.waiting = [] ∧ m.ok = [] ∧ m.got = [] ∧ vals ≠ [] ∧
    (wReply [] []).me.flight = some (.loaded vals [] []) :=
  ⟨_, _, ⟨by decide, by decide, by decide⟩, by decide, rfl, by decide, rfl, rfl, rfl, rfl, rfl, rfl, by decide, rfl⟩

theorem sorted_mem : DirtySorted wMem := by unfold DirtySorted; decide

theorem meets_PhaseBoundaries : ∃ c : BitVec 3, Ready wMem ∧ Focused wMem ∧ DirtySorted wMem ∧ c.toNat ≤ 5 ∧ 2 ≤ c.toNat ∧ CanRelease c wMem ∧
    RoomAtHome wMem (wMem.core.dirty.map (fun e => e.1 / 256)) ∧ Quiet wMem ∧ (∀ e ∈ wMem.core.nt, e.strand ≠ wMem.me.id) :=
  ⟨5, ready_mem, focused_mem, sorted_mem, by decide, by decide, release_mem _, by unfold RoomAtHome; decide, by unfold Quiet; decide, by decide⟩

theorem meets_PhaseBoundaries_narrow : ∃ c : BitVec 3, c.toNat ≤ 5 ∧ c.toNat < 2 ∧ CanRelease c wMem := ⟨1, by decide, by decide, release_mem _⟩

/-- A peer has not acknowledged a store, and a non-temporal byte waits. -/
def wWaits : State := { wMem.mapMe (fun t => { t with peerStores := 1 }) with core := { wMem.core with nt := [{ strand := 2, addr := 0x50000, byte := 1, seen := false }] } }

theorem meets_PhaseBoundaries_waits : ∃ c : BitVec 3, Ready wWaits ∧ Focused wWaits ∧ DirtySorted wWaits ∧ c.toNat ≤ 5 ∧ 2 ≤ c.toNat ∧ ¬ CanRelease c wWaits ∧
    (∃ e ∈ wWaits.core.nt, e.strand = wWaits.me.id) :=
  ⟨2, ⟨rfl, rfl, rfl, rfl, by decide, by decide, rfl, rfl⟩, ⟨by decide, by decide, by decide⟩, by unfold DirtySorted; decide, by decide, by decide, by unfold CanRelease; decide, by decide⟩

theorem meets_LineOperations : ∃ (c : BitVec 3) (a : BitVec 6) (pa : Nat), Ready wMem ∧ Still wMem ∧ Focused wMem ∧ DirtySorted wMem ∧ c.toNat ≤ 5 ∧ SrcOk wMem a ∧
    Mapped wMem .read (src wMem a) pa ∧ Quiet wMem ∧ wMem.heldBack wMem.blk.core [pa] = false ∧ 3 ≤ c.toNat ∧ isDram pa = true ∧
    (wMem.sliceLine (pa / 256)).dirty = 0 :=
  ⟨5, 6, 0x40040, ready_mem, ⟨rfl, rfl⟩, focused_mem, sorted_mem, by decide, src_low rfl, mapped_mem (by decide), by unfold Quiet; decide, by decide, by decide, by decide, by decide⟩

/-- A link that retrains. -/
def badLink : Link := { fails := 0, replays := 0, sparesUp := 2, sparesDown := 2, retrain := true, lost := false, flitsUp := [], flitsDown := [] }

/-- The page lies in another die, whose link retrains. -/
def wLinkHeld : State :=
  { wMem with tlb := wMem.tlb.map (fun e => { e with pa := 2 ^ 36 + 0x40000 }), links := #v[badLink, badLink, badLink, badLink, badLink, badLink] }

theorem meets_LineOperations_held : ∃ (c : BitVec 3) (a : BitVec 6) (pa : Nat), Ready wLinkHeld ∧ Still wLinkHeld ∧ Focused wLinkHeld ∧ DirtySorted wLinkHeld ∧ c.toNat ≤ 5 ∧
    SrcOk wLinkHeld a ∧ Mapped wLinkHeld .read (src wLinkHeld a) pa ∧ Quiet wLinkHeld ∧ 3 ≤ c.toNat ∧ wLinkHeld.heldBack wLinkHeld.blk.core [pa] = true :=
  ⟨5, 6, 2 ^ 36 + 0x40040, ⟨rfl, rfl, rfl, rfl, by decide, by decide, rfl, rfl⟩, ⟨rfl, rfl⟩, ⟨by decide, by decide, by decide⟩, by unfold DirtySorted; decide,
    by decide, src_low rfl, mapped_mem (by decide), by unfold Quiet; decide, by decide, by decide⟩

theorem meets_LineOperations_narrow : ∃ (c : BitVec 3), c.toNat ≤ 5 ∧ c.toNat < 3 := ⟨2, by decide, by decide⟩

/-! ## What the statements assume can be met: tiles, gangs, batches, trays, barriers, channels -/

/-- A strand of role kind 1 (matrix) in slot 0 of a gang with slot 1; a matrix operation on tile 3 and tray 2 is not complete; tile 7 has
one element; batches stand open. -/
def wTile : State :=
  let op : MxOp := { id := 9, block := 1, members := [], mmac := false, acc := 3, plane := 0, tray := 2, kcnt := 1, t := false, s := false, p := false, started := false, next := 0, drained := 0, queues := [], arrivals := [], rovf := [], fault := none, issuedAt := 0, done := false }
  let tile : Tile := { Tile.init with elems := [(2047, { a := 5, rw := 0, nan := false, ru := false })], poison := [0] }
  let b (n : Nat) (d : Bool) (f : Option BatchFault) : Batch := { num := n, ops := [{ op := n, join := 3, done := d, fault := f }], reported := false, joined := false }
  { w0.mapBlk (fun b => { b with tiles := b.tiles.set 7 tile }) with
    mxops := [op]
    strands := [{ placedStrand with id := 50, slot := 1, kind := 1 }]
    me := { w0.me with kind := 1, gang := 3, mx := { last := 2, batches := [b 1 true none, b 2 false none], unsealed := [] }, cp := { last := 2, batches := [b 1 true none, b 2 true (some { cause := .format, tval := 5, taddr := 6 })], unsealed := [] }, sw := { last := 15, batches := (List.range 15).map (fun k => b (k + 1) false none), unsealed := [] } } }

theorem ready_tile : Ready wTile := ⟨rfl, rfl, rfl, rfl, by decide, by decide, rfl, rfl⟩

theorem focused_tile : Focused wTile := ⟨by decide, by decide, by decide⟩

theorem meets_TileWords : ∃ (a : BitVec 3) (r d : BitVec 6) (k : BitVec 6), Ready wTile ∧ a.toNat < wTile.blk.tiles.length ∧ k.toNat ∈ [20, 24, 28, 32, 36, 41] ∧
    SrcOk wTile r ∧ DstOk d ∧ ¬ Busy wTile a ∧ (tileOf wTile a).d < 64 :=
  ⟨7, 55, 0, 41, ready_tile, by decide, by decide, src_low rfl, dst_low rfl, by unfold Busy; decide, by decide⟩

theorem meets_TileWords_busy : ∃ (a : BitVec 3) (r d : BitVec 6) (k : BitVec 6), Ready wTile ∧ a.toNat < wTile.blk.tiles.length ∧ k.toNat ∈ [20, 24, 28, 32, 36, 41] ∧
    SrcOk wTile r ∧ DstOk d ∧ Busy wTile a ∧ isPort r = false :=
  ⟨3, 55, 0, 20, ready_tile, by decide, by decide, src_low rfl, dst_low rfl, by unfold Busy; decide, rfl⟩

theorem meets_ReadOut : ∃ (d : BitVec 7) (a : BitVec 3) (r : BitVec 4) (g : BitVec 2) (x : BitVec 6), Ready wTile ∧ wTile.me.budget ≤ 64 ∧ wTile.me.prot = false ∧
    a.toNat < wTile.blk.tiles.length ∧ ¬ Busy wTile a ∧ wTile.active ≠ 0 ∧
    (∀ L < 32, wTile.active.getLsbD L = true → 128 * r.toNat + 32 * g.toNat + L ∉ (tileOf wTile a).poison) ∧ SrcOk wTile x ∧ VDstOk wTile [] d ∧
    d.toNat + 1 < wTile.me.budget :=
  ⟨62, 7, 15, 3, 55, ready_tile, by decide, rfl, by decide, by unfold Busy; decide, by decide, by decide, src_low rfl, vdst_low rfl, by decide⟩

theorem meets_ExactAccumulation : ∃ (g : Stage) (t : Int), g.pq.length ≤ 4 ∧ g.nq.length ≤ 4 ∧ (∀ x ∈ g.pq, 0 < x ∧ x < 2 ^ 27) ∧
    (∀ x ∈ g.nq, x < 0 ∧ -(2 ^ 27) < x) ∧ -(2 ^ 27) < t ∧ t < 2 ^ 27 ∧ (g.arrive t).rovf = false ∧ (g.drain 9).rovf = false :=
  ⟨{ e := { a := 0, rw := 0, nan := false, ru := false }, pq := [], nq := [-(2 ^ 27 - 1)], rovf := false, steps := 0 }, 2 ^ 27 - 1, by decide, by decide, by decide, by decide,
    by decide, by decide, by decide, by decide⟩

theorem meets_MatrixWords : ∃ (a : BitVec 3) (w : BitVec 7) (r k : BitVec 4) (p : BitVec 1), Ready wTile ∧ wTile.me.wait = .none ∧ wTile.me.kind = 1 ∧
    a.toNat < wTile.blk.tiles.length ∧ w.toNat + k.toNat + 1 ≤ wTile.blk.planes.length ∧ r.toNat < wTile.blk.trays.length ∧
    (p = 1 ∨ k.toNat + 1 ≤ (wTile.blk.trays[r.toNat]?.getD .init).nslot) ∧
    let slots := (List.range 32).filter (fun j => wTile.me.gang.getLsbD j)
    2 ≤ slots.length ∧ slots.length ≤ 6 ∧ wTile.me.slot ∈ slots ∧
    (∀ j ∈ slots, ∃ t, (wTile.strandsOf wTile.me.block).find? (fun t => t.slot == j) = some t ∧ t.kind = 1 ∧ t.run ≠ .halted ∧ t.run ≠ .exited) ∧
    CanRelease 1 wTile ∧ wTile.blk.latch = none := by
  refine ⟨7, 112, 15, 15, 1, ready_tile, rfl, rfl, by decide, by decide, by decide, Or.inl rfl, by decide, by decide, by decide, ?_, by unfold CanRelease; decide, rfl⟩
  have e : (List.range 32).filter (fun j => wTile.me.gang.getLsbD j) = [0, 1] := by decide
  rw [e]
  intro j h
  rcases List.mem_cons.mp h with rfl | h
  · exact ⟨wTile.me, by decide, by decide, by decide, by decide⟩
  · rw [List.mem_singleton.mp h]; exact ⟨{ placedStrand with id := 50, slot := 1, kind := 1 }, by decide, by decide, by decide, by decide⟩

theorem meets_MatrixWords_gang : ∃ s, s = wTile.mapMe (fun t => { t with gang := 1 }) ∧ Ready s ∧ s.me.wait = .none ∧ s.me.kind = 1 ∧
    ¬ 2 ≤ ((List.range 32).filter (fun j => s.me.gang.getLsbD j)).length :=
  ⟨_, rfl, ⟨rfl, rfl, rfl, rfl, by decide, by decide, rfl, rfl⟩, rfl, rfl, by decide⟩

/-- A store of the strand to a peer's window is still to be performed. -/
def withPacket (s : State) : State :=
  { s with core := { s.core with packets := [{ strand := s.me.id, block := 7, off := 0, bytes := [1], act := 0, amount := 0 }] } }

theorem held_packet (s : State) (c : BitVec 3) (h : ¬ 2 ≤ c.toNat) : ¬ CanRelease c (withPacket s) := by
  unfold CanRelease; rw [if_neg h]; simp [withPacket]

theorem meets_MatrixWords_held : Ready (withPacket wTile) ∧ (withPacket wTile).me.gang = wTile.me.gang ∧ ¬ CanRelease 1 (withPacket wTile) :=
  ⟨⟨rfl, rfl, rfl, rfl, by decide, by decide, rfl, rfl⟩, rfl, held_packet _ _ (by decide)⟩

theorem meets_MatrixWords_released : ∃ s, s = wTile.mapMe (fun t => { t with issued := true, wait := .released }) ∧ Resumed s ∧ s.me.wait = .released ∧ ∃ c, SrcOk wTile c :=
  ⟨_, rfl, ⟨rfl, rfl, rfl, (by decide : (0 : Nat) ≤ 1000), rfl, rfl⟩, rfl, 55, src_low rfl⟩

theorem meets_BatchWords : ∃ (d : BitVec 6) (e : BitVec 2) (n : BitVec 4), Ready wTile ∧ Focused wTile ∧ wTile.me.wait = .none ∧ e.toNat ≤ 2 ∧ DstOk d ∧
    openBatches (sealed (engineOf e wTile.me)) < 16 ∧ openBatches (engineOf e wTile.me) ≤ n.toNat ∧
    (∀ k ∈ completeOf (engineOf e wTile.me), k.reported = true ∨ firstFault k = none) :=
  ⟨55, 0, 1, ready_tile, focused_tile, rfl, by decide, dst_low rfl, by decide, by decide, by decide⟩

theorem meets_BatchWords_wait : ∃ (e : BitVec 2) (n : BitVec 4), e.toNat ≤ 2 ∧ n.toNat < openBatches (engineOf e wTile.me) := ⟨0, 0, by decide, by decide⟩

theorem meets_BatchWords_full : ∃ e : BitVec 2, e.toNat ≤ 2 ∧ 16 ≤ openBatches (sealed (engineOf e wTile.me)) := ⟨2, by decide, by decide⟩

theorem meets_BatchWords_fault : ∃ (e : BitVec 2) (n : BitVec 4) (l r : List Batch) (k : Batch) (f : BatchFault), e.toNat ≤ 2 ∧
    openBatches (engineOf e wTile.me) ≤ n.toNat ∧ completeOf (engineOf e wTile.me) = l ++ k :: r ∧ (∀ j ∈ l, j.reported = true ∨ firstFault j = none) ∧
    k.reported = false ∧ firstFault k = some f :=
  ⟨1, 0, [{ num := 1, ops := [{ op := 1, join := 3, done := true, fault := none }], reported := false, joined := false }], [], _, _, by decide, by decide, rfl, by decide,
    rfl, rfl⟩

/-- Tray 0 has a filled and two free slots, tray 1 none of either, tray 3 one landed out of order; descriptors stand at 0x100 (a tray of two
slots of 128 bytes), 0x120 (the same, streamed) and 0x140 (no slots); a barrier at 0x200 in round 0, one at 0x208 that is abandoned. -/
def wTray : State :=
  let desc (nslot stream : Nat) : List Byte := natBytes 4 0 ++ natBytes 4 128 ++ natBytes 1 nslot ++ natBytes 1 4 ++ natBytes 2 0 ++ natBytes 1 0 ++ natBytes 1 stream ++ natBytes 18 0
  let tray (f x n : Nat) : Tray := { Tray.init with nslot := 4, filled := f, free := x, head := 0, tail := n }
  { w0.mapBlk (fun b => { b with
      windowSize := 0x300
      window := Memory.write (Memory.write (Memory.write (Memory.write [] 0x100 (desc 2 0)) 0x120 (desc 2 1)) 0x140 (desc 0 0)) 0x200 (natBytes 8 (1 * 2 ^ 24 + 1) ++ natBytes 8 (0xFFFF * 2 ^ 40))
      trays := [tray 1 2 1, tray 0 0 0, tray 0 2 2, tray 0 2 1] }) with
    me := regs [(1, 0x100), (2, 0x120), (3, 0x140), (4, 0x2F0), (5, 0x200), (6, 0x208), (7, 1), (8, 65535), (9, 0)] w0.me
    strands := [{ placedStrand with id := 50, slot := 1 }] }

theorem ready_tray : Ready wTray := ⟨rfl, rfl, rfl, rfl, by decide, by decide, rfl, rfl⟩

theorem focused_tray : Focused wTray := ⟨by decide, by decide, by decide⟩

theorem meets_TrayWords : ∃ (t : BitVec 4) (r d : BitVec 6), Ready wTray ∧ Focused wTray ∧ t.toNat < wTray.blk.trays.length ∧ SrcOk wTray r ∧ DstOk d ∧
    noPeer (src wTray r) ∧ localCause wTray 32 (src wTray r) = none ∧ ¬ Reading wTray t ∧ (∀ c ∈ wTray.copies, c.side ≠ CoreSide.tray t.toNat) ∧
    badDescriptor wTray (src wTray r).toNat = none ∧ windowField wTray ((src wTray r).toNat + 13) 1 = 0 ∧ (trayOf wTray t).filled ≠ 0 ∧ CanRelease 1 wTray :=
  ⟨0, 1, 55, ready_tray, focused_tray, by decide, src_low rfl, dst_low rfl, Or.inl (by decide), by decide, by unfold Reading; decide, by decide, by decide, by decide, by decide,
    by unfold CanRelease; decide⟩

theorem meets_TrayWords_held : ∃ t : BitVec 4, Ready (withPacket wTray) ∧ Focused (withPacket wTray) ∧ (trayOf (withPacket wTray) t).filled ≠ 0 ∧
    (trayOf (withPacket wTray) t).free ≠ 0 ∧ (trayOf (withPacket wTray) t).stream = false ∧ ¬ Reading (withPacket wTray) t ∧ ¬ CanRelease 1 (withPacket wTray) :=
  ⟨0, ⟨rfl, rfl, rfl, rfl, by decide, by decide, rfl, rfl⟩, ⟨by decide, by decide, by decide⟩, by decide, by decide, rfl, by unfold Reading; decide,
    held_packet _ _ (by decide)⟩

theorem meets_TrayWords_stream : ∃ (r : BitVec 6), SrcOk wTray r ∧ localCause wTray 32 (src wTray r) = none ∧ badDescriptor wTray (src wTray r).toNat = none ∧
    windowField wTray ((src wTray r).toNat + 13) 1 = 1 := ⟨2, src_low rfl, by decide, by decide, by decide⟩

theorem meets_TrayWords_format : ∃ (r : BitVec 6) (k : Nat), SrcOk wTray r ∧ localCause wTray 32 (src wTray r) = none ∧ badDescriptor wTray (src wTray r).toNat = some k :=
  ⟨3, 8, src_low rfl, by decide, by decide⟩

theorem meets_TrayWords_address : ∃ (r : BitVec 6) (c : Cause), SrcOk wTray r ∧ noPeer (src wTray r) ∧ localCause wTray 32 (src wTray r) = some c :=
  ⟨4, .misaligned, src_low rfl, Or.inl (by decide), by decide⟩

theorem meets_TrayWords_empty : ∃ (t : BitVec 4), t.toNat < wTray.blk.trays.length ∧ (trayOf wTray t).filled = 0 ∧ (trayOf wTray t).stream = false ∧ (trayOf wTray t).free = 0 :=
  ⟨1, by decide, by decide, rfl, by decide⟩

theorem meets_TrayWords_commit : ∃ (t : BitVec 4), let y := trayOf wTray t
    t.toNat < wTray.blk.trays.length ∧ y.stream = false ∧ y.free ≠ 0 ∧ y.res = 0 ∧ y.landed = [] ∧ y.tail = (y.head + y.filled) % y.nslot ∧ 0 < y.nslot :=
  ⟨0, by decide, rfl, by decide, rfl, rfl, by decide, by decide⟩

theorem meets_TrayWords_commit_later : ∃ (t : BitVec 4), let y := trayOf wTray t
    t.toNat < wTray.blk.trays.length ∧ y.stream = false ∧ y.free ≠ 0 ∧ y.landed = [] ∧ y.tail ≠ (y.head + y.filled) % y.nslot ∧ 0 < y.nslot :=
  ⟨3, by decide, rfl, by decide, rfl, by decide, by decide⟩

theorem meets_BarrierWords : ∃ (a b : BitVec 6), Ready wTray ∧ Focused wTray ∧ wTray.me.block = wTray.blk.id ∧ wTray.me.wait ≠ .sleeping ∧ SrcOk wTray a ∧ SrcOk wTray b ∧
    noPeer (src wTray a) ∧ localCause wTray 8 (src wTray a) = none ∧ 1 ≤ (src wTray b).toNat ∧ (src wTray b).toNat ≤ 65535 ∧
    (BitVec.ofNat 64 (windowNum wTray (src wTray a).toNat 8) : W64).extractLsb' 40 16 ≠ 0xFFFF#16 ∧
    (BitVec.ofNat 64 (windowNum wTray (src wTray a).toNat 8) : W64).extractLsb' 56 8 ≠ (src wTray b).extractLsb' 0 8 ∧ CanRelease 1 wTray :=
  ⟨5, 8, ready_tray, focused_tray, rfl, by decide, src_low rfl, src_low rfl, Or.inl (by decide), by decide, by decide, by decide, by decide, by decide,
    by unfold CanRelease; decide⟩

theorem meets_BarrierWords_held : ∃ (a b : BitVec 6), isPort a = false ∧ isPort b = false ∧ SrcOk (withPacket wTray) a ∧ noPeer (src (withPacket wTray) a) ∧
    localCause (withPacket wTray) 8 (src (withPacket wTray) a) = none ∧ ¬ CanRelease 1 (withPacket wTray) ∧ ¬ CanRelease 0 (withPacket wTray) :=
  ⟨5, 8, rfl, rfl, src_low rfl, Or.inl (by decide), by decide, held_packet _ _ (by decide), held_packet _ _ (by decide)⟩

theorem meets_BarrierWords_wait : ∃ (a b : BitVec 6), SrcOk wTray a ∧ SrcOk wTray b ∧ localCause wTray 8 (src wTray a) = none ∧ (src wTray b).toNat < 1 ∧
    (BitVec.ofNat 64 (windowNum wTray (src wTray a).toNat 8) : W64).extractLsb' 40 16 ≠ 0xFFFF#16 ∧
    (BitVec.ofNat 64 (windowNum wTray (src wTray a).toNat 8) : W64).extractLsb' 56 8 = (src wTray b).extractLsb' 0 8 ∧ isPort a = false ∧ isPort b = false ∧
    (∀ t ∈ wTray.strands, t.block = wTray.blk.id → t.run ≠ .halted) :=
  ⟨5, 9, src_low rfl, src_low rfl, by decide, by decide, by decide, by decide, rfl, rfl, by decide⟩

theorem meets_BarrierWords_abandoned : ∃ (a : BitVec 6), SrcOk wTray a ∧ localCause wTray 8 (src wTray a) = none ∧
    (BitVec.ofNat 64 (windowNum wTray (src wTray a).toNat 8) : W64).extractLsb' 40 16 = 0xFFFF#16 := ⟨6, src_low rfl, by decide, by decide⟩

theorem meets_BarrierWords_address : ∃ (a : BitVec 6) (c : Cause), SrcOk wTray a ∧ noPeer (src wTray a) ∧ localCause wTray 8 (src wTray a) = some c :=
  ⟨7, .misaligned, src_low rfl, Or.inl (by decide), by decide⟩

/-- The strand has been released from barrier 15 and the other strand has arrived at the cluster's barrier. -/
def wBar (arrived : List Nat) : State :=
  { wTray.mapBlk (fun b => { b with barriers := b.barriers.set 15 { arrived := arrived, firstAt := some 5, released := [], timedOut := [] } }) with
    groupBars := [{ group := wTray.blk.group, arrived := [50], firstAt := some 5, stoppedAt := none, released := [], timedOut := [], halted := false }] }

theorem ready_bar (l : List Nat) : Ready (wBar l) := ⟨rfl, rfl, rfl, rfl, (by decide : (0 : Nat) ≤ 1000), (by decide : (0 : Nat) + 7 * acTicks ≤ 1000), rfl, rfl⟩

theorem meets_BarrierPhases_wait : ∃ b : BitVec 4, Focused (wBar []) ∧ (wBar []).me.block = (wBar []).blk.id ∧ (wBar []).me.handler = false ∧
    b.toNat < (wBar []).blk.barriers.length ∧ Ready (wBar []) ∧ (wBar []).me.wait = .none ∧ CanRelease 0 (wBar []) ∧ (∀ t ∈ (wBar []).strands, t.block = (wBar []).blk.id → t.run ≠ .halted) ∧
    let r := (wBar []).blk.barriers[b.toNat]?.getD .init
    (wBar []).me.slot ∉ r.released ∧ (wBar []).me.slot ∉ r.timedOut ∧
    ¬ (∀ t ∈ (wBar []).strands, t.block = (wBar []).blk.id → t.slot ∈ setInsert r.arrived (wBar []).me.slot ∨ t.run = .exited ∨ t.handler = true) :=
  ⟨15, ⟨by decide, by decide, by decide⟩, rfl, rfl, by decide, ready_bar _, rfl, by unfold CanRelease; decide, by decide, by decide, by decide, by decide⟩

theorem meets_BarrierPhases_last : ∃ b : BitVec 4, Focused (wBar [1]) ∧ b.toNat < (wBar [1]).blk.barriers.length ∧ Ready (wBar [1]) ∧ (wBar [1]).me.wait = .none ∧ CanRelease 0 (wBar [1]) ∧
    (∀ t ∈ (wBar [1]).strands, t.block = (wBar [1]).blk.id → t.run ≠ .halted) ∧
    let r := (wBar [1]).blk.barriers[b.toNat]?.getD .init
    (wBar [1]).me.slot ∉ r.released ∧ (wBar [1]).me.slot ∉ r.timedOut ∧
    (∀ t ∈ (wBar [1]).strands, t.block = (wBar [1]).blk.id → t.slot ∈ setInsert r.arrived (wBar [1]).me.slot ∨ t.run = .exited ∨ t.handler = true) :=
  ⟨15, ⟨by decide, by decide, by decide⟩, by decide, ready_bar _, rfl, by unfold CanRelease; decide, by decide, by decide, by decide, by decide⟩

theorem meets_BarrierPhases_cluster : ∃ g : GroupBarrier, (wBar []).groupBars = [g] ∧ g.group = (wBar []).blk.group ∧ Ready (wBar []) ∧ (wBar []).me.wait = .none ∧
    CanRelease 2 (wBar []) ∧ g.halted = false ∧ (wBar []).me.id ∉ g.released ∧ (wBar []).me.id ∉ g.timedOut ∧
    (∀ k ∈ (wBar []).allBlocks, k.group = (wBar []).blk.group → ∀ t ∈ (wBar []).strandsOf k.id, t.run ≠ .halted ∧
      (t.id = (wBar []).me.id ∨ t.id ∈ g.arrived ∨ t.run = .exited ∨ t.handler = true)) :=
  ⟨_, rfl, rfl, ready_bar _, rfl, ⟨rfl, by decide⟩, rfl, by decide, by decide, by decide⟩

/-- The strand has been released from both barriers. -/
def wReleased (w : Wait) : State :=
  { (wBar []).mapBlk (fun b => { b with barriers := b.barriers.set 15 { arrived := [], firstAt := none, released := [0], timedOut := [] } }) with
    groupBars := [{ group := wTray.blk.group, arrived := [], firstAt := none, stoppedAt := none, released := [2], timedOut := [], halted := false }]
    me := { (wBar []).me with issued := true, wait := w } }

theorem meets_BarrierPhases_released : ∃ b : BitVec 4, Focused (wReleased (.blockBarrier b.toNat)) ∧ Resumed (wReleased (.blockBarrier b.toNat)) ∧
    b.toNat < (wReleased (.blockBarrier b.toNat)).blk.barriers.length ∧ (wReleased (.blockBarrier b.toNat)).me.wait = .blockBarrier b.toNat ∧
    (wReleased (.blockBarrier b.toNat)).me.slot ∈ ((wReleased (.blockBarrier b.toNat)).blk.barriers[b.toNat]?.getD .init).released :=
  ⟨15, ⟨by decide, by decide, by decide⟩, ⟨rfl, rfl, rfl, (by decide : (0 : Nat) ≤ 1000), rfl, rfl⟩, by decide, rfl, by decide⟩

theorem meets_BarrierPhases_cluster_released : ∃ g : GroupBarrier, (wReleased .clusterBarrier).groupBars = [g] ∧ g.group = (wReleased .clusterBarrier).blk.group ∧
    Resumed (wReleased .clusterBarrier) ∧ (wReleased .clusterBarrier).me.wait = .clusterBarrier ∧ (wReleased .clusterBarrier).me.id ∈ g.released :=
  ⟨_, rfl, rfl, ⟨rfl, rfl, rfl, (by decide : (0 : Nat) ≤ 1000), rfl, rfl⟩, rfl, by decide⟩

/-- A block of the strand's group lies on the next core to the right; s1 holds its window's last doubleword. -/
def wPeer : State :=
  { w0 with blocks := [{ placedBlock with id := 7, core := 1, group := w0.blk.group }], me := regs [(1, 0x1BFFF8)] w0.me }

theorem meets_BarrierPhases_peer : ∃ (a : BitVec 6) (block off : Nat), Focused wPeer ∧ Ready wPeer ∧ SrcOk wPeer a ∧ (src wPeer a).toNat % 8 = 0 ∧
    wPeer.localRef (src wPeer a) 8 true = some (.peer block off) ∧ CanRelease 2 wPeer :=
  ⟨1, 7, 0xBFFF8, ⟨by decide, by decide, by decide⟩, ⟨rfl, rfl, rfl, rfl, by decide, by decide, rfl, rfl⟩, src_low rfl, by decide, by decide, rfl, by decide⟩

/-- Channel 0 belongs to another slot, channel 1 to nobody; s1 to s3 hold 0, 1 and 2. -/
def wBind : State :=
  let ch (e : Option Nat) : Channel := { depth := 8, entries := [], reader := e, writer := e, readerClosed := false, writerClosed := false }
  { w0.mapBlk (fun b => { b with channels := [ch (some 5), ch none] }) with me := regs [(1, 0), (2, 1), (3, 2)] w0.me }

theorem ready_bind : Ready wBind := ⟨rfl, rfl, rfl, rfl, by decide, by decide, rfl, rfl⟩

theorem meets_ChannelWords_free : ∃ (c d : BitVec 6) (ch : Channel), Ready wBind ∧ DstOk d ∧ wBind.blk.channels[c.toNat]? = some ch ∧
    (∃ r, SrcOk wBind r ∧ src wBind r = 0 ∧ (ch.readerClosed = true ∨ ch.reader = none ∨ ch.reader = some wBind.me.slot)) ∧
    (∃ r, SrcOk wBind r ∧ src wBind r = 1 ∧ (ch.writerClosed = true ∨ ch.writer = none ∨ ch.writer = some wBind.me.slot)) ∧
    (∃ r, SrcOk wBind r ∧ 2 ≤ (src wBind r).toNat) :=
  ⟨1, 55, _, ready_bind, dst_low rfl, rfl, ⟨1, src_low rfl, rfl, Or.inr (Or.inl rfl)⟩, ⟨2, src_low rfl, rfl, Or.inr (Or.inl rfl)⟩, 3, src_low rfl, by decide⟩

theorem meets_ChannelWords_bound : ∃ (c : BitVec 6) (ch : Channel), wBind.blk.channels[c.toNat]? = some ch ∧
    (∃ r, SrcOk wBind r ∧ src wBind r = 0 ∧ ¬ (ch.readerClosed = true ∨ ch.reader = none ∨ ch.reader = some wBind.me.slot)) ∧
    (∃ r, SrcOk wBind r ∧ src wBind r = 1 ∧ ¬ (ch.writerClosed = true ∨ ch.writer = none ∨ ch.writer = some wBind.me.slot)) :=
  ⟨0, _, rfl, ⟨1, src_low rfl, rfl, by decide⟩, 2, src_low rfl, rfl, by decide⟩

theorem meets_ChannelWords_absent : ∃ c : BitVec 6, wBind.blk.channels.length ≤ c.toNat := ⟨2, by decide⟩

/-! ## What the statements assume can be met: copies, sows, beds, tasks, grafts, privileged words, hints, ports, the transducer -/

/-- A layout record of 4 of 8 elements of 32 bits of one dimension at 0x20000; gtype is the argument. -/
def layRec (gtype : Nat) : List Byte :=
  natBytes 8 0x20000 ++ natBytes 2 0 ++ natBytes 1 gtype ++ natBytes 1 4 ++ natBytes 8 0 ++ natBytes 1 1 ++ natBytes 3 0 ++ natBytes 4 8 ++ natBytes 4 1 ++ natBytes 4 1 ++
    natBytes 4 1 ++ natBytes 4 1 ++ natBytes 4 0 ++ natBytes 32 0 ++ natBytes 2 4 ++ natBytes 2 1 ++ natBytes 2 1 ++ natBytes 2 1 ++ natBytes 2 1 ++ natBytes 38 0

/-- Two layout records in the record cache, the second with a TYPE of 5, and a peer record; s1 and s2 name the layouts, s3 an address off
alignment, s4 the peer record, s5 a window descriptor, s6 one of KIND 3, s7 a completion word; n copies are on their way. -/
def wCopy (n : Nat) : State :=
  let op (k : Nat) : CopyOp := { w0.newCopy .cps Layout.empty [] (.window 0) 0 none [] with id := 100 + k }
  { w0 with
    tlb := wMem.tlb
    copies := (List.range n).map op
    core := { Core.init 0 with records := [(0x40080, layRec 4), (0x40100, layRec 5), (0x40180, natBytes 17 0 ++ natBytes 1 63 ++ natBytes 1 1 ++ natBytes 45 0)] }
    me := regs [(1, 0x10080), (2, 0x10100), (3, 0x10040), (4, 0x10180), (5, 0xBFFF0), (6, 0x3000000000000000), (7, 0xBFFF8)] w0.me }

theorem ready_copy (n : Nat) : Ready (wCopy n) := ⟨rfl, rfl, rfl, rfl, (by decide : (0 : Nat) ≤ 1000), (by decide : (0 : Nat) + 7 * acTicks ≤ 1000), rfl, rfl⟩

theorem record_at {s : State} {l : BitVec 6} {align pa : Nat} {bs : List Byte} (a : (src s l).toNat % align = 0) (m : Mapped s .read (src s l) pa)
    (f : s.core.records.find? (fun r => r.1 == pa) = some (pa, bs)) : RecordAt s l align bs := ⟨a, pa, m, f⟩

theorem meets_CopyWords : ∃ (l c d q : BitVec 6) (bs : List Byte) (cw : Option Nat), Ready (wCopy 63) ∧ Still (wCopy 63) ∧ Focused (wCopy 63) ∧ SrcOk (wCopy 63) l ∧
    SrcOk (wCopy 63) d ∧ SrcOk (wCopy 63) q ∧ c.toNat + 5 ≤ 56 ∧ copiesOut (wCopy 63) < 64 ∧ initiated (wCopy 63) < 1024 ∧ CanRelease 1 (wCopy 63) ∧ RecordAt (wCopy 63) l 128 bs ∧ WordAt (wCopy 63) q cw ∧
    (Layout.of bs).check bs (originOf (wCopy 63) c) = none ∧ descriptorOk .cpg (wCopy 63).blk (src (wCopy 63) d) ∧
    descriptorFits (wCopy 63).blk (src (wCopy 63) d) (Layout.of bs).span :=
  ⟨1, 51, 5, 7, layRec 4, some 0xBFFF8, ready_copy _, ⟨rfl, rfl⟩, ⟨by decide, by decide, by decide⟩, src_low rfl, src_low rfl, src_low rfl, by decide, by decide, by decide, (by unfold CanRelease; decide),
    record_at (by decide) (mapped_mem (pa := 0x40080) (by decide)) (by decide), Or.inr ⟨by decide, Or.inl (by decide), by decide, by decide⟩, by decide,
    ⟨by decide, by decide, fun _ => by decide, Or.inl (by decide)⟩, fun _ => ⟨fun h => absurd h (by decide), by decide⟩⟩

theorem meets_CopyWords_kind : ∃ (l c d q : BitVec 6) (bs : List Byte) (cw : Option Nat), RecordAt (wCopy 0) l 128 bs ∧ WordAt (wCopy 0) q cw ∧
    (Layout.of bs).check bs (originOf (wCopy 0) c) = none ∧ ¬ descriptorOk .cpm (wCopy 0).blk (src (wCopy 0) d) :=
  ⟨1, 0, 6, 0, layRec 4, none, record_at (by decide) (mapped_mem (pa := 0x40080) (by decide)) (by decide), Or.inl ⟨by decide, rfl⟩, by decide, by
    rintro ⟨-, -, -, h | h | h⟩
    · exact absurd h.1 (by decide)
    · exact absurd h.1 (by decide)
    · exact absurd h.1 (by decide)⟩

theorem meets_CopyWords_format : ∃ (l c q : BitVec 6) (bs : List Byte) (cw : Option Nat) (v : Nat), RecordAt (wCopy 0) l 128 bs ∧ WordAt (wCopy 0) q cw ∧
    (Layout.of bs).check bs (originOf (wCopy 0) c) = some v :=
  ⟨2, 0, 0, layRec 5, none, 0x1000A, record_at (by decide) (mapped_mem (pa := 0x40100) (by decide)) (by decide), Or.inl ⟨by decide, rfl⟩, by decide⟩

theorem meets_CopyWords_peer : ∃ (d : BitVec 6) (rs : List Byte), RecordAt (wCopy 0) d 64 rs ∧ recField rs 17 1 ≤ 63 ∧ recField rs 18 1 ≤ 1 ∧ recField rs 19 5 = 0 ∧
    recField rs 32 32 = 0 := ⟨4, _, record_at (by decide) (mapped_mem (pa := 0x40180) (by decide)) rfl, by decide, by decide, by decide, by decide⟩

theorem meets_CopyWords_misaligned : ∃ l : BitVec 6, SrcOk (wCopy 0) l ∧ copiesOut (wCopy 0) < 64 ∧ initiated (wCopy 0) < 1024 ∧ CanRelease 1 (wCopy 0) ∧ (src (wCopy 0) l).toNat % 128 ≠ 0 :=
  ⟨3, src_low rfl, by decide, by decide, (by unfold CanRelease; decide), by decide⟩

/-- A store of the strand to a peer's window is still on its way. -/
def wCopySent : State :=
  let s := wCopy 0
  { s with core := { s.core with packets := [{ strand := s.me.id, block := 7, off := 0, bytes := [], act := 1, amount := 0 }] } }

theorem meets_CopyWords_packet : Ready wCopySent ∧ Still wCopySent ∧ Focused wCopySent ∧ copiesOut wCopySent < 64 ∧ initiated wCopySent < 1024 ∧
    (∃ p ∈ wCopySent.core.packets, p.strand = wCopySent.me.id) ∧ ∃ (l c d q : BitVec 6), SrcOk wCopySent l ∧ SrcOk wCopySent d ∧ SrcOk wCopySent q ∧ c.toNat + 5 ≤ 56 :=
  ⟨⟨rfl, rfl, rfl, rfl, by decide, by decide, rfl, rfl⟩, ⟨rfl, rfl⟩, ⟨by decide, by decide, by decide⟩, by decide, by decide, by decide,
    1, 0, 5, 0, src_low rfl, src_low rfl, src_low rfl, by decide⟩

/-- The virtual device has 1,024 remote copies outstanding, of another core. -/
def wInitiated : State :=
  { w0 with copies := List.replicate 1024 { w0.newCopy (.cpx true) Layout.empty [] (.window 0) 0 none [] with core := 9 } }

theorem meets_CopyWords_initiated : Ready wInitiated ∧ Still wInitiated ∧ Focused wInitiated ∧ initiated wInitiated ≥ 1024 ∧ ∃ (l c d q : BitVec 6),
    SrcOk wInitiated l ∧ SrcOk wInitiated d ∧ SrcOk wInitiated q ∧ c.toNat + 5 ≤ 56 :=
  ⟨⟨rfl, rfl, rfl, rfl, by decide, by decide, rfl, rfl⟩, ⟨rfl, rfl⟩, ⟨by decide, by decide, by decide⟩, by decide, 0, 0, 0, 0, src_low rfl, src_low rfl, src_low rfl, by decide⟩

theorem meets_CopyWords_full : Ready (wCopy 64) ∧ Focused (wCopy 64) ∧ 64 ≤ copiesOut (wCopy 64) := ⟨ready_copy _, ⟨by decide, by decide, by decide⟩, by decide⟩

/-- Bed 6 of the die takes; bed 7 is another partition's; the block holds e offers for bed 6; n sows of the core have not ended; sow 900 is
queued at that offer when q is true. -/
def wBed (spawn : Bool) (e n : Nat) (q : Bool) : State :=
  let bed (k part : Nat) : Bed := { number := BitVec.ofNat 32 k, scope := 3, unord := false, cold := 0, handler := 0x20000, part := part, root := .die 0, copies := [], pointers := [], frame := [], reports := [], colds := [], foreign := none }
  let sow (k core : Nat) (ph : SowPhase) : SowOp := { id := k, bed := 6, vd := 0, strand := 9, block := 4, core := core, priv := 1, scope := 3, payload := [5], unord := false, cw := none, node := .die 0, fromCore := false, bounced := none, phase := ph, bounces := 0, parked := false, returned := false, gone := false, foreign := none }
  { w0.mapBlk (fun b => { b with offers := [{ bed := 6, spawn := spawn, count := e, queue := if q then [900] else [], since := 3, reserved := [] }] }) with
    beds := [bed 6 0, bed 7 1], sows := sow 900 3 .queued :: (List.range n).map (fun k => sow (300 + k) 0 .climbing)
    me := regs [(1, 6), (2, 65535), (3, 7), (4, 0xBFFF8)] w0.me }

theorem ready_bed (a : Bool) (b c : Nat) (d : Bool) : Ready (wBed a b c d) :=
  ⟨rfl, rfl, rfl, rfl, (by decide : (0 : Nat) ≤ 1000), (by decide : (0 : Nat) + 7 * acTicks ≤ 1000), rfl, rfl⟩

theorem meets_OfferWords_take : ∃ (d a b : BitVec 6) (bed : Bed), let s := wBed false 255 0 false
    Ready s ∧ Focused s ∧ SrcOk s a ∧ SrcOk s b ∧ DstOk d ∧ BedAt s a bed ∧ bed.root.holds s.blk.core = true ∧ (src s b).toNat < 2 ^ 16 ∧ (s.bedsHeld s.blk.core).length < 64 ∧
    (∀ e ∈ s.blk.offers, e.bed = (src s a).setWidth 32 → e.spawn = false) ∧ (s.blk.offers.map (·.bed)).Nodup :=
  ⟨55, 1, 2, _, ready_bed _ _ _ _, ⟨by decide, by decide, by decide⟩, src_low rfl, src_low rfl, dst_low rfl, ⟨rfl, rfl⟩, by decide, by decide, by decide, by decide, by decide⟩

theorem meets_OfferWords_spawn : ∃ (a b : BitVec 6) (bed : Bed), let s := wBed true 1 0 false
    Ready s ∧ SrcOk s a ∧ SrcOk s b ∧ BedAt s a bed ∧ bed.root.holds s.blk.core = true ∧ (src s b).toNat < 2 ^ 16 ∧ (s.bedsHeld s.blk.core).length < 64 ∧ bed.handler ≠ 0 ∧
    (∀ e ∈ s.blk.offers, e.bed = (src s a).setWidth 32 → e.spawn = true) :=
  ⟨1, 2, _, ready_bed _ _ _ _, src_low rfl, src_low rfl, ⟨rfl, rfl⟩, by decide, by decide, by decide, by decide, by decide⟩

theorem meets_OfferWords_absent : ∃ (a b : BitVec 6), let s := wBed false 1 0 false
    SrcOk s a ∧ SrcOk s b ∧ (∀ e ∈ s.beds, e.number = (src s a).setWidth 32 → e.part ≠ s.blk.vd) ∧ (src s b).toNat < 2 ^ 16 :=
  ⟨3, 2, src_low rfl, src_low rfl, by decide, by decide⟩

theorem meets_SowWords_full : ∃ (q a b : BitVec 6) (n : BitVec 3), let s := wBed false 1 64 false
    Ready s ∧ Focused s ∧ SrcOk s q ∧ SrcOk s a ∧ b.toNat + n.toNat + 1 ≤ 56 ∧ 64 ≤ (s.sows.filter (fun o => decide (o.core = s.blk.core ∧ o.foreign = none ∧ o.phase ≠ .ended))).length :=
  ⟨0, 1, 48, 7, ready_bed _ _ _ _, ⟨by decide, by decide, by decide⟩, src_low rfl, src_low rfl, by decide, by decide⟩

theorem meets_SowWords_sow : ∃ (q a b : BitVec 6) (n : BitVec 3) (cw : Option Nat) (bed : Bed), let s := wBed false 1 63 false
    Ready s ∧ Focused s ∧ SrcOk s q ∧ SrcOk s a ∧ b.toNat + n.toNat + 1 ≤ 56 ∧ (s.sows.filter (fun o => decide (o.core = s.blk.core ∧ o.foreign = none ∧ o.phase ≠ .ended))).length < 64 ∧
    WordAt s q cw ∧ CanRelease 0 s ∧ CanRelease (BitVec.ofNat 3 bed.scope) s ∧ BedAt s a bed ∧ bed.scope < 8 ∧ 2 ≤ bed.scope :=
  ⟨4, 1, 55, 0, some 0xBFFF8, _, ready_bed _ _ _ _, ⟨by decide, by decide, by decide⟩, src_low rfl, src_low rfl, by decide, by decide,
    Or.inr ⟨by decide, Or.inl (by decide), by decide, by decide⟩, (by unfold CanRelease; decide), (by unfold CanRelease; decide), ⟨rfl, rfl⟩, by decide, by decide⟩

theorem meets_SowWords_take : ∃ (a d : BitVec 6) (n : BitVec 3) (e : Offer) (id : Nat) (r : List Nat) (o : SowOp), let s := wBed false 1 0 true
    Ready s ∧ SrcOk s a ∧ d.toNat + n.toNat + 1 ≤ 56 ∧ s.blk.offers.find? (fun e => e.bed == (src s a).setWidth 32) = some e ∧ e.queue = id :: r ∧
    s.sows.find? (fun o => o.id == id) = some o ∧ o.id = id ∧ o.bed = (src s a).setWidth 32 ∧ o.scope.toNat ≤ 5 ∧
    (∀ k, (s.clusterOf (coreCluster o.core)).state ≠ .draining k) :=
  ⟨1, 48, 7, _, _, _, _, ready_bed _ _ _ _, src_low rfl, by decide, rfl, rfl, rfl, rfl, rfl, by decide, nofun⟩

theorem meets_SowWords_wait : ∃ (a d : BitVec 6) (n : BitVec 3) (bed : Bed) (e : Offer), let s := wBed false 1 0 false
    Ready s ∧ SrcOk s a ∧ d.toNat + n.toNat + 1 ≤ 56 ∧ (∀ e ∈ s.blk.offers, e.bed = (src s a).setWidth 32 → e.queue = []) ∧ BedAt s a bed ∧
    s.blk.offers.find? (fun e => e.bed == (src s a).setWidth 32) = some e ∧ e.count ≠ 0 ∧ e.spawn = false :=
  ⟨1, 55, 0, _, _, ready_bed _ _ _ _, src_low rfl, by decide, by decide, ⟨rfl, rfl⟩, rfl, by decide, rfl⟩

theorem meets_SowWords_none : ∃ (a d : BitVec 6) (n : BitVec 3), let s := wBed false 0 0 false
    Ready s ∧ SrcOk s a ∧ d.toNat + n.toNat + 1 ≤ 56 ∧ (∀ e ∈ s.blk.offers, e.bed = (src s a).setWidth 32 → e.queue = []) ∧ offersOf s.blk ((src s a).setWidth 32) = 0 :=
  ⟨1, 0, 0, ready_bed _ _ _ _, src_low rfl, by decide, by decide, by decide⟩

/-- The supervisor's bed descriptor at 0x10000, in the L1: number, scope, flags, partition; bed 6 exists. -/
def wBedcfg (num scope flags part : Nat) : State :=
  let desc : List Byte := natBytes 4 num ++ natBytes 1 scope ++ natBytes 1 flags ++ natBytes 2 1024 ++ natBytes 8 0x1000 ++ natBytes 2 part ++ natBytes 14 0
  { (wBed false 0 0 false) with
    tlb := wMem.tlb.map (fun e => { e with hyper := false })
    core := { Core.init 0 with valid := [0x1000], clean := Memory.write [] 0x40000 desc }
    me := regs [(1, 0x10000)] { w0.me with priv := 1 } }

theorem bedcfg_sound (num scope flags part : Nat) : Ready (wBedcfg num scope flags part) ∧ Still (wBedcfg num scope flags part) ∧ NoNt (wBedcfg num scope flags part) ∧
    (wBedcfg num scope flags part).me.priv = 1 ∧ (wBedcfg num scope flags part).blk.core < 512 :=
  ⟨⟨rfl, rfl, rfl, rfl, (by decide : (0 : Nat) ≤ 1000), (by decide : (0 : Nat) + 7 * acTicks ≤ 1000), rfl, rfl⟩, ⟨rfl, rfl⟩, fun _ h => (List.not_mem_nil h).elim, rfl, (by decide : 0 < 512)⟩

/-- What every clause of BedTable assumes of the operands, in these states. -/
def bedcfgOk (s : State) : Prop :=
  ∃ (d a : BitVec 6) (pa : Nat) (v : VDev), Focused s ∧ SrcOk s a ∧ DstOk d ∧ (src s a).toNat % 32 = 0 ∧ Mapped s .read (src s a) pa ∧ pa = 0x40000 ∧ pa % 32 = 0 ∧ InL1 s pa 32 ∧
    s.vd? s.blk.vd = some v ∧ v.holds (coreCluster s.blk.core) = true ∧ l1Num s (pa + 18) 2 = 0

theorem meets_BedTable_new : bedcfgOk (wBedcfg 77 4 3 0) ∧ (let f (off n : Nat) : Nat := l1Num (wBedcfg 77 4 3 0) (0x40000 + off) n
    2 ≤ f 4 1 ∧ f 4 1 ≤ 5 ∧ f 5 1 < 4 ∧ f 6 2 ≤ 1024 ∧ f 8 8 % 4 = 0 ∧ f 20 12 = 0 ∧ f 16 2 = (wBedcfg 77 4 3 0).blk.vd ∧ f 5 1 % 2 = 1 ∧ f 4 1 ≤ 4 ∧
    (∀ b ∈ (wBedcfg 77 4 3 0).beds, b.number ≠ BitVec.ofNat 32 (f 0 4)) ∧ (wBedcfg 77 4 3 0).beds.length < 4096 ∧
    (((wBedcfg 77 4 3 0).beds.filter (fun b => b.root == TreeNode.package)).map (·.cold)).sum + f 6 2 ≤ 32768) :=
  ⟨⟨55, 1, _, placedVd, ⟨by decide, by decide, by decide⟩, src_low rfl, dst_low rfl, by decide, mapped_mem (by decide), rfl, by decide, by unfold InL1; decide, by decide, by decide, by decide⟩,
    by decide⟩

theorem meets_BedTable_delete : bedcfgOk (wBedcfg 6 3 0 0) ∧ ∃ bed, (let f (off n : Nat) : Nat := l1Num (wBedcfg 6 3 0 0) (0x40000 + off) n
    f 16 2 = (wBedcfg 6 3 0 0).blk.vd ∧ f 5 1 % 2 = 0 ∧ (wBedcfg 6 3 0 0).beds.find? (fun b => b.number == BitVec.ofNat 32 (f 0 4)) = some bed ∧
    bed.part = (wBedcfg 6 3 0 0).blk.vd ∧ bed.frame = []) :=
  ⟨⟨55, 1, _, placedVd, ⟨by decide, by decide, by decide⟩, src_low rfl, dst_low rfl, by decide, mapped_mem (by decide), rfl, by decide, by unfold InL1; decide, by decide, by decide, by decide⟩,
    _, by decide, by decide, rfl, rfl, rfl⟩

theorem meets_BedTable_scope : bedcfgOk (wBedcfg 77 1 1 0) ∧ ¬ 2 ≤ l1Num (wBedcfg 77 1 1 0) 0x40004 1 :=
  ⟨⟨55, 1, _, placedVd, ⟨by decide, by decide, by decide⟩, src_low rfl, dst_low rfl, by decide, mapped_mem (by decide), rfl, by decide, by unfold InL1; decide, by decide, by decide, by decide⟩,
    by decide⟩

theorem meets_BedTable_partition : bedcfgOk (wBedcfg 77 5 1 1) ∧ l1Num (wBedcfg 77 5 1 1) 0x40010 2 ≠ (wBedcfg 77 5 1 1).blk.vd :=
  ⟨⟨55, 1, _, placedVd, ⟨by decide, by decide, by decide⟩, src_low rfl, dst_low rfl, by decide, mapped_mem (by decide), rfl, by decide, by unfold InL1; decide, by decide, by decide, by decide⟩,
    by decide⟩

/-- A task whose successor 0 is node 5 of die 0, which takes two records; work queue 2047 of the partition; s1 an aligned window address. -/
def wTask : State :=
  let node (i : Nat) (succ : List (BitVec 16)) (th : Nat) : Node := { die := 0, idx := i, vd := 0, header := 0, pred := 0, thresh := th, flush := 0, nsucc := succ.length, rearm := false, succ := succ, args := [], priv := 1, counter := 1, recs := [], insts := 0, waiting := [], running := 0, failed := false, done := false, cause := 0, place := 0, nfault := 0, relaunches := 0 }
  { w0.mapBlk (fun b => { b with hasNode := some (0, 4) }) with
    nodes := [node 4 [5] 0, node 5 [] 2], queues := [{ num := 3, vd := 0, vnum := 2047, priv := 0, cmd := [], msgs := [] }]
    me := regs [(1, 0xBFF80), (2, 2047), (3, 2048)] w0.me }

theorem ready_task : Ready wTask := ⟨rfl, rfl, rfl, rfl, by decide, by decide, rfl, rfl⟩

theorem meets_TaskWords : ∃ (q : BitVec 4) (a : BitVec 6) (p : Nat × Nat) (m n : Node) (w : Nat), Ready wTask ∧ Still wTask ∧ Focused wTask ∧ SrcOk wTask a ∧ CanRelease 4 wTask ∧
    wTask.blk.hasNode = some p ∧ wTask.nodes.find? (fun k => k.die == p.1 && k.idx == p.2) = some m ∧ m.succ[q.toNat]? = some w ∧
    wTask.nodes.find? (fun k => k.die == w / 2 ^ 14 % 4 && k.idx == w % 2 ^ 14) = some n ∧ n.thresh ≠ 0 ∧ n.vd = wTask.blk.vd ∧ noPeer (src wTask a) ∧
    localCause wTask 64 (src wTask a) = none ∧ n.recs.length + 1 < n.thresh ∧ n.thresh ≤ 256 ∧ (∀ r ∈ n.recs, r.2.2 ≠ wTask.me.id) :=
  ⟨0, 1, _, _, _, 5, ready_task, ⟨rfl, rfl⟩, ⟨by decide, by decide, by decide⟩, src_low rfl, ⟨rfl, by decide⟩, rfl, rfl, rfl, rfl, by decide, rfl, Or.inl (by decide), by decide, by decide, by decide,
    by decide⟩

theorem meets_TaskWords_none : Ready w0 ∧ w0.blk.hasNode = none := ⟨ready0, rfl⟩

theorem meets_TaskWords_spawn : ∃ (a b : BitVec 6) (w : WorkQueue), SrcOk wTask a ∧ SrcOk wTask b ∧ (src wTask a).toNat < 2048 ∧
    wTask.queues.find? (fun k => k.vd == wTask.blk.vd && k.vnum == (src wTask a).toNat) = some w ∧ noPeer (src wTask b) ∧ localCause wTask 128 (src wTask b) = none ∧ w.msgs.length < 256 :=
  ⟨2, 1, _, src_low rfl, src_low rfl, by decide, rfl, Or.inl (by decide), by decide, by decide⟩

theorem meets_TaskWords_absent : ∃ (a b : BitVec 6), SrcOk wTask a ∧ SrcOk wTask b ∧ 2048 ≤ (src wTask a).toNat := ⟨3, 1, src_low rfl, src_low rfl, by decide⟩

/-- A page of 64 KiB at 0x10000, near store at 0x20000; images 3 and 4 of the device, 5 of another; region 4 bound by nobody or by the given owner;
s1 the region, s2 what to bind, s3 near store, s4 the handle 3, s5 the selector 3. -/
def wGraft (owner : Option Nat) (encoded : List (Nat × Nat)) : State :=
  let page (va size pa : Nat) : TlbEntry := { place := .core 0, fabric := false, vd := 0, hyper := true, va := va, size := size, pa := pa, r := true, w := true, x := true, u := true, raw := false, discard := false, used := 0, bad := false }
  let img (h o : Nat) : Image := { handle := h, owner := o, words := [] }
  { w0 with
    tlb := [page 0x10000 65536 0x40000, page 0x20000 65536 0x4000000000], images := [img 3 0, img 4 0, img 5 1]
    bindings := (owner.map (fun o => ({ region := 4, rawmode := false, blk1k := false, enc := 4, dec := 4, owner := o, encoded := encoded, conv := false, next := 0, enc2 := 0, dec2 := 0, blk2 := false, raw2 := false, va := 0, fallbacks := 0, fetchFaults := 0, lastCode := 0, lastPhase := 0 } : Binding))).toList
    dies := Vector.replicate 4 { DieUnits.init with carve := 1 }
    me := regs [(1, 0x10000), (2, 0x100010403), (3, 0x20000), (4, 3), (5, 3), (6, 0x100000000)] w0.me }

theorem ready_graft (o : Option Nat) (l : List (Nat × Nat)) : Ready (wGraft o l) := ⟨rfl, rfl, rfl, rfl, (by decide : (0 : Nat) ≤ 1000), (by decide : (0 : Nat) + 7 * acTicks ≤ 1000), rfl, rfl⟩

theorem meets_GraftWords_unload : ∃ (d a b q : BitVec 6) (v : VDev), let s := wGraft none []
    Ready s ∧ Still s ∧ Focused s ∧ SrcOk s a ∧ SrcOk s b ∧ SrcOk s q ∧ DstOk d ∧ s.vd? s.blk.vd = some v ∧ src s a = 0 ∧
    (∃ i ∈ s.images, i.handle = slice (src s b) 5 0 ∧ i.owner = s.blk.vd) ∧ s.bindings.any (Binding.uses (slice (src s b) 5 0)) = false :=
  ⟨55, 0, 4, 0, placedVd, ready_graft _ _, ⟨rfl, rfl⟩, ⟨by decide, by decide, by decide⟩, src_low rfl, src_low rfl, src_low rfl, dst_low rfl, by decide, rfl, by decide, rfl⟩

theorem graft_pages : ∀ k < 8, (decide ((src (wGraft none []) 3 + BitVec.ofNat 64 (256 * k)).toNat < 2 ^ 56) && (wGraft none []).tlb.all (fun e => !e.bad) &&
    match (wGraft none []).tlb.find? (fun e => e.answers (.core (wGraft none []).blk.core) false (wGraft none []).blk.vd (decide ((wGraft none []).me.priv = 2)) (src (wGraft none []) 3 + BitVec.ofNat 64 (256 * k)).toNat) with
    | some e => (wGraft none []).permits (wGraft none []).me.priv .read e (src (wGraft none []) 3 + BitVec.ofNat 64 (256 * k)).toNat && !e.raw &&
        decide (nearBase + 256 * k = e.addr (src (wGraft none []) 3 + BitVec.ofNat 64 (256 * k)).toNat)
    | none => false) = true := by
  intro k h
  interval_cases k <;> decide

theorem near_backed (k : Nat) (h : k < 2048) : (wGraft none []).backed (nearBase + k) = true := by
  have d : homeDie (nearBase + k) = 0 := by
    unfold homeDie nearBase; rw [if_neg (by omega)]; omega
  have c : (((wGraft none []).dies[0]?).getD DieUnits.init).carve = 1 := by decide
  have n : isDram (nearBase + k) = false := decide_eq_false (by unfold nearBase; omega)
  have i : isNear (nearBase + k) = true := decide_eq_true (by unfold nearBase nearLimit; omega)
  simp only [State.backed, d, c, n, i]
  simp only [Bool.false_eq_true, if_false, Bool.true_and]
  exact decide_eq_true (by unfold nearBase; omega)

theorem meets_GraftWords_load : ∃ (d a b : BitVec 6) (v : VDev) (pa : Nat), let s := wGraft none []
    SrcOk s a ∧ SrcOk s b ∧ DstOk d ∧ s.vd? s.blk.vd = some v ∧ src s a ≠ 0 ∧ (src s a).toNat % 256 = 0 ∧ (∀ k < 8, Mapped s .read (src s a + BitVec.ofNat 64 (256 * k)) (pa + 256 * k)) ∧
    nearBase ≤ pa ∧ pa % 256 = 0 ∧ (∀ k < 2048, s.backed (pa + k) = true) ∧ (∀ k < 32, pa / 64 + k ∉ s.poison) ∧ s.heldBack s.blk.core ((List.range 8).map (fun k => pa + 256 * k)) = false ∧
    (s.images.filter (fun i => i.owner == s.blk.vd)).length < v.gquota ∧ v.gquota ≤ 64 ∧ s.images.length < 64 :=
  ⟨55, 3, 0, placedVd, nearBase, src_low rfl, src_low rfl, dst_low rfl, by decide, by decide, by decide, fun k h => mapped_mem (graft_pages k h), by decide, by decide, near_backed,
    by decide, by decide, by decide, by decide, by decide⟩

theorem region_graft (o : Option Nat) (l : List (Nat × Nat)) : RegionAt (wGraft o l) (src (wGraft o l) 1) 4 := by
  have e : (src (wGraft o l) 1).toNat = 0x10000 := rfl
  unfold RegionAt
  rw [e]
  refine ⟨by decide, by decide, by decide, by decide,
    { place := .core 0, fabric := false, vd := 0, hyper := true, va := 0x10000, size := 65536, pa := 0x40000, r := true, w := true, x := true, u := true, raw := false, discard := false, used := 0, bad := false },
    fun k h => ?_, by decide, rfl, rfl, rfl, by decide, by decide, by decide⟩
  have t : decide ((0x10000 : Nat) ≤ 0x10000 + k ∧ 0x10000 + k < 0x10000 + 65536) = true := decide_eq_true (by omega)
  show List.findSome? (fun p => List.find? (fun e => TlbEntry.answers p false 0 true (0x10000 + k) e && !e.bad) (_ :: _)) (TreeNode.core 0 :: _) = _
  rw [List.findSome?_cons, List.find?_cons_of_pos]
  show (true && true && true && true && decide ((0x10000 : Nat) ≤ 0x10000 + k ∧ 0x10000 + k < 0x10000 + 65536) && true) = true
  rw [t]; rfl

/-! ## What the statements assume can be met: grafts, privileged words, hints, ports, the transducer -/

theorem meets_GraftWords_bind : ∃ (a b : BitVec 6) (region : Nat), let s := wGraft none []
    let x := src s b
    SrcOk s a ∧ SrcOk s b ∧ RegionAt s (src s a) region ∧ slice x 47 32 = 1 ∧ slice x 63 48 = 0 ∧ slice x 31 18 = 0 ∧ slice x 15 14 = 0 ∧ slice x 7 6 = 0 ∧ slice x 17 17 = 0 ∧
    (∀ k ∈ s.bindings, k.region ≠ region) ∧ (∃ i ∈ s.images, i.handle = slice x 5 0 ∧ i.owner = s.blk.vd) ∧ (∃ i ∈ s.images, i.handle = slice x 13 8 ∧ i.owner = s.blk.vd) :=
  ⟨1, 2, 4, src_low rfl, src_low rfl, region_graft _ _, by decide, by decide, by decide, by decide, by decide, by decide, by decide, by decide, by decide⟩

theorem meets_GraftWords_bound : ∃ (a b : BitVec 6) (region : Nat) (k : Binding), let s := wGraft (some 1) []
    SrcOk s a ∧ RegionAt s (src s a) region ∧ slice (src s b) 17 17 = 0 ∧ s.bindings.find? (fun k => k.region == region) = some k ∧ k.owner ≠ s.blk.vd :=
  ⟨1, 2, 4, _, src_low rfl, region_graft _ _, by decide, rfl, by decide⟩

theorem meets_GraftWords_unbind : ∃ (a b : BitVec 6) (region : Nat) (k : Binding), let s := wGraft (some 0) []
    SrcOk s a ∧ RegionAt s (src s a) region ∧ s.bindings.find? (fun k => k.region == region) = some k ∧ k.owner = s.blk.vd ∧ k.conv = false ∧
    slice (src s b) 47 32 = 1 ∧ slice (src s b) 63 48 = 0 ∧ slice (src s b) 31 18 = 0 ∧ slice (src s b) 15 14 = 0 ∧ slice (src s b) 7 6 = 0 ∧ slice (src s b) 17 0 = 0 ∧ k.encoded = [] :=
  ⟨1, 6, 4, _, src_low rfl, region_graft _ _, rfl, rfl, rfl, by decide, by decide, by decide, by decide, by decide, by decide, rfl⟩

theorem meets_GraftWords_encoded : ∃ (a : BitVec 6) (region : Nat) (k : Binding), let s := wGraft (some 0) [(0x40000, 1)]
    SrcOk s a ∧ RegionAt s (src s a) region ∧ s.bindings.find? (fun k => k.region == region) = some k ∧ k.owner = s.blk.vd ∧ k.conv = false ∧ k.encoded ≠ [] :=
  ⟨1, 4, _, src_low rfl, region_graft _ _, rfl, rfl, rfl, by decide⟩

theorem meets_GraftWords_convert : ∃ (q b : BitVec 6), let s := wGraft (some 0) []
    Ready s ∧ SrcOk s q ∧ SrcOk s b ∧ src s q = 0 ∧ slice (src s b) 17 17 = 0 ∧ (∃ i ∈ s.images, i.handle = slice (src s b) 5 0 ∧ i.owner = s.blk.vd) ∧
    (∃ i ∈ s.images, i.handle = slice (src s b) 13 8 ∧ i.owner = s.blk.vd) ∧ copiesOut s < 64 ∧ CanRelease 1 s ∧ (∀ c ∈ s.copies, c.kind ≠ .gconv) :=
  ⟨0, 2, ready_graft _ _, src_low rfl, src_low rfl, by decide, by decide, by decide, by decide, by decide, (by unfold CanRelease; decide), by decide⟩

/-- The same while a store of the strand to a peer's window is on its way. -/
def wGraftSent : State :=
  let s := wGraft (some 0) []
  { s with core := { s.core with packets := [{ strand := s.me.id, block := 7, off := 0, bytes := [], act := 1, amount := 0 }] } }

theorem meets_GraftWords_held : ∃ (a b q : BitVec 6) (k : Binding), Ready wGraftSent ∧ Still wGraftSent ∧ Focused wGraftSent ∧ SrcOk wGraftSent a ∧ SrcOk wGraftSent b ∧ SrcOk wGraftSent q ∧
    src wGraftSent a = src (wGraft (some 0) []) 1 ∧ wGraftSent.bindings.find? (fun k => k.region == 4) = some k ∧ k.owner = wGraftSent.blk.vd ∧ k.conv = false ∧ copiesOut wGraftSent < 64 ∧
    ¬ CanRelease 1 wGraftSent :=
  ⟨1, 2, 0, _, ⟨rfl, rfl, rfl, rfl, by decide, by decide, rfl, rfl⟩, ⟨rfl, rfl⟩, ⟨by decide, by decide, by decide⟩, src_low rfl, src_low rfl, src_low rfl, rfl, rfl, rfl, rfl, by decide,
    by unfold CanRelease; decide⟩

theorem meets_GraftWords_stat : ∃ (a b : BitVec 6) (pa : Nat), let s := wGraft none []
    SrcOk s a ∧ SrcOk s b ∧ src s b = 3 ∧ Mapped s .read (src s a) pa ∧ (∀ k ∈ s.bindings, k.region ≠ pa / 65536) :=
  ⟨1, 5, 0x40000, src_low rfl, src_low rfl, by decide, mapped_mem (by decide), by decide⟩

theorem meets_GraftWords_stat_unbound : ∃ (a b : BitVec 6) (pa : Nat), let s := wGraft none []
    (src s b).toNat < 3 ∧ Mapped s .read (src s a) pa ∧ (∀ k ∈ s.bindings, k.region ≠ pa / 65536) := ⟨1, 0, 0x40000, by decide, mapped_mem (by decide), by decide⟩

/-- Block 7 on core 5 is the device's block 3 there, in phase p, held or not; s1 names it (place 5, index 3), s2 index 4, s3 a whole-device
tlbinv, s4 and s5 items of `pmcfg`. -/
def wPriv (p : Phase) (held : Bool) : State :=
  { w0 with
    blocks := [{ placedBlock with id := 7, core := 5, index := 3, phase := p, held := held }]
    me := regs [(1, 5), (2, 3), (3, 4), (4, 2), (5, 0x20), (6, 0xFFFFFFFF), (7, 0x26)] { w0.me with priv := 1 } }

theorem ready_priv (p : Phase) (h : Bool) : Ready (wPriv p h) := ⟨rfl, rfl, rfl, rfl, (by decide : (0 : Nat) ≤ 1000), (by decide : (0 : Nat) + 7 * acTicks ≤ 1000), rfl, rfl⟩

theorem meets_PrivilegedWords_user : ∃ c : BitVec 3, Ready (wp 0) ∧ Focused (wp 0) ∧ (wp 0).me.priv = 0 ∧ 1 ≤ c.toNat ∧ c.toNat ≤ 4 :=
  ⟨4, ready_me _ (by decide), ⟨by decide, by decide, by decide⟩, rfl, by decide, by decide⟩

theorem meets_PrivilegedWords_tlbinv : ∃ (a b : BitVec 6), let s := wPriv .running false
    Ready s ∧ Focused s ∧ SrcOk s a ∧ SrcOk s b ∧ 1 ≤ s.me.priv ∧ CanRelease 4 s ∧ slice (src s b) 63 48 = 0 ∧ slice (src s b) 15 14 = 0 ∧ slice (src s b) 7 0 = 2 ∧
    slice (src s b) 13 8 = s.blk.vd ∧ (∀ t ∈ s.allStrands, t.flight = none) ∧ (∀ k ∈ s.core :: s.cores, k.nt = []) :=
  ⟨0, 4, ready_priv _ _, ⟨by decide, by decide, by decide⟩, src_low rfl, src_low rfl, by decide, ⟨rfl, by decide⟩, by decide, by decide, by decide, by decide, by decide, by decide⟩

theorem named_priv (p : Phase) (h : Bool) (e : p ≠ .ended) :
    NamedBlock (wPriv p h) (src (wPriv p h) 1) (src (wPriv p h) 2) { placedBlock with id := 7, core := 5, index := 3, phase := p, held := h } := by
  cases p <;> cases h <;> first | exact absurd rfl e | exact ⟨placedVd, 5, by decide, by decide, by decide⟩

theorem meets_PrivilegedWords_evicted : ∃ (a b : BitVec 6) (k : Block), let s := wPriv .evicted true
    Ready s ∧ SrcOk s a ∧ SrcOk s b ∧ 1 ≤ s.me.priv ∧ slice (src s a) 63 22 = 0 ∧ slice (src s a) 15 14 = 0 ∧ slice (src s b) 63 5 = 0 ∧ slice (src s a) 21 16 = s.blk.vd ∧
    NamedBlock s (src s a) (src s b) k ∧ k.id ≠ s.blk.id ∧ k.phase = .evicted ∧ k.held = true :=
  ⟨1, 2, _, ready_priv _ _, src_low rfl, src_low rfl, by decide, by decide, by decide, by decide, by decide, named_priv _ _ (by decide), by decide, rfl, rfl⟩

theorem meets_PrivilegedWords_running : ∃ (a b : BitVec 6) (k : Block), let s := wPriv .running false
    NamedBlock s (src s a) (src s b) k ∧ k.id ≠ s.blk.id ∧ k.phase = .running := ⟨1, 2, _, named_priv _ _ (by decide), by decide, rfl⟩

theorem meets_PrivilegedWords_nobody : ∃ (a b : BitVec 6), let s := wPriv .running false
    slice (src s a) 63 22 = 0 ∧ slice (src s a) 15 14 = 0 ∧ slice (src s b) 63 5 = 0 ∧ slice (src s a) 21 16 = s.blk.vd ∧ ∀ k, ¬ NamedBlock s (src s a) (src s b) k := by
  refine ⟨1, 3, by decide, by decide, by decide, by decide, ?_⟩
  rintro k ⟨v, c, hv, hc, hk⟩
  have e : v = placedVd := (Option.some.inj hv).symm
  subst e
  have e : c = 5 := by
    have h : placedVd.coreAt (slice (src (wPriv .running false) 1) 13 0) = some 5 := by decide
    rw [h] at hc; exact (Option.some.inj hc).symm
  subst e
  exact absurd hk (by
    have h : (wPriv .running false).allBlocks.find? (fun b => decide (b.vd = placedVd.num ∧ b.core = 5 ∧ b.index = slice (src (wPriv .running false) 3) 4 0 ∧ b.phase ≠ .ended)) = none := by decide
    rw [h]; simp)

/-- A supervisor whose device reaches near store through its two stages; s5 names an item, s6 holds what is written to it; the rings' base is 0x50000. -/
def wItem (item : Nat) (y : W64) : State :=
  let m := { Measure.init with sample := { Ring.init with base := 0x50000 }, event := { Ring.init with base := 0x50000 } }
  { w0 with
    vds := [{ placedVd with s2root := 0x5000, measure := m }]
    dies := Vector.replicate 4 { DieUnits.init with carve := 1 }
    dram := [(0x5000, 0x01), (0x5001, 0x60), (0x6000, 0x01), (0x6001, 0x70), (0x7000, 0x1F), (0x7004, 0x40),
             (nearBase + 0x1000, 0x01), (nearBase + 0x1001, 0x20), (nearBase + 0x2000, 0x01), (nearBase + 0x2001, 0x30), (nearBase + 0x3000, 0x1F)]
    me := regs [(5, BitVec.ofNat 64 item), (6, y)] { w0.me with priv := 1 } }

theorem ready_item (i : Nat) (y : W64) : Ready (wItem i y) :=
  ⟨rfl, rfl, rfl, rfl, (by decide : (0 : Nat) ≤ 1000), (by decide : (0 : Nat) + 7 * acTicks ≤ 1000), rfl, rfl⟩

/-- Each kind of item: a selection, the enables, the control, a ring's base, a ring's size. -/
theorem meets_PrivilegedWords_pmcfg : ∀ e ∈ [((0x1F : Nat), (0x22F : W64)), (0x20, 0x80000000FFFFFFFF), (0x21, 0x180603), (0x22, 0x51000), (0x24, 0x51FFF), (0x25, 16777216)], ∃ (v : VDev),
    let s := wItem e.1 e.2
    1 ≤ s.me.priv ∧ SrcOk s 5 ∧ SrcOk s 6 ∧ slice (src s 5) 63 8 = 0 ∧ slice (src s 5) 7 0 = e.1 ∧ slice (src s 5) 7 0 < 0x26 ∧ src s 6 = e.2 ∧ s.vd? s.blk.vd = some v := by
  intro e h
  simp only [List.mem_cons, List.not_mem_nil, or_false] at h
  rcases h with rfl | rfl | rfl | rfl | rfl | rfl <;>
    exact ⟨_, by decide, src_low rfl, src_low rfl, by decide, by decide, by decide, rfl, rfl⟩

theorem meets_PrivilegedWords_ring : (wItem 0x22 0x51000).deviceAddr 0 .write 0x51000 = some (nearBase + 0x51000) ∧ (wItem 0x25 128).deviceAddr 0 .write 0x50000 = some (nearBase + 0x50000) ∧
    recordCount 128 = true ∧ isDram (nearBase + 0x51000) = false ∧ isDram (nearBase + 0x50000) = false ∧ (nearBase + 0x51000) % 64 = 0 := by decide

theorem meets_PrivilegedWords_item : ∃ (a : BitVec 6), let s := wPriv .running false
    1 ≤ s.me.priv ∧ SrcOk s a ∧ 0x26 ≤ slice (src s a) 7 0 := ⟨7, by decide, src_low rfl, by decide⟩

theorem meets_HintWords_room : ∀ l, (wPort.core.setLines l).length < 16 := fun l => by
  have e : wPort.core.setLines l = [] := rfl
  rw [e]; decide

theorem meets_HintWords : ∃ (r : BitVec 3) (p : BitVec 6), Ready wPort ∧ r.toNat = 7 ∧ SrcOk wPort p := ⟨7, 57, ready_port, rfl, src_port (by decide)⟩

theorem meets_HintWords_address : ∃ (r : BitVec 3) (p : BitVec 6), Ready (w0.mapMe (regs [(1, 0x100000000000000)])) ∧ r.toNat ≤ 3 ∧ 2 ^ 56 ≤ (src (w0.mapMe (regs [(1, 0x100000000000000)])) p).toNat :=
  ⟨3, 1, ⟨rfl, rfl, rfl, rfl, by decide, by decide, rfl, rfl⟩, by decide, by decide⟩

/-- A supervisor whose queues are full or empty. -/
def wPorts (full : Bool) (stores p : Nat) : State :=
  { w0.mapMe (fun t => { t with priv := p, peerStores := stores }) with
    vds := [if full then { placedVd with faultQ := [5], mailIn := [6], mailOut := List.replicate 64 0, measure := { placedVd.measure with notices := [7] }, pageReqs := [{ page := 3, acc := 1, vd := 0, id := 9, popped := false }] }
      else placedVd] }

theorem meets_PortSteps_full : ∃ (d a : BitVec 6) (v : VDev) (q : PageReq) (x y z : W64), let s := wPorts true 1 1
    s.me.run = .running ∧ s.graftLog = [] ∧ s.me.latch = [] ∧ DstOk d ∧ a.toNat < 56 ∧ s.vd? s.blk.vd = some v ∧ v.num = s.blk.vd ∧ s.me.priv = 1 ∧
    v.pageReqs.find? (fun q => !q.popped) = some q ∧ v.faultQ = [x] ∧ v.measure.notices = [y] ∧ v.mailIn = [z] ∧ s.me.peerStores ≠ 0 ∧ 64 ≤ v.mailOut.length :=
  ⟨0, 55, _, _, _, _, _, rfl, rfl, rfl, dst_low rfl, by decide, rfl, rfl, rfl, rfl, rfl, rfl, rfl, by decide, by decide⟩

theorem meets_PortSteps_empty : ∃ (d a : BitVec 6) (v : VDev), let s := wPorts false 0 1
    DstOk d ∧ a.toNat < 56 ∧ s.vd? s.blk.vd = some v ∧ v.num = s.blk.vd ∧ s.me.priv = 1 ∧ v.pageReqs = [] ∧ v.faultQ = [] ∧ v.measure.notices = [] ∧ v.mailIn = [] ∧
    CanRelease 4 s ∧ s.me.memWait = none ∧ s.core.id = s.blk.core ∧ v.mailOut.length < 64 :=
  ⟨55, 0, _, dst_low rfl, by decide, rfl, rfl, rfl, rfl, rfl, rfl, rfl, ⟨rfl, by decide⟩, rfl, rfl, by decide⟩

theorem meets_PortSteps_user : ∃ v, (wPorts false 0 0).me.priv = 0 ∧ (wPorts false 0 0).vd? (wPorts false 0 0).blk.vd = some v ∧ v.num = (wPorts false 0 0).blk.vd :=
  ⟨_, rfl, rfl, rfl⟩

/-- A run in progress: a decode of 2 bytes, or an encode, with this many steps behind it and bytes written. -/
def xrun (enc : Bool) (steps : Nat) (out : List Byte) : XdRun :=
  { XdRun.start enc 2 [1, 2, 3] [0xB8000000] with steps := steps, output := out, oc := out.length }

theorem meets_TransducerWords : ∃ r, { w0 with xd := some r }.xd = some r ∧ r.ended = none ∧ r.output.length = r.oc ∧
    ¬ (if r.encode then 64 * r.size else 32 * r.size) < r.steps + 1 ∧ r.encode = false ∧ r.oc = r.size := ⟨xrun false 63 [1, 2], rfl, rfl, rfl, by decide, rfl, rfl⟩

theorem meets_TransducerWords_row : ∃ i x, tableR265 i = some x ∧ x.cost (xrun false 0 []) = 1 := ⟨.xdGetb 15, _, rfl, rfl⟩

theorem meets_TransducerWords_short : ∃ r, { w0 with xd := some r }.xd = some r ∧ r.ended = none ∧ r.output.length = r.oc ∧
    ¬ (if r.encode then 64 * r.size else 32 * r.size) < r.steps + 1 ∧ r.encode = false ∧ r.oc ≠ r.size := ⟨xrun false 0 [1], rfl, rfl, rfl, by decide, rfl, by decide⟩

theorem meets_TransducerWords_spent : ∃ r, { w0 with xd := some r }.xd = some r ∧ r.ended = none ∧ r.output.length = r.oc ∧
    (if r.encode then 64 * r.size else 32 * r.size) < r.steps + 1 := ⟨xrun true 128 [], rfl, rfl, rfl, by decide⟩


/-! ## What the statements assume can be met: events of memory, strands, engines -/

/-- Line 0x400 stands in its slice with a dirty sector; a non-temporal byte of that line waits, of a strand that is not there. -/
def wHome : State :=
  { w0 with
    slices := [{ line := 0x400, valid := 1, dirty := 1, cells := [(0x40001, 3)], use := 0, free := false, marks := 0, poison := 0, way := 0, used := 0 }]
    core := { Core.init 0 with nt := [{ strand := 9, addr := 0x40040, byte := 5, seen := false }] } }

theorem meets_HomeEvents : ∃ pa core use strand : Nat, ∃ (b : Byte) (q : Bool), (wHome.freeWays (pa / 256) ≠ [] ∨ ∃ k ∈ wHome.slices, k.line = pa / 256) ∧
    wHome.heldBack core [pa / 256 * 256] = false ∧ wHome.graftLog = [] ∧ pa < nearBase ∧ Unbound wHome pa ∧ SlicesOnce wHome ∧ DramSorted wHome ∧ use ≠ 1 ∧
    (wHome.sliceLine (pa / 256)).use = 0 ∧ (wHome.coreOf core).id = core ∧ (wHome.coreOf core).nt.filter (fun e => e.addr / 256 == pa / 256) = [NtByte.mk strand pa b q] ∧
    (∀ k, wHome.strand? strand ≠ some k) :=
  ⟨0x40040, 0, 0, 9, 5, false, Or.inr ⟨_, List.mem_singleton.mpr rfl, rfl⟩, by decide, rfl, by decide, by unfold Unbound; decide, by unfold SlicesOnce; decide, by unfold DramSorted; decide, by decide, by decide, by decide, by decide,
    fun k h => by rw [(by decide : wHome.strand? 9 = none)] at h; exact nomatch h⟩

/-- The strand's access f is on its way. -/
def wFlight (f : Flight) : State := wMem.mapMe (fun t => { t with flight := some f })

theorem focused_flight (f : Flight) : Focused (wFlight f) :=
  ⟨(by decide : wMem.core.id = wMem.blk.core), (by decide : ∀ b ∈ wMem.blocks, b.id ≠ wMem.blk.id), (by decide : ∀ t ∈ wMem.strands, t.id ≠ wMem.me.id)⟩

theorem meets_ReplyEvents_performed : ∃ (s : State) (k : Nat) (t : Strand) (vals : List (Nat × Nat)) (d p : List Nat), s.graftLog = [] ∧ Focused s ∧ s.strand? k = some t ∧
    t.flight = some (.performed vals d p) := ⟨wFlight (.performed [(31, 7)] [0] []), 2, _, _, _, _, rfl, focused_flight _, rfl, rfl⟩

theorem meets_ReplyEvents_load : ∃ (s : State) (k : Nat) (u : UnitPa) (n use : Nat) (free na : Bool), s.graftLog = [] ∧ Focused s ∧ s.me.id = k ∧ s.me.block = s.blk.id ∧
    s.me.flight = some (.load [u] n use free na) ∧ u.raw = false ∧ 0 < n ∧ u.pa / 64 = (u.pa + n - 1) / 64 ∧ InL1 s u.pa n ∧ NoNt s ∧
    (∀ m, s.me.memWait = some m → ∀ f ∈ m.failed, f.cause ≠ .poison) :=
  ⟨wFlight (.load [{ unit := 0, pa := 0x40038, raw := false, discard := false }] 8 3 true false), 2, _, 8, _, _, _, rfl, focused_flight _, rfl, rfl, rfl, rfl, by decide, by decide,
    by unfold InL1; decide, by unfold NoNt; decide, fun _ h => nomatch h⟩

theorem meets_ReplyEvents_atomic : ∃ (s : State) (k fn n : Nat) (l : AtomLane), s.graftLog = [] ∧ Focused s ∧ s.me.id = k ∧ s.me.flight = some (.atomic fn n [l]) ∧ (n = 4 ∨ n = 8) ∧
    l.pa % n = 0 ∧ nearBase ≤ l.pa ∧ l.pa / 64 ∉ s.poison ∧ DramSorted s ∧ s.me.block = s.blk.id ∧ s.heldBack s.blk.core [l.pa] = false ∧ (∀ e ∈ s.core.dirty, e.1 / 64 ≠ l.pa / 64) :=
  ⟨wFlight (.atomic 6 8 [{ lane := 0, pa := 0x4000000038, v := 1, w := 2 }]), 2, _, _, _, rfl, focused_flight _, rfl, rfl, Or.inr rfl, by decide, by decide, by decide,
    by unfold DramSorted; decide, rfl, by decide, by decide⟩

/-- A peer's store of 8 bytes to the end of the window has arrived. -/
def wPacket : State := { wMem with core := { wMem.core with packets := [{ strand := 9, block := 1, off := 0x2F8, bytes := natBytes 8 5, act := 0, amount := 0 }] } }

theorem meets_ReplyEvents_packet : ∃ (k : Nat) (p : PeerStore) (r : List PeerStore), wPacket.graftLog = [] ∧ Focused wPacket ∧ wPacket.blk.core = k ∧ wPacket.core.packets = p :: r ∧ p.act = 0 ∧
    p.block = wPacket.blk.id ∧ p.off + p.bytes.length ≤ wPacket.blk.windowSize ∧ (wPacket.blk.window.map Prod.fst).Pairwise (· < ·) :=
  ⟨0, _, _, rfl, ⟨by decide, by decide, by decide⟩, rfl, rfl, rfl, rfl, by decide, by decide⟩

/-- The fetch buffer holds nothing. -/
def wNoLine : State := wMem.mapMe (fun t => { t with fetch := [] })

theorem meets_TranslationEvents_fetch : ∃ pa, wNoLine.graftLog = [] ∧ Focused wNoLine ∧ wNoLine.me.block = wNoLine.blk.id ∧ wNoLine.me.run = .running ∧ wNoLine.me.issued = false ∧ wNoLine.me.memWait = none ∧
    (∀ l ∈ wNoLine.me.fetch, l.line ≠ wNoLine.me.pc.toNat / 256) ∧ Mapped wNoLine .exec wNoLine.me.pc pa ∧ pa % 256 = wNoLine.me.pc.toNat % 256 ∧ InL1 wNoLine (pa / 256 * 256) 256 :=
  ⟨0x40000, rfl, ⟨by decide, by decide, by decide⟩, rfl, rfl, rfl, rfl, by decide, mapped_mem (by decide), by decide, by unfold InL1; decide⟩

/-- PC has entered the second line of the buffer. -/
def wNextLine : State := wMem.mapMe (fun t => { t with fetch := [fetchCells 0xFF00 [1] 0 0, fetchCells 0x10000 [2] 0 0] })

theorem meets_TranslationEvents_held : ∃ l, wNextLine.graftLog = [] ∧ Focused wNextLine ∧ wNextLine.me.block = wNextLine.blk.id ∧ wNextLine.me.run = .running ∧ wNextLine.me.issued = false ∧
    wNextLine.me.fetch.find? (fun l => l.line == wNextLine.me.pc.toNat / 256) = some l ∧ l.ready ≤ wNextLine.now ∧ bit (l.marks ||| l.poison) (wNextLine.me.pc.toNat / 64 % 4) = false :=
  ⟨_, rfl, ⟨by decide, by decide, by decide⟩, rfl, rfl, rfl, rfl, by decide, by decide⟩

/-- Lane 31 of the strand's load waits for its page, which is there by now. -/
def wPage : State := wMem.mapMe (fun t => { t with memWait := some { acc := .read, ok := [], failed := [], waiting := [{ lane := 31, ea := 0x10040, stage2 := false, id := none }] } })

theorem meets_TranslationEvents_page : ∃ (m : MemWait) (w : LaneWait) (pa : Nat), wPage.graftLog = [] ∧ Focused wPage ∧ wPage.me.block = wPage.blk.id ∧ wPage.me.memWait = some m ∧
    m.waiting = [w] ∧ w.id = none ∧ Mapped wPage m.acc w.ea pa :=
  ⟨_, _, 0x40040, rfl, ⟨by decide, by decide, by decide⟩, rfl, rfl, rfl, rfl, mapped_mem (by decide)⟩

/-- Lane 31 of a load with PRIV 1 waits for a page whose entry of the root table is not listed; nothing is cached, and q is the device's
queue and the hypervisor's. -/
def wMiss (limit : W64) (q : List PageReq) : State :=
  { w0 with
    vds := [{ placedVd with s2root := 0x5000, ipalim := limit, pageReqs := q }]
    stage2 := q, tlb := [], walks := []
    dies := Vector.replicate 4 { DieUnits.init with carve := 1 }
    dram := [(0x5000, 0x01), (0x5001, 0x60), (0x6000, 0x01), (0x6001, 0x70), (0x7000, 0x1F), (0x7004, 0x40)]
    me := { w0.me with priv := 1, memWait := some { acc := .read, ok := [], failed := [], waiting := [{ lane := 31, ea := 0x1000000010040, stage2 := false, id := none }] } } }

/-- Unread requests of n pages. -/
def askedPages (n : Nat) : List PageReq := (List.range n).map (fun k => { page := k + 7, acc := 0, vd := 0, id := k, popped := false })

theorem meets_TranslationEvents_miss : ∀ q ∈ [[], askedPages 256, [⟨0x1000000010, 0, 0, 5, true⟩]], ∃ (m : MemWait) (w : LaneWait) (v : VDev), let s := wMiss placedVd.ipalim q
    s.graftLog = [] ∧ Focused s ∧ s.me.block = s.blk.id ∧ s.me.memWait = some m ∧ m.waiting = [w] ∧ w.id = none ∧ Uncached s w.ea ∧ s.vd? s.blk.vd = some v ∧ v.num = s.blk.vd ∧ v.pageReqs = q ∧
    w.ea.toNat / 4096 = 0x1000000010 := by
  intro q h
  refine ⟨_, _, _, rfl, ⟨by rfl, fun b h => (List.not_mem_nil h).elim, fun b h => (List.not_mem_nil h).elim⟩, rfl, rfl, rfl, rfl, ?_, rfl, rfl, rfl, by decide⟩
  exact ⟨by decide, (by decide : (1 : Nat) ≠ 2), fun e h => (List.not_mem_nil h).elim, fun e h => (List.not_mem_nil h).elim⟩

theorem meets_TranslationEvents_root : ∃ (l : Leaf) (log : WalkLog), let s := wMiss placedVd.ipalim []
    s.guestTable (coreDie s.blk.core) { placedVd with s2root := 0x5000 } placedVd.s1root.toNat = (.leaf l, log) ∧
    bit (s.plainByte (l.oa + 8 * (0x1000000010040 / 2 ^ 48 % 256))) 0 = false ∧ s.readsHeld (coreDie s.blk.core) (log.reads ++ [l.oa + 8 * (0x1000000010040 / 2 ^ 48 % 256)]) = false :=
  ⟨_, _, rfl, by decide, by decide⟩

/-- No request, 256 unread ones of other pages, one of the page. -/
theorem meets_TranslationEvents_queue : (∀ n ∈ [0, 256], ∀ r ∈ askedPages n, ¬(r.page = 0x1000000010 ∧ r.vd = 0)) ∧
    ((askedPages 0).filter (fun r => !r.popped)).length < 256 ∧ 256 ≤ ((askedPages 256).filter (fun r => !r.popped)).length ∧
    [PageReq.mk 0x1000000010 0 0 5 true].find? (fun r => decide (r.page = 0x1000000010 ∧ r.vd = 0)) = some ⟨0x1000000010, 0, 0, 5, true⟩ := by
  refine ⟨fun n _ r m e => ?_, by decide, by decide, by decide⟩
  obtain ⟨k, hk, rfl⟩ := List.mem_map.mp m
  have := List.mem_range.mp hk
  rename_i hn
  simp only [List.mem_cons, List.not_mem_nil, or_false] at hn
  have := e.1
  simp only at this
  omega

theorem meets_TranslationEvents_limit : ∃ v : VDev, (wMiss placedVd.s1root []).vd? (wMiss placedVd.s1root []).blk.vd = some v ∧ v.ipalim.toNat ≤ v.s1root.toNat := ⟨_, rfl, by decide⟩

/-- PC match register 0 names the PC. -/
def wMatch : State := w0.mapMe (fun t => { t with pcMatch := t.pcMatch.set 0 { addr := 0x10000, enable := true } })

theorem meets_StrandEvents_match : ∃ (k j : Nat) (m : Match), wMatch.graftLog = [] ∧ Focused wMatch ∧ wMatch.me.id = k ∧ wMatch.me.block = wMatch.blk.id ∧ wMatch.me.tmasked = false ∧
    wMatch.me.matched = false ∧ wMatch.me.issued = false ∧ wMatch.me.pcMatch[j]? = some m ∧ m.enable = true ∧ m.addr = wMatch.me.pc ∧
    (∀ i < j, ∀ m', wMatch.me.pcMatch[i]? = some m' → m'.enable = true → m'.addr ≠ wMatch.me.pc) ∧ wMatch.blk.debug = false :=
  ⟨2, 0, _, rfl, ⟨by decide, by decide, by decide⟩, rfl, rfl, rfl, rfl, rfl, rfl, rfl, rfl, fun i h => absurd h (Nat.not_lt_zero i), rfl⟩

/-- The block stops; its strand is masked at the limit of its time. -/
def wStopping : State := { (w0.mapBlk (fun b => { b with phase := .stopping })).mapMe (fun t => { t with tmasked := true }) with now := 2 ^ 20 * acTicks }

theorem meets_StrandEvents_overrun : ∃ k, wStopping.graftLog = [] ∧ wStopping.me.id = k ∧ wStopping.me.block = wStopping.blk.id ∧ wStopping.blk.phase = .stopping ∧ wStopping.me.tmasked = true ∧
    wStopping.me.run = .running ∧ (∀ t ∈ wStopping.strands, t.id ≠ k) ∧ wStopping.blk.stopAt + 2 ^ 20 * acTicks ≤ wStopping.now :=
  ⟨2, rfl, rfl, rfl, rfl, rfl, rfl, by decide, by decide⟩

theorem meets_StrandEvents_record : ∃ (s : State) (k : Nat) (v : VDev) (r : List W64) (rest : List (List W64)), s.graftLog = [] ∧ s.vd? k = some v ∧ v.num = k ∧ v.heldFaults = r :: rest :=
  ⟨{ w0 with vds := [{ placedVd with faultQ := List.replicate 254 1, heldFaults := [[7, 8], [9]] }] }, 0, _, _, _, rfl, rfl, rfl, rfl⟩

/-- The phase of barrier 15 and that of the cluster barrier have stood for exactly T; strand 2 has not arrived. -/
def wLate : State :=
  { w0.mapBlk (fun b => { b with timeout := 100, barriers := b.barriers.set 15 { arrived := [31], firstAt := some 0, released := [], timedOut := [] } }) with
    groupBars := [{ group := 0, arrived := [9], firstAt := some 0, stoppedAt := none, released := [], timedOut := [], halted := false }] }

theorem meets_BarrierTimeouts_block : ∃ (k : Nat) (r : Barrier) (t0 : Nat), wLate.graftLog = [] ∧ (∀ b ∈ wLate.blocks, b.id ≠ wLate.blk.id) ∧ wLate.blk.barriers[k]? = some r ∧
    r.firstAt = some t0 ∧ wLate.clockRuns wLate.blk = true ∧ t0 + wLate.blk.timeout * acTicks ≤ wLate.now ∧ absent wLate wLate.blk (fun t => r.arrived.contains t.slot) ≠ [] :=
  ⟨15, _, _, rfl, by decide, rfl, rfl, by decide, by decide, by decide⟩

theorem meets_BarrierTimeouts_cluster : ∃ (g : GroupBarrier) (t0 : Nat), wLate.groupBars.find? (fun g => g.group == wLate.blk.group) = some g ∧ g.firstAt = some t0 ∧
    wLate.clockRuns wLate.blk = true ∧ (∀ b ∈ wLate.blocks, b.group ≠ wLate.blk.group) ∧ wLate.blk.phase ≠ .ended ∧ wLate.blk.id ≠ 0 ∧ t0 + wLate.blk.timeout * acTicks ≤ wLate.now ∧
    absent wLate wLate.blk (fun t => g.arrived.contains t.id) ≠ [] := ⟨_, _, rfl, rfl, by decide, by decide, by decide, by decide, by decide, by decide⟩

/-- One copy of the strand, of 4 elements of 32 bits of one dimension from element 4 of 8 on, to near store, as f makes it. -/
def wMove (f : CopyOp → CopyOp) : State :=
  { wGraft none [] with
    copies := [f { w0.newCopy .cpg (Layout.of (layRec 4)) [4, 0, 0, 0, 0] (.window 0xBFFF0) 0 (some 0xBFFF8) [] with id := 77 }]
    blk := { w0.blk with trays := w0.blk.trays.set 15 { Tray.init with atype := 4, kslot := 4, gen := 9 } } }

theorem turn_move (f : CopyOp → CopyOp) (c : CopyOp) (e : (f { w0.newCopy .cpg (Layout.of (layRec 4)) [4, 0, 0, 0, 0] (.window 0xBFFF0) 0 (some 0xBFFF8) [] with id := 77 }) = c)
    (h : c.id = 77 ∧ c.block = 1 ∧ c.finished = false ∧ c.stream = false ∧ c.waiting = none ∧ c.core = 0) :
    (wMove f).graftLog = [] ∧ (∀ b ∈ (wMove f).blocks, b.id ≠ (wMove f).blk.id) ∧ CopyTurn (wMove f) c ∧ (∀ k ∈ (wMove f).copies, k ≠ c → k.id ≠ c.id) ∧ Undrained (wMove f) := by
  have l : (wMove f).copies = [c] := by rw [← e]; rfl
  refine ⟨rfl, fun b m => (List.not_mem_nil m).elim, ⟨?_, h.2.1, rfl, ⟨h.2.2.1, h.2.2.2.1⟩, h.2.2.2.2.2, ?_, ?_, h.2.2.2.2.1⟩, ?_, ?_⟩
  · rw [l]; simp
  · rw [l]; simp [h.2.2.1, h.2.2.2.1]
  · rw [l]; intro k m n; exact absurd (congrArg CopyOp.id (List.mem_singleton.mp m)) n
  · rw [l]; intro k m n; exact absurd (List.mem_singleton.mp m) n
  · exact fun k e => nomatch (show ClusterState.online = .draining k from e)

/-- That copy, of a box of 4 by 16, goes to tray 15, of which it expects generation g. -/
def toTray (g : Option Nat) (c : CopyOp) : CopyOp := { c with side := .tray 15, gen := g, lay := { c.lay with ndim := 2, ext := [8, 16, 1, 1, 1], box := [4, 16, 1, 1, 1] } }

theorem meets_CopyEvents_reserve : ∃ (f : CopyOp → CopyOp) (c : CopyOp) (k : Nat) (y : Tray), CopyTurn (wMove f) c ∧ c.kind = .cpg ∧ c.side = .tray k ∧ c.slot = none ∧ c.status = 0 ∧
    c.decided = [] ∧ c.next < c.lay.total ∧ (wMove f).blk.trays[k]? = some y ∧ c.conflict (wMove f).blk = none ∧ (c.gen = none ∨ c.gen = some y.gen.toNat) ∧ y.free ≠ 0 :=
  ⟨toTray (some 9), _, 15, _, (turn_move _ _ rfl (by decide)).2.2.1, by decide, by decide, by decide, by decide, by decide, by decide, rfl, by decide, by decide, by decide⟩

theorem meets_CopyEvents_refuse : ∃ (f : CopyOp → CopyOp) (c : CopyOp) (k : Nat) (y : Tray), CopyTurn (wMove f) c ∧ c.side = .tray k ∧ (wMove f).blk.trays[k]? = some y ∧
    c.conflict (wMove f).blk = none ∧ c.gen ≠ none ∧ c.gen ≠ some y.gen.toNat := ⟨toTray (some 8), _, 15, _, (turn_move _ _ rfl (by decide)).2.2.1, by decide, rfl, by decide, by decide, by decide⟩

theorem meets_CopyEvents_land : ∃ (f : CopyOp → CopyOp) (c : CopyOp) (n o off pa : Nat), CopyTurn (wMove f) c ∧ PlainCopy (wMove f) c n o off ∧ c.next = 0 ∧ c.status = 0 ∧ c.decided = [] ∧
    c.remoteEnd = none ∧ c.conflict (wMove f).blk = none ∧ pa % 4 = 0 ∧ nearBase ≤ pa ∧ pa + 4 * n < nearLimit ∧ (∀ k < 4 * n, (pa + k) / 64 ∉ (wMove f).poison) ∧ off + 4 * n ≤ 2 ^ 20 ∧
    ((wMove f).blk.window.map Prod.fst).Pairwise (· < ·) ∧ (∀ b ∈ (wMove f).blk.window, b.2 ≠ 0) ∧
    (wMove f).heldBack c.core ((List.range (4 * n)).map (pa + ·)) = false ∧ (∀ e ∈ (wMove f).tlb, e.bad = false) ∧
    (∀ k < 4 * n, ∃ e : TlbEntry, (wMove f).tlb.find? (fun e => e.answers (.core c.core) false c.vd (decide (c.priv = 2)) (c.lay.base + BitVec.ofNat 64 (4 * o + k)).toNat) = some e ∧
      (c.lay.base + BitVec.ofNat 64 (4 * o + k)).toNat < 2 ^ 56 ∧ (wMove f).permits c.priv .read e (c.lay.base + BitVec.ofNat 64 (4 * o + k)).toNat = true ∧ e.raw = false ∧
      e.addr (c.lay.base + BitVec.ofNat 64 (4 * o + k)).toNat = pa + k) := by
  refine ⟨id, _, 4, 4, 0xBFFF0, 0x4000000010, (turn_move _ _ rfl (by decide)).2.2.1, ⟨by decide, by decide, by decide, ⟨by decide, ⟨8, by decide, by decide⟩, by decide⟩, by decide⟩, by decide, by decide,
    by decide, by decide, by decide, by decide, by decide, by decide, fun k _ => List.not_mem_nil, by decide, by decide, by decide, by decide, by decide, ?_⟩
  intro k h
  interval_cases k <;> exact ⟨_, rfl, by decide, by decide, by decide, by decide⟩

theorem meets_TranslationEvents_engine : ∀ k ∈ [CopyKind.cpg, .gconv], ∃ (op : Nat) (c : CopyOp), let s := wMove (fun c => { c with kind := k })
    s.graftLog = [] ∧ Focused s ∧ s.me.block = s.blk.id ∧ s.copy? op = some c ∧ c.kind = k :=
  fun k _ => ⟨77, _, rfl, ⟨by rfl, fun b h => (List.not_mem_nil h).elim, fun b h => (List.not_mem_nil h).elim⟩, rfl, rfl, rfl⟩

theorem meets_CopyEvents_complete : ∃ (f : CopyOp → CopyOp) (c : CopyOp) (off : Nat), CopyTurn (wMove f) c ∧ c.kind = .cps ∧ c.status = 0 ∧ c.cross = false ∧ c.decided = [] ∧
    c.lay.total ≤ c.next ∧ c.bar = none ∧ c.bytes < 2 ^ 35 ∧ (wMove f).blk.eventOn = false ∧ (wMove f).strandsOf (wMove f).blk.id ≠ [] ∧
    (∃ t ∈ (wMove f).strandsOf (wMove f).blk.id, t.over = false) ∧ c.cw = some off ∧ off % 8 = 0 ∧ off + 8 ≤ (wMove f).blk.windowSize ∧ ((wMove f).blk.window.map Prod.fst).Pairwise (· < ·) :=
  ⟨fun c => { c with kind := .cps, next := 4, bytes := 128 }, _, 0xBFFF8, (turn_move _ _ rfl (by decide)).2.2.1, by decide, by decide, by decide, by decide, by decide, by decide, by decide, by decide,
    by decide, by decide, by decide, by decide, by decide, by decide⟩

/-- The whole gang, slot 0, has latched a matrix word. -/
def wGang (w : W32) : State := w0.mapBlk (fun b => { b with latch := some { word := w, gang := 1, joined := [0] } })

theorem meets_MatrixEvents_rendezvous : ∃ (a : BitVec 3) (w : BitVec 7) (r k : BitVec 4) (x y p : BitVec 1) (c : Bool) (l : Latch), let s := wGang (encode (.mmac 7 127 15 15 1 1 1))
    s.graftLog = [] ∧ (∀ b ∈ s.blocks, b.id ≠ s.blk.id) ∧ Undrained s ∧ s.blk.latch = some l ∧ l.word = encode (if c then .mmac a w r k x y p else .mma a w r k x y p) ∧
    (∀ j < 32, l.gang.getLsbD j = true → j ∈ l.joined) ∧ s.mxops = [] ∧ s.me.block = s.blk.id ∧ l.gang.getLsbD s.me.slot = true ∧ s.me.slot < 32 ∧ s.me.run = .running :=
  ⟨7, 127, 15, 15, 1, 1, 1, true, _, rfl, (by decide : ∀ b ∈ w0.blocks, b.id ≠ w0.blk.id), (fun k e => nomatch (show ClusterState.online = .draining k from e)), rfl, rfl, (by decide : ∀ j < 32, (1#32).getLsbD j = true → j ∈ [0]), rfl, rfl,
    (by decide : (1#32).getLsbD w0.me.slot = true), (by decide : w0.me.slot < 32), rfl⟩

/-- An operation on tile 7 with tray 15, which holds one slot of 64 elements of type 1, and planes from 112 on, of that type too; tile 7 holds one element. -/
def wArray (f : MxOp → MxOp) (a : BitVec 28) : State :=
  let tile : Tile := { Tile.init with elems := [(2047, { a := a, rw := 0, nan := false, ru := false })], d := 16 }
  let tray : Tray := { Tray.init with atype := 1, kslot := 64, slot := 2048, filled := 1, free := 0 }
  { w0.mapBlk (fun b => { b with tiles := b.tiles.set 7 tile, planes := List.replicate 128 { Plane.init with ptype := 1 }, trays := b.trays.set 15 tray }) with
    mxops := [f { id := 88, block := 1, members := [2], mmac := false, acc := 7, plane := 112, tray := 15, kcnt := 16, t := false, s := false, p := true, started := false, next := 0, drained := 0, queues := [], arrivals := [], rovf := [], fault := none, issuedAt := 0, done := false }] }

theorem meets_MatrixEvents_start : ∃ m, let s := wArray id 0
    s.graftLog = [] ∧ (∀ b ∈ s.blocks, b.id ≠ s.blk.id) ∧ Undrained s ∧ s.mxops = [m] ∧ m.block = s.blk.id ∧ m.acc < s.blk.tiles.length ∧ m.started = false ∧ m.done = false ∧ m.check s.blk = none :=
  ⟨_, rfl, by decide, (fun k e => nomatch (show ClusterState.online = .draining k from e)), rfl, rfl, by decide, rfl, rfl, by decide⟩

/-- T with BF16 operands. -/
theorem meets_MatrixEvents_format : ∃ m, ∃ v : W64, let s := wArray (fun m => { m with t := true }) 0
    s.mxops = [m] ∧ m.block = s.blk.id ∧ m.acc < s.blk.tiles.length ∧ m.started = false ∧ m.done = false ∧ m.check s.blk = some v ∧ s.blk.eventOn = false ∧ s.blk.phase = .running ∧
    (∃ t ∈ s.strandsOf s.blk.id, t.over = false) := ⟨_, 0x30122, rfl, rfl, by decide, rfl, rfl, by decide, rfl, rfl, by decide⟩

/-- The operation on one plane, whose first weight is w; the first activation is 1. -/
def wProduct (w : Byte × Byte) (f : Option BatchFault) : State :=
  (wArray (fun m => { m with started := true, kcnt := 1, plane := 127, p := false, fault := f }) 0).mapBlk (fun b =>
    { b with window := [(0, 0x80), (1, 0x3F)], planes := b.planes.set 127 { Plane.init with ptype := 1, bytes := [(0, w.1), (1, w.2)] } })

/-- 1 times 1 outside the window of G = 0; 1 times a NaN; the same where the operation has failed already. -/
theorem meets_MatrixEvents_window : ∀ e ∈ [(((0x80, 0x3F) : Byte × Byte), (none : Option BatchFault)), ((0xC0, 0x7F), none), ((0xC0, 0x7F), some ⟨.matrixWindow, 7, 0⟩)], ∃ m y, let s := wProduct e.1 e.2
    s.mxops = [m] ∧ m.block = s.blk.id ∧ m.acc < s.blk.tiles.length ∧ s.blk.trays[m.tray]? = some y ∧ m.started = true ∧ m.done = false ∧ m.next < m.kcnt ∧ m.arrivals = [] ∧ m.p = false ∧
    m.next + 1 ≤ y.filled ∧ m.fault = e.2 := by
  intro e h
  simp only [List.mem_cons, List.not_mem_nil, or_false] at h
  rcases h with rfl | rfl | rfl <;>
    exact ⟨_, _, rfl, rfl, by decide, rfl, rfl, rfl, by decide, rfl, rfl, by decide, rfl⟩

theorem partialSum_flags (g : Int) (ps : List FVal) : (partialSum g ps).2 = (ps.any (fun p => (quantise g p).2.1), ps.any (fun p => (quantise g p).2.2)) := by
  have h : ∀ (ps : List FVal) (a : Int × Bool × Bool), (ps.foldl (fun acc p => let (q, n, w) := quantise g p; (acc.1 + q, acc.2.1 || n, acc.2.2 || w)) a).2 =
      (a.2.1 || ps.any (fun p => (quantise g p).2.1), a.2.2 || ps.any (fun p => (quantise g p).2.2)) := by
    intro ps
    induction ps with
    | nil => simp
    | cons p r ih => intro a; simp [ih, Bool.or_assoc]
  exact (h ps (0, false, false)).trans (by simp)

theorem product_one : let s := wProduct (0x80, 0x3F) none
    (s.blk.trays[15]?.getD Tray.init).activation s.blk 0 0 0 = .fin false 128 (-7) ∧ (s.blk.planes[127]?.getD Plane.init).weight false 0 0 = .fin false 128 (-7) ∧
    (quantise 0 (FVal.mul (.fin false 128 (-7)) (.fin false 128 (-7)))).2 = (true, true) := ⟨by decide, by decide, by decide⟩

theorem product_nan : (((wProduct (0xC0, 0x7F) none).blk.planes[127]?.getD Plane.init).weight false 0 0 = .nan) ∧ (quantise 0 (FVal.mul (.fin false 128 (-7)) .nan)).2 = (true, false) :=
  ⟨by decide, by decide⟩

theorem meets_MatrixEvents_awaited : ∃ m y, let s := wArray (fun m => { m with started := true, next := 15, p := false }) 0
    s.mxops = [m] ∧ m.block = s.blk.id ∧ m.acc < s.blk.tiles.length ∧ s.blk.trays[m.tray]? = some y ∧ m.started = true ∧ m.done = false ∧ m.next < m.kcnt ∧ m.arrivals = [] ∧
    y.filled < m.next + 1 := ⟨_, _, rfl, rfl, by decide, rfl, rfl, rfl, by decide, rfl, by decide⟩

theorem meets_MatrixEvents_stream : ∃ m y, let s := wArray (fun m => { m with started := true, next := 15 }) 0
    s.mxops = [m] ∧ m.block = s.blk.id ∧ m.acc < s.blk.tiles.length ∧ s.blk.trays[m.tray]? = some y ∧ m.started = true ∧ m.done = false ∧ m.next < m.kcnt ∧ m.arrivals = [] ∧ m.p = true ∧
    1 ≤ y.filled := ⟨_, _, rfl, rfl, by decide, rfl, rfl, rfl, by decide, rfl, rfl, by decide⟩

theorem meets_MatrixEvents_arrival : ∃ m i j x z, let s := wArray (fun m => { m with started := true, next := 16, arrivals := [(15, 127, -3), (0, 0, 5)] }) 0
    s.mxops = [m] ∧ m.block = s.blk.id ∧ m.acc < s.blk.tiles.length ∧ m.arrivals = (i, j, x) :: z := ⟨_, _, _, _, _, rfl, rfl, by decide, rfl⟩

theorem meets_MatrixEvents_drain : ∃ m j, let s := wArray (fun m => { m with started := true, next := 16, drained := 127 }) 0
    s.mxops = [m] ∧ m.block = s.blk.id ∧ m.acc < s.blk.tiles.length ∧ j < 128 ∧ m.arrivals = [] ∧ m.kcnt ≤ m.next ∧ m.drained = j := ⟨_, _, rfl, rfl, by decide, by decide, rfl, by decide, rfl⟩

theorem meets_MatrixEvents_complete : ∃ m, let s := wArray (fun m => { m with started := true, next := 16, drained := 128 }) 0x7FFF
    s.mxops = [m] ∧ m.block = s.blk.id ∧ m.drained = 128 ∧ m.done = false ∧ m.rovf = [] ∧ m.fault = none ∧ s.blk.eventOn = false ∧ s.blk.phase = .running ∧
    (∃ t ∈ s.strandsOf s.blk.id, t.over = false) ∧ (∀ e ∈ (s.blk.tiles[m.acc]?.getD .init).elems, (!e.2.nan && decide (2 ^ ((s.blk.tiles[m.acc]?.getD .init).d - 1) ≤ (exactSum e.2).natAbs)) = false) :=
  ⟨_, rfl, rfl, rfl, rfl, rfl, rfl, rfl, rfl, by decide, by decide⟩

theorem meets_MatrixEvents_overflow : ∃ m e, let s := wArray (fun m => { m with started := true, next := 16, drained := 128 }) 0x8000
    s.mxops = [m] ∧ m.drained = 128 ∧ e ∈ (s.blk.tiles[m.acc]?.getD .init).elems ∧ (!e.2.nan && decide (2 ^ ((s.blk.tiles[m.acc]?.getD .init).d - 1) ≤ (exactSum e.2).natAbs)) = true ∧
    (∀ e' ∈ (s.blk.tiles[m.acc]?.getD .init).elems, (!e'.2.nan && decide (2 ^ ((s.blk.tiles[m.acc]?.getD .init).d - 1) ≤ (exactSum e'.2).natAbs)) = true → e' = e) ∧ e.1 < 2048 ∧ m.s = false :=
  ⟨_, (2047, { a := 0x8000, rw := 0, nan := false, ru := false }), rfl, rfl, by decide, by decide, by decide, by decide, rfl⟩

/-- With S: an element outside 16 bits, one whose residue overflowed, one inside. -/
theorem meets_MatrixEvents_saturate : ∀ x ∈ [((0x8000 : BitVec 28), ([] : List Nat), true), (0x7FFF, [2047], true), (0x7FFF, [], false)], ∃ m, let s := wArray (fun m => { m with started := true, next := 16, drained := 128, s := true, rovf := x.2.1 }) x.1
    s.mxops = [m] ∧ m.block = s.blk.id ∧ m.acc < s.blk.tiles.length ∧ m.drained = 128 ∧ m.done = false ∧ m.s = true ∧ s.blk.eventOn = false ∧ s.blk.phase = .running ∧ (∃ t ∈ s.strandsOf s.blk.id, t.over = false) ∧
    ((s.blk.tiles[m.acc]?.getD .init).elems.map Prod.fst).Nodup ∧ 1 ≤ (s.blk.tiles[m.acc]?.getD .init).d ∧ (s.blk.tiles[m.acc]?.getD .init).d ≤ 41 ∧
    (∀ e ∈ (s.blk.tiles[m.acc]?.getD .init).elems, (!e.2.nan && (decide (2 ^ ((s.blk.tiles[m.acc]?.getD .init).d - 1) ≤ (exactSum e.2).natAbs) || m.rovf.contains e.1)) = x.2.2) := by
  intro x h
  simp only [List.mem_cons, List.not_mem_nil, or_false] at h
  rcases h with rfl | rfl | rfl <;>
    exact ⟨_, rfl, rfl, by decide, rfl, rfl, rfl, rfl, rfl, by decide, by decide, by decide, by decide, by decide⟩

/-- Without S, an element whose residue overflowed is the first. -/
theorem meets_MatrixEvents_residue : ∃ m e, let s := wArray (fun m => { m with started := true, next := 16, drained := 128, rovf := [2047] }) 5
    s.mxops = [m] ∧ e ∈ (s.blk.tiles[m.acc]?.getD .init).elems ∧ (!e.2.nan && (decide (2 ^ ((s.blk.tiles[m.acc]?.getD .init).d - 1) ≤ (exactSum e.2).natAbs) || m.rovf.contains e.1)) = true ∧
    (∀ e' ∈ (s.blk.tiles[m.acc]?.getD .init).elems, (!e'.2.nan && (decide (2 ^ ((s.blk.tiles[m.acc]?.getD .init).d - 1) ≤ (exactSum e'.2).natAbs) || m.rovf.contains e'.1)) = true → e.1 ≤ e'.1) ∧ e.1 < 2048 ∧ m.s = false :=
  ⟨_, (2047, { a := 5, rw := 0, nan := false, ru := false }), rfl, by decide, by decide, by decide, by decide, rfl⟩

/-! ## What the statements assume can be met: events of blocks, clusters, dies, links, debug sessions, power -/

/-- The block in phase p, its strand as f makes it. -/
def wLife (p : Phase) (f : Strand → Strand) : State := (w0.mapBlk (fun b => { b with phase := p, group := 5 })).mapMe f

theorem sound_life (p : Phase) (f : Strand → Strand) (h : (f w0.me).block = 1) : (wLife p f).graftLog = [] ∧ (∀ b ∈ (wLife p f).blocks, b.id ≠ (wLife p f).blk.id) ∧ (wLife p f).blk.id ≠ 0 ∧
    (wLife p f).me.block = (wLife p f).blk.id := ⟨rfl, fun _ m => (List.not_mem_nil m).elim, (by decide : (1 : Nat) ≠ 0), h⟩

theorem meets_BlockEvents_request : (wLife .running id).blk.phase = .running ∧ (wLife .running id).blk.latch = none := ⟨rfl, rfl⟩

/-- A second block of the group, on another core, in a phase. -/
def sibling (p : Phase) : Block := { placedBlock with id := 7, core := 1, phase := p, group := 5 }

/-- The block in phase p, its group's other block in phase q. -/
def wPair (p q : Phase) : State := { wLife p id with blocks := [sibling q] }

theorem sound_pair (p q : Phase) : (wPair p q).graftLog = [] ∧ (∀ b ∈ (wPair p q).blocks, b.id ≠ (wPair p q).blk.id) ∧ (wPair p q).blk.id ≠ 0 ∧
    (wPair p q).me.block = (wPair p q).blk.id :=
  ⟨rfl, fun b m => by rw [List.mem_singleton.mp m]; exact (by decide : (7 : Nat) ≠ 1), (by decide : (1 : Nat) ≠ 0), rfl⟩

theorem meets_BlockEvents_waiting : (wPair .stopping .running).blk.phase = .stopping ∧
    ∃ k ∈ (wPair .stopping .running).blocks, k.group = (wPair .stopping .running).blk.group ∧ k.phase = .running := ⟨rfl, _, List.mem_singleton.mpr rfl, rfl, rfl⟩

theorem meets_BlockEvents_together : (wPair .stopping .draining).blk.phase = .stopping ∧ (wPair .stopping .draining).blk.latch = none ∧
    (∀ t ∈ (wPair .stopping .draining).strandsOf (wPair .stopping .draining).blk.id, t.run = .running → t.tmasked = false ∧ t.wait ≠ .released ∧ t.wait ≠ .gang) ∧
    (∀ k ∈ (wPair .stopping .draining).blocks, k.group = (wPair .stopping .draining).blk.group → k.phase ≠ .running ∧ k.phase ≠ .restoring ∧ k.phase ≠ .stopping) :=
  ⟨rfl, rfl, by decide, by decide⟩

theorem meets_BlockEvents_drained : (wPair .draining .draining).blk.phase = .draining ∧ (wPair .draining .draining).mxops = [] ∧
    (∀ t ∈ (wPair .draining .draining).strandsOf (wPair .draining .draining).blk.id, t.flight = none) ∧
    (∀ k ∈ (wPair .draining .draining).blocks, k.group = (wPair .draining .draining).blk.group → k.phase ≠ .stopping ∧
      ∀ t ∈ (wPair .draining .draining).strandsOf k.id, t.flight = none) := ⟨rfl, rfl, by decide, by decide⟩

theorem meets_BlockEvents_draining : (wLife .stopping id).blk.phase = .stopping ∧ (wLife .stopping id).blk.latch = none ∧
    (∀ t ∈ (wLife .stopping id).strandsOf (wLife .stopping id).blk.id, t.run = .running → t.tmasked = false ∧ t.wait ≠ .released ∧ t.wait ≠ .gang) ∧ (wLife .stopping id).me.run = .running :=
  ⟨rfl, rfl, by decide, rfl⟩

theorem meets_BlockEvents_saving : (wLife .draining id).blk.phase = .draining ∧ (wLife .draining id).mxops = [] ∧
    (∀ t ∈ (wLife .draining id).strandsOf (wLife .draining id).blk.id, t.flight = none) := ⟨rfl, rfl, by decide⟩

theorem meets_BlockEvents_evicted : (wLife .saving id).blk.phase = .saving ∧ (wLife .saving id).blk.eventOn = false := ⟨rfl, rfl⟩

theorem meets_BlockEvents_restoring : (wLife .restoring id).blk.phase = .restoring ∧ (wLife .restoring id).blk.eventOn = false ∧ (wLife .restoring id).clusterIssues (wLife .restoring id).blk.core = true := ⟨rfl, rfl, rfl⟩

/-- The record of the block's group, of two blocks. -/
def task5 : Task := { id := 5, launch := 0, die := 0, isRelaunch := false, relaunch := 0, inst := 0, wid := [0, 0, 0, 0], recs := 0, nrec := 0, ofRecords := false, cls := none, readyAt := 0, priority := 7, age := 0, placed := true, blocksLeft := 2, failed := none, place := 0, nfault := 0 }

theorem no_launch {s : State} {d i : Nat} {l : Launch} (h : s.launches = []) (e : s.launch? d i = some l) : False := by
  unfold State.launch? at e; rw [h] at e; cases e

theorem meets_BlockEvents_complete : ∃ k : Task, let s := { wLife .running (fun t => { t with run := .exited }) with
      tasks := [task5] }
    (∀ t ∈ s.strandsOf s.blk.id, t.over = true) ∧ s.blk.offers = [] ∧ s.blockDone s.blk.id = true ∧ s.blk.hasNode = none ∧ s.blk.eventOn = false ∧
    (∀ l, s.launch? s.blk.die s.blk.launch = some l → l.node = none) ∧ s.tasks.find? (fun k => k.id == s.blk.group) = some k ∧ 2 ≤ k.blocksLeft :=
  ⟨task5, by decide, rfl, by decide, rfl, rfl, fun l h => (no_launch (by rfl) h).elim, rfl, by decide⟩

/-- Cluster 63, with nothing on it, in a state; its last core is in the focus and two packets are on their way there. -/
def wCluster (st : ClusterState) (spare : Option Nat) : State :=
  { w0 with
    clusters := [{ id := 63, state := st, spare := spare, withdrawn := false, context := none, incoming := none, sliceAt := 0, drainedAt := 0, debts := [] }]
    core := { Core.init 504 with packets := [{ strand := 9, block := 4, off := 0, bytes := [1], act := 0, amount := 0 }, { strand := 9, block := 4, off := 8, bytes := [2], act := 0, amount := 0 }] } }

theorem meets_ClusterEvents_online : ∃ c k : Nat, let s := wCluster .online none
    s.graftLog = [] ∧ k < 8 ∧ c < 64 ∧ s.residentOn c = [] ∧ s.beds = [] ∧ s.sows = [] ∧ s.copies = [] ∧ (s.clusterOf c).spare = none ∧ (s.clusterOf c).state = .online :=
  ⟨63, 7, rfl, by decide, by decide, by decide, rfl, rfl, rfl, rfl, rfl⟩

theorem meets_ClusterEvents_worn : ∃ c : Nat, let s := wCluster .online (some 504)
    c < 64 ∧ s.residentOn c = [] ∧ (s.clusterOf c).spare ≠ none := ⟨63, by decide, by decide, by decide⟩

theorem meets_ClusterEvents_resetting : ∃ c t0 n : Nat, let s := wCluster (.resetting 7) none
    c < 64 ∧ s.residentOn c = [] ∧ (s.clusterOf c).state = .resetting t0 ∧ s.core.id = c * 8 ∧ n < s.core.packets.length := ⟨63, 7, 1, by decide, by decide, rfl, rfl, by decide⟩

theorem no_swap : ∀ d ∈ (wCluster (.draining 7) none).agenda, ∀ k, d.ev ≠ .spareSwap 63 k := by
  intro d m k e
  have h : (wCluster (.draining 7) none).agenda.all (fun d => match d.ev with | .spareSwap _ _ => false | _ => true) = true := by decide
  have := List.all_eq_true.mp h d m
  rw [e] at this; exact absurd this Bool.false_ne_true

theorem meets_ClusterEvents_draining : ∃ c t0 : Nat, let s := wCluster (.draining 7) none
    c < 64 ∧ s.residentOn c = [] ∧ (s.clusterOf c).state = .draining t0 ∧ (∃ d, s.dies[c / 16]? = some d) ∧
    (∀ d ∈ s.agenda, ∀ k, d.ev ≠ .spareSwap c k) ∧ (∀ j < 8, (s.coreOf (c * 8 + j)).events = []) :=
  ⟨63, 7, by decide, by decide, rfl, ⟨_, rfl⟩, no_swap, by decide⟩

theorem meets_ClusterEvents_offline : ∃ c : Nat, let s := wCluster .offline none
    c < 64 ∧ s.residentOn c = [] ∧ (s.clusterOf c).state = .offline ∧ (s.clusterOf c).incoming = none := ⟨63, by decide, by decide, rfl, rfl⟩

/-- Die 3 is idle. -/
def wDie (y : DieUnits) : State := { w0 with dies := (Vector.replicate 4 DieUnits.init).set 3 y }

theorem meets_DieEvents : ∃ (d : Nat) (y : DieUnits) (k : Nat), let s := wDie { DieUnits.init with rowErrors := [(32, 1)] }
    s.graftLog = [] ∧ d < 4 ∧ s.dies[d]? = some y ∧ (∀ b ∈ s.allBlocks, coreDie b.core ≠ d) ∧ k ≤ 32 ∧ y.slice = none ∧ y.channel = none ∧ y.copying = none ∧
    (∀ l ∈ s.slices, s.binding? (l.line * 256) = none) :=
  ⟨3, _, 32, rfl, by decide, rfl, by decide, by decide, rfl, rfl, rfl, by decide⟩

theorem meets_DieEvents_copied : ∃ (d : Nat) (y : DieUnits) (u : Nat), let s := wDie { DieUnits.init with copying := some 15 }
    d < 4 ∧ s.dies[d]? = some y ∧ (∀ b ∈ s.allBlocks, coreDie b.core ≠ d) ∧ y.copying = some u := ⟨3, _, 15, by decide, rfl, by decide, rfl⟩

theorem meets_DieEvents_scrub : ∃ d k : Nat, d < 4 ∧ homeDie (k * 64) = d := ⟨3, 3 * 2 ^ 30, by decide, by decide⟩

/-- Sector 0x1000 stands in the L1 and its line in its slice, the TLB has two entries. -/
def wEcc : State := { wMem with slices := [{ line := 0x400, valid := 9, dirty := 8, cells := [(0x400C0, 3)], use := 0, free := false, marks := 0, poison := 0, way := 0, used := 0 }] }

theorem meets_DieEvents_errors : ∃ (k r : Nat) (e : TlbEntry), wEcc.graftLog = [] ∧ (∃ y, wEcc.dies[3]? = some y) ∧ (∀ b ∈ wEcc.allBlocks, coreDie b.core ≠ 3) ∧ k ∈ wEcc.core.valid ∧ 0 < r ∧ r < 64 ∧
    wEcc.tlb[1]? = some e ∧ 8 * 95 < wEcc.blk.windowSize ∧ (∃ l ∈ wEcc.slices, l.line = 0x1003 / 4 ∧ bit l.valid (0x1003 % 4) = true) :=
  ⟨0x1000, 63, _, rfl, ⟨_, rfl⟩, by decide, by decide, by decide, by decide, rfl, by decide, _, List.mem_singleton.mpr rfl, by decide, by decide⟩

/-- Link 5 has failed seven times in a row; spares left as given. -/
def wLink (spares : Nat) (retrain : Bool) : State := { w0 with links := w0.links.set 5 { fails := 7, replays := 7, sparesUp := spares, sparesDown := spares, retrain := retrain, lost := false, flitsUp := [3], flitsDown := [] } }

theorem meets_LinkEvents_spares : ∃ k l, let s := wLink 1 false
    s.graftLog = [] ∧ k < 6 ∧ s.links[k]? = some l ∧ l.retrain = false ∧ l.lost = false ∧ l.sparesUp ≠ 0 ∧ l.sparesDown ≠ 0 ∧ s.control.stopped = false :=
  ⟨5, _, rfl, by decide, rfl, rfl, rfl, by decide, by decide, rfl⟩

theorem meets_LinkEvents_none : ∃ k l, let s := wLink 0 true
    k < 6 ∧ s.links[k]? = some l ∧ l.sparesUp = 0 ∧ l.sparesDown = 0 ∧ l.retrain = true := ⟨5, _, by decide, rfl, rfl, rfl, rfl⟩

theorem meets_LinkEvents_stopped : ∃ s : State, s.graftLog = [] ∧ s.control.stopped = true := ⟨{ w0 with control := { w0.control with stopped := true } }, rfl, rfl⟩

/-- A session holds the block; its strand is r. -/
def wHeld (r : RunState) (p : Phase) : State := (w0.mapBlk (fun b => { b with debug := true, phase := p })).mapMe (fun t => { t with run := r })

theorem meets_DebugEvents_running : (wHeld .running .running).graftLog = [] ∧ Focused (wHeld .running .running) ∧ (wHeld .running .running).me.block = (wHeld .running .running).blk.id ∧
    (wHeld .running .running).blk.debug = true ∧ (∀ t ∈ (wHeld .running .running).strandsOf (wHeld .running .running).blk.id, t.wait ≠ .released ∧ t.wait ≠ .gang) :=
  ⟨rfl, ⟨by decide, by decide, by decide⟩, rfl, rfl, by decide⟩

theorem meets_DebugEvents_stopped : Focused (wHeld .stopped .evicted) ∧ (wHeld .stopped .evicted).me.block = (wHeld .stopped .evicted).blk.id ∧ (wHeld .stopped .evicted).blk.debug = true ∧
    (wHeld .stopped .evicted).me.run = .stopped ∧ (wHeld .stopped .evicted).blk.phase = .evicted ∧ (∃ x, (wHeld .stopped .evicted).me.s[55]? = some x) ∧
    (∃ x : W64, x.setWidth 32 &&& (wHeld .stopped .evicted).me.visible = 0) :=
  ⟨⟨by decide, by decide, by decide⟩, rfl, rfl, rfl, rfl, ⟨_, rfl⟩, 0, by decide⟩

theorem meets_DebugEvents_pc : (wHeld .stopped .running).me.run = .stopped ∧ (wHeld .stopped .running).me.flight = none ∧ (wHeld .stopped .running).me.wait = .none :=
  ⟨rfl, rfl, rfl⟩

theorem meets_DebugEvents_halted : ∃ x, (wHeld .halted .running).graftLog = [] ∧ Focused (wHeld .halted .running) ∧ (wHeld .halted .running).me.block = (wHeld .halted .running).blk.id ∧
    (wHeld .halted .running).blk.debug = true ∧ (wHeld .halted .running).me.run = .halted ∧ (wHeld .halted .running).me.s[55]? = some x :=
  ⟨_, rfl, ⟨by decide, by decide, by decide⟩, rfl, rfl, rfl, rfl⟩

/-- The controller as f makes it. -/
def wControl (f : Control → Control) : State := { w0 with control := f w0.control }

theorem meets_PhysicalEvents_cold : (wControl id).graftLog = [] ∧ (wControl id).control.image = none := ⟨rfl, rfl⟩

theorem meets_PhysicalEvents_image : ∃ i : FirmwareImage, let s := wControl (fun c => { c with rails := railOrder, nofw := true, minVersion := 4 })
    s.control.rails = railOrder ∧ s.control.nofw = true ∧ i.keyOk = true ∧ i.signedOk = true ∧ s.control.minVersion ≤ i.version :=
  ⟨{ keyOk := true, signedOk := true, version := 4, body := [1], signature := [2] }, rfl, rfl, rfl, rfl, by decide⟩

theorem meets_PhysicalEvents_successor : ∃ i : FirmwareImage, let s := wControl (fun c => { c with ready := true, minVersion := 4 })
    s.control.ready = true ∧ s.control.stopped = false ∧ i.keyOk = true ∧ i.signedOk = true ∧ s.control.minVersion ≤ i.version :=
  ⟨{ keyOk := true, signedOk := true, version := 4, body := [], signature := [] }, rfl, rfl, rfl, rfl, by decide⟩

theorem meets_PhysicalEvents_refused : ∃ i : FirmwareImage, i.version < (wControl (fun c => { c with minVersion := 4 })).control.minVersion :=
  ⟨{ keyOk := true, signedOk := true, version := 3, body := [], signature := [] }, by decide⟩

theorem limit_power : Config.powerLimit ≤ 1950 ∧ 1800 ≤ Config.powerLimit := by
  unfold Config.powerLimit; split <;> exact ⟨by decide, by decide⟩

theorem meets_PhysicalEvents_over : let s := wControl (fun c => { c with thr := 14, overLimit := [195001] })
    s.control.thr < 15 ∧ Config.powerLimit * 100 < s.control.overLimit.sum :=
  ⟨by decide, (by have := limit_power.1; omega : Config.powerLimit * 100 < 195001)⟩

theorem meets_PhysicalEvents_under : let s := wControl (fun c => { c with thr := 1, overLimit := [171000] })
    s.control.overLimit.sum ≤ Config.powerLimit * 95 := (by have := limit_power.2; omega : 171000 ≤ Config.powerLimit * 95)

theorem meets_PhysicalEvents_hot : ∃ c d w : Nat, (wControl id).control.rails = railOrder ∧ (wControl id).control.thr < 16 ∧ c < 115 ∧ 115 ≤ d ∧ w < 4096 := ⟨114, 115, 4095, rfl, by decide, by decide, by decide, by decide⟩

/-! ## What the statements assume can be met: events of beds, grafts, schedulers and measurement -/

def bed6 (count cold : Nat) : Bed :=
  { number := 6, scope := 2, unord := false, cold := cold, handler := 0, part := 0, root := .cluster 0, copies := [(.core 0, count), (.core 7, 0)], pointers := [], frame := [], reports := [], colds := [], foreign := none }

def sowOf (k : Nat) (ph : SowPhase) : SowOp :=
  { id := k, bed := 6, vd := 0, strand := 2, block := 1, core := 0, priv := 1, scope := 3, payload := [5], unord := false, cw := some 0xBFFF8, node := .core 0, fromCore := false, bounced := none, phase := ph, bounces := 0xFFFF, parked := false, returned := false, gone := false, foreign := none }

def offer6 (e : Nat) : Offer := { bed := 6, spawn := false, count := e, queue := [60], since := 3, reserved := [] }

/-- Bed 6 of the cluster keeps counts of its cores 0 and 7, as given, and takes cold sows as given; sow 70 is as f makes it; sow 60 of the same
strand is queued; the block holds e offers for the bed. -/
def wSow (count cold e : Nat) (f : SowOp → SowOp) : State :=
  { w0.mapBlk (fun b => { b with offers := if e = 0 then [] else [offer6 e] }) with beds := [bed6 count cold], sows := [sowOf 60 .queued, f (sowOf 70 .climbing)] }

/-- What the clauses of SowEvents about a bed that is there assume. -/
def sowOk (s : State) (o : SowOp) (b : Bed) : Prop := s.graftLog = [] ∧ s.sow? o.id = some o ∧ o.gone = false ∧ s.bed? o.bed = some b ∧ b.foreign = none ∧ CountsOnce b

theorem meets_SowEvents_send : ∃ o b, let s := wSow 0 0 0 (fun o => { o with phase := .held })
    sowOk s o b ∧ o.phase = .held ∧ (∀ k ∈ s.sows, k.before o = false) :=
  ⟨sowOf 70 .held, bed6 0 0, ⟨rfl, rfl, rfl, rfl, rfl, by unfold CountsOnce; decide⟩, rfl, by decide⟩

theorem way_core {s : State} {o : SowOp} {c : Nat} (h : o.node = .core c := by rfl) (d : (s.clusterOf (c / 8)).state = .online := by rfl) : WayFree s o :=
  ⟨fun k e x y => (by rw [h] at e; cases e; rw [d] at y; cases y), fun n => absurd h (n c)⟩

theorem meets_SowEvents_outside : ∃ o b, let s := { wSow 0 0 0 id with beds := [{ bed6 0 0 with root := .cluster 1 }] }
    sowOk s o b ∧ WayFree s o ∧ o.phase = .climbing ∧ o.node.chain.contains b.root = false :=
  ⟨sowOf 70 .climbing, { bed6 0 0 with root := .cluster 1 }, ⟨rfl, rfl, rfl, rfl, rfl, by unfold CountsOnce; decide⟩, way_core, rfl, by decide⟩

theorem meets_SowEvents_climb : ∃ o b c, let s := wSow 0 0 0 id
    sowOk s o b ∧ o.node = .core c ∧ WayFree s o ∧ o.node.chain.contains b.root = true ∧ s.accepter c b = none ∧ o.phase = .climbing :=
  ⟨sowOf 70 .climbing, bed6 0 0, 0, ⟨rfl, rfl, rfl, rfl, rfl, by unfold CountsOnce; decide⟩, rfl, way_core, by decide, by decide, rfl⟩

theorem meets_SowEvents_bounce : ∃ o b c, let s := wSow 1 0 0 (fun o => { o with phase := .descending })
    sowOk s o b ∧ o.node = .core c ∧ WayFree s o ∧ o.node.chain.contains b.root = true ∧ s.accepter c b = none ∧ o.phase = .descending :=
  ⟨sowOf 70 .descending, bed6 1 0, 0, ⟨rfl, rfl, rfl, rfl, rfl, by unfold CountsOnce; decide⟩, rfl, way_core, by decide, by decide, rfl⟩

theorem meets_SowEvents_accept : ∃ o b c k e, let s := wSow 0 0 1 (fun o => { o with phase := .descending })
    sowOk s o b ∧ o.node = .core c ∧ WayFree s o ∧ o.node.chain.contains b.root = true ∧ o.phase = .descending ∧ s.accepter c b = some (k, e) ∧ s.block? k.id = some k ∧ e.spawn = false :=
  ⟨sowOf 70 .descending, bed6 0 0, 0, { placedBlock with offers := [offer6 1] }, offer6 1, ⟨rfl, rfl, rfl, rfl, rfl, by unfold CountsOnce; decide⟩, rfl, way_core, by decide, rfl, rfl, rfl, rfl⟩

theorem meets_SowEvents_descend : ∃ o b, let s := wSow 1 0 0 (fun o => { o with node := .cluster 0 })
    sowOk s o b ∧ (∀ c, o.node ≠ .core c) ∧ (∀ p, o.node ≠ .peer p) ∧ WayFree s o ∧ o.node.chain.contains b.root = true ∧ o.bounced = none ∧ o.phase = .climbing ∧ (∃ j, j.parent = some o.node ∧ copyCount b j ≠ 0) :=
  ⟨{ sowOf 70 .climbing with node := .cluster 0 }, bed6 1 0, ⟨rfl, rfl, rfl, rfl, rfl, by unfold CountsOnce; decide⟩, nofun, nofun, ⟨nofun, fun _ => by decide⟩, by decide, rfl, rfl, .core 0, rfl, by decide⟩

theorem meets_SowEvents_root : ∀ cold ∈ [0, 1], ∃ o b, let s := wSow 0 cold 0 (fun o => { o with node := .cluster 0, cw := if cold = 0 then o.cw else none })
    sowOk s o b ∧ (∀ c, o.node ≠ .core c) ∧ (∀ p, o.node ≠ .peer p) ∧ WayFree s o ∧ NotDraining s o.core ∧ o.node = b.root ∧ o.phase = .climbing ∧ o.bounced = none ∧ (∀ j, j.parent = some o.node → copyCount b j = 0) ∧
    (cold = 0 → b.coldFor o.id ≤ coldHeld s b ∧ o.parked = false ∧ o.returned = false ∧ ∃ off k, o.cw = some off ∧ s.block? o.block = some k ∧ (k.window.map Prod.fst).Pairwise (· < ·)) ∧
    (cold = 1 → coldHeld s b < b.coldFor o.id ∧ o.cw = none) := by
  intro cold h
  have z (j : TreeNode) : copyCount (bed6 0 cold) j = 0 := by
    show ((([(TreeNode.core 0, 0), (TreeNode.core 7, 0)] : List (TreeNode × Nat)).find? (fun e => decide (e.1 = j))).map Prod.snd).getD 0 = 0
    by_cases a : TreeNode.core 0 = j
    · simp [List.find?, a]
    · by_cases b : TreeNode.core 7 = j <;> simp [List.find?, a, b]
  simp only [List.mem_cons, List.mem_nil_iff, or_false] at h
  obtain rfl | rfl := h
  · exact ⟨{ sowOf 70 .climbing with node := .cluster 0 }, bed6 0 0, ⟨rfl, rfl, rfl, rfl, rfl, by unfold CountsOnce; decide⟩, nofun, nofun, ⟨nofun, fun _ => by decide⟩, nofun, rfl, rfl, rfl, fun j _ => z j, fun _ => ⟨by decide, rfl, rfl, 0xBFFF8, placedBlock, rfl, rfl, by decide⟩, nofun⟩
  · exact ⟨{ sowOf 70 .climbing with node := .cluster 0, cw := none }, bed6 0 1, ⟨rfl, rfl, rfl, rfl, rfl, by unfold CountsOnce; decide⟩, nofun, nofun, ⟨nofun, fun _ => by decide⟩, nofun, rfl, rfl, rfl, fun j _ => z j, nofun, fun _ => ⟨by decide, rfl⟩⟩

/-- A report of core 127, of a count of 3, has left its slot at time 0, for bed 6 of die 0. -/
def bedReport : Bed := { bed6 0 0 with root := .die 0, copies := [], reports := [{ node := .core 127, slot := 0, count := 3 }] }

theorem meets_SowEvents_report : ∃ (n p : TreeNode) (o : SowOp) (r : Report), let s := { wSow 0 0 0 id with beds := [bedReport] }
    sowOk s o bedReport ∧ n.parent = some p ∧ s.linkHeld n.onDie p.onDie = false ∧ p ≠ bedReport.root ∧ p ≠ .fabric ∧
    bedReport.reports.find? (fun r => decide (r.node = n ∧ r.slot + 4 * ccTicks ≤ s.now)) = some r ∧ 3 ≠ bedReport.sum p ∧ (∀ q ∈ bedReport.reports, q.node = p → q.slot ≤ s.now) :=
  ⟨.core 127, .cluster 15, sowOf 70 .climbing, _, ⟨rfl, rfl, rfl, rfl, rfl, by unfold CountsOnce; decide⟩, rfl, by decide, by decide, by decide, rfl, by decide, by decide⟩

theorem meets_SowEvents_gone : ∃ o, let s := wSow 0 0 0 (fun o => { o with gone := true })
    s.graftLog = [] ∧ s.sow? o.id = some o ∧ o.gone = true ∧ o.accepted = false ∧ o.phase = .climbing ∧ WayFree s o ∧ NotDraining s o.core :=
  ⟨{ sowOf 70 .climbing with gone := true }, rfl, rfl, rfl, rfl, rfl, way_core, nofun⟩

/-- Region 4, of which block 0 is stored in 64 bytes; it converts when conv is true, and n blocks of it are behind. -/
def region4 (conv : Bool) (n : Nat) : Binding :=
  { region := 4, rawmode := false, blk1k := false, enc := 3, dec := 4, owner := 0, encoded := [(0x40000, 0)], conv := conv, next := n, enc2 := 4, dec2 := 3, blk2 := true, raw2 := false, va := 0, fallbacks := 0, fetchFaults := 0, lastCode := 0, lastPhase := 0 }

/-- A conversion of regions 4 and 5 to the pair (3, 4). -/
def convOp : CopyOp := { w0.newCopy .gconv Layout.empty [4, 5] (.window 0) 0x0403 none [] with id := 77 }

def wBound (conv : Bool) (n : Nat) : State :=
  { w0 with bindings := [region4 conv n], images := [{ handle := 4, owner := 0, words := [0x20078000, 0xB8000000] }], copies := [convOp] }

theorem meets_GraftEvents_run : ∃ line b v start n, (wBound false 0).graftLog = [] ∧ (wBound false 0).blockAt (line * 256) = some (b, v, start) ∧ b.code? start = some n :=
  ⟨0x400, region4 false 0, _, _, 0, rfl, rfl, rfl⟩

theorem sound_bytes {s : State} {a n : Nat} (l : s.slices = []) (d : DramSorted s) (p : s.poison = [])
    (r : RoomAtHome s ((List.range (n / 256)).map (fun k => a / 256 + k))) : SoundBytes s a n :=
  ⟨⟨by rw [l]; exact .nil, by rw [l]; nofun⟩, d, r, by rw [p]; nofun, by rw [l]; nofun⟩

theorem meets_GraftEvents_encode : ∃ line b v start, (wBound false 0).blockAt (line * 256) = some (b, v, start) ∧
    (∀ x, start ≤ x → x < start + v.size → (wBound false 0).blockAt x = some (b, v, start)) ∧ SoundBytes (wBound false 0) start v.size := by
  refine ⟨0x4FF, region4 false 0, { enc := 3, dec := 4, size := 256, raw := false }, 0x4FF00, rfl, fun x a b => ?_,
    sound_bytes rfl (by unfold DramSorted; decide) rfl (by unfold RoomAtHome; decide)⟩
  obtain ⟨k, rfl⟩ : ∃ k, x = 0x4FF00 + k := ⟨x - 0x4FF00, by omega⟩
  exact (by decide : ∀ k < 256, (wBound false 0).blockAt (0x4FF00 + k) = some (region4 false 0, { enc := 3, dec := 4, size := 256, raw := false }, 0x4FF00))
    k (by have b : 0x4FF00 + k < 0x4FF00 + 256 := b; omega)

theorem meets_GraftEvents_budget : ∃ (r : XdRun) (i : Instr), { w0 with xd := some r }.xd = some r ∧ r.ended = none ∧ xdDecode (r.code[r.pc]?.getD 0) = some i :=
  ⟨xrun true 128 [], .xdHalt, rfl, rfl, by decide⟩

theorem meets_GraftEvents_budget_row : ∃ (r : XdRun) (i : Instr) (x : XdRow), { w0 with xd := some r }.xd = some r ∧ r.ended = none ∧ xdDecode (r.code[r.pc]?.getD 0) = some i ∧
    tableR265 i = some x ∧ (if r.encode then 64 else 32) * r.size < r.steps + x.cost r := by
  refine ⟨{ xrun true 127 [] with code := [0x20078000], g := Vector.replicate 16 2 }, .xdPutn 0 15, _, rfl, rfl, by decide, rfl, by decide⟩

theorem meets_GraftEvents_none : w0.xd = none := rfl

theorem meets_GraftEvents_ended : ∃ r : XdRun, { w0 with xd := some r }.xd = some r ∧ r.ended ≠ none := ⟨{ xrun true 128 [] with ended := some .success }, rfl, by decide⟩

/-- The conversion c is the first of the state, under way in the region of the binding b. -/
def converts (s : State) (c : CopyOp) (b : Binding) : Prop :=
  s.copy? c.id = some c ∧ c.kind = .gconv ∧ c.finished = false ∧ (∃ rest, c.origin = (b.region : Int) :: rest) ∧ s.bindings.find? (fun k => (k.region : Int) == (b.region : Int)) = some b

theorem meets_GraftEvents_met : ∃ (c : CopyOp) (b : Binding), converts (wBound false 0) c b ∧
    b.conv = false ∧ b.enc = slice c.desc 5 0 ∧ b.dec = slice c.desc 13 8 ∧ b.blk1k = bit c.desc 16 ∧ b.rawmode = bit c.desc 17 :=
  ⟨convOp, region4 false 0, ⟨rfl, rfl, rfl, ⟨[5], rfl⟩, rfl⟩, rfl, by decide, by decide, by decide, by decide⟩

theorem meets_GraftEvents_start : ∃ (c : CopyOp) (b : Binding), converts { wBound false 0 with copies := [{ convOp with desc := 0x0304 }] } c b ∧
    b.conv = false ∧ ¬ (b.enc = slice c.desc 5 0 ∧ b.dec = slice c.desc 13 8 ∧ b.blk1k = bit c.desc 16 ∧ b.rawmode = bit c.desc 17) :=
  ⟨{ convOp with desc := 0x0304 }, region4 false 0, ⟨rfl, rfl, rfl, ⟨[5], rfl⟩, rfl⟩, rfl, by decide⟩

theorem meets_GraftEvents_last : ∃ (c : CopyOp) (b : Binding), converts (wBound true 64) c b ∧ b.conv = true ∧ 65536 ≤ b.next * (if b.blk2 then 1024 else 256) :=
  ⟨convOp, region4 true 64, ⟨rfl, rfl, rfl, ⟨[5], rfl⟩, rfl⟩, rfl, by decide⟩

/-- The block at the start of region 4, of two bytes, decodes to 256 zeros. -/
theorem decodes4 : (match (wBound true 0).decodeBlock { enc := 3, dec := 4, size := 256, raw := false } 0x40000 0 with
    | .ok _ => true
    | .error _ => false) = true := by decide

/-- The unit that stands at NEXT is the first one, whose encoded block decodes, or the last. -/
theorem meets_GraftEvents_unit : ∀ n ∈ [0, 63], ∃ (c : CopyOp) (b : Binding), let s := wBound true n
    converts s c b ∧ b.conv = true ∧ b.next * (if b.blk2 then 1024 else 256) < 65536 ∧ (b.blk1k = true → b.blk2 = false → b.next % 4 = 0) ∧
    SoundBytes s (b.region * 65536 + b.next * 1024) 1024 ∧ Quiet s ∧
    ∀ p k, b.code? p = some k → ∃ bs, s.decodeBlock { enc := b.enc, dec := b.dec, size := 256, raw := b.rawmode } p k = .ok bs := by
  intro n h
  refine ⟨convOp, region4 true n, ⟨rfl, rfl, rfl, ⟨[5], rfl⟩, rfl⟩, rfl, ?_, nofun, sound_bytes rfl ?_ rfl ?_, ?_, fun p k e => ?_⟩
  · revert n; decide
  · show DramSorted w0
    unfold DramSorted; decide
  · revert n; unfold RoomAtHome; decide
  · show Quiet w0
    unfold Quiet; decide
  · have e' : (0x40000 : Nat) = p ∧ 0 = k := by
      simpa [Binding.code?, region4, List.find?_singleton] using e
    obtain ⟨rfl, rfl⟩ := e'
    have d := decodes4
    split at d
    · exact ⟨_, by assumption⟩
    · exact absurd d (by decide)

theorem meets_GraftEvents_marked : ∃ (c : CopyOp) (b : Binding) (l : SliceLine),
    let s := { wBound true 0 with slices := [{ SliceLine.init 0x403 with valid := 8, marks := 8 }] }
    converts s c b ∧ l ∈ s.slices ∧ 0x400 ≤ l.line ∧ l.line < 0x404 ∧ l.valid &&& (l.marks ||| l.poison) ≠ 0 ∧ b.conv = true ∧ SlicesOnce s ∧ DramSorted s ∧
    RoomAtHome s [0x400, 0x401, 0x402, 0x403] ∧ c.status ≠ 4 :=
  ⟨convOp, region4 true 0, _, ⟨rfl, rfl, rfl, ⟨[5], rfl⟩, rfl⟩, List.mem_singleton.mpr rfl, by decide, by decide, by decide, rfl, by unfold SlicesOnce; decide,
    by unfold DramSorted; decide, by unfold RoomAtHome; decide, by decide⟩

theorem meets_GraftEvents_end : ∀ p ∈ [Phase.running, .evicted], ∃ (c : CopyOp) (k : Block) (off : Nat),
    let s := { w0.mapBlk (fun b => { b with phase := p }) with copies := [{ convOp with origin := [], cw := some 0xBFFF8 }] }
    s.copy? c.id = some c ∧ c.kind = .gconv ∧ c.finished = false ∧ c.origin = [] ∧ NotDraining s c.core ∧ s.block? c.block = some k ∧ c.cw = some off ∧ k.phase = p ∧
    (k.window.map Prod.fst).Pairwise (· < ·) :=
  fun p _ => ⟨{ convOp with origin := [], cw := some 0xBFFF8 }, { placedBlock with phase := p }, 0xBFFF8, rfl, rfl, rfl, rfl, nofun, rfl, rfl, rfl, .nil⟩

/-- A host's message of 128 bytes for queue 2047 of device 0, and the queue with n messages. -/
def wQueue (n : Nat) (bytes : List Byte) : State :=
  { w0 with queues := [{ num := 2047, vd := 0, vnum := 2047, priv := 1, cmd := [], msgs := List.replicate n { bytes := bytes, at_ := 0, priv := 1 } }] }

theorem meets_SchedulerEvents_message : ∃ (o : HostOp) (v : VDev) (q : WorkQueue), let s := wQueue 255 []
    s.graftLog = [] ∧ s.control.ready = true ∧ s.control.stopped = false ∧ s.openDies ≠ [] ∧ s.hostOps = [] ∧ (∀ k, o.conn = some k → k < 65536) ∧ o.opcode = 0 ∧ s.vd? o.vd = some v ∧ v.enabled = true ∧ o.secure = o.vd ∧ o.length = 128 ∧
    o.payload.length = 128 ∧ o.offset = 0 ∧ s.queues.find? (fun q => q.vd == o.vd && q.vnum == o.index) = some q ∧ q.msgs.length < 256 ∧ (∀ p ∈ s.queues, p.num = q.num → p = q) :=
  ⟨{ tag := 0, conn := some 65535, secure := 0, peer := none, opcode := 0, vd := 0, index := 2047, length := 128, offset := 0, payload := List.replicate 128 0, ownerChannel := true }, _, _, rfl, rfl, rfl, by decide, rfl,
    fun k e => by cases e; decide, rfl, rfl, rfl, rfl, rfl, by decide, rfl, rfl, by decide, by decide⟩

/-- A node of die 3. -/
def node3 (f : Node → Node) : Node := f { die := 3, idx := 16383, vd := 0, header := 0, pred := 2, thresh := 0, flush := 0, nsucc := 0, rearm := false, succ := [], args := [], priv := 1, counter := 2, recs := [], insts := 0, waiting := [], running := 0, failed := false, done := false, cause := 0, place := 0, nfault := 0, relaunches := 0 }

/-- A message that steps node 16383 of die 3. -/
def stepBytes : List Byte := natBytes 8 0 ++ [1, 7] ++ natBytes 2 0xFFFF ++ natBytes 116 0

theorem meets_SchedulerEvents_step : ∃ (q : WorkQueue) (m : Message) (n : Node), let s := { wQueue 2 stepBytes with nodes := [node3 id] }
    s.nextWork (q.num / 512) = some (.message q m) ∧ s.tableRoom (q.num / 512) = true ∧ messageBad m = false ∧ recField m.bytes 8 1 = 1 ∧
    s.node? (recField m.bytes 10 2 / 2 ^ 14) (recField m.bytes 10 2 % 2 ^ 14) = some n ∧ n.vd = q.vd ∧ 2 ≤ n.counter :=
  ⟨{ num := 2047, vd := 0, vnum := 2047, priv := 1, cmd := [], msgs := List.replicate 2 { bytes := stepBytes, at_ := 0, priv := 1 } }, { bytes := stepBytes, at_ := 0, priv := 1 }, node3 id,
    by decide, by decide, by decide, by decide, by decide, by decide, by decide⟩

/-- A launch header: one strand of kind General with 64 vector registers, e blocks, one tile, device 0. -/
def hdrBytes (e : Nat) : List Byte :=
  natBytes 8 0x10000 ++ natBytes 8 0 ++ [6, 3, 6, 6, 6, 6] ++ natBytes 2 0 ++ natBytes 4 1 ++ natBytes 4 e ++ natBytes 4 1 ++ natBytes 4 1 ++ natBytes 4 1 ++ natBytes 4 1 ++ [0, 1, 64, 0] ++
    natBytes 12 0 ++ natBytes 4 0 ++ [1, 0, 0, 0] ++ natBytes 56 0

/-- A message that launches the header at 0x30000. -/
def launchBytes : List Byte := natBytes 8 0x30000 ++ natBytes 120 0

def wHeader : State := { wQueue 1 launchBytes with dram := Memory.write w0.dram 0x30000 (hdrBytes 1) }

theorem load_header : (match ((wHeader.mapQueue 2047 (fun q => { q with msgs := q.msgs.tail })).loadHeader 0 1 0x30000 [0, 0, 0, 0, 0]).1 with
    | .ok p => decide (p = { header := hdrBytes 1, trays := [], chans := [], ext := [1, 1, 1, 1, 1, 1] })
    | .error _ => false) = true := by decide

theorem meets_SchedulerEvents_launch : ∃ (q : WorkQueue) (m : Message) (p : Plan) (s1 : State), wHeader.nextWork (q.num / 512) = some (.message q m) ∧ wHeader.tableRoom (q.num / 512) = true ∧
    messageBad m = false ∧ recField m.bytes 8 1 = 0 ∧ 0 < (p.ext.drop 2).foldl (· * ·) 1 ∧
    (wHeader.mapQueue q.num (fun q => { q with msgs := q.msgs.tail })).loadHeader q.vd q.priv (recField m.bytes 0 8) ((List.range 5).map (fun k => recField m.bytes (80 + 4 * k) 4)) = (.ok p, s1) := by
  refine ⟨{ num := 2047, vd := 0, vnum := 2047, priv := 1, cmd := [], msgs := [{ bytes := launchBytes, at_ := 0, priv := 1 }] }, { bytes := launchBytes, at_ := 0, priv := 1 },
    { header := hdrBytes 1, trays := [], chans := [], ext := [1, 1, 1, 1, 1, 1] },
    ((wHeader.mapQueue 2047 (fun q => { q with msgs := q.msgs.tail })).loadHeader 0 1 0x30000 [0, 0, 0, 0, 0]).2, by decide, by decide, by decide, by decide, by decide, Prod.ext ?_ rfl⟩
  have h := load_header
  have a : recField launchBytes 0 8 = 0x30000 := by decide
  have b : (List.range 5).map (fun k => recField launchBytes (80 + 4 * k) 4) = [0, 0, 0, 0, 0] := by decide
  dsimp only
  rw [a, b]
  split at h
  · rename_i p e; rw [e, of_decide_eq_true h]
  · exact absurd h (by decide)

/-- Task 5 waits on die 0; a launch of e blocks with one tile each; the block in the focus holds its core and belongs to task 4, of priority 0. -/
def task (id pr : Nat) (placed : Bool) : Task :=
  { id := id, launch := 0, die := 0, isRelaunch := false, relaunch := 0, wid := [0, 0, 0, 0], readyAt := 1000, priority := pr, age := 0, inst := 0, recs := 0, nrec := 0, ofRecords := false, cls := none, placed := placed, blocksLeft := 1, failed := none, place := 0, nfault := 0 }

def wPool (e : Nat) (v : VDev) (bs : List Block) : State :=
  { w0.mapBlk (fun b => { b with group := 4 }) with
    vds := [v], blocks := bs, tasks := [task 4 0 true, task 5 7 false], nextId := 9
    launches := [{ idx := 0, die := 0, vd := 0, header := hdrBytes e, trays := [], chans := [], args := [], recs := [], recBlock := 0, ext := [1, e, 1, 1, 1, 1], tag := 0, queue := none, node := none, inst := 0, priv := 1, priority := 7, debug := false, total := 1, next := 1, left := 1, readyAt := 1000, failed := false, cause := 0, place := 0, nfault := 0, relaunches := 0 }] }

/-- A launch of die 0. -/
def aLaunch : Launch :=
  { idx := 0, die := 0, vd := 0, header := [], trays := [], chans := [], args := [], recs := [], recBlock := 0, ext := [1, 1, 1, 1, 1, 1], tag := 0, queue := none, node := none, inst := 0, priv := 1, priority := 7, debug := false, total := 1, next := 1, left := 1, readyAt := 1000, failed := false, cause := 0, place := 0, nfault := 0, relaunches := 0 }

/-- The group is in class 2, of which core 1 of cluster 0 offers one admission, as far as the counts go that core 1's parent has when n is 1. -/
def wReady (n : Nat) : State :=
  let s := wPool 1 placedVd []
  { s with
    tasks := [task 4 0 true, { task 5 7 false with cls := some 2 }]
    classes := (s.launches.map (fun l => { die := 0, num := 2, need := l.need, ext := 1, prot := false, offers := [(.core 1, 1)], copies := [(.cluster 0, 1), (.core 1, n)], reports := [], pointers := [] })) }

theorem meets_SchedulerEvents_place : ∀ n ∈ [0, 1], ∃ (die : Nat) (k : Task) (l : Launch) (num : Nat) (v : VDev), let s := wReady n
    s.graftLog = [] ∧ s.control.stopped = false ∧ ((s.readyClasses die).waitingTasks die).find? (s.readyClasses die).placeable = some k ∧ (s.readyClasses die).evictedBlocks k = [] ∧
    (s.readyClasses die).launch? k.die k.launch = some l ∧ k.cls = some num ∧ (s.readyClasses die).vd? l.vd = some v ∧
    (n = 1 → ∃ site s1, (s.readyClasses die).sowGroup l v num 16 = (some site, s1) ∧ site.2.2 ≠ []) ∧
    (n = 0 → ∃ s1, (s.readyClasses die).sowGroup l v num 16 = (none, s1)) := by
  intro n h
  simp only [List.mem_cons, List.mem_nil_iff, or_false] at h
  obtain rfl | rfl := h
  · exact ⟨0, { task 5 7 false with cls := some 2 }, _, 2, placedVd, rfl, rfl, by decide, by decide, rfl, rfl, rfl, nofun, fun _ => ⟨_, Prod.ext (by decide) rfl⟩⟩
  · exact ⟨0, { task 5 7 false with cls := some 2 }, _, 2, placedVd, rfl, rfl, by decide, by decide, rfl, rfl, rfl,
      fun _ => ⟨(1, 0, [1]), _, Prod.ext (by decide) rfl, by decide⟩, nofun⟩

/-- Node 16383 of die 3 has an instance that waits. -/
def nodeWaits : Node := node3 (fun n => { n with insts := 1, running := 1, waiting := [(0, 5, [])] })

theorem meets_SchedulerEvents_instance : ∃ (die : Nat) (n : Node) (i since : Nat) (rs : List (List Byte)) (rest : List (Nat × Nat × List (List Byte))), let s := { w0 with nodes := [nodeWaits] }
    s.nextWork die = some (.inst n) ∧ s.tableRoom die = true ∧ s.node? n.die n.idx = some n ∧ n.waiting = (i, since, rs) :: rest :=
  ⟨3, nodeWaits, _, _, _, _, by decide, by decide, rfl, rfl⟩

theorem meets_SchedulerEvents_restore : ∃ (die : Nat) (k : Task), let s := { wReady 1 with blocks := [{ placedBlock with id := 7, core := 8, group := 5, phase := .evicted }] }
    s.control.stopped = false ∧ ((s.readyClasses die).waitingTasks die).find? (s.readyClasses die).placeable = some k ∧ (s.readyClasses die).evictedBlocks k ≠ [] :=
  ⟨0, { task 5 7 false with cls := some 2 }, rfl, by decide, by decide⟩

theorem meets_SchedulerEvents_flush : ∃ (n : Node) (r : List Byte × Nat × Nat) (rest : List (List Byte × Nat × Nat)),
    let s := { w0 with now := 8000, nodes := [node3 (fun n => { n with thresh := 2, flush := 1, recs := [([1], 0, 2), ([2], 5, 2), ([3], 6, 2)], waiting := [(0, 0, [])] })] }
    s.graftLog = [] ∧ s.node? n.die n.idx = some n ∧ n.recs = r :: rest ∧ n.flush ≠ 0 ∧ n.thresh ≠ 0 ∧ r.2.1 + n.flush * 1000 * nsTicks ≤ s.now ∧ n.waiting ≠ [] :=
  ⟨node3 (fun n => { n with thresh := 2, flush := 1, recs := [([1], 0, 2), ([2], 5, 2), ([3], 6, 2)], waiting := [(0, 0, [])] }), _, _, rfl, rfl, rfl, by decide, by decide, by decide, by decide⟩

/-- Node 16383 of die 3 has ended, as f makes it; its successors are given, and so is node 1 of die 0. -/
def wEnd (succ : List (BitVec 16)) (f g : Node → Node) : State :=
  { w0 with nodes := [node3 (fun n => f { n with counter := 0, succ := succ }), node3 (fun n => g { n with die := 0, idx := 1 }), node3 (fun n => { n with die := 0, idx := 2 })] }

def endNode (succ : List (BitVec 16)) : Node := node3 (fun n => { n with counter := 0, succ := succ })

/-- The node n of the state has nothing left to run. -/
def endsNow (s : State) (n : Node) (v : VDev) : Prop :=
  s.node? n.die n.idx = some n ∧ n.counter = 0 ∧ n.recs = [] ∧ n.running = 0 ∧ n.done = false ∧ s.vd? n.vd = some v

theorem meets_SchedulerEvents_node : ∀ r ∈ [false, true], ∃ (n : Node) (v : VDev), endsNow (wEnd [] (fun n => { n with rearm := r }) id) n v ∧ n.succ = [] ∧ n.rearm = r ∧ n.failed = false :=
  fun r _ => ⟨{ endNode [] with rearm := r }, placedVd, ⟨rfl, rfl, rfl, rfl, rfl, rfl⟩, rfl, rfl, rfl⟩

theorem meets_SchedulerEvents_node_failed : ∃ (n : Node) (v : VDev), endsNow (wEnd [1] (fun n => { n with failed := true, rearm := true }) id) n v ∧ n.failed = true :=
  ⟨{ endNode [1] with failed := true, rearm := true }, placedVd, ⟨rfl, rfl, rfl, rfl, rfl, rfl⟩, rfl⟩

theorem meets_SchedulerEvents_node_succ : ∃ (n : Node) (v : VDev), let s := wEnd [1, 2, 1] id (fun n => { n with counter := 3 })
    endsNow s n v ∧ n.failed = false ∧ n.succ ≠ [] ∧ ∀ w ∈ n.succ, ∃ m, s.node? (slice w 15 14) (slice w 13 0) = some m ∧ m.vd = n.vd ∧ ¬ (m.die = n.die ∧ m.idx = n.idx) ∧
      (n.succ.filter (fun x => x == w)).length < m.counter := by
  refine ⟨endNode [1, 2, 1], placedVd, ⟨rfl, rfl, rfl, rfl, rfl, rfl⟩, rfl, nofun, fun w h => ?_⟩
  have h : w = 1 ∨ w = 2 := by
    have h : w ∈ ([1, 2, 1] : List (BitVec 16)) := h
    simp only [List.mem_cons, List.mem_nil_iff, or_false] at h
    tauto
  obtain rfl | rfl := h
  · exact ⟨_, rfl, rfl, by decide, by decide⟩
  · exact ⟨_, rfl, rfl, by decide, by decide⟩

theorem meets_SchedulerEvents_node_fires : ∃ (n : Node) (v : VDev) (w : BitVec 16) (m : Node), let s := wEnd [1] id (fun n => { n with counter := 1, thresh := 2 })
    endsNow s n v ∧ n.failed = false ∧ n.succ = [w] ∧ s.node? (slice w 15 14) (slice w 13 0) = some m ∧ m.vd = n.vd ∧ ¬ (m.die = n.die ∧ m.idx = n.idx) ∧ m.counter = 1 ∧ m.recs = [] ∧
    m.thresh ≠ 0 ∧ m.running = 0 ∧ m.done = false :=
  ⟨endNode [1], placedVd, 1, _, ⟨rfl, rfl, rfl, rfl, rfl, rfl⟩, rfl, rfl, rfl, rfl, by decide, rfl, rfl, by decide, rfl, rfl⟩

theorem meets_SchedulerEvents_node_launches : ∃ (n : Node) (v : VDev) (w : BitVec 16) (m : Node),
    let s := { wEnd [1] id (fun n => { n with counter := 1 }) with launches := List.replicate 4096 aLaunch }
    endsNow s n v ∧ n.succ = [w] ∧ s.node? (slice w 15 14) (slice w 13 0) = some m ∧ m.vd = n.vd ∧ m.counter = 1 ∧ m.recs = [] ∧ m.thresh = 0 ∧ s.tableRoom m.die = false :=
  ⟨endNode [1], placedVd, 1, _, ⟨rfl, rfl, rfl, rfl, rfl, rfl⟩, rfl, rfl, rfl, rfl, rfl, rfl, by
    show decide (((List.replicate 4096 aLaunch).filter (fun l => l.die == 0)).length < 4096) = false
    rw [List.filter_replicate_of_pos (by decide), List.length_replicate]; decide⟩

/-- Device 0 as f makes it. -/
def wDev (f : VDev → VDev) : State := { w0 with vds := [f placedVd] }

theorem meets_SchedulerEvents_notify : ∃ v w : VDev, (wDev (fun v => { v with sinceN := 3, sinceAt := some 0 })).vd? v.num = some v ∧ v.notifyNow 1000 = true ∧ v.mailOut = [] ∧
    (wDev id).vd? w.num = some w ∧ w.notifyNow 1000 = false ∧ w.mailHeld = false := ⟨{ placedVd with sinceN := 3, sinceAt := some 0 }, placedVd, rfl, by decide, rfl, rfl, by decide, rfl⟩

def record7 : Completion := { die := 0, time := 0, tag := 7, node := 0, queue := 0, inst := 0, status := 0, cause := 0, place := 0, nfault := 0, relaunch := 0 }

theorem meets_SchedulerEvents_record : ∃ (v : VDev) (c : Completion) (rest : List Completion) (ctl slot : Nat), let s := wDev (fun v => { v with ringBase := 0x50000, ringCount := 4, ringHead := 3, held := [record7] })
    s.vd? v.num = some v ∧ v.held = c :: rest ∧ RoomAt s v.num v.ringBase.toNat v.ringCount v.ringHead ctl slot :=
  ⟨{ placedVd with ringBase := 0x50000, ringCount := 4, ringHead := 3, held := [record7] }, record7, [], 0x50000, 0x500A0, rfl, rfl, by decide, by decide, by decide, by decide, by decide, by decide,
    by decide, by decide, by decide, by decide, by unfold Unbound; decide, by unfold Unbound; decide, by unfold SlicesOnce; decide, by unfold DramSorted; decide, by decide, by unfold RoomAtHome; decide⟩

theorem meets_SchedulerEvents_aging : (wPool 8 placedVd []).waitingTasks 0 ≠ [] ∧ (w0.waitingTasks 3 = [] ∧ w0.nextWork 3 = none ∧ w0.classes = []) :=
  ⟨by decide, by decide, by decide, rfl⟩

/-- Devices 0 and 1 share cluster 0, whose slice is device 0's. -/
def wShared (b other : Bool) : State :=
  let v : VDev := { placedVd with shared := 1, width := 1, height := 1 }
  { wPool 1 v [] with
    vds := [v, { v with num := 1 }]
    clusters := [{ id := 0, state := .online, spare := none, withdrawn := false, context := some 0, incoming := none, sliceAt := 0, drainedAt := 0, debts := [] }]
    blk := { (wPool 1 v []).blk with phase := if b then .running else .evicted }
    launches := if other then (wPool 1 v []).launches.map (fun l => { l with vd := 1 }) else [] }

theorem meets_SchedulerEvents_slice : ∃ (cl : Nat) (o : VDev), ((wShared false false).clusterOf cl).context = some o.num ∧ ((wShared false false).clusterOf cl).incoming = none ∧ (wShared false false).vd? o.num = some o ∧
    (wShared false false).vds.find? (fun v => v.num != o.num && v.enabled && (wShared false false).wants cl v) = none ∧ (wShared false false).residentOn cl = [] :=
  ⟨0, { placedVd with shared := 1, width := 1, height := 1 }, rfl, rfl, rfl, by decide, by decide⟩

theorem meets_SchedulerEvents_slice_alone : ∃ (cl : Nat) (o : VDev), ((wShared true false).clusterOf cl).context = some o.num ∧ ((wShared true false).clusterOf cl).incoming = none ∧
    (wShared true false).vd? o.num = some o ∧
    (wShared true false).vds.find? (fun v => v.num != o.num && v.enabled && (wShared true false).wants cl v) = none ∧ (wShared true false).residentOn cl ≠ [] :=
  ⟨0, { placedVd with shared := 1, width := 1, height := 1 }, rfl, rfl, rfl, by decide, by decide⟩

theorem meets_SchedulerEvents_shared : ∃ (cl : Nat) (o v : VDev), ((wShared true true).clusterOf cl).context = some o.num ∧ ((wShared true true).clusterOf cl).incoming = none ∧ (wShared true true).vd? o.num = some o ∧
    (wShared true true).vds.find? (fun v => v.num != o.num && v.enabled && (wShared true true).wants cl v) = some v ∧ (wShared true true).residentOn cl ≠ [] :=
  ⟨0, { placedVd with shared := 1, width := 1, height := 1 }, { placedVd with shared := 1, width := 1, height := 1, num := 1 }, rfl, rfl, rfl, by decide, by decide⟩

theorem meets_SchedulerEvents_preempt : ∃ (die : Nat) (vs : List (Task × Block)), let s := wPool 8 { placedVd with width := 1, height := 1 } []
    (∀ b ∈ s.allBlocks, b.die = die → b.phase ≠ .stopping ∧ b.phase ≠ .draining ∧ b.phase ≠ .saving) ∧
    ((s.waitingTasks die).filter (fun t => !s.placeable t)).findSome? (fun t => (s.displaced t).filter (fun vs => decide (vs ≠ []))) = some vs :=
  ⟨0, [(task 4 0 true, { placedBlock with group := 4 })], by decide, by decide⟩

/-- A unit that samples every 2^20 ac into a ring at 0x50000 whose next slot is the last. -/
def unit20 : Measure := { Measure.init with sen := true, k := 20, sample := { Ring.init with base := 0x50000, size := 4, head := 3 } }

def wSample (f : Measure → Measure) (on : Bool) : State :=
  { w0.mapBlk (fun b => { b with sampleOn := true }) with
    vds := [{ placedVd with measure := f unit20 }], me := { w0.me with run := if on then .running else .exited } }

theorem meets_MeasureEvents_idle : ∃ core k, (wSample id false).graftLog = [] ∧ (∀ t ∈ (wSample id false).allStrands, (wSample id false).sampleable core t = false) ∧
    (wSample id false).samplePeriod core = some k := ⟨0, 20, rfl, by decide, by decide⟩

theorem meets_MeasureEvents_off : ∃ core, (∀ t ∈ w0.allStrands, w0.sampleable core t = false) ∧ w0.samplePeriod core = none := ⟨0, by decide, by decide⟩

theorem meets_MeasureEvents_sample : ∃ (core : Nat) (t : Strand) (b : Block) (v : VDev) (ctl slot : Nat), let s := wSample id true
    nextSlot (s.coreOf core).lastSampled (s.allStrands.filter (s.sampleable core)) = some t ∧ s.block? t.block = some b ∧ s.vd? b.vd = some v ∧ (s.coreOf core).id = core ∧ t.reason < 16 ∧
    RoomAt s v.num v.measure.sample.base.toNat v.measure.sample.size v.measure.sample.head ctl slot :=
  ⟨0, w0.me, { placedBlock with sampleOn := true }, { placedVd with measure := unit20 }, 0x50000, 0x500A0, rfl, rfl, rfl, rfl, by decide, by decide, by decide, by decide, by decide, by decide, by decide, by decide, by decide, by decide, by decide, by unfold Unbound; decide,
    by unfold Unbound; decide, by unfold SlicesOnce; decide, by unfold DramSorted; decide, by decide, by unfold RoomAtHome; decide⟩

/-- The device's events go to a ring of the given size and base, with the given head. -/
def unitEv (base : W64) (size head : Nat) : Measure := { unit20 with een := true, snapReq := true, event := { Ring.init with base := base, size := size, head := head } }

def wEvents (base : W64) (size head : Nat) : State := wSample (fun _ => unitEv base size head) true

theorem meets_MeasureEvents_off_ring : ∃ v : VDev, (wEvents 0x50000 0 0).vd? v.num = some v ∧ v.measure.snapReq = true ∧ v.measure.event.size = 0 := ⟨{ placedVd with measure := unitEv 0x50000 0 0 }, rfl, rfl, rfl⟩

theorem meets_MeasureEvents_lost : ∃ v : VDev, (wEvents 0xFF50000000000 32 0).vd? v.num = some v ∧ v.measure.snapReq = true ∧ v.measure.een = true ∧ 0 < v.measure.event.size ∧
    (wEvents 0xFF50000000000 32 0).ringUsed v.num v.measure.event = none := ⟨{ placedVd with measure := unitEv 0xFF50000000000 32 0 }, rfl, rfl, rfl, by decide, by decide⟩

theorem meets_MeasureEvents_snapshot : ∃ (v : VDev) (used : Nat), (wEvents 0x50000 32 16).vd? v.num = some v ∧ v.measure.snapReq = true ∧ v.measure.een = true ∧
    (wEvents 0x50000 32 16).ringUsed v.num v.measure.event = some used ∧ used + 16 ≤ v.measure.event.size := ⟨{ placedVd with measure := unitEv 0x50000 32 16 }, 16, rfl, rfl, rfl, by decide, by decide⟩

theorem meets_MeasureEvents_full : ∃ (v : VDev) (used : Nat), (wEvents 0x3FFFFFF0 32 17).vd? v.num = some v ∧ v.measure.snapReq = true ∧ v.measure.een = true ∧ 0 < v.measure.event.size ∧
    (wEvents 0x3FFFFFF0 32 17).ringUsed v.num v.measure.event = some used ∧ v.measure.event.size < used + 16 ∧
    (wEvents 0x3FFFFFF0 32 17).deviceAddr v.num .write (v.measure.event.base.toNat + 16) = none :=
  ⟨{ placedVd with measure := unitEv 0x3FFFFFF0 32 17 }, 17, rfl, rfl, rfl, by decide, by decide, by decide, by decide⟩

theorem meets_MeasureEvents_periodic : ∃ (v : VDev) (x : Nat), (wSample (fun m => { m with snapj := 1, snapAt := some 1000 }) true).vd? v.num = some v ∧ v.measure.snapReq = false ∧
    v.measure.snapAt = some x ∧ x ≤ (wSample (fun m => { m with snapj := 1, snapAt := some 1000 }) true).now := ⟨{ placedVd with measure := { unit20 with snapj := 1, snapAt := some 1000 } }, 1000, rfl, rfl, rfl, by decide⟩

theorem meets_MeasureEvents_none : ∃ v : VDev, (wSample id true).vd? v.num = some v ∧ v.measure.snapReq = false ∧ v.measure.snapAt = none := ⟨{ placedVd with measure := unit20 }, rfl, rfl, rfl⟩

/-! ## What the statements assume can be met: hosts, management, the fabric, the step -/

/-- A window of device 0, of n bytes at 0x10000, its last byte the last of a sector. -/
def window9 (n : W64) (w : Bool) : Window := { num := 9, base := 0x10000, size := n, r := true, w := w, any := true, peer := (0, 0), cmd := [] }

def page0 (d : TreeNode) : TlbEntry := { place := d, fabric := true, vd := 0, hyper := false, va := 0x10000, size := 4096, pa := 0x40000, r := true, w := true, x := true, u := true, raw := false, discard := false, used := 0, bad := false }

/-- The device has that window, whose page the dies' caches hold. -/
def wWindow (n : W64) (w : Bool) : State :=
  { wDev (fun v => { v with windows := [window9 n w] }) with tlb := (List.range 4).map (fun d => page0 (.die d)) }

/-- A host's operation with op c on window k. -/
def op64 (c k off n : Nat) (bytes : List Byte) : HostOp :=
  { tag := 0, conn := none, secure := 0, peer := none, opcode := c, vd := 0, index := k, length := n, offset := off, payload := bytes, ownerChannel := false }

/-- The device with that window. -/
def vd9 : VDev := { placedVd with windows := [window9 0x1000 true] }

/-- An operation of one sector on the window's last sector meets what the two completing clauses assume: with its bytes a write, without any a read. -/
theorem meets_WindowEvents : ∀ bytes ∈ [List.replicate 64 7, []], ∃ (o : HostOp) (v : VDev) (w : Window) (e : TlbEntry), let s := wWindow 0x1000 true
    let va := w.base.toNat + o.offset
    let pa := e.addr va
    s.graftLog = [] ∧ s.control.ready = true ∧ s.control.stopped = false ∧ s.openDies ≠ [] ∧ s.hostOps = [] ∧ s.vd? o.vd = some v ∧ v.enabled = true ∧ o.peer = none ∧ o.secure = o.vd ∧ o.length < 2 ^ 32 ∧
    v.windows.find? (fun w => w.num == o.index) = some w ∧ w.any = true ∧ 0 < o.length ∧ o.offset + o.length ≤ w.size.toNat ∧ va % 64 + o.length ≤ 64 ∧ va < 2 ^ 56 ∧
    (∀ d < 4, s.tlbHit [.die d] true o.vd false va = some { e with place := .die d }) ∧ pa % 64 = va % 64 ∧ pa < nearBase ∧ Unbound s pa ∧ SlicesOnce s ∧ DramSorted s ∧ s.backed pa = true ∧ (∀ k ∈ s.tlb, k.bad = false) ∧ RoomAtHome s [pa / 256] ∧ (∀ d < 4, s.readsHeld d [pa] = false) ∧ (∀ k, o.conn = some k → k < 65536) ∧
    o.payload = bytes ∧ (bytes = [] ∧ o.opcode = 2 ∨ o.payload.length = o.length ∧ o.opcode = 1) ∧ w.w = true ∧ w.r = true ∧ s.permits 1 .write e va = true ∧ s.permits 1 .read e va = true ∧ e.raw = false ∧
    s.homePoison pa = false ∧ s.homeMark pa = false ∧ pa / 64 ∉ s.poison ∧ (s.sliceLine (pa / 256)).use = 0 := by
  intro bytes h
  refine ⟨op64 (if bytes = [] then 2 else 1) 9 0xFC0 64 bytes, vd9, window9 0x1000 true, page0 (.die 0), rfl, rfl, rfl, (by decide : w0.openDies ≠ []), rfl, rfl, rfl, rfl, rfl, (by decide : 64 < 2 ^ 32), rfl, rfl, (by decide : 0 < 64),
    (by decide : 0xFC0 + 64 ≤ 0x1000), (by decide : (0x10000 + 0xFC0) % 64 + 64 ≤ 64), (by decide : 0x10000 + 0xFC0 < 2 ^ 56), ?_, ?_, ?_, fun _ m => (List.not_mem_nil m).elim, by unfold SlicesOnce; decide,
    by unfold DramSorted; decide, ?_, by decide, ?_, ?_, nofun, rfl, ?_, rfl, rfl, ?_, ?_, rfl, ?_, ?_, ?_, ?_⟩
  · show ∀ d < 4, (wWindow 0x1000 true).tlbHit [.die d] true 0 false 0x10FC0 = some { page0 (.die 0) with place := .die d }
    decide
  · show (page0 (.die 0)).addr 0x10FC0 % 64 = 0x10FC0 % 64
    decide
  · show (page0 (.die 0)).addr 0x10FC0 < nearBase
    decide
  · show (wWindow 0x1000 true).backed ((page0 (.die 0)).addr 0x10FC0) = true
    decide
  · show RoomAtHome (wWindow 0x1000 true) [(page0 (.die 0)).addr 0x10FC0 / 256]
    unfold RoomAtHome; decide
  · show ∀ d < 4, (wWindow 0x1000 true).readsHeld d [(page0 (.die 0)).addr 0x10FC0] = false
    decide
  · revert bytes; decide
  · show (wWindow 0x1000 true).permits 1 .write (page0 (.die 0)) 0x10FC0 = true
    decide
  · show (wWindow 0x1000 true).permits 1 .read (page0 (.die 0)) 0x10FC0 = true
    decide
  · show (wWindow 0x1000 true).homePoison ((page0 (.die 0)).addr 0x10FC0) = false
    decide
  · show (wWindow 0x1000 true).homeMark ((page0 (.die 0)).addr 0x10FC0) = false
    decide
  · show (page0 (.die 0)).addr 0x10FC0 / 64 ∉ (wWindow 0x1000 true).poison
    decide
  · show ((wWindow 0x1000 true).sliceLine ((page0 (.die 0)).addr 0x10FC0 / 256)).use = 0
    decide

theorem meets_WindowEvents_absent : ∃ (o : HostOp) (v : VDev), (wWindow 0x1000 true).vd? o.vd = some v ∧ v.windows.find? (fun w => w.num == o.index) = none ∧ o.payload = [] :=
  ⟨op64 2 8 0 64 [], { placedVd with windows := [window9 0x1000 true] }, rfl, rfl, rfl⟩

theorem meets_WindowEvents_outside : ∃ (o : HostOp) (v : VDev) (w : Window), (wWindow 0x1000 true).vd? o.vd = some v ∧ v.windows.find? (fun w => w.num == o.index) = some w ∧
    w.size.toNat < o.offset + o.length ∧ o.payload.length = o.length :=
  ⟨op64 1 9 0xFC1 64 (List.replicate 64 7), { placedVd with windows := [window9 0x1000 true] }, window9 0x1000 true, rfl, rfl, by decide, by decide⟩

theorem meets_WindowEvents_readonly : ∃ (o : HostOp) (v : VDev) (w : Window), (wWindow 0x1000 false).vd? o.vd = some v ∧ v.windows.find? (fun w => w.num == o.index) = some w ∧ w.w = false ∧
    o.payload.length = o.length := ⟨op64 1 9 0 1 [7], { placedVd with windows := [window9 0x1000 false] }, window9 0x1000 false, rfl, rfl, rfl, by decide⟩

/-- A command from byte 0: its code, its device 0, then bytes 8 on. -/
def command (operator : Bool) (code : Nat) (body : List Byte) : MgmtCmd :=
  { tag := 0, conn := none, operator := operator, sender := 0, opcode := 3, index := 0, length := 64, offset := 0
    bytes := ([BitVec.ofNat 8 code, 0] ++ natBytes 6 0 ++ body ++ List.replicate 64 0).take 64 }

/-- Whether the bytes of a command that its map leaves reserved are 0. -/
theorem reserved_of {c : MgmtCmd} {used : Nat → Bool} (h : ((List.range 64).all (fun k => decide (k < 2) || used k || decide (c.bytes[k]?.getD 0 = 0))) = true) : ReservedZero c used := by
  intro k a b u
  have := List.all_eq_true.mp h k (List.mem_range.mpr b)
  simp only [Bool.or_eq_true, decide_eq_true_eq, u, Bool.false_eq_true, or_false] at this
  exact this.resolve_left (by omega)

/-- That command can be taken by this device, which its owner sends it to. -/
def takes (s : State) (c : MgmtCmd) (code : Nat) (v : VDev) : Prop := CommandFor s c code v ∧ FromOwner c v ∧ v.enabled = true

/-- A command made from byte 0 is one for device 0, of the state s. -/
theorem for_command {s : State} (o : Bool) (code : Nat) (body : List Byte) (v : VDev) (c : Nat)
    (h : decide (s.control.ready = true ∧ s.control.stopped = false ∧ s.openDies ≠ [] ∧ (command o code body).bytes.length = 64 ∧ recField (command o code body).bytes 0 1 = c ∧
      recField (command o code body).bytes 1 1 = v.num ∧ v.num < 64 ∧ (s.hostOps.filter (fun h => h.op.vd == v.num)).length < 4096) = true) (e : s.vd? v.num = some v) : CommandFor s (command o code body) c v := by
  have h := of_decide_eq_true h
  exact ⟨h.1, h.2.1, h.2.2.1, Or.inl rfl, nofun, h.2.2.2.2.2.2.2, rfl, rfl, rfl, rfl, h.2.2.2.1, h.2.2.2.2.1, h.2.2.2.2.2.1, h.2.2.2.2.2.2.1, e⟩

/-- The operator's device is the management device. -/
theorem from_operator {s : State} (code : Nat) (body : List Byte) (v : VDev) (e : s.vd? 0 = some v) (m : v.mgmt = true) : FromOperator s (command true code body) :=
  ⟨rfl, Or.inr ⟨v, e, m⟩⟩

theorem takes_owner (code : Nat) (body : List Byte) (h : decide ((command false code body).bytes.length = 64 ∧ recField (command false code body).bytes 0 1 = code ∧
    recField (command false code body).bytes 1 1 = 0) = true) : takes w0 (command false code body) code placedVd := by
  have h := of_decide_eq_true h
  exact ⟨⟨rfl, rfl, by decide, Or.inl rfl, nofun, by decide, rfl, rfl, rfl, rfl, h.1, h.2.1, h.2.2, by decide, rfl⟩, ⟨rfl, rfl⟩, rfl⟩

theorem meets_ManagementCommands_window : ∃ (c : MgmtCmd) (v : VDev), let f (off n : Nat) : Nat := recField c.bytes off n
    w0.graftLog = [] ∧ takes w0 c 1 v ∧ ReservedZero c (fun k => (8 ≤ k && k < 10) || (16 ≤ k && k < 49)) ∧ f 8 1 ≤ 63 ∧ f 9 1 < 16 ∧ f 16 8 % 65536 = 0 ∧ f 24 8 % 65536 = 0 ∧ f 48 1 ≤ 63 ∧
    (f 9 1 / 8 % 2 = 1 → f 32 16 = 0 ∧ f 48 1 = 0) :=
  ⟨command false 1 ([63, 7] ++ natBytes 6 0 ++ natBytes 8 0xFFFFFFFFFFFF0000 ++ natBytes 8 0x10000 ++ natBytes 16 5 ++ [63]), placedVd, rfl, takes_owner _ _ (by decide), reserved_of (by decide),
    by decide, by decide, by decide, by decide, by decide, by decide⟩

theorem meets_ManagementCommands_ring : ∃ (c : MgmtCmd) (v : VDev) (j : Nat), w0.bindings = [] ∧ takes w0 c 2 v ∧ ReservedZero c (fun k => (8 ≤ k && k < 20)) ∧ j < 17 ∧ recField c.bytes 8 8 % 64 = 0 ∧
    recField c.bytes 16 4 = 2 ^ (j + 4) :=
  ⟨command false 2 (natBytes 8 0x50040 ++ natBytes 4 (2 ^ 20)), placedVd, 16, rfl, takes_owner _ _ (by decide), reserved_of (by decide), by decide, by decide, by decide⟩

theorem meets_ManagementCommands_notify : ∃ (c : MgmtCmd) (v : VDev), takes w0 c 3 v ∧ ReservedZero c (fun k => (8 ≤ k && k < 36)) ∧ 1 ≤ recField c.bytes 32 2 ∧ recField c.bytes 32 2 ≤ 256 :=
  ⟨command false 3 (natBytes 24 77 ++ natBytes 2 256 ++ natBytes 2 0xFFFF), placedVd, takes_owner _ _ (by decide), reserved_of (by decide), by decide, by decide⟩

theorem meets_ManagementCommands_debug : ∃ (c : MgmtCmd) (v : VDev), takes w0 c 4 v ∧ ReservedZero c (fun k => k == 8 || (16 ≤ k && k < 24)) ∧ recField c.bytes 8 1 ≤ 1 ∧
    (FromOwner c v → recField c.bytes 16 8 = 0) := ⟨command false 4 [1], placedVd, takes_owner _ _ (by decide), reserved_of (by decide), by decide, fun _ => by decide⟩

theorem meets_ManagementCommands_attest : ∃ (c : MgmtCmd) (v : VDev), takes w0 c 5 v ∧ ReservedZero c (fun k => (8 ≤ k && k < 40)) :=
  ⟨command false 5 (natBytes 32 (2 ^ 255)), placedVd, takes_owner _ _ (by decide), reserved_of (by decide)⟩

/-- Device 0 is not enabled yet. -/
def wOff : State := wDev (fun v => { v with enabled := false })

theorem meets_ManagementCommands_vdcfg : ∃ (c : MgmtCmd) (v : VDev), CommandFor wOff c 6 v ∧ FromOperator wOff c ∧ v.enabled = false ∧ (Descriptor.of c.bytes).ok c.bytes = true ∧
    wOff.descriptorRefused v.num (Descriptor.of c.bytes) = false :=
  ⟨command true 6 (natBytes 8 0x3000 ++ natBytes 8 0x4000 ++ natBytes 8 0x40000000 ++ natBytes 2 0x6C0 ++ natBytes 2 0 ++ [64, 3]), { placedVd with enabled := false }, for_command _ _ _ _ _ (by decide) rfl, from_operator _ _ _ rfl rfl,
    rfl, by decide, by decide⟩

theorem meets_ManagementCommands_fabbed : ∃ (c : MgmtCmd) (v : VDev), CommandFor w0 c 7 v ∧ FromOperator w0 c ∧ ReservedZero c (fun k => k == 8 || k == 9 || (16 ≤ k && k < 33)) ∧
    recField c.bytes 8 1 ≤ 31 ∧ recField c.bytes 9 1 ≤ 1 ∧ recField c.bytes 32 1 ≤ 63 :=
  ⟨command true 7 ([31, 1] ++ natBytes 6 0 ++ natBytes 16 99 ++ [63]), placedVd, for_command _ _ _ _ _ (by decide) rfl, from_operator _ _ _ rfl rfl, reserved_of (by decide), by decide, by decide, by decide⟩

theorem meets_ManagementCommands_queue : ∀ on ∈ [0, 1], ∃ (c : MgmtCmd) (v : VDev), let s := wQueue 0 []
    CommandFor s c 8 v ∧ FromOperator s c ∧ ReservedZero c (fun k => (8 ≤ k && k < 14)) ∧ recField c.bytes 8 2 ≤ 2047 ∧ recField c.bytes 11 1 ≤ 2 ∧ recField c.bytes 12 2 ≤ 2047 ∧
    recField c.bytes 10 1 = on ∧ v.mgmt = true ∧ (∀ q ∈ s.queues, q.num ≠ recField c.bytes 8 2 → ¬(q.vd = v.num ∧ q.vnum = recField c.bytes 12 2)) := by
  intro on h
  simp only [List.mem_cons, List.mem_nil_iff, or_false] at h
  obtain rfl | rfl := h
  · exact ⟨command true 8 (natBytes 2 2047), placedVd, for_command _ _ _ _ _ (by decide) rfl, from_operator _ _ _ rfl rfl, reserved_of (by decide), by decide, by decide, by decide, by decide, rfl, by decide⟩
  · exact ⟨command true 8 (natBytes 2 5 ++ [1, 2] ++ natBytes 2 2046), placedVd, for_command _ _ _ _ _ (by decide) rfl, from_operator _ _ _ rfl rfl, reserved_of (by decide), by decide, by decide, by decide,
      by decide, rfl, by decide⟩

theorem meets_ManagementCommands_mailbox : ∀ n ∈ [58, 59], ∃ (c : MgmtCmd) (v : VDev), let s := wDev (fun v => { v with mailIn := List.replicate n 1 })
    CommandFor s c 9 v ∧ FromOwner c v ∧ v.enabled = true ∧ 1 ≤ recField c.bytes 8 1 ∧ recField c.bytes 8 1 ≤ 6 ∧ ReservedZero c (fun k => k == 8 || (16 ≤ k && k < 16 + 8 * recField c.bytes 8 1)) ∧
    (n = 58 → v.mailIn.length + recField c.bytes 8 1 ≤ 64) ∧ (n = 59 → 64 < v.mailIn.length + recField c.bytes 8 1) := by
  intro n h
  simp only [List.mem_cons, List.mem_nil_iff, or_false] at h
  obtain rfl | rfl := h
  all_goals exact ⟨command false 9 ([6] ++ natBytes 7 0 ++ natBytes 48 9), { placedVd with mailIn := List.replicate _ 1 }, for_command _ _ _ _ _ (by decide) rfl, ⟨rfl, rfl⟩, rfl,
    by decide, by decide, reserved_of (by decide), by decide, by decide⟩

theorem meets_ManagementCommands_malformed : ∃ c : MgmtCmd, w0.control.ready = true ∧ w0.control.stopped = false ∧ w0.openDies ≠ [] ∧ w0.hostOps = [] ∧ (∀ k, c.conn = some k → k < 65536) ∧ c.bytes.length ≠ 64 :=
  ⟨{ command false 9 [] with bytes := List.replicate 63 0 }, rfl, rfl, by decide, rfl, nofun, by decide⟩

theorem meets_ManagementCommands_dump : ∃ c : MgmtCmd, let s := { w0 with control := { w0.control with stopped := true } }
    s.graftLog = [] ∧ s.control.stopped = true ∧ s.openDies ≠ [] ∧ (∀ k, c.conn = some k → k < 65536) ∧ FromOperator s c :=
  ⟨command true 9 [], rfl, rfl, by decide, nofun, rfl, Or.inr ⟨placedVd, rfl, rfl⟩⟩

theorem meets_ManagementCommands_sender : ∃ (c : MgmtCmd) (v : VDev), CommandFor w0 c 9 v ∧ w0.hostOps = [] ∧ FromOperator w0 c ∧ 1 ≤ recField c.bytes 8 1 ∧ recField c.bytes 8 1 ≤ 6 ∧
    ReservedZero c (fun k => k == 8 || (16 ≤ k && k < 16 + 8 * recField c.bytes 8 1)) :=
  ⟨command true 9 [1], placedVd, for_command _ _ _ _ _ (by decide) rfl, rfl, from_operator _ _ _ rfl rfl, by decide, by decide, reserved_of (by decide)⟩

/-- Device 0 lists peer 31; fabric bed 6 counts the peer's offers and the package's. -/
def wPeers : State :=
  { wDev (fun v => { v with peers := [{ idx := 31, addr := 99, vd := 63, cmd := [], reachable := true }] }) with
    beds := [{ bed6 0 0 with scope := 5, root := .fabric, copies := [(.package, 2), (.peer 31, 5)] }] }

theorem meets_FabricEvents_report : ∃ (p : Nat) (b : Bed) (v : VDev), wPeers.graftLog = [] ∧ wPeers.bed? b.number = some b ∧ b.root = .fabric ∧ b.foreign = none ∧ b.frame = [] ∧ CountsOnce b ∧
    wPeers.vd? b.part = some v ∧ (∃ q ∈ v.peers, q.idx = p ∧ q.reachable = true) :=
  ⟨31, { bed6 0 0 with scope := 5, root := .fabric, copies := [(.package, 2), (.peer 31, 5)] }, { placedVd with peers := [{ idx := 31, addr := 99, vd := 63, cmd := [], reachable := true }] }, rfl, rfl, rfl,
    rfl, rfl, by unfold CountsOnce; decide, rfl, by decide⟩

def vdPeers : VDev := { placedVd with peers := [{ idx := 31, addr := 99, vd := 63, cmd := [], reachable := true }] }

theorem meets_FabricEvents_register : ∃ (r : PeerDevice) (v : VDev) (bed : BitVec 32), wPeers.vd? v.num = some v ∧ v.enabled = true ∧ (∃ p ∈ v.peers, p.addr = r.addr ∧ p.vd = r.vd) ∧
    wPeers.bed? bed = none ∧ wPeers.beds.length < 4096 := ⟨⟨99, 63⟩, vdPeers, 7, rfl, rfl, by decide, rfl, by decide⟩

theorem meets_FabricEvents_refused : ∃ (r : PeerDevice) (v : VDev), wPeers.vd? v.num = some v ∧ v.enabled = true ∧ (∀ p ∈ v.peers, ¬ (p.addr = r.addr ∧ p.vd = r.vd)) :=
  ⟨⟨99, 62⟩, vdPeers, rfl, rfl, by decide⟩

/-- A sow on its way to peer 31, and a pull from it. -/
def wAbroad : State :=
  { wPeers with sows := [{ sowOf 70 (.abroad (some 31)) with node := .peer 31 }], copies := [{ convOp with kind := .cpx true, remote := natBytes 16 99 ++ natBytes 48 0 }] }

theorem meets_FabricEvents_lost : ∃ (addr : BitVec 128) (o : SowOp) (b : Bed) (v : VDev) (c : CopyOp), (∀ c, NotDraining wAbroad c) ∧ o ∈ wAbroad.sows ∧ o.phase = .abroad (some 31) ∧ o.accepted = false ∧
    wAbroad.bed? o.bed = some b ∧ wAbroad.vd? b.part = some v ∧ (∃ q ∈ v.peers, q.idx = 31 ∧ q.addr = addr) ∧ c ∈ wAbroad.copies ∧ c.kind = .cpx true ∧ (RemoteTarget.of c.remote).addr = addr ∧
    c.finished = false ∧ c.status = 0 :=
  ⟨99, _, _, vdPeers, _, nofun, List.mem_singleton.mpr rfl, rfl, rfl, rfl, rfl, by decide, List.mem_singleton.mpr rfl, rfl, by decide, rfl, rfl⟩

theorem meets_FabricEvents_lane : ∃ (p q r : Port), p.inService = true ∧ p.spare = false ∧ q.inService = true ∧ q.spare = true ∧ r.inService = true ∧ r.narrowed = true ∧ (w0.ports[7] = p) ∧
    ({ w0 with ports := w0.ports.set 7 q }.ports[7] = q) ∧ ({ w0 with ports := w0.ports.set 7 r }.ports[7] = r) ∧ w0.hostOps = [] :=
  ⟨{ mac := w0.ports[7].mac, spare := false, narrowed := false, inService := true }, { mac := w0.ports[7].mac, spare := true, narrowed := false, inService := true }, { mac := w0.ports[7].mac, spare := true, narrowed := true, inService := true }, rfl, rfl, rfl, rfl, rfl, rfl,
    by decide, by decide, by decide, rfl⟩

theorem meets_FabricEvents_sow : ∃ (p : PeerSow) (b : Bed) (v : VDev), wPeers.graftLog = [] ∧ wPeers.bed? p.bed = some b ∧ b.foreign = none ∧ b.root = .fabric ∧ wPeers.vd? b.part = some v ∧
    (∃ q ∈ v.peers, q.addr = p.addr ∧ q.reachable = true) ∧ 1 ≤ p.payload.length ∧ p.payload.length ≤ 8 :=
  ⟨{ addr := 99, bed := 6, payload := [1, 2, 3, 4, 5, 6, 7, 8], unord := true }, { bed6 0 0 with scope := 5, root := .fabric, copies := [(.package, 2), (.peer 31, 5)] },
    { placedVd with peers := [{ idx := 31, addr := 99, vd := 63, cmd := [], reachable := true }] }, rfl, rfl, rfl, rfl, rfl, by decide, by decide, by decide⟩

theorem meets_FabricEvents_none : ∃ p : PeerSow, wPeers.bed? p.bed = none := ⟨{ addr := 99, bed := 7, payload := [1], unord := false }, rfl⟩

/-! ## The step -/

/-- The one that can move is the one that is chosen. -/
theorem choose_one {s : State} {m : Move} (h : s.moves = [m]) : s.choose = (m, s) := by unfold State.choose; rw [h]

theorem meets_StepRunsDecoded_strand : ∃ (s : State) (id : Nat) (s1 : State) (i : Instr) (l : FetchLine), s.choose = (.strand id, s1) ∧ (s1.focus id).me.matchIndex = none ∧
    (s1.focus id).me.fetchLine? (s1.focus id).me.pc.toNat = some l ∧ bit (l.marks ||| l.poison) ((s1.focus id).me.pc.toNat / 64 % 4) = false ∧
    decodeBytes (Memory.read l.cells (s1.focus id).me.pc.toNat 4) = .ok (i, []) :=
  ⟨w0, 2, w0, decode 0, _, choose_one (by decide), by decide, rfl, by decide, by decide⟩

theorem meets_StepRunsDecoded_event : ∃ (s : State) (k : Nat) (s1 : State) (d : Due), s.choose = (.event k, s1) ∧ s1.agenda[k]? = some d :=
  ⟨State.reset, 0, State.reset, _, choose_one (by decide), rfl⟩

theorem meets_StepRunsDecoded_run : ∃ (s s1 : State) (r : XdRun) (i : Instr), s.choose = (.run, s1) ∧ s1.xd = some r ∧ xdDecode (r.code[r.pc]?.getD 0) = some i :=
  ⟨{ State.reset with agenda := [], xd := some (xrun true 0 []) }, _, _, .xdHalt, choose_one (by decide), rfl, by decide⟩

theorem meets_StepRunsDecoded_idle : { State.reset with agenda := [] }.moves = [] := by decide

theorem meets_StepRunsDecoded_some : State.reset.moves ≠ [] := by decide

theorem meets_EveryStepAnswers : (∀ e ∈ w0.agenda, UnitEvent e.ev) ∧ StrandsOnce w0 := ⟨fun _ h => (List.not_mem_nil h).elim, by unfold StrandsOnce; decide⟩

theorem ne_ite {p : Prop} [Decidable p] {a b x : Option Instr} (ha : a ≠ x) (hb : b ≠ x) : (if p then a else b) ≠ x := by
  split <;> assumption

theorem xd_word (w : W32) : xdDecode w ≠ some .powerOn := by
  unfold xdDecode
  repeat refine ne_ite nofun ?_
  nofun

theorem meets_EveryStepAnswers_reset : (∀ e ∈ State.reset.agenda, UnitEvent e.ev) ∧ StrandsOnce State.reset := by
  refine ⟨fun e h => ?_, by unfold StrandsOnce; decide⟩
  have : e = { at_ := 0, ev := .powerOn } := List.mem_singleton.mp h
  subst this
  exact ⟨rfl, rfl, xd_word⟩

/-- A stopped package. -/
def stopped0 : State := { State.reset with agenda := [], control := { State.reset.control with stopped := true } }

theorem meets_StoppedStays : Stopped stopped0 ∧ step stopped0 = .next stopped0.idleOn := by
  refine ⟨⟨rfl, rfl⟩, ?_⟩
  unfold step State.choose
  rw [(by decide : stopped0.moves = [])]

end Sys2Proof.Tests
end

namespace Sys2Proof.Machine

/-! ## Words that the encoding does not allow (01 R32) -/

/-- 01 R33: the fields of a word are judged before anything else that can trap it or make it wait. -/
theorem verdict_illegal (f : Form) (s : State) (h : Ready s) (hok : f.ok = false) :
    verdict f s = .trap (s.trapAll .illegal (f.word.setWidth 64) 0) := by
  unfold verdict
  rw [if_neg (by simp [h.running]), if_neg (by simp [h.fresh]), if_pos (by simp [hok])]

theorem early_ready (f : Form) (s : State) (h : Ready s) : s.early f = false := by
  simp [State.early, issueTime_ready f s h]

/-- 01 R32: a word whose fields are not allowed traps ILLEGAL with itself in TVAL, whatever its effect would be. -/
theorem issue_illegal (f : Form) (eff : State → Result) (s : State) (h : Ready s) (hok : f.ok = false) :
    issue f eff s = .next (s.takeTrap { cause := .illegal, tval := f.word.setWidth 64, lanes := s.me.visible, taddr := 0 }) := by
  unfold issue
  rw [verdict_illegal f s h hok, early_ready f s h]
  rfl

/-- The answer o is that of the issue of the word w in s, and `ok` says whether the fields of w are allowed (01 R32). -/
def Checked (o : Out) (w : W32) (ok : Bool) (s : State) : Prop :=
  ∃ (f : Form) (eff : State → Result), o = issue f eff s ∧ f.word = w ∧ f.ok = ok

theorem Checked.illegal {o : Out} {w : W32} {ok : Bool} {s : State} (hc : Checked o w ok s) (hok : ok = false) (h : Ready s) :
    o = .next (s.takeTrap { cause := .illegal, tval := w.setWidth 64, lanes := s.me.visible, taddr := 0 }) := by
  obtain ⟨f, eff, rfl, rfl, rfl⟩ := hc
  exact issue_illegal f eff s h hok

theorem Checked.congr {o : Out} {w : W32} {ok ok' : Bool} {s : State} (hc : Checked o w ok s) (h : ok = ok') : Checked o w ok' s :=
  h ▸ hc

/-! ### What the forms ask of the fields -/

/-- 01 R15: K = 1 needs a channel among the sources. -/
theorem kOk_pair (k : BitVec 1) (a b : BitVec 7) : kOk k [a, b] = decide (k = 1#1 → 64 ≤ a.toNat ∨ 64 ≤ b.toNat) := by
  simp [kOk, isChan]

theorem kOk_single (k : BitVec 1) (a : BitVec 7) : kOk k [a] = decide (k = 1#1 → 64 ≤ a.toNat) := by
  simp [kOk, isChan]

theorem storeSizeOk_eq (z : BitVec 3) : storeSizeOk z = decide (z.toNat ∈ [0, 2, 4]) := by
  simp [storeSizeOk]

/-- 09 R178: a field that must name a register names no channel. -/
theorem not_isChan_eq (a : BitVec 7) : (!isChan a) = decide (a.toNat < 64) := by
  simp [isChan, ← decide_not]

/-- 04 R93: a pack reads a pair of registers. -/
theorem packOk_eq (r : BitVec 3) (a : BitVec 7) : (rmOk r && !isChan a) = decide (r.toNat ≤ 5 ∧ a.toNat < 64) := by
  simp [rmOk, not_isChan_eq]

/-- 19 R326: the scopes of `tlbinv` are core to package. -/
theorem tlbScopeOk_eq (c : BitVec 3) : decide (1 ≤ c.toNat ∧ c.toNat ≤ 4) = decide (c.toNat ∈ [1, 2, 3, 4]) := by
  apply decide_eq_decide.2
  simp only [List.mem_cons, List.not_mem_nil, or_false]
  omega

/-! ### What the shared operations check -/

theorem issue_checked (f : Form) (eff : State → Result) (s : State) : Checked (issue f eff s) f.word f.ok s :=
  ⟨f, eff, rfl, rfl, rfl⟩

theorem scalarOp_checked (f : Form) (d : BitVec 6) (x : State → W64) (s : State) : Checked (scalarOp f d x s) f.word f.ok s :=
  issue_checked f _ s

theorem compareOp_checked (f : Form) (m : BitVec 3) (p : State → Nat → Bool) (s : State) :
    Checked (compareOp f m p s) f.word f.ok s :=
  issue_checked f _ s

theorem laneOp_checked (f : Form) (d : BitVec 7) (x : State → Nat → W32) (s : State) : Checked (laneOp f d x s) f.word f.ok s :=
  issue_checked f _ s

theorem lanesToScalar_checked (f : Form) (d : BitVec 6) (mask : State → W32) (x : State → W64) (s : State) :
    Checked (lanesToScalar f d mask x s) f.word f.ok s :=
  issue_checked f _ s

theorem v3Op_checked (word : W32) (d a b : BitVec 7) (k : BitVec 1) (op : State → W32 → W32 → W32) (s : State) :
    Checked (v3Op word d a b k op s) word (decide (k = 1#1 → 64 ≤ a.toNat ∨ 64 ≤ b.toNat)) s :=
  (laneOp_checked _ d _ s).congr (kOk_pair k a b)

theorem vsOp_checked (word : W32) (d a : BitVec 7) (r : BitVec 6) (m : BitVec 2) (op : State → W32 → W32 → W32) (s : State) :
    Checked (vsOp word d a r m op s) word (modeOk m) s :=
  laneOp_checked _ d _ s

theorem groupOp_checked (word : W32) (d a : BitVec 7) (g : BitVec 8) (op : W32 → W32 → W32) (s : State) :
    Checked (groupOp word d a g op s) word (groupOk g) s :=
  laneOp_checked _ d _ s

theorem fp2Op_checked (word : W32) (d a b : BitVec 7) (k : BitVec 1) (op : State → W32 → W32 → W32) (s : State) :
    Checked (fp2Op word d a b k op s) word (decide (k = 1#1 → 64 ≤ a.toNat ∨ 64 ≤ b.toNat)) s :=
  (laneOp_checked _ d _ s).congr (kOk_pair k a b)

theorem fp1Op_checked (word : W32) (d a : BitVec 7) (k : BitVec 1) (lat : Nat) (op : State → W32 → W32) (s : State) :
    Checked (fp1Op word d a k lat op s) word (decide (k = 1#1 → 64 ≤ a.toNat)) s :=
  (laneOp_checked _ d _ s).congr (kOk_single k a)

theorem cvtOp_checked (word : W32) (d a : BitVec 7) (r : BitVec 3) (g : Rounding → W32 → W32) (s : State) :
    Checked (cvtOp word d a r g s) word (rmOk r) s :=
  laneOp_checked _ d _ s

theorem packOp_checked (word : W32) (d a : BitVec 7) (r : BitVec 3) (t : Ieee) (s : State) :
    Checked (packOp word d a r t s) word (decide (r.toNat ≤ 5 ∧ a.toNat < 64)) s :=
  (laneOp_checked _ d _ s).congr (packOk_eq r a)

theorem narrowOp_checked (word : W32) (d a : BitVec 7) (f r : BitVec 3) (g : Narrow → Rounding → W32 → W32) (s : State) :
    Checked (narrowOp word d a f r g s) word (rmOk r) s :=
  issue_checked _ _ s

theorem storeForm_checked (word : W32) (vr : List (BitVec 7)) (b : BitVec 6) (z : BitVec 3) (eff : State → Result) (s : State) :
    Checked (issue (storeForm word vr b (storeSizeOk z)) eff s) word (decide (z.toNat ∈ [0, 2, 4])) s :=
  (issue_checked _ eff s).congr (storeSizeOk_eq z)

theorem vatm_checked (word : W32) (op : AtomOp) (d b o : BitVec 6) (c : BitVec 3) (r : BitVec 2) (s : State) :
    Checked (vatm word op d b o c r s) word (scopeOk c) s :=
  issue_checked _ _ s

theorem satm_checked (word : W32) (op : AtomOp) (d a b : BitVec 6) (c : BitVec 3) (r : BitVec 2) (s : State) :
    Checked (satm word op d a b c r s) word (scopeOk c) s :=
  issue_checked _ _ s

/-! ### Every word that the encoding can refuse -/

/-- 01 R32: an instruction that is not well-formed is a word that issues as its own encoding, under the check of its fields. -/
theorem exec_checked (i : Instr) (s : State) (hw : i.wellFormed = false) : Checked (exec i s) (encode i) i.wellFormed s := by
  unfold exec
  refine ?word
  cases i with
  | shli | shri | sari | rotri => exact scalarOp_checked _ _ _ s
  | br | brr | sld | vinsl | vldIndexed | vldUnit | vldBroadcast | pub | acq | pubacq | drain | clean | inval
  | arange | waitb | testb | hintMod => exact issue_checked _ _ s
  | vadd | vsub | vmul | vmulh | vmulhn | vmin | vmax | vminn | vmaxn | vand | vor | vxor | vshl | vshr | vsar | vabsd =>
    exact v3Op_checked _ _ _ _ _ _ s
  | vperm => exact (laneOp_checked _ _ _ s).congr (kOk_pair _ _ _)
  | vcmp | vfcmp => exact compareOp_checked _ _ _ s
  | vbcast | vlaneid | vxch | vscan => exact laneOp_checked _ _ _ s
  | vadds | vmuls | vmulhns | vshls | vshrs => exact vsOp_checked _ _ _ _ _ _ s
  | vextl => exact lanesToScalar_checked _ _ _ _ s
  | vgadd | vgmax | vgmaxn | vgor => exact groupOp_checked _ _ _ _ _ s
  | vfadd | vfsub | vfmul | vfmin | vfmax | vfscale => exact fp2Op_checked _ _ _ _ _ _ s
  | vfabs | vfneg | vfrcp | vfrsq | vfsqrt | vfexp2 | vflog2 | vfsin | vfcos | vfclass => exact fp1Op_checked _ _ _ _ _ _ s
  | vcvtF32I32 | vcvtI32F32 | vcvtF32N32 | vcvtN32F32 | vcvtRint => exact cvtOp_checked _ _ _ _ _ s
  | vcvtBf16F32 | vcvtF16F32 => exact packOp_checked _ _ _ _ _ s
  | vcvtNfF32 | vcvtF32Nf => exact narrowOp_checked _ _ _ _ _ _ s
  | vstIndexed | vstUnit | vstnt => exact storeForm_checked _ _ _ _ _ s
  | vatmAdd | vatmMin | vatmMax | vatmMinn | vatmMaxn | vatmXchg | vatmCas | vatmFadd | vatmAnd | vatmOr | vatmXor
  | vatmIncw | vatmDecw => exact vatm_checked _ _ _ _ _ _ _ s
  | satmAdd | satmMin | satmMax | satmXchg | satmCas | satmAnd | satmOr | satmXor => exact satm_checked _ _ _ _ _ _ _ s
  | areadRaw => exact (issue_checked _ _ s).congr (not_isChan_eq _)
  | tlbinv => exact (issue_checked _ _ s).congr (tlbScopeOk_eq _)
  | _ => ?_
  -- Lean keeps the bare word `seal` for a command, so this case goes by its whole tag.
  case word.seal => exact issue_checked _ _ s
  all_goals cases hw

/-- 01 R12: a word of major 0x00 is its lower 26 bits. -/
theorem assemble_ill (x : BitVec 26) : assemble 0x00000000 [(x.toNat, 0)] = x.setWidth 32 := by
  apply BitVec.eq_of_toNat_eq
  simp [assemble]

theorem exec_ill_checked (x : BitVec 26) (s : State) : Checked (exec (.ill x) s) (x.setWidth 32) false s :=
  ⟨illegalForm (assemble 0x00000000 [(x.toNat, 0)]), fun s => .done s, rfl, assemble_ill x, rfl⟩

theorem exec_unallocatedEncoding_checked (w : W32) (s : State) : Checked (exec (.unallocatedEncoding w) s) w false s :=
  ⟨illegalForm w, fun s => .done s, rfl, rfl, rfl⟩

/-- Settles O10: every word that the encoding does not allow fails the first check of its issue, under its own encoding. -/
theorem illegalWords : Obligations.IllegalWords := by
  unfold Obligations.IllegalWords
  refine ⟨fun i s _ hw h => (exec_checked i s hw).illegal hw h, fun x s h => ?_,
    fun w s h => (exec_unallocatedEncoding_checked w s).illegal rfl h⟩
  have hx : (x.setWidth 32).setWidth 64 = x.setWidth 64 := BitVec.setWidth_setWidth (by decide)
  rw [← hx]
  exact (exec_ill_checked x s).illegal rfl h

end Sys2Proof.Machine

namespace Sys2Proof.Machine

/-! ## Clocks left aside -/

theorem State.mapMe_mapMe (g f : Strand → Strand) (s : State) : (s.mapMe g).mapMe f = s.mapMe (fun t => f (g t)) := rfl

theorem State.timeless_dueOnce (dt : Nat) (ev : Instr) (s : State) : (s.dueOnce dt ev).timeless = s.timeless.dueOnce dt ev := by
  have e : s.timeless.agenda = s.agenda := rfl
  have n : s.timeless.now = s.now := rfl
  unfold State.dueOnce
  rw [e, n]
  split <;> rfl

theorem State.timeless_mapMe_congr {f : Strand → Strand} {s s' : State} (h : ∀ t, (f t).timeless = (f t.timeless).timeless)
    (hs : s.timeless = s'.timeless) : (s.mapMe f).timeless = (s'.mapMe f).timeless := by
  rw [State.timeless_mapMe f s h, hs, ← State.timeless_mapMe f s' h]

/-- Two rewrites of the strand in the focus that differ in its clocks alone leave states that differ in clocks alone. -/
theorem State.timeless_mapMe_strand {f g : Strand → Strand} {s : State} (h : (f s.me).timeless = (g s.me).timeless) :
    (s.mapMe f).timeless = (s.mapMe g).timeless := by
  simp only [State.timeless, State.mapMe, h]

/-! ## Reset (23 R376) -/

/-- Settles O58: reset lists its fields, and power-on is the one move that it leaves. -/
theorem resetState : Obligations.ResetState := by
  have moves : State.reset.moves = [.event 0] := by decide
  have choice : State.reset.choose = (.event 0, State.reset) := by unfold State.choose; rw [moves]
  refine ⟨rfl, rfl, rfl, rfl, rfl, rfl, rfl, rfl, rfl, rfl, rfl, rfl, rfl, rfl, rfl, rfl, ?_⟩
  unfold step
  rw [choice]
  rfl

/-! ## Taking a trap and halting (02 R53, R55, R56) -/

/-- Settles O7: an unmasked trap with a handler enters it, and a strand that no debugger steps goes on there. -/
theorem trapEntry : Obligations.TrapEntry := by
  unfold Obligations.TrapEntry
  intro x s unmasked handled free
  have enters : ¬ (s.me.tmasked ∨ s.blk.handler = 0) := by simp [unmasked]; exact handled
  unfold State.takeTrap
  rw [if_neg enters, stepEnd_free _ (by simpa [Strand.setTrap, Strand.clearInstr, State.settle] using free), State.settle,
    State.mapMe_mapMe]
  apply State.timeless_mapMe_strand
  simp only [Strand.timeless, Strand.setTrap, Strand.clearInstr, Trap.pc, Strand.trapPc, Strand.visible]

/-- 19 R329: the cause stands in the low byte of a record's first word. -/
theorem slice_recordWord_code (place : BitVec 14) (block kind words code : Nat) :
    slice (recordWord place block kind words code) 7 0 = code % 256 := by
  unfold slice recordWord
  rw [BitVec.toNat_ofNat]
  omega

theorem Cause.code_lt (c : Cause) : c.code < 256 := by cases c <;> decide

/-- 02 R56: the strand of a halt. -/
theorem State.halt_me (x : Trap) (s : State) :
    (s.halt x).me = { Strand.clearInstr (s.settle.me.setTrap x) with run := .halted, hints := .none, stall := [] } := by
  simp only [State.halt, State.checkBlock_me, State.postFault_me, State.mapBlk_me, State.mapMe_me]

/-- 02 R56: the block of a halt. -/
theorem State.halt_blk (x : Trap) (s : State) :
    (s.halt x).blk = { s.blk with
      failed := some (s.blk.failed.getD x.cause), nfault := s.blk.nfault + 1,
      firstPlace := if s.blk.nfault = 0 then s.placeOf s.blk.vd s.blk.core else s.blk.firstPlace } := by
  simp only [State.halt, State.checkBlock_blk, State.postFault_blk, State.mapBlk_blk, State.mapMe_blk, State.settle_blk]
  rfl

/-- 02 R56, 19 R329: the record of a halt. -/
theorem State.halt_vds (x : Trap) (s : State) :
    (s.halt x).vds = (s.postFault s.blk.vd [recordWord (s.placeOf s.blk.vd s.blk.core) s.blk.index 0 4 x.cause.code, x.pc s.me,
      BitVec.ofNat 64 (s.me.m0.toNat * 2 ^ 32 + (if s.me.tmasked then 32 else 0) + s.me.slot % 32),
      BitVec.ofNat 64 (x.lanes &&& s.me.visible).toNat, x.taddr]).vds := by
  simp only [State.halt, State.checkBlock_vds]
  rfl

@[simp] theorem State.halt_strands (x : Trap) (s : State) : (s.halt x).strands = s.strands := by simp [State.halt]
@[simp] theorem State.halt_blocks (x : Trap) (s : State) : (s.halt x).blocks = s.blocks := by simp [State.halt]
@[simp] theorem State.halt_core (x : Trap) (s : State) : (s.halt x).core = s.core := by simp [State.halt]
@[simp] theorem State.halt_dram (x : Trap) (s : State) : (s.halt x).dram = s.dram := by simp [State.halt]
@[simp] theorem State.halt_slices (x : Trap) (s : State) : (s.halt x).slices = s.slices := by simp [State.halt]

/-- Settles O8: such a trap halts, and a halt writes the trap registers, the block's failure and one record. -/
theorem trapHalts : Obligations.TrapHalts := by
  unfold Obligations.TrapHalts
  intro x s masked
  have halts : s.takeTrap x = s.halt x := if_pos masked
  have code : slice (recordWord (s.placeOf s.blk.vd s.blk.core) s.blk.index 0 4 x.cause.code) 7 0 = x.cause.code := by
    rw [slice_recordWord_code, Nat.mod_eq_of_lt x.cause.code_lt]
  rw [halts]
  dsimp only
  rw [State.halt_me, State.halt_blk, State.halt_strands, State.halt_blocks, State.halt_core, State.halt_dram, State.halt_slices]
  exact ⟨rfl, rfl, rfl, rfl, rfl, rfl, rfl, rfl, rfl, rfl, rfl, rfl, rfl, rfl, rfl, rfl, rfl, rfl, rfl, _, rfl, _, State.halt_vds x s, code⟩

theorem State.halt_graftLog (x : Trap) (s : State) : (s.halt x).graftLog = s.graftLog := by simp [State.halt]

theorem State.takeTrap_graftLog (x : Trap) (s : State) : (s.takeTrap x).graftLog = s.graftLog := by
  unfold State.takeTrap
  split
  · exact State.halt_graftLog x s
  · simp

/-! ## Software traps and the return (02 R54; 03 R71, R72) -/

/-- A word without operands is allowed when its fields are (01 R33). -/
theorem allowed_bare (f : Form) (s : State) (hok : f.ok = true) (hprot : f.okProt = true) (hl : f.level = 0) (hu : f.units = true)
    (huse : f.use = { mr := f.use.mr }) : Allowed f s :=
  allowed_scalar f s hok (fun _ => hprot) (by omega) hu (by rw [huse]; simp) (by rw [huse]; simp) (by rw [huse]; simp) (by rw [huse]; simp)
    (by rw [huse]) (by rw [huse]) (by rw [huse]; simp)

/-- What the issue of an allowed word that runs under no lanes' mask answers. -/
theorem issue_scalar (f : Form) (eff : State → Result) (s : State) (h : Ready s) (a : Allowed f s) (hv : f.vector = false) :
    issue f eff s = .next (finish f (begun f s) (eff (begun f s))).writeGraftLog := by
  rw [issue_ready f eff s h a, if_neg (by simp [hv])]

/-- 02 R52: an allowed word that traps in its effect, before it has changed anything. -/
theorem issue_traps (f : Form) (eff : State → Result) (s : State) (x : Trap) (h : Ready s) (a : Allowed f s) (hv : f.vector = false)
    (hsr : f.use.sr = []) (he : eff (begun f s) = .trap x (begun f s)) :
    ∃ b : State, b.timeless = s.timeless ∧ issue f eff s = .next (b.takeTrap x) := by
  refine ⟨begun f s, by rw [begun_timeless, hsr, popped_plain _ _ (by simp)], ?_⟩
  rw [issue_scalar f eff s h a hv, he]
  simp only [finish]
  rw [State.writeGraftLog_nil _ (by rw [State.takeTrap_graftLog, begun_graftLog, h.noLog])]

theorem visible_begun (f : Form) (s : State) : (begun f s).me.visible = s.me.visible := by rw [begun_me]; rfl

theorem trapAll_begun (f : Form) (s : State) (c : Cause) (tval taddr : W64) :
    (begun f s).trapAll c tval taddr = { cause := c, tval := tval, lanes := s.me.visible, taddr := taddr } := by
  rw [State.trapAll, visible_begun]

theorem begun_bare_timeless (f : Form) (s : State) (hsr : f.use.sr = []) : (begun f s).timeless = s.timeless := by
  rw [begun_timeless, hsr, popped_plain _ _ (by simp)]

/-- A word whose effect leaves its strand where the effect says (02 R54, 03 R70). -/
theorem leads_ended (f : Form) (eff : State → Result) (s s1 : State) (h : Ready s) (a : Allowed f s) (hv : f.vector = false)
    (he : eff (begun f s) = .ended s1) (hl : s1.graftLog = []) : Leads (issue f eff s) s1 := by
  refine ⟨_, issue_scalar f eff s h a hv, ?_⟩
  rw [he]
  simp only [finish]
  rw [State.writeGraftLog_nil _ (by simpa using hl), State.timeless_countIssue]

theorem allowed_plainForm (w : W32) (s : State) : Allowed (plainForm w) s := allowed_bare _ s rfl rfl rfl rfl rfl

/-- 02 R55, 21 R348: the strand that a debugger's breakpoint stops behind its `brk`. -/
def Strand.stoppedBehind (tval : W64) (t : Strand) : Strand :=
  { t with run := .stopped, tpc := t.pc, tval := tval, pc := t.pc + 4, stopPc := t.pc, wake := true, matched := false, tretMask := none,
           stall := t.stall.tail, hints := .none, memWait := none, flight := none, wait := .none }

/-- 02 R55: where a debug session holds the block, a breakpoint stops the strand, and its block's others are due to stop. -/
theorem breakpoint_stops (tval : W64) (s : State) (debug : s.blk.debug = true) (free : s.me.stepping = false) :
    (s.breakpoint tval s.nextPc false).timeless = ((s.mapMe (Strand.stoppedBehind tval)).dueOnce 0 (.debugStop s.me.block)).timeless := by
  simp only [State.breakpoint, debug, if_true, State.timeless_dueOnce]
  congr 1
  rw [State.settle, State.mapMe_mapMe]
  apply State.timeless_mapMe_strand
  simp only [Strand.timeless, Strand.clearInstr, Strand.stoppedBehind, free, Trap.pc, State.nextPc]
  rfl

/-- 02 R54: the strand that a return from a handler leaves. -/
def Strand.returned (t : Strand) : Strand :=
  { t with pc := t.tpc, tmasked := false, stall := [], hints := .none, fetch := [], matched := false, memWait := none, flight := none,
           tretMask := some t.tlanes }

/-- 02 R54: a return to an aligned address moves the strand there and changes nothing else. -/
theorem trapReturn_returns (s : State) (aligned : s.me.tpc.toNat % 4 = 0) (free : s.me.stepping = false) :
    ∃ s1, s.trapReturn = .ended s1 ∧ s1.graftLog = s.graftLog ∧ s1.timeless = (s.mapMe Strand.returned).timeless := by
  refine ⟨_, if_neg (by omega), by simp, ?_⟩
  rw [retire_free _ _ _ free, State.mapMe_mapMe]
  apply State.timeless_mapMe_strand
  simp only [Strand.timeless, Strand.returned]

theorem saysSoftwareTraps : SaysSoftwareTraps := by
  intro k s h
  have plain := allowed_plainForm (assemble 0x54400000 [(k.toNat, 0)]) s
  refine ⟨?_, fun nodebug => ?_, fun debug => ?_⟩
  · change ∃ b : State, b.timeless = s.timeless ∧ execTrap k s = _
    unfold execTrap
    refine issue_traps _ _ s _ h (allowed_plainForm _ s) rfl rfl ?_
    simp only [trapAll_begun]
  · refine ⟨begun (plainForm (assemble 0x54400000 [(k.toNat, 0)])) s,
      plainForm (assemble 0x54400000 [(k.toNat, 0)]), begun_bare_timeless _ s rfl, ?_⟩
    change execBrk k s = _
    unfold execBrk
    rw [issue_scalar _ _ s h plain rfl]
    simp only [finish, State.breakpoint, begun_blk, nodebug, trapAll_begun]
    rw [if_neg (by simp), State.writeGraftLog_nil _ (by rw [State.countIssue_graftLog, State.takeTrap_graftLog, begun_graftLog, h.noLog])]
    rfl
  · have debug' : (begun (plainForm (assemble 0x54400000 [(k.toNat, 0)])) s).blk.debug = true := by rw [begun_blk, debug]
    have stops := leads_ended _ (fun s => .ended (s.breakpoint (k.setWidth 64) s.nextPc false)) s _ h plain rfl rfl
      (by simp only [State.breakpoint, debug', if_true]; simp [h.noLog])
    refine Leads.congr stops ?_
    rw [breakpoint_stops _ _ debug' (by rw [begun_me]; exact h.free), begun_me, State.timeless_dueOnce, State.timeless_dueOnce]
    rw [State.timeless_mapMe_congr (f := Strand.stoppedBehind _) (fun _ => rfl) (begun_bare_timeless _ s rfl)]
    rfl

theorem saysTrapReturn : SaysTrapReturn := by
  intro s h
  have plain := allowed_plainForm (assemble 0x54300000 []) s
  have tpc : (begun (plainForm (assemble 0x54300000 [])) s).me.tpc = s.me.tpc := by rw [begun_me]
  have free : (begun (plainForm (assemble 0x54300000 [])) s).me.stepping = false := by rw [begun_me]; exact h.free
  refine ⟨fun aligned => ?_, fun misaligned => ?_⟩
  · obtain ⟨s1, returns, log, hs1⟩ := trapReturn_returns _ (by rw [tpc]; exact aligned) free
    refine (leads_ended _ _ s s1 h plain rfl returns (by rw [log, begun_graftLog, h.noLog])).congr (hs1.trans ?_)
    exact State.timeless_mapMe_congr (fun _ => rfl) (begun_bare_timeless _ s rfl)
  · change ∃ b : State, b.timeless = s.timeless ∧ execTret s = _
    unfold execTret
    refine issue_traps _ _ s _ h plain rfl rfl ?_
    rw [State.trapReturn, tpc, if_pos misaligned, trapAll_begun]

/-- Settles O9: each word is the trap entry, the debugger's stop or the return that its effect names, with nothing done before it. -/
theorem trapWords : Obligations.TrapWords := ⟨saysSoftwareTraps, saysTrapReturn⟩

/-! ## The active-mask stack (02 R45 to R47) -/

theorem allowed_maskForm (w : W32) (ms : List (BitVec 3)) (s : State) : Allowed (maskForm w ms) s := allowed_bare _ s rfl rfl rfl rfl rfl

theorem State.mapMe_pushMask (e : MaskEntry) (s : State) : s.mapMe (Strand.pushMask e) = s.pushed e := rfl
theorem State.setM0_eq (x : W32) (s : State) : s.setM0 x = s.mwrote 0 x := rfl

theorem m0_begun (f : Form) (s : State) : (begun f s).me.m0 = msrc s 0 := by rw [begun_me]; rfl
theorem msrc_begun (f : Form) (s : State) (m : BitVec 3) : (begun f s).mreg m = msrc s m := mreg_begun f s m
theorem stack_begun (f : Form) (s : State) : (begun f s).me.stack = s.me.stack := by rw [begun_me]
theorem near_begun (f : Form) (s : State) : (begun f s).me.near = s.me.near := by rw [begun_me]
theorem pc_begun (f : Form) (s : State) : (begun f s).me.pc = s.me.pc := by rw [begun_me]

/-- A change of the state that rewrites the strand in the focus by what is no clock, and is nothing that the end of a word asks for. -/
def StrandEdit (G : State → State) : Prop :=
  ∃ g : Strand → Strand, G = State.mapMe g ∧
    ∀ t, (g t).timeless = (g t.timeless).timeless ∧ (g t).stepping = t.stepping ∧ (g t).corrupt = t.corrupt

theorem StrandEdit.id : StrandEdit (fun s => s) := ⟨fun t => t, rfl, fun _ => ⟨rfl, rfl, rfl⟩⟩
theorem StrandEdit.pushed (e : MaskEntry) : StrandEdit (State.pushed e) := ⟨Strand.pushMask e, rfl, fun _ => ⟨rfl, rfl, rfl⟩⟩
theorem StrandEdit.poppedMask : StrandEdit State.poppedMask := ⟨Strand.popMask, rfl, fun _ => ⟨rfl, rfl, rfl⟩⟩
theorem StrandEdit.topped (e : MaskEntry) : StrandEdit (State.topped e) := ⟨Strand.setTop e, rfl, fun _ => ⟨rfl, rfl, rfl⟩⟩
theorem StrandEdit.mwrote (d : BitVec 3) (x : W32) : StrandEdit (State.mwrote d x) :=
  ⟨fun t => t.putM d.toNat (x &&& t.visible), rfl, fun _ => ⟨rfl, rfl, rfl⟩⟩

theorem StrandEdit.comp {G H : State → State} (hG : StrandEdit G) (hH : StrandEdit H) : StrandEdit (fun s => H (G s)) := by
  obtain ⟨g, rfl, hg⟩ := hG
  obtain ⟨k, rfl, hk⟩ := hH
  refine ⟨fun t => k (g t), rfl, fun t => ⟨?_, (hk _).2.1.trans (hg t).2.1, (hk _).2.2.trans (hg t).2.2⟩⟩
  rw [(hk (g t)).1, (hg t).1, ← (hk (g t.timeless)).1]

/-- What the end of a word asks of the state that its effect leaves. -/
theorem StrandEdit.begun {G : State → State} (hG : StrandEdit G) (f : Form) (s : State) (h : Ready s) (hsr : f.use.sr = []) :
    (G (begun f s)).graftLog = [] ∧ (G (begun f s)).me.stepping = false ∧ (G (begun f s)).me.corrupt = [] ∧
      (G (begun f s)).timeless = (G s).timeless := by
  obtain ⟨g, rfl, hg⟩ := hG
  refine ⟨by simp [h.noLog], ?_, ?_, State.timeless_mapMe_congr (fun t => (hg t).1) (begun_bare_timeless f s hsr)⟩
  · rw [State.mapMe_me, (hg _).2.1, begun_me, h.free]
  · rw [State.mapMe_me, (hg _).2.2, begun_me, h.whole]

theorem wordDone_congr {s s' : State} (pc : W64) (h : s.timeless = s'.timeless) : (s.wordDone pc).timeless = (s'.wordDone pc).timeless :=
  State.timeless_mapMe_congr (fun _ => rfl) h

/-- A mask word that changes its strand by G and goes on at the next word. -/
theorem mask_leads_done (w : W32) (ms : List (BitVec 3)) (eff : State → Result) (G : State → State) (s : State) (h : Ready s)
    (hG : StrandEdit G) (he : eff (begun (maskForm w ms) s) = .done (G (begun (maskForm w ms) s))) :
    Leads (issue (maskForm w ms) eff s) ((G s).wordDone (s.me.pc + 4)) := by
  obtain ⟨log, free, whole, same⟩ := hG.begun (maskForm w ms) s h rfl
  refine (leads_done _ eff s _ h (allowed_maskForm w ms s) rfl (.inl rfl) he log free whole).congr ?_
  rw [popChans_nil _ _ rfl]
  exact wordDone_congr _ same

/-- A mask word that changes its strand by G and goes on at `pc`. -/
theorem mask_leads_jump (w : W32) (ms : List (BitVec 3)) (eff : State → Result) (G : State → State) (pc : W64) (s : State) (h : Ready s)
    (hG : StrandEdit G) (he : eff (begun (maskForm w ms) s) = .jump pc 2 (G (begun (maskForm w ms) s))) :
    Leads (issue (maskForm w ms) eff s) ((G s).wordDone pc) := by
  obtain ⟨log, free, whole, same⟩ := hG.begun (maskForm w ms) s h rfl
  refine (leads_jump _ eff s _ pc 2 h (allowed_maskForm w ms s) rfl rfl he log free whole).congr ?_
  rw [popChans_nil _ _ rfl]
  exact wordDone_congr _ same

theorem saysMaskPush : SaysMaskPush := by
  intro m o s h depth L m0 k
  have room : ∀ f : Form, (begun f s).me.stack.length ≠ 32 := fun f => by rw [stack_begun]; omega
  refine ⟨?_, ?_⟩
  · change Leads (execMif m o s) _
    unfold execMif
    dsimp only
    by_cases any : m0 &&& k ≠ 0
    · rw [if_pos any]
      refine mask_leads_done _ _ _ (fun s => (s.pushed _).mwrote 0 _) s h ((StrandEdit.pushed _).comp (.mwrote _ _)) ?_
      simp only [room, if_false, m0_begun, msrc_begun, pc_begun, plainTarget_begun, State.mapMe_pushMask, State.setM0_eq]
      rw [if_pos any]
      rfl
    · rw [if_neg any]
      refine mask_leads_jump _ _ _ (State.pushed _) _ s h (.pushed _) ?_
      simp only [room, if_false, m0_begun, msrc_begun, pc_begun, plainTarget_begun, State.mapMe_pushMask, State.setM0_eq]
      rw [if_neg any]
      rfl
  · change Leads (execMpush o s) _
    unfold execMpush
    refine mask_leads_done _ _ _ (State.pushed _) s h (.pushed _) ?_
    simp only [room, if_false, m0_begun, pc_begun, plainTarget_begun, State.mapMe_pushMask]
    rfl

theorem withTop_top (kind : MaskKind) (k : MaskEntry → State → Result) (f : Form) (e : MaskEntry) (s : State)
    (top : s.me.stack.head? = some e) (near : s.me.near ≠ 0) (right : e.kind = kind) :
    withTop kind k (begun f s) = k e (begun f s) := by
  obtain ⟨r, hr⟩ : ∃ r, s.me.stack = e :: r := by
    cases hs : s.me.stack with
    | nil => simp [hs] at top
    | cons a r => simp [hs] at top; exact ⟨r, by rw [top]⟩
  simp only [withTop, stack_begun, near_begun, hr, right, near, ne_eq, not_true_eq_false, if_false]

theorem withTop_traps (kind : MaskKind) (k : MaskEntry → State → Result) (s : State) (wrong : ∀ e, s.me.stack.head? = some e → e.kind ≠ kind) :
    withTop kind k s = maskStackTrap s := by
  unfold withTop
  split
  · rfl
  next e r hs => rw [if_pos (wrong e (by rw [hs]; rfl))]

theorem saysMaskTop : SaysMaskTop := by
  intro m o e s h top near L m0 k
  refine ⟨fun right => ?_, fun right => ?_, fun right => ?_, fun right => ?_⟩
  · change Leads (execMelse o s) _
    unfold execMelse
    by_cases pend : e.pend ≠ 0
    · rw [if_pos pend]
      refine mask_leads_done _ _ _ (fun s => (s.topped _).mwrote 0 _) s h ((StrandEdit.topped _).comp (.mwrote _ _)) ?_
      rw [withTop_top _ _ _ e s top near right, if_pos pend, plainTarget_begun]
      rfl
    · rw [if_neg pend]
      refine mask_leads_jump _ _ _ (fun s => (s.topped _).mwrote 0 _) _ s h ((StrandEdit.topped _).comp (.mwrote _ _)) ?_
      rw [withTop_top _ _ _ e s top near right, if_neg pend, plainTarget_begun]
      rfl
  · change Leads (execMend s) _
    unfold execMend
    refine mask_leads_done _ _ _ (fun s => s.poppedMask.mwrote 0 _) s h (StrandEdit.poppedMask.comp (.mwrote _ _)) ?_
    rw [withTop_top _ _ _ e s top near right]
    rfl
  · change Leads (execMlimit m s) _
    unfold execMlimit
    by_cases none : m0 &&& k = 0
    · rw [if_pos none]
      refine mask_leads_jump _ _ _ (fun s => s) _ s h .id ?_
      rw [withTop_top _ _ _ e s top near right, m0_begun, msrc_begun, if_pos none]
    · rw [if_neg none]
      refine mask_leads_done _ _ _ (State.mwrote 0 _) s h (.mwrote _ _) ?_
      rw [withTop_top _ _ _ e s top near right, m0_begun, msrc_begun, if_neg none]
      rfl
  · change Leads (execMpop s) _
    unfold execMpop
    refine mask_leads_done _ _ _ (fun s => s.poppedMask.mwrote 0 _) s h (StrandEdit.poppedMask.comp (.mwrote _ _)) ?_
    rw [withTop_top _ _ _ e s top near right]
    rfl

/-- A mask word whose effect is MASKSTACK, with the depth in TVAL. -/
theorem mask_traps (w : W32) (ms : List (BitVec 3)) (eff : State → Result) (s : State) (h : Ready s)
    (he : eff (begun (maskForm w ms) s) = maskStackTrap (begun (maskForm w ms) s)) :
    ∃ b : State, b.timeless = s.timeless ∧ issue (maskForm w ms) eff s = .next (b.takeTrap
      { cause := .maskstack, tval := BitVec.ofNat 64 s.me.stack.length, lanes := s.me.visible, taddr := 0 }) :=
  issue_traps _ eff s _ h (allowed_maskForm w ms s) rfl rfl (by rw [he, maskStackTrap, trapAll_begun, stack_begun])

theorem saysMaskStackTrap : SaysMaskStackTrap := by
  intro i s h bad
  have full : s.me.stack.length = 32 → ∀ f : Form, (begun f s).me.stack.length = 32 := fun e f => by rw [stack_begun, e]
  have wrong : ∀ kind other : MaskKind, other ≠ kind → (∀ e, s.me.stack.head? = some e → e.kind = other) → ∀ f k,
      withTop kind k (begun f s) = maskStackTrap (begun f s) := fun kind other ne top f k =>
    withTop_traps kind k _ (fun e he => by rw [stack_begun] at he; rw [top e he]; exact ne)
  rcases bad with ⟨depth, ⟨m, o, rfl⟩ | ⟨o, rfl⟩⟩ | ⟨top, ⟨o, rfl⟩ | rfl⟩ | ⟨top, ⟨m, rfl⟩ | rfl⟩
  · change ∃ b : State, b.timeless = s.timeless ∧ execMif m o s = _
    unfold execMif
    exact mask_traps _ _ _ s h (if_pos (full depth _))
  · change ∃ b : State, b.timeless = s.timeless ∧ execMpush o s = _
    unfold execMpush
    exact mask_traps _ _ _ s h (if_pos (full depth _))
  · exact mask_traps _ _ _ s h (wrong .ifs .loop (by decide) top _ _)
  · exact mask_traps _ _ _ s h (wrong .ifs .loop (by decide) top _ _)
  · exact mask_traps _ _ _ s h (wrong .loop .ifs (by decide) top _ _)
  · exact mask_traps _ _ _ s h (wrong .loop .ifs (by decide) top _ _)

/-- Settles O5: a push below depth 32 and a use of a top entry of the right kind edit the strand; anything else traps first. -/
theorem maskStack : Obligations.MaskStack := ⟨saysMaskPush, saysMaskTop, saysMaskStackTrap⟩

end Sys2Proof.Machine

namespace Sys2Proof.Machine

/-! ## Compares, empty masks and protected pairs (02 R48, R49, R54; 04 R81, R92) -/

/-- The number whose bit L, for L below n, is p L. -/
def bitsBelow (p : Nat → Bool) (n : Nat) : Nat := (List.range n).foldl (fun acc L => if p L then acc + 2 ^ L else acc) 0

theorem maskOf_eq (p : Nat → Bool) : maskOf p = BitVec.ofNat 32 (bitsBelow p 32) := rfl

theorem bitsBelow_succ (p : Nat → Bool) (n : Nat) : bitsBelow p (n + 1) = if p n then bitsBelow p n + 2 ^ n else bitsBelow p n := by
  simp only [bitsBelow, List.range_succ, List.foldl_append, List.foldl_cons, List.foldl_nil]

theorem bitsBelow_lt (p : Nat → Bool) (n : Nat) : bitsBelow p n < 2 ^ n := by
  induction n with
  | zero => simp [bitsBelow]
  | succ n ih => rw [bitsBelow_succ, pow_succ]; split <;> omega

theorem testBit_bitsBelow (p : Nat → Bool) (n L : Nat) (h : L < n) : (bitsBelow p n).testBit L = p L := by
  induction n with
  | zero => omega
  | succ n ih =>
    have lt := bitsBelow_lt p n
    rw [bitsBelow_succ]
    by_cases e : L = n
    · subst e
      cases hp : p L
      · simpa using Nat.testBit_lt_two_pow lt
      · rw [if_pos rfl, Nat.add_comm, Nat.testBit_two_pow_add_eq, Nat.testBit_lt_two_pow lt]; rfl
    · have hL : L < n := by omega
      split
      · rw [Nat.add_comm, Nat.testBit_two_pow_add_gt hL, ih hL]
      · exact ih hL

/-- The bits of a mask built lane by lane. -/
theorem getLsbD_maskOf (p : Nat → Bool) (L : Nat) (h : L < 32) : (maskOf p).getLsbD L = p L := by
  rw [maskOf_eq, BitVec.getLsbD_ofNat, testBit_bitsBelow p 32 L h]
  simp [h]

/-- The form of a compare of two vectors into a mask register. -/
def compareForm (w : W32) (ok : Bool) (lat : Nat) (m : BitVec 3) (a b : BitVec 7) : Form :=
  { word := w, ok := ok, lat := lat, vector := true, use := { vr := [a, b], mw := [m] } }

def vcmpForm (c m : BitVec 3) (a b : BitVec 7) : Form :=
  compareForm (assemble 0x64000000 [(c.toNat, 23), (m.toNat, 20), (a.toNat, 13), (b.toNat, 6)]) (decide (c.toNat ≤ 5)) 4 m a b

theorem exec_vcmp (c m : BitVec 3) (a b : BitVec 7) (s : State) : exec (.vcmp c m a b) s =
    compareOp (vcmpForm c m a b) m (fun s L => condPair c.toNat (Vec.lane (s.vreg a) L) (Vec.lane (s.vreg b) L)) s := rfl

theorem exec_vfcmp (c m : BitVec 3) (a b : BitVec 7) (s : State) : exec (.vfcmp c m a b) s =
    compareOp (compareForm (assemble 0x84000000 [(c.toNat, 23), (m.toNat, 20), (a.toNat, 13), (b.toNat, 6)]) (decide (c.toNat ≤ 4)) 6 m a b) m
      (fun s L => fCond c (Vec.lane (s.vreg a) L) (Vec.lane (s.vreg b) L)) s := rfl

theorem allowed_compareForm (w : W32) (ok : Bool) (lat : Nat) (m : BitVec 3) (a b : BitVec 7) (s : State) (hok : ok = true) (hm : m ≠ 0)
    (ha : VSrcOk s a) (hb : VSrcOk s b) : Allowed (compareForm w ok lat m a b) s :=
  allowed_vector _ s hok (fun _ => rfl) rfl rfl (by simp [compareForm]) (by simp [compareForm]) rfl rfl (by simp [compareForm, ha, hb])
    (by simp [compareForm]) (fun k hk => by rw [List.mem_singleton.1 hk]; exact hm)

theorem disagree_begun (f : Form) (s : State) (mask : W32) : (begun f s).disagree mask = s.disagree mask := by
  unfold State.disagree
  rw [visible_begun, begun_me]

/-- 04 R81: a compare writes one bit a lane: its condition in an active lane, 0 in an inactive one. -/
theorem compareOp_leads (w : W32) (ok : Bool) (lat : Nat) (m : BitVec 3) (a b : BitVec 7) (p : W32 → W32 → Bool) (q : Nat → Bool) (s : State)
    (h : Ready s)
    (hok : ok = true) (hm : m ≠ 0) (ha : VSrcOk s a) (hb : VSrcOk s b) (active : s.active ≠ 0) (agree : s.disagree s.active = 0)
    (hp : ∀ L, p (el s a L) (el s b L) = q L) :
    ∃ x : W32, (∀ L < 32, x.getLsbD L = (s.active.getLsbD L && q L)) ∧
      Leads (compareOp (compareForm w ok lat m a b) m (fun s L => p (Vec.lane (s.vreg a) L) (Vec.lane (s.vreg b) L)) s)
        (((s.mwrote m x).vpopped [a, b]).wordDone (s.me.pc + 4)) := by
  have bits : (fun L => bit s.active L && p (Vec.lane ((begun (compareForm w ok lat m a b) s).vreg a) L)
        (Vec.lane ((begun (compareForm w ok lat m a b) s).vreg b) L)) = fun L => s.active.getLsbD L && q L := by
    funext L
    rw [vreg_begun _ _ _ (by simp [compareForm]), vreg_begun _ _ _ (by simp [compareForm])]
    exact congrArg _ (hp L)
  refine ⟨maskOf (fun L => s.active.getLsbD L && q L), fun L hL => getLsbD_maskOf _ L hL, ?_⟩
  obtain ⟨log, free, whole, same⟩ :=
    (StrandEdit.mwrote m (maskOf (fun L => s.active.getLsbD L && q L))).begun (compareForm w ok lat m a b) s h rfl
  unfold compareOp
  refine (leads_done _ _ s _ h (allowed_compareForm w ok lat m a b s hok hm ha hb) rfl (.inr active) ?_ log free whole).congr ?_
  · simp only [State.compare, active_begun, disagree_begun, agree, if_true, bits]
    rfl
  · change (State.wordDone _ (State.vpopped [a, b] _)).timeless = _
    apply wordDone_congr
    rw [State.vpopped, popChans_timeless, same, ← popChans_timeless]
    rfl

theorem code_cases (c : BitVec 3) (hc : c.toNat ≤ 5) : c = 0 ∨ c = 1 ∨ c = 2 ∨ c = 3 ∨ c = 4 ∨ c = 5 := by
  revert c
  decide

theorem saysVectorCompares : SaysVectorCompares := by
  intro c m a b s h _ hm ha hb active agree gives
  refine ⟨fun hc => ?_, fun hc => ?_⟩
  · simp only [gives, exec_vcmp]
    refine compareOp_leads _ _ _ m a b (condPair c.toNat) _ s h (decide_eq_true hc) hm ha hb active agree (fun L => ?_)
    generalize el s a L = x, el s b L = y
    rcases code_cases c hc with rfl | rfl | rfl | rfl | rfl | rfl
    · rfl
    · exact (decide_not (p := x = y)).trans rfl
    · rfl
    · rfl
    · rfl
    · rfl
  · simp only [gives, exec_vfcmp]
    refine compareOp_leads _ _ _ m a b (fCond c) _ s h (decide_eq_true hc) hm ha hb active agree (fun L => ?_)
    generalize el s a L = x, el s b L = y
    rcases code_cases c (by omega) with rfl | rfl | rfl | rfl | rfl | rfl
    · simp [fCond, isNan32]
    · simp [fCond, isNan32]
    · simp [fCond, isNan32]
    · simp [fCond, isNan32]
    · simp [fCond, isNan32]
    · simp at hc

/-- 02 R54: a word that writes lanes to no vector register has, under an empty mask, no effect but the entries that it takes from channels. -/
theorem empty_leads (f : Form) (eff : State → Result) (s : State) (h : Ready s) (al : Allowed f s) (hf : f.hint = false) (hv : f.vector = true)
    (hb : f.badFmt = none) (hw : f.use.vw = []) (hsr : f.use.sr = []) (empty : s.active = 0) :
    Leads (issue f eff s) ((s.popChans f.use).wordDone (s.me.pc + 4)) := by
  have nothing : f.emptyMask (begun f s) = .done (begun f s) := by simp [Form.emptyMask, hb, Use.writeChans, hw]
  obtain ⟨log, free, whole, same⟩ := StrandEdit.id.begun f s h hsr
  refine ⟨_, issue_ready f eff s h al, ?_⟩
  rw [active_begun, if_pos ⟨hv, empty⟩, finish_done_leads f _ s _ hf nothing log free whole]
  apply wordDone_congr
  rw [popChans_timeless, same, ← popChans_timeless]

/-- A lane word that gives a scalar asks for its source and its destination. -/
theorem allowed_vecScalarForm (w : W32) (a : BitVec 7) (d : BitVec 6) (lat : Nat) (ok okProt : Bool) (s : State) (hok : ok = true)
    (hprot : okProt = true) (ha : VSrcOk s a) (hd : DstOk d) : Allowed (vecScalarForm w [a] [] [] [d] lat ok okProt) s :=
  allowed_vector _ s hok (fun _ => hprot) rfl rfl (by simp [vecScalarForm]) (by simpa [vecScalarForm] using hd) rfl rfl
    (by simpa [vecScalarForm] using ha) (by simp [vecScalarForm]) (by simp [vecScalarForm])

theorem lanesToScalar_empty (w : W32) (a : BitVec 7) (d : BitVec 6) (lat : Nat) (ok okProt : Bool) (mask : State → W32) (x : State → W64)
    (s : State) (h : Ready s) (hok : ok = true) (hprot : okProt = true) (ha : VSrcOk s a) (hd : DstOk d) (empty : s.active = 0) :
    Leads (lanesToScalar (vecScalarForm w [a] [] [] [d] lat ok okProt) d mask x s) ((s.vpopped [a]).wordDone (s.me.pc + 4)) :=
  empty_leads _ _ s h (allowed_vecScalarForm w a d lat ok okProt s hok hprot ha hd) rfl rfl rfl rfl rfl empty

theorem redOp_empty {α : Type} (w : W32) (a : BitVec 7) (d : BitVec 6) (g : W32 → α) (op : State → α → α → α) (out : α → W64)
    (s : State) (h : Ready s) (ha : VSrcOk s a) (hd : DstOk d) (empty : s.active = 0) :
    Leads (redOp w d a g op out s) ((s.vpopped [a]).wordDone (s.me.pc + 4)) :=
  lanesToScalar_empty _ a d _ _ _ _ _ s h rfl rfl ha hd empty

theorem compareOp_empty (w : W32) (ok : Bool) (lat : Nat) (m : BitVec 3) (a b : BitVec 7) (p : State → Nat → Bool) (s : State) (h : Ready s)
    (hok : ok = true) (hm : m ≠ 0) (ha : VSrcOk s a) (hb : VSrcOk s b) (empty : s.active = 0) :
    Leads (compareOp (compareForm w ok lat m a b) m p s) ((s.vpopped [a, b]).wordDone (s.me.pc + 4)) :=
  empty_leads _ _ s h (allowed_compareForm w ok lat m a b s hok hm ha hb) rfl rfl rfl rfl rfl empty

theorem saysEmptyMask : SaysEmptyMask := by
  intro c m a b d n s h _ hm ha hb hd empty hc hn
  constructor
  · simp only [List.forall_mem_cons, exec_vcmp, exec_vfcmp]
    exact ⟨compareOp_empty _ _ _ m a b _ s h (by simp; omega) hm ha hb empty, compareOp_empty _ _ _ m a b _ s h (by simpa using hc) hm ha hb empty,
      by simp⟩
  · simp only [List.forall_mem_cons]
    have reduces {α : Type} (w : W32) (g : W32 → α) (op : State → α → α → α) (out : α → W64) := redOp_empty w a d g op out s h ha hd empty
    exact ⟨reduces _ _ (fun _ x y => x + y) _, reduces _ id (fun _ => opMax 32) _, reduces _ id (fun _ => opMin 32) _,
      reduces _ id (fun _ => opMaxn 32) _, reduces _ id (fun s => fAdd (Rnd.ofCode s.me.rm.toNat)) _, reduces _ id (fun _ => fMax) _,
      lanesToScalar_empty _ a d 4 _ _ (fun _ => 1#32 <<< n.toNat) (fun s => (Vec.lane (s.vreg a) n.toNat).setWidth 64) s h
        (decide_eq_true (by omega)) (decide_eq_true hn) ha hd empty,
      List.forall_mem_nil _⟩

theorem saysProtectMismatch : SaysProtectMismatch := by
  intro c m a b s h _ hm ha hb active hc prot bad differs
  have al : Allowed (vcmpForm c m a b) s := allowed_compareForm _ _ 4 m a b s (decide_eq_true hc) hm ha hb
  have disagrees : s.disagree s.active = bad := by simp [State.disagree, prot, bad]
  refine ⟨begun (vcmpForm c m a b) s, vcmpForm c m a b, begun_bare_timeless _ s rfl, ?_⟩
  rw [exec_vcmp]
  unfold compareOp
  rw [issue_ready _ _ s h al, active_begun, if_neg (by rintro ⟨-, e⟩; exact active e)]
  simp only [State.compare, disagree_begun, disagrees, if_neg differs, finish]
  rw [State.writeGraftLog_nil _ (by rw [State.countIssue_graftLog, State.halt_graftLog, begun_graftLog, h.noLog])]

/-- Settles O16: a compare is its conditions under the active lanes, an empty mask leaves the channels alone to change, and a pair that
disagrees halts the strand before anything is written. -/
theorem maskedVector : Obligations.MaskedVector := ⟨saysVectorCompares, saysEmptyMask, saysProtectMismatch⟩

end Sys2Proof.Machine

namespace Sys2Proof.Machine

/-! ## What memory traffic leaves alone

A request at a home, a move of bytes between an L1 and the homes, a translation and a graft record change memory, caches, links and
measurement; they move no strand and no block. -/

/-- The time, the strands and the blocks. -/
def State.resident (s : State) : Nat × Strand × Block × List Strand × List Block := (s.now, s.me, s.blk, s.strands, s.blocks)

theorem State.me_of_resident {s t : State} (h : t.resident = s.resident) : t.me = s.me := congrArg (·.2.1) h
theorem State.blk_of_resident {s t : State} (h : t.resident = s.resident) : t.blk = s.blk := congrArg (·.2.2.1) h

@[simp] theorem resident_mapVd (n : Nat) (f : VDev → VDev) (s : State) : (s.mapVd n f).resident = s.resident := rfl
@[simp] theorem resident_count (vd ev n priv : Nat) (s : State) : (s.count vd ev n priv).resident = s.resident := rfl

@[simp] theorem resident_mapCoreOf (id : Nat) (f : Core → Core) (s : State) : (s.mapCoreOf id f).resident = s.resident := by
  unfold State.mapCoreOf
  (repeat' split) <;> rfl

@[simp] theorem resident_ite (c : Prop) [Decidable c] (s t : State) :
    (if c then s else t).resident = if c then s.resident else t.resident := apply_ite _ _ _ _

theorem resident_foldl {β : Type} (f : State → β → State) (h : ∀ s b, (f s b).resident = s.resident) (l : List β) (s : State) :
    (l.foldl f s).resident = s.resident := foldl_keeps State.resident f h l s

/-! ### Links -/

@[simp] theorem resident_sendFlit (a b : Nat) (s : State) : (s.sendFlit a b).resident = s.resident := by
  unfold State.sendFlit
  split
  · rfl
  · dsimp only
    split <;> rfl

@[simp] theorem resident_crossFrom (die : Nat) (out : Bool) (pas : List Nat) (s : State) : (s.crossFrom die out pas).resident = s.resident :=
  resident_foldl _ (fun s k => by simp) _ s

@[simp] theorem resident_crossLinks (core : Nat) (out : Bool) (pas : List Nat) (s : State) : (s.crossLinks core out pas).resident = s.resident :=
  resident_crossFrom _ out pas s

/-! ### Homes -/

@[simp] theorem resident_putSlice (l : SliceLine) (s : State) : (s.putSlice l).resident = s.resident := by
  unfold State.putSlice
  dsimp only
  split <;> rfl

@[simp] theorem resident_touchSlice (line : Nat) (s : State) : (s.touchSlice line).resident = s.resident := rfl
@[simp] theorem resident_storeSector (k : Nat) (bs : List Byte) (p : Bool) (s : State) : (s.storeSector k bs p).resident = s.resident := rfl
@[simp] theorem resident_graftEvent (r b : Nat) (f : GraftFault) (s : State) : (s.graftEvent r b f).resident = s.resident := rfl
@[simp] theorem resident_cleanLine (line : Nat) (s : State) : (s.cleanLine line).resident = s.resident := resident_putSlice _ s
@[simp] theorem resident_keepLines (o : List SliceLine) (ls : List Nat) (s : State) : (s.keepLines o ls).resident = s.resident := rfl

@[simp] theorem resident_fillLine (line : Nat) (mask : BitVec 4) (s : State) : (s.fillLine line mask).resident = s.resident := by
  unfold State.fillLine
  dsimp only
  split
  · rfl
  split
  · simp
  split
  · simp
  split
  · exact resident_foldl _ (fun s n => by simp) _ s
  split
  · exact resident_foldl _ (fun s n => by simp) _ s
  · rw [resident_graftEvent]
    exact resident_foldl _ (fun s n => by simp) _ s

@[simp] theorem resident_writeBackPlain (line : Nat) (s : State) : (s.writeBackPlain line).resident = s.resident := by
  unfold State.writeBackPlain
  rw [resident_cleanLine]
  exact resident_foldl _ (fun s n => by split <;> simp) _ s

@[simp] theorem resident_writeBackBlock (b : Binding) (v : GraftView) (start : Nat) (s : State) :
    ((s.writeBackBlock b v start).1).resident = s.resident := by
  have fill (l : List Nat) : (l.foldl (fun s n => s.fillLine n 15) s).resident = s.resident := resident_foldl _ (fun s n => by simp) _ s
  have cleaned (l : List Nat) (s : State) : (l.foldl (fun s n => s.cleanLine n) s).resident = s.resident :=
    resident_foldl _ (fun s n => by simp) _ s
  have coded (l : List Binding) (s : State) : { s with bindings := l }.resident = s.resident := rfl
  unfold State.writeBackBlock
  dsimp only
  split
  · rw [cleaned, coded, resident_foldl _ (fun s n => by simp), fill]
  split
  · rw [cleaned, coded]
    exact fill _
  · rw [resident_graftEvent, cleaned, coded, resident_foldl _ (fun s n => by simp), fill]

@[simp] theorem resident_writeBack (line : Nat) (s : State) : (s.writeBack line).resident = s.resident := by
  unfold State.writeBack
  split
  · simp
  · split <;> simp

@[simp] theorem resident_evictLine (line : Nat) (s : State) : (s.evictLine line).resident = s.resident := resident_writeBack line s

@[simp] theorem resident_sliceRoom (line : Nat) (s : State) : (s.sliceRoom line).resident = s.resident := by
  unfold State.sliceRoom
  split
  · rfl
  · split <;> simp

@[simp] theorem resident_fetchLine (line : Nat) (mask : BitVec 4) (s : State) : (s.fetchLine line mask).resident = s.resident := by
  unfold State.fetchLine
  rw [resident_touchSlice, resident_fillLine]
  exact resident_foldl _ (fun s n => by simp) _ s

@[simp] theorem resident_homeFetch (line : Nat) (mask : BitVec 4) (s : State) : (s.homeFetch line mask).resident = s.resident := by
  unfold State.homeFetch
  split <;> simp

@[simp] theorem resident_freeLine (line : Nat) (s : State) : (s.freeLine line).resident = s.resident := by
  unfold State.freeLine
  dsimp only
  split
  · rfl
  · exact resident_foldl _ (fun s k => by split <;> rfl) _ _

@[simp] theorem resident_countRead (line use : Nat) (free : Bool) (s : State) : (s.countRead line use free).resident = s.resident := by
  unfold State.countRead
  dsimp only
  (repeat' split) <;> simp

@[simp] theorem resident_homePut (line : Nat) (cells : List Host.Cell) (use : Nat) (free : Bool) (s : State) :
    (s.homePut line cells use free).resident = s.resident := by
  unfold State.homePut
  dsimp only
  split
  · simp
  · rfl

@[simp] theorem resident_homeWriteBytes (pa : Nat) (bs : List Byte) (s : State) : (s.homeWriteBytes pa bs).resident = s.resident :=
  resident_foldl _ (fun s k => by simp) _ s

@[simp] theorem resident_poisonHome (line : Nat) (ks : List Nat) (s : State) : (s.poisonHome line ks).resident = s.resident :=
  resident_foldl _ (fun s k => by
    split
    · simp
    · rfl) _ s

/-! ### The L1 -/

@[simp] theorem resident_l1WriteBack (core : Nat) (p : Nat → Bool) (s : State) : (s.l1WriteBack core p).resident = s.resident := by
  have lines (f : State → Nat → State) (h : ∀ s n, (f s n).resident = s.resident) (l : List Nat) := resident_foldl f h l s
  unfold State.l1WriteBack
  dsimp only
  split
  · exact lines _ (fun s n => by simp) _
  · rw [resident_crossLinks, resident_mapCoreOf]
    exact lines _ (fun s n => by simp) _

@[simp] theorem resident_l1Expel (core : Nat) (p : Nat → Bool) (s : State) : (s.l1Expel core p).resident = s.resident := by
  simp [State.l1Expel]

@[simp] theorem resident_l1Room (core line : Nat) (s : State) : (s.l1Room core line).resident = s.resident := by
  unfold State.l1Room
  dsimp only
  split
  · rfl
  · split <;> simp

@[simp] theorem resident_l1Touch (core : Nat) (lines : List Nat) (s : State) : (s.l1Touch core lines).resident = s.resident :=
  resident_mapCoreOf core _ s

@[simp] theorem resident_l1Fill (core line : Nat) (mask : BitVec 4) (use : Nat) (free keep : Bool) (s : State) :
    (s.l1Fill core line mask use free keep).resident = s.resident := by
  cases keep <;> simp [State.l1Fill]

@[simp] theorem resident_readLine (line : Nat) (s : State) : (s.readLine line).2.2.2.resident = s.resident := by
  simp [State.readLine]

/-! ### Graft records (21 R346) -/

@[simp] theorem resident_ringNotice (vd : Nat) (event dropping : Bool) (head : Nat) (s : State) :
    (s.ringNotice vd event dropping head).resident = s.resident := by
  unfold State.ringNotice
  split
  · rfl
  · split <;> simp

@[simp] theorem resident_ringDrop (vd : Nat) (event : Bool) (n : Nat) (s : State) : (s.ringDrop vd event n).resident = s.resident := by
  unfold State.ringDrop
  split
  · rfl
  · dsimp only
    split <;> split <;> simp

@[simp] theorem resident_ringWrite (vd : Nat) (event : Bool) (bs : List Byte) (s : State) : (s.ringWrite vd event bs).resident = s.resident := by
  unfold State.ringWrite
  split
  · rfl
  dsimp only
  split
  · rfl
  split
  · simp
  split
  · simp
  split
  · split <;> simp
  · simp

@[simp] theorem resident_event (vd engine status place dur : Nat) (body : List Byte) (s : State) :
    (s.event vd engine status place dur body).resident = s.resident := by
  unfold State.event
  split
  · split <;> simp
  · rfl

@[simp] theorem resident_writeGraftLog (s : State) : s.writeGraftLog.resident = s.resident :=
  resident_foldl _ (fun s e => by simp) _ _

end Sys2Proof.Machine

namespace Sys2Proof.Machine

/-! ## What a translation leaves alone (19 R319, R320)

It changes the translation and walk caches and their clock, and what the links carry; nothing else. -/

/-- A state without its translation caches, its links, what is due and its counter of free values. -/
def State.untranslated (s : State) : State :=
  { s with tlb := [], walks := [], uses := 0, links := State.reset.links, agenda := [], free := 0 }

theorem untranslated_sendFlit (a b : Nat) (s : State) : (s.sendFlit a b).untranslated = s.untranslated := by
  unfold State.sendFlit
  split
  · rfl
  · dsimp only
    split <;> rfl

theorem untranslated_crossReads (die : Nat) (reads : List Nat) (s : State) : (s.crossReads die reads).untranslated = s.untranslated :=
  foldl_keeps State.untranslated _ (fun s _ => untranslated_sendFlit _ _ s) reads s

theorem untranslated_fillTlb (places : List TreeNode) (e : TlbEntry) (s : State) : (s.fillTlb places e).untranslated = s.untranslated :=
  foldl_keeps State.untranslated (fun s p => { s with tlb := keepTlb s.uses s.tlb { e with place := p }, uses := s.uses + 1 })
    (fun _ _ => rfl) places s

theorem untranslated_keepWalks (es : List WalkEntry) (s : State) : (s.keepWalks es).untranslated = s.untranslated :=
  foldl_keeps State.untranslated (fun s e => { s with walks := keepWalk s.uses s.walks e, uses := s.uses + 1 }) (fun _ _ => rfl) es s

theorem untranslated_useTlb (places : List TreeNode) (fabric : Bool) (vd : Nat) (hyper : Bool) (va : Nat) (e : TlbEntry) (s : State) :
    (s.useTlb places fabric vd hyper va e).untranslated = s.untranslated := untranslated_fillTlb _ e _

theorem untranslated_dropBad (places : List TreeNode) (fabric : Bool) (vd : Nat) (hyper : Bool) (va : Nat) (s : State) :
    (s.dropBad places fabric vd hyper va).untranslated = s.untranslated := rfl

theorem untranslated_translate (core vd priv : Nat) (acc : Acc) (va : W64) (s : State) :
    (s.translate core vd priv acc va).2.untranslated = s.untranslated := by
  unfold State.translate
  split
  · rfl
  unfold State.translateAt
  dsimp only
  split
  · rw [untranslated_useTlb, untranslated_dropBad]
  split
  · rfl
  split
  · split
    · rw [untranslated_keepWalks, untranslated_fillTlb, untranslated_crossReads, untranslated_dropBad]
    · rw [untranslated_crossReads, untranslated_dropBad]
  · rw [untranslated_crossReads, untranslated_dropBad]

section
variable {s t : State} (h : t.untranslated = s.untranslated)
include h

theorem me_of_untranslated : t.me = s.me := show t.untranslated.me = s.untranslated.me by rw [h]
theorem blk_of_untranslated : t.blk = s.blk := show t.untranslated.blk = s.untranslated.blk by rw [h]
theorem core_of_untranslated : t.core = s.core := show t.untranslated.core = s.untranslated.core by rw [h]
theorem vds_of_untranslated : t.vds = s.vds := show t.untranslated.vds = s.untranslated.vds by rw [h]
theorem stage2_of_untranslated : t.stage2 = s.stage2 := show t.untranslated.stage2 = s.untranslated.stage2 by rw [h]
theorem graftLog_of_untranslated : t.graftLog = s.graftLog := show t.untranslated.graftLog = s.untranslated.graftLog by rw [h]
theorem resident_of_untranslated : t.resident = s.resident := show t.untranslated.resident = s.untranslated.resident by rw [h]

end

/-! ## Hits and misses (19 R317, R319) -/

theorem slice_canonical (ea : W64) (h : ea.toNat < 2 ^ 56) : slice ea 63 56 = 0 := by
  unfold slice
  rw [Nat.div_eq_of_lt h, Nat.zero_mod]

/-- Where no entry that answers holds an error, none is dropped. -/
theorem dropBad_eq (places : List TreeNode) (fabric : Bool) (vd : Nat) (hyper : Bool) (va : Nat) (s : State)
    (sound : ∀ e ∈ s.tlb, ∀ p ∈ places, e.answers p fabric vd hyper va = true → e.bad = false) :
    s.dropBad places fabric vd hyper va = s := by
  have keeps : s.tlb.filter (fun e => !(e.bad && places.any (fun p => e.answers p fabric vd hyper va))) = s.tlb := by
    rw [List.filter_eq_self]
    intro e he
    by_cases bad : e.bad = true
    · have none : places.any (fun p => e.answers p fabric vd hyper va) = false := by
        rw [List.any_eq_false]
        intro p hp answers
        rw [sound e he p hp answers] at bad
        cases bad
      simp [none]
    · simp [bad]
  unfold State.dropBad
  rw [keeps]

/-- 19 R319: an address that the core's TLB holds, with its permission, is translated. -/
theorem translate_mapped (s : State) (acc : Acc) (ea : W64) (pa : Nat) (mapped : Mapped s acc ea pa) :
    ∃ e : TlbEntry, (s.translate s.blk.core s.blk.vd s.me.priv acc ea).1 = .ok e ∧ e.raw = false ∧ pa = e.addr ea.toNat := by
  obtain ⟨low, sound, e, found, permits, plain, leads⟩ := mapped
  have hit : s.tlbHit (corePlaces s.blk.core) false s.blk.vd (decide (s.me.priv = 2)) ea.toNat = some e := by
    have whole : s.tlb.find? (fun e => e.answers (.core s.blk.core) false s.blk.vd (decide (s.me.priv = 2)) ea.toNat && !e.bad) = some e := by
      rw [← found]
      apply List.find?_congr
      intro e he
      by_cases answers : e.answers (.core s.blk.core) false s.blk.vd (decide (s.me.priv = 2)) ea.toNat = true
      · simp [answers, sound e he _ (List.mem_cons_self ..) answers]
      · simp [answers]
    simp [State.tlbHit, corePlaces, whole]
  refine ⟨e, ?_, plain, leads⟩
  unfold State.translate State.translateAt
  rw [if_neg (by simp [slice_canonical ea low])]
  dsimp only
  rw [dropBad_eq _ _ _ _ _ s sound]
  simp only [hit, permits, if_true]

/-- 19 R319: an address that no cache answers for is walked; a walk that gives no leaf, and that no link holds, is the answer. -/
theorem translate_walk (s : State) (acc : Acc) (ea : W64) (x : Xlat) (log : WalkLog) (uncached : Uncached s ea)
    (walk : s.walkPath (.core s.blk.core) false s.blk.vd false acc ea.toNat = (x, log))
    (free : s.readsHeld (coreDie s.blk.core) log.reads = false) (leafless : ∀ e, x ≠ .ok e) :
    (s.translate s.blk.core s.blk.vd s.me.priv acc ea).1 = x := by
  obtain ⟨low, guest, -, silent⟩ := uncached
  have none : s.tlbHit (corePlaces s.blk.core) false s.blk.vd false ea.toNat = none := by
    rw [State.tlbHit, List.findSome?_eq_none_iff]
    intro p hp
    rw [List.find?_eq_none]
    intro e he
    simp [silent e he p hp]
  unfold State.translate State.translateAt
  rw [if_neg (by simp [slice_canonical ea low])]
  dsimp only
  rw [decide_eq_false guest, dropBad_eq _ _ _ _ _ s (fun e he p hp answers => by simp [silent e he p hp] at answers), none]
  simp only [corePlaces, List.headD_cons, walk, TreeNode.walkDie, free]
  cases x with
  | ok e => exact absurd rfl (leafless e)
  | held => rfl
  | fail c => rfl
  | miss stage2 page code => rfl

/-- The lowest bit of bytes read as a doubleword is that of the first byte. -/
theorem bit_zero_bytesNat (b : Byte) (bs : List Byte) : bit (BitVec.ofNat 64 (bytesNat (b :: bs))) 0 = bit b 0 := by
  simp only [bit_eq, bytesNat, BitVec.getLsbD_ofNat, Nat.testBit_zero]
  have : (b.toNat + 256 * bytesNat bs) % 2 = b.toNat % 2 := by omega
  rw [this]
  simp [BitVec.getLsbD, Nat.testBit_zero]

theorem cachedWalk_none (s : State) (ea : W64) (uncached : Uncached s ea) (tag : WalkTag) (mine : tag.vd = s.blk.vd) (level input : Nat) :
    s.cachedWalk tag level input = none := by
  obtain ⟨-, -, foreign, -⟩ := uncached
  rw [State.cachedWalk, List.find?_eq_none]
  intro e he
  simp [mine, foreign e he]

theorem entryOk_invalid (stage2 : Bool) (level : Nat) (e : W64) (invalid : bit e 0 = false) : entryOk stage2 level e = false := by
  unfold entryOk
  rw [invalid]
  rfl

/-- 19 R317: a walk whose first entry is not valid misses. -/
theorem walkFrom_invalid (s : State) (tag : WalkTag) (input : Nat) (table : Nat → Walk × WalkLog) (root : Nat) (l : Leaf) (log : WalkLog)
    (cold : s.cachedWalk tag 4 input = none) (leaf : table root = (.leaf l, log))
    (invalid : bit (s.plainByte (l.oa + 8 * (input / 2 ^ 48 % 256))) 0 = false) :
    walkFrom s tag input table levels root
      = (.miss, log.and { entries := [], reads := [l.oa + 8 * (input / 2 ^ 48 % 256)] }) := by
  have bad : entryOk tag.stage2 4 (BitVec.ofNat 64 (bytesNat (s.plainRead (l.oa + 8 * (input / 2 ^ 48 % 256)) 8))) = false :=
    entryOk_invalid _ _ _ ((bit_zero_bytesNat _ _).trans invalid)
  rw [levels, walkFrom, cold]
  dsimp only
  rw [leaf]
  dsimp only
  exact if_neg (ne_true_of_eq_false bad)

/-- 19 R314: a walk whose first table has no place misses at stage 2. -/
theorem walkFrom_tableMiss (s : State) (tag : WalkTag) (input : Nat) (table : Nat → Walk × WalkLog) (root ipa : Nat) (log : WalkLog)
    (cold : s.cachedWalk tag 4 input = none) (miss : table root = (.tableMiss ipa, log)) :
    walkFrom s tag input table levels root = (.tableMiss ipa, log) := by
  rw [levels, walkFrom]
  simp only [cold, miss]

theorem guestTable_beyond (s : State) (die : Nat) (v : VDev) (ipa : Nat) (beyond : v.ipalim.toNat ≤ ipa) :
    s.guestTable die v ipa = (.tableMiss ipa, .none) := by
  simp [State.guestTable, State.walkStage2, beyond]

/-- 19 R317, R321: the miss of a stage-1 root entry that is not valid. -/
theorem translate_rootInvalid (s : State) (acc : Acc) (ea : W64) (v : VDev) (l : Leaf) (log : WalkLog) (uncached : Uncached s ea)
    (dev : s.vd? s.blk.vd = some v) (root : s.guestTable (coreDie s.blk.core) v v.s1root.toNat = (.leaf l, log))
    (invalid : bit (s.plainByte (l.oa + 8 * (ea.toNat / 2 ^ 48 % 256))) 0 = false)
    (free : s.readsHeld (coreDie s.blk.core) (log.reads ++ [l.oa + 8 * (ea.toNat / 2 ^ 48 % 256)]) = false) :
    (s.translate s.blk.core s.blk.vd s.me.priv acc ea).1 = .miss false (ea.toNat / 4096) acc.code := by
  have walk := walkFrom_invalid s { die := coreDie s.blk.core, stage2 := false, vd := s.blk.vd, hyper := false } ea.toNat
    (s.guestTable (coreDie s.blk.core) v) v.s1root.toNat l log (cachedWalk_none s ea uncached _ rfl _ _) root invalid
  refine translate_walk s acc ea _ (log.and { entries := [], reads := [l.oa + 8 * (ea.toNat / 2 ^ 48 % 256)] }).failed uncached ?_ free
    (fun _ => Xlat.noConfusion)
  unfold State.walkPath
  rw [if_neg Bool.false_ne_true, dev]
  dsimp only [TreeNode.walkDie]
  rw [walk]

/-- 19 R314, R321: the miss of a stage-1 root table beyond the device's limit. -/
theorem translate_rootBeyond (s : State) (acc : Acc) (ea : W64) (v : VDev) (uncached : Uncached s ea)
    (dev : s.vd? s.blk.vd = some v) (beyond : v.ipalim.toNat ≤ v.s1root.toNat) :
    (s.translate s.blk.core s.blk.vd s.me.priv acc ea).1 = .miss true (v.s1root.toNat / 4096) 0 := by
  have walk := walkFrom_tableMiss s { die := coreDie s.blk.core, stage2 := false, vd := s.blk.vd, hyper := false } ea.toNat
    (s.guestTable (coreDie s.blk.core) v) v.s1root.toNat v.s1root.toNat .none (cachedWalk_none s ea uncached _ rfl _ _)
    (guestTable_beyond _ _ _ _ beyond)
  refine translate_walk s acc ea _ WalkLog.none.failed uncached ?_ rfl (fun _ => Xlat.noConfusion)
  unfold State.walkPath
  rw [if_neg Bool.false_ne_true, dev]
  dsimp only [TreeNode.walkDie]
  rw [walk]

end Sys2Proof.Machine

namespace Sys2Proof.Machine

/-! ## What comes to a strand by time alone (02 R47, R55; 03 R74, R75; 17 R298; 19 R329; 21 R349) -/

/-- A step that leaves no graft record is its effect. -/
theorem stepOf_eq (f : State → State) (s : State) (h : (f s).graftLog = []) : stepOf f s = .next (f s) := by
  unfold stepOf
  rw [State.writeGraftLog_nil _ h]

theorem updIf_none {α : Type} (p : α → Bool) (f : α → α) (l : List α) (h : ∀ x ∈ l, p x = false) : updIf p f l = l := by
  unfold updIf
  rw [List.map_congr_left (g := id) (fun x hx => by rw [if_neg (by simp [h x hx])]; rfl), List.map_id]

/-- An update that keeps the test changes the first member that the test finds. -/
theorem find?_updIf {α : Type} (p : α → Bool) (f : α → α) (keeps : ∀ x, p x = true → p (f x) = true) (l : List α) :
    (updIf p f l).find? p = (l.find? p).map f := by
  induction l with
  | nil => rfl
  | cons x xs ih =>
    by_cases h : p x = true
    · simp [updIf, h, keeps x h]
    · simp only [updIf, List.map_cons, if_neg h, List.find?_cons_of_neg h]
      exact ih

theorem State.vd?_mapVd (n : Nat) (f : VDev → VDev) (s : State) (keeps : ∀ v, (f v).num = v.num) : (s.mapVd n f).vd? n = (s.vd? n).map f :=
  find?_updIf _ _ (fun v h => by rw [beq_iff_eq] at h ⊢; rw [keeps, h]) s.vds

theorem State.vd?_dueOnce (dt : Nat) (ev : Instr) (n : Nat) (s : State) : (s.dueOnce dt ev).vd? n = s.vd? n := by
  unfold State.vd?
  rw [State.dueOnce_vds]

theorem State.strand?_me (s : State) (k : Nat) (mine : s.me.id = k) : s.strand? k = some s.me := if_pos mine

theorem State.block?_blk (s : State) (k : Nat) (mine : s.blk.id = k) : s.block? k = some s.blk := if_pos mine

/-- An update of the strand in the focus, where no other listed strand has its identity. -/
theorem State.mapStrand_me_eq (s : State) (k : Nat) (f : Strand → Strand) (mine : s.me.id = k) (alone : ∀ t ∈ s.strands, t.id ≠ k) :
    s.mapStrand k f = s.mapMe f := by
  unfold State.mapStrand State.mapStrands State.mapMe
  rw [updIf_none _ _ _ (fun t ht => beq_eq_false_iff_ne.mpr (alone t ht)), if_pos (beq_iff_eq.mpr mine)]

/-- The focus on the strand that has it already. -/
theorem State.focus_self (s : State) (k : Nat) (focused : Focused s) (mine : s.me.id = k) (block : s.me.block = s.blk.id) : s.focus k = s := by
  obtain ⟨core, -, -⟩ := focused
  unfold State.focus State.focusBlock
  rw [if_pos mine, block]
  dsimp only
  rw [if_pos rfl, if_pos core]

/-- 21 R349: the lowest match register that is enabled and holds PC fires. -/
theorem Strand.matchIndex_eq (t : Strand) (j : Nat) (m : Match) (unmasked : t.tmasked = false) (fresh : t.matched = false)
    (idle : t.issued = false) (reg : t.pcMatch[j]? = some m) (on : m.enable = true) (holds : m.addr = t.pc)
    (first : ∀ i < j, ∀ m', t.pcMatch[i]? = some m' → m'.enable = true → m'.addr ≠ t.pc) : t.matchIndex = some j := by
  have four : j < 4 := by
    by_contra beyond
    rw [Vector.getElem?_eq_none (by omega)] at reg
    cases reg
  unfold Strand.matchIndex
  rw [if_neg (by simp [unmasked, fresh, idle]), List.find?_range_eq_some]
  refine ⟨by simp [reg, on, holds], List.mem_range.mpr four, fun i hi => ?_⟩
  cases h : t.pcMatch[i]? with
  | none => rfl
  | some m' => simpa [Decidable.imp_iff_not_or] using first i hi m' h

theorem State.breakpoint_graftLog (tval resume : W64) (matched : Bool) (s : State) : (s.breakpoint tval resume matched).graftLog = s.graftLog := by
  unfold State.breakpoint
  split
  · rw [State.dueOnce_graftLog]; rfl
  · exact State.takeTrap_graftLog _ _

/-- 02 R47: an entry of the mask stack stands beside the issue logic again. -/
theorem refilled_near (t : Strand) : Nat.max t.near (Nat.min t.stack.length 1) = if t.near = 0 ∧ t.stack ≠ [] then 1 else t.near := by
  cases t.stack with
  | nil => simp
  | cons e es =>
    rw [show Nat.min (e :: es).length 1 = 1 from Nat.min_eq_right (by simp)]
    split
    next h => rw [h.1]; rfl
    next h => exact Nat.max_eq_left (by simp at h; omega)

theorem exec_pcMatch (s : State) (k j : Nat) (m : Match) (log : s.graftLog = []) (focused : Focused s) (mine : s.me.id = k)
    (block : s.me.block = s.blk.id) (unmasked : s.me.tmasked = false) (fresh : s.me.matched = false) (idle : s.me.issued = false)
    (reg : s.me.pcMatch[j]? = some m) (on : m.enable = true) (holds : m.addr = s.me.pc)
    (first : ∀ i < j, ∀ m', s.me.pcMatch[i]? = some m' → m'.enable = true → m'.addr ≠ s.me.pc) (debug : s.blk.debug = false) :
    exec (.pcMatch k) s =
      .next (s.takeTrap { cause := .breakpoint, tval := BitVec.ofNat 64 (0x100000 + j), lanes := s.me.visible, taddr := 0 }) := by
  have fires := s.me.matchIndex_eq j m unmasked fresh idle reg on holds first
  change execPcMatch k s = _
  unfold execPcMatch stepOf
  dsimp only
  rw [s.focus_self k focused mine block, fires]
  dsimp only
  rw [if_pos mine, State.writeGraftLog_nil _ (by rw [State.breakpoint_graftLog, log])]
  unfold State.breakpoint
  rw [if_neg (by simp [debug])]
  rfl

theorem exec_maskoverrun (s : State) (k : Nat) (log : s.graftLog = []) (mine : s.me.id = k) (block : s.me.block = s.blk.id)
    (stopping : s.blk.phase = .stopping) (masked : s.me.tmasked = true) (running : s.me.run = .running) (alone : ∀ t ∈ s.strands, t.id ≠ k)
    (late : s.blk.stopAt + 2 ^ 20 * acTicks ≤ s.now) :
    exec (.maskoverrun k) s = .next ((s.mapMe (fun t => { t with overrun := true })).postFault s.blk.vd
      [recordWord (s.placeOf s.blk.vd s.blk.core) s.blk.index 0 2 0x80, BitVec.ofNat 64 (s.me.slot % 32), s.me.tpc]) := by
  have effect : s.maskOverrun k = (s.mapMe (fun t => { t with overrun := true })).postFault s.blk.vd
      [recordWord (s.placeOf s.blk.vd s.blk.core) s.blk.index 0 2 0x80, BitVec.ofNat 64 (s.me.slot % 32), s.me.tpc] := by
    unfold State.maskOverrun
    rw [s.strand?_me k mine]
    dsimp only
    rw [s.block?_blk _ block.symm]
    dsimp only
    rw [if_neg (by simp [stopping, masked, running]), if_neg (Nat.not_lt.mpr late), s.mapStrand_me_eq k _ mine alone]
  change stepOf (fun s => s.maskOverrun k) s = _
  rw [stepOf_eq _ _ (by rw [effect, State.postFault_graftLog]; exact log), effect]

theorem exec_faultRecordPush (s : State) (k : Nat) (v : VDev) (r : List W64) (rest : List (List W64)) (log : s.graftLog = [])
    (dev : s.vd? k = some v) (held : v.heldFaults = r :: rest) :
    Happens (.faultRecordPush k) s (fun t => t.vd? k = some (if v.faultQ.length + r.length ≤ 256
      then { v with faultQ := v.faultQ ++ r, heldFaults := rest } else v) ∧ t.me = s.me ∧ t.blk = s.blk) := by
  have pushed : s.pushFaults k = if 256 < v.faultQ.length + r.length then s else
      let s1 := s.mapVd k (fun v => { v with faultQ := v.faultQ ++ r, heldFaults := rest })
      if rest = [] then s1 else s1.dueOnce 0 (.faultRecordPush k) := by
    unfold State.pushFaults
    rw [dev]
    dsimp only
    rw [held]
  have entered := s.vd?_mapVd k (fun v => { v with faultQ := v.faultQ ++ r, heldFaults := rest }) (fun _ => rfl)
  rw [dev] at entered
  by_cases fits : v.faultQ.length + r.length ≤ 256
  · rw [if_neg (Nat.not_lt.mpr fits)] at pushed
    rw [if_pos fits]
    by_cases last : rest = []
    · rw [if_pos last] at pushed
      exact ⟨_, stepOf_eq _ _ (by rw [pushed]; exact log), by rw [pushed]; exact ⟨entered, rfl, rfl⟩⟩
    · rw [if_neg last] at pushed
      refine ⟨_, stepOf_eq _ _ (by rw [pushed, State.dueOnce_graftLog]; exact log), ?_⟩
      rw [pushed]
      exact ⟨(State.vd?_dueOnce ..).trans entered, State.dueOnce_me .., State.dueOnce_blk ..⟩
  · rw [if_pos (Nat.lt_of_not_le fits)] at pushed
    rw [if_neg fits]
    exact ⟨_, stepOf_eq _ _ (by rw [pushed]; exact log), by rw [pushed]; exact ⟨dev, rfl, rfl⟩⟩

theorem saysStrandTimes : SaysStrandTimes := by
  intro s k log
  refine ⟨stepOf_eq _ s log, stepOf_eq _ s log, ?_, ?_, ?_, ?_⟩
  · refine (stepOf_eq _ s log).trans (congrArg Host.Outcome.next ?_)
    exact congrArg (fun f => s.mapStrand k f) (funext fun t => by rw [refilled_near])
  · intro j m focused mine block unmasked fresh idle reg on holds first debug
    exact exec_pcMatch s k j m log focused mine block unmasked fresh idle reg on holds first debug
  · intro mine block stopping masked running alone late
    exact exec_maskoverrun s k log mine block stopping masked running alone late
  · intro v r rest dev _ held
    exact exec_faultRecordPush s k v r rest log dev held

end Sys2Proof.Machine

namespace Sys2Proof.Machine

/-! ## Barrier phases that time out (07 R145; 11 R201) -/

theorem getElem?_updAt {α : Type} (l : List α) (n j : Nat) (f : α → α) :
    (updAt l n f)[j]? = if j = n then (l[j]?).map f else l[j]? := by
  induction l generalizing n j with
  | nil => cases n <;> simp [updAt]
  | cons x xs ih =>
    cases n with
    | zero => cases j <;> simp [updAt]
    | succ n =>
      cases j with
      | zero => simp [updAt]
      | succ j => simp [updAt, ih]

/-- An update of the block in the focus, where no other listed block has its identity. -/
theorem State.mapBlock_blk_eq (s : State) (f : Block → Block) (alone : ∀ b ∈ s.blocks, b.id ≠ s.blk.id) :
    s.mapBlock s.blk.id f = s.mapBlk f := by
  unfold State.mapBlock State.mapBlocks State.mapBlk
  rw [updIf_none _ _ _ (fun b hb => beq_eq_false_iff_ne.mpr (alone b hb)), if_pos (beq_iff_eq.mpr rfl)]

/-- A strand that is absent has not arrived. -/
theorem all_of_absent (s : State) (b : Block) (here : Strand → Bool) (missing : absent s b here ≠ []) :
    (s.strandsOf b.id).all (fun t => here t || decide (t.run = .exited) || t.handler) = false := by
  obtain ⟨t, ht⟩ := List.exists_mem_of_ne_nil _ missing
  obtain ⟨listed, away⟩ := List.mem_filter.mp ht
  rw [List.all_eq_false]
  refine ⟨t, listed, ?_⟩
  simp only [Bool.and_eq_true, Bool.not_eq_true', decide_eq_true_eq] at away
  obtain ⟨⟨running, guest⟩, gone⟩ := away
  simp [running, guest, gone]

theorem State.endBlockPhase_eq (s : State) (k : Nat) (r : Barrier) (t0 : Nat) (reg : s.blk.barriers[k]? = some r) (first : r.firstAt = some t0)
    (runs : s.clockRuns s.blk = true) (late : t0 + s.blk.timeout * acTicks ≤ s.now)
    (missing : absent s s.blk (fun t => r.arrived.contains t.slot) ≠ []) :
    s.endBlockPhase s.blk.id k =
      (s.mapBlock s.blk.id (fun b => updBarrier b k (fun r => { r with arrived := [], firstAt := none, timedOut := r.timedOut ++ r.arrived }))).postFault
        s.blk.vd (timeoutHead s s.blk k (absent s s.blk (fun t => r.arrived.contains t.slot)).length 0x83 ::
          missingWords (absent s s.blk (fun t => r.arrived.contains t.slot))) := by
  have unsettled : ¬(¬s.clockRuns s.blk = true ∨ s.allArrived s.blk.id r = true) := by
    have held : s.allArrived s.blk.id r = false := all_of_absent s s.blk _ missing
    simp [runs, held]
  unfold State.endBlockPhase
  rw [s.block?_blk _ rfl]
  dsimp only
  rw [reg]
  dsimp only
  rw [first]
  dsimp only
  rw [if_neg unsettled, if_neg (Nat.not_lt.mpr late)]
  rfl

theorem exec_blockBarrierTimeout (s : State) (k : Nat) (r : Barrier) (t0 : Nat) (log : s.graftLog = [])
    (alone : ∀ b ∈ s.blocks, b.id ≠ s.blk.id) (reg : s.blk.barriers[k]? = some r) (first : r.firstAt = some t0)
    (runs : s.clockRuns s.blk = true) (late : t0 + s.blk.timeout * acTicks ≤ s.now)
    (missing : absent s s.blk (fun t => r.arrived.contains t.slot) ≠ []) :
    Happens (.blockBarrierTimeout s.blk.id k) s (fun t =>
      t.blk.barriers[k]? = some { r with arrived := [], firstAt := none, timedOut := r.timedOut ++ r.arrived } ∧
      (∀ j, j ≠ k → t.blk.barriers[j]? = s.blk.barriers[j]?) ∧ t.me = s.me ∧ t.strands = s.strands ∧
      t.vds = (s.postFault s.blk.vd (timeoutHead s s.blk k (absent s s.blk (fun t => r.arrived.contains t.slot)).length 0x83 ::
        missingWords (absent s s.blk (fun t => r.arrived.contains t.slot)))).vds) := by
  have effect := s.endBlockPhase_eq k r t0 reg first runs late missing
  rw [s.mapBlock_blk_eq _ alone] at effect
  refine ⟨_, stepOf_eq _ s (by rw [effect]; exact log), ?_⟩
  rw [effect]
  refine ⟨(getElem?_updAt _ k k _).trans ?_, fun j hj => (getElem?_updAt _ k j _).trans (if_neg hj), rfl, rfl, rfl⟩
  rw [if_pos rfl, reg]
  rfl

/-! ### The cluster's barrier -/

theorem State.groupBar_mapGroupBar (s : State) (group : Nat) (g : GroupBarrier) (f : GroupBarrier → GroupBarrier)
    (keeps : ∀ g, (f g).group = g.group) (found : s.groupBars.find? (fun g => g.group == group) = some g) :
    (s.mapGroupBar group f).groupBars.find? (fun g => g.group == group) = some (f g) := by
  have listed : s.groupBars.any (fun g => g.group == group) = true :=
    List.any_eq_true.mpr ⟨g, List.mem_of_find?_eq_some found, List.find?_some (p := fun g : GroupBarrier => g.group == group) found⟩
  unfold State.mapGroupBar
  rw [if_pos listed]
  exact (find?_updIf _ f (fun g h => by rw [beq_iff_eq] at h ⊢; rw [keeps, h]) _).trans (by rw [found]; rfl)

/-- A state without its group barriers. -/
def State.ungrouped (s : State) : State := { s with groupBars := [] }

theorem ungrouped_mapGroupBar (group : Nat) (f : GroupBarrier → GroupBarrier) (s : State) : (s.mapGroupBar group f).ungrouped = s.ungrouped := by
  unfold State.mapGroupBar
  split <;> rfl

section
variable {s t : State} (h : t.ungrouped = s.ungrouped)
include h

theorem me_of_ungrouped : t.me = s.me := show t.ungrouped.me = s.ungrouped.me by rw [h]
theorem blk_of_ungrouped : t.blk = s.blk := show t.ungrouped.blk = s.ungrouped.blk by rw [h]
theorem vds_of_ungrouped : t.vds = s.vds := show t.ungrouped.vds = s.ungrouped.vds by rw [h]
theorem graftLog_of_ungrouped : t.graftLog = s.graftLog := show t.ungrouped.graftLog = s.ungrouped.graftLog by rw [h]
theorem strandsOf_of_ungrouped (b : Nat) : t.strandsOf b = s.strandsOf b := show t.ungrouped.strandsOf b = s.ungrouped.strandsOf b by rw [h]
theorem placeOf_of_ungrouped (vd core : Nat) : t.placeOf vd core = s.placeOf vd core :=
  show t.ungrouped.placeOf vd core = s.ungrouped.placeOf vd core by rw [h]

end

/-- The only block of a group. -/
theorem State.groupBlocks_alone (s : State) (listed : s.blk.id ≠ 0) (alone : ∀ b ∈ s.blocks, b.group ≠ s.blk.group) :
    s.groupBlocks s.blk.group = [s.blk] := by
  have others : s.blocks.filter (fun b => b.group == s.blk.group) = [] :=
    List.filter_eq_nil_iff.mpr (fun b hb => by simpa using alone b hb)
  simp [State.groupBlocks, State.allBlocks, listed, others]

theorem State.endClusterPhase_eq (s : State) (g : GroupBarrier) (t0 : Nat)
    (found : s.groupBars.find? (fun g => g.group == s.blk.group) = some g) (first : g.firstAt = some t0) (runs : s.clockRuns s.blk = true)
    (alone : ∀ b ∈ s.blocks, b.group ≠ s.blk.group) (listed : s.blk.id ≠ 0) (late : t0 + s.blk.timeout * acTicks ≤ s.now)
    (missing : absent s s.blk (fun t => g.arrived.contains t.id) ≠ []) :
    s.endClusterPhase s.blk.group =
      (s.mapGroupBar s.blk.group (fun g => { g with arrived := [], firstAt := none, timedOut := g.timedOut ++ g.arrived })).postFault
        s.blk.vd (timeoutHead s s.blk 0 (absent s s.blk (fun t => g.arrived.contains t.id)).length 0x84 ::
          missingWords (absent s s.blk (fun t => g.arrived.contains t.id))) := by
  have group : g.group = s.blk.group := by simpa using List.find?_some found
  have blocks := s.groupBlocks_alone listed alone
  have unsettled : ¬(¬[s.blk].all s.clockRuns = true ∨ s.groupArrived g = true) := by
    have strands : s.groupStrands g.group = s.strandsOf s.blk.id := by simp [State.groupStrands, group, blocks]
    have held : s.groupArrived g = false := by
      unfold State.groupArrived
      rw [strands]
      exact all_of_absent s s.blk _ missing
    simp [runs, held]
  have bar : s.groupBar s.blk.group = g := by rw [State.groupBar, found]; rfl
  unfold State.endClusterPhase
  rw [bar]
  dsimp only
  rw [first, blocks]
  dsimp only [List.head?_cons]
  rw [if_neg unsettled, if_neg (Nat.not_lt.mpr late)]
  generalize moved : s.mapGroupBar s.blk.group _ = s1
  have same : s1.ungrouped = s.ungrouped := by rw [← moved]; exact ungrouped_mapGroupBar ..
  simp only [List.foldl_cons, List.foldl_nil]
  rw [strandsOf_of_ungrouped same, placeOf_of_ungrouped same]
  exact if_neg missing

theorem exec_clusterBarrierTimeout (s : State) (g : GroupBarrier) (t0 : Nat) (log : s.graftLog = [])
    (found : s.groupBars.find? (fun g => g.group == s.blk.group) = some g) (first : g.firstAt = some t0) (runs : s.clockRuns s.blk = true)
    (alone : ∀ b ∈ s.blocks, b.group ≠ s.blk.group) (listed : s.blk.id ≠ 0) (late : t0 + s.blk.timeout * acTicks ≤ s.now)
    (missing : absent s s.blk (fun t => g.arrived.contains t.id) ≠ []) :
    Happens (.clusterBarrierTimeout s.blk.group) s (fun t =>
      t.groupBars.find? (fun g => g.group == s.blk.group) = some { g with arrived := [], firstAt := none, timedOut := g.timedOut ++ g.arrived } ∧
      t.me = s.me ∧ t.blk = s.blk ∧
      t.vds = (s.postFault s.blk.vd (timeoutHead s s.blk 0 (absent s s.blk (fun t => g.arrived.contains t.id)).length 0x84 ::
        missingWords (absent s s.blk (fun t => g.arrived.contains t.id)))).vds) := by
  have effect := s.endClusterPhase_eq g t0 found first runs alone listed late missing
  have ended := s.groupBar_mapGroupBar s.blk.group g (fun g => { g with arrived := [], firstAt := none, timedOut := g.timedOut ++ g.arrived })
    (fun _ => rfl) found
  have same := ungrouped_mapGroupBar s.blk.group (fun g => { g with arrived := [], firstAt := none, timedOut := g.timedOut ++ g.arrived }) s
  refine ⟨_, stepOf_eq _ s (by rw [effect, State.postFault_graftLog, graftLog_of_ungrouped same, log]), ?_⟩
  rw [effect]
  refine ⟨ended, (State.postFault_me ..).trans (me_of_ungrouped same), (State.postFault_blk ..).trans (blk_of_ungrouped same), ?_⟩
  unfold State.postFault State.mapVd
  rw [vds_of_ungrouped same]

theorem saysBarrierTimeouts : SaysBarrierTimeouts := by
  intro s log alone
  refine ⟨?_, ?_⟩
  · intro k r t0 reg first runs late missing
    exact exec_blockBarrierTimeout s k r t0 log alone reg first runs late missing
  · intro g t0 found first runs only _ listed late missing
    exact exec_clusterBarrierTimeout s g t0 log found first runs only listed late missing

end Sys2Proof.Machine

namespace Sys2Proof.Machine

/-! ## The fetch buffer (07 R378) -/

/-- What a line of the fetch buffer holds of the bytes that it was read with. -/
theorem get_cells_below (a k : Nat) (bs : List Byte) (below : k < a) : Memory.get ((cellsAt a bs).filter (fun c => c.2 != 0)) k = 0 := by
  induction bs generalizing a with
  | nil => rfl
  | cons b bs ih =>
    rw [cellsAt, List.filter_cons]
    split
    · rw [Memory.get, if_neg (by omega)]
      exact ih _ (by omega)
    · exact ih _ (by omega)

theorem get_cells (a j : Nat) (bs : List Byte) : Memory.get ((cellsAt a bs).filter (fun c => c.2 != 0)) (a + j) = bs[j]?.getD 0 := by
  induction bs generalizing a j with
  | nil => rfl
  | cons b bs ih =>
    rw [cellsAt, List.filter_cons]
    cases j with
    | zero =>
      split
      · rw [Memory.get, if_pos (by omega)]; rfl
      next zero =>
        rw [get_cells_below _ _ _ (by omega)]
        simpa using Eq.symm (by simpa using zero)
    | succ j =>
      have behind := ih (a + 1) j
      rw [show a + 1 + j = a + (j + 1) by omega] at behind
      split
      · rw [Memory.get, if_neg (by omega)]; exact behind
      · exact behind

/-- A fold that adds only what passes a test adds nothing where nothing passes. -/
theorem foldl_if_none {α β : Type} (p : β → Bool) (g : α → β → α) (l : List β) (x : α) (none : ∀ b ∈ l, p b = false) :
    l.foldl (fun x b => if p b then g x b else x) x = x := by
  induction l with
  | nil => rfl
  | cons b l ih =>
    rw [List.foldl_cons, if_neg (by simp [none b (List.mem_cons_self ..)])]
    exact ih (fun c hc => none c (List.mem_cons_of_mem _ hc))

theorem lackedBy_held (c : Core) (line : Nat) (held : ∀ k < 256, (c.look (line * 256 + k)).isSome = true) : lackedBy c line = [] := by
  unfold lackedBy
  rw [List.filter_eq_nil_iff]
  intro sector hs
  obtain ⟨k, hk, rfl⟩ := List.mem_map.mp hs
  rw [List.mem_range] at hk
  rw [Bool.not_eq_true, List.any_eq_false]
  intro j hj
  rw [List.mem_range] at hj
  have look := held (64 * k + j) (by omega)
  rw [show line * 256 + (64 * k + j) = (line * 4 + k) * 64 + j by omega] at look
  simpa [Option.isSome_iff_ne_none] using look

/-- 05 R103: a line that the L1 holds finds room. -/
theorem fetchRoom_held (s : State) (line : Nat) (held : InL1 s (line * 256) 256) : s.fetchRoom line = true := by
  unfold State.fetchRoom
  rw [lackedBy_held _ _ (fun k hk => (held k hk).1)]
  simp [State.missRoom, State.heldBack]

/-- 07 R378: a line that the L1 holds is read as it stands there, without a mark. -/
theorem readLine_held (s : State) (line : Nat) (held : InL1 s (line * 256) 256) :
    ∃ t, s.readLine line = ((List.range 256).map (fun k => (s.core.look (line * 256 + k)).getD 0), 0, 0, t) ∧ t.resident = s.resident := by
  have lacks := lackedBy_held s.core line (fun k hk => (held k hk).1)
  have sound : (List.range 4).foldl (fun (m : BitVec 4) k => if s.core.corrupt.contains (line * 4 + k) then m ||| (1#4 <<< k) else m) 0 = 0 := by
    apply foldl_if_none
    intro k hk
    rw [List.mem_range] at hk
    have whole := (held (64 * k) (by omega)).2
    rw [show (line * 256 + 64 * k) / 64 = line * 4 + k by omega] at whole
    simpa using whole
  have unmarked (f : Nat → Bool) : (List.range 4).foldl
      (fun (m : BitVec 4) k => if bit (0 : BitVec 4) k && f (line * 256 + k * 64) then m ||| (1#4 <<< k) else m) 0 = 0 :=
    foldl_if_none _ _ _ _ (fun k _ => by simp [bit_eq])
  have bytes : (List.range 256).map (fun k => (s.core.look (line * 256 + k)).getD (s.homeByte (line * 256 + k)))
      = (List.range 256).map (fun k => (s.core.look (line * 256 + k)).getD 0) := by
    apply List.map_congr_left
    intro k hk
    obtain ⟨b, hb⟩ := Option.isSome_iff_exists.mp (held k (List.mem_range.mp hk)).1
    rw [hb]
    rfl
  have none : sectorMask ([] : List Nat) line = 0 := rfl
  refine ⟨s.l1Touch s.blk.core [line], ?_, by simp⟩
  unfold State.readLine
  rw [lacks, none]
  dsimp only
  rw [if_pos rfl, if_pos rfl, unmarked, unmarked, bytes, sound]
  rfl

/-- 07 R378: the next line, where one is asked for, stands behind those of the buffer; the strand and its block stay else. -/
theorem fetchAhead_appends (va : Nat) (s : State) :
    ∃ r, (s.fetchAhead va).me = { s.me with fetch := s.me.fetch ++ r } ∧ (∀ f ∈ r, f.line = va / 256) ∧ (s.fetchAhead va).blk = s.blk := by
  have still : ∃ r, s.me = { s.me with fetch := s.me.fetch ++ r } ∧ (∀ f ∈ r, f.line = va / 256) ∧ s.blk = s.blk :=
    ⟨[], by rw [List.append_nil], fun _ hf => (List.not_mem_nil hf).elim, rfl⟩
  have kept := untranslated_translate s.blk.core s.blk.vd s.me.priv .exec (BitVec.ofNat 64 va) s
  unfold State.fetchAhead
  cases found : s.translate s.blk.core s.blk.vd s.me.priv .exec (BitVec.ofNat 64 va) with
  | mk x s1 =>
    rw [found] at kept
    cases x with
    | ok e =>
      dsimp only
      split
      · have read := resident_readLine (e.addr va / 256) s1
        have me := (State.me_of_resident read).trans (me_of_untranslated kept)
        have blk := (State.blk_of_resident read).trans (blk_of_untranslated kept)
        let line := s1.readLine (e.addr va / 256)
        refine ⟨[{ fetchCells va line.1 line.2.1 line.2.2.1 with
          ready := s1.now + s1.fetchTime (e.addr va / 256) * acTicks, entries := lackedBy s1.core (e.addr va / 256) }], ?_, ?_, blk⟩
        · unfold State.mapMe
          dsimp only
          rw [me]
        · intro f hf
          rw [List.mem_singleton.mp hf]
          rfl
      · rw [me_of_untranslated kept, blk_of_untranslated kept]
        exact still
    | held => exact still
    | fail c => exact still
    | miss stage2 page acc => exact still

/-- The fetch of the strand in the focus (07 R378). -/
theorem exec_fetchLineFill (s : State) (focused : Focused s) (block : s.me.block = s.blk.id) (running : s.me.run = .running)
    (idle : s.me.issued = false) : exec (.fetchLineFill s.me.id) s = .next s.fetchPc.writeGraftLog := by
  change execFetchLineFill s.me.id s = _
  unfold execFetchLineFill stepOf
  dsimp only
  rw [s.focus_self _ focused rfl block, if_pos ⟨rfl, running, idle⟩]

theorem me_writeGraftLog (s : State) : s.writeGraftLog.me = s.me := State.me_of_resident (resident_writeGraftLog s)
theorem blk_writeGraftLog (s : State) : s.writeGraftLog.blk = s.blk := State.blk_of_resident (resident_writeGraftLog s)

theorem bit_or (x y : BitVec 4) (k : Nat) : bit (x ||| y) k = (bit x k || bit y k) := by simp [bit_eq]

theorem fetch_held (s : State) (l : FetchLine) (focused : Focused s) (block : s.me.block = s.blk.id) (running : s.me.run = .running)
    (idle : s.me.issued = false) (found : s.me.fetch.find? (fun l => l.line == s.me.pc.toNat / 256) = some l) (there : l.ready ≤ s.now)
    (clean : bit (l.marks ||| l.poison) (s.me.pc.toNat / 64 % 4) = false) :
    Happens (.fetchLineFill s.me.id) s (fun t => ∃ r, t.me.fetch = l :: r ∧ (∀ f ∈ r, f.line = s.me.pc.toNat / 256 + 1) ∧
      t.me.pc = s.me.pc ∧ t.me.s = s.me.s ∧ t.me.v = s.me.v ∧ t.me.m = s.me.m ∧ t.blk = s.blk) := by
  rw [bit_or, Bool.or_eq_false_iff] at clean
  obtain ⟨unmarked, sound⟩ := clean
  have fetches : s.fetchPc = (s.mapMe (fun t => { t with fetch := [l] })).fetchAhead (s.me.pc.toNat / 256 * 256 + 256) := by
    unfold State.fetchPc
    rw [found]
    dsimp only
    rw [if_neg (Nat.not_lt.mpr there)]
    unfold State.fetchHeld
    dsimp only
    rw [if_neg (by simp [sound]), if_neg (by simp [unmarked])]
  obtain ⟨r, me, lines, blk⟩ := fetchAhead_appends (s.me.pc.toNat / 256 * 256 + 256) (s.mapMe (fun t => { t with fetch := [l] }))
  refine ⟨_, exec_fetchLineFill s focused block running idle, r, ?_⟩
  rw [me_writeGraftLog, blk_writeGraftLog, fetches, me, blk]
  exact ⟨rfl, fun f hf => by rw [lines f hf]; omega, rfl, rfl, rfl, rfl, rfl⟩

/-- The line of PC, of the bytes that the L1 holds of the line of pa, there at a time. -/
def heldLine (s : State) (pa at_ : Nat) : FetchLine :=
  { fetchCells s.me.pc.toNat ((List.range 256).map (fun k => (s.core.look (pa / 256 * 256 + k)).getD 0)) 0 0 with ready := at_ }

/-- 07 R378: a line that is translated and in the L1 enters the buffer. -/
theorem fetchNew_held (s : State) (pa : Nat) (idle : s.me.memWait = none) (mapped : Mapped s .exec s.me.pc pa)
    (held : InL1 s (pa / 256 * 256) 256) : ∃ (t : State) (at_ : Nat), t.resident = s.resident ∧
      s.fetchNew = (t.mapMe (fun m => { m with
        memWait := none, reason := 13, readyAt := Nat.max m.readyAt at_
        fetch := [heldLine s pa at_] })).fetchAhead (s.me.pc.toNat / 256 * 256 + 256) := by
  obtain ⟨e, ok, -, leads⟩ := translate_mapped s .exec s.me.pc pa mapped
  have kept := untranslated_translate s.blk.core s.blk.vd s.me.priv .exec s.me.pc s
  cases found : s.translate s.blk.core s.blk.vd s.me.priv .exec s.me.pc with
  | mk x s1 =>
    rw [found] at kept ok
    obtain rfl : x = .ok e := ok
    have core := core_of_untranslated kept
    have held1 : InL1 s1 (pa / 256 * 256) 256 := by
      unfold InL1
      rw [core]
      exact held
    obtain ⟨t, read, resident⟩ := readLine_held s1 (pa / 256) held1
    have lacks := lackedBy_held s.core (pa / 256) (fun k hk => (held k hk).1)
    refine ⟨t, s1.now + s1.fetchTime (pa / 256) * acTicks, resident.trans (resident_of_untranslated kept), ?_⟩
    unfold State.fetchNew
    rw [idle]
    dsimp only [Option.map_none, Option.getD_none, List.any_nil]
    refine (if_neg Bool.false_ne_true).trans ?_
    rw [found]
    dsimp only
    rw [← leads, if_neg (by simp [fetchRoom_held s1 _ held1]), read, core]
    dsimp only
    rw [if_neg (by simp [bit_eq]), if_neg (by simp [bit_eq]), lacks]
    rfl

theorem fetch_new (s : State) (pa : Nat) (focused : Focused s) (block : s.me.block = s.blk.id) (running : s.me.run = .running)
    (idle : s.me.issued = false) (unwalked : s.me.memWait = none) (absent : ∀ l ∈ s.me.fetch, l.line ≠ s.me.pc.toNat / 256)
    (mapped : Mapped s .exec s.me.pc pa) (held : InL1 s (pa / 256 * 256) 256) :
    Happens (.fetchLineFill s.me.id) s (fun t => ∃ f r, t.me.fetch = f :: r ∧ f.line = s.me.pc.toNat / 256 ∧
      (∀ j < 256, Memory.get f.cells (s.me.pc.toNat / 256 * 256 + j) = (s.core.look (pa / 256 * 256 + j)).getD 0) ∧ t.me.pc = s.me.pc ∧
      t.me.s = s.me.s ∧ t.me.v = s.me.v ∧ t.me.m = s.me.m ∧ t.blk = s.blk) := by
  have none : s.me.fetch.find? (fun l => l.line == s.me.pc.toNat / 256) = none :=
    List.find?_eq_none.mpr (fun l hl => by simpa using absent l hl)
  obtain ⟨t, at_, resident, fetches⟩ := fetchNew_held s pa unwalked mapped held
  have entered : s.fetchPc = s.fetchNew := by
    unfold State.fetchPc
    rw [none]
  have tme := State.me_of_resident resident
  generalize arrived : t.mapMe _ = u at fetches
  obtain ⟨r, me, -, blk⟩ := fetchAhead_appends (s.me.pc.toNat / 256 * 256 + 256) u
  refine ⟨_, exec_fetchLineFill s focused block running idle, heldLine s pa at_, r, ?_⟩
  rw [me_writeGraftLog, blk_writeGraftLog, entered, fetches, me, blk, ← arrived]
  dsimp only [State.mapMe]
  rw [tme]
  refine ⟨rfl, rfl, fun j hj => ?_, rfl, rfl, rfl, rfl, State.blk_of_resident resident⟩
  refine (get_cells _ j _).trans ?_
  simp [hj]

end Sys2Proof.Machine

namespace Sys2Proof.Machine

/-! ## Page requests (19 R321, R322) -/

/-- The id of a new request is that of no outstanding one. -/
theorem freshReqId_fresh (q : List PageReq) : ∀ r ∈ q, r.id ≠ freshReqId q := by
  have few : (q.map (·.id)).toFinset.card < (Finset.range (q.length + 1)).card := by
    rw [Finset.card_range]
    exact Nat.lt_succ_of_le ((List.toFinset_card_le _).trans (by rw [List.length_map]))
  obtain ⟨k, hk, unused⟩ := Finset.exists_mem_notMem_of_card_lt_card few
  have given : ((List.range (q.length + 1)).find? (fun k => q.all (fun r => r.id != k))).isSome = true := by
    rw [List.find?_isSome]
    refine ⟨k, List.mem_range.mpr (Finset.mem_range.mp hk), List.all_eq_true.mpr fun r hr => ?_⟩
    rw [bne_iff_ne]
    rintro rfl
    exact unused (List.mem_toFinset.mpr (List.mem_map_of_mem hr))
  obtain ⟨n, found⟩ := Option.isSome_iff_exists.mp given
  have free := List.find?_some found
  intro r hr
  rw [freshReqId, found]
  exact bne_iff_ne.mp (List.all_eq_true.mp free r hr)

section
variable (q : List PageReq) (page acc vd : Nat)

theorem joinQueue_none (fresh : ∀ r ∈ q, ¬(r.page = page ∧ r.vd = vd)) : joinQueue q page acc vd =
    if (q.filter (fun r => !r.popped)).length < 256
    then (some (freshReqId q), q ++ [{ page := page, acc := acc, vd := vd, id := freshReqId q, popped := false }]) else (none, q) := by
  have none : q.find? (fun r => r.page == page && r.vd == vd) = none := List.find?_eq_none.mpr (fun r hr => by simpa using fresh r hr)
  unfold joinQueue
  rw [none]

theorem joinQueue_some (r : PageReq) (found : q.find? (fun r => decide (r.page = page ∧ r.vd = vd)) = some r) :
    joinQueue q page acc vd = (some r.id, q) := by
  have tests : (fun r : PageReq => r.page == page && r.vd == vd) = fun r => decide (r.page = page ∧ r.vd = vd) :=
    funext fun r => by rw [Bool.decide_and]; rfl
  unfold joinQueue
  rw [tests, found]

end

/-- The queue that a stage's misses of a virtual device enter. -/
def State.asked (vd : Nat) (stage2 : Bool) (s : State) : Option (List PageReq) :=
  if stage2 then some s.stage2 else (s.vd? vd).map (·.pageReqs)

section
variable (vd : Nat) (stage2 : Bool) (s : State)

theorem asked_count (n ev k priv : Nat) : (s.count n ev k priv).asked vd stage2 = s.asked vd stage2 := by
  unfold State.asked
  split
  · rfl
  · unfold State.count State.vd? State.mapVd updIf
    rw [List.find?_map, Option.map_map]
    have num : (fun v : VDev => v.num == vd) ∘ (fun v => if v.num == n then { v with measure := v.measure.add ev k priv } else v)
        = fun v => v.num == vd := funext fun v => by dsimp only [Function.comp]; split <;> rfl
    rw [num]
    exact congrFun (congrArg Option.map (funext fun v => by dsimp only [Function.comp]; split <;> rfl)) _

theorem asked_dueOnce (dt : Nat) (ev : Instr) : (s.dueOnce dt ev).asked vd stage2 = s.asked vd stage2 := by
  unfold State.asked
  rw [State.dueOnce_stage2, State.vd?_dueOnce]

theorem asked_of_untranslated {s t : State} (h : t.untranslated = s.untranslated) : t.asked vd stage2 = s.asked vd stage2 := by
  unfold State.asked State.vd?
  rw [stage2_of_untranslated h, vds_of_untranslated h]

/-- 19 R321: a miss joins the queue of its stage; nothing else moves. -/
theorem raiseRequest_joins (page acc : Nat) (q : List PageReq) (queue : s.asked vd stage2 = some q) :
    (s.raiseRequest vd stage2 page acc).1 = (joinQueue q page acc vd).1 ∧
    (s.raiseRequest vd stage2 page acc).2.asked vd stage2 = some (joinQueue q page acc vd).2 ∧
    (s.raiseRequest vd stage2 page acc).2.resident = s.resident ∧ (s.raiseRequest vd stage2 page acc).2.core = s.core ∧
    (s.raiseRequest vd stage2 page acc).2.graftLog = s.graftLog := by
  cases stage2 with
  | true =>
    obtain rfl : s.stage2 = q := by simpa [State.asked] using queue
    exact ⟨rfl, rfl, rfl, rfl, rfl⟩
  | false =>
    have dev : (s.vd? vd).map (·.pageReqs) = some q := queue
    obtain ⟨v, found, rfl⟩ := Option.map_eq_some_iff.mp dev
    unfold State.raiseRequest State.asked
    dsimp only
    rw [if_neg Bool.false_ne_true, dev]
    refine ⟨rfl, ?_, rfl, rfl, rfl⟩
    rw [if_neg Bool.false_ne_true]
    dsimp only [Option.getD_some]
    refine (congrArg _ (State.vd?_mapVd vd _ s ?_)).trans ?_
    · exact fun _ => rfl
    · rw [found]
      rfl

end

/-- An event that is made due once is due, no later than asked. -/
theorem mem_agenda_dueOnce (dt : Nat) (ev : Instr) (s : State) : ∃ d ∈ (s.dueOnce dt ev).agenda, d.ev = ev ∧ d.at_ ≤ s.now + dt := by
  unfold State.dueOnce
  split
  next listed =>
    obtain ⟨d, hd, due⟩ := List.any_eq_true.mp listed
    exact ⟨d, hd, of_decide_eq_true due⟩
  next => exact ⟨_, List.mem_append_right _ (List.mem_singleton_self _), rfl, Nat.le_refl _⟩

/-! ## A unit that is tried again (19 R320, R321) -/

/-- The access of the strand in the focus is tried again by either event. -/
theorem exec_walkAgain (agent : AgentRef) (s : State) :
    ∀ i ∈ [Instr.pageRequest agent, .translationWalk agent], exec i s = stepOf (State.walkAgain agent) s := by
  intro i hi
  rw [List.mem_cons, List.mem_singleton] at hi
  obtain rfl | rfl := hi
  · rfl
  · rfl

section
variable (s : State) (m : MemWait) (w : LaneWait) (focused : Focused s) (block : s.me.block = s.blk.id) (waits : s.me.memWait = some m)
  (only : m.waiting = [w]) (unasked : w.id = none)
include focused block waits only

theorem walkFor_one : s.walkFor s.me.id =
    (walkUnit w ({ m with waiting := [] }, s)).2.mapMe (fun t => { t with memWait := some (walkUnit w ({ m with waiting := [] }, s)).1 }) := by
  unfold State.walkFor
  dsimp only
  rw [s.focus_self _ focused rfl block, if_neg (by simp), waits]
  dsimp only
  unfold walkUnits
  rw [only]
  rfl

include unasked

/-- 19 R320: the unit of an address that the TLB holds is translated. -/
theorem walk_mapped (log : s.graftLog = []) (pa : Nat) (mapped : Mapped s m.acc w.ea pa) :
    ∀ i ∈ [Instr.pageRequest (.strand s.me.id), .translationWalk (.strand s.me.id)], Happens i s (fun t => ∃ (d : Bool) (p : Nat),
      t.me = { s.me with memWait := some { m with
        waiting := [], ok := m.ok ++ [{ unit := w.lane, pa := pa, raw := false, discard := d, ea := w.ea, page := p }] } } ∧
      t.blk = s.blk ∧ t.core = s.core) := by
  obtain ⟨e, ok, plain, leads⟩ := translate_mapped s m.acc w.ea pa mapped
  have kept := untranslated_translate s.blk.core s.blk.vd s.me.priv m.acc w.ea s
  have unit : walkUnit w ({ m with waiting := [] }, s) =
      ({ m with
        waiting := []
        ok := m.ok ++ [{ unit := w.lane, pa := pa, raw := false, discard := e.discard, ea := w.ea, page := e.size }] },
      (s.translate s.blk.core s.blk.vd s.me.priv m.acc w.ea).2) := by
    unfold walkUnit
    dsimp only
    rw [unasked]
    refine (if_neg Bool.false_ne_true).trans ?_
    cases found : s.translate s.blk.core s.blk.vd s.me.priv m.acc w.ea with
    | mk x s1 =>
      rw [found] at ok
      obtain rfl : x = .ok e := ok
      dsimp only
      rw [plain, leads]
  have walked := walkFor_one s m w focused block waits only
  rw [unit] at walked
  intro i hi
  refine ⟨_, (exec_walkAgain _ s i hi).trans (stepOf_eq _ s ?_), e.discard, e.size, ?_⟩
  · change (s.walkFor s.me.id).graftLog = []
    rw [walked]
    exact (graftLog_of_untranslated kept).trans log
  · change (s.walkFor s.me.id).me = _ ∧ (s.walkFor s.me.id).blk = _ ∧ (s.walkFor s.me.id).core = _
    rw [walked]
    dsimp only [State.mapMe]
    rw [me_of_untranslated kept, blk_of_untranslated kept, core_of_untranslated kept]
    exact ⟨rfl, rfl, rfl⟩

/-- 19 R321, R322: what the walk of a unit that misses leaves. -/
theorem walkFor_miss (stage2 : Bool) (page code : Nat) (q : List PageReq) (queue : s.asked s.blk.vd stage2 = some q)
    (misses : (s.translate s.blk.core s.blk.vd s.me.priv m.acc w.ea).1 = .miss stage2 page code) :
    let joined := joinQueue q page code s.blk.vd
    let t := s.walkFor s.me.id
    t.me = { s.me with memWait := some { m with waiting := [{ lane := w.lane, ea := w.ea, stage2 := stage2, id := joined.1 }] } } ∧
    t.blk = s.blk ∧ t.core = s.core ∧ t.graftLog = s.graftLog ∧ t.asked s.blk.vd stage2 = some joined.2 ∧
    (joined.1 = none → ∃ d ∈ t.agenda, d.ev = .pageRequest (.strand s.me.id)) := by
  have kept := untranslated_translate s.blk.core s.blk.vd s.me.priv m.acc w.ea s
  have walked := walkFor_one s m w focused block waits only
  cases found : s.translate s.blk.core s.blk.vd s.me.priv m.acc w.ea with
  | mk x s1 =>
    rw [found] at kept misses
    obtain rfl : x = .miss stage2 page code := misses
    obtain ⟨id, asked, resident, core, graft⟩ := raiseRequest_joins s.blk.vd stage2 s1 page code q
      ((asked_of_untranslated _ _ kept).trans queue)
    cases raised : s1.raiseRequest s.blk.vd stage2 page code with
    | mk j s2 =>
      rw [raised] at id asked resident core graft
      dsimp only at id asked resident core graft
      subst id
      have me := (State.me_of_resident resident).trans (me_of_untranslated kept)
      have blk := (State.blk_of_resident resident).trans (blk_of_untranslated kept)
      have core := core.trans (core_of_untranslated kept)
      have graft := graft.trans (graftLog_of_untranslated kept)
      have unit : walkUnit w ({ m with waiting := [] }, s) =
          ({ m with waiting := [{ lane := w.lane, ea := w.ea, stage2 := stage2, id := (joinQueue q page code s.blk.vd).1 }] },
            if (joinQueue q page code s.blk.vd).1.isSome
            then s2.count s.blk.vd 0x0D (if s1.raises s.blk.vd stage2 page then 1 else 0) s.me.priv
            else s2.dueOnce acTicks (.pageRequest (.strand s.me.id))) := by
        unfold walkUnit
        dsimp only
        rw [unasked]
        refine (if_neg Bool.false_ne_true).trans ?_
        rw [found]
        dsimp only
        unfold State.awaitPage
        rw [raised]
        rfl
      rw [unit] at walked
      dsimp only
      rw [walked]
      dsimp only [State.mapMe]
      split
      next given =>
        refine ⟨?_, blk, core, graft, (asked_count ..).trans asked, fun none => ?_⟩
        · rw [← me]; rfl
        · rw [none] at given; cases given
      next =>
        refine ⟨?_, (State.dueOnce_blk ..).trans blk, (State.dueOnce_core ..).trans core, (State.dueOnce_graftLog ..).trans graft,
          (asked_dueOnce ..).trans asked, fun _ => ?_⟩
        · rw [State.dueOnce_me, me]
        · obtain ⟨d, hd, ev, -⟩ := mem_agenda_dueOnce acTicks (.pageRequest (.strand s.me.id)) s2
          exact ⟨d, hd, ev⟩

/-- 19 R321, R322: a miss asks for its page. -/
theorem asks_of_miss (log : s.graftLog = []) (stage2 : Bool) (page code : Nat) (q : List PageReq) (queue : s.asked s.blk.vd stage2 = some q)
    (misses : (s.translate s.blk.core s.blk.vd s.me.priv m.acc w.ea).1 = .miss stage2 page code) :
    Asks s m w stage2 page code q (State.asked s.blk.vd stage2) := by
  obtain ⟨me, blk, core, graft, asked, due⟩ := walkFor_miss s m w focused block waits only unasked stage2 page code q queue misses
  have happens (i : Instr) (hi : i ∈ [Instr.pageRequest (.strand s.me.id), .translationWalk (.strand s.me.id)]) :
      exec i s = .next (s.walkFor s.me.id) := (exec_walkAgain _ s i hi).trans (stepOf_eq _ s (graft.trans log))
  intro i hi
  refine ⟨fun fresh room => ?_, fun r found => ?_, fun fresh full => ?_⟩
  · rw [joinQueue_none q page code s.blk.vd fresh, if_pos room] at me asked
    exact ⟨_, happens i hi, _, freshReqId_fresh q, ⟨me, blk, core⟩, asked⟩
  · rw [joinQueue_some q page code s.blk.vd r found] at me asked
    exact ⟨_, happens i hi, asked, me, blk, core⟩
  · rw [joinQueue_none q page code s.blk.vd fresh, if_neg (Nat.not_lt.mpr full)] at me asked due
    exact ⟨_, happens i hi, asked, ⟨me, blk, core⟩, due rfl⟩

end

/-! ## A copy that waited (07 R146, 15 R270) -/

theorem walk_conversion (s : State) (op : Nat) (c : CopyOp) (log : s.graftLog = []) (found : s.copy? op = some c) (kind : c.kind = .gconv) :
    ∀ i ∈ [Instr.pageRequest (.engine op), .translationWalk (.engine op)], Happens i s (fun t =>
      (∃ d ∈ t.agenda, d.ev = .gconvBlock op ∧ d.at_ ≤ t.now) ∧ t.copies = s.copies ∧ t.me = s.me ∧ t.blk = s.blk) := by
  have walked : s.walkAgain (.engine op) = s.dueOnce 0 (.gconvBlock op) := by
    unfold State.walkAgain
    dsimp only
    rw [found]
    exact if_pos kind
  intro i hi
  refine ⟨_, (exec_walkAgain _ s i hi).trans (stepOf_eq _ s (by rw [walked, State.dueOnce_graftLog, log])), ?_⟩
  rw [walked]
  refine ⟨?_, State.dueOnce_copies .., State.dueOnce_me .., State.dueOnce_blk ..⟩
  rw [State.dueOnce_now]
  exact mem_agenda_dueOnce 0 _ s

theorem walk_copy (s : State) (op : Nat) (c : CopyOp) (found : s.copy? op = some c) (kind : c.kind ≠ .gconv) :
    ∀ i ∈ [Instr.pageRequest (.engine op), .translationWalk (.engine op)],
      exec i s = exec (.copyChunkLand op) s ∧ Happens i s (fun _ => True) := by
  have walked : s.walkAgain (.engine op) = s.buffered (s.copyCore op) (.copyChunkLand op) (State.copyTurn op) := by
    unfold State.walkAgain
    dsimp only
    rw [found]
    exact if_neg kind
  intro i hi
  have again := exec_walkAgain _ s i hi
  refine ⟨again.trans ?_, _, again, trivial⟩
  change stepOf _ s = execCopyChunkLand op s
  unfold execCopyChunkLand stepOf
  rw [walked]

theorem saysTranslationEvents : SaysTranslationEvents := by
  intro s log focused block
  refine ⟨?_, ?_, ?_, ?_, ?_⟩
  · intro l running idle found there clean
    exact fetch_held s l focused block running idle found there clean
  · intro pa running idle unwalked away mapped _ held
    exact fetch_new s pa focused block running idle unwalked away mapped held
  · intro m w pa waits only unasked mapped
    exact walk_mapped s m w focused block waits only unasked log pa mapped
  · intro m w v waits only unasked uncached dev _
    refine ⟨fun l lg root invalid free => ?_, fun beyond => ?_⟩
    · exact asks_of_miss s m w focused block waits only unasked log false _ _ _ (by rw [State.asked, if_neg Bool.false_ne_true, dev]; rfl)
        (translate_rootInvalid s m.acc w.ea v l lg uncached dev root invalid free)
    · exact asks_of_miss s m w focused block waits only unasked log true _ _ _ rfl
        (translate_rootBeyond s m.acc w.ea v uncached dev beyond)
  · intro op c found i hi
    exact ⟨fun kind => walk_conversion s op c log found kind i hi, fun kind => walk_copy s op c found kind i hi⟩

/-- Settles O40: what time, a barrier's clock and a translation bring to a strand, event by event. -/
theorem strandEvents : Obligations.StrandEvents := ⟨saysStrandTimes, saysBarrierTimeouts, saysTranslationEvents⟩

end Sys2Proof.Machine

namespace Sys2Proof.Machine

/-! ## Exact results (03 R59) -/

section
variable (n : Nat) (x y : BitVec n)

theorem opAdd_exact : opAdd n x y = BitVec.ofInt n (x.toInt + y.toInt) := by
  rw [BitVec.ofInt_add, BitVec.ofInt_toInt, BitVec.ofInt_toInt]; rfl

theorem opSub_exact : opSub n x y = BitVec.ofInt n (x.toInt - y.toInt) := by
  rw [Int.sub_eq_add_neg, BitVec.ofInt_add, BitVec.ofInt_neg, BitVec.ofInt_toInt, BitVec.ofInt_toInt, ← BitVec.sub_eq_add_neg]; rfl

theorem opAnd_exact : opAnd n x y = BitVec.ofInt n (x.toNat &&& y.toNat : Nat) := by
  rw [BitVec.ofInt_natCast, ← BitVec.toNat_and, BitVec.ofNat_toNat, BitVec.setWidth_eq]; rfl

theorem opOr_exact : opOr n x y = BitVec.ofInt n (x.toNat ||| y.toNat : Nat) := by
  rw [BitVec.ofInt_natCast, ← BitVec.toNat_or, BitVec.ofNat_toNat, BitVec.setWidth_eq]; rfl

theorem opXor_exact : opXor n x y = BitVec.ofInt n (x.toNat ^^^ y.toNat : Nat) := by
  rw [BitVec.ofInt_natCast, ← BitVec.toNat_xor, BitVec.ofNat_toNat, BitVec.setWidth_eq]; rfl

theorem opAndn_exact : opAndn n x y = BitVec.ofInt n (x.toNat &&& (2 ^ n - 1 - y.toNat) : Nat) := by
  rw [BitVec.ofInt_natCast, ← BitVec.toNat_not, ← BitVec.toNat_and, BitVec.ofNat_toNat, BitVec.setWidth_eq]; rfl

theorem opShl_exact : opShl n x y = BitVec.ofInt n (x.toNat * 2 ^ (y.toNat % n)) := by
  apply BitVec.eq_of_toNat_eq
  rw [opShl, BitVec.toNat_shiftLeft, Nat.shiftLeft_eq]
  norm_cast

theorem opShr_exact : opShr n x y = BitVec.ofInt n (x.toNat / 2 ^ (y.toNat % n)) := by
  apply BitVec.eq_of_toNat_eq
  rw [opShr, BitVec.toNat_ushiftRight, Nat.shiftRight_eq_div_pow]
  norm_cast
  rw [BitVec.ofInt_natCast, BitVec.toNat_ofNat, Nat.mod_eq_of_lt (Nat.lt_of_le_of_lt (Nat.div_le_self _ _) x.isLt)]

theorem opSar_exact : opSar n x y = BitVec.ofInt n (x.toInt / 2 ^ (y.toNat % n)) := by
  have e := BitVec.toInt_sshiftRight (x := x) (n := y.toNat % n)
  rw [Int.shiftRight_eq_div_pow] at e
  rw [opSar, ← BitVec.ofInt_toInt (x := x.sshiftRight _), e]
  norm_cast

theorem opMul_exact : opMul n x y = BitVec.ofInt n (x.toInt * y.toInt) := by
  rw [BitVec.ofInt_mul, BitVec.ofInt_toInt, BitVec.ofInt_toInt]; rfl

theorem opMulh_exact : opMulh n x y = BitVec.ofInt n (x.toInt * y.toInt / 2 ^ n) := by
  rw [opMulh]; norm_cast

theorem opMulhn_exact : opMulhn n x y = BitVec.ofInt n (x.toNat * y.toNat / 2 ^ n) := by
  rw [opMulhn]; norm_cast

theorem ite_exact {c : Prop} [Decidable c] (i j : Int) : (if c then BitVec.ofInt n i else BitVec.ofInt n j) = BitVec.ofInt n (if c then i else j) :=
  (apply_ite (BitVec.ofInt n) c i j).symm

theorem ofInt_toNat : BitVec.ofInt n (x.toNat : Int) = x := by
  rw [BitVec.ofInt_natCast, BitVec.ofNat_toNat, BitVec.setWidth_eq]

theorem opMin_exact : opMin n x y = BitVec.ofInt n (Min.min x.toInt y.toInt) := by
  rw [opMin]
  split
  · rw [min_eq_left (by omega), BitVec.ofInt_toInt]
  · rw [min_eq_right (by omega), BitVec.ofInt_toInt]

theorem opMax_exact : opMax n x y = BitVec.ofInt n (Max.max x.toInt y.toInt) := by
  rw [opMax]
  split
  · rw [max_eq_left (by omega), BitVec.ofInt_toInt]
  · rw [max_eq_right (by omega), BitVec.ofInt_toInt]

theorem opMinn_exact : opMinn n x y = BitVec.ofInt n (Min.min x.toNat y.toNat : Nat) := by
  rw [opMinn]
  split
  · rw [min_eq_left (by omega), ofInt_toNat]
  · rw [min_eq_right (by omega), ofInt_toNat]

theorem opMaxn_exact : opMaxn n x y = BitVec.ofInt n (Max.max x.toNat y.toNat : Nat) := by
  rw [opMaxn]
  split
  · rw [max_eq_left (by omega), ofInt_toNat]
  · rw [max_eq_right (by omega), ofInt_toNat]

theorem opSlt_exact : opSlt n x y = BitVec.ofInt n (if x.toInt < y.toInt then 1 else 0) := ite_exact n 1 0

theorem opSltn_exact : opSltn n x y = BitVec.ofInt n (if x.toNat < y.toNat then 1 else 0) := ite_exact n 1 0

theorem opSeq_exact : opSeq n x y = BitVec.ofInt n (if x = y then 1 else 0) := ite_exact n 1 0

theorem opSne_exact : opSne n x y = BitVec.ofInt n (if x = y then 0 else 1) := by
  rw [← ite_exact, opSne, ite_not]; rfl

theorem ofInt_ones : BitVec.ofInt n (2 ^ n - 1) = BitVec.allOnes n := by
  apply BitVec.eq_of_toNat_eq
  have one : 1 ≤ 2 ^ n := Nat.one_le_two_pow
  have cast : ((2 : Int) ^ n - 1) = ((2 ^ n - 1 : Nat) : Int) := by push_cast [one]; ring
  rw [cast, BitVec.ofInt_natCast, BitVec.toNat_ofNat, BitVec.toNat_allOnes, Nat.mod_eq_of_lt (by omega)]

theorem opDiv_exact : opDiv n x y = BitVec.ofInt n (if y = 0 then 2 ^ n - 1 else x.toInt.tdiv y.toInt) := by
  rw [← ite_exact, ofInt_ones, opDiv]
  congr 1
  apply BitVec.eq_of_toInt_eq
  rw [BitVec.toInt_sdiv, BitVec.toInt_ofInt]

theorem opDivn_exact : opDivn n x y = BitVec.ofInt n (if y = 0 then 2 ^ n - 1 else x.toNat / y.toNat) := by
  rw [← ite_exact, ofInt_ones, opDivn]
  congr 1
  rw [← ofInt_toNat n (x / y), BitVec.toNat_udiv]
  rfl

theorem opRem_exact : opRem n x y = BitVec.ofInt n (if y = 0 then x.toInt else x.toInt - y.toInt * x.toInt.tdiv y.toInt) := by
  rw [← ite_exact, BitVec.ofInt_toInt, opRem]
  congr 1
  have rem : (x.srem y).toInt = x.toInt - y.toInt * x.toInt.tdiv y.toInt := by
    rw [BitVec.toInt_srem, Int.tmod_def]
  rw [← rem, BitVec.ofInt_toInt]

theorem opRemn_exact : opRemn n x y = BitVec.ofInt n (if y = 0 then x.toNat else x.toNat % y.toNat) := by
  rw [← ite_exact, ofInt_toNat, opRemn]
  congr 1
  rw [← ofInt_toNat n (x % y), BitVec.toNat_umod]
  rfl

theorem opClz_exact : opClz n x = BitVec.ofInt n (n - Nat.size x.toNat : Nat) := by
  rw [opClz, BitVec.ofInt_natCast]
  split
  next zero => rw [zero, Nat.size_zero, Nat.sub_zero]
  next pos =>
    have size : Nat.size x.toNat = Nat.log2 x.toNat + 1 := by
      apply Nat.le_antisymm
      · exact Nat.size_le.2 Nat.lt_log2_self
      · exact Nat.lt_size.2 (Nat.log2_self_le pos)
    rw [size, Nat.sub_add_eq, Nat.sub_right_comm]

end

/-! ### The lowest set bit and the number of set bits (03 R59, R69) -/

theorem bit_eq_false_below_lowest {k i : Nat} (h : i < padicValNat 2 k) : k.testBit i = false := by
  obtain ⟨q, hq⟩ := pow_padicValNat_dvd (p := 2) (n := k)
  generalize padicValNat 2 k = v at h hq
  rw [hq, Nat.testBit_two_pow_mul]
  simp [h]

theorem testBit_lowest {k : Nat} (h : k ≠ 0) : k.testBit (padicValNat 2 k) = true := by
  have stop := pow_succ_padicValNat_not_dvd (p := 2) h
  obtain ⟨q, hq⟩ := pow_padicValNat_dvd (p := 2) (n := k)
  generalize padicValNat 2 k = v at stop hq
  subst hq
  have odd : q % 2 = 1 := by
    rcases Nat.mod_two_eq_zero_or_one q with even | odd
    · exact absurd (by rw [pow_succ]; exact Nat.mul_dvd_mul_left _ (Nat.dvd_of_mod_eq_zero even)) stop
    · exact odd
  rw [Nat.testBit_two_pow_mul]
  simp [odd]

/-- The lowest set bit is the exponent of 2 in the number. -/
theorem find_lowest_bit {n : Nat} (x : BitVec n) (h : x ≠ 0) : (List.range n).find? (fun i => bit x i) = some (padicValNat 2 x.toNat) := by
  have nonzero : x.toNat ≠ 0 := fun e => h (BitVec.eq_of_toNat_eq (by simpa using e))
  have set : bit x (padicValNat 2 x.toNat) = true := testBit_lowest nonzero
  rw [List.find?_range_eq_some]
  refine ⟨set, List.mem_range.2 (BitVec.lt_of_getLsbD set), fun i below => ?_⟩
  have clear : bit x i = false := bit_eq_false_below_lowest below
  rw [clear]
  rfl

theorem find_bit_zero (n : Nat) : (List.range n).find? (fun i => bit (0 : BitVec n) i) = none :=
  List.find?_eq_none.2 (fun i _ => by simp [bit])

theorem foldl_count (p : Nat → Bool) (l : List Nat) (c : Nat) : l.foldl (fun c i => if p i then c + 1 else c) c = c + (l.filter p).length := by
  induction l generalizing c with
  | nil => rfl
  | cons i l ih =>
    rw [List.foldl_cons, ih, List.filter_cons]
    split
    · rw [List.length_cons]; omega
    · rfl

theorem card_filter_range (p : Nat → Bool) (n : Nat) : ((Finset.range n).filter (fun k => p k = true)).card = ((List.range n).filter p).length := by
  simp [Finset.card, Finset.filter, Finset.range, Multiset.range]

section
variable (n : Nat) (x : BitVec n)

theorem opCtz_exact : opCtz n x = BitVec.ofInt n (if x = 0 then n else padicValNat 2 x.toNat) := by
  rw [← ite_exact, BitVec.ofInt_natCast, BitVec.ofInt_natCast, opCtz]
  split
  next zero => rw [zero, find_bit_zero, Option.getD_none]
  next pos => rw [find_lowest_bit x pos, Option.getD_some]

theorem opPopc_exact : opPopc n x = BitVec.ofInt n (((Finset.range n).filter (fun k => x.getLsbD k = true)).card) := by
  rw [BitVec.ofInt_natCast, card_filter_range, opPopc, foldl_count, Nat.zero_add]
  rfl

end
end Sys2Proof.Machine

namespace Sys2Proof.Machine

/-! ## Words of scalar sources with one scalar result (03 R59 to R61) -/

theorem alu2_exact {op : (n : Nat) → BitVec n → BitVec n → BitVec n} {exact : (n : Nat) → BitVec n → BitVec n → Int}
    (h : ∀ n x y, op n x y = BitVec.ofInt n (exact n x y)) (w : BitVec 1) (a b : W64) : alu2 w op a b = byWidth w exact a b := by
  rw [alu2, byWidth, h, h]

theorem alu1_exact {op : (n : Nat) → BitVec n → BitVec n} {exact : (n : Nat) → BitVec n → Int}
    (h : ∀ n x, op n x = BitVec.ofInt n (exact n x)) (w : BitVec 1) (a : W64) : alu1 w op a = byWidth w (fun n x _ => exact n x) a 0 := by
  rw [alu1, byWidth, h, h]

/-- What `exec` answers for the row of a table: the state with the row's value written and the word done. -/
def ScalarRow.Holds (r : ScalarRow) (o : Out) (s : State) : Prop :=
  Ready s → (∀ a ∈ r.srcs, SrcOk s a) → DstOk r.dst → Leads o (((s.popped r.srcs).wrote r.dst (r.val s)).wordDone (s.me.pc + 4))

/-- A word that reads the row's sources and writes the row's value does what the row says. -/
theorem ScalarRow.holds (r : ScalarRow) (word : W32) (ok : Bool) (x : State → W64) (s : State) (hok : ok = true)
    (hx : (∀ a ∈ r.srcs, (begun (scalarForm word r.srcs r.dst ok) s).sreg a = src s a) →
      x (begun (scalarForm word r.srcs r.dst ok) s) = r.val s) :
    r.Holds (scalarOp (scalarForm word r.srcs r.dst ok) r.dst x s) s := fun h srcs dst =>
  have allowed : Allowed (scalarForm word r.srcs r.dst ok) s :=
    allowed_scalar _ s hok (fun _ => rfl) (Nat.zero_le _) rfl srcs (by simpa [scalarForm] using dst) (by simp [scalarForm])
      (by simp [scalarForm]) rfl rfl (by simp [scalarForm])
  scalarOp_leads _ r.dst x _ s h allowed rfl rfl rfl dst (hx fun a ha => sreg_begun _ s a ha (srcs a ha))

theorem row2_holds {op : (n : Nat) → BitVec n → BitVec n → BitVec n} {exact : (n : Nat) → BitVec n → BitVec n → Int}
    (same : ∀ n x y, op n x y = BitVec.ofInt n (exact n x y)) {d a b : BitVec 6} {w : BitVec 1} {word : W32} {s : State} {r : ScalarRow}
    (row : row2 d a b w exact = some r) :
    r.Holds (scalarOp (scalarForm word [a, b] d) d (fun s => alu2 w op (s.sreg a) (s.sreg b)) s) s := by
  cases row
  refine ScalarRow.holds _ word true _ s rfl fun reads => ?_
  dsimp only at reads ⊢
  rw [reads a (by simp), reads b (by simp), alu2_exact same]

theorem row1_holds {op : (n : Nat) → BitVec n → BitVec n} {exact : (n : Nat) → BitVec n → Int}
    (same : ∀ n x, op n x = BitVec.ofInt n (exact n x)) {d a : BitVec 6} {w : BitVec 1} {word : W32} {s : State} {r : ScalarRow}
    (row : row1 d a w exact = some r) :
    r.Holds (scalarOp (scalarForm word [a] d) d (fun s => alu1 w op (s.sreg a)) s) s := by
  cases row
  refine ScalarRow.holds _ word true _ s rfl fun reads => ?_
  dsimp only at reads ⊢
  rw [reads a (by simp), alu1_exact same]

theorem opBext_exact (st wd n : Nat) (x : BitVec n) : opBext n x st wd = BitVec.ofInt n (x.toNat / 2 ^ st % 2 ^ wd) := by
  rw [opBext]; norm_cast

theorem opBins_exact (st wd n : Nat) (x y : BitVec n) : opBins n y x st wd = BitVec.ofInt n (
    let k := BitVec.ofNat n ((2 ^ wd - 1) * 2 ^ st)
    ((y &&& ~~~k) ||| (BitVec.ofNat n (x.toNat * 2 ^ st) &&& k)).toNat) := by
  rw [ofInt_toNat]; rfl

theorem valBins_eq (w : BitVec 1) (d a b : W64) :
    alu2 w (fun n d a => opBins n d a (fieldStart b) (fieldWidth b)) d a = valBins w d a b := by
  rw [alu2, valBins, byWidth, opBins_exact, opBins_exact]
  rfl

/-- 03 R59: each member of the table. -/
theorem tableR59_holds (i : Instr) (r : ScalarRow) (s : State) (row : tableR59 i = some r) : r.Holds (exec i s) s := by
  unfold exec
  cases i with
  | add => exact row2_holds opAdd_exact row
  | sub => exact row2_holds opSub_exact row
  | and => exact row2_holds opAnd_exact row
  | or => exact row2_holds opOr_exact row
  | xor => exact row2_holds opXor_exact row
  | andn => exact row2_holds opAndn_exact row
  | shl => exact row2_holds opShl_exact row
  | shr => exact row2_holds opShr_exact row
  | sar => exact row2_holds opSar_exact row
  | mul => exact row2_holds opMul_exact row
  | mulh => exact row2_holds opMulh_exact row
  | mulhn => exact row2_holds opMulhn_exact row
  | min => exact row2_holds opMin_exact row
  | max => exact row2_holds opMax_exact row
  | minn => exact row2_holds opMinn_exact row
  | maxn => exact row2_holds opMaxn_exact row
  | slt => exact row2_holds opSlt_exact row
  | sltn => exact row2_holds opSltn_exact row
  | seq => exact row2_holds opSeq_exact row
  | sne => exact row2_holds opSne_exact row
  | div => exact row2_holds opDiv_exact row
  | divn => exact row2_holds opDivn_exact row
  | rem => exact row2_holds opRem_exact row
  | remn => exact row2_holds opRemn_exact row
  | clz => exact row1_holds opClz_exact row
  | ctz => exact row1_holds opCtz_exact row
  | popc => exact row1_holds opPopc_exact row
  | bext d a b w =>
    cases row
    refine ScalarRow.holds _ _ true _ s rfl fun reads => ?_
    dsimp only at reads ⊢
    rw [reads a (by simp), reads b (by simp)]
    exact alu1_exact (opBext_exact _ _) w _
  | bins d a b w =>
    cases row
    refine ScalarRow.holds _ _ true _ s rfl fun reads => ?_
    dsimp only at reads ⊢
    rw [reads a (by simp), reads b (by simp), reads d (by simp)]
    exact valBins_eq w _ _ _
  | _ => cases row

/-- Settles O1: each member's operation is its exact result reduced to n bits, and its sources read what the table reads. -/
theorem scalarTable : Obligations.ScalarTable := fun i r s row => tableR59_holds i r s row

/-! ### Immediate forms and constants (03 R60, R61) -/

theorem setWidth_amount (n : BitVec 6) : (n.setWidth 64).toNat = n.toNat := by
  rw [BitVec.toNat_setWidth, Nat.mod_eq_of_lt (by omega)]

/-- 03 R60: the amount of an immediate shift, which is below the width. -/
theorem amount_of_width {w : BitVec 1} {n : BitVec 6} (short : ¬ (w = 1 ∧ 32 ≤ n.toNat)) :
    (w = 1 → ((n.setWidth 64).setWidth 32).toNat % 32 = n.toNat) ∧ (n.setWidth 64).toNat % 64 = n.toNat := by
  constructor
  · intro one
    have : n.toNat < 32 := by by_contra long; exact short ⟨one, by omega⟩
    rw [BitVec.toNat_setWidth, setWidth_amount]
    omega
  · rw [setWidth_amount]; omega

theorem shift_holds {op : (n : Nat) → BitVec n → BitVec n → BitVec n} (exact : (n : Nat) → BitVec n → Nat → Int)
    (same : ∀ n x y, op n x y = BitVec.ofInt n (exact n x (y.toNat % n))) {d a : BitVec 6} {w : BitVec 1} {n : BitVec 6} {word : W32}
    {s : State} {r : ScalarRow}
    (row : (if w = 1 ∧ 32 ≤ n.toNat then none else row1 d a w (fun m x => exact m x n.toNat)) = some r) :
    r.Holds (scalarOp (scalarForm word [a] d (shiftOk w n)) d (fun s => alu2 w op (s.sreg a) (n.setWidth 64)) s) s := by
  by_cases long : w = 1 ∧ 32 ≤ n.toNat
  · rw [if_pos long] at row; cases row
  obtain ⟨narrow, wide⟩ := amount_of_width long
  rw [if_neg long] at row
  cases row
  refine ScalarRow.holds _ word _ _ s (decide_eq_true fun one => ?_) fun reads => ?_
  · by_contra less; exact long ⟨one, by omega⟩
  · dsimp only at reads ⊢
    rw [reads a (by simp), alu2, byWidth, same, same, wide]
    split
    next one => rw [narrow one]
    next => rfl

theorem opRotr_exact (n : Nat) (x y : BitVec n) : opRotr n x y = BitVec.ofInt n (x.rotateRight (y.toNat % n)).toNat := by
  rw [ofInt_toNat]; rfl

theorem opSlt_word (x y : W64) : opSlt 64 x y = if x.toInt < y.toInt then 1 else 0 := rfl
theorem opSltn_word (x y : W64) : opSltn 64 x y = if x.toNat < y.toNat then 1 else 0 := rfl

/-- A row that writes f of its immediate and of its one source. -/
theorem immediate_holds {d a : BitVec 6} {k : Nat} {i : BitVec k} {word : W32} {s : State} {r : ScalarRow} {f g : W64 → W64 → W64}
    (same : ∀ x y, f x y = g x y) (row : some (ScalarRow.mk d [a] (fun s => g (src s a) (s.imm i))) = some r) :
    r.Holds (scalarOp (scalarForm word [a] d) d (fun s => f (s.sreg a) (s.imm i)) s) s := by
  cases row
  refine ScalarRow.holds _ word true _ s rfl fun reads => ?_
  dsimp only at reads ⊢
  rw [reads a (by simp), imm_begun, same]

/-- A row without sources. -/
theorem constant_holds {d : BitVec 6} {word : W32} {s : State} {r : ScalarRow} {x y : State → W64}
    (same : x (begun (scalarForm word [] d) s) = y s) (row : some (ScalarRow.mk d [] y) = some r) :
    r.Holds (scalarOp (scalarForm word [] d) d x s) s := by
  cases row
  exact ScalarRow.holds _ word true _ s rfl fun _ => same

/-- 03 R60, R61: each member of the table. -/
theorem tableR60_holds (i : Instr) (r : ScalarRow) (s : State) (row : tableR60 i = some r) : r.Holds (exec i s) s := by
  unfold exec
  cases i with
  | addi => exact immediate_holds (opAdd_exact 64) row
  | andi => exact immediate_holds (fun _ _ => rfl) row
  | ori => exact immediate_holds (fun _ _ => rfl) row
  | xori => exact immediate_holds (fun _ _ => rfl) row
  | slti => exact immediate_holds opSlt_word row
  | sltni => exact immediate_holds opSltn_word row
  | shli => exact shift_holds (fun _ x k => x.toNat * 2 ^ k) opShl_exact row
  | shri => exact shift_holds (fun _ x k => x.toNat / 2 ^ k) opShr_exact row
  | sari => exact shift_holds (fun _ x k => x.toInt / 2 ^ k) opSar_exact row
  | rotri => exact shift_holds (fun _ x k => (x.rotateRight k).toNat) opRotr_exact row
  | li d k => exact constant_holds (imm_begun _ s k) row
  | addpc d k => exact constant_holds (target_begun _ s k) row
  | _ => cases row

/-- Settles O2: an immediate form is the operation of R59 on the extended immediate. -/
theorem immediateTable : Obligations.ImmediateTable := fun i r s row => tableR60_holds i r s row

end Sys2Proof.Machine

namespace Sys2Proof.Machine

/-! ## Words that change their strand alone (01 R14, R24) -/

/-- What the end of a word asks of the state that its effect leaves, the ports among its sources having given up their heads. -/
theorem StrandEdit.begun_popped {G : State → State} (hG : StrandEdit G) (f : Form) (s : State) (h : Ready s) :
    (G (Machine.begun f s)).graftLog = [] ∧ (G (Machine.begun f s)).me.stepping = false ∧ (G (Machine.begun f s)).me.corrupt = [] ∧
      (G (Machine.begun f s)).timeless = (G (s.popped f.use.sr)).timeless := by
  obtain ⟨g, rfl, hg⟩ := hG
  refine ⟨by simp [h.noLog], ?_, ?_, State.timeless_mapMe_congr (fun t => (hg t).1) (begun_timeless f s)⟩
  · rw [State.mapMe_me, (hg _).2.1, begun_me, h.free]
  · rw [State.mapMe_me, (hg _).2.2, begun_me, h.whole]

theorem StrandEdit.wrote (d : BitVec 6) (x : W64) : StrandEdit (State.wrote d x) := by
  by_cases zero : d = 0
  · rw [show State.wrote d x = fun s => s from funext fun s => if_pos zero]
    exact .id
  · rw [show State.wrote d x = State.mapMe (Strand.putS d.toNat x) from funext fun s => if_neg zero]
    exact ⟨_, rfl, fun _ => ⟨rfl, rfl, rfl⟩⟩

section
variable (f : Form) (eff : State → Result) (s : State) (h : Ready s) (a : Allowed f s) (hint : f.hint = false) (scalar : f.vector = false)
  (lanes : f.use.vr = []) {G : State → State} (hG : StrandEdit G)

include h a hint scalar lanes hG

/-- A word without vector operands that changes its strand by G and goes on at the next word. -/
theorem edit_leads_done (he : eff (begun f s) = .done (G (begun f s))) :
    Leads (issue f eff s) ((G (s.popped f.use.sr)).wordDone (s.me.pc + 4)) := by
  obtain ⟨log, free, whole, same⟩ := hG.begun_popped f s h
  refine (leads_done f eff s _ h a hint (.inl scalar) he log free whole).congr ?_
  rw [popChans_nil _ _ (by simp [Use.readChans, lanes])]
  exact wordDone_congr _ same

/-- The same for a word that goes on at `pc`. -/
theorem edit_leads_jump (pc : W64) (cost : Nat) (he : eff (begun f s) = .jump pc cost (G (begun f s))) :
    Leads (issue f eff s) ((G (s.popped f.use.sr)).wordDone pc) := by
  obtain ⟨log, free, whole, same⟩ := hG.begun_popped f s h
  refine (leads_jump f eff s _ pc cost h a hint scalar he log free whole).congr ?_
  rw [popChans_nil _ _ (by simp [Use.readChans, lanes])]
  exact wordDone_congr _ same

end

/-! ## Mask members (03 R69) -/

theorem lanes_begun (f : Form) (s : State) : (begun f s).me.lanes = s.me.lanes := by rw [begun_me]; rfl

/-- 02 R48: a mask register takes the visible bits alone, whether or not the value has lost the others before. -/
theorem setM_visible (d : BitVec 3) (x : W32) (s : State) : s.setM d (x &&& s.me.visible) = s.mwrote d x := by
  simp only [State.setM, State.mwrote, State.mapMe, BitVec.and_assoc, BitVec.and_self]

/-- A mask word that writes y to a mask register. -/
theorem maskWrite_leads (w : W32) (ms : List (BitVec 3)) (rs : List (BitVec 6)) (d : BitVec 3) (eff : State → Result) (y : W32) (s : State)
    (h : Ready s) (hd : d ≠ 0) (srcs : ∀ r ∈ rs, SrcOk s r)
    (he : eff (begun { word := w, use := { sr := rs, mr := ms, mw := [d] }, lat := 2 } s) =
      .done ((begun { word := w, use := { sr := rs, mr := ms, mw := [d] }, lat := 2 } s).mwrote d y)) :
    Leads (issue { word := w, use := { sr := rs, mr := ms, mw := [d] }, lat := 2 } eff s) (((s.popped rs).mwrote d y).wordDone (s.me.pc + 4)) :=
  edit_leads_done _ eff s h
    (allowed_scalar _ s rfl (fun _ => rfl) (Nat.zero_le _) rfl srcs (by simp) (by simp) (by simp) rfl rfl (by simpa using hd))
    rfl rfl rfl (.mwrote d y) he

theorem maskOp_leads (w : W32) (ms : List (BitVec 3)) (d : BitVec 3) (x : State → W32) (y : W32) (s : State) (h : Ready s) (hd : d ≠ 0)
    (hx : ∀ f, (begun f s).setM d (x (begun f s)) = (begun f s).mwrote d y) :
    Leads (maskOp w d ms x s) ((s.mwrote d y).wordDone (s.me.pc + 4)) :=
  maskWrite_leads w ms [] d _ y s h hd (by simp) (congrArg Result.done (hx _))

theorem saysMaskWrite : SaysMaskWrite := by
  intro d a b r s h hd gives
  have writes (w : W32) (ms : List (BitVec 3)) (x : State → W32) (y : W32) (hx : ∀ f, x (begun f s) = y) :
      Leads (maskOp w d ms x s) ((s.mwrote d y).wordDone (s.me.pc + 4)) :=
    maskOp_leads w ms d x y s h hd fun f => by rw [hx]; rfl
  refine ⟨?_, ?_, ?_, ?_, ?_, ?_, fun source => ?_⟩
  · change Leads (execMand d a b s) _
    exact writes _ _ _ _ fun f => by rw [msrc_begun, msrc_begun]
  · change Leads (execMor d a b s) _
    exact writes _ _ _ _ fun f => by rw [msrc_begun, msrc_begun]
  · change Leads (execMxor d a b s) _
    exact writes _ _ _ _ fun f => by rw [msrc_begun, msrc_begun]
  · change Leads (execMandn d a b s) _
    exact writes _ _ _ _ fun f => by rw [msrc_begun, msrc_begun]
  · change Leads (execMnot d a s) _
    exact maskOp_leads _ _ d _ _ s h hd fun f => by rw [setM_visible, msrc_begun]
  · change Leads (execMmov d a s) _
    exact writes _ _ _ _ fun f => msrc_begun f s a
  · change Leads (execMfrom d r s) _
    refine maskWrite_leads _ [] [r] d _ _ s h hd (by simpa using source) ?_
    rw [setM_visible, sreg_begun _ s r (by simp) source]

/-- The number of lanes of a mask. -/
theorem lanesOf_length (m : W32) : (lanesOf m).length = ((Finset.range 32).filter (fun L => m.getLsbD L = true)).card := by
  rw [card_filter_range]; rfl

/-- The lowest lane of a mask. -/
theorem lanesOf_headD (m : W32) (none : Nat) : (lanesOf m).headD none = if m = 0 then none else padicValNat 2 m.toNat := by
  rw [List.headD_eq_head?_getD, lanesOf, List.head?_filter]
  split
  next zero => rw [zero, find_bit_zero, Option.getD_none]
  next pos => rw [find_lowest_bit m pos, Option.getD_some]

theorem maskToScalar_leads (w : W32) (a : BitVec 3) (d : BitVec 6) (x : State → W64) (y : W64) (s : State) (h : Ready s) (hd : DstOk d)
    (hx : ∀ f, x (begun f s) = y) : Leads (maskToScalar w a d x s) ((s.wrote d y).wordDone (s.me.pc + 4)) :=
  scalarOp_leads _ d x y s h
    (allowed_scalar _ s rfl (fun _ => rfl) (Nat.zero_le _) rfl (by simp) (by simpa using hd) (by simp) (by simp) rfl rfl (by simp))
    rfl rfl rfl hd (hx _)

theorem saysMaskRead : SaysMaskRead := by
  intro i r s row h hd
  unfold exec
  cases i with
  | mto a d =>
    cases row
    exact maskToScalar_leads _ a d _ _ s h hd fun f => by rw [msrc_begun]
  | mcount a d =>
    cases row
    exact maskToScalar_leads _ a d _ _ s h hd fun f => by rw [msrc_begun, lanesOf_length]
  | mfirst a d =>
    cases row
    exact maskToScalar_leads _ a d _ _ s h hd fun f => by rw [msrc_begun, lanes_begun, lanesOf_headD]
  | _ => cases row

/-- Settles O3: a mask member reads its masks as they stand and writes its one register, a mask register cut to the visible lanes. -/
theorem maskValues : Obligations.MaskValues := ⟨saysMaskRead, saysMaskWrite⟩

/-! ## Branches and jumps (03 R64, R65, R68) -/

/-- The state that a flow row leaves, from the state after its sources have been read: it holds the link if the row links. -/
def FlowRow.linked (r : FlowRow) (next : W64) (s : State) : State := if r.link then s.wrote 1 next else s

theorem FlowRow.linked_edit (r : FlowRow) (next : W64) : StrandEdit (r.linked next) := by
  by_cases links : r.link = true
  · rw [show r.linked next = State.wrote 1 next from funext fun s => if_pos links]
    exact .wrote 1 next
  · rw [show r.linked next = fun s => s from funext fun s => if_neg links]
    exact .id

theorem link_begun (f : Form) (s : State) : (begun f s).link = (begun f s).wrote 1 (s.me.pc + 4) := by
  rw [State.link, nextPc_begun]; rfl

theorem code4_cases (c : BitVec 4) (hc : c.toNat < 6) : c = 0 ∨ c = 1 ∨ c = 2 ∨ c = 3 ∨ c = 4 ∨ c = 5 := by
  revert c
  decide

/-- 03 R64: the conditions of a branch on one register. -/
theorem condZero_eq (c : BitVec 4) (a : W64) (hc : c.toNat < 6) : condZero c a = brTaken c.toNat a.toInt := by
  have zero : a = 0 ↔ a.toInt = 0 := BitVec.toInt_inj.symm
  rcases code4_cases c hc with rfl | rfl | rfl | rfl | rfl | rfl
  · exact decide_eq_decide.2 zero
  · exact (decide_eq_decide.2 (not_congr zero)).trans decide_not
  · rfl
  · rfl
  · rfl
  · rfl

/-- 03 R64: the conditions of a branch on two registers. -/
theorem condPair_eq (c : BitVec 4) (a b : W64) (hc : c.toNat < 6) : condPair c.toNat a b = brrTaken c.toNat a b := by
  rcases code4_cases c hc with rfl | rfl | rfl | rfl | rfl | rfl
  · rfl
  · exact decide_not (p := a = b)
  · rfl
  · rfl
  · rfl
  · rfl


/-- A word of a flow row: its sources read what the row reads, it links if the row links, and it goes where the row says. -/
theorem FlowRow.leads (r : FlowRow) (f : Form) (eff : State → Result) (s : State) (h : Ready s) (a : Allowed f s) (hint : f.hint = false)
    (scalar : f.vector = false) (sources : f.use.sr = r.srcs) (lanes : f.use.vr = []) (cost : Nat)
    (he : eff (begun f s) = if r.taken s then .jump (r.target s) cost (r.linked (s.me.pc + 4) (begun f s))
      else .done (r.linked (s.me.pc + 4) (begun f s))) :
    Leads (issue f eff s) (r.after s) := by
  have after (pc : W64) : (r.linked (s.me.pc + 4) (s.popped f.use.sr)).wordDone pc =
      (if r.link then (s.popped r.srcs).wrote 1 (s.me.pc + 4) else s.popped r.srcs).wordDone pc := by rw [sources]; rfl
  unfold FlowRow.after
  dsimp only
  by_cases taken : r.taken s = true
  · rw [if_pos taken] at he
    rw [if_pos taken, ← after]
    exact edit_leads_jump f eff s h a hint scalar lanes (r.linked_edit _) _ cost he
  · rw [if_neg taken] at he
    rw [if_neg taken, ← after]
    exact edit_leads_done f eff s h a hint scalar lanes (r.linked_edit _) he

theorem allowed_branchForm (w : W32) (rs : List (BitVec 6)) (ok : Bool) (s : State) (hok : ok = true) (srcs : ∀ r ∈ rs, SrcOk s r) :
    Allowed (branchForm w rs ok) s :=
  allowed_scalar _ s hok (fun _ => rfl) (Nat.zero_le _) rfl srcs (by simp [branchForm]) (by simp [branchForm]) (by simp [branchForm]) rfl rfl
    (by simp [branchForm])

theorem allowed_linkForm (w : W32) (rs : List (BitVec 6)) (s : State) (srcs : ∀ r ∈ rs, SrcOk s r) : Allowed (linkForm w rs) s :=
  allowed_scalar _ s rfl (fun _ => rfl) (Nat.zero_le _) rfl srcs (by simp [linkForm, DstOk]) (by simp [linkForm]) (by simp [linkForm]) rfl rfl
    (by simp [linkForm])

/-- 03 R64: a branch of the row whose condition and target are the row's. -/
theorem branch_leads (w : W32) (rs : List (BitVec 6)) (ok : Bool) (taken : State → Bool) (target : State → W64) (c : State → Bool)
    (goal : State → W64) (s : State) (h : Ready s) (hok : ok = true) (srcs : ∀ r ∈ rs, SrcOk s r)
    (hc : c (begun (branchForm w rs ok) s) = taken s) (ht : goal (begun (branchForm w rs ok) s) = target s) :
    Leads (issue (branchForm w rs ok) (fun s => branch (c s) (goal s) s) s)
      (FlowRow.after { srcs := rs, link := false, taken := taken, target := target } s) :=
  FlowRow.leads _ _ _ s h (allowed_branchForm w rs ok s hok srcs) rfl rfl rfl rfl 2 (by rw [hc, ht]; rfl)

/-- 03 R68: a mask branch. -/
theorem maskBranch_leads (w : W32) (m : BitVec 3) (o : BitVec 16) (taken : State → Bool) (c : State → Bool) (s : State) (h : Ready s)
    (hc : c (begun (maskForm w [m]) s) = taken s) :
    Leads (issue (maskForm w [m]) (fun s => branch (c s) (s.plainTarget o) s) s)
      (FlowRow.after { srcs := [], link := false, taken := taken, target := fun s => s.me.pc + o.signExtend 64 * 4 } s) :=
  FlowRow.leads _ _ _ s h (allowed_maskForm w [m] s) rfl rfl rfl rfl 2 (by rw [hc, plainTarget_begun]; rfl)

/-- A row that a check of a field guards. -/
theorem of_guarded {α : Type} {c : Prop} [Decidable c] {x r : α} (row : (if c then none else some x) = some r) : ¬ c ∧ x = r := by
  by_cases bad : c
  · rw [if_pos bad] at row; cases row
  · rw [if_neg bad] at row; exact ⟨bad, Option.some.inj row⟩

theorem saysBranchTable : SaysBranchTable := by
  intro i r s row h srcs
  unfold exec
  cases i with
  | br c a o =>
    obtain ⟨code, rfl⟩ := of_guarded row
    exact branch_leads _ [a] _ _ _ _ _ s h (by simp; omega) srcs
      (by rw [sreg_begun _ s a (by simp [branchForm]) (srcs a (by simp)), condZero_eq c _ (by omega)]) (target_begun _ s o)
  | brr c a b o =>
    obtain ⟨code, rfl⟩ := of_guarded row
    exact branch_leads _ [a, b] _ _ _ _ _ s h (by simp; omega) srcs
      (by rw [sreg_begun _ s a (by simp [branchForm]) (srcs a (by simp)), sreg_begun _ s b (by simp [branchForm]) (srcs b (by simp)),
        condPair_eq c _ _ (by omega)]) (target_begun _ s o)
  | j o =>
    cases row
    exact FlowRow.leads _ _ _ s h (allowed_branchForm _ [] true s rfl (by simp)) rfl rfl rfl rfl 2 (by rw [target_begun]; rfl)
  | call o =>
    cases row
    exact FlowRow.leads _ _ _ s h (allowed_linkForm _ [] s (by simp)) rfl rfl rfl rfl 2 (by rw [target_begun, link_begun]; rfl)
  | bany m o =>
    cases row
    exact maskBranch_leads _ m o _ _ s h (by rw [msrc_begun, m0_begun]; exact decide_not)
  | ball m o =>
    cases row
    exact maskBranch_leads _ m o _ _ s h (by rw [msrc_begun, m0_begun]; rfl)
  | bnone m o =>
    cases row
    exact maskBranch_leads _ m o _ _ s h (by rw [msrc_begun, m0_begun]; rfl)
  | _ => cases row

/-- 03 R65: a jump through a register: a row whose one source is its target. -/
def FlowRow.indirect (a : BitVec 6) (link : Bool) : FlowRow :=
  { srcs := [a], link := link, taken := fun _ => true, target := fun s => src s a }

/-- What 03 R65 says of the answer of a jump through a register. -/
def FlowRow.Jumps (r : FlowRow) (o : Out) (s : State) : Prop :=
  ((r.target s).toNat % 4 = 0 → Leads o (r.after s)) ∧
  ((r.target s).toNat % 4 ≠ 0 → ∃ b : State, b.timeless = (s.popped r.srcs).timeless ∧
    o = .next (b.takeTrap { cause := .misaligned, tval := 0, lanes := s.me.visible, taddr := r.target s }))

theorem FlowRow.indirect_jumps (a : BitVec 6) (link : Bool) (f : Form) (s : State) (h : Ready s) (al : Allowed f s) (hint : f.hint = false)
    (scalar : f.vector = false) (sources : f.use.sr = [a]) (lanes : f.use.vr = []) (source : SrcOk s a) (after : State → State)
    (linked : after (begun f s) = (FlowRow.indirect a link).linked (s.me.pc + 4) (begun f s)) :
    (FlowRow.indirect a link).Jumps (issue f (fun s => jumpTo (s.sreg a) s (after s)) s) s := by
  have reads : (begun f s).sreg a = src s a := sreg_begun f s a (by simp [sources]) source
  refine ⟨fun aligned => ?_, fun misaligned => ⟨begun f s, by rw [begun_timeless, sources]; rfl, ?_⟩⟩
  · refine FlowRow.leads _ f _ s h al hint scalar sources lanes 3 ?_
    rw [reads, linked]
    exact if_neg (not_not.2 aligned)
  · have traps : jumpTo (src s a) (begun f s) (after (begun f s)) = .trap ((begun f s).trapAll .misaligned 0 (src s a)) (begun f s) :=
      if_pos misaligned
    rw [issue_scalar f _ s h al scalar, reads, traps, trapAll_begun]
    simp only [finish]
    rw [State.writeGraftLog_nil _ (by rw [State.takeTrap_graftLog, begun_graftLog, h.noLog])]
    rfl

theorem saysIndirectJump : SaysIndirectJump := by
  intro i r s row h srcs
  change r.Jumps (exec i s) s
  unfold exec
  cases i with
  | jr a =>
    cases row
    exact FlowRow.indirect_jumps a false _ s h (allowed_branchForm _ [a] true s rfl srcs) rfl rfl rfl rfl (srcs a (by simp)) _ rfl
  | callr a =>
    cases row
    exact FlowRow.indirect_jumps a true _ s h (allowed_linkForm _ [a] s srcs) rfl rfl rfl rfl (srcs a (by simp)) _ (link_begun _ s)
  | ret =>
    cases row
    exact FlowRow.indirect_jumps 1 false _ s h (allowed_branchForm _ [1] true s rfl srcs) rfl rfl rfl rfl (srcs 1 (by simp)) _ rfl
  | _ => cases row

/-- Settles O4: a branch or a jump is its row's condition and target, with no other change than the link; a misaligned target of an indirect
jump traps before the link is written. -/
theorem branches : Obligations.Branches := ⟨saysBranchTable, saysIndirectJump⟩

end Sys2Proof.Machine

namespace Sys2Proof.Machine

/-! ## nop, the trap mask, exit, yield, sleep (03 R70, R72, R74, R75) -/

/-- A word without operands that changes its strand by G. -/
theorem plain_leads (w : W32) (eff : State → Result) (G : State → State) (s : State) (h : Ready s) (hG : StrandEdit G)
    (he : eff (begun (plainForm w) s) = .done (G (begun (plainForm w) s))) :
    Leads (issue (plainForm w) eff s) ((G s).wordDone (s.me.pc + 4)) :=
  edit_leads_done (plainForm w) eff s h (allowed_plainForm w s) rfl rfl rfl hG he

theorem saysTrapMaskWords : SaysTrapMaskWords := by
  intro s h
  refine ⟨?_, ?_, ?_⟩
  · change Leads (execNop s) _
    exact plain_leads _ _ _ s h .id rfl
  · change Leads (execTmask s) _
    exact plain_leads _ _ _ s h ⟨fun t => { t with tmasked := true }, rfl, fun _ => ⟨rfl, rfl, rfl⟩⟩ rfl
  · change Leads (execTunmask s) _
    exact plain_leads _ _ _ s h ⟨fun t => { t with tmasked := false }, rfl, fun _ => ⟨rfl, rfl, rfl⟩⟩ rfl

theorem State.timeless_undue (ev : Instr) (s : State) : (s.undue ev).timeless = s.timeless.undue ev := rfl

theorem State.timeless_due (dt : Nat) (ev : Instr) (s : State) : (s.due dt ev).timeless = s.timeless.due dt ev := rfl

theorem State.timeless_strandsOf_over (b : Nat) (s : State) : (s.timeless.strandsOf b).all Strand.over = (s.strandsOf b).all Strand.over := by
  have free : s.timeless.me.run = s.me.run := rfl
  have rest : s.timeless.strands = s.strands := rfl
  have block : s.timeless.me.block = s.me.block := rfl
  have ended : s.timeless.me.over = s.me.over := rfl
  unfold State.strandsOf State.allStrands
  rw [free, rest]
  split
  · rfl
  · simp only [List.singleton_append, List.filter_cons, block]
    split
    · rw [List.all_cons, List.all_cons, ended]
    · rfl

theorem State.timeless_checkBlock (b : Nat) (s : State) : (s.checkBlock b).timeless = s.timeless.checkBlock b := by
  unfold State.checkBlock
  rw [State.timeless_strandsOf_over]
  split
  · exact State.timeless_dueOnce _ _ s
  · rfl

/-- The strand behind a word at which its coverage ends (03 R74, R75). -/
def Strand.movedOn (pc : W64) (t : Strand) : Strand :=
  { t with pc := pc, stall := [], hints := .none, memWait := none, flight := none, matched := false, tretMask := none }

theorem wordDone_movedOn (pc : W64) (s : State) : (s.wordDone pc).mapMe (fun t => { t with stall := [] }) = s.mapMe (Strand.movedOn pc) := rfl

theorem retire_movedOn (pc : W64) (cost : Nat) (s : State) (free : s.me.stepping = false) :
    ((s.retire pc cost false).mapMe (fun t => { t with stall := [] })).timeless = (s.mapMe (Strand.movedOn pc)).timeless := by
  rw [retire_free pc cost s free, State.mapMe_mapMe]
  apply State.timeless_mapMe_strand
  simp only [Strand.timeless, Strand.movedOn]

/-- A word that retires at its issue and at which the coverage ends. -/
theorem retire_begun (f : Form) (s : State) (h : Ready s) :
    (((begun f s).retire (begun f s).nextPc 1 false).mapMe (fun t => { t with stall := [] })).timeless =
      (((s.popped f.use.sr).wordDone (s.me.pc + 4)).mapMe (fun t => { t with stall := [] })).timeless := by
  rw [nextPc_begun, retire_movedOn _ _ _ (by rw [begun_me]; exact h.free), wordDone_movedOn]
  exact State.timeless_mapMe_congr (fun _ => rfl) (begun_timeless f s)

theorem id_begun (f : Form) (s : State) : (begun f s).me.id = s.me.id := by rw [begun_me]
theorem wake_begun (f : Form) (s : State) : (begun f s).me.wake = s.me.wake := by rw [begun_me]
theorem block_begun (f : Form) (s : State) : (begun f s).me.block = s.me.block := by rw [begun_me]

theorem exit_leads (s : State) (h : Ready s) : Leads (execExit s) ((s.mapMe Strand.exit).checkBlock s.me.block) := by
  unfold execExit
  refine Leads.congr (leads_ended _ _ s _ h (allowed_plainForm _ s) rfl rfl (by simp [h.noLog])) ?_
  rw [State.timeless_checkBlock, State.timeless_checkBlock, block_begun]
  exact congrArg _ (State.timeless_mapMe_congr (fun _ => rfl) (begun_bare_timeless _ s rfl))

theorem yield_leads (s : State) (h : Ready s) :
    Leads (execYield s) ((((s.wordDone (s.me.pc + 4)).mapMe (fun t => { t with stall := [], wait := .yielding })).undue
      (.yieldEnd s.me.id)).due (9 * acTicks) (.yieldEnd s.me.id)) := by
  unfold execYield
  refine Leads.congr (leads_ended _ _ s _ h (allowed_plainForm _ s) rfl rfl (by simp [h.noLog])) ?_
  have waits := State.timeless_mapMe_congr (f := fun t => { t with wait := .yielding, reason := 15 }) (fun _ => rfl)
    (retire_begun (plainForm (assemble 0x54900000 [])) s h)
  rw [State.timeless_due, State.timeless_due, State.timeless_undue, State.timeless_undue, id_begun]
  refine congrArg (fun t : State => (t.undue _).due _ _) (waits.trans ?_)
  exact State.timeless_mapMe_strand rfl

/-- The form of a `sleep`. -/
def sleepForm (a : BitVec 6) : Form := { word := assemble 0x54A00000 [(a.toNat, 14)], use := { sr := [a] } }

theorem sleep_leads (a : BitVec 6) (s : State) (h : Ready s) (source : SrcOk s a) : Leads (execSleep a s)
    (let p := ((s.popped [a]).wordDone (s.me.pc + 4)).mapMe (fun t => { t with stall := [] })
     if s.me.wake then p.mapMe (fun t => { t with wake := false })
     else
       let q := (p.mapMe (fun t => { t with wait := .sleeping })).undue (.sleepTimeout s.me.id)
       if src s a = 0 then q else q.due (Min.min (src s a).toNat (2 ^ 32 - 1) * acTicks) (.sleepTimeout s.me.id)) := by
  have al : Allowed (sleepForm a) s :=
    allowed_scalar _ s rfl (fun _ => rfl) (Nat.zero_le _) rfl (by simpa [sleepForm] using source) (by simp [sleepForm]) (by simp [sleepForm])
      (by simp [sleepForm]) rfl rfl (by simp [sleepForm])
  have reads : (begun (sleepForm a) s).sreg a = src s a := sreg_begun _ s a (by simp [sleepForm]) source
  have retired := retire_begun (sleepForm a) s h
  have log : (((begun (sleepForm a) s).retire (begun (sleepForm a) s).nextPc 1 false)).graftLog = [] := by simp [h.noLog]
  have sleeps := State.timeless_mapMe_congr (f := fun t => { t with wait := .sleeping, reason := 15 }) (fun _ => rfl) retired
  unfold execSleep
  change Leads (issue (sleepForm a) _ s) _
  dsimp only
  by_cases wakes : s.me.wake = true
  · rw [if_pos wakes]
    refine (leads_ended (sleepForm a) _ s _ h al rfl (by rw [wake_begun, if_pos wakes]) (by simpa using log)).congr ?_
    exact State.timeless_mapMe_congr (fun _ => rfl) retired
  · rw [if_neg wakes]
    by_cases unlimited : src s a = 0
    · have zero : (src s a).toNat = 0 := by rw [unlimited]; rfl
      rw [if_pos unlimited]
      refine (leads_ended (sleepForm a) _ s _ h al rfl (by rw [wake_begun, if_neg wakes, reads, if_pos zero]) (by simpa using log)).congr ?_
      rw [State.timeless_undue, State.timeless_undue, id_begun]
      exact congrArg (State.undue _) (sleeps.trans (State.timeless_mapMe_strand rfl))
    · have pos : (src s a).toNat ≠ 0 := fun e => unlimited (BitVec.eq_of_toNat_eq e)
      rw [if_neg unlimited]
      refine (leads_ended (sleepForm a) _ s _ h al rfl (by rw [wake_begun, if_neg wakes, reads, if_neg pos]) (by simpa using log)).congr ?_
      rw [State.timeless_due, State.timeless_due, State.timeless_undue, State.timeless_undue, id_begun]
      exact congrArg (fun t : State => (t.undue _).due _ _) (sleeps.trans (State.timeless_mapMe_strand rfl))

theorem saysWaitingWords : SaysWaitingWords := by
  intro a s h
  refine ⟨?_, yield_leads s h, sleep_leads a s h⟩
  refine (exit_leads s h).congr ?_
  rw [State.timeless_checkBlock, State.timeless_checkBlock]
  exact congrArg _ (State.timeless_mapMe_strand rfl)

/-- Settles O11: `nop`, `tmask` and `tunmask` edit the strand; `exit`, `yield` and `sleep` leave it ended or waiting behind the word. -/
theorem strandWords : Obligations.StrandWords := ⟨saysTrapMaskWords, saysWaitingWords⟩

end Sys2Proof.Machine

namespace Sys2Proof.Machine

/-! ## A local store to a window that is not in the canonical form (05 R107, R130) -/

/-- A strand that may issue, in a block whose window of 8 bytes lists the addresses 5 and 0, in this order. -/
def wUnsorted : State := Tests.w0.mapBlk (fun b => { b with window := [(5, 1), (0, 7)], windowSize := 8 })

theorem ready_unsorted : Ready wUnsorted := ⟨rfl, rfl, rfl, rfl, by decide, by decide, rfl, rfl⟩

/-- The window is not one that the model's own operations make. -/
theorem unsorted_not_wf : Memory.wf wUnsorted.blk.window = false := rfl

/-- The store of the byte 0 at the address 0 ends its search at the address 5 and leaves the byte 7 where it stood. -/
theorem unsorted_store_keeps : ∃ t, exec (.sst 1 0 0 0 0) wUnsorted = .next t ∧ Memory.get t.blk.window 0 = 7 := ⟨_, rfl, rfl⟩

/-- Refutes O18: nothing in the statement says that the window is in the canonical form (`Memory.wf`), without which `Memory.set` may lose
a byte 0: a scalar store of S[0] to address 0 of the window [(5, 1), (0, 7)] leaves 7 at address 0. -/
theorem not_localAccess : ¬ Obligations.LocalAccess := by
  rintro ⟨-, stores, -⟩
  obtain ⟨passes, -⟩ := stores 0 0 0 0 wUnsorted ready_unsorted (.inl (by decide)) (.inl (by decide)) (.inl (by decide))
  obtain ⟨w, bad, -, ⟨t, runs, same⟩, holds⟩ := passes (by decide)
  obtain ⟨t', runs', keeps⟩ := unsorted_store_keeps
  obtain rfl : t = t' := by rw [runs] at runs'; exact Host.Outcome.next.inj runs'
  have window : t.blk.window = w := congrArg (fun s : State => s.blk.window) same
  have zero := holds 0
  rw [← window, keeps] at zero
  exact absurd zero (by decide)

end Sys2Proof.Machine

namespace Sys2Proof.Machine

/-! ## A word that has issued and is tried again (01 R33) -/

/-- The strand in the focus stands in the middle of a word, whose time has come. -/
structure Retried (s : State) : Prop where
  running : s.me.run = .running
  issued  : s.me.issued = true
  free    : s.me.stepping = false
  due     : s.me.readyAt ≤ s.now
  whole   : s.me.corrupt = []
  noLog   : s.graftLog = []

/-- A word that has issued goes on with its effect, from the state as it stands. -/
theorem issue_retried (f : Form) (eff : State → Result) (s : State) (h : Retried s) :
    issue f eff s = .next (finish f s (if f.vector ∧ s.active = 0 then f.emptyMask s else eff s)).writeGraftLog := by
  have goes : verdict f s = .go := by
    unfold verdict
    rw [if_neg (not_not.2 h.running), if_pos h.issued]
  have early : s.early f = false := by simp [State.early, h.issued]
  have clean : s.readsCorrupt f = false := by simp [State.readsCorrupt, h.issued]
  have same : s.begin f = s := by
    rw [State.begin, if_pos h.issued]
    exact State.advance_of_le _ s (Nat.max_le.2 ⟨Nat.le_refl _, h.due⟩)
  unfold issue
  rw [goes, early, clean, same]
  rfl

/-- What strand and log of a state ask of the end of a retried word. -/
theorem retried_done (f : Form) (eff : State → Result) (s s1 : State) (h : Retried s) (hint : f.hint = false)
    (lanes : f.vector = false ∨ s.active ≠ 0) (he : eff s = .done s1) (log : s1.graftLog = []) (free : s1.me.stepping = false)
    (whole : s1.me.corrupt = []) : Leads (issue f eff s) ((s1.popChans f.use).wordDone (s.me.pc + 4)) := by
  refine ⟨_, issue_retried f eff s h, ?_⟩
  rw [if_neg (by rintro ⟨v, e⟩; rcases lanes with l | l; exacts [by simp [l] at v, l e]), he]
  simp only [finish]
  rw [State.writeGraftLog_nil _ (by simp [log]), complete_timeless _ _ _ _ _ hint (by simp [free]) (by simp [whole])]
  rfl

theorem retried_trap (f : Form) (eff : State → Result) (s s1 : State) (x : Trap) (h : Retried s) (lanes : f.vector = false ∨ s.active ≠ 0)
    (he : eff s = .trap x s1) (log : s1.graftLog = []) : issue f eff s = .next (s1.takeTrap x) := by
  rw [issue_retried f eff s h, if_neg (by rintro ⟨v, e⟩; rcases lanes with l | l; exacts [by simp [l] at v, l e]), he]
  simp only [finish]
  rw [State.writeGraftLog_nil _ (by rw [State.takeTrap_graftLog, log])]

theorem retried_ended (f : Form) (eff : State → Result) (s s1 : State) (h : Retried s) (lanes : f.vector = false ∨ s.active ≠ 0)
    (he : eff s = .ended s1) (log : s1.graftLog = []) : issue f eff s = .next (s1.countIssue f) := by
  rw [issue_retried f eff s h, if_neg (by rintro ⟨v, e⟩; rcases lanes with l | l; exacts [by simp [l] at v, l e]), he]
  simp only [finish]
  rw [State.writeGraftLog_nil _ (by rw [State.countIssue_graftLog, log])]

/-! ## What a word holds while it waits for its memory (05 R103) -/

/-- The state whose strand holds another flight and other units, which no end of a word keeps. -/
def State.withReply (flight : Option Flight) (units : Option MemWait) (s : State) : State :=
  s.mapMe (fun t => { t with flight := flight, memWait := units })

section
variable (fl : Option Flight) (mw : Option MemWait) (s : State)

theorem withReply_self : s.withReply s.me.flight s.me.memWait = s := rfl

theorem withReply_wordDone (pc : W64) : (s.withReply fl mw).wordDone pc = s.wordDone pc := rfl

theorem withReply_takeTrap (x : Trap) : (s.withReply fl mw).takeTrap x = s.takeTrap x := rfl

theorem withReply_mapBlk (f : Block → Block) : (s.withReply fl mw).mapBlk f = (s.mapBlk f).withReply fl mw := rfl

theorem withReply_wrote (d : BitVec 6) (x : W64) : (s.withReply fl mw).wrote d x = (s.wrote d x).withReply fl mw := by
  unfold State.wrote
  split <;> rfl

theorem withReply_popChans (u : Use) : (s.withReply fl mw).popChans u = (s.popChans u).withReply fl mw := by
  unfold State.popChans
  split
  · rfl
  · generalize u.readChans = l
    induction l generalizing s with
    | nil => rfl
    | cons c l ih =>
      rw [List.foldl_cons, List.foldl_cons, withReply_mapBlk]
      exact ih _

theorem withReply_wakeStrands (slot block : Nat) :
    (s.withReply fl mw).wakeStrands (fun t => t.block == block && t.slot == slot) =
      (s.wakeStrands (fun t => t.block == block && t.slot == slot)).withReply fl mw := by
  unfold State.wakeStrands State.mapStrands State.withReply State.mapMe Strand.woken
  dsimp only
  split
  · split <;> rfl
  · rfl

theorem withReply_chanPush (c : Nat) (x : Vec) : (s.withReply fl mw).chanPush c x = (s.chanPush c x).withReply fl mw := by
  have blk : (s.withReply fl mw).blk = s.blk := rfl
  have block : (s.withReply fl mw).me.block = s.me.block := rfl
  unfold State.chanPush
  dsimp only
  rw [blk, block, withReply_mapBlk]
  split
  · exact withReply_wakeStrands fl mw _ _ _
  · rfl

theorem withReply_vwrote (d : BitVec 7) (x : Vec) : (s.withReply fl mw).vwrote d x = (s.vwrote d x).withReply fl mw := by
  unfold State.vwrote
  split
  · exact withReply_chanPush fl mw s _ x
  · rfl

theorem withReply_vkept (d : BitVec 7) (L : Nat) : vkept (s.withReply fl mw) d L = vkept s d L := rfl

end

/-! ## The reply of a load (05 R103, R106, R112, R113) -/

/-- 05 R113: what a reply brings to a word that has nothing yet. -/
theorem arrive_eq (a : Access) (vals : List (Nat × Nat)) (decode : List Nat) (s : State) (m : MemWait) (waits : s.me.memWait = some m)
    (none' : m.waiting = []) :
    a.arrive vals decode s = (m.take a vals decode, s.withReply none (some (m.take a vals decode))) := by
  have waiting : (m.take a vals decode).waiting = [] := none'
  have same : { m.take a vals decode with waiting := [] } = m.take a vals decode := by rw [← waiting]
  unfold Access.arrive State.resolve walkUnits
  simp only [State.mapMe, waits, Option.getD_some, waiting, List.foldl_nil, same]
  rfl

theorem loadOn_deliver (a : Access) (put : List (Nat × Nat) → State → State) (m : MemWait) (s : State) (waiting : m.waiting = []) (ok : m.ok = []) :
    a.loadOn put m s = a.deliver m put s := by
  unfold Access.loadOn
  rw [if_neg (by simp [waiting]), if_pos (.inl ok), if_neg (by simp [waiting])]

/-- A reply for a word whose units wait for nothing else. -/
structure Replied (s : State) (m : MemWait) (vals : List (Nat × Nat)) (decode poison : List Nat) : Prop where
  waits   : s.me.memWait = some m
  failed  : m.failed = []
  waiting : m.waiting = []
  ok      : m.ok = []
  got     : m.got = []
  flight  : s.me.flight = some (.loaded vals decode poison)

section
variable {s : State} {m : MemWait} {vals : List (Nat × Nat)} {decode poison : List Nat} (h : Replied s m vals decode poison) (a : Access)
  (put : List (Nat × Nat) → State → State)

include h

theorem globalLoad_poisoned (bad : poison ≠ []) : globalLoad a put s = a.poisoned poison s := by
  unfold globalLoad
  rw [h.flight]
  exact if_pos bad

theorem localLoad_poisoned (bad : poison ≠ []) : localLoad a put s = a.poisoned poison s := by
  unfold localLoad
  rw [h.flight]
  exact if_pos bad

theorem globalLoad_replied (good : poison = []) :
    globalLoad a put s = a.deliver (m.take a vals decode) put (s.withReply none (some (m.take a vals decode))) := by
  unfold globalLoad
  rw [h.flight]
  dsimp only
  rw [if_neg (not_not.2 good), arrive_eq a vals decode s m h.waits h.waiting]
  exact loadOn_deliver a put _ _ h.waiting h.ok

theorem take_got (unmarked : ∀ v ∈ vals, v.1 ∉ decode) : (m.take a vals decode).got = vals := by
  unfold MemWait.take
  dsimp only
  rw [h.got, List.nil_append, List.filter_eq_self]
  intro v hv
  simpa using unmarked v hv

theorem take_failed : (m.take a vals decode).failed = decode.map (fun L => { lane := L, cause := .decode, ea := lookupD a.units L 0 }) := by
  unfold MemWait.take
  dsimp only
  rw [h.failed, List.nil_append]

/-- 05 R106: a reply without marks gives its values to the lanes that loaded, from either space. -/
theorem globalLoad_done (good : poison = []) (unmarked : decode = []) (some' : vals ≠ []) :
    globalLoad a put s = .done (put vals (s.withReply none (some (m.take a vals decode)))) := by
  have got := take_got h a (by simp [unmarked])
  have failed := take_failed h a
  rw [unmarked, List.map_nil] at failed
  rw [globalLoad_replied h a put good, Access.deliver, got, unmarked, failed, if_neg (by simp [some']), Access.finish, if_pos rfl]

theorem localLoad_done (good : poison = []) : localLoad a put s = .done (put vals s) := by
  unfold localLoad
  rw [h.flight]
  dsimp only
  rw [if_neg (not_not.2 good), h.waits, Option.map_some, Option.getD_some, h.failed, Access.finish, if_pos rfl]

end
/-! ### Values as a load extends them (03 R62, 05 R106) -/

theorem signedOf_eq (k x : Nat) (pos : 0 < k) : signedOf k x = (BitVec.ofNat k x).toInt := by
  have half : 2 ^ k = 2 * 2 ^ (k - 1) := by rw [← pow_succ', Nat.sub_add_cancel pos]
  rw [BitVec.toInt_eq_toNat_cond, BitVec.toNat_ofNat]
  unfold signedOf
  dsimp only
  by_cases low : x % 2 ^ k < 2 ^ (k - 1)
  · rw [if_pos low, if_pos (by omega)]
  · rw [if_neg low, if_neg (by omega)]

theorem extendLoad_eq (w n x : Nat) (signed : Bool) (pos : 0 < n) : extendLoad w n x signed = extended w n x signed := by
  unfold extendLoad extended
  rw [signedOf_eq _ _ (by omega)]
  rfl

/-- A value of the register's own width is the same under both extensions. -/
theorem extended_full (n x : Nat) (signed : Bool) : extended (8 * n) n x signed = extended (8 * n) n x true := by
  cases signed
  · unfold extended
    simp
  · rfl

theorem elemSize_eq (z : BitVec 3) (hz : ¬ 4 < z.toNat) : elemSize z = vsize z := by
  revert z
  decide

/-- 05 R106: what a vector load of size z writes to a lane. -/
theorem vectorValue_eq (z : BitVec 3) (x : Nat) (hz : ¬ 4 < z.toNat) :
    extendLoad 32 (elemSize z) x (z.toNat % 2 == 0) = extended 32 (vsize z) x (z == 0 || z == 2) := by
  rw [extendLoad_eq _ _ _ _ (by revert z; decide), elemSize_eq z hz]
  have codes : z = 0 ∨ z = 1 ∨ z = 2 ∨ z = 3 ∨ z = 4 := by
    revert z
    decide
  rcases codes with rfl | rfl | rfl | rfl | rfl
  · rfl
  · rfl
  · rfl
  · rfl
  · exact (extended_full 4 x false).symm

/-- 03 R62: what a scalar load of size z writes. -/
theorem scalarValue_eq (z : BitVec 3) (x : Nat) (hz : z.toNat ≤ 6) :
    extendLoad 64 (sldSize z) x (z.toNat % 2 == 0) = extended 64 (2 ^ (z.toNat / 2)) x (z == 0 || z == 2 || z == 4) := by
  have codes : z = 0 ∨ z = 1 ∨ z = 2 ∨ z = 3 ∨ z = 4 ∨ z = 5 ∨ z = 6 := by
    revert z
    decide
  rcases codes with rfl | rfl | rfl | rfl | rfl | rfl | rfl
  · exact extendLoad_eq 64 1 x true (by decide)
  · exact extendLoad_eq 64 1 x false (by decide)
  · exact extendLoad_eq 64 2 x true (by decide)
  · exact extendLoad_eq 64 2 x false (by decide)
  · exact extendLoad_eq 64 4 x true (by decide)
  · exact extendLoad_eq 64 4 x false (by decide)
  · exact (extendLoad_eq 64 8 x true (by decide)).trans (extended_full 8 x false).symm

/-! ### The trap of an access (05 R112, R113) -/

theorem lowestFault_mem (l : List LaneFault) (some' : l ≠ []) : ∃ g ∈ l, lowestFault l = some g := by
  induction l with
  | nil => exact absurd rfl some'
  | cons f r ih =>
    unfold lowestFault
    split
    next g found =>
      have below : g ∈ r := by
        cases r with
        | nil => simp [lowestFault] at found
        | cons => obtain ⟨g', mem, e⟩ := ih (by simp); rw [found] at e; cases e; exact mem
      split
      · exact ⟨g, List.mem_cons_of_mem _ below, rfl⟩
      · exact ⟨f, List.mem_cons_self, rfl⟩
    · exact ⟨f, List.mem_cons_self, rfl⟩

/-- The units that a word's reply finds marked. -/
def markedFaults (a : Access) (decode : List Nat) : List LaneFault :=
  decode.map (fun L => { lane := L, cause := .decode, ea := lookupD a.units L 0 })

/-- 05 R113: the trap of a word that has read marked data. -/
theorem fault_marked (a : Access) (decode : List Nat) (s : State) (marked : decode ≠ []) : ∃ L ∈ decode,
    a.fault (markedFaults a decode) s =
      { cause := .decode, tval := 0, taddr := lookupD a.units L 0,
        lanes := if a.scalar then s.me.visible else if a.whole then s.me.m0
          else maskOf (fun L => (markedFaults a decode).any (fun g => decide (g.lane / a.per = L))) } := by
  obtain ⟨g, mem, lowest⟩ := lowestFault_mem (markedFaults a decode) (by simpa [markedFaults] using marked)
  obtain ⟨L, hL, rfl⟩ := List.mem_map.1 mem
  refine ⟨L, hL, ?_⟩
  unfold Access.fault
  rw [lowest]
  rfl

/-- The lanes of such a trap, where each lane is one unit. -/
theorem maskOf_marked (a : Access) (decode : List Nat) (one : a.per = 1) (L : Nat) (hL : L < 32) :
    (maskOf (fun L => (markedFaults a decode).any (fun g => decide (g.lane / a.per = L)))).getLsbD L = decode.contains L := by
  rw [getLsbD_maskOf _ L hL, one]
  simp only [markedFaults, Nat.div_one, List.any_map, Function.comp_def, List.contains_eq_any_beq]
  congr 1
  funext M
  rw [Bool.beq_eq_decide_eq]
  exact decide_eq_decide.2 eq_comm

/-- 05 R113: what poisoned data make of a word: no lane completes. -/
theorem poisoned_eq (a : Access) (lanes : List Nat) (s : State) (bad : lanes ≠ []) : ∃ L ∈ lanes,
    a.poisoned lanes s = .ended (s.halt { cause := .poison, tval := 0, lanes := s.me.visible, taddr := lookupD a.units L 0 }) := by
  obtain ⟨g, mem, lowest⟩ := lowestFault_mem (lanes.map (fun L => ({ lane := L, cause := .poison, ea := lookupD a.units L 0 } : LaneFault)))
    (by simpa using bad)
  obtain ⟨L, hL, rfl⟩ := List.mem_map.1 mem
  refine ⟨L, hL, ?_⟩
  unfold Access.poisoned
  rw [lowest]
  rfl

/-! ### Scalar loads -/

/-- The form of a scalar load. -/
def sldForm (p : BitVec 1) (z : BitVec 3) (d a : BitVec 6) (i : BitVec 10) : Form :=
  { word := assemble 0x30000000 [(p.toNat, 25), (z.toNat, 22), (d.toNat, 16), (a.toNat, 10), (i.toNat, 0)], ok := decide (z.toNat ≤ 6),
    use := { sr := [a], sw := [d] }, lat := loadLatency p, fixed := false }

/-- The effect of a scalar load. -/
def sldEffect (p : BitVec 1) (z : BitVec 3) (d a : BitVec 6) (i : BitVec 10) (s : State) : Result :=
  let acc := scalarAccess (s.sreg a + s.imm i) (sldSize z) .read
  let put := putScalar d (sldSize z) (z.toNat % 2 == 0)
  if p = 1 then localLoad acc put s else globalLoad acc put s

theorem exec_sld (p : BitVec 1) (z : BitVec 3) (d a : BitVec 6) (i : BitVec 10) (s : State) :
    exec (.sld p z d a i) s = issue (sldForm p z d a i) (sldEffect p z d a i) s := rfl

theorem putScalar_one (d : BitVec 6) (z : BitVec 3) (L v : Nat) (s : State) (hz : z.toNat ≤ 6) (hd : DstOk d) :
    putScalar d (sldSize z) (z.toNat % 2 == 0) [(L, v)] s = s.wrote d (extended 64 (2 ^ (z.toNat / 2)) v (z == 0 || z == 2 || z == 4)) := by
  unfold putScalar
  dsimp only
  rw [setS_plain _ _ _ hd, scalarValue_eq z v hz]

section
variable {s : State} {m : MemWait} {v : Nat} {decode poison : List Nat} (r : Retried s) (h : Replied s m [(0, v)] decode poison)
  (p : BitVec 1) (z : BitVec 3) (d a : BitVec 6) (i : BitVec 10)

include r h

theorem sld_reply_done (hz : z.toNat ≤ 6) (hd : DstOk d) (unmarked : decode = []) (good : poison = []) :
    Leads (exec (.sld p z d a i) s)
      ((s.wrote d (extended 64 (2 ^ (z.toNat / 2)) v (z == 0 || z == 2 || z == 4))).wordDone (s.me.pc + 4)) := by
  -- Either space puts the value, in a state that differs from s in what the word held alone.
  have puts : ∃ fl mw, sldEffect p z d a i s =
      .done ((s.withReply fl mw).wrote d (extended 64 (2 ^ (z.toNat / 2)) v (z == 0 || z == 2 || z == 4))) := by
    unfold sldEffect
    dsimp only
    split
    · exact ⟨s.me.flight, s.me.memWait, by rw [localLoad_done h _ _ good, putScalar_one d z 0 v s hz hd, withReply_self]⟩
    · exact ⟨_, _, by rw [globalLoad_done h _ _ good unmarked (by simp), putScalar_one d z 0 v _ hz hd]⟩
  obtain ⟨fl, mw, he⟩ := puts
  rw [exec_sld]
  refine (retried_done _ _ s _ r rfl (.inl rfl) he ?_ ?_ ?_).congr ?_
  · rw [wrote_graftLog]; exact r.noLog
  · rw [wrote_me_stepping]; exact r.free
  · rw [wrote_me_corrupt]; exact r.whole
  · rw [popChans_nil _ _ rfl, withReply_wrote, withReply_wordDone]

theorem sld_reply_marked (marked : decode = [0]) (good : poison = []) : exec (.sld 0 z d a i) s =
    .next (s.takeTrap { cause := .decode, tval := 0, lanes := s.me.visible, taddr := s.sreg a + s.imm i }) := by
  have traps : sldEffect 0 z d a i s = .trap { cause := .decode, tval := 0, lanes := s.me.visible, taddr := s.sreg a + s.imm i }
      (s.withReply none (some (m.take (scalarAccess (s.sreg a + s.imm i) (sldSize z) .read) [(0, v)] decode))) := by
    unfold sldEffect
    dsimp only
    rw [if_neg (by decide), globalLoad_replied h _ _ good, Access.deliver]
    have none' : (m.take (scalarAccess (s.sreg a + s.imm i) (sldSize z) .read) [(0, v)] decode).got = [] := by
      simp [MemWait.take, h.got, marked]
    rw [if_pos (.inl none'), take_failed h, marked]
    rfl
  rw [exec_sld, retried_trap _ _ s _ _ r (.inl rfl) traps r.noLog, withReply_takeTrap]

theorem sld_reply_poisoned (bad : poison = [0]) : exec (.sld p z d a i) s =
    .next ((s.halt { cause := .poison, tval := 0, lanes := s.me.visible, taddr := s.sreg a + s.imm i }).countIssue (sldForm p z d a i)) := by
  have halts : sldEffect p z d a i s = .ended (s.halt { cause := .poison, tval := 0, lanes := s.me.visible, taddr := s.sreg a + s.imm i }) := by
    have poisons : ∀ acc put, localLoad acc put s = acc.poisoned [0] s ∧ globalLoad acc put s = acc.poisoned [0] s := fun acc put => by
      rw [localLoad_poisoned h acc put (by simp [bad]), globalLoad_poisoned h acc put (by simp [bad]), bad]
      exact ⟨rfl, rfl⟩
    unfold sldEffect
    dsimp only
    rw [(poisons _ _).1, (poisons _ _).2, ite_self]
    rfl
  rw [exec_sld, retried_ended _ _ s _ r (.inl rfl) halts (by rw [State.halt_graftLog, r.noLog])]

end

/-! ### Vector loads -/

/-- 05 R98, R106: each row of the vector loads is one load, of the units that its addressing gives. -/
theorem tableLoads_exec (i : Instr) (r : MemRow) (row : tableLoads i = some r) :
    ∃ (z : BitVec 3) (w : W32) (units : State → List (Nat × W64)), ¬ 4 < z.toNat ∧ r.size = vsize z ∧ r.signed = (z == 0 || z == 2) ∧
      ∀ s, exec i s = issue (loadForm w r.space z r.vsrcs r.data r.base)
        (fun s => vectorLoad r.space r.data z r.whole (units s) s) s := by
  cases i with
  | vldIndexed p d b o z =>
    obtain ⟨hz, rfl⟩ := of_guarded row
    exact ⟨z, _, indexedUnits b o, hz, rfl, rfl, fun s => by simp only [MemRow.whole, List.any_cons, List.any_nil, Bool.or_false]; rfl⟩
  | vldUnit p d b z =>
    obtain ⟨hz, rfl⟩ := of_guarded row
    exact ⟨z, _, unitUnits b (elemSize z), hz, rfl, rfl, fun s => by simp only [MemRow.whole, List.any_cons, List.any_nil, Bool.or_false]; rfl⟩
  | vldBroadcast p d b z =>
    obtain ⟨hz, rfl⟩ := of_guarded row
    exact ⟨z, _, broadcastUnits b, hz, rfl, rfl, fun s => by simp only [MemRow.whole, List.any_cons, List.any_nil, Bool.or_false]; rfl⟩
  | _ => cases row

/-- 05 R106: the vector that a load leaves in its destination: its values in the lanes that have some, the others as they were. -/
def loadedVec (r : MemRow) (vals : List (Nat × Nat)) (s : State) : Vec :=
  Vec.tab (fun L => if vals.any (fun v => v.1 == L) then extended 32 r.size (lookupD vals L 0) r.signed else vkept s r.data L)

theorem putVector_eq (r : MemRow) (z : BitVec 3) (vals : List (Nat × Nat)) (s : State) (hz : ¬ 4 < z.toNat) (size : r.size = vsize z)
    (signed : r.signed = (z == 0 || z == 2)) : putVector r.data z vals s = s.vwrote r.data (loadedVec r vals s) := by
  unfold putVector loadedVec
  rw [setV_eq]
  refine congrArg (fun x => s.vwrote r.data x) (Vec.tab_congr _ _ fun L hL => ?_)
  rw [getLsbD_maskOf _ L hL, Vec.lane_tab _ _ hL, vectorValue_eq z _ hz, size, signed]
  rfl

/-- The access of a vector load. -/
def vectorAccess (units : List (Nat × W64)) (z : BitVec 3) (whole : Bool) : Access :=
  { units := units, size := elemSize z, acc := .read, whole := whole }

theorem vectorLoad_agreed (p : BitVec 1) (d : BitVec 7) (z : BitVec 3) (whole : Bool) (units : List (Nat × W64)) (s : State)
    (agree : isChan d = true → s.disagree s.active = 0) :
    vectorLoad p d z whole units s = if p = 1 then localLoad (vectorAccess units z whole) (putVector d z) s
      else globalLoad (vectorAccess units z whole) (putVector d z) s := by
  unfold vectorLoad
  dsimp only
  split
  next chan => rw [State.compare, if_pos (agree chan)]; rfl
  next => rfl

section
variable {s : State} {m : MemWait} {vals : List (Nat × Nat)} {decode poison : List Nat} (ready : Retried s)
  (h : Replied s m vals decode poison) (i : Instr) (r : MemRow) (row : tableLoads i = some r) (active : s.active ≠ 0)
  (agree : isChan r.data = true → s.disagree s.active = 0)

include ready h row active agree

theorem vld_reply_done (unmarked : decode = []) (good : poison = []) (some' : vals ≠ []) :
    Leads (exec i s) (((s.vwrote r.data (loadedVec r vals s)).vpopped r.vsrcs).wordDone (s.me.pc + 4)) := by
  obtain ⟨z, w, units, hz, size, signed, exec_eq⟩ := tableLoads_exec i r row
  have puts : ∃ fl mw, vectorLoad r.space r.data z r.whole (units s) s =
      .done ((s.withReply fl mw).vwrote r.data (loadedVec r vals s)) := by
    rw [vectorLoad_agreed _ _ _ _ _ _ agree]
    split
    · exact ⟨s.me.flight, s.me.memWait, by rw [localLoad_done h _ _ good, putVector_eq r z vals s hz size signed, withReply_self]⟩
    · exact ⟨_, _, by rw [globalLoad_done h _ _ good unmarked some', putVector_eq r z vals _ hz size signed]; rfl⟩
  obtain ⟨fl, mw, he⟩ := puts
  rw [exec_eq]
  refine Leads.congr (retried_done _ _ s _ ready rfl (.inr active) he ?_ ?_ ?_) ?_
  · rw [vwrote_graftLog]; exact ready.noLog
  · rw [vwrote_me_stepping]; exact ready.free
  · rw [vwrote_me_corrupt]; exact ready.whole
  · rw [withReply_vwrote, withReply_popChans, withReply_wordDone]
    rfl

theorem vld_reply_marked (space : r.space = 0) (marked : decode ≠ []) (good : poison = []) (apart : ∀ v ∈ vals, v.1 ∉ decode) :
    ∃ (b : State) (lanes : W32) (ea : W64),
      b.timeless = (if r.whole = true ∨ vals = [] then s else s.vwrote r.data (loadedVec r vals s)).timeless ∧
      (∀ L < 32, lanes.getLsbD L = if r.whole then s.me.m0.getLsbD L else decode.contains L) ∧
      exec i s = .next (b.takeTrap { cause := .decode, tval := 0, lanes := lanes, taddr := ea }) := by
  obtain ⟨z, w, units, hz, size, signed, exec_eq⟩ := tableLoads_exec i r row
  have failed := take_failed h (vectorAccess (units s) z r.whole)
  have got := take_got h (vectorAccess (units s) z r.whole) apart
  have some' : markedFaults (vectorAccess (units s) z r.whole) decode ≠ [] := by simpa [markedFaults] using marked
  -- The state that the word leaves, in all but what the word held.
  have delivers : ∃ fl mw, vectorLoad r.space r.data z r.whole (units s) s =
      .trap ((vectorAccess (units s) z r.whole).fault (markedFaults (vectorAccess (units s) z r.whole) decode)
          ((if r.whole = true ∨ vals = [] then s else s.vwrote r.data (loadedVec r vals s)).withReply fl mw))
        ((if r.whole = true ∨ vals = [] then s else s.vwrote r.data (loadedVec r vals s)).withReply fl mw) := by
    refine ⟨none, some (m.take (vectorAccess (units s) z r.whole) vals decode), ?_⟩
    rw [vectorLoad_agreed _ _ _ _ _ _ agree, space, if_neg (by decide), globalLoad_replied h _ _ good, Access.deliver, got, failed]
    change Access.finish _ (markedFaults _ _) _ = _
    rw [Access.finish, if_neg some']
    by_cases kept : r.whole = true ∨ vals = []
    · have keeps : vals = [] ∨ ((vectorAccess (units s) z r.whole).whole = true ∧ markedFaults (vectorAccess (units s) z r.whole) decode ≠ []) :=
        kept.symm.imp_right fun w => ⟨w, some'⟩
      rw [if_pos kept]
      exact congrArg (fun t : State => Result.trap (Access.fault _ _ t) t) (if_pos keeps)
    · have puts : ¬ (vals = [] ∨ ((vectorAccess (units s) z r.whole).whole = true ∧ markedFaults (vectorAccess (units s) z r.whole) decode ≠ [])) :=
        fun keeps => kept (keeps.symm.imp_left fun w => w.1)
      rw [if_neg kept]
      refine congrArg (fun t : State => Result.trap (Access.fault _ _ t) t) ((if_neg puts).trans ?_)
      rw [putVector_eq r z vals _ hz size signed, withReply_vwrote]
      rfl
  obtain ⟨fl, mw, he⟩ := delivers
  obtain ⟨L, -, fault⟩ := fault_marked (vectorAccess (units s) z r.whole) decode
    ((if r.whole = true ∨ vals = [] then s else s.vwrote r.data (loadedVec r vals s)).withReply fl mw) marked
  set b := if r.whole = true ∨ vals = [] then s else s.vwrote r.data (loadedVec r vals s) with left
  have log : b.graftLog = [] := by
    rw [left]
    split
    · exact ready.noLog
    · rw [vwrote_graftLog]; exact ready.noLog
  refine ⟨b, if r.whole = true then b.me.m0 else maskOf fun L =>
      (markedFaults (vectorAccess (units s) z r.whole) decode).any (fun g => decide (g.lane / (vectorAccess (units s) z r.whole).per = L)),
    lookupD (units s) L 0, rfl, fun M hM => ?_, ?_⟩
  · by_cases whole : r.whole = true
    · rw [if_pos whole, if_pos whole, left, if_pos (.inl whole)]
    · rw [if_neg whole, if_neg whole]
      exact maskOf_marked _ decode rfl M hM
  · refine (exec_eq s).trans ((retried_trap _ (fun s => vectorLoad r.space r.data z r.whole (units s) s) s _ _ ready (.inr active) he log).trans ?_)
    rw [fault, withReply_takeTrap]
    rfl

theorem vld_reply_poisoned (bad : poison ≠ []) : ∃ (f : Form) (ea : W64),
    exec i s = .next ((s.halt { cause := .poison, tval := 0, lanes := s.me.visible, taddr := ea }).countIssue f) := by
  obtain ⟨z, w, units, -, -, -, exec_eq⟩ := tableLoads_exec i r row
  obtain ⟨L, -, halts⟩ := poisoned_eq (vectorAccess (units s) z r.whole) poison s bad
  refine ⟨loadForm w r.space z r.vsrcs r.data r.base, lookupD (units s) L 0, ?_⟩
  rw [exec_eq]
  refine retried_ended _ _ s _ ready (.inr active) ?_ (by rw [State.halt_graftLog, ready.noLog])
  rw [vectorLoad_agreed _ _ _ _ _ _ agree, localLoad_poisoned h _ _ bad, globalLoad_poisoned h _ _ bad, ite_self, halts]
  rfl

end

/-- Settles O20: a load that is tried again with its reply takes it in, and what the reply brought decides how it ends. -/
theorem loadReplies : Obligations.LoadReplies := by
  constructor
  · intro i r s m vals decode poison row running issued free due whole log active agree waits failed waiting ok got values flight x
    have ready : Retried s := ⟨running, issued, free, due, whole, log⟩
    have reply : Replied s m vals decode poison := ⟨waits, failed, waiting, ok, got, flight⟩
    exact ⟨vld_reply_done ready reply i r row active agree,
      fun space marked good => vld_reply_marked ready reply i r row active agree space marked good fun v hv => (values v hv).2,
      vld_reply_poisoned ready reply i r row active agree⟩
  · intro p z d a i s m v decode poison running issued free due whole log hz hd waits failed waiting ok got _ _ flight n ea
    have ready : Retried s := ⟨running, issued, free, due, whole, log⟩
    have reply : Replied s m [(0, v)] decode poison := ⟨waits, failed, waiting, ok, got, flight⟩
    refine ⟨sld_reply_done ready reply p z d a i hz hd, ?_, fun bad => ⟨_, sld_reply_poisoned ready reply p z d a i bad⟩⟩
    rintro rfl
    exact sld_reply_marked ready reply z d a i

end Sys2Proof.Machine

namespace Sys2Proof.Machine

/-! ## The life of a block (07 R149, R150; 03 R70; 11 R200)

The events of a block's life change its strands and its group; what they do to clocks, beds, clusters, classes, counters and launches stands in
tables of the package, which hold no strand, no block and no group. -/

/-- The state without those tables. -/
def State.roster (s : State) : State :=
  { s with agenda := [], free := 0, beds := [], classes := [], clusters := [], groupBars := [], vds := [], copies := [], launches := [],
           core := Core.init 0, cores := [] }

section
variable {s t : State} (h : t.roster = s.roster)

include h

theorem now_of_roster : t.now = s.now := show t.roster.now = s.roster.now by rw [h]
theorem me_of_roster : t.me = s.me := show t.roster.me = s.roster.me by rw [h]
theorem blk_of_roster : t.blk = s.blk := show t.roster.blk = s.roster.blk by rw [h]
theorem blocks_of_roster : t.blocks = s.blocks := show t.roster.blocks = s.roster.blocks by rw [h]
theorem tasks_of_roster : t.tasks = s.tasks := show t.roster.tasks = s.roster.tasks by rw [h]
theorem graftLog_of_roster : t.graftLog = s.graftLog := show t.roster.graftLog = s.roster.graftLog by rw [h]
theorem allBlocks_of_roster : t.allBlocks = s.allBlocks := show t.roster.allBlocks = s.roster.allBlocks by rw [h]
theorem allStrands_of_roster : t.allStrands = s.allStrands := show t.roster.allStrands = s.roster.allStrands by rw [h]

end

/-! ### What leaves the roster alone -/

section
variable (s : State)

theorem roster_foldl {β : Type} (f : State → β → State) (h : ∀ s b, (f s b).roster = s.roster) (l : List β) : (l.foldl f s).roster = s.roster :=
  foldl_keeps State.roster f h l s

@[simp] theorem roster_mapBlk (f : Block → Block) : (s.mapBlk f).roster = s.roster.mapBlk f := rfl
@[simp] theorem roster_mapStrands (p : Strand → Bool) (f : Strand → Strand) : (s.mapStrands p f).roster = s.roster.mapStrands p f := rfl
@[simp] theorem roster_wakeStrands (p : Strand → Bool) : (s.wakeStrands p).roster = s.roster.wakeStrands p := rfl
@[simp] theorem roster_due (dt : Nat) (ev : Instr) : (s.due dt ev).roster = s.roster := rfl
@[simp] theorem roster_undue (ev : Instr) : (s.undue ev).roster = s.roster := rfl
@[simp] theorem roster_mapBed (n : BitVec 32) (f : Bed → Bed) : (s.mapBed n f).roster = s.roster := rfl
@[simp] theorem roster_mapClass (die num : Nat) (f : ClassBed → ClassBed) : (s.mapClass die num f).roster = s.roster := rfl
@[simp] theorem roster_mapLaunch (die idx : Nat) (f : Launch → Launch) : (s.mapLaunch die idx f).roster = s.roster := rfl
@[simp] theorem roster_mapCopy (op : Nat) (f : CopyOp → CopyOp) : (s.mapCopy op f).roster = s.roster := rfl
@[simp] theorem roster_count (vd ev n priv : Nat) : (s.count vd ev n priv).roster = s.roster := rfl
@[simp] theorem roster_holdGroupClock (group : Nat) : (s.holdGroupClock group).roster = s.roster := rfl

@[simp] theorem roster_dueOnce (dt : Nat) (ev : Instr) : (s.dueOnce dt ev).roster = s.roster := by
  unfold State.dueOnce
  split <;> rfl

@[simp] theorem roster_mapCoreOf (id : Nat) (f : Core → Core) : (s.mapCoreOf id f).roster = s.roster := by
  unfold State.mapCoreOf
  split
  · rfl
  · split <;> rfl

@[simp] theorem roster_mapCluster (cl : Nat) (f : Cluster → Cluster) : (s.mapCluster cl f).roster = s.roster := by
  unfold State.mapCluster
  split <;> rfl

@[simp] theorem roster_mapGroupBar (group : Nat) (f : GroupBarrier → GroupBarrier) : (s.mapGroupBar group f).roster = s.roster := by
  unfold State.mapGroupBar
  split <;> rfl

@[simp] theorem roster_report (n : TreeNode) (bed : BitVec 32) : (s.report n bed).roster = s.roster := by
  unfold State.report
  split
  · rfl
  · split
    · rfl
    · split <;> rfl

@[simp] theorem roster_reportOffers (b : Block) : (s.reportOffers b).roster = s.roster := by
  unfold State.reportOffers
  exact roster_foldl s _ (fun s e => roster_report s (.core b.core) e.bed) b.offers

@[simp] theorem roster_classReport (die num : Nat) (n : TreeNode) : (s.classReport die num n).roster = s.roster := by
  unfold State.classReport
  split
  · rfl
  · split <;> rfl

@[simp] theorem roster_offerLeaf (die num : Nat) (n : TreeNode) : (s.offerLeaf die num n).roster = s.roster := by
  unfold State.offerLeaf
  split
  · rfl
  · dsimp only
    split
    · rfl
    · rw [roster_classReport, roster_mapClass]

@[simp] theorem roster_offerCluster (cl : Nat) : (s.offerCluster cl).roster = s.roster := by
  unfold State.offerCluster
  refine roster_foldl s _ (fun s c => ?_) _
  exact roster_foldl s _ (fun s n => roster_offerLeaf s c.die c.num n) (c.leaves cl)

@[simp] theorem roster_beginSlice (cl : Nat) (v : VDev) : (s.beginSlice cl v).roster = s.roster := by
  unfold State.beginSlice
  rw [roster_dueOnce, roster_dueOnce, roster_mapCluster]

@[simp] theorem roster_finishSwitch (cl : Nat) : (s.finishSwitch cl).roster = s.roster := by
  unfold State.finishSwitch
  dsimp only
  split
  · split
    · rfl
    · split <;> simp
  · rfl

@[simp] theorem roster_resumeGroupClock (group : Nat) : (s.resumeGroupClock group).roster = s.roster := by
  unfold State.resumeGroupClock
  split
  · split
    · rfl
    · dsimp only
      split <;> simp
  · rfl

@[simp] theorem roster_resumeCopies (block : Nat) : (s.resumeCopies block).roster = s.roster :=
  roster_foldl s _ (fun s c => by rw [roster_dueOnce, roster_mapCopy]) _

@[simp] theorem roster_sampleNext (core : Nat) : (s.sampleNext core).roster = s.roster := by
  unfold State.sampleNext
  split
  · split <;> rfl
  · rfl

/-- A pool that has something to place looks at it now. -/
@[simp] theorem roster_serveLater (die : Nat) (ev : Instr) :
    (if s.waitingTasks die = [] then s else s.dueOnce 0 ev).roster = s.roster := by
  split
  · rfl
  · exact roster_dueOnce s 0 ev

/-- A block without the event-enable flag leaves no records of the scheduler (21 R346). -/
theorem schedRecord_off (b : Block) (status since : Nat) (off : b.eventOn = false) : s.schedRecord b status since = s := by
  rw [State.schedRecord, if_pos (by simp [off])]

end

/-! ### Events that are due -/

section
variable {s : State} {ev : Instr}

theorem mem_agenda_of_dueOnce (dt : Nat) (e : Instr) {d : Due} (h : d ∈ s.agenda) : d ∈ (s.dueOnce dt e).agenda := by
  unfold State.dueOnce
  split
  · exact h
  · exact List.mem_append_left _ h

theorem DueNow.dueOnce (h : DueNow ev s) (dt : Nat) (e : Instr) : DueNow ev (s.dueOnce dt e) := by
  obtain ⟨d, hd, same, soon⟩ := h
  exact ⟨d, mem_agenda_of_dueOnce dt e hd, same, by rwa [State.dueOnce_now]⟩

theorem dueNow_dueOnce (s : State) (ev : Instr) : DueNow ev (s.dueOnce 0 ev) := by
  obtain ⟨d, hd, same, soon⟩ := mem_agenda_dueOnce 0 ev s
  exact ⟨d, hd, same, by rwa [State.dueOnce_now]⟩

theorem DueNow.foldl {β : Type} (h : DueNow ev s) (dt : Nat) (e : β → Instr) (l : List β) :
    DueNow ev (l.foldl (fun s x => s.dueOnce dt (e x)) s) := by
  induction l generalizing s with
  | nil => exact h
  | cons x xs ih => exact ih (h.dueOnce dt (e x))

/-- Of events that are made due one after the other each is due. -/
theorem dueNow_foldl {β : Type} (e : β → Instr) {l : List β} {x : β} (hx : x ∈ l) (s : State) :
    DueNow (e x) (l.foldl (fun s x => s.dueOnce 0 (e x)) s) := by
  induction l generalizing s with
  | nil => cases hx
  | cons y ys ih =>
    rcases List.mem_cons.1 hx with rfl | below
    · exact (dueNow_dueOnce s (e x)).foldl 0 e ys
    · exact ih below _

end

/-- An event that leaves no graft record happens as its effect says. -/
theorem happens_of_stepOf {i : Instr} {f : State → State} {s : State} {P : State → Prop} (step : exec i s = stepOf f s)
    (log : (f s).graftLog = []) (holds : P (f s)) : Happens i s P :=
  ⟨f s, step.trans (stepOf_eq f s log), holds⟩

/-! ### The block in the focus -/

/-- The block in the focus is listed, under an identity of its own, and the strand in the focus is one of its strands. -/
structure Homed (s : State) : Prop where
  noLog  : s.graftLog = []
  alone  : ∀ b ∈ s.blocks, b.id ≠ s.blk.id
  listed : s.blk.id ≠ 0
  mine   : s.me.block = s.blk.id

theorem SameRegs.refl (a : Strand) : SameRegs a a := ⟨rfl, rfl, rfl, rfl, rfl, rfl, rfl, rfl⟩

theorem SameUnits.refl (a : Block) : SameUnits a a := ⟨rfl, rfl, rfl, rfl, rfl⟩

theorem sameRegs_woken (a : Strand) : SameRegs a.woken a := by
  unfold Strand.woken
  split <;> exact SameRegs.refl a

theorem sameRegs_resumed (a : Strand) : SameRegs a.resumed a := by
  unfold Strand.resumed
  dsimp only
  split
  · split
    · exact sameRegs_woken _
    · exact sameRegs_woken _
  · exact SameRegs.refl a

theorem mapBlock_focus (s : State) (block : Nat) (f : Block → Block) (focus : s.blk.id = block) (alone : ∀ b ∈ s.blocks, b.id ≠ block) :
    s.mapBlock block f = s.mapBlk f := by
  subst focus
  exact State.mapBlock_blk_eq s f alone

/-- The blocks of the group of the block in the focus meet a test that it and the other listed blocks of the group meet. -/
theorem groupBlocks_all {s : State} {p : Block → Bool} (here : p s.blk = true) (others : ∀ k ∈ s.blocks, k.group = s.blk.group → p k = true) :
    (s.groupBlocks s.blk.group).all p = true := by
  rw [List.all_eq_true]
  intro k hk
  obtain ⟨listed, same⟩ := List.mem_filter.1 hk
  rcases List.mem_append.1 listed with focus | other
  · split at focus
    · cases focus
    · rwa [List.mem_singleton.1 focus]
  · exact others k other (beq_iff_eq.1 same)

/-! ### The clocks of a block's barriers (07 R150) -/

/-- A block whose clocks stand still from now on, or from an earlier stop. -/
def Block.frozen (now : Nat) (b : Block) : Block := { b with frozenAt := if b.frozenAt = 0 then now else b.frozenAt }

/-- A block whose clocks go on. -/
def Block.thawed (now : Nat) (b : Block) : Block :=
  { b with frozenAt := 0, barriers := b.barriers.map (fun r => { r with firstAt := r.firstAt.map (clockAgain now b.frozenAt) }) }

theorem roster_holdClocks (s : State) (block : Nat) (focus : s.blk.id = block) (alone : ∀ b ∈ s.blocks, b.id ≠ block) :
    (s.holdClocks block).roster = s.roster.mapBlk (Block.frozen s.now) := by
  unfold State.holdClocks
  rw [State.block?_blk s block focus]
  dsimp only
  rw [roster_holdGroupClock, mapBlock_focus s block _ focus alone]
  rfl

theorem roster_resumeClocks (s : State) (block : Nat) (focus : s.blk.id = block) (alone : ∀ b ∈ s.blocks, b.id ≠ block) :
    (s.resumeClocks block).roster = s.roster ∨ (s.resumeClocks block).roster = s.roster.mapBlk (Block.thawed s.now) := by
  unfold State.resumeClocks
  rw [State.block?_blk s block focus]
  dsimp only
  split
  · exact .inl rfl
  · split
    · exact .inl (roster_resumeGroupClock s _)
    · refine .inr ?_
      rw [roster_resumeGroupClock, roster_foldl _ _ ?_ _, mapBlock_focus s block _ focus alone]
      · rfl
      · intro u e
        split <;> rfl

/-! ### The events -/

/-- The state whose block has been asked to stop: its clocks stand still, and its strands are woken. -/
def State.stopped (s : State) : State :=
  (s.mapBlk (fun b => ({ b with phase := .stopping, stopAt := s.now } : Block).frozen s.now)).wakeStrands (fun t => t.block == s.blk.id)

/-- The state whose block drains: what runs there waits, with stall reason 14. -/
def State.drains (s : State) : State :=
  (s.mapBlk (fun b => { b with phase := .draining })).mapStrands (fun t => t.block == s.blk.id && decide (t.run = .running))
    (fun t => { t with reason := 14 })

/-- The state with other groups. -/
def State.withTasks (tasks : List Task) (s : State) : State := { s with tasks := tasks }

/-- The state that a block has left, with its strands and its engine's operations. -/
def State.without (block : Nat) (s : State) : State :=
  { s with mxops := s.mxops.filter (fun m => m.block != block),
           me := if s.me.block = block then Strand.init else s.me, strands := s.strands.filter (fun t => t.block != block),
           blk := if s.blk.id = block then Block.init else s.blk, blocks := s.blocks.filter (fun k => k.id != block) }

section
variable {s : State} (h : Homed s)

include h

theorem stopped_regs : SameRegs s.stopped.me s.me := by
  have woken : s.stopped.me = s.me.woken := if_pos (beq_iff_eq.2 h.mine)
  rw [woken]
  exact sameRegs_woken s.me

theorem drains_me : s.drains.me = if s.me.run = .running then { s.me with reason := 14 } else s.me := by
  by_cases run : s.me.run = .running
  · rw [if_pos run]
    exact if_pos (by simp [h.mine, run])
  · rw [if_neg run]
    exact if_neg (by simp [run])

/-- 07 R149: the block stops and its strands are woken; what else a request does before it goes on to the group stands in no roster. -/
theorem requestEviction_eq (running : s.blk.phase = .running) (latch : s.blk.latch = none) : ∃ u : State,
    u.roster = s.stopped.roster ∧ DueNow (.draining s.blk.id) u ∧ s.requestEviction s.blk.id =
      (u.allBlocks.filter (fun k => decide (k.group = s.blk.group ∧ (k.phase = .running ∨ k.phase = .restoring)))).foldl
        (fun s k => s.dueOnce 0 (.evictionRequest k.id)) u := by
  have effect : ∃ (stops : State) (asked : List Strand),
      stops.roster = ((s.mapBlk (fun b => { b with phase := .stopping, stopAt := s.now })).wakeStrands (fun t => t.block == s.blk.id)).roster ∧
      s.requestEviction s.blk.id =
        let u := asked.foldl (fun s t => s.dueOnce (2 ^ 20 * acTicks) (.maskoverrun t.id))
          ((stops.holdClocks s.blk.id).dueOnce 0 (.draining s.blk.id))
        (u.allBlocks.filter (fun k => decide (k.group = s.blk.group ∧ (k.phase = .running ∨ k.phase = .restoring)))).foldl
          (fun s k => s.dueOnce 0 (.evictionRequest k.id)) u := by
    unfold State.requestEviction
    rw [State.block?_blk s _ rfl]
    dsimp only
    rw [if_neg (by simp [running]), if_neg (by simp [running, h.listed]), mapBlock_focus s _ _ rfl h.alone, State.dissolve, latch]
    exact ⟨_, _, roster_reportOffers _ s.blk, rfl⟩
  obtain ⟨stops, asked, same, effect⟩ := effect
  refine ⟨_, ?_, (dueNow_dueOnce (stops.holdClocks s.blk.id) (.draining s.blk.id)).foldl _ (fun t : Strand => .maskoverrun t.id) asked, effect⟩
  have focus : stops.blk.id = s.blk.id := by
    rw [blk_of_roster same]
    rfl
  have alone : ∀ b ∈ stops.blocks, b.id ≠ s.blk.id := by
    rw [blocks_of_roster same]
    exact h.alone
  rw [roster_foldl _ _ (fun s t => roster_dueOnce s _ _) _, roster_dueOnce, roster_holdClocks stops _ focus alone, same, now_of_roster same]
  rfl

/-- 07 R149: a request stops the block and the clocks of its barriers, and wakes its strands; it makes requests to the running blocks of its group. -/
theorem eviction_requested (running : s.blk.phase = .running) (latch : s.blk.latch = none) :
    Happens (.evictionRequest s.blk.id) s (fun t =>
      t.blk = { s.blk with phase := .stopping, stopAt := s.now, frozenAt := if s.blk.frozenAt = 0 then s.now else s.blk.frozenAt } ∧
      SameRegs t.me s.me ∧ DueNow (.draining s.blk.id) t ∧
      ∀ k ∈ s.blocks, k.group = s.blk.group → k.phase = .running → DueNow (.evictionRequest k.id) t) := by
  obtain ⟨u, same, drains, effect⟩ := requestEviction_eq h running latch
  have roster : (s.requestEviction s.blk.id).roster = s.stopped.roster := by
    rw [effect, roster_foldl _ _ (fun s k => roster_dueOnce s _ _) _, same]
  refine happens_of_stepOf (f := State.requestEviction s.blk.id) rfl ((graftLog_of_roster roster).trans h.noLog)
    ⟨blk_of_roster roster, ?_, ?_, fun k hk group phase => ?_⟩
  · rw [me_of_roster roster]
    exact stopped_regs h
  · rw [effect]
    exact drains.foldl _ _ _
  · have listed : k ∈ u.allBlocks := List.mem_append_right _ (by rw [blocks_of_roster same]; exact hk)
    rw [effect]
    refine dueNow_foldl (fun k : Block => .evictionRequest k.id) (List.mem_filter.2 ⟨listed, ?_⟩) u
    exact decide_eq_true ⟨group, .inl phase⟩

/-- 07 R149, 11 R200: the strands of the group stand at safe points, and the block drains. -/
theorem draining_begins (stopping : s.blk.phase = .stopping) (latch : s.blk.latch = none)
    (safe : ∀ t ∈ s.strandsOf s.blk.id, t.run = .running → t.tmasked = false ∧ t.wait ≠ .released ∧ t.wait ≠ .gang)
    (others : ∀ k ∈ s.blocks, k.group = s.blk.group → k.phase ≠ .running ∧ k.phase ≠ .restoring ∧ k.phase ≠ .stopping) :
    Happens (.draining s.blk.id) s (fun t => t.blk = { s.blk with phase := .draining } ∧ SameRegs t.me s.me ∧
      DueNow (.saving s.blk.id) t ∧ (s.me.run = .running → t.me.reason = 14)) := by
  have strandsSafe : (s.strandsOf s.blk.id).all (Strand.safe s.blk.latched) = true := by
    rw [List.all_eq_true]
    intro t ht
    by_cases run : t.run = .running
    · obtain ⟨unmasked, notReleased, notGang⟩ := safe t ht run
      simp [Strand.safe, unmasked, notReleased, notGang]
    · simp [Strand.safe, run]
  have groupStops : (s.groupBlocks s.blk.group).all s.stoppedAt = true :=
    groupBlocks_all (by simp [State.stoppedAt, stopping, strandsSafe]) fun k hk group => by
      obtain ⟨notRunning, notRestoring, notStopping⟩ := others k hk group
      simp [State.stoppedAt, notRunning, notRestoring, notStopping]
  have effect : s.beginDraining s.blk.id =
      (s.drains.mapCluster (coreCluster s.blk.core) (fun c => { c with drainedAt := s.now })).dueOnce 0 (.saving s.blk.id) := by
    unfold State.beginDraining
    rw [State.block?_blk s _ rfl]
    dsimp only
    rw [if_neg (by simp [stopping]), if_neg (by rw [strandsSafe, groupStops]; simp), State.dissolve, latch]
    dsimp only
    rw [mapBlock_focus s _ _ rfl h.alone]
    rfl
  have roster : (s.beginDraining s.blk.id).roster = s.drains.roster := by rw [effect, roster_dueOnce, roster_mapCluster]
  refine happens_of_stepOf (f := State.beginDraining s.blk.id) rfl ((graftLog_of_roster roster).trans h.noLog)
    ⟨blk_of_roster roster, ?_, ?_, fun run => ?_⟩
  · rw [me_of_roster roster, drains_me h]
    split <;> exact SameRegs.refl s.me
  · rw [effect]
    exact dueNow_dueOnce _ _
  · rw [me_of_roster roster, drains_me h, if_pos run]

/-- 11 R200: while a block of the group runs, the block does not drain and looks again. -/
theorem draining_waits (stopping : s.blk.phase = .stopping) (other : ∃ k ∈ s.blocks, k.group = s.blk.group ∧ k.phase = .running) :
    Happens (.draining s.blk.id) s (fun t => t.blk = s.blk ∧ t.me = s.me ∧ ∃ e ∈ t.agenda, e.ev = .draining s.blk.id) := by
  have runs : ¬ (s.groupBlocks s.blk.group).all s.stoppedAt = true := by
    obtain ⟨k, hk, group, phase⟩ := other
    intro all
    have stops := List.all_eq_true.1 all k (List.mem_filter.2 ⟨List.mem_append_right _ hk, beq_iff_eq.2 group⟩)
    simp [State.stoppedAt, phase] at stops
  have effect : s.beginDraining s.blk.id = s.dueOnce acTicks (.draining s.blk.id) := by
    unfold State.beginDraining
    rw [State.block?_blk s _ rfl]
    dsimp only
    rw [if_neg (by simp [stopping]), if_pos (.inr runs)]
  refine happens_of_stepOf (f := State.beginDraining s.blk.id) rfl ?_ ?_ <;> rw [effect]
  · rw [State.dueOnce_graftLog, h.noLog]
  · obtain ⟨d, hd, same, -⟩ := mem_agenda_dueOnce acTicks (.draining s.blk.id) s
    exact ⟨State.dueOnce_blk .., State.dueOnce_me .., d, hd, same⟩

omit h in
theorem drainedBlock_idle (block : Nat) (engine : s.mxops = []) (idle : ∀ t ∈ s.strandsOf block, t.flight = none) :
    s.drainedBlock block = true := by
  unfold State.drainedBlock
  rw [engine, List.all_nil, Bool.true_and, List.all_eq_true]
  intro t ht
  simp [Strand.awaits, idle t ht]

/-- 07 R149, R150, R138: the group's matrix operations and replies are in, and the block is saved. -/
theorem saving_begins (draining : s.blk.phase = .draining) (engine : s.mxops = []) (idle : ∀ t ∈ s.strandsOf s.blk.id, t.flight = none)
    (others : ∀ k ∈ s.blocks, k.group = s.blk.group → k.phase ≠ .stopping ∧ ∀ t ∈ s.strandsOf k.id, t.flight = none) :
    Happens (.saving s.blk.id) s (fun t =>
      t.blk = { s.blk with phase := .saving, trays := s.blk.trays.map (fun y => { y with gen := y.gen + 1 }) } ∧ t.me = s.me) := by
  have drained := drainedBlock_idle s.blk.id engine idle
  have groupDrained : (s.groupBlocks s.blk.group).all (fun k => decide (k.phase ≠ .stopping) && s.drainedBlock k.id) = true :=
    groupBlocks_all (by simp [draining, drained]) fun k hk group => by
      obtain ⟨notStopping, still⟩ := others k hk group
      simp [notStopping, drainedBlock_idle k.id engine still]
  set saves := s.mapBlk (fun b => { b with phase := .saving, trays := b.trays.map (fun t => { t with gen := t.gen + 1 }) }) with savesEq
  have roster : (s.saveBlock s.blk.id).roster = saves.roster := by
    unfold State.saveBlock
    rw [State.block?_blk s _ rfl]
    dsimp only
    rw [if_neg (by simp [draining]), if_neg (by rw [drained, groupDrained]; simp), mapBlock_focus s _ _ rfl h.alone, roster_dueOnce,
      roster_mapCoreOf]
  exact happens_of_stepOf (f := State.saveBlock s.blk.id) rfl ((graftLog_of_roster roster).trans h.noLog)
    ⟨blk_of_roster roster, (me_of_roster roster).trans rfl⟩

/-- 07 R149: the block is saved, and its resources are free. -/
theorem evicted_after_saving (saving : s.blk.phase = .saving) (quiet : s.blk.eventOn = false) :
    Happens (.evicted s.blk.id) s (fun t => t.blk = { s.blk with phase := .evicted } ∧ t.me = s.me) := by
  have leaves : ∃ tasks, (s.evictBlock s.blk.id).roster = ((s.mapBlk (fun b => { b with phase := .evicted })).withTasks tasks).roster := by
    unfold State.evictBlock
    rw [State.block?_blk s _ rfl]
    dsimp only
    rw [if_neg (by simp [saving]), mapBlock_focus s _ _ rfl h.alone, schedRecord_off _ _ _ _ quiet, roster_serveLater, roster_offerCluster,
      roster_finishSwitch]
    exact ⟨_, rfl⟩
  obtain ⟨tasks, roster⟩ := leaves
  exact happens_of_stepOf (f := State.evictBlock s.blk.id) rfl ((graftLog_of_roster roster).trans h.noLog)
    ⟨blk_of_roster roster, (me_of_roster roster).trans rfl⟩

/-- 07 R149: the state is read back. -/
theorem restoring_reads (restoring : s.blk.phase = .restoring) :
    Happens (.restoring s.blk.id) s (fun t => t.blk.phase = .restoring ∧ SameUnits t.blk s.blk ∧ t.me = s.me ∧
      ∃ e ∈ t.agenda, e.ev = .running s.blk.id) := by
  have effect : ∃ (trays : List Tray) (dt : Nat), s.restoreBlock s.blk.id =
      (s.mapBlk (fun b => { b with trays := trays })).dueOnce dt (.running s.blk.id) := by
    unfold State.restoreBlock
    rw [State.block?_blk s _ rfl]
    dsimp only
    rw [if_neg (by simp [restoring]), mapBlock_focus s _ _ rfl h.alone]
    exact ⟨_, _, rfl⟩
  obtain ⟨trays, dt, effect⟩ := effect
  refine happens_of_stepOf (f := State.restoreBlock s.blk.id) rfl ?_ ?_ <;> rw [effect]
  · rw [State.dueOnce_graftLog, State.mapBlk_graftLog, h.noLog]
  · obtain ⟨d, hd, same, -⟩ := mem_agenda_dueOnce dt (.running s.blk.id) (s.mapBlk (fun b => { b with trays := trays }))
    rw [State.dueOnce_blk, State.dueOnce_me]
    exact ⟨restoring, SameUnits.refl s.blk, rfl, d, hd, same⟩

/-- 07 R149, R150: the block runs again with what it had. -/
theorem runs_again (restoring : s.blk.phase = .restoring) (quiet : s.blk.eventOn = false) (issues : s.clusterIssues s.blk.core = true) :
    Happens (.running s.blk.id) s (fun t => t.blk.phase = .running ∧ SameUnits t.blk s.blk ∧ SameRegs t.me s.me) := by
  set runs := (s.mapBlk (fun b => { b with phase := .running })).mapStrands (fun t => t.block == s.blk.id) Strand.resumed with runsEq
  have roster : (s.runAgain s.blk.id).roster = (runs.resumeClocks s.blk.id).roster := by
    unfold State.runAgain
    rw [State.block?_blk s _ rfl]
    dsimp only
    rw [if_neg (by simp [restoring]), if_neg (by simp [issues]), mapBlock_focus s _ _ rfl h.alone, schedRecord_off _ _ _ _ quiet,
      roster_sampleNext, roster_resumeCopies]
  -- Its clocks may go on; what that changes of the block is none of its units.
  have clocks : ∃ f : Block → Block, (∀ b, (f b).phase = b.phase ∧ SameUnits (f b) b) ∧
      (s.runAgain s.blk.id).roster = (runs.mapBlk f).roster := by
    rcases roster_resumeClocks runs s.blk.id rfl h.alone with same | thaws
    · exact ⟨fun b => b, fun b => ⟨rfl, SameUnits.refl b⟩, roster.trans same⟩
    · exact ⟨Block.thawed runs.now, fun b => ⟨rfl, SameUnits.refl b⟩, roster.trans thaws⟩
  obtain ⟨f, keeps, same⟩ := clocks
  obtain ⟨phase, units⟩ := keeps runs.blk
  refine happens_of_stepOf (f := State.runAgain s.blk.id) rfl ((graftLog_of_roster same).trans h.noLog) ⟨?_, ?_, ?_⟩
  · rw [blk_of_roster same]
    exact phase
  · rw [blk_of_roster same]
    exact units
  · rw [me_of_roster same]
    have resumed : runs.me = s.me.resumed := if_pos (beq_iff_eq.2 h.mine)
    rw [State.mapBlk_me, resumed]
    exact sameRegs_resumed s.me

/-! ### The end of a block (03 R70, 17 R290) -/

/-- 12 R222: a block without offers takes none back. -/
theorem endOffers_none (none' : s.blk.offers = []) : s.endOffers s.blk.id = s := by
  unfold State.endOffers
  rw [State.block?_blk s _ rfl]
  dsimp only
  rw [none', List.foldl_nil, mapBlock_focus s _ _ rfl h.alone, State.mapBlk, ← none']

omit h in
theorem roster_removeBlock (b : Block) (s : State) : (s.removeBlock b).roster = s.roster.without b.id := by
  unfold State.removeBlock
  exact congrArg (State.without b.id) (roster_mapCoreOf s b.core _)

omit h in
/-- 12 R282: a group that waits again keeps its identity and its count of blocks; nothing else changes. -/
theorem roster_waitAgain (group : Nat) (s : State) : ∃ f : Task → Task, (∀ t, (f t).id = t.id ∧ (f t).blocksLeft = t.blocksLeft) ∧
    (s.waitAgain group).roster = (s.withTasks (s.tasks.map f)).roster := by
  refine ⟨_, fun t => ?_, rfl⟩
  dsimp only
  split <;> exact ⟨rfl, rfl⟩

omit h in
/-- A search by identity finds the same member, changed, where the change keeps identities. -/
theorem find?_map_task (f : Task → Task) (keeps : ∀ t, (f t).id = t.id) (group : Nat) (l : List Task) :
    (l.map f).find? (fun k => k.id == group) = (l.find? (fun k => k.id == group)).map f := by
  rw [List.find?_map]
  simp only [Function.comp_def, keeps]

omit h in
/-- 17 R290: the end of a block that is not the last of its group: it leaves its core, and its group has one block less. -/
theorem endBlock_more (k : Task) (node : s.blk.hasNode = none) (quiet : s.blk.eventOn = false)
    (task : s.tasks.find? (fun k => k.id == s.blk.group) = some k) (more : 2 ≤ k.blocksLeft) : ∃ tasks : List Task,
    (tasks.find? (fun k => k.id == s.blk.group)).map (·.blocksLeft) = some (k.blocksLeft - 1) ∧
    (s.endBlock s.blk true).roster = ((s.without s.blk.id).withTasks tasks).roster := by
  unfold State.endBlock
  extract_lets halted s0 s1 s2 s3 s4 s5 s6
  have rest1 : s1.roster = s.roster := by
    have rest0 : s0.roster = s.roster := by
      unfold s0
      split
      · exact roster_mapGroupBar s _ _
      · rfl
    unfold s1
    rw [node]
    exact rest0
  have rest3 : s3.roster = s.roster.without s.blk.id := by
    unfold s3 s2
    rw [roster_mapLaunch, schedRecord_off _ _ _ _ quiet, roster_removeBlock, rest1]
  obtain ⟨count, counts, groups4⟩ : ∃ count : Task → Task, (∀ t, (count t).id = t.id ∧ (count t).blocksLeft = t.blocksLeft - 1) ∧
      s4 = s3.withTasks (updIf (fun t => t.id == s.blk.group) count s3.tasks) := by
    refine ⟨_, ?_, rfl⟩
    exact fun t => ⟨rfl, rfl⟩
  have found : s4.tasks.find? (fun t => t.id == s.blk.group) = some (count k) := by
    rw [groups4]
    change (updIf _ count s3.tasks).find? _ = _
    rw [find?_updIf _ _ (fun t ht => by rw [(counts t).1]; exact ht), tasks_of_roster (s := s.without s.blk.id) rest3]
    change (s.tasks.find? _).map count = _
    rw [task]
    rfl
  have left : s5 = s4 := by
    unfold s5
    split
    next t l hit _ =>
      cases found.symm.trans hit
      rw [if_neg (by rw [(counts k).2]; omega)]
    next => rfl
  obtain ⟨f, keeps, waits⟩ := roster_waitAgain s.blk.group s5
  refine ⟨s5.tasks.map f, ?_, ?_⟩
  · rw [find?_map_task f (fun t => (keeps t).1), left, found, Option.map_some, Option.map_some, (keeps _).2, (counts k).2]
  · rw [roster_serveLater]
    unfold s6
    rw [roster_offerCluster, roster_finishSwitch, waits, left]
    change State.withTasks _ s4.roster = _
    rw [groups4]
    change State.withTasks _ s3.roster = _
    rw [rest3]
    rfl

/-- 03 R70, 17 R290: the strands and operations have ended: the block leaves its core, and its group's count goes down. -/
theorem completes (k : Task) (offers : s.blk.offers = []) (ended : ∀ t ∈ s.strandsOf s.blk.id, t.over = true)
    (done : s.blockDone s.blk.id = true) (node : s.blk.hasNode = none) (quiet : s.blk.eventOn = false)
    (task : s.tasks.find? (fun k => k.id == s.blk.group) = some k) (more : 2 ≤ k.blocksLeft) :
    Happens (.blockComplete s.blk.id) s (fun t =>
      (∀ j ∈ t.allBlocks, j.id ≠ s.blk.id) ∧ (∀ u ∈ t.allStrands, u.block ≠ s.blk.id) ∧
      (t.tasks.find? (fun k => k.id == s.blk.group)).map (·.blocksLeft) = some (k.blocksLeft - 1)) := by
  have effect : s.completeBlock s.blk.id = s.endBlock s.blk true := by
    unfold State.completeBlock
    rw [State.block?_blk s _ rfl]
    dsimp only
    rw [if_neg (by simp only [h.listed, false_or, not_not]; exact List.all_eq_true.2 ended), endOffers_none h offers, if_pos done,
      State.block?_blk s _ rfl, Option.getD_some]
  obtain ⟨tasks, count, roster⟩ := endBlock_more k node quiet task more
  rw [← effect] at roster
  refine happens_of_stepOf (f := State.completeBlock s.blk.id) rfl ((graftLog_of_roster roster).trans h.noLog) ⟨?_, ?_, ?_⟩
  · have blocks : (s.completeBlock s.blk.id).allBlocks = s.blocks.filter (fun k => k.id != s.blk.id) := by
      rw [allBlocks_of_roster roster]
      simp [State.allBlocks, State.withTasks, State.without, Block.init]
    rw [blocks]
    exact fun j hj => bne_iff_ne.1 (List.mem_filter.1 hj).2
  · have strands : (s.completeBlock s.blk.id).allStrands = s.strands.filter (fun t => t.block != s.blk.id) := by
      rw [allStrands_of_roster roster]
      simp [State.allStrands, State.withTasks, State.without, Strand.init, h.mine]
    rw [strands]
    exact fun u hu => bne_iff_ne.1 (List.mem_filter.1 hu).2
  · rw [tasks_of_roster roster]
    exact count

end

/-- Settles O43: one lemma per event, each by what the event does to the block in the focus and to the roster. -/
theorem blockEvents : Obligations.BlockEvents := by
  intro s log alone listed mine
  have h : Homed s := ⟨log, alone, listed, mine⟩
  exact ⟨eviction_requested h, draining_begins h, draining_waits h, saving_begins h, evicted_after_saving h, restoring_reads h, runs_again h,
    fun k ended offers done node quiet _ task more => completes h k offers ended done node quiet task more⟩

end Sys2Proof.Machine

namespace Sys2Proof.Machine

/-! ## Atomics on a window that is not in the canonical form (05 R115, R116, R130) -/

/-- The window of a state that a word leads to. -/
theorem window_of_leads {o : Out} {t e : State} (runs : o = .next t) (leads : Leads o e) : t.blk.window = e.blk.window := by
  obtain ⟨t', runs', same⟩ := leads
  obtain rfl : t = t' := Host.Outcome.next.inj (runs.symm.trans runs')
  exact (congrArg (fun s : State => s.blk.window) same :)

/-- An exchange of S[0] with address 0, as the store of `unsorted_store_keeps`, leaves the byte 7 there. -/
theorem unsorted_scalarXchg_keeps : ∃ t, exec (.satmXchg 0 0 0 0 0) wUnsorted = .next t ∧ Memory.get t.blk.window 0 = 7 := ⟨_, rfl, rfl⟩

theorem focused_unsorted : Focused wUnsorted := ⟨by decide, by decide, by decide⟩

/-- Refutes O21: as for O18, nothing in the statement says that the window is in the canonical form (`Memory.wf`): `satm.xchg` of S[0] = 0
with the doubleword at address 0 of the window [(5, 1), (0, 7)] leaves 7 at address 0. -/
theorem not_scalarAtomics : ¬ Obligations.ScalarAtomics := by
  intro h
  obtain ⟨performed, -, -⟩ := h (.satmXchg 0 0 0 0 0) 0 0 0 _ wUnsorted rfl focused_unsorted rfl rfl (Tests.dst_low rfl)
  obtain ⟨w, bad, -, holds, leads⟩ := performed ready_unsorted ⟨rfl, rfl⟩ (Tests.srcs_low rfl) (fun releases => absurd releases (by decide))
    (by decide) (.inl (by decide)) (by decide) (by decide)
  obtain ⟨t, runs, keeps⟩ := unsorted_scalarXchg_keeps
  have window : t.blk.window = w := window_of_leads runs leads
  have zero := holds 0
  rw [← window, keeps] at zero
  exact absurd zero (by decide)

/-- The same strand with lane 0 alone active; its vector registers hold 0. -/
def wUnsortedLane : State := wUnsorted.setM0 1

theorem ready_unsortedLane : Ready wUnsortedLane := ⟨rfl, rfl, rfl, rfl, by decide, by decide, rfl, rfl⟩

theorem focused_unsortedLane : Focused wUnsortedLane := ⟨by decide, by decide, by decide⟩

theorem activeLanes_unsortedLane : activeLanes wUnsortedLane = [0] := by decide

/-- The address of the lane is that of the first word, which passes every check. -/
theorem word_unsortedLane : let ea := src wUnsortedLane 0 + (el wUnsortedLane ((0 : BitVec 6).setWidth 7) 0).signExtend 64
    localCause wUnsortedLane 4 ea = none ∧ wUnsortedLane.blk.windowBad ea.toNat 4 = false := by decide

/-- An exchange of lane 0 of V[0] with address 0 leaves the byte 7 there. -/
theorem unsorted_vectorXchg_keeps : ∃ t, exec (.vatmXchg 0 0 0 0 0) wUnsortedLane = .next t ∧ Memory.get t.blk.window 0 = 7 := ⟨_, rfl, rfl⟩

/-- Refutes O22 in the same way: `vatm.xchg` of V[0] = 0 with the word at address 0 of the window [(5, 1), (0, 7)] leaves 7 at address 0. -/
theorem not_vectorAtomics : ¬ Obligations.VectorAtomics := by
  intro h
  have lanes : ∀ {p : Nat → Prop}, p 0 → ∀ L ∈ activeLanes wUnsortedLane, p L := fun zero L hL => by
    rw [activeLanes_unsortedLane, List.mem_singleton] at hL
    rwa [hL]
  obtain ⟨performed, -, -⟩ := h (.vatmXchg 0 0 0 0 0) 0 0 0 _ wUnsortedLane rfl focused_unsortedLane rfl rfl (by decide) (by decide)
    (fun _ => by decide) (by decide) (by decide) rfl rfl
  obtain ⟨w, bad, -, holds, completes, -⟩ := performed ready_unsortedLane ⟨rfl, rfl⟩ (Tests.src_low rfl)
    (fun releases => absurd releases (by decide)) (by decide) (lanes (.inl (by decide)))
    (fun L hL => lanes (p := fun L => wUnsortedLane.blk.windowBad
      (src wUnsortedLane 0 + (el wUnsortedLane ((0 : BitVec 6).setWidth 7) L).signExtend 64).toNat 4 = false)
      word_unsortedLane.2 L (List.mem_of_mem_filter hL))
  have leads := completes (lanes word_unsortedLane.1)
  obtain ⟨t, runs, keeps⟩ := unsorted_vectorXchg_keeps
  have window : t.blk.window = w := window_of_leads runs leads
  have zero := holds 0
  rw [← window, keeps] at zero
  exact absurd zero (by decide)

end Sys2Proof.Machine

namespace Sys2Proof.Machine

/-! ## Memory that lists its bytes in rising order

The order alone, without the rest of the canonical form, is what reads after writes rest on. -/

/-- The listed addresses rise. -/
def Memory.Rising (m : Memory) : Prop := (m.map Prod.fst).Pairwise (· < ·)

theorem Memory.rising_nil : Memory.Rising [] := List.Pairwise.nil

theorem Memory.rising_cons (x : Nat) (v : Byte) (r : Memory) : Memory.Rising ((x, v) :: r) ↔ Memory.from (x + 1) r ∧ Memory.Rising r := by
  simp only [Memory.Rising, List.map_cons, List.pairwise_cons, List.mem_map, forall_exists_index, and_imp, forall_apply_eq_imp_iff₂,
    Memory.from, Nat.succ_le_iff]

theorem Memory.rising_filter (p : Host.Cell → Bool) {m : Memory} (h : m.Rising) : Memory.Rising (m.filter p) :=
  List.Pairwise.sublist (List.filter_sublist.map Prod.fst) h

theorem Memory.rising_clear (a n : Nat) {m : Memory} (h : m.Rising) : (m.clear a n).Rising := Memory.rising_filter _ h

theorem Memory.rising_set (a : Nat) (b : Byte) {m : Memory} (h : m.Rising) : (m.set a b).Rising := by
  induction m with
  | nil => unfold Memory.set; split <;> simp [Memory.Rising]
  | cons c r ih =>
    obtain ⟨x, v⟩ := c
    obtain ⟨below, rising⟩ := (Memory.rising_cons x v r).1 h
    unfold Memory.set
    split
    next lt =>
      split
      · exact h
      · refine (Memory.rising_cons a b _).2 ⟨fun c hc => ?_, h⟩
        rcases List.mem_cons.1 hc with rfl | hc
        · exact lt
        · have := below c hc; omega
    next =>
      split
      next eq =>
        split
        · exact rising
        · exact (Memory.rising_cons a b r).2 ⟨eq ▸ below, rising⟩
      next => exact (Memory.rising_cons x v _).2 ⟨Memory.from_set r _ a b below (by omega), ih rising⟩

theorem Memory.get_set_rising (a k : Nat) (b : Byte) {m : Memory} (h : m.Rising) :
    (m.set a b).get k = if k = a then b else m.get k := by
  split
  next same =>
    subst same
    induction m with
    | nil => by_cases zero : b = 0#8 <;> simp [Memory.set, Memory.get, zero]
    | cons c r ih =>
      obtain ⟨x, v⟩ := c
      obtain ⟨below, rising⟩ := (Memory.rising_cons x v r).1 h
      have absent : k ≤ x → Memory.get r k = 0 := fun le => Memory.get_below r _ k below (by omega)
      unfold Memory.set
      split
      next lt =>
        split
        next zero => rw [Memory.get, if_neg (by omega), absent (by omega), zero]
        next => exact if_pos rfl
      next =>
        split
        next eq =>
          split
          next zero => rw [absent (by omega), zero]
          next => exact if_pos rfl
        next => rw [Memory.get, if_neg (by omega)]; exact ih rising
  next other => exact Memory.get_set_other m a k b other

theorem Memory.rising_write (a : Nat) (bs : List Byte) {m : Memory} (h : m.Rising) : (m.write a bs).Rising := by
  induction bs generalizing m a with
  | nil => exact h
  | cons b r ih => exact ih _ (Memory.rising_set a b h)

/-- The bytes that a write leaves. -/
theorem Memory.get_write_rising (a k : Nat) (bs : List Byte) {m : Memory} (h : m.Rising) :
    (m.write a bs).get k = if a ≤ k ∧ k < a + bs.length then bs[k - a]?.getD 0 else m.get k := by
  induction bs generalizing m a with
  | nil => exact (if_neg (by simp)).symm
  | cons b r ih =>
    rw [Memory.write, ih _ (Memory.rising_set a b h), Memory.get_set_rising _ _ _ h, List.length_cons]
    rcases Nat.lt_trichotomy k a with lt | rfl | gt
    · rw [if_neg (by omega), if_neg (by omega), if_neg (by omega)]
    · rw [if_neg (by omega), if_pos rfl, if_pos (by omega), Nat.sub_self]; rfl
    · obtain ⟨j, rfl⟩ : ∃ j, k = a + 1 + j := ⟨k - (a + 1), by omega⟩
      rw [show a + 1 + j - a = j + 1 by omega, show a + 1 + j - (a + 1) = j by omega, List.getElem?_cons_succ]
      by_cases inside : j < r.length
      · rw [if_pos (by omega), if_pos (by omega)]
      · rw [if_neg (by omega), if_neg (by omega), if_neg (by omega)]

/-- Bytes outside a cleared range stay. -/
theorem Memory.get_clear_other (m : Memory) (a n k : Nat) (h : k < a ∨ a + n ≤ k) : (m.clear a n).get k = m.get k := by
  unfold Memory.clear
  induction m with
  | nil => rfl
  | cons c r ih =>
    obtain ⟨x, v⟩ := c
    rw [List.filter_cons]
    split
    · rw [Memory.get, Memory.get, ih]
    next dropped =>
      have other : x ≠ k := fun e => dropped (by simpa [e] using h)
      rw [ih, Memory.get, if_neg other]

/-- Bytes at consecutive addresses, set one by one, are written. -/
theorem foldl_set_cellsAt (a : Nat) (bs : List Byte) (m : Memory) :
    (cellsAt a bs).foldl (fun m c => Memory.set m c.1 c.2) m = m.write a bs := by
  induction bs generalizing m a with
  | nil => rfl
  | cons b r ih => exact ih _ _

theorem Memory.read_getElem? (m : Memory) (a n j : Nat) (h : j < n) : (m.read a n)[j]?.getD 0 = m.get (a + j) := by
  have inside : j < (m.read a n).length := by simpa using h
  rw [List.getElem?_eq_getElem inside, Memory.read_get _ _ _ _ inside, Option.getD_some]

/-! ## Four sectors of a line -/

theorem bit_sector (k j : Nat) (hk : k < 4) : bit (1#4 <<< k) j = decide (j = k) := by
  rw [bit_eq, BitVec.getLsbD_shiftLeft]
  by_cases same : j = k
  · subst same; simp [hk]
  · by_cases above : k < j
    · have apart : j - k ≠ 0 := by omega
      simp [same, apart]
    · have below : j < k := by omega
      simp [same, below]

theorem bit_zero (k : Nat) : bit (0 : BitVec 4) k = false := BitVec.getLsbD_zero

theorem bit_not (x : BitVec 4) (k : Nat) (hk : k < 4) : bit (~~~x) k = !bit x k := by simp [bit_eq, hk]
theorem bit_and (x y : BitVec 4) (k : Nat) : bit (x &&& y) k = (bit x k && bit y k) := by simp [bit_eq]

/-- Some sectors are among others where nothing stands beside them. -/
theorem within_iff (mask valid : BitVec 4) : mask &&& ~~~valid = 0 ↔ ∀ k < 4, bit mask k = true → bit valid k = true := by
  constructor
  · intro none k hk asked
    have := congrArg (fun x => bit x k) none
    simpa only [bit_and, bit_not _ _ hk, asked, bit_zero, Bool.true_and, Bool.not_eq_false'] using this
  · intro within
    apply BitVec.eq_of_getLsbD_eq
    intro k hk
    have := within k hk
    simp only [← bit_eq, bit_and, bit_not _ _ hk]
    cases h : bit mask k
    · simp [bit_eq]
    · simp [this h, bit_eq]

/-- The sectors of a line in a list of sectors. -/
theorem bit_foldl_sectors (p : Nat → Bool) (ks : List Nat) (m : BitVec 4) (k : Nat) (hks : ∀ j ∈ ks, j < 4) :
    bit (ks.foldl (fun m j => if p j then m ||| (1#4 <<< j) else m) m) k = (bit m k || (ks.contains k && p k)) := by
  induction ks generalizing m with
  | nil => simp
  | cons j ks ih =>
    rw [List.foldl_cons, ih _ (fun i hi => hks i (List.mem_cons_of_mem _ hi))]
    have hj := hks j (List.mem_cons_self ..)
    by_cases same : k = j
    · subst same
      by_cases hp : p k = true
      · simp [hp, bit_or, bit_sector _ _ hj]
      · simp [hp]
    · split
      · simp [bit_or, bit_sector _ _ hj, same]
      · simp [same]

theorem bit_sectorMask (sectors : List Nat) (line k : Nat) (hk : k < 4) : bit (sectorMask sectors line) k = sectors.contains (line * 4 + k) := by
  unfold sectorMask
  rw [bit_foldl_sectors _ _ _ _ (fun j hj => List.mem_range.1 hj), bit_zero]
  simp [hk]

end Sys2Proof.Machine

namespace Sys2Proof.Machine

/-! ## A line of a slice (13 R235, R238)

What a line holds is told apart from the way it stands in and from when it was used. -/

/-- A line without its way and its use. -/
def SliceLine.content (l : SliceLine) : SliceLine := { l with way := 0, used := 0 }

section
variable {l k : SliceLine} (h : l.content = k.content)
include h

theorem valid_of_content : l.valid = k.valid := show l.content.valid = k.content.valid by rw [h]
theorem cells_of_content : l.cells = k.cells := show l.content.cells = k.content.cells by rw [h]
theorem use_of_content : l.use = k.use := show l.content.use = k.content.use by rw [h]
theorem free_of_content : l.free = k.free := show l.content.free = k.content.free by rw [h]

end

/-- The line that a slice gives for a number is the line of that number. -/
theorem sliceLine_line (s : State) (line : Nat) : (s.sliceLine line).line = line := by
  unfold State.sliceLine
  cases found : s.slices.find? (fun l => l.line == line) with
  | none => rfl
  | some l =>
    have mine : (l.line == line) = true := List.find?_some (p := fun l : SliceLine => l.line == line) found
    exact beq_iff_eq.1 mine

theorem rising_sliceLine (s : State) (line : Nat) (once : SlicesOnce s) : Memory.Rising (s.sliceLine line).cells := by
  unfold State.sliceLine
  cases found : s.slices.find? (fun l => l.line == line) with
  | none => exact Memory.rising_nil
  | some l => exact once.2 l (List.mem_of_find?_eq_some found)

/-- A line that is stored is the line that the slice gives then. -/
theorem sliceLine_putSlice (l : SliceLine) (s : State) (holds : l.valid ≠ 0) :
    ((s.putSlice l).sliceLine l.line).content = l.content := by
  have absent : (s.slices.filter (fun k => k.line != l.line)).find? (fun k => k.line == l.line) = none := by
    rw [List.find?_eq_none]
    intro k hk
    simpa using (List.mem_filter.1 hk).2
  unfold State.putSlice
  dsimp only
  rw [if_neg (fun e => holds e.1)]
  simp only [State.sliceLine, List.find?_append, absent, Option.none_or, List.find?_cons, beq_self_eq_true, Option.getD_some]
  rfl

/-- A use of a line changes nothing else of it. -/
theorem sliceLine_touchSlice (line : Nat) (s : State) : ((s.touchSlice line).sliceLine line).content = (s.sliceLine line).content := by
  unfold State.sliceLine State.touchSlice
  dsimp only
  rw [find?_updIf (fun k : SliceLine => k.line == line) (fun k => { k with used := s.uses }) (fun _ h => h)]
  cases s.slices.find? (fun l => l.line == line) <;> rfl

/-! ### Sectors that are filled -/

/-- One step of `SliceLine.fill`. -/
def SliceLine.fillOne (mask : BitVec 4) (byte : Nat → Byte) (poisoned : Nat → Bool) (l : SliceLine) (k : Nat) : SliceLine :=
  if bit mask k ∧ ¬ bit l.valid k then
    { l with valid := l.valid ||| (1#4 <<< k), marks := l.marks &&& ~~~(1#4 <<< k),
             poison := if poisoned (l.line * 4 + k) then l.poison ||| (1#4 <<< k) else l.poison &&& ~~~(1#4 <<< k),
             cells := Memory.write (Memory.clear l.cells (l.line * 256 + k * 64) 64) (l.line * 256 + k * 64)
               ((List.range 64).map (fun j => byte (l.line * 256 + k * 64 + j))) }
  else l

theorem fill_eq (mask : BitVec 4) (byte : Nat → Byte) (poisoned : Nat → Bool) (l : SliceLine) :
    l.fill mask byte poisoned = (List.range 4).foldl (SliceLine.fillOne mask byte poisoned) l := rfl

/-- What l' holds after the sectors of `mask` that l lacks have come, of those in ks. -/
structure Filled (mask : BitVec 4) (byte : Nat → Byte) (ks : List Nat) (l l' : SliceLine) : Prop where
  line   : l'.line = l.line
  dirty  : l'.dirty = l.dirty
  use    : l'.use = l.use
  free   : l'.free = l.free
  rising : Memory.Rising l'.cells
  valid  : ∀ k < 4, bit l'.valid k = (bit l.valid k || (ks.contains k && bit mask k))
  cells  : ∀ x, x / 256 = l.line → Memory.get l'.cells x =
    if bit l.valid (x / 64 % 4) = false ∧ x / 64 % 4 ∈ ks ∧ bit mask (x / 64 % 4) = true then byte x else Memory.get l.cells x

section
variable (mask : BitVec 4) (byte : Nat → Byte) (poisoned : Nat → Bool)

/-- The bytes of a line whose sector k is written anew. -/
theorem get_fillOne (l : SliceLine) (k x : Nat) (hk : k < 4) (rising : Memory.Rising l.cells) (mine : x / 256 = l.line)
    (lacks : bit mask k = true ∧ ¬ bit l.valid k = true) :
    Memory.get (l.fillOne mask byte poisoned k).cells x = if x / 64 % 4 = k then byte x else Memory.get l.cells x := by
  unfold SliceLine.fillOne
  rw [if_pos lacks]
  dsimp only
  rw [Memory.get_write_rising _ _ _ (Memory.rising_clear _ _ rising)]
  simp only [List.length_map, List.length_range]
  by_cases inside : l.line * 256 + k * 64 ≤ x ∧ x < l.line * 256 + k * 64 + 64
  · rw [if_pos inside, if_pos (by omega)]
    obtain ⟨j, rfl⟩ : ∃ j, x = l.line * 256 + k * 64 + j := ⟨x - (l.line * 256 + k * 64), by omega⟩
    simp [show j < 64 by omega]
  · rw [if_neg inside, Memory.get_clear_other _ _ _ _ (by omega)]
    exact (if_neg (by omega)).symm

theorem Filled.refl (l : SliceLine) (rising : Memory.Rising l.cells) : Filled mask byte [] l l :=
  ⟨rfl, rfl, rfl, rfl, rising, fun k _ => by simp, fun x _ => by simp⟩

theorem filled_one (l : SliceLine) (k : Nat) (hk : k < 4) (rising : Memory.Rising l.cells) :
    Filled mask byte [k] l (l.fillOne mask byte poisoned k) := by
  have cells := fun x => get_fillOne mask byte poisoned l k x hk rising
  unfold SliceLine.fillOne at cells ⊢
  split
  next lacks =>
    rw [if_pos lacks] at cells
    refine { line := rfl, dirty := rfl, use := rfl, free := rfl, rising := ?_, valid := fun j hj => ?_, cells := fun x mine => ?_ }
    · dsimp only
      exact Memory.rising_write _ _ (Memory.rising_clear _ _ rising)
    · dsimp only
      rw [bit_or, bit_sector _ _ hk]
      by_cases same : j = k
      · simp [same, lacks.1]
      · simp [same]
    · rw [cells x mine lacks]
      by_cases same : x / 64 % 4 = k
      · simp [same, lacks.1, lacks.2]
      · simp [same]
  next holds =>
    have held : bit mask k = true → bit l.valid k = true := fun asked => by simpa [asked] using holds
    refine { line := rfl, dirty := rfl, use := rfl, free := rfl, rising := rising, valid := fun j hj => ?_, cells := fun x mine => ?_ }
    · by_cases same : j = k
      · subst same
        cases asked : bit mask j
        · simp
        · simp [held asked]
      · simp [same]
    · rw [if_neg]
      rintro ⟨lacks, here, asked⟩
      rw [List.mem_singleton.1 here] at lacks asked
      rw [held asked] at lacks
      cases lacks

variable {mask byte}

theorem Filled.trans {k : Nat} {ks : List Nat} {l l1 l2 : SliceLine} (one : Filled mask byte [k] l l1) (rest : Filled mask byte ks l1 l2) :
    Filled mask byte (k :: ks) l l2 where
  line := rest.line.trans one.line
  dirty := rest.dirty.trans one.dirty
  use := rest.use.trans one.use
  free := rest.free.trans one.free
  rising := rest.rising
  valid j hj := by
    rw [rest.valid j hj, one.valid j hj, List.contains_cons, List.contains_cons]
    cases bit l.valid j <;> cases bit mask j <;> simp
  cells x mine := by
    have sector : x / 64 % 4 < 4 := Nat.mod_lt _ (by decide)
    rw [rest.cells x (mine.trans one.line.symm), one.cells x mine, one.valid _ sector]
    by_cases here : x / 64 % 4 = k
    · cases bit l.valid (x / 64 % 4) <;> cases bit mask (x / 64 % 4) <;> simp [here]
    · simp [here]

theorem filled_foldl (ks : List Nat) (hks : ∀ k ∈ ks, k < 4) (l : SliceLine) (rising : Memory.Rising l.cells) :
    Filled mask byte ks l (ks.foldl (SliceLine.fillOne mask byte poisoned) l) := by
  induction ks generalizing l with
  | nil => exact Filled.refl mask byte l rising
  | cons k ks ih =>
    have one := filled_one mask byte poisoned l k (hks k (List.mem_cons_self ..)) rising
    exact one.trans (ih (fun j hj => hks j (List.mem_cons_of_mem _ hj)) _ one.rising)

end

/-- A line whose lacking sectors of `mask` have come. -/
theorem filled_fill (mask : BitVec 4) (byte : Nat → Byte) (poisoned : Nat → Bool) (l : SliceLine) (rising : Memory.Rising l.cells) :
    Filled mask byte (List.range 4) l (l.fill mask byte poisoned) := by
  rw [fill_eq]
  exact filled_foldl poisoned _ (fun k hk => List.mem_range.1 hk) l rising

/-- Where a line lacks no sector of `mask`, none comes. -/
theorem fill_within (mask : BitVec 4) (byte : Nat → Byte) (poisoned : Nat → Bool) (l : SliceLine) (within : mask &&& ~~~l.valid = 0) :
    l.fill mask byte poisoned = l := by
  rw [within_iff] at within
  have still : ∀ k ∈ List.range 4, l.fillOne mask byte poisoned k = l := fun k hk =>
    if_neg fun lacks => lacks.2 (within k (List.mem_range.1 hk) lacks.1)
  rw [fill_eq]
  generalize List.range 4 = ks at still
  induction ks with
  | nil => rfl
  | cons k ks ih =>
    rw [List.foldl_cons, still k (List.mem_cons_self ..)]
    exact ih fun j hj => still j (List.mem_cons_of_mem _ hj)

/-! ## A request at the home of a line of plain DRAM (13 R235, R238) -/

/-- A state without its slices and their clock. -/
def State.unsliced (s : State) : State := { s with slices := [], uses := 0 }

section
variable {s t : State} (h : t.unsliced = s.unsliced)
include h

theorem me_of_unsliced : t.me = s.me := show t.unsliced.me = s.unsliced.me by rw [h]
theorem dram_of_unsliced : t.dram = s.dram := show t.unsliced.dram = s.unsliced.dram by rw [h]
theorem poison_of_unsliced : t.poison = s.poison := show t.unsliced.poison = s.unsliced.poison by rw [h]
theorem graftLog_of_unsliced : t.graftLog = s.graftLog := show t.unsliced.graftLog = s.unsliced.graftLog by rw [h]

end

theorem unsliced_putSlice (l : SliceLine) (s : State) : (s.putSlice l).unsliced = s.unsliced := by
  unfold State.putSlice
  dsimp only
  split <;> rfl

/-- A line of DRAM, of a region that no graft binds, whose set has room for it. -/
structure AtHome (s : State) (line : Nat) : Prop where
  dram   : line * 256 < nearBase
  plain  : s.blockAt (line * 256) = none
  room   : s.freeWays line ≠ [] ∨ ∃ k ∈ s.slices, k.line = line
  rising : Memory.Rising (s.sliceLine line).cells

theorem blockAt_unbound (s : State) (pa : Nat) (unbound : Unbound s pa) : s.blockAt (pa / 256 * 256) = none := by
  have none : s.binding? (pa / 256 * 256) = none := by
    rw [State.binding?, List.find?_eq_none]
    intro b hb
    have other := unbound b hb
    rw [show pa / 256 * 256 / 65536 = pa / 65536 by omega]
    simpa using other
  unfold State.blockAt
  rw [none]

/-- An address of a line of DRAM is one of DRAM. -/
theorem isDram_of_line {line x : Nat} (dram : line * 256 < nearBase) (mine : x / 256 = line) : isDram x = true := by
  unfold isDram
  unfold nearBase at *
  exact decide_eq_true (by omega)

/-- The byte of an address of a line as its home knows it before a request: the slice's where it holds the sector, else that of DRAM. -/
def State.seenByte (s : State) (line x : Nat) : Byte :=
  if bit (s.sliceLine line).valid (x / 64 % 4) then Memory.get (s.sliceLine line).cells x else Memory.get s.dram x

/-- The line after a request for some of its sectors. -/
def State.fetched (s : State) (line : Nat) (mask : BitVec 4) : SliceLine :=
  (s.sliceLine line).fill mask (Memory.get s.dram) (fun k => s.poison.contains k)

theorem homeByte_dram (s : State) (x : Nat) (dram : isDram x = true) : s.homeByte x = Memory.get (s.sliceLine (x / 256)).cells x := if_pos dram

section
variable {s : State} {line : Nat} (h : AtHome s line) (mask : BitVec 4)
include h

theorem isDram_line : isDram (line * 256) = true := isDram_of_line h.dram (by omega)

theorem filled_fetched : Filled mask (Memory.get s.dram) (List.range 4) (s.sliceLine line) (s.fetched line mask) :=
  filled_fill mask _ _ _ h.rising

theorem fetched_line : (s.fetched line mask).line = line := (filled_fetched h mask).line.trans (sliceLine_line s line)

theorem fetched_valid (k : Nat) (hk : k < 4) : bit (s.fetched line mask).valid k = (bit (s.sliceLine line).valid k || bit mask k) := by
  rw [(filled_fetched h mask).valid k hk]
  simp [hk]

/-- 13 R235: a sector that is valid then holds the slice's bytes or those of DRAM. -/
theorem get_fetched (x : Nat) (mine : x / 256 = line) (valid : bit (s.fetched line mask).valid (x / 64 % 4) = true) :
    Memory.get (s.fetched line mask).cells x = s.seenByte line x := by
  have sector : x / 64 % 4 < 4 := Nat.mod_lt _ (by decide)
  rw [fetched_valid h mask _ sector] at valid
  rw [(filled_fetched h mask).cells x (mine.trans (sliceLine_line s line).symm), State.seenByte]
  cases held : bit (s.sliceLine line).valid (x / 64 % 4)
  · rw [held, Bool.false_or] at valid
    rw [if_pos ⟨rfl, List.mem_range.2 sector, valid⟩, if_neg (by decide)]
  · rw [if_neg (by simp), if_pos rfl]

theorem sliceRoom_eq : s.sliceRoom line = s := by
  refine if_pos ?_
  rcases h.room with free | ⟨k, hk, mine⟩
  · exact .inr free
  · exact .inl (List.any_eq_true.2 ⟨k, hk, beq_iff_eq.2 mine⟩)

/-- 13 R235: a request changes its line alone. -/
theorem fetchLine_spec : (s.fetchLine line mask).unsliced = s.unsliced ∧
    ((s.fetchLine line mask).sliceLine line).content = (s.fetched line mask).content := by
  have lines : s.linesFilled line = [line] := by unfold State.linesFilled; rw [h.plain]
  have fills : (s.fillLine line mask).unsliced = s.unsliced ∧ ((s.fillLine line mask).sliceLine line).content = (s.fetched line mask).content := by
    unfold State.fillLine
    dsimp only
    split
    next within => exact ⟨rfl, by rw [State.fetched, fill_within _ _ _ _ within]⟩
    next lacks =>
      rw [h.plain]
      have some' : (s.fetched line mask).valid ≠ 0 := fun none => lacks ((within_iff _ _).2 fun k hk asked => by
        have valid := fetched_valid h mask k hk
        rw [none, bit_zero, asked, Bool.or_true] at valid
        cases valid)
      refine ⟨unsliced_putSlice _ s, ?_⟩
      have stored := sliceLine_putSlice (s.fetched line mask) s some'
      rw [fetched_line h] at stored
      exact stored
  unfold State.fetchLine
  rw [lines, List.foldl_cons, List.foldl_nil, sliceRoom_eq h]
  exact ⟨fills.1, (sliceLine_touchSlice line _).trans fills.2⟩

theorem homeFetch_eq : s.homeFetch line mask = s.fetchLine line mask := if_pos (isDram_line h)

end

/-- 13 R238: a line without a use count after a read that brings one. -/
def SliceLine.counted (use : Nat) (free : Bool) (l : SliceLine) : SliceLine :=
  { l with use := use - 1, free := if use = 0 then l.free else free }

theorem counted_zero (free : Bool) (l : SliceLine) (fresh : l.use = 0) : l.counted 0 free = l := by
  cases l
  cases fresh
  rfl

/-- 13 R238: a read of a line without a use count counts it down, where it is not the last. -/
theorem countRead_spec (s : State) (line use : Nat) (free : Bool) (fresh : (s.sliceLine line).use = 0) (more : use ≠ 1)
    (valid : (s.sliceLine line).valid ≠ 0) :
    (s.countRead line use free).unsliced = s.unsliced ∧
      ((s.countRead line use free).sliceLine line).content = ((s.sliceLine line).counted use free).content := by
  unfold State.countRead
  dsimp only
  rw [if_pos fresh]
  dsimp only
  by_cases zero : use = 0
  · rw [if_pos zero, zero, counted_zero free _ fresh]
    exact ⟨rfl, rfl⟩
  · have stored := sliceLine_putSlice ((s.sliceLine line).counted use free) s valid
    rw [show ((s.sliceLine line).counted use free).line = line from sliceLine_line s line] at stored
    have kept : (s.sliceLine line).counted use free = { s.sliceLine line with use := use - 1, free := free } := by
      rw [SliceLine.counted, if_neg zero]
    rw [if_neg zero, if_neg (fun last => more last.1), ← kept]
    exact ⟨unsliced_putSlice _ s, stored⟩

/-- An event whose effect leaves a state without a graft record leads there. -/
theorem happens_of_effect {i : Instr} {f : State → State} {s t : State} {P : State → Prop} (step : exec i s = stepOf f s) (effect : f s = t)
    (log : t.graftLog = []) (holds : P t) : Happens i s P := by
  subst effect
  exact happens_of_stepOf step log holds

section
variable {s : State} {pa : Nat} (log : s.graftLog = []) (h : AtHome s (pa / 256))
include log h

theorem home_read (use : Nat) (free : Bool) (more : use ≠ 1) (fresh : (s.sliceLine (pa / 256)).use = 0) :
    Happens (.homeRead pa use free) s (fun t =>
      bit (t.sliceLine (pa / 256)).valid (pa / 64 % 4) = true ∧ (∀ x, x / 64 = pa / 64 → t.homeByte x = s.seenByte (pa / 256) x) ∧
      (t.sliceLine (pa / 256)).use = use - 1 ∧ (use ≠ 0 → (t.sliceLine (pa / 256)).free = free) ∧ t.dram = s.dram ∧ t.poison = s.poison ∧
      t.me = s.me) := by
  have sector : pa / 64 % 4 < 4 := Nat.mod_lt _ (by decide)
  obtain ⟨frame, content⟩ := fetchLine_spec h (1#4 <<< (pa / 64 % 4))
  have asked : bit (s.fetched (pa / 256) (1#4 <<< (pa / 64 % 4))).valid (pa / 64 % 4) = true := by
    rw [fetched_valid h _ _ sector, bit_sector _ _ sector]
    simp
  set u := s.fetchLine (pa / 256) (1#4 <<< (pa / 64 % 4)) with fetch
  have valid : (u.sliceLine (pa / 256)).valid ≠ 0 := fun none => by
    rw [← valid_of_content content, none, bit_zero] at asked
    cases asked
  obtain ⟨frame', content'⟩ := countRead_spec u (pa / 256) use free
    ((use_of_content content).trans ((filled_fetched h _).use.trans fresh)) more valid
  have effect : s.performHomeRead pa use free = u.countRead (pa / 256) use free := by
    unfold State.performHomeRead
    dsimp only
    rw [homeFetch_eq h, if_pos (isDram_of_line h.dram rfl)]
  refine happens_of_effect rfl effect ?_ ?_
  · rw [graftLog_of_unsliced frame', graftLog_of_unsliced frame, log]
  · refine ⟨?_, fun x near => ?_, use_of_content content', fun some' => ?_, ?_, ?_, ?_⟩
    · rw [valid_of_content content']
      exact (congrArg (fun v => bit v _) (valid_of_content content)).trans asked
    · have mine : x / 256 = pa / 256 := by omega
      have cells : (u.sliceLine (pa / 256)).cells = _ := cells_of_content content
      rw [homeByte_dram _ _ (isDram_of_line h.dram mine), mine, cells_of_content content', SliceLine.counted, cells]
      exact get_fetched h _ x mine (by rw [near]; exact asked)
    · exact (free_of_content content').trans (if_neg some')
    · rw [dram_of_unsliced frame', dram_of_unsliced frame]
    · rw [poison_of_unsliced frame', poison_of_unsliced frame]
    · rw [me_of_unsliced frame', me_of_unsliced frame]

end

/-! ### The sectors that requests in flight ask for (13 R235) -/

/-- A fold that keeps its members, and that adds x at one of its steps, ends with x. -/
theorem mem_foldl_of_step {α : Type} (f : List Nat → α → List Nat) (x : Nat) (keeps : ∀ l a, x ∈ l → x ∈ f l a) {a : α}
    (adds : ∀ l, x ∈ f l a) {as : List α} (ha : a ∈ as) (l : List Nat) : x ∈ as.foldl f l := by
  have grows : ∀ (as : List α) (l : List Nat), x ∈ l → x ∈ as.foldl f l := fun as => by
    induction as with
    | nil => exact fun _ hx => hx
    | cons b as ih => exact fun l hx => ih _ (keeps l b hx)
  obtain ⟨before, after, rfl⟩ := List.append_of_mem ha
  rw [List.foldl_append, List.foldl_cons]
  exact grows after _ (adds _)

/-- The sectors that the flight of a strand asks for, beside others. -/
def askedBy (l : List Nat) (t : Strand) : List Nat :=
  match t.flight with
  | some (.load us _ _ _ _) => us.foldl (fun l u => setInsert l (u.pa / 64)) l
  | some (.atomic _ _ ls) => ls.foldl (fun l u => setInsert l (u.pa / 64)) l
  | _ => l

theorem wantedSectors_eq (s : State) (line : Nat) : s.wantedSectors line = sectorMask (s.allStrands.foldl askedBy []) line := rfl

theorem mem_askedBy_of_mem (l : List Nat) (t : Strand) (x : Nat) (hx : x ∈ l) : x ∈ askedBy l t := by
  unfold askedBy
  split
  · exact (mem_foldl_setInsert _ _ _ _).2 (.inl hx)
  · exact (mem_foldl_setInsert _ _ _ _).2 (.inl hx)
  · exact hx

theorem bit_wantedSectors (s : State) (line pa : Nat) (k : Strand) (hk : k ∈ s.allStrands) (asks : ∀ l, pa / 64 ∈ askedBy l k)
    (mine : pa / 256 = line) : bit (s.wantedSectors line) (pa / 64 % 4) = true := by
  have asked := mem_foldl_of_step askedBy (pa / 64) (fun l t => mem_askedBy_of_mem l t _) asks hk []
  rw [wantedSectors_eq, bit_sectorMask _ _ _ (Nat.mod_lt _ (by decide)), show line * 4 + pa / 64 % 4 = pa / 64 by omega]
  exact List.contains_iff_mem.2 asked

section
variable {s : State} {line : Nat} (log : s.graftLog = []) (h : AtHome s line)
include log h

theorem dram_read_complete : Happens (.dramReadComplete line) s (fun t =>
    (∀ k ∈ s.allStrands, ∀ us n u f na, k.flight = some (.load us n u f na) → ∀ u ∈ us, u.pa / 256 = line →
      bit (t.sliceLine line).valid (u.pa / 64 % 4) = true) ∧
    (∀ k ∈ s.allStrands, ∀ fn n ls, k.flight = some (.atomic fn n ls) → ∀ u ∈ ls, u.pa / 256 = line →
      bit (t.sliceLine line).valid (u.pa / 64 % 4) = true) ∧
    (∀ x, x / 256 = line → bit (t.sliceLine line).valid (x / 64 % 4) = true → t.homeByte x = s.seenByte line x) ∧ t.dram = s.dram ∧
    t.me = s.me) := by
  obtain ⟨frame, content⟩ := fetchLine_spec h (s.wantedSectors line)
  have wanted : ∀ k ∈ s.allStrands, ∀ pa, (∀ l, pa / 64 ∈ askedBy l k) → pa / 256 = line →
      bit ((s.fetchLine line (s.wantedSectors line)).sliceLine line).valid (pa / 64 % 4) = true := fun k hk pa asks mine => by
    rw [valid_of_content content, fetched_valid h _ _ (Nat.mod_lt _ (by decide)), bit_wantedSectors s line pa k hk asks mine, Bool.or_true]
  refine happens_of_effect rfl (if_pos (isDram_line h)) ?_ ?_
  · rw [graftLog_of_unsliced frame, log]
  · refine ⟨fun k hk us n use f na flight u hu mine => ?_, fun k hk fn n ls flight u hu mine => ?_, fun x mine valid => ?_,
      dram_of_unsliced frame, me_of_unsliced frame⟩
    · refine wanted k hk u.pa (fun l => ?_) mine
      rw [askedBy, flight]
      exact (mem_foldl_setInsert _ _ _ _).2 (.inr ⟨u, hu, rfl⟩)
    · refine wanted k hk u.pa (fun l => ?_) mine
      rw [askedBy, flight]
      exact (mem_foldl_setInsert _ _ _ _).2 (.inr ⟨u, hu, rfl⟩)
    · rw [valid_of_content content] at valid
      rw [homeByte_dram _ _ (isDram_of_line h.dram mine), mine, cells_of_content content, get_fetched h _ x mine valid]

end

/-! ### The write-back of a line (13 R235) -/

/-- A state without DRAM and its poison. -/
def State.undrammed (s : State) : State := { s with dram := [], poison := [] }

/-- Stores sector k of a line, where it is dirty. -/
def State.storeDirty (line : Nat) (l : SliceLine) (s : State) (k : Nat) : State :=
  if bit l.dirty k then
    s.storeSector (line * 4 + k) (Memory.read l.cells (line * 256 + k * 64) 64) (bit l.poison k || bit l.marks k)
  else s

theorem writeBackPlain_eq (line : Nat) (s : State) :
    s.writeBackPlain line = ((List.range 4).foldl (State.storeDirty line (s.sliceLine line)) s).cleanLine line := rfl

theorem undrammed_storeSector (sector : Nat) (bs : List Byte) (p : Bool) (s : State) : (s.storeSector sector bs p).undrammed = s.undrammed := rfl

theorem undrammed_storeDirty (line : Nat) (l : SliceLine) (s : State) (k : Nat) : (s.storeDirty line l k).undrammed = s.undrammed := by
  unfold State.storeDirty
  split
  · rw [undrammed_storeSector]
  · rfl

theorem rising_storeSector (sector : Nat) (bs : List Byte) (p : Bool) (s : State) (rising : Memory.Rising s.dram) :
    Memory.Rising (s.storeSector sector bs p).dram := Memory.rising_write _ _ rising

theorem rising_storeDirty (line : Nat) (l : SliceLine) (s : State) (k : Nat) (rising : Memory.Rising s.dram) :
    Memory.Rising (s.storeDirty line l k).dram := by
  unfold State.storeDirty
  split
  · exact rising_storeSector _ _ _ s rising
  · exact rising

theorem get_storeDirty (line : Nat) (l : SliceLine) (s : State) (k x : Nat) (hk : k < 4) (rising : Memory.Rising s.dram) :
    Memory.get (s.storeDirty line l k).dram x =
      if x / 256 = line ∧ x / 64 % 4 = k ∧ bit l.dirty k then Memory.get l.cells x else Memory.get s.dram x := by
  unfold State.storeDirty
  split
  next dirty =>
    unfold State.storeSector
    dsimp only
    rw [Memory.get_write_rising _ _ _ rising, Memory.read_length]
    by_cases here : x / 256 = line ∧ x / 64 % 4 = k
    · rw [if_pos (by omega), if_pos ⟨here.1, here.2, dirty⟩, Memory.read_getElem? _ _ _ _ (by omega)]
      congr 1
      omega
    · rw [if_neg (by omega), if_neg (fun e => here ⟨e.1, e.2.1⟩)]
  next clean => rw [if_neg (fun e => clean e.2.2)]

theorem get_foldl_storeDirty (line : Nat) (l : SliceLine) (ks : List Nat) (hks : ∀ k ∈ ks, k < 4) (s : State) (x : Nat)
    (rising : Memory.Rising s.dram) :
    Memory.get (ks.foldl (State.storeDirty line l) s).dram x =
      if x / 256 = line ∧ x / 64 % 4 ∈ ks ∧ bit l.dirty (x / 64 % 4) then Memory.get l.cells x else Memory.get s.dram x := by
  induction ks generalizing s with
  | nil => simp
  | cons k ks ih =>
    rw [List.foldl_cons, ih (fun j hj => hks j (List.mem_cons_of_mem _ hj)) _ (rising_storeDirty line l s k rising),
      get_storeDirty _ _ _ _ _ (hks k (List.mem_cons_self ..)) rising]
    by_cases mine : x / 256 = line
    · by_cases same : x / 64 % 4 = k
      · by_cases dirty : bit l.dirty k = true <;> simp [mine, same, dirty]
      · simp [same]
    · simp [mine]

theorem dropLine_putSlice (l : SliceLine) (s : State) : ((s.putSlice l).dropLine l.line).slices = s.slices.filter (fun k => k.line != l.line) := by
  unfold State.dropLine State.putSlice
  dsimp only
  split <;> simp [List.filter_filter]

theorem write_back_sequence {s : State} {line : Nat} (log : s.graftLog = []) (h : AtHome s line) (sorted : DramSorted s) :
    Happens (.writeBackSequence line) s (fun t => t.slices = s.slices.filter (fun k => k.line != line) ∧
      (∀ x, Memory.get t.dram x = if x / 256 = line ∧ bit (s.sliceLine line).dirty (x / 64 % 4) then Memory.get (s.sliceLine line).cells x
        else Memory.get s.dram x) ∧ t.me = s.me) := by
  set u := (List.range 4).foldl (State.storeDirty line (s.sliceLine line)) s with stored
  have frame : u.undrammed = s.undrammed := foldl_keeps State.undrammed _ (fun s k => undrammed_storeDirty _ _ s k) _ s
  have slices : u.slices = s.slices := show u.undrammed.slices = s.undrammed.slices by rw [frame]
  set l : SliceLine := { u.sliceLine line with dirty := 0 } with clean
  have line' : l.line = line := sliceLine_line u line
  have left : (u.putSlice l).unsliced = u.unsliced := unsliced_putSlice l u
  have effect : s.evictLine line = (u.putSlice l).dropLine line := by
    unfold State.evictLine State.writeBack
    rw [h.plain]
    exact congrArg (State.dropLine line) (writeBackPlain_eq line s)
  refine happens_of_effect rfl ((if_pos (isDram_line h)).trans effect) ?_ ?_
  · show (u.putSlice l).graftLog = []
    rw [graftLog_of_unsliced left, ← log]
    exact (show u.undrammed.graftLog = s.undrammed.graftLog by rw [frame])
  · refine ⟨?_, fun x => ?_, ?_⟩
    · rw [← slices, ← line']
      exact dropLine_putSlice l u
    · show Memory.get (u.putSlice l).dram x = _
      rw [dram_of_unsliced left, stored, get_foldl_storeDirty _ _ _ (fun k hk => List.mem_range.1 hk) _ _ sorted]
      simp [Nat.mod_lt]
    · show (u.putSlice l).me = s.me
      rw [me_of_unsliced left]
      exact (show u.undrammed.me = s.undrammed.me by rw [frame])

/-! ### Bytes that wait in the write-combining buffer (05 R109) -/

theorem untranslated_crossLinks (core : Nat) (out : Bool) (pas : List Nat) (s : State) : (s.crossLinks core out pas).untranslated = s.untranslated :=
  foldl_keeps State.untranslated _ (fun s k => by cases out <;> exact untranslated_sendFlit _ _ s) _ s

section
variable {s t : State} (h : t.untranslated = s.untranslated)
include h

theorem dram_of_untranslated : t.dram = s.dram := show t.untranslated.dram = s.untranslated.dram by rw [h]
theorem poison_of_untranslated : t.poison = s.poison := show t.untranslated.poison = s.untranslated.poison by rw [h]
theorem cores_of_untranslated : t.cores = s.cores := show t.untranslated.cores = s.untranslated.cores by rw [h]
theorem sliceLine_of_untranslated (line : Nat) : t.sliceLine line = s.sliceLine line :=
  show t.untranslated.sliceLine line = s.untranslated.sliceLine line by rw [h]

theorem seenByte_of_untranslated (line x : Nat) : t.seenByte line x = s.seenByte line x :=
  show t.untranslated.seenByte line x = s.untranslated.seenByte line x by rw [h]

theorem atHome_of_untranslated {line : Nat} (home : AtHome s line) : AtHome t line where
  dram := home.dram
  plain := (show t.untranslated.blockAt (line * 256) = s.untranslated.blockAt (line * 256) by rw [h]).trans home.plain
  room := by
    have ways : t.freeWays line = s.freeWays line := show t.untranslated.freeWays line = s.untranslated.freeWays line by rw [h]
    have slices : t.slices = s.slices := show t.untranslated.slices = s.untranslated.slices by rw [h]
    rw [ways, slices]
    exact home.room
  rising := by
    rw [sliceLine_of_untranslated h]
    exact home.rising

end

theorem coreOf_congr {s t : State} (core : t.core = s.core) (cores : t.cores = s.cores) (id : Nat) : t.coreOf id = s.coreOf id := by
  unfold State.coreOf
  rw [core, cores]

theorem strand?_congr {s t : State} (me : t.me = s.me) (strands : t.strands = s.strands) (id : Nat) : t.strand? id = s.strand? id := by
  unfold State.strand?
  rw [me, strands]

/-- A core that is rewritten under its identity is found as rewritten. -/
theorem coreOf_mapCoreOf (id : Nat) (f : Core → Core) (s : State) (keeps : ∀ c, (f c).id = c.id) :
    (s.mapCoreOf id f).coreOf id = f (s.coreOf id) := by
  unfold State.mapCoreOf State.coreOf
  by_cases here : s.core.id = id
  · rw [if_pos here, if_pos here]
    exact if_pos ((keeps _).trans here)
  · rw [if_neg here, if_neg here]
    split
    next listed =>
      dsimp only
      rw [find?_updIf _ _ (fun c hc => by rw [beq_iff_eq] at hc ⊢; rw [keeps, hc])]
      obtain ⟨c, hc, same⟩ := List.any_eq_true.1 listed
      cases found : s.cores.find? (fun c => c.id == id) with
      | none => exact absurd same (by simpa using List.find?_eq_none.1 found c hc)
      | some c => rfl
    next unlisted =>
      dsimp only
      have none : s.cores.find? (fun c => c.id == id) = none :=
        List.find?_eq_none.2 fun c hc same => unlisted (List.any_eq_true.2 ⟨c, hc, same⟩)
      have mine : ((f (Core.init id)).id == id) = true := beq_iff_eq.2 ((keeps _).trans rfl)
      simp only [none, List.find?_cons, mine]
      rfl

theorem graftLog_mapCoreOf (id : Nat) (f : Core → Core) (s : State) : (s.mapCoreOf id f).graftLog = s.graftLog := by
  unfold State.mapCoreOf
  (repeat' split) <;> rfl

theorem homeByte_mapCoreOf (id : Nat) (f : Core → Core) (s : State) (x : Nat) : (s.mapCoreOf id f).homeByte x = s.homeByte x := by
  unfold State.mapCoreOf
  (repeat' split) <;> rfl

theorem bit_touched_one (line pa : Nat) (b : Byte) (mine : pa / 256 = line) : bit (touched line [(pa, b)]) (pa / 64 % 4) = true := by
  have sector : pa / 64 % 4 < 4 := Nat.mod_lt _ (by decide)
  unfold touched
  rw [bit_foldl_sectors _ _ _ _ (fun j hj => List.mem_range.1 hj)]
  simp [sector]
  omega

theorem covered_one (line pa : Nat) (b : Byte) : covered line [(pa, b)] = 0 := by
  have few : ∀ k, ([(pa, b)].filter (fun c : Host.Cell => decide (c.1 / 64 = line * 4 + k))).length ≠ 64 := fun k => by
    have := List.length_filter_le (fun c : Host.Cell => decide (c.1 / 64 = line * 4 + k)) [(pa, b)]
    simp only [List.length_singleton] at this
    omega
  unfold covered
  simp only [few, if_false, List.foldl_fixed]

/-- 13 R235: one byte that is written at its home, and the bytes beside it. -/
theorem homePut_one {s : State} {pa : Nat} (h : AtHome s (pa / 256)) (b : Byte) :
    (s.homePut (pa / 256) [(pa, b)] 0 false).unsliced = s.unsliced ∧ ∀ x, x / 64 = pa / 64 →
      (s.homePut (pa / 256) [(pa, b)] 0 false).homeByte x = if x = pa then b else s.seenByte (pa / 256) x := by
  have asked := bit_touched_one (pa / 256) pa b rfl
  have sector : pa / 64 % 4 < 4 := Nat.mod_lt _ (by decide)
  set m := touched (pa / 256) [(pa, b)] with sectors
  obtain ⟨frame, content⟩ := fetchLine_spec h (m &&& ~~~0)
  have valid : bit (s.fetched (pa / 256) (m &&& ~~~0)).valid (pa / 64 % 4) = true := by
    rw [fetched_valid h _ _ sector, bit_and, bit_not _ _ sector, bit_zero, asked]
    simp
  set u := s.fetchLine (pa / 256) (m &&& ~~~0) with fetch
  set l : SliceLine := { u.sliceLine (pa / 256) with
    used := s.uses, valid := (u.sliceLine (pa / 256)).valid ||| m, dirty := (u.sliceLine (pa / 256)).dirty ||| m
    marks := (u.sliceLine (pa / 256)).marks &&& ~~~0, poison := (u.sliceLine (pa / 256)).poison &&& ~~~0
    cells := Memory.set (u.sliceLine (pa / 256)).cells pa b } with put
  have line : l.line = pa / 256 := sliceLine_line u _
  have some' : l.valid ≠ 0 := fun none => by
    have touches : bit l.valid (pa / 64 % 4) = true := (bit_or _ m _).trans (by rw [asked, Bool.or_true])
    rw [none, bit_zero] at touches
    cases touches
  have effect : s.homePut (pa / 256) [(pa, b)] 0 false = u.putSlice l := by
    unfold State.homePut
    dsimp only
    rw [if_pos (isDram_line h), covered_one]
    rfl
  have holds := sliceLine_putSlice l u some'
  rw [line] at holds
  rw [effect]
  refine ⟨(unsliced_putSlice l u).trans frame, fun x near => ?_⟩
  have mine : x / 256 = pa / 256 := by omega
  have cells : l.cells = Memory.set (s.fetched (pa / 256) (m &&& ~~~0)).cells pa b :=
    congrArg (fun c => Memory.set c pa b) (cells_of_content content)
  rw [homeByte_dram _ _ (isDram_of_line h.dram mine), mine, cells_of_content holds, cells, Memory.get_set_rising _ _ _ (filled_fetched h _).rising,
    get_fetched h _ x mine (by rw [near]; exact valid)]

/-- The core's buffer without its bytes of the line; the L1 keeps no copy of the sectors that they touch. -/
def Core.wrote (line : Nat) (cells : List Host.Cell) (c : Core) : Core :=
  { c with nt := c.nt.filter (fun e => !decide (e.addr / 256 = line)) }.dropSectors (fun k => cells.any (fun e => decide (e.1 / 64 = k)))

theorem exec_homeWrite (core line : Nat) (s : State) : exec (.homeWrite core line) s =
    stepOf (fun s => if s.heldBack core [line * 256] then s.dueOnce acTicks (.homeWrite core line) else s.performHomeWrite core line) s := rfl

theorem home_write {s : State} {pa core strand : Nat} {b : Byte} {q : Bool} (log : s.graftLog = []) (h : AtHome s (pa / 256))
    (free : s.heldBack core [pa / 256 * 256] = false)
    (waits : (s.coreOf core).nt.filter (fun e => e.addr / 256 == pa / 256) = [NtByte.mk strand pa b q]) (gone : ∀ k, s.strand? strand ≠ some k) :
    Happens (.homeWrite core (pa / 256)) s (fun t => t.homeByte pa = b ∧
      (∀ x, x ≠ pa → x / 64 = pa / 64 → t.homeByte x = s.seenByte (pa / 256) x) ∧ (∀ e ∈ (t.coreOf core).nt, e.addr / 256 ≠ pa / 256) ∧
      t.me = s.me) := by
  have crossed := untranslated_crossLinks core true [pa] s
  set u := s.crossLinks core true [pa] with cross
  obtain ⟨frame, bytes⟩ := homePut_one (atHome_of_untranslated crossed h) b
  set v := u.homePut (pa / 256) [(pa, b)] 0 false with put
  have resident : (v.mapCoreOf core (Core.wrote (pa / 256) [(pa, b)])).resident = s.resident := by simp [v, u]
  have effect : s.performHomeWrite core (pa / 256) = v.mapCoreOf core (Core.wrote (pa / 256) [(pa, b)]) := by
    have mine : (s.coreOf core).nt.filter (fun e => decide (e.addr / 256 = pa / 256)) = [NtByte.mk strand pa b q] := by
      rw [← waits]
      congr 1
    have unknown : (v.mapCoreOf core (Core.wrote (pa / 256) [(pa, b)])).strand? strand = none := by
      rw [strand?_congr (State.me_of_resident resident) (congrArg (·.2.2.2.1) resident)]
      exact Option.eq_none_iff_forall_ne_some.2 gone
    unfold State.performHomeWrite
    dsimp only
    rw [mine]
    refine (if_neg (by simp [Cells.put])).trans ?_
    change (match (v.mapCoreOf core (Core.wrote (pa / 256) [(pa, b)])).strand? strand with
      | some t => (v.mapCoreOf core (Core.wrote (pa / 256) [(pa, b)])).checkBlock t.block
      | none => v.mapCoreOf core (Core.wrote (pa / 256) [(pa, b)])) = _
    rw [unknown]
  refine happens_of_effect (exec_homeWrite core (pa / 256) s) ((if_neg (by simp [free])).trans effect) ?_ ?_
  · rw [graftLog_mapCoreOf, graftLog_of_unsliced frame, graftLog_of_untranslated crossed, log]
  · simp only [homeByte_mapCoreOf]
    refine ⟨?_, fun x other near => ?_, ?_, ?_⟩
    · rw [bytes pa rfl, if_pos rfl]
    · rw [bytes x near, if_neg other, seenByte_of_untranslated crossed]
    · rw [coreOf_mapCoreOf core (Core.wrote (pa / 256) [(pa, b)]) v (fun _ => rfl)]
      intro e he
      simpa using (List.mem_filter.1 he).2
    · exact State.me_of_resident resident

/-- The events of a home: of an address of unbound DRAM, whose set has room, the line is at home. -/
theorem saysHomeRequests : SaysHomeRequests := by
  intro s pa core use free log dram unbound once sorted room line l seen
  have h : AtHome s line :=
    ⟨by show pa / 256 * 256 < nearBase; omega, blockAt_unbound s pa unbound, room, rising_sliceLine s line once⟩
  exact ⟨fun more fresh => home_read log h use free more fresh, dram_read_complete log h, write_back_sequence log h sorted,
    fun strand b q _ held waits gone => home_write log h held waits gone⟩

end Sys2Proof.Machine

namespace Sys2Proof.Machine

/-! ## Replies, acknowledgements and packets of peers (05 R103, R106, R115 to R120, 11 R202) -/

/-- 00 R6: the number of n bytes. -/
theorem bytesNat_map_range (f : Nat → Byte) (n : Nat) :
    bytesNat ((List.range n).map f) = ((List.range n).map (fun k => (f k).toNat * 256 ^ k)).sum := by
  induction n generalizing f with
  | zero => rfl
  | succ n ih =>
    rw [List.range_succ_eq_map, List.map_cons, List.map_map, bytesNat, ih, List.map_cons, List.map_map, List.sum_cons, pow_zero, mul_one,
      ← List.sum_map_mul_left]
    congr 2
    apply List.map_congr_left
    intro k _
    simp only [Function.comp_apply, pow_succ]
    ring

/-- A step is its effect, where that leaves no graft record. -/
theorem stepOf_of_effect {f : State → State} {s t : State} (effect : f s = t) (log : t.graftLog = []) : stepOf f s = .next t := by
  subst effect
  exact stepOf_eq f s log

theorem mapStrand_me (s : State) (k : Nat) (f : Strand → Strand) (mine : s.me.id = k) : (s.mapStrand k f).me = f s.me :=
  if_pos (beq_iff_eq.2 mine)

section
variable {s : State} {k : Nat} (log : s.graftLog = [])
include log

/-- The reply of what has been performed elsewhere. -/
theorem exec_replies {t : Strand} {vals : List (Nat × Nat)} {d p : List Nat} (found : s.strand? k = some t)
    (flight : t.flight = some (.performed vals d p)) :
    ∀ i ∈ [Instr.memoryReply k, .atomicReply k], exec i s = .next (s.mapStrand k (arrived (.loaded vals d p))) := by
  have memory : exec (.memoryReply k) s = .next (s.mapStrand k (arrived (.loaded vals d p))) := by
    change execMemoryReply k s = _
    refine stepOf_of_effect ?_ log
    dsimp only
    rw [found]
    dsimp only
    rw [flight]
    rfl
  have atomic : exec (.atomicReply k) s = .next (s.mapStrand k (arrived (.loaded vals d p))) := by
    change execAtomicReply k s = _
    refine stepOf_of_effect ?_ log
    rw [found, Option.bind_some, flight]
    rfl
  intro i hi
  rcases List.mem_cons.1 hi with rfl | hi
  · exact memory
  · rw [List.mem_singleton.1 hi]
    exact atomic

theorem exec_storeAcknowledge :
    exec (.storeAcknowledge k) s = .next (s.mapStrand k (fun t => { t with peerStores := t.peerStores - 1 })) :=
  stepOf_eq _ s log

end

/-! ### A load whose bytes the L1 holds -/

section
variable {s : State}

theorem coreOf_focus (focused : Focused s) : s.coreOf s.blk.core = s.core := if_pos focused.core

theorem lacks_held (u : UnitPa) (n : Nat) (held : InL1 s u.pa n) : u.lacks s.core n = false := by
  unfold UnitPa.lacks
  rw [List.any_eq_false]
  intro k hk
  have there := (held k (List.mem_range.1 hk)).1
  simpa [Option.isSome_iff_ne_none] using there

/-- 05 R109: where no non-temporal byte of the strand waits, a load sees none. -/
theorem seeNt_none (core : Nat) (pas : List Nat) (none : ∀ e ∈ (s.coreOf core).nt, e.strand ≠ s.me.id) : s.seeNt core s.me.id pas = s := by
  unfold State.seeNt
  dsimp only
  rw [if_neg]
  simp only [List.any_eq_true, Bool.and_eq_true, decide_eq_true_eq, not_exists, not_and]
  exact fun e he mine => absurd mine.1 (none e he)

theorem loadByte_held (pa : Nat) (none : NoNt s) (held : (s.core.look pa).isSome = true) :
    s.loadByte s.core s.me.id pa = (s.core.look pa).getD 0 := by
  have unwritten : s.core.ntByte s.me.id pa = Option.none := by
    unfold Core.ntByte
    rw [List.filter_eq_nil_iff.2, List.getLast?_nil]
    intro e he
    simp [none e he]
  obtain ⟨b, found⟩ := Option.isSome_iff_exists.1 held
  rw [State.loadByte, unwritten, found]
  rfl

theorem bytesAt_held (pa n : Nat) (none : NoNt s) (held : InL1 s pa n) : bytesAt (s.loadByte s.core s.me.id) pa n = l1Num s pa n := by
  unfold bytesAt l1Num
  rw [bytesNat_map_range]
  congr 1
  apply List.map_congr_left
  intro k hk
  rw [loadByte_held _ none (held k (List.mem_range.1 hk)).1]

theorem timeless_l1Touch (core : Nat) (lines : List Nat) (s : State) : (s.l1Touch core lines).core.timeless = s.core.timeless := by
  unfold State.l1Touch State.mapCoreOf
  dsimp only
  (repeat' split) <;> rfl

/-- 05 R103, R106: a load of one unit that the L1 holds is served there. -/
theorem serveLoad_held (focused : Focused s) (block : s.me.block = s.blk.id) (u : UnitPa) (n use : Nat) (free na : Bool) (cooked : u.raw = false)
    (pos : 0 < n) (held : InL1 s u.pa n) (none : NoNt s) (sound : ∀ m, s.me.memWait = some m → ∀ f ∈ m.failed, f.cause ≠ .poison) :
    s.serveLoad s.me [u] n use free na =
      (s.l1Touch s.blk.core [u.pa / 256]).mapStrand s.me.id (arrived (.loaded [(u.unit, l1Num s u.pa n)] [] [])) := by
  have lacks := lacks_held u n held
  have clean : s.core.corrupt.contains (u.pa / 64) = false := by simpa using (held 0 pos).2
  have plain : [u].filter (fun u => !u.raw) = [u] := by simp [cooked]
  have rawUnits : [u].filter (fun u => u.raw) = [] := by simp [cooked]
  have hits : [u].filter (fun u => !u.lacks s.core n) = [u] := by simp [lacks]
  have misses : [u].filter (fun u => u.lacks s.core n) = [] := by simp [lacks]
  have corrupt : [u].filter (fun u => s.core.corrupt.contains (u.pa / 64)) = [] := by rw [List.filter_cons_of_neg (by rw [clean]; decide)]; rfl
  have raw : s.rawReady [u] = s := by rw [State.rawReady, rawUnits]; rfl
  have unseen := fun pas => seeNt_none (s := s) s.blk.core pas (by rw [coreOf_focus focused]; exact none)
  have failures : ((s.me.memWait.map (·.failed)).getD []).filter (fun f => decide (f.cause = .poison)) = [] := by
    rw [List.filter_eq_nil_iff]
    cases waits : s.me.memWait with
    | none => simp
    | some m => simpa using sound m waits
  have served (r : Served) : State.serveLine s.blk s.me [u] [] n use free (!na) (r, s) (u.pa / 256) = (r, s.l1Touch s.blk.core [u.pa / 256]) := by
    simp [State.serveLine]
  have lines : requestLines [u] = [u.pa / 256] := rfl
  unfold State.serveLoad
  rw [State.block?_blk s _ block.symm]
  dsimp only
  rw [coreOf_focus focused, raw, unseen, coreOf_focus focused, failures, plain, rawUnits, hits, misses, corrupt, lines,
    List.foldl_cons, List.foldl_nil, if_pos rfl, served, List.map_singleton, bytesAt_held _ _ none held]
  rfl

theorem memory_reply (log : s.graftLog = []) (focused : Focused s) (block : s.me.block = s.blk.id) (u : UnitPa) (n use : Nat) (free na : Bool)
    (flight : s.me.flight = some (.load [u] n use free na)) (cooked : u.raw = false)
    (pos : 0 < n) (held : InL1 s u.pa n) (none : NoNt s) (sound : ∀ m, s.me.memWait = some m → ∀ f ∈ m.failed, f.cause ≠ .poison) :
    Happens (.memoryReply s.me.id) s (fun t =>
      t.me = arrived (.loaded [(u.unit, l1Num s u.pa n)] [] []) s.me ∧ t.core.timeless = s.core.timeless) := by
  have effect := serveLoad_held focused block u n use free na cooked pos held none sound
  have kept : (s.l1Touch s.blk.core [u.pa / 256]).me = s.me := State.me_of_resident (by simp)
  refine ⟨(s.l1Touch s.blk.core [u.pa / 256]).mapStrand s.me.id (arrived (.loaded [(u.unit, l1Num s u.pa n)] [] [])), ?_, ?_, ?_⟩
  · change execMemoryReply s.me.id s = _
    refine stepOf_of_effect ?_ ?_
    · dsimp only
      rw [State.strand?_me s _ rfl]
      dsimp only
      rw [flight]
      dsimp only
      rw [State.block?_blk s _ block.symm, Option.map_some, Option.getD_some, coreOf_focus focused,
        List.filter_cons_of_neg (by simp [lacks_held u n held])]
      exact effect
    · rw [State.mapStrand_graftLog, State.l1Touch]
      exact (graftLog_mapCoreOf _ _ s).trans log
  · rw [mapStrand_me _ _ _ (by rw [kept]), kept]
  · rw [State.mapStrand_core, timeless_l1Touch]

end

/-! ### An atomic in near store (05 R117, 13 R236) -/

theorem dram_mapCoreOf (id : Nat) (f : Core → Core) (s : State) : (s.mapCoreOf id f).dram = s.dram := by
  unfold State.mapCoreOf
  (repeat' split) <;> rfl

theorem poison_mapCoreOf (id : Nat) (f : Core → Core) (s : State) : (s.mapCoreOf id f).poison = s.poison := by
  unfold State.mapCoreOf
  (repeat' split) <;> rfl

/-- Sectors that hold no dirty byte leave the L1 without a write-back. -/
theorem l1Expel_clean (core : Nat) (p : Nat → Bool) (s : State) (clean : ∀ e ∈ (s.coreOf core).dirty, p (e.1 / 64) = false) :
    s.l1Expel core p = s.mapCoreOf core (Core.dropSectors p) := by
  have none : (s.coreOf core).dirty.filter (fun e => p (e.1 / 64)) = [] :=
    List.filter_eq_nil_iff.2 fun e he => by simp [clean e he]
  unfold State.l1Expel State.l1WriteBack
  dsimp only
  rw [none]
  rfl

theorem newBytes_length (fn n old : Nat) (l : AtomLane) (size : n = 4 ∨ n = 8) : (l.newBytes fn n old).length = n := by
  unfold AtomLane.newBytes
  rcases size with rfl | rfl <;> simp

section
variable {s : State} {l : AtomLane} (near : nearBase ≤ l.pa) (sound : l.pa / 64 ∉ s.poison)
include near

theorem isDram_near : isDram l.pa = false ∧ isDram (l.pa / 256 * 256) = false := by
  unfold isDram nearBase at *
  exact ⟨decide_eq_false (by omega), decide_eq_false (by omega)⟩

theorem homeFetch_near (mask : BitVec 4) (s : State) : s.homeFetch (l.pa / 256) mask = s := if_neg (by simp [(isDram_near near).2])

theorem bytesAt_near (n : Nat) (s : State) : bytesAt s.homeByte l.pa n = bytesAt (Memory.get s.dram) l.pa n := by
  unfold bytesAt
  congr 1
  apply List.map_congr_left
  intro k _
  have beyond : isDram (l.pa + k) = false := by
    unfold isDram
    exact decide_eq_false (by omega)
  exact if_neg (by simp [beyond])

include sound

theorem homePoison_near : s.homePoison l.pa = false := by
  unfold State.homePoison
  rw [(isDram_near near).1]
  simpa using sound

theorem poisonedLanes_near : poisonedLanes [l] s = ([], s) := by
  unfold poisonedLanes
  simp only [List.foldl_cons, List.foldl_nil, homeFetch_near near, homePoison_near near sound]
  rfl

/-- 05 R117: a lane in near store: the old value is read, the new bytes are stored. -/
theorem performAtHome_near (fn n : Nat) (e : AtomEnd) : ∃ t : State, t.resident = s.resident ∧ t.graftLog = s.graftLog ∧
    t.dram = Memory.write s.dram l.pa (l.newBytes fn n (bytesAt (Memory.get s.dram) l.pa n)) ∧
    State.performAtHome fn n l (e, s) = ({ e with vals := e.vals ++ [(l.lane, bytesAt (Memory.get s.dram) l.pa n)] }, t) := by
  have mark : s.homeMark l.pa = false := by simp [State.homeMark, (isDram_near near).1]
  refine ⟨s.homePut (l.pa / 256) (cellsAt l.pa (l.newBytes fn n (bytesAt (Memory.get s.dram) l.pa n))) 0 false, by simp, ?_, ?_, ?_⟩
  · unfold State.homePut
    dsimp only
    rw [(isDram_near near).2]
    rfl
  · unfold State.homePut
    dsimp only
    rw [(isDram_near near).2]
    exact foldl_set_cellsAt _ _ _
  · unfold State.performAtHome
    dsimp only
    rw [homeFetch_near near, homePoison_near near sound, mark, bytesAt_near near]
    rfl

end

/-- A strand whose access has been performed. -/
def Strand.performed (vals : List (Nat × Nat)) (t : Strand) : Strand := { t with flight := some (.performed vals [] []) }

/-- 05 R117: an atomic of one lane in near store, of whose sector the L1 holds no dirty byte: its old value travels back. -/
theorem performAtomic_near (strand core fn n : Nat) (l : AtomLane) (s : State) (near : nearBase ≤ l.pa) (sound : l.pa / 64 ∉ s.poison)
    (clean : ∀ e ∈ (s.coreOf core).dirty, e.1 / 64 ≠ l.pa / 64) : ∃ (t : State) (d : Nat), t.resident = s.resident ∧ t.graftLog = s.graftLog ∧
    t.dram = Memory.write s.dram l.pa (l.newBytes fn n (bytesAt (Memory.get s.dram) l.pa n)) ∧
    s.performAtomic strand core fn n [l] =
      (t.mapStrand strand (Strand.performed [(l.lane, bytesAt (Memory.get s.dram) l.pa n)])).due d (.atomicReply strand) := by
  have expel : s.expelTargets core [l] = s.mapCoreOf core (Core.dropSectors (fun k => [l].any (fun l => decide (l.pa / 64 = k)))) :=
    l1Expel_clean core _ s fun e he => by simpa using (clean e he).symm
  set u := s.mapCoreOf core (Core.dropSectors (fun k => [l].any (fun l => decide (l.pa / 64 = k)))) with left
  have dram : u.dram = s.dram := dram_mapCoreOf _ _ s
  have unpoisoned : l.pa / 64 ∉ u.poison := by rw [left, poison_mapCoreOf]; exact sound
  obtain ⟨t, resident, log, stored, performs⟩ := performAtHome_near near unpoisoned fn n {}
  rw [dram] at stored performs
  refine ⟨t, ((s.lanesTime core [l] + 1) / 2 + 2) * acTicks, resident.trans (resident_mapCoreOf _ _ s),
    log.trans (graftLog_mapCoreOf _ _ s), stored, ?_⟩
  unfold State.performAtomic
  rw [expel, poisonedLanes_near near unpoisoned]
  dsimp only
  rw [if_pos rfl, List.foldl_cons, List.foldl_nil, performs]
  rfl

theorem exec_atomicPerform {s : State} (block : s.me.block = s.blk.id) {fn n : Nat} {ls : List AtomLane}
    (flight : s.me.flight = some (.atomic fn n ls)) : exec (.atomicPerform s.me.id) s =
      stepOf (fun _ => s.overLinks s.blk.core true (ls.map (·.pa)) (.atomicPerform s.me.id) (State.performAtomic s.me.id s.blk.core fn n ls)) s := by
  change execAtomicPerform s.me.id s = _
  unfold execAtomicPerform stepOf
  dsimp only
  rw [State.strand?_me s _ rfl]
  dsimp only
  rw [flight]
  dsimp only
  rw [State.block?_blk s _ block.symm]
  rfl

theorem atomic_perform {s : State} (log : s.graftLog = []) (focused : Focused s) (block : s.me.block = s.blk.id) (fn n : Nat) (l : AtomLane)
    (flight : s.me.flight = some (.atomic fn n [l])) (size : n = 4 ∨ n = 8) (near : nearBase ≤ l.pa) (sound : l.pa / 64 ∉ s.poison)
    (sorted : DramSorted s) (free : s.heldBack s.blk.core [l.pa] = false) (clean : ∀ e ∈ s.core.dirty, e.1 / 64 ≠ l.pa / 64) :
    Happens (.atomicPerform s.me.id) s (fun t =>
      t.me = { s.me with flight := some (.performed [(l.lane, bytesAt (Memory.get s.dram) l.pa n)] [] []) } ∧
      (∀ j < n, Memory.get t.dram (l.pa + j) = (l.newBytes fn n (bytesAt (Memory.get s.dram) l.pa n))[j]?.getD 0) ∧
      (∀ x, x < l.pa ∨ l.pa + n ≤ x → Memory.get t.dram x = Memory.get s.dram x) ∧
      ∃ d, { at_ := s.now + d, ev := .atomicReply s.me.id } ∈ t.agenda) := by
  have crossed := untranslated_crossLinks s.blk.core true [l.pa] s
  set u := s.crossLinks s.blk.core true [l.pa] with cross
  have core : u.coreOf s.blk.core = s.core :=
    (coreOf_congr (core_of_untranslated crossed) (cores_of_untranslated crossed) _).trans (coreOf_focus focused)
  obtain ⟨t, d, resident, log', stored, effect⟩ := performAtomic_near s.me.id s.blk.core fn n l u near
    (by rw [poison_of_untranslated crossed]; exact sound) (by rw [core]; exact clean)
  rw [dram_of_untranslated crossed] at stored effect
  have resident' : t.resident = s.resident := resident.trans (resident_crossLinks _ _ _ s)
  have bytes (x : Nat) := Memory.get_write_rising l.pa x (l.newBytes fn n (bytesAt (Memory.get s.dram) l.pa n)) sorted
  rw [newBytes_length fn n _ l size, ← stored] at bytes
  have me : t.me = s.me := State.me_of_resident resident'
  have now : t.now = s.now := congrArg (·.1) resident'
  refine happens_of_effect (exec_atomicPerform block flight) ((if_neg (by simp [free])).trans effect) ?_
    ⟨?_, fun j hj => ?_, fun x out => ?_, d, ?_⟩
  · exact log'.trans ((graftLog_of_untranslated crossed).trans log)
  · rw [State.due_me, mapStrand_me _ _ _ (by rw [me]), me]
    rfl
  · exact (bytes (l.pa + j)).trans (by rw [if_pos (by omega), Nat.add_sub_cancel_left])
  · exact (bytes x).trans (if_neg (by omega))
  · rw [← now]
    exact List.mem_append_right _ (List.mem_singleton.2 rfl)

/-! ### A packet of a peer (11 R202) -/

theorem mapCoreOf_focus (s : State) (core : Nat) (f : Core → Core) (here : s.core.id = core) : s.mapCoreOf core f = s.mapCore f := if_pos here

/-- 11 R202: a store that has arrived is performed in the window of the block in the focus, and is acknowledged. -/
theorem servePackets_store {s : State} (focused : Focused s) (p : PeerStore) (r : List PeerStore) (arrived : s.core.packets = p :: r)
    (store : p.act = 0) (mine : p.block = s.blk.id) : s.servePackets s.blk.core =
      ((s.mapCore (fun c => { c with packets := r })).mapBlk (Block.writeWindow p.off p.bytes)).due (20 * acTicks)
        (.storeAcknowledge p.strand) := by
  unfold State.servePackets
  rw [coreOf_focus focused, arrived]
  dsimp only
  rw [if_neg (by simp [store]), mapCoreOf_focus s _ _ focused.core, State.performPacket, if_pos store,
    mapBlock_focus (s.mapCore _) p.block _ mine.symm (fun b hb => mine ▸ focused.block b hb)]

theorem peer_local_access {s : State} (log : s.graftLog = []) (focused : Focused s) (p : PeerStore) (r : List PeerStore)
    (arrived : s.core.packets = p :: r) (store : p.act = 0) (mine : p.block = s.blk.id) (sorted : (s.blk.window.map Prod.fst).Pairwise (· < ·)) :
    Happens (.peerLocalAccess s.blk.core) s (fun t => t.core = { s.core with packets := r } ∧
      (∀ x, Memory.get t.blk.window x = if p.off ≤ x ∧ x < p.off + p.bytes.length then p.bytes[x - p.off]?.getD 0 else Memory.get s.blk.window x) ∧
      t.agenda = s.agenda ++ [{ at_ := s.now + 20 * acTicks, ev := .storeAcknowledge p.strand }] ∧ t.me = s.me) :=
  happens_of_effect (f := fun s' => s'.servePackets s.blk.core) rfl (servePackets_store focused p r arrived store mine) log
    ⟨rfl, fun x => Memory.get_write_rising p.off x p.bytes sorted, rfl, rfl⟩

theorem saysReplyEvents : SaysReplyEvents := by
  intro s k log focused
  refine ⟨fun t vals d p found flight => exec_replies log found flight, ?_, ?_, exec_storeAcknowledge log, ?_⟩
  · rintro u n use free na rfl block flight cooked pos _ held none sound
    exact memory_reply log focused block u n use free na flight cooked pos held none sound
  · rintro fn n l rfl flight size _ near sound sorted block free clean
    exact atomic_perform log focused block fn n l flight size near sound sorted free clean
  · rintro p r rfl arrived store mine _ sorted
    exact peer_local_access log focused p r arrived store mine sorted

/-- Settles O39: each home event by what a request changes of its line, each reply by what it brings to its strand. -/
theorem homeEvents : Obligations.HomeEvents := ⟨saysHomeRequests, saysReplyEvents⟩

end Sys2Proof.Machine

namespace Sys2Proof.Machine

/-! ## How a word of scalar operands ends (01 R14, R33; 02 R52) -/

section
variable (f : Form) (eff : State → Result) (s : State) (h : Ready s) (a : Allowed f s) (scalar : f.vector = false)
include h a scalar

/-- A word whose effect is done leads to any state that the effect's equals but for clocks. -/
theorem issue_done_leads {t e : State} (hint : f.hint = false) (lanes : f.use.vr = []) (he : eff (begun f s) = .done t)
    (same : t.timeless = e.timeless) (log : e.graftLog = []) (free : e.me.stepping = false) (whole : e.me.corrupt = []) :
    Leads (issue f eff s) (e.wordDone (s.me.pc + 4)) := by
  have log' : t.graftLog = [] := show t.timeless.graftLog = [] by rw [same]; exact log
  have free' : t.me.stepping = false := show t.timeless.me.stepping = false by rw [same]; exact free
  have whole' : t.me.corrupt = [] := show t.timeless.me.corrupt = [] by rw [same]; exact whole
  refine (leads_done f eff s t h a hint (.inl scalar) he log' free' whole').congr ?_
  rw [popChans_nil _ _ (by simp [Use.readChans, lanes])]
  exact wordDone_congr _ same

theorem issue_trap_eq {t : State} {x : Trap} (he : eff (begun f s) = .trap x t) (log : t.graftLog = []) :
    issue f eff s = .next (t.takeTrap x) := by
  rw [issue_scalar f eff s h a scalar, he]
  simp only [finish]
  rw [State.writeGraftLog_nil _ (by rw [State.takeTrap_graftLog, log])]

/-- 02 R52: a word that traps before it has changed anything; the ports among its sources have been popped (01 R14). -/
theorem issue_traps_popped {c : Cause} {tval taddr : W64}
    (he : eff (begun f s) = .trap ((begun f s).trapAll c tval taddr) (begun f s)) :
    ∃ q : State, q.timeless = (s.popped f.use.sr).timeless ∧
      issue f eff s = .next (q.takeTrap { cause := c, tval := tval, lanes := s.me.visible, taddr := taddr }) := by
  refine ⟨begun f s, begun_timeless f s, ?_⟩
  rw [issue_trap_eq f eff s h a scalar he (by rw [begun_graftLog, h.noLog]), trapAll_begun]

/-- A word that issues and then waits in its effect (21 R342). -/
theorem issue_waits {r : Nat} (he : eff (begun f s) = .stall r (begun f s)) : Waits r (issue f eff s) s := by
  refine ⟨_, issue_scalar f eff s h a scalar, ?_⟩
  rw [he]
  simp only [finish]
  rw [State.writeGraftLog_nil _ (by simp [State.waits, h.noLog])]
  simp [State.waits, begun_me, h.running]

end

theorem State.mapBlk_congr {f g : Block → Block} {s : State} (h : f s.blk = g s.blk) : s.mapBlk f = s.mapBlk g := by
  simp only [State.mapBlk, h]

theorem timeless_mapBlk_begun (g : Block → Block) (f : Form) (s : State) :
    ((begun f s).mapBlk g).timeless = ((s.popped f.use.sr).mapBlk g).timeless := by
  rw [State.timeless_mapBlk, begun_timeless, ← State.timeless_mapBlk]

theorem updAt_eq_set {α : Type} (l : List α) (n : Nat) (f : α → α) (x : α) (here : l[n]? = some x) : updAt l n f = l.set n (f x) := by
  apply List.ext_getElem?
  intro j
  rw [getElem?_updAt, List.getElem?_set]
  by_cases e : j = n
  · subst e
    obtain ⟨lt, rfl⟩ := List.getElem?_eq_some_iff.mp here
    simp [lt]
  · simp [e, Ne.symm e]

/-! ## Channel words (07 R137, 09 R194) -/

section
variable {k : Channel → State → Result} {f : Form} {s : State} {c : BitVec 6}

theorem onChannel_held {ch : Channel} (held : s.blk.channels[c.toNat]? = some ch) : onChannel c k (begun f s) = k ch (begun f s) := by
  simp only [onChannel, begun_blk, held]

theorem onChannel_beyond (beyond : s.blk.channels.length ≤ c.toNat) :
    onChannel c k (begun f s) = .trap ((begun f s).trapAll .channel (c.setWidth 64) 0) (begun f s) := by
  simp only [onChannel, begun_blk, List.getElem?_eq_none beyond]

end

theorem endTaken_iff (slot : Nat) (e : Option Nat) (closed : Bool) : endTaken slot e closed = true ↔ ¬ (closed = true ∨ e = none ∨ e = some slot) := by
  cases e <;> simp [endTaken]

theorem slot_begun (f : Form) (s : State) : (begun f s).me.slot = s.me.slot := by rw [begun_me]

def chbindForm (c r : BitVec 6) : Form := { word := assemble 0xDC000000 [(c.toNat, 16), (r.toNat, 10)], use := { sr := [r] } }

/-- 09 R194: an end that another slot holds is not bound. -/
def bindUnless (c : BitVec 6) (taken : Bool) (g : Channel → Channel) (s : State) : Result :=
  if taken then .trap (s.trapAll .channel (c.setWidth 64) 0) s else .done (s.mapBlk (fun b => updChan b c.toNat g))

def Channel.readBy (slot : Nat) (ch : Channel) : Channel := { ch with reader := some slot, readerClosed := false }
def Channel.writtenBy (slot : Nat) (ch : Channel) : Channel := { ch with writer := some slot, writerClosed := false }

/-- 09 R194: what `chbind` does once its channel is known. -/
def bindEnd (c r : BitVec 6) (ch : Channel) (s : State) : Result :=
  if slice (s.sreg r) 63 1 ≠ 0 then .trap (s.trapAll .illegal ((chbindForm c r).word.setWidth 64) 0) s
  else if bit (s.sreg r) 0 then bindUnless c (endTaken s.me.slot ch.writer ch.writerClosed) (Channel.writtenBy s.me.slot) s
  else bindUnless c (endTaken s.me.slot ch.reader ch.readerClosed) (Channel.readBy s.me.slot) s

theorem exec_chbind (c r : BitVec 6) (s : State) : exec (.chbind c r) s = issue (chbindForm c r) (onChannel c (bindEnd c r)) s := rfl

theorem allowed_srcs (w : W32) (rs : List (BitVec 6)) (s : State) (srcs : ∀ r ∈ rs, SrcOk s r) : Allowed { word := w, use := { sr := rs } } s :=
  allowed_scalar _ s rfl (fun _ => rfl) (Nat.zero_le _) rfl srcs (by simp) (by simp) (by simp) rfl rfl (by simp)

theorem exec_chclose (c : BitVec 6) (s : State) : exec (.chclose c) s =
    issue (plainForm (assemble 0xDC400000 [(c.toNat, 16)])) (onChannel c (fun _ s => .done (s.mapBlk (fun b => updChan b c.toNat (fun ch =>
      { ch with
        reader := if ch.reader = some s.me.slot then none else ch.reader,
        readerClosed := ch.readerClosed || decide (ch.reader = some s.me.slot),
        writer := if ch.writer = some s.me.slot then none else ch.writer,
        writerClosed := ch.writerClosed || decide (ch.writer = some s.me.slot) }))))) s := rfl

def chlenForm (c d : BitVec 6) : Form :=
  { word := assemble 0xDC800000 [(c.toNat, 16), (d.toNat, 10)], use := { sw := [d] }, lat := 4, fixed := false }

theorem exec_chlen (c d : BitVec 6) (s : State) : exec (.chlen c d) s =
    issue (chlenForm c d) (onChannel c (fun ch s => .done (s.setS d (BitVec.ofNat 64 ch.entries.length)))) s := rfl

theorem allowed_dst (f : Form) (d : BitVec 6) (s : State) (hd : DstOk d) (hok : f.ok = true) (hprot : f.okProt = true) (hl : f.level = 0)
    (hu : f.units = true) (huse : f.use = { sw := [d] }) : Allowed f s :=
  allowed_scalar f s hok (fun _ => hprot) (by omega) hu (by simp [huse]) (by simpa [huse] using hd) (by simp [huse]) (by simp [huse])
    (by simp [huse]) (by simp [huse]) (by simp [huse])

/-- A channel changed by what a word does to it. -/
theorem updChan_eq_set (b : Block) (n : Nat) (g : Channel → Channel) (ch : Channel) (held : b.channels[n]? = some ch) :
    updChan b n g = { b with channels := b.channels.set n (g ch) } := by
  rw [updChan, updAt_eq_set _ _ _ ch held]

section
variable (c r : BitVec 6) (s : State) (h : Ready s) (source : SrcOk s r)

theorem allowed_chbind (source : SrcOk s r) : Allowed (chbindForm c r) s := allowed_srcs _ [r] s (by simpa using source)

/-- The value that names the end, as the word reads it. -/
theorem bindEnd_begun (source : SrcOk s r) (ch : Channel) : bindEnd c r ch (begun (chbindForm c r) s) =
    if 2 ≤ (src s r).toNat then
      .trap ((begun (chbindForm c r) s).trapAll .illegal ((chbindForm c r).word.setWidth 64) 0) (begun (chbindForm c r) s)
    else if src s r = 1 then
      bindUnless c (endTaken s.me.slot ch.writer ch.writerClosed) (Channel.writtenBy s.me.slot) (begun (chbindForm c r) s)
    else bindUnless c (endTaken s.me.slot ch.reader ch.readerClosed) (Channel.readBy s.me.slot) (begun (chbindForm c r) s) := by
  have reads : (begun (chbindForm c r) s).sreg r = src s r := sreg_begun _ s r (by simp [chbindForm]) source
  have high : slice (src s r) 63 1 ≠ 0 ↔ 2 ≤ (src s r).toNat := by
    simp only [slice]
    omega
  have one (low : ¬ 2 ≤ (src s r).toNat) : bit (src s r) 0 = true ↔ src s r = 1 := by
    rw [bit_eq, BitVec.getLsbD, Nat.testBit_zero, decide_eq_true_iff, ← BitVec.toNat_inj, show (1 : W64).toNat = 1 from rfl]
    omega
  unfold bindEnd
  simp only [reads, slot_begun, high]
  split
  · rfl
  next low => simp only [one low]

include h source

/-- An end is bound, or held by another slot. -/
theorem chbind_end {ch : Channel} (held : s.blk.channels[c.toNat]? = some ch) (taken : Bool) (g : Channel → Channel)
    (he : bindEnd c r ch (begun (chbindForm c r) s) = bindUnless c taken g (begun (chbindForm c r) s)) :
    (taken = false → Leads (exec (.chbind c r) s)
      (((s.popped [r]).mapBlk (fun b => { b with channels := b.channels.set c.toNat (g ch) })).wordDone (s.me.pc + 4))) ∧
    (taken = true → ∃ q : State, q.timeless = (s.popped [r]).timeless ∧
      exec (.chbind c r) s = .next (q.takeTrap { cause := .channel, tval := c.setWidth 64, lanes := s.me.visible, taddr := 0 })) := by
  constructor <;> rintro rfl
  · refine issue_done_leads (chbindForm c r) _ s h (allowed_chbind c r s source) rfl rfl rfl ((onChannel_held held).trans he) ?_ ?_ ?_ ?_
    · rw [timeless_mapBlk_begun]
      exact congrArg State.timeless (State.mapBlk_congr (updChan_eq_set _ _ _ ch (by simpa using held)))
    all_goals simp [h.noLog, h.free, h.whole]
  · exact issue_traps_popped (chbindForm c r) _ s h (allowed_chbind c r s source) rfl ((onChannel_held held).trans he)

end

/-- Settles O30: each channel word by the state of the channel that it names. -/
theorem channelWords : Obligations.ChannelWords := by
  intro c r d s h source dest x chan traps
  refine ⟨fun ch held => ?_, fun beyond => ⟨?_, ?_, ?_⟩⟩
  · intro free
    have value := bindEnd_begun c r s source ch
    have reader (zero : x = 0) := chbind_end c r s h source held _ _
      (value.trans ((if_neg (by rw [show src s r = 0 from zero]; decide)).trans (if_neg (by rw [show src s r = 0 from zero]; decide))))
    have writer (one : x = 1) := chbind_end c r s h source held _ _
      (value.trans ((if_neg (by rw [show src s r = 1 from one]; decide)).trans (if_pos one)))
    have freed {e : Option Nat} {closed : Bool} (open_ : free e closed) : endTaken s.me.slot e closed = false :=
      Bool.eq_false_iff.mpr (fun t => (endTaken_iff ..).mp t open_)
    refine ⟨fun zero open_ => (reader zero).1 (freed open_), fun one open_ => (writer one).1 (freed open_),
      fun zero taken => (reader zero).2 ((endTaken_iff ..).mpr taken), fun one taken => (writer one).2 ((endTaken_iff ..).mpr taken),
      fun high => ?_, ?_, ?_⟩
    · exact issue_traps_popped (chbindForm c r) _ s h (allowed_chbind c r s source) rfl ((onChannel_held held).trans (value.trans (if_pos high)))
    · refine issue_done_leads _ _ s h (allowed_plainForm _ s) rfl rfl rfl (onChannel_held held) ?_ ?_ ?_ ?_
      · rw [timeless_mapBlk_begun, popped_plain _ _ (by simp [plainForm])]
        refine congrArg State.timeless (State.mapBlk_congr ?_)
        rw [updChan_eq_set _ _ _ ch held]
        simp [slot_begun, beq_eq_decide]
      all_goals simp [chan, h.noLog, h.free, h.whole]
    · have a : Allowed (chlenForm c d) s := allowed_dst _ d s dest rfl rfl rfl rfl rfl
      refine issue_done_leads (chlenForm c d) _ s h a rfl rfl rfl ((onChannel_held held).trans rfl) ?_ ?_ ?_ ?_
      · rw [setS_plain _ _ _ dest, wrote_timeless, begun_bare_timeless _ _ rfl, ← wrote_timeless]
      · rw [wrote_graftLog, h.noLog]
      · rw [wrote_me_stepping, h.free]
      · rw [wrote_me_corrupt, h.whole]
  · exact issue_traps_popped (chbindForm c r) _ s h (allowed_chbind c r s source) rfl (onChannel_beyond beyond)
  · exact issue_traps_popped _ _ s h (allowed_plainForm _ s) rfl (onChannel_beyond beyond)
  · exact issue_traps_popped _ _ s h (allowed_dst (chlenForm c d) d s dest rfl rfl rfl rfl rfl) rfl (onChannel_beyond beyond)

end Sys2Proof.Machine

namespace Sys2Proof.Machine

/-! ## A barrier that is initialised in a window that is not in the canonical form (07 R141) -/

/-- The strand of `wUnsorted` with 256 in S[1]. -/
def wUnsortedCount : State := wUnsorted.mapMe (Strand.putS 1 256)

theorem ready_unsortedCount : Ready wUnsortedCount := ⟨rfl, rfl, rfl, rfl, by decide, by decide, rfl, rfl⟩

theorem focused_unsortedCount : Focused wUnsortedCount := ⟨by decide, by decide, by decide⟩

/-- `barinit` of 256 arrivals at address 0, whose lowest byte is 0, leaves the byte 7 there. -/
theorem unsorted_barinit_keeps : ∃ t, exec (.barinit 0 1) wUnsortedCount = .next t ∧ Memory.get t.blk.window 0 = 7 := ⟨_, rfl, rfl⟩

/-- Refutes O29: as for O18, nothing in the statement says that the window is in the canonical form (`Memory.wf`): `barinit` of 256 arrivals
at address 0 of the window [(5, 1), (0, 7)] leaves 7 at address 0, where the doubleword has the byte 0. -/
theorem not_barriers : ¬ Obligations.Barriers := by
  rintro ⟨words, -⟩
  obtain ⟨own, -⟩ := words 0 1 wUnsortedCount ready_unsortedCount focused_unsortedCount rfl (by decide) (.inl (by decide)) (.inl (by decide))
    (.inl (by decide))
  obtain ⟨inits, -⟩ := own (by decide)
  obtain ⟨w, bad, rounds, holds, -, leads⟩ := inits (by decide) (by decide)
  obtain ⟨t, runs, keeps⟩ := unsorted_barinit_keeps
  have window : t.blk.window = w := window_of_leads runs leads
  have zero := holds 0
  rw [← window, keeps] at zero
  exact absurd zero (by decide)

end Sys2Proof.Machine

namespace Sys2Proof.Machine

/-! ## Batches (07 R147, 09 R180) -/

theorem setEngine_eq (e : BitVec 2) (b : Batches) (s : State) : s.mapMe (Strand.setEngine e b) = withEngine e b s := rfl

@[simp] theorem setEngine_stepping (e : BitVec 2) (b : Batches) (t : Strand) : (t.setEngine e b).stepping = t.stepping := by
  unfold Strand.setEngine
  (repeat' split) <;> rfl

@[simp] theorem setEngine_corrupt (e : BitVec 2) (b : Batches) (t : Strand) : (t.setEngine e b).corrupt = t.corrupt := by
  unfold Strand.setEngine
  (repeat' split) <;> rfl

@[simp] theorem setEngine_wait (e : BitVec 2) (b : Batches) (t : Strand) : (t.setEngine e b).wait = t.wait := by
  unfold Strand.setEngine
  (repeat' split) <;> rfl

theorem setEngine_timeless (e : BitVec 2) (b : Batches) (t : Strand) : (t.setEngine e b).timeless = (t.timeless.setEngine e b).timeless := by
  unfold Strand.setEngine
  (repeat' split) <;> rfl

theorem engine_withEngine (e : BitVec 2) (b : Batches) (s : State) : (withEngine e b s).me.engine e = b := by
  simp only [withEngine, State.mapMe_me, Strand.engine]
  split
  · rfl
  split <;> rfl

theorem engine_begun (e : BitVec 2) (f : Form) (s : State) : (begun f s).me.engine e = engineOf e s.me := by rw [begun_me]; rfl

/-- Two strands' changes that differ in clocks alone, before and after the issue. -/
theorem timeless_mapMe_begun {F G : Strand → Strand} {f : Form} {s : State} (same : (F (begun f s).me).timeless = (G s.me).timeless) :
    ((begun f s).mapMe F).timeless = ((s.popped f.use.sr).mapMe G).timeless := by
  rw [begun_eq]
  simp only [State.mapMe, State.timeless, popped_me, same]

theorem timeless_wrote_congr (d : BitVec 6) (x : W64) {s t : State} (same : s.timeless = t.timeless) :
    (s.wrote d x).timeless = (t.wrote d x).timeless := by
  rw [wrote_timeless, same, ← wrote_timeless]

/-- A list that ends in one more member has a longer head of members with a property just when all have it. -/
theorem takeWhile_grows {α : Type} (p : α → Bool) (l : List α) (x : α) :
    (l.takeWhile p).length < ((l ++ [x]).takeWhile p).length ↔ (l ++ [x]).all p = true := by
  rw [List.takeWhile_append]
  by_cases all : (l.takeWhile p).length = l.length
  · have holds : l.all p = true := by
      rw [List.all_eq_true, ← List.takeWhile_eq_self_iff]
      exact (List.takeWhile_prefix p).eq_of_length all
    by_cases hx : p x = true <;> simp [all, hx, List.all_append, holds]
  · have fails : l.all p ≠ true := fun h => all (by rw [List.takeWhile_eq_self_iff.mpr (List.all_eq_true.mp h)])
    simp [all, fails, List.all_append]

/-- 03 R75: sealing completes a batch just when every batch is then complete. -/
theorem seal_completes (b : Batches) : decide (b.completed.length < b.close.completed.length) = (sealed b).batches.all Batch.over := by
  rw [Bool.eq_iff_iff, decide_eq_true_iff]
  exact takeWhile_grows _ b.batches _

/-- 03 R75: a wake event that finds the strand awake. -/
theorem wokenIf_awake (c : Bool) (t : Strand) (awake : t.wait = .none) : t.wokenIf c = { t with wake := t.wake || c } := by
  cases c
  · simp [Strand.wokenIf]
  · simp [Strand.wokenIf, Strand.woken, awake]

/-! ### The join of the complete batches (14 R253) -/

/-- The wider of the scope found so far and that of one more operation. -/
def widerJoin (m : Option (BitVec 3)) (o : BatchOp) : Option (BitVec 3) :=
  match m with
  | some c => if c.toNat < o.join.toNat then some o.join else some c
  | none => some o.join

theorem foldl_widerJoin_some (ops : List BatchOp) (c : BitVec 3) :
    ops.foldl widerJoin (some c) = some (BitVec.ofNat 3 ((ops.map (fun o => o.join.toNat)).foldl Nat.max c.toNat)) := by
  induction ops generalizing c with
  | nil => simp
  | cons o ops ih =>
    have step : widerJoin (some c) o = some (BitVec.ofNat 3 (max c.toNat o.join.toNat)) := by
      simp only [widerJoin]
      split
      next lt => rw [Nat.max_eq_right (Nat.le_of_lt lt), BitVec.ofNat_toNat, BitVec.setWidth_eq]
      next le => rw [Nat.max_eq_left (Nat.le_of_not_lt le), BitVec.ofNat_toNat, BitVec.setWidth_eq]
    have value : (BitVec.ofNat 3 (max c.toNat o.join.toNat)).toNat = max c.toNat o.join.toNat := by
      rw [BitVec.toNat_ofNat, Nat.mod_eq_of_lt (Nat.max_lt.mpr ⟨c.isLt, o.join.isLt⟩)]
    rw [List.foldl_cons, step, ih, value]
    rfl

theorem foldl_widerJoin_none (ops : List BatchOp) : ops.foldl widerJoin none =
    if ops.map (fun o => o.join.toNat) = [] then none
    else some (BitVec.ofNat 3 ((ops.map (fun o => o.join.toNat)).foldl Nat.max 0)) := by
  cases ops with
  | nil => rfl
  | cons o ops =>
    rw [List.foldl_cons, show widerJoin none o = some o.join from rfl, foldl_widerJoin_some]
    simp

/-- The operations of the complete batches that have not joined. -/
def joiningOps (b : Batches) : List BatchOp := ((completeOf b).filter (fun k => !k.joined)).flatMap (·.ops)

theorem joinScope_eq (b : Batches) : b.joinScope = (joiningOps b).foldl widerJoin none := by
  rw [joiningOps, List.foldl_flatMap]
  rfl

theorem markJoined_eq (b : Batches) : b.markJoined = { b with batches := b.batches.map (fun k => { k with joined := k.joined || k.over }) } := by
  have one (k : Batch) : (if k.ops.all (fun o => o.done) then { k with joined := true } else k) = { k with joined := k.joined || k.over } := by
    by_cases h : k.ops.all (fun o => o.done) = true <;> simp [Batch.over, h]
  simp only [Batches.markJoined, one]

/-- 14 R253: what the model does where it observes an engine is what the rule says. -/
theorem joinBatches_eq (e : BitVec 2) (s : State) : s.joinBatches e = observed e s := by
  have scopes : ((completeOf (engineOf e s.me)).filter (fun k => !k.joined)).flatMap (fun k => k.ops.map (fun o => o.join.toNat)) =
      (joiningOps (engineOf e s.me)).map (fun o => o.join.toNat) := by rw [joiningOps, List.map_flatMap]
  have scope : (s.me.engine e).joinScope = (joiningOps (engineOf e s.me)).foldl widerJoin none := joinScope_eq _
  unfold State.joinBatches observed
  simp only [scope, scopes, setEngine_eq, markJoined_eq, foldl_widerJoin_none]
  by_cases none : (joiningOps (engineOf e s.me)).map (fun o => o.join.toNat) = []
  · simp only [none, if_true]
    rfl
  · simp only [none, if_false]
    rfl

/-! ### The acquire of a strand (05 R121) -/

theorem refresh_me (c : BitVec 3) (s : State) : (s.refresh c).me = { s.me with fetch := [] } := by
  unfold State.refresh State.l1Refresh
  split
  · rw [State.mapMe_me, State.me_of_resident (resident_mapCoreOf _ _ s)]
  · rfl

theorem refresh_graftLog (c : BitVec 3) (s : State) : (s.refresh c).graftLog = s.graftLog := by
  unfold State.refresh State.l1Refresh
  split
  · rw [State.mapMe_graftLog, graftLog_mapCoreOf]
  · rfl

/-- An L1 after an acquire of cluster scope or wider. -/
def Core.refreshed (c : Core) : Core :=
  { c with valid := [], clean := [], corrupt := c.corrupt.filter (fun k => c.holdsDirty k), records := [] }

theorem refresh_focus (c : BitVec 3) (s : State) (focus : s.core.id = s.blk.core) : s.refresh c =
    (if wideScope c then s.mapCore Core.refreshed else s).mapMe (fun t => { t with fetch := [] }) := by
  unfold State.refresh State.l1Refresh
  rw [mapCoreOf_focus _ _ _ focus]
  rfl

theorem timeless_mapCore_refreshed (s : State) : (s.mapCore Core.refreshed).timeless = (s.timeless.mapCore Core.refreshed).timeless := by
  simp only [State.timeless, State.mapCore]
  simp [Function.comp_def, Core.refreshed, Core.timeless, Core.holdsDirty]
  rfl

/-- An acquire of two states that differ in clocks alone. -/
theorem timeless_refresh_congr (c : BitVec 3) {s t : State} (focus : t.core.id = t.blk.core) (same : s.timeless = t.timeless) :
    (s.refresh c).timeless = (t.refresh c).timeless := by
  have focus' : s.core.id = s.blk.core := show s.timeless.core.id = s.timeless.blk.core by rw [same]; exact focus
  rw [refresh_focus c s focus', refresh_focus c t focus]
  refine State.timeless_mapMe_congr (fun _ => rfl) ?_
  split
  · rw [timeless_mapCore_refreshed, same, ← timeless_mapCore_refreshed]
  · exact same

/-! ### Observing the complete batches (09 R180) -/

section
variable (e : BitVec 2) (s : State)

/-- What holds after the batches have joined, whether or not an operation among them makes the strand acquire. -/
theorem observed_cases (P : State → Prop) (joined : P (withEngine e (engineOf e s.me).markJoined s))
    (acquired : ∀ c, P ((withEngine e (engineOf e s.me).markJoined s).refresh c)) : P (observed e s) := by
  rw [markJoined_eq] at joined acquired
  unfold observed
  dsimp only
  split
  · exact joined
  · exact acquired _

theorem observed_engine : (observed e s).me.engine e = (engineOf e s.me).markJoined :=
  observed_cases e s (fun u => u.me.engine e = _) (engine_withEngine e _ s) fun c => by
    rw [refresh_me]
    exact engine_withEngine e _ s

theorem observed_graftLog : (observed e s).graftLog = s.graftLog :=
  observed_cases e s (fun u => u.graftLog = _) rfl fun c => refresh_graftLog c _

theorem observed_stepping : (observed e s).me.stepping = s.me.stepping :=
  observed_cases e s (fun u => u.me.stepping = _) (setEngine_stepping ..) fun c => by
    rw [refresh_me]
    exact setEngine_stepping ..

theorem observed_corrupt : (observed e s).me.corrupt = s.me.corrupt :=
  observed_cases e s (fun u => u.me.corrupt = _) (setEngine_corrupt ..) fun c => by
    rw [refresh_me]
    exact setEngine_corrupt ..

theorem timeless_withEngine_congr (b : Batches) {s t : State} (same : s.timeless = t.timeless) :
    (withEngine e b s).timeless = (withEngine e b t).timeless := State.timeless_mapMe_congr (setEngine_timeless e b) same

theorem observed_begun (f : Form) (sources : f.use.sr = []) (focus : s.core.id = s.blk.core) :
    (observed e (begun f s)).timeless = (observed e s).timeless := by
  have same (b : Batches) := timeless_withEngine_congr e b (begun_bare_timeless f s sources)
  have engine : engineOf e (begun f s).me = engineOf e s.me := engine_begun e f s
  unfold observed
  simp only [engine]
  split
  · exact same _
  · exact timeless_refresh_congr _ focus (same _)

end

theorem completed_markJoined (b : Batches) :
    b.markJoined.completed = (completeOf b).map (fun k => { k with joined := k.joined || k.over }) := by
  rw [markJoined_eq, Batches.completed, List.takeWhile_map]
  rfl

/-- The batch whose fault an observation reports. -/
theorem report_markJoined (b : Batches) : b.markJoined.report? =
    ((completeOf b).filterMap (fun k => if k.reported then none else (firstFault k).map (fun f => (k.num, f)))).head? := by
  rw [Batches.report?, completed_markJoined, List.filterMap_map]
  rfl

theorem report_none (b : Batches) (quiet : ∀ k ∈ completeOf b, k.reported = true ∨ firstFault k = none) : b.markJoined.report? = none := by
  have none' : (completeOf b).filterMap (fun k => if k.reported then none else (firstFault k).map (fun f => (k.num, f))) = [] := by
    rw [List.filterMap_eq_nil_iff]
    intro k hk
    rcases quiet k hk with told | sound
    · rw [if_pos told]
    · simp [sound]
  rw [report_markJoined, none']
  rfl

theorem report_some (b : Batches) (l r : List Batch) (k : Batch) (f : BatchFault) (split : completeOf b = l ++ k :: r)
    (quiet : ∀ j ∈ l, j.reported = true ∨ firstFault j = none) (fresh : k.reported = false) (fault : firstFault k = some f) :
    b.markJoined.report? = some (k.num, f) := by
  have none' : l.filterMap (fun k => if k.reported then none else (firstFault k).map (fun f => (k.num, f))) = [] := by
    rw [List.filterMap_eq_nil_iff]
    intro k hk
    rcases quiet k hk with told | sound
    · rw [if_pos told]
    · simp [sound]
  rw [report_markJoined, split, List.filterMap_append, none']
  simp [fresh, fault]

theorem highest_markJoined (b : Batches) : (b.markJoined.completed.getLast?).map (·.num) = ((completeOf b).getLast?).map (·.num) := by
  rw [completed_markJoined, List.getLast?_map, Option.map_map]
  rfl

section
variable (f : Form) (eff : State → Result) (s : State) (h : Ready s) (a : Allowed f s) (scalar : f.vector = false)
  {e : BitVec 2} {k : State → Result} (observes : eff (begun f s) = observe e k (begun f s))
include h a scalar observes

/-- 09 R180: an observation that finds no fault goes on. -/
theorem observe_quiet {t E : State} (hint : f.hint = false) (lanes : f.use.vr = [])
    (quiet : ∀ k ∈ completeOf (engineOf e s.me), k.reported = true ∨ firstFault k = none) (done : k (observed e (begun f s)) = .done t)
    (same : t.timeless = E.timeless) (log : E.graftLog = []) (free : E.me.stepping = false) (whole : E.me.corrupt = []) :
    Leads (issue f eff s) (E.wordDone (s.me.pc + 4)) := by
  refine issue_done_leads f eff s h a scalar hint lanes ?_ same log free whole
  have engine : engineOf e (begun f s).me = engineOf e s.me := engine_begun e f s
  simp only [observes, observe, joinBatches_eq, observed_engine, engine, report_none _ quiet]
  exact done

/-- 09 R180: an observation that finds a fault reports it once. -/
theorem observe_faulty (sources : f.use.sr = []) (focus : s.core.id = s.blk.core) (l r : List Batch) (j : Batch) (x : BatchFault)
    (split : completeOf (engineOf e s.me) = l ++ j :: r)
    (quiet : ∀ i ∈ l, i.reported = true ∨ firstFault i = none) (fresh : j.reported = false) (fault : firstFault j = some x) :
    ∃ q : State, q.timeless = (withEngine e { engineOf e (observed e s).me with batches := (engineOf e (observed e s).me).batches.map (fun i =>
        if i.num = j.num then { i with reported := true } else i) } (observed e s)).timeless ∧
      issue f eff s = .next (q.takeTrap { cause := x.cause, tval := x.tval, lanes := s.me.visible, taddr := x.taddr }) := by
  have engine : engineOf e (begun f s).me = engineOf e s.me := engine_begun e f s
  have marked : (engineOf e s.me).markJoined.markReported j.num = { engineOf e (observed e s).me with
      batches := (engineOf e (observed e s).me).batches.map (fun i => if i.num = j.num then { i with reported := true } else i) } := by
    rw [show engineOf e (observed e s).me = _ from observed_engine e s]
    simp only [Batches.markReported, updIf, beq_iff_eq]
  refine ⟨withEngine e ((engineOf e s.me).markJoined.markReported j.num) (observed e (begun f s)), ?_, ?_⟩
  · rw [marked]
    exact timeless_withEngine_congr e _ (observed_begun e s f sources focus)
  · refine (issue_trap_eq f eff s h a scalar (x := (begun f s).trapAll x.cause x.tval x.taddr) ?_ ?_).trans (by rw [trapAll_begun])
    · simp only [observes, observe, joinBatches_eq, observed_engine, engine, report_some _ l r j x split quiet fresh fault]
      rfl
    · rw [withEngine, State.mapMe_graftLog, observed_graftLog, begun_graftLog, h.noLog]

end

/-! ### The words -/

def sealForm (d : BitVec 6) (e : BitVec 2) : Form :=
  { word := assemble 0xC8000000 [(d.toNat, 16), (e.toNat, 14)], ok := decide (e.toNat ≤ 2), use := { sw := [d] }, lat := 4, fixed := false }

/-- 07 R147, 03 R75: the unsealed operations become a batch, which may complete at once. -/
def Strand.sealEngine (e : BitVec 2) (t : Strand) : Strand :=
  (t.setEngine e (t.engine e).close).wokenIf (decide ((t.engine e).completed.length < (t.engine e).close.completed.length))

def sealOps (d : BitVec 6) (e : BitVec 2) (s : State) : Result :=
  if 16 ≤ (s.me.engine e).close.openCount then .trap (s.trapAll .batch (e.setWidth 64) 0) s
  else .done ((s.mapMe (Strand.sealEngine e)).setS d (BitVec.ofNat 64 (s.me.engine e).close.last))

theorem exec_seal (d : BitVec 6) (e : BitVec 2) (s : State) : exec (.seal d e) s = issue (sealForm d e) (sealOps d e) s := rfl

def waitbForm (e : BitVec 2) (n : BitVec 4) : Form := { word := assemble 0xC8400000 [(e.toNat, 14), (n.toNat, 10)], ok := decide (e.toNat ≤ 2) }

def waitbOps (e : BitVec 2) (n : BitVec 4) (s : State) : Result :=
  if n.toNat < (s.me.engine e).openCount then .stall 10 s else observe e (fun s => .done s) s

theorem exec_waitb (e : BitVec 2) (n : BitVec 4) (s : State) : exec (.waitb e n) s = issue (waitbForm e n) (waitbOps e n) s := rfl

/-- `waitb` observes once no more batches stand open than it allows. -/
theorem waitb_observes (e : BitVec 2) (n : BitVec 4) (f : Form) (s : State) (few : openBatches (engineOf e s.me) ≤ n.toNat) :
    waitbOps e n (begun f s) = observe e (fun s => .done s) (begun f s) := by
  unfold waitbOps
  rw [engine_begun]
  exact if_neg (Nat.not_lt.mpr few)

def testbForm (d : BitVec 6) (e : BitVec 2) : Form :=
  { word := assemble 0xC8800000 [(d.toNat, 16), (e.toNat, 14)], ok := decide (e.toNat ≤ 2), use := { sw := [d] }, lat := 4, fixed := false }

theorem exec_testb (d : BitVec 6) (e : BitVec 2) (s : State) : exec (.testb d e) s = issue (testbForm d e)
    (observe e (fun s => .done (s.setS d (BitVec.ofNat 64 (((s.me.engine e).completed.getLast?.map (·.num)).getD 0))))) s := rfl

/-- What `seal` does to a strand that is awake. -/
theorem sealEngine_awake (e : BitVec 2) (t : Strand) (awake : t.wait = .none) : t.sealEngine e =
    { t.setEngine e (sealed (engineOf e t)) with wake := (t.setEngine e (sealed (engineOf e t))).wake || (sealed (engineOf e t)).batches.all Batch.over } := by
  unfold Strand.sealEngine
  rw [seal_completes, wokenIf_awake _ _ (by rw [setEngine_wait, awake])]
  rfl

section
variable (d : BitVec 6) (e : BitVec 2) (n : BitVec 4) (s : State) (engine : e.toNat ≤ 2) (dest : DstOk d)

theorem allowed_waitb (engine : e.toNat ≤ 2) : Allowed (waitbForm e n) s := allowed_bare _ s (by simpa [waitbForm] using engine) rfl rfl rfl rfl

include engine dest

theorem allowed_seal : Allowed (sealForm d e) s := allowed_dst _ d s dest (by simpa [sealForm] using engine) rfl rfl rfl rfl

theorem allowed_testb : Allowed (testbForm d e) s := allowed_dst _ d s dest (by simpa [testbForm] using engine) rfl rfl rfl rfl

variable (h : Ready s)
include h

theorem seal_leads (awake : s.me.wait = .none) (room : openBatches (sealed (engineOf e s.me)) < 16) :
    Leads (exec (.seal d e) s) ((((withEngine e (sealed (engineOf e s.me)) s).mapMe (fun t =>
      { t with wake := t.wake || (sealed (engineOf e s.me)).batches.all Batch.over })).wrote d
        (BitVec.ofNat 64 ((engineOf e s.me).last + 1))).wordDone (s.me.pc + 4)) := by
  have effect : sealOps d e (begun (sealForm d e) s) =
      .done (((begun (sealForm d e) s).mapMe (Strand.sealEngine e)).wrote d (BitVec.ofNat 64 ((engineOf e s.me).last + 1))) := by
    unfold sealOps
    rw [engine_begun, setS_plain _ _ _ dest]
    exact if_neg (Nat.not_le.mpr room)
  refine issue_done_leads (sealForm d e) (sealOps d e) s h (allowed_seal d e s engine dest) rfl rfl rfl effect (timeless_wrote_congr d _ ?_) ?_ ?_ ?_
  · rw [withEngine, State.mapMe_mapMe]
    refine (timeless_mapMe_begun (f := sealForm d e) ?_).trans (congrArg State.timeless (congrArg _ (popped_plain _ s (by simp [sealForm]))))
    rw [sealEngine_awake e _ (by rw [begun_me, awake]), begun_me]
    simp only [Strand.setEngine]
    (repeat' split) <;> rfl
  · simp [wrote_graftLog, withEngine, h.noLog]
  · rw [wrote_me_stepping]; exact (setEngine_stepping ..).trans h.free
  · rw [wrote_me_corrupt]; exact (setEngine_corrupt ..).trans h.whole

theorem seal_full (full : 16 ≤ openBatches (sealed (engineOf e s.me))) : ∃ q : State, q.timeless = s.timeless ∧
    exec (.seal d e) s = .next (q.takeTrap { cause := .batch, tval := e.setWidth 64, lanes := s.me.visible, taddr := 0 }) := by
  refine issue_traps (sealForm d e) (sealOps d e) s _ h (allowed_seal d e s engine dest) rfl rfl ?_
  unfold sealOps
  rw [engine_begun, trapAll_begun]
  exact if_pos full

theorem testb_leads (focus : s.core.id = s.blk.core) (quiet : ∀ k ∈ completeOf (engineOf e s.me), k.reported = true ∨ firstFault k = none) :
    Leads (exec (.testb d e) s) (((observed e s).wrote d
      (BitVec.ofNat 64 (((completeOf (engineOf e s.me)).getLast?.map (·.num)).getD 0))).wordDone (s.me.pc + 4)) := by
  have engine' : engineOf e (begun (testbForm d e) s).me = engineOf e s.me := engine_begun e _ s
  refine observe_quiet (testbForm d e) _ s h (allowed_testb d e s engine dest) rfl rfl rfl rfl quiet
    (congrArg Result.done (setS_plain _ _ _ dest)) ?_ ?_ ?_ ?_
  · rw [observed_engine, engine', highest_markJoined]
    exact timeless_wrote_congr d _ (observed_begun e s _ rfl focus)
  · rw [wrote_graftLog, observed_graftLog, h.noLog]
  · rw [wrote_me_stepping, observed_stepping, h.free]
  · rw [wrote_me_corrupt, observed_corrupt, h.whole]

omit dest

theorem waitb_waits (many : n.toNat < openBatches (engineOf e s.me)) : Waits 10 (exec (.waitb e n) s) s := by
  refine issue_waits (waitbForm e n) (waitbOps e n) s h (allowed_waitb e n s engine) rfl ?_
  unfold waitbOps
  rw [engine_begun]
  exact if_pos many

theorem waitb_leads (few : openBatches (engineOf e s.me) ≤ n.toNat) (focus : s.core.id = s.blk.core)
    (quiet : ∀ k ∈ completeOf (engineOf e s.me), k.reported = true ∨ firstFault k = none) :
    Leads (exec (.waitb e n) s) ((observed e s).wordDone (s.me.pc + 4)) :=
  observe_quiet (waitbForm e n) (waitbOps e n) s h (allowed_waitb e n s engine) rfl (waitb_observes e n _ s few) rfl rfl quiet rfl
    (observed_begun e s _ rfl focus) (by rw [observed_graftLog, h.noLog]) (by rw [observed_stepping, h.free]) (by rw [observed_corrupt, h.whole])

end

/-- Settles O27: `seal` by what it makes of the batches, `waitb` and `testb` by what observing the complete batches finds. -/
theorem batchWords : Obligations.BatchWords := by
  intro d e n s h focused awake engine dest b c
  refine ⟨⟨seal_leads d e s engine dest h awake, seal_full d e s engine dest h⟩, waitb_waits e n s engine h, ?_⟩
  intro i hi allows
  rcases List.mem_pair.mp hi with rfl | rfl
  · refine ⟨fun quiet => ?_, fun l r k f split quiet fresh fault => ?_⟩
    · rw [if_neg (by simp)]
      exact waitb_leads e n s engine h (allows rfl) focused.core quiet
    · exact observe_faulty (waitbForm e n) (waitbOps e n) s h (allowed_waitb e n s engine) rfl (waitb_observes e n _ s (allows rfl)) rfl
        focused.core l r k f split quiet fresh fault
  · refine ⟨fun quiet => ?_, fun l r k f split quiet fresh fault => ?_⟩
    · rw [if_pos rfl]
      exact testb_leads d e s engine dest h focused.core quiet
    · exact observe_faulty (testbForm d e) _ s h (allowed_testb d e s engine dest) rfl rfl rfl focused.core l r k f split quiet fresh fault

end Sys2Proof.Machine

namespace Sys2Proof.Machine

/-! ## What the issue of a word leaves alone (01 R14)

A word's pops change the queues of its virtual device and of the package, and may make a held fault record due. -/

/-- A state without its queue ports and what is due. -/
def State.unported (s : State) : State := { s with vds := [], stage2 := [], pkgFaults := [], agenda := [] }

theorem unported_portPop (p : Nat) (s : State) : (s.portPop p).unported = s.unported := by
  unfold State.portPop State.dueOnce
  dsimp only
  (repeat' split) <;> rfl

theorem unported_popped (rs : List (BitVec 6)) (s : State) : (s.popped rs).unported = s.unported :=
  foldl_keeps State.unported (fun s p => s.portPop p) (fun s p => unported_portPop p s) _ s

section
variable (f : Form) (s : State)

theorem unported_begun : (begun f s).unported = { s with me := (begun f s).me }.unported := by
  rw [begun_eq]
  show ({ (s.popped f.use.sr).unported with me := _ } : State) = _
  rw [unported_popped]
  rfl

@[simp] theorem begun_copies : (begun f s).copies = s.copies := (congrArg State.copies (unported_begun f s) :)
@[simp] theorem begun_mxops : (begun f s).mxops = s.mxops := (congrArg State.mxops (unported_begun f s) :)
@[simp] theorem begun_sows : (begun f s).sows = s.sows := (congrArg State.sows (unported_begun f s) :)
@[simp] theorem begun_nextId : (begun f s).nextId = s.nextId := (congrArg State.nextId (unported_begun f s) :)
@[simp] theorem begun_dies : (begun f s).dies = s.dies := (congrArg State.dies (unported_begun f s) :)
@[simp] theorem begun_tlb : (begun f s).tlb = s.tlb := (congrArg State.tlb (unported_begun f s) :)

end

/-! ## Addresses of the own window (01 R20, 07 R130; 05 R111) -/

/-- An address that names no peer's window is an offset in the own window, or nothing. -/
theorem localRef_noPeer (s : State) (ea : W64) (n : Nat) (peers : Bool) (own : noPeer ea) : s.localRef ea n peers =
    if ea.toNat < 0xC0000 ∧ ea.toNat + n ≤ s.blk.windowSize then some (.own ea.toNat) else none := by
  unfold State.localRef slice
  rcases own with near | far
  · have off : ea.toNat / 2 ^ 0 % 2 ^ (19 + 1 - 0) = ea.toNat := by omega
    have high : ea.toNat / 2 ^ 25 % 2 ^ (63 + 1 - 25) = 0 := by omega
    have dx : ea.toNat / 2 ^ 20 % 2 ^ (22 + 1 - 20) = 0 := by omega
    have dy : ea.toNat / 2 ^ 23 % 2 ^ (24 + 1 - 23) = 0 := by omega
    simp only [off, high, dx, dy]
    by_cases low : ea.toNat < 0xC0000
    · simp [low, signedOf]
    · simp [low, Nat.le_of_not_lt low]
  · have high : ea.toNat / 2 ^ 25 % 2 ^ (63 + 1 - 25) ≠ 0 := by
      have := ea.isLt
      omega
    have beyond : ¬ ea.toNat < 0xC0000 := by omega
    dsimp only
    rw [if_pos (.inl high), if_neg (fun fits => beyond fits.1)]

section
variable (s b : State) (same : b.blk = s.blk) (ea : W64) (n : Nat) (k : Nat → State → Result) (own : noPeer ea)
include same own

theorem ownLocal_passes (passes : localCause s n ea = none) : ownLocal ea n n k b = k ea.toNat b := by
  unfold localCause at passes
  unfold ownLocal
  split at passes
  · cases passes
  next aligned =>
    split at passes
    next fits => rw [if_neg aligned, localRef_noPeer _ _ _ _ own, same, if_pos fits]
    · cases passes

theorem ownLocal_traps {c : Cause} (fails : localCause s n ea = some c) : ownLocal ea n n k b = .trap (b.trapAll c 0 ea) b := by
  unfold localCause at fails
  unfold ownLocal
  split at fails
  next misaligned =>
    cases fails
    rw [if_pos misaligned]
  next aligned =>
    split at fails
    · cases fails
    next beyond =>
      cases fails
      rw [if_neg aligned, localRef_noPeer _ _ _ _ own, same, if_neg beyond]

end

/-! ## Trays (07 R138 to R140, 09 R190, R191) -/

/-- A field of the bytes that a word reads of its window (00 R6). -/
theorem recField_readWindow (s : State) (off len k n : Nat) (inside : k + n ≤ len) :
    recField (s.blk.readWindow off len) k n = windowField s (off + k) n := by
  have part : ((s.blk.readWindow off len).drop k).take n = (List.range n).map (fun j => Memory.get s.blk.window (off + k + j)) := by
    apply List.ext_getElem
    · simp [Block.readWindow]; omega
    intro i _ _
    simp [Block.readWindow, Memory.read_get, Nat.add_assoc]
  rw [recField, part, bytesNat_map_range]
  rfl

/-- The number beside the first test of a list that holds. -/
theorem find?_map_cons (b : Bool) (n : Nat) (l : List (Bool × Nat)) :
    (((b, n) :: l).find? (·.1)).map (·.2) = if b = true then some n else (l.find? (·.1)).map (·.2) := by
  cases b <;> rfl

theorem trayCheck_eq (s : State) (off : Nat) : trayCheck (s.blk.readWindow off 32) s.blk.windowSize = badDescriptor s off := by
  unfold trayCheck badDescriptor
  rw [recField_readWindow s off 32 0 4 (by omega), recField_readWindow s off 32 4 4 (by omega), recField_readWindow s off 32 8 1 (by omega),
    recField_readWindow s off 32 9 1 (by omega), recField_readWindow s off 32 10 2 (by omega), recField_readWindow s off 32 12 1 (by omega),
    recField_readWindow s off 32 13 1 (by omega)]
  simp only [find?_map_cons, Bool.and_eq_true, Bool.not_eq_true', decide_eq_true_eq]
  rfl

theorem ofDesc_eq (s : State) (off : Nat) (old : Tray) : Tray.ofDesc (s.blk.readWindow off 32) (old.gen + 1) old.unit = describedTray s off old := by
  unfold Tray.ofDesc describedTray
  rw [recField_readWindow s off 32 0 4 (by omega), recField_readWindow s off 32 4 4 (by omega), recField_readWindow s off 32 8 1 (by omega),
    recField_readWindow s off 32 9 1 (by omega), recField_readWindow s off 32 10 2 (by omega), recField_readWindow s off 32 12 1 (by omega),
    recField_readWindow s off 32 13 1 (by omega), recField_readWindow s off 32 14 2 (by omega), recField_readWindow s off 32 16 8 (by omega),
    recField_readWindow s off 32 24 4 (by omega), recField_readWindow s off 32 28 4 (by omega)]
  rfl

/-! ### What the words change -/

section
variable (s : State) (t : BitVec 4) (here : t.toNat < s.blk.trays.length)

theorem trays_getElem? (here : t.toNat < s.blk.trays.length) : s.blk.trays[t.toNat]? = some (trayOf s t) := by
  rw [trayOf, List.getElem?_eq_getElem here, Option.getD_some]

theorem tray_begun (f : Form) : (begun f s).tray t = trayOf s t := by rw [State.tray, begun_blk, trayOf]

include here

theorem updTray_eq_set (g : Tray → Tray) : updTray s.blk t.toNat g = { s.blk with trays := s.blk.trays.set t.toNat (g (trayOf s t)) } := by
  rw [updTray, updAt_eq_set _ _ _ _ (trays_getElem? s t here)]

/-- A word's change of a tray. -/
theorem timeless_withTray_begun (f : Form) (g : Tray → Tray) :
    ((begun f s).mapBlk (fun b => updTray b t.toNat g)).timeless = ((s.popped f.use.sr).withTray t g).timeless := by
  rw [timeless_mapBlk_begun, State.withTray, trayOf, popped_blk]
  exact congrArg State.timeless (State.mapBlk_congr (by rw [popped_blk, updTray_eq_set s t here]; rfl))

end

theorem canPublish_iff (c : BitVec 3) (s : State) : s.canPublish c = true ↔ CanRelease c s := by
  unfold State.canPublish CanRelease wideScope
  by_cases wide : 2 ≤ c.toNat
  · simp [wide, State.releaseReady]
  · simp [wide, State.storesLanded]

/-- The strand's packets are the same once its word has issued. -/
theorem canRelease_begun (f : Form) (s : State) : CanRelease 1 (begun f s) ↔ CanRelease 1 s := by
  show (∀ p ∈ (begun f s).core.packets, p.strand ≠ (begun f s).me.id) ↔ ∀ p ∈ s.core.packets, p.strand ≠ s.me.id
  rw [begun_core, id_begun]

theorem canPublish_begun (f : Form) (s : State) : (begun f s).canPublish 1 = true ↔ CanRelease 1 s :=
  (canPublish_iff 1 _).trans (canRelease_begun f s)

theorem trayRead_iff (s : State) (t : BitVec 4) : s.trayRead s.blk.id t.toNat = true ↔ Reading s t := by
  simp only [State.trayRead, Reading, List.any_eq_true, Bool.and_eq_true, Bool.not_eq_true', decide_eq_true_eq, and_assoc]

theorem reading_begun (f : Form) (s : State) (t : BitVec 4) : (begun f s).trayRead (begun f s).blk.id t.toNat = s.trayRead s.blk.id t.toNat := by
  simp only [State.trayRead, begun_mxops, begun_blk]

/-- 03 R75: the strands of the block are woken, before and after a difference in clocks alone. -/
theorem timeless_trayWoken_congr (block : Nat) {s t : State} (same : s.timeless = t.timeless) :
    (s.trayWoken block).timeless = (t.trayWoken block).timeless := by
  unfold State.trayWoken
  rw [wakeStrands_timeless _ _ (fun _ => rfl), same, ← wakeStrands_timeless _ _ (fun _ => rfl)]

theorem blockWoken_eq (s : State) : s.blockWoken = s.trayWoken s.blk.id := rfl

@[simp] theorem trayWoken_graftLog (block : Nat) (s : State) : (s.trayWoken block).graftLog = s.graftLog := rfl

@[simp] theorem trayWoken_me_stepping (block : Nat) (s : State) : (s.trayWoken block).me.stepping = s.me.stepping := by
  simp only [State.trayWoken, State.wakeStrands, State.mapStrands]
  split <;> simp

@[simp] theorem trayWoken_me_corrupt (block : Nat) (s : State) : (s.trayWoken block).me.corrupt = s.me.corrupt := by
  simp only [State.trayWoken, State.wakeStrands, State.mapStrands]
  split <;> simp

theorem advance_stops (n : Nat) (y : Tray) (stop : y.res = 0 ∨ (y.head + y.filled) % y.nslot ∉ y.landed) : Tray.advance n y = y := by
  cases n with
  | zero => rfl
  | succ n =>
    rw [Tray.advance]
    refine if_neg ?_
    rw [List.contains_iff_mem]
    tauto

theorem advance_fills (n : Nat) (y : Tray) (fuel : 0 < n) (reserved : y.res ≠ 0) (landed : (y.head + y.filled) % y.nslot ∈ y.landed) :
    Tray.advance n y = Tray.advance (n - 1)
      { y with res := y.res - 1, filled := y.filled + 1, landed := y.landed.filter (fun j => j != (y.head + y.filled) % y.nslot) } := by
  obtain ⟨k, rfl⟩ := Nat.exists_eq_succ_of_ne_zero fuel.ne'
  rw [Tray.advance]
  exact if_pos ⟨reserved, List.contains_iff_mem.mpr landed⟩

/-- 07 R139: a slot that lands where the filled ones end is filled at once. -/
theorem commit_next (y : Tray) (idle : y.res = 0) (none : y.landed = []) (next : y.tail = (y.head + y.filled) % y.nslot) (slots : 0 < y.nslot) :
    y.reserve.2.land y.reserve.1 = { y with free := y.free - 1, filled := y.filled + 1, tail := (y.tail + 1) % y.nslot } := by
  rw [Tray.land, advance_fills _ _ (by simpa [Tray.reserve] using slots) (by simp [Tray.reserve]) (by simp [Tray.reserve, none, setInsert, next]),
    advance_stops _ _ (.inl (by simp [Tray.reserve, idle]))]
  simp [Tray.reserve, idle, none, setInsert, next]

/-- 07 R139: a slot that lands ahead of an earlier one waits for it. -/
theorem commit_ahead (y : Tray) (none : y.landed = []) (ahead : y.tail ≠ (y.head + y.filled) % y.nslot) :
    y.reserve.2.land y.reserve.1 =
      { y with free := y.free - 1, res := y.res + 1, tail := (y.tail + 1) % y.nslot, landed := [y.tail] } := by
  rw [Tray.land, advance_stops _ _ (.inr (by simpa [Tray.reserve, none, setInsert] using ahead.symm))]
  simp [Tray.reserve, none, setInsert]

/-! ### `tinit` (09 R190) -/

/-- 09 R192: the standing fetch of a streamed tray is the copy engine's last copy. -/
theorem startStream_copies (b : Block) (priv t : Nat) (s : State) : ∃ c, (s.startStream b priv t).copies = s.copies ++ [c] ∧
    c.stream = true ∧ c.side = CoreSide.tray t ∧ c.block = b.id ∧ c.kind = .cpg :=
  ⟨_, rfl, rfl, rfl, rfl, rfl⟩

def tinitForm (t : BitVec 4) (r : BitVec 6) (s : State) : Form :=
  { trayForm (assemble 0xD4000000 [(t.toNat, 18), (r.toNat, 12)]) t s with use := { sr := [r] } }

/-- 09 R190: a descriptor that holds makes an empty tray, and its standing fetch where it is streamed. -/
def describe (t : BitVec 4) (bad : Option Nat) (new : Tray) (s : State) : Result :=
  match bad with
  | some k => .trap (s.trapAll .format (BitVec.ofNat 64 (0x10000 + k)) 0) s
  | none =>
    let s1 := { s with copies := s.copies.filter (fun c => !(c.stream && decide (c.block = s.blk.id ∧ c.side = CoreSide.tray t.toNat))) }
    let s2 := s1.mapBlk (fun b => updTray b t.toNat (fun _ => new))
    .done (if new.stream then s2.startStream s2.blk s2.me.priv t.toNat else s2)

/-- What `tinit` does with a descriptor at an offset of the window. -/
def tinitAt (t : BitVec 4) (off : Nat) (s : State) : Result :=
  if s.copies.any (CopyOp.fills s.blk.id t.toNat) ∨ s.trayRead s.blk.id t.toNat then .stall 6 s
  else describe t (trayCheck (s.blk.readWindow off 32) s.blk.windowSize)
    (Tray.ofDesc (s.blk.readWindow off 32) ((s.tray t).gen + 1) (s.tray t).unit) s

def tinitOps (t : BitVec 4) (r : BitVec 6) (s : State) : Result := ownLocal (s.sreg r) 32 32 (tinitAt t) s

theorem exec_tinit (t : BitVec 4) (r : BitVec 6) (s : State) : exec (.tinit t r) s = issue (tinitForm t r s) (tinitOps t r) s := rfl

section
variable (t : BitVec 4) (r : BitVec 6) (s : State) (h : Ready s) (here : t.toNat < s.blk.trays.length) (source : SrcOk s r)

theorem allowed_tinit (here : t.toNat < s.blk.trays.length) (source : SrcOk s r) : Allowed (tinitForm t r s) s :=
  allowed_scalar _ s rfl (fun _ => rfl) (Nat.zero_le _) (by simpa [tinitForm, trayForm] using here) (by simpa [tinitForm] using source)
    (by simp [tinitForm]) (by simp [tinitForm]) (by simp [tinitForm]) rfl rfl (by simp [tinitForm])

theorem tinit_address (source : SrcOk s r) : (begun (tinitForm t r s) s).sreg r = src s r := sreg_begun _ s r (by simp [tinitForm]) source

include h here source

theorem tinit_unreachable (own : noPeer (src s r)) {c : Cause} (fails : localCause s 32 (src s r) = some c) :
    ∃ q : State, q.timeless = (s.popped [r]).timeless ∧
      exec (.tinit t r) s = .next (q.takeTrap { cause := c, tval := 0, lanes := s.me.visible, taddr := src s r }) := by
  refine issue_traps_popped (tinitForm t r s) (tinitOps t r) s h (allowed_tinit t r s here source) rfl ?_
  rw [tinitOps, tinit_address t r s source]
  exact ownLocal_traps s _ (begun_blk _ s) _ 32 _ own fails

variable (own : noPeer (src s r)) (passes : localCause s 32 (src s r) = none) (idle : ¬ Reading s t)
  (unfilled : ∀ c ∈ s.copies, c.side ≠ CoreSide.tray t.toNat)
include own passes idle unfilled

omit h here in
/-- The descriptor of a tray that nothing fills or reads is checked. -/
theorem tinit_checks : tinitOps t r (begun (tinitForm t r s) s) =
    describe t (badDescriptor s (src s r).toNat) (describedTray s (src s r).toNat (trayOf s t)) (begun (tinitForm t r s) s) := by
  have unread : ¬ (begun (tinitForm t r s) s).trayRead (begun (tinitForm t r s) s).blk.id t.toNat = true := by
    rw [reading_begun, trayRead_iff]
    exact idle
  have nothing : ¬ (begun (tinitForm t r s) s).copies.any (CopyOp.fills (begun (tinitForm t r s) s).blk.id t.toNat) = true := by
    rw [begun_copies, List.any_eq_true]
    rintro ⟨c, hc, fills⟩
    simp [CopyOp.fills, unfilled c hc] at fills
  rw [tinitOps, tinit_address t r s source, ownLocal_passes s _ (begun_blk _ s) _ 32 _ own passes, tinitAt,
    if_neg (not_or.mpr ⟨nothing, unread⟩), begun_blk, trayCheck_eq, tray_begun, ofDesc_eq]

include h here

theorem tinit_bad {k : Nat} (bad : badDescriptor s (src s r).toNat = some k) : ∃ q : State, q.timeless = (s.popped [r]).timeless ∧
    exec (.tinit t r) s =
      .next (q.takeTrap { cause := .format, tval := BitVec.ofNat 64 (0x10000 + k), lanes := s.me.visible, taddr := 0 }) := by
  refine issue_traps_popped (tinitForm t r s) (tinitOps t r) s h (allowed_tinit t r s here source) rfl ?_
  rw [tinit_checks t r s source own passes idle unfilled, bad, describe]

/-- What a good descriptor makes of the tray. -/
def tinitDone (t : BitVec 4) (r : BitVec 6) (s : State) : State := (s.popped [r]).withTray t (fun y => describedTray s (src s r).toNat y)

omit h in
theorem tinit_good (good : badDescriptor s (src s r).toNat = none) : tinitOps t r (begun (tinitForm t r s) s) =
    let u := (begun (tinitForm t r s) s).mapBlk (fun b => updTray b t.toNat (describedTray s (src s r).toNat))
    .done (if windowField s ((src s r).toNat + 13) 1 = 1 then u.startStream u.blk u.me.priv t.toNat else u) := by
  have all : (begun (tinitForm t r s) s).copies.filter (fun c =>
      !(c.stream && decide (c.block = (begun (tinitForm t r s) s).blk.id ∧ c.side = CoreSide.tray t.toNat))) = (begun (tinitForm t r s) s).copies := by
    rw [List.filter_eq_self]
    intro c hc
    simp [unfilled c (by simpa using hc)]
  have same : updTray s.blk t.toNat (fun _ => describedTray s (src s r).toNat (trayOf s t)) = updTray s.blk t.toNat (describedTray s (src s r).toNat) := by
    rw [updTray_eq_set s t here, updTray_eq_set s t here]
  have stream : (describedTray s (src s r).toNat (trayOf s t)).stream = decide (windowField s ((src s r).toNat + 13) 1 = 1) := by
    simp [describedTray, beq_eq_decide]
  rw [tinit_checks t r s source own passes idle unfilled, good, describe]
  simp only [all, stream, decide_eq_true_eq]
  have changed : (begun (tinitForm t r s) s).mapBlk (fun b => updTray b t.toNat (fun _ => describedTray s (src s r).toNat (trayOf s t))) =
      (begun (tinitForm t r s) s).mapBlk (fun b => updTray b t.toNat (describedTray s (src s r).toNat)) :=
    State.mapBlk_congr (by rw [begun_blk]; exact same)
  rw [← changed]

theorem tinit_plain (good : badDescriptor s (src s r).toNat = none) (plain : windowField s ((src s r).toNat + 13) 1 = 0) :
    Leads (exec (.tinit t r) s) ((tinitDone t r s).wordDone (s.me.pc + 4)) := by
  refine issue_done_leads (tinitForm t r s) (tinitOps t r) s h (allowed_tinit t r s here source) rfl rfl rfl
    ((tinit_good t r s here source own passes idle unfilled good).trans (congrArg Result.done (if_neg (by rw [plain]; decide)))) ?_ ?_ ?_ ?_
  · exact timeless_withTray_begun s t here _ _
  all_goals simp [tinitDone, State.withTray, h.noLog, h.free, h.whole]

theorem tinit_streamed (good : badDescriptor s (src s r).toNat = none) (streamed : windowField s ((src s r).toNat + 13) 1 = 1) :
    ∃ u, exec (.tinit t r) s = .next u ∧ u.me.pc = s.me.pc + 4 ∧ u.blk = (tinitDone t r s).blk ∧
      ∃ c, u.copies = s.copies ++ [c] ∧ c.stream = true ∧ c.side = CoreSide.tray t.toNat ∧ c.block = s.blk.id ∧ c.kind = .cpg := by
  obtain ⟨u, runs, same⟩ := issue_done_leads (tinitForm t r s) (tinitOps t r) s h (allowed_tinit t r s here source) rfl rfl rfl
    ((tinit_good t r s here source own passes idle unfilled good).trans (congrArg Result.done (if_pos streamed))) rfl
    ((begun_graftLog _ s).trans h.noLog) ((congrArg Strand.stepping (begun_me _ s)).trans h.free)
    ((congrArg Strand.corrupt (begun_me _ s)).trans h.whole)
  obtain ⟨c, copies, standing, side, block, kind⟩ := startStream_copies
    ((begun (tinitForm t r s) s).mapBlk (fun b => updTray b t.toNat (describedTray s (src s r).toNat))).blk
    ((begun (tinitForm t r s) s).mapBlk (fun b => updTray b t.toNat (describedTray s (src s r).toNat))).me.priv t.toNat
    ((begun (tinitForm t r s) s).mapBlk (fun b => updTray b t.toNat (describedTray s (src s r).toNat)))
  refine ⟨u, runs, (congrArg (fun v => v.me.pc) same :), ?_, c, ?_, standing, side, block.trans (congrArg Block.id (begun_blk (tinitForm t r s) s) :), kind⟩
  · exact (congrArg State.blk same :).trans (congrArg State.blk (timeless_withTray_begun s t here (tinitForm t r s) _) :)
  · exact (congrArg State.copies same :).trans (copies.trans (congrArg (· ++ [c]) (begun_copies _ s)))

end

/-! ### The other tray words (07 R139, 09 R192; 14 R248, R256) -/

theorem allowed_trayForm (w : W32) (t : BitVec 4) (s : State) (here : t.toNat < s.blk.trays.length) : Allowed (trayForm w t s) s :=
  allowed_bare _ s rfl rfl rfl (by simpa [trayForm] using here) rfl

def twaitForm (t : BitVec 4) (s : State) : Form := trayForm (assemble 0xD4400000 [(t.toNat, 18)]) t s
def twaitOps (t : BitVec 4) (s : State) : Result := if (s.tray t).filled = 0 then .stall 6 s else .done (s.refresh 1)

theorem exec_twait (t : BitVec 4) (s : State) : exec (.twait t) s = issue (twaitForm t s) (twaitOps t) s := rfl

def tpopForm (t : BitVec 4) (s : State) : Form := trayForm (assemble 0xD4800000 [(t.toNat, 18)]) t s

def tpopOps (t : BitVec 4) (s : State) : Result :=
  if s.trayRead s.blk.id t.toNat ∨ (s.tray t).filled = 0 then .stall 6 s
  else if ¬ s.canPublish 1 then .stall 4 s
  else .done (s.mapBlk (fun b => updTray b t.toNat Tray.pop))

theorem exec_tpop (t : BitVec 4) (s : State) : exec (.tpop t) s = issue (tpopForm t s) (tpopOps t) s := rfl

def tfilledForm (t : BitVec 4) (d : BitVec 6) (s : State) : Form :=
  { trayForm (assemble 0xD4C00000 [(t.toNat, 18), (d.toNat, 12)]) t s with use := { sw := [d] }, lat := 4, fixed := false }

def tfilledOps (t : BitVec 4) (d : BitVec 6) (s : State) : Result := .done (s.setS d (s.tray t).word)

theorem exec_tfilled (t : BitVec 4) (d : BitVec 6) (s : State) : exec (.tfilled t d) s = issue (tfilledForm t d s) (tfilledOps t d) s := rfl

def tcommitForm (t : BitVec 4) (s : State) : Form :=
  { trayForm (assemble 0xD5000000 [(t.toNat, 18)]) t s with units := decide (t.toNat < s.blk.trays.length) && !(s.tray t).stream }

/-- 09 R192: the slot of a program-filled tray is reserved and lands at once. -/
def tcommitOps (t : BitVec 4) (s : State) : Result :=
  if (s.tray t).free = 0 then .stall 6 s
  else if ¬ s.canPublish 1 then .stall 4 s
  else
    let (k, y) := (s.tray t).reserve
    .done ((s.mapBlk (fun b => updTray b t.toNat (fun _ => y.land k))).trayWoken s.blk.id)

theorem exec_tcommit (t : BitVec 4) (s : State) : exec (.tcommit t) s = issue (tcommitForm t s) (tcommitOps t) s := rfl

section
variable (t : BitVec 4) (s : State) (h : Ready s) (here : t.toNat < s.blk.trays.length)
include h here

theorem twait_leads (filled : (trayOf s t).filled ≠ 0) :
    Leads (exec (.twait t) s) ((s.mapMe (fun t => { t with fetch := [] })).wordDone (s.me.pc + 4)) := by
  refine issue_done_leads (twaitForm t s) (twaitOps t) s h (allowed_trayForm _ t s here) rfl rfl rfl
    (t := (begun (twaitForm t s) s).mapMe (fun t => { t with fetch := [] })) ?_ ?_ ?_ ?_ ?_
  · rw [twaitOps, tray_begun, if_neg filled]
    rfl
  · exact State.timeless_mapMe_congr (fun _ => rfl) (begun_bare_timeless _ s rfl)
  all_goals simp [h.noLog, h.free, h.whole]

theorem twait_waits (empty : (trayOf s t).filled = 0) : Waits 6 (exec (.twait t) s) s := by
  refine issue_waits (twaitForm t s) (twaitOps t) s h (allowed_trayForm _ t s here) rfl ?_
  rw [twaitOps, tray_begun, if_pos empty]

theorem tpop_waits (busy : (trayOf s t).filled = 0 ∨ Reading s t) : Waits 6 (exec (.tpop t) s) s := by
  refine issue_waits (tpopForm t s) (tpopOps t) s h (allowed_trayForm _ t s here) rfl ?_
  rw [tpopOps, reading_begun, tray_begun, if_pos (busy.symm.imp_left (trayRead_iff s t).mpr)]

theorem tpop_holds (filled : (trayOf s t).filled ≠ 0) (idle : ¬ Reading s t) (held : ¬ CanRelease 1 s) : Waits 4 (exec (.tpop t) s) s := by
  refine issue_waits (tpopForm t s) (tpopOps t) s h (allowed_trayForm _ t s here) rfl ?_
  rw [tpopOps, reading_begun, tray_begun, if_neg (not_or.mpr ⟨(trayRead_iff s t).not.mpr idle, filled⟩), if_pos ((canPublish_begun _ s).not.mpr held)]

theorem tpop_leads (filled : (trayOf s t).filled ≠ 0) (idle : ¬ Reading s t) (free : CanRelease 1 s) :
    Leads (exec (.tpop t) s) ((s.withTray t Tray.pop).wordDone (s.me.pc + 4)) := by
  refine issue_done_leads (tpopForm t s) (tpopOps t) s h (allowed_trayForm _ t s here) rfl rfl rfl
    (t := (begun (tpopForm t s) s).mapBlk (fun b => updTray b t.toNat Tray.pop)) ?_ ?_ ?_ ?_ ?_
  · rw [tpopOps, reading_begun, tray_begun, if_neg (not_or.mpr ⟨(trayRead_iff s t).not.mpr idle, filled⟩),
      if_neg (not_not.mpr ((canPublish_begun _ s).mpr free))]
  · rw [timeless_withTray_begun s t here, popped_plain _ _ (by simp [tpopForm, trayForm])]
  all_goals simp [State.withTray, h.noLog, h.free, h.whole]

theorem tfilled_leads (d : BitVec 6) (dest : DstOk d) : Leads (exec (.tfilled t d) s) ((s.wrote d (trayOf s t).word).wordDone (s.me.pc + 4)) := by
  refine issue_done_leads (tfilledForm t d s) (tfilledOps t d) s h
    (allowed_dst _ d s dest rfl rfl rfl (by simpa [tfilledForm, trayForm] using here) rfl) rfl rfl rfl
    (t := (begun (tfilledForm t d s) s).wrote d (trayOf s t).word) ?_ ?_ ?_ ?_ ?_
  · rw [tfilledOps, setS_plain _ _ _ dest, tray_begun]
  · exact timeless_wrote_congr d _ (begun_bare_timeless _ s rfl)
  · rw [wrote_graftLog, h.noLog]
  · rw [wrote_me_stepping, h.free]
  · rw [wrote_me_corrupt, h.whole]

section
variable (plain : (trayOf s t).stream = false)
include plain

omit h in
theorem allowed_tcommit : Allowed (tcommitForm t s) s :=
  allowed_bare _ s rfl rfl rfl (by
    have : (s.tray t).stream = false := plain
    simp [tcommitForm, here, this]) rfl

theorem tcommit_waits (full : (trayOf s t).free = 0) : Waits 6 (exec (.tcommit t) s) s := by
  refine issue_waits (tcommitForm t s) (tcommitOps t) s h (allowed_tcommit t s here plain) rfl ?_
  rw [tcommitOps, tray_begun, if_pos full]

variable (room : (trayOf s t).free ≠ 0)
include room

theorem tcommit_holds (held : ¬ CanRelease 1 s) : Waits 4 (exec (.tcommit t) s) s := by
  refine issue_waits (tcommitForm t s) (tcommitOps t) s h (allowed_tcommit t s here plain) rfl ?_
  rw [tcommitOps, tray_begun, if_neg room, if_pos ((canPublish_begun _ s).not.mpr held)]

/-- The word leads to the tray that the slot's landing makes. -/
theorem tcommit_leads (free : CanRelease 1 s) {g : Tray → Tray} (lands : (trayOf s t).reserve.2.land (trayOf s t).reserve.1 = g (trayOf s t)) :
    Leads (exec (.tcommit t) s) (((s.withTray t g).blockWoken).wordDone (s.me.pc + 4)) := by
  have change : updTray s.blk t.toNat (fun _ => (trayOf s t).reserve.2.land (trayOf s t).reserve.1) = updTray s.blk t.toNat g := by
    rw [updTray_eq_set s t here, updTray_eq_set s t here, lands]
  refine issue_done_leads (tcommitForm t s) (tcommitOps t) s h (allowed_tcommit t s here plain) rfl rfl rfl
    (t := ((begun (tcommitForm t s) s).mapBlk (fun b => updTray b t.toNat g)).trayWoken s.blk.id) ?_ ?_ ?_ ?_ ?_
  · rw [tcommitOps, tray_begun, if_neg room, if_neg (not_not.mpr ((canPublish_begun _ s).mpr free))]
    exact congrArg Result.done (congrArg₂ State.trayWoken (congrArg Block.id (begun_blk _ s))
      (State.mapBlk_congr (by rw [begun_blk]; exact change)))
  · refine timeless_trayWoken_congr _ ?_
    rw [timeless_withTray_begun s t here, popped_plain _ _ (by simp [tcommitForm, trayForm])]
  all_goals simp [blockWoken_eq, State.withTray, h.noLog, h.free, h.whole]

end
end

/-- Settles O28: `tinit` by its descriptor, the words on the head by the filled slots and the readers, and `tcommit` by whether its
slot lands next or ahead. -/
theorem trayWords : Obligations.TrayWords := by
  intro t r d s h _ here source dest
  dsimp only
  refine ⟨fun own passes idle unfilled =>
      ⟨tinit_plain t r s h here source own passes idle unfilled, tinit_streamed t r s h here source own passes idle unfilled,
        fun k => tinit_bad t r s h here source own passes idle unfilled⟩,
    fun c own => tinit_unreachable t r s h here source own, twait_leads t s h here, twait_waits t s h here, tpop_holds t s h here,
    tpop_leads t s h here, tpop_waits t s h here, tfilled_leads t s h here d dest, tcommit_waits t s h here,
    tcommit_holds t s h here, ?_, ?_⟩
  · intro plain room free idle none next slots
    exact tcommit_leads t s h here plain room free (commit_next (trayOf s t) idle none next slots)
  · intro plain room free none ahead _
    exact tcommit_leads t s h here plain room free (commit_ahead (trayOf s t) none ahead)

end Sys2Proof.Machine

namespace Sys2Proof.Machine

/-! ## Translations that the core's TLB holds (19 R319, R330)

Using an entry changes only when it was used last, so that one translation leaves what the caches hold for the next. -/

/-- A state without the order in which the entries of the translation caches were used. -/
def State.rested (s : State) : State := { s with tlb := s.tlb.map (fun e => { e with used := 0 }), uses := 0 }

/-- 19 R319, R330: a core's TLB leads an address to pa with the permission, and no entry that answers for it holds an error. -/
def TlbMaps (s : State) (core vd priv : Nat) (acc : Acc) (ea : W64) (pa : Nat) : Prop :=
  ea.toNat < 2 ^ 56 ∧ (∀ e ∈ s.tlb, ∀ p ∈ corePlaces core, e.answers p false vd (decide (priv = 2)) ea.toNat = true → e.bad = false) ∧
    ∃ e : TlbEntry, s.tlb.find? (fun e => e.answers (.core core) false vd (decide (priv = 2)) ea.toNat) = some e ∧
      s.permits priv acc e ea.toNat = true ∧ e.raw = false ∧ pa = e.addr ea.toNat

theorem mapped_iff_tlbMaps (s : State) (acc : Acc) (ea : W64) (pa : Nat) :
    Mapped s acc ea pa ↔ TlbMaps s s.blk.core s.blk.vd s.me.priv acc ea pa := Iff.rfl

section
variable {core vd priv pa : Nat} {acc : Acc} {ea : W64} {s t : State}

theorem tlbMaps_rested : TlbMaps s.rested core vd priv acc ea pa ↔ TlbMaps s core vd priv acc ea pa := by
  unfold TlbMaps
  refine and_congr_right fun _ => and_congr ?_ ?_
  · exact List.forall_mem_map
  · simp only [State.rested, List.find?_map, Option.map_eq_some_iff]
    constructor
    · rintro ⟨_, ⟨e, found, rfl⟩, permits⟩
      exact ⟨e, found, permits⟩
    · rintro ⟨e, found, permits⟩
      exact ⟨_, ⟨e, found, rfl⟩, permits⟩

theorem TlbMaps.congr (h : TlbMaps s core vd priv acc ea pa) (same : t.rested = s.rested) : TlbMaps t core vd priv acc ea pa := by
  rwa [← tlbMaps_rested, same, tlbMaps_rested]

/-- What a translation depends on. -/
theorem TlbMaps.of_tlb (h : TlbMaps s core vd priv acc ea pa) (tlb : t.tlb = s.tlb) (dies : t.dies = s.dies) :
    TlbMaps t core vd priv acc ea pa := by
  have permits (e : TlbEntry) : t.permits priv acc e ea.toNat = s.permits priv acc e ea.toNat := by
    unfold State.permits State.backed
    rw [dies]
  unfold TlbMaps
  simp only [tlb, permits]
  exact h

/-- A use of the core's own entry fills no other cache. -/
theorem rested_useTlb (fabric : Bool) (hyper : Bool) (va : Nat) (e : TlbEntry) (near : e.place = .core core) :
    (s.useTlb (corePlaces core) fabric vd hyper va e).rested = s.rested := by
  have none : (corePlaces core).takeWhile (fun p => decide (p ≠ e.place)) = [] := by simp [corePlaces, near]
  unfold State.useTlb
  rw [none]
  simp only [State.fillTlb, List.foldl_nil, State.rested, updIf, List.map_map]
  congr 1
  apply List.map_congr_left
  intro k _
  simp only [Function.comp]
  split <;> rfl

/-- 19 R319: an address that the core's TLB holds is translated, and nothing but the uses of the caches changes. -/
theorem TlbMaps.translate (h : TlbMaps s core vd priv acc ea pa) : ∃ (e : TlbEntry) (t : State),
    s.translate core vd priv acc ea = (.ok e, t) ∧ e.raw = false ∧ e.addr ea.toNat = pa ∧ t.rested = s.rested := by
  obtain ⟨low, sound, e, found, permits, plain, leads⟩ := h
  have near : e.place = .core core := by
    have answers := List.find?_some found
    simp only [TlbEntry.answers, Bool.and_eq_true, decide_eq_true_eq] at answers
    exact answers.1.1.1.1
  have hit : s.tlbHit (corePlaces core) false vd (decide (priv = 2)) ea.toNat = some e := by
    have whole : s.tlb.find? (fun e => e.answers (.core core) false vd (decide (priv = 2)) ea.toNat && !e.bad) = some e := by
      rw [← found]
      apply List.find?_congr
      intro e he
      by_cases answers : e.answers (.core core) false vd (decide (priv = 2)) ea.toNat = true
      · simp [answers, sound e he _ (List.mem_cons_self ..) answers]
      · simp [answers]
    simp [State.tlbHit, corePlaces, whole]
  refine ⟨e, s.useTlb (corePlaces core) false vd (decide (priv = 2)) ea.toNat e, ?_, plain, leads.symm, rested_useTlb _ _ _ _ near⟩
  unfold State.translate State.translateAt
  rw [if_neg (by simp [slice_canonical ea low])]
  dsimp only
  rw [dropBad_eq _ _ _ _ _ s sound]
  simp only [hit, permits, if_true]

end

end Sys2Proof.Machine

namespace Sys2Proof.Machine

/-! ## The state that a word has walked in (19 R320) -/

theorem timeless_of_rested {s t : State} (same : t.rested = s.rested) : t.timeless = s.timeless := by
  have := congrArg State.timeless same
  simpa [State.timeless, State.rested, Function.comp_def] using this

theorem eq_of_rested {s t : State} (same : t.rested = s.rested) : t = { s with tlb := t.tlb, uses := t.uses } :=
  congrArg (fun v => ({ v with tlb := t.tlb, uses := t.uses } : State)) same

/-- A state after translations that the caches held: the strand keeps what it has walked. -/
def State.walked (m : MemWait) (tlb : List TlbEntry) (uses : Nat) (s : State) : State :=
  { s with tlb := tlb, uses := uses, me := { s.me with memWait := some m } }

/-- What a word keeps of units that are all translated. -/
def MemWait.held (acc : Acc) (us : List UnitPa) : MemWait := { acc := acc, ok := us, failed := [], waiting := [] }

/-- One unit whose address the core's TLB holds. -/
theorem walkUnit_held {acc : Acc} {us : List UnitPa} {s : State} {w : LaneWait} {pa : Nat} (fresh : w.id = none)
    (maps : TlbMaps s s.blk.core s.blk.vd s.me.priv acc w.ea pa) : ∃ (u : UnitPa) (t : State), u.unit = w.lane ∧ u.pa = pa ∧
      walkUnit w (.held acc us, s) = (.held acc (us ++ [u]), t) ∧ t.rested = s.rested := by
  obtain ⟨e, t, translates, _, leads, same⟩ := maps.translate
  refine ⟨{ unit := w.lane, pa := e.addr w.ea.toNat, raw := e.raw, discard := e.discard, ea := w.ea, page := e.size }, t, rfl, leads, ?_, same⟩
  unfold walkUnit
  simp only [fresh, Option.isSome_none, Bool.false_eq_true, if_false, MemWait.held, translates]

/-- Some units, each with the address that the core's TLB leads it to. -/
theorem foldl_walkUnit_held (ws : List (LaneWait × Nat)) (acc : Acc) (vs : List UnitPa) (s : State)
    (held : ∀ w ∈ ws, w.1.id = none ∧ TlbMaps s s.blk.core s.blk.vd s.me.priv acc w.1.ea w.2) : ∃ (us : List UnitPa) (t : State),
      us.map (fun u => (u.unit, u.pa)) = ws.map (fun w => (w.1.lane, w.2)) ∧
      (ws.map Prod.fst).foldl (fun p w => walkUnit w p) (.held acc vs, s) = (.held acc (vs ++ us), t) ∧ t.rested = s.rested := by
  induction ws generalizing vs s with
  | nil => exact ⟨[], s, rfl, by simp, rfl⟩
  | cons w ws ih =>
    obtain ⟨fresh, maps⟩ := held w (List.mem_cons_self ..)
    obtain ⟨u, t, unit, leads, walks, same⟩ := walkUnit_held (us := vs) fresh maps
    have shape := eq_of_rested same
    obtain ⟨us, v, units, folds, same'⟩ := ih (vs ++ [u]) t (fun x hx => by
      obtain ⟨fresh, maps⟩ := held x (List.mem_cons_of_mem _ hx)
      refine ⟨fresh, ?_⟩
      rw [shape] at same ⊢
      exact maps.congr same)
    refine ⟨u :: us, v, by simp [unit, leads, units], ?_, same'.trans same⟩
    rw [List.map_cons, List.foldl_cons, walks, folds, List.append_assoc, List.singleton_append]

/-- 19 R320: the units of an access that waits for nothing, where the core's TLB holds all their addresses. -/
theorem resolve_held (a : Access) (ws : List (LaneWait × Nat)) (s : State) (none : s.me.memWait = none)
    (starts : a.start = { MemWait.held a.acc [] with waiting := ws.map Prod.fst })
    (held : ∀ w ∈ ws, w.1.id = .none ∧ TlbMaps s s.blk.core s.blk.vd s.me.priv a.acc w.1.ea w.2) : ∃ (us : List UnitPa) (t : State),
      us.map (fun u => (u.unit, u.pa)) = ws.map (fun w => (w.1.lane, w.2)) ∧ t.rested = s.rested ∧
      s.resolve a = (.held a.acc us, s.walked (.held a.acc us) t.tlb t.uses) := by
  obtain ⟨us, t, units, folds, same⟩ := foldl_walkUnit_held ws a.acc [] s held
  refine ⟨us, t, units, same, ?_⟩
  have walks : walkUnits a.start s = (.held a.acc us, t) := by rw [starts]; exact folds
  unfold State.resolve
  rw [none, Option.getD_none, walks]
  exact Prod.ext rfl (congrArg (State.mapMe (fun t => { t with memWait := some (.held a.acc us) })) (eq_of_rested same))

/-! ## Records (09 R183, 14 R249) -/

/-- The record cache of the strand's core holds a record. -/
def Cached (s : State) (pa : Nat) (bs : List Byte) : Prop := (s.coreOf s.blk.core).records.find? (fun r => r.1 == pa) = some (pa, bs)

section
variable {s : State} {u : UnitPa} {bs : List Byte} (cached : Cached s u.pa bs)
include cached

theorem recordHeld_cached (n : Nat) : s.recordHeld s.blk.core true u n = false := by
  have there : (s.coreOf s.blk.core).records.any (fun r => r.1 == u.pa) = true := by
    rw [List.any_eq_true]
    exact ⟨_, List.mem_of_find?_eq_some cached, beq_self_eq_true _⟩
  unfold State.recordHeld
  simp [there]

theorem readRecord_cached (strand n : Nat) : s.readRecord s.blk.core strand u n = (bs, false, false, s) := by
  unfold State.readRecord
  rw [cached]

end

section
variable {s v : State} {k : List (List Byte) → State → Result} {ea eb : W64} {u w : UnitPa} {n l : Nat} {bs cs : List Byte}

/-- Records that the record cache holds are read, once their addresses are translated. -/
theorem readRecords_held (resolves : s.resolve (recordAccess [(0, ea)]) = (.held .read [u], v)) (unit : u.unit = 0)
    (cached : Cached v u.pa bs) : readRecords true [n] [ea] k s = k [bs] v := by
  unfold readRecords
  simp [resolves, MemWait.held, unit, recordHeld_cached cached, readRecord_cached cached]

theorem readRecords_held_two (resolves : s.resolve (recordAccess [(0, ea), (1, eb)]) = (.held .read [u, w], v)) (first : u.unit = 0)
    (second : w.unit = 1) (cached : Cached v u.pa bs) (cached' : Cached v w.pa cs) :
    readRecords true [n, l] [ea, eb] k s = k [bs, cs] v := by
  unfold readRecords
  simp [resolves, MemWait.held, first, second, recordHeld_cached cached, readRecord_cached cached, recordHeld_cached cached',
    readRecord_cached cached', List.range_succ]

end

section
variable {s : State} {k : List (List Byte) → State → Result} (none : s.me.memWait = none)
include none

/-- 09 R183: a record whose address the core's TLB leads to one of its record cache. -/
theorem readRecords_one {ea : W64} {pa n : Nat} {bs : List Byte} (maps : Mapped s .read ea pa) (cached : Cached s pa bs) :
    ∃ (m : MemWait) (t : State), t.rested = s.rested ∧ readRecords true [n] [ea] k s = k [bs] (s.walked m t.tlb t.uses) := by
  obtain ⟨us, t, units, same, resolves⟩ := resolve_held (recordAccess [(0, ea)]) [({ lane := 0, ea := ea, stage2 := false, id := .none }, pa)] s
    none (by simp [Access.start, recordAccess, MemWait.held, Nat.mod_one]) (by
      intro w hw
      cases List.mem_singleton.mp hw
      exact ⟨rfl, maps⟩)
  obtain ⟨u, rfl, leads⟩ := List.map_eq_singleton_iff.mp units
  obtain ⟨unit, rfl⟩ : u.unit = 0 ∧ u.pa = pa := Prod.mk.inj leads
  exact ⟨_, t, same, readRecords_held resolves unit cached⟩

/-- The same for the two records of `cpx`. -/
theorem readRecords_two {ea eb : W64} {pa pb n l : Nat} {bs cs : List Byte} (maps : Mapped s .read ea pa) (maps' : Mapped s .read eb pb)
    (cached : Cached s pa bs) (cached' : Cached s pb cs) :
    ∃ (m : MemWait) (t : State), t.rested = s.rested ∧ readRecords true [n, l] [ea, eb] k s = k [bs, cs] (s.walked m t.tlb t.uses) := by
  obtain ⟨us, t, units, same, resolves⟩ := resolve_held (recordAccess [(0, ea), (1, eb)])
    [({ lane := 0, ea := ea, stage2 := false, id := .none }, pa), ({ lane := 1, ea := eb, stage2 := false, id := .none }, pb)] s
    none (by simp [Access.start, recordAccess, MemWait.held, Nat.mod_one]) (by
      intro w hw
      rcases List.mem_pair.mp hw with rfl | rfl
      · exact ⟨rfl, maps⟩
      · exact ⟨rfl, maps'⟩)
  obtain ⟨u, us, rfl, leads, rest⟩ := List.map_eq_cons_iff.mp units
  obtain ⟨w, rfl, leads'⟩ := List.map_eq_singleton_iff.mp rest
  obtain ⟨unit, rfl⟩ : u.unit = 0 ∧ u.pa = pa := Prod.mk.inj leads
  obtain ⟨unit', rfl⟩ : w.unit = 1 ∧ w.pa = pb := Prod.mk.inj leads'
  exact ⟨_, t, same, readRecords_held_two resolves unit unit' cached cached'⟩

end

end Sys2Proof.Machine

namespace Sys2Proof.Machine

/-! ## The issue of copies (07 R146, 09 R183 to R186, 22 R361) -/

/-! ### Room (09 R186, 22 R352) -/

theorem copyRoom_begun (f : Form) (s : State) : (begun f s).copyRoom = true ↔ copiesOut s < 64 := by
  simp only [State.copyRoom, copiesOut, begun_copies, begun_blk, decide_eq_true_eq, beq_eq_decide]

theorem initiatorRoom_begun (f : Form) (s : State) : (begun f s).initiatorRoom (begun f s).blk.vd = true ↔ initiated s < 1024 := by
  unfold State.initiatorRoom initiated
  simp only [begun_copies, begun_sows, begun_blk, decide_eq_true_eq]
  refine iff_of_eq (congrArg (· < 1024) (congrArg₂ (· + ·) (congrArg List.length (List.filter_congr fun c _ => ?_))
    (congrArg List.length (List.filter_congr fun o _ => ?_))))
  · cases c.kind with
    | cpx pull => cases pull <;> simp [beq_eq_decide]
    | _ => simp
  · cases o.phase <;> simp [beq_eq_decide]

/-! ### Destination descriptors and completion words (09 R184, R185) -/

theorem slice_bit (x : W64) (i : Nat) : slice x i i = if bit x i = true then 1 else 0 := by
  unfold slice bit
  rw [BitVec.getLsbD, Nat.testBit_eq_decide_div_mod_eq, Nat.add_sub_cancel_left, pow_one]
  simp only [decide_eq_true_eq]
  split <;> omega

theorem descBad_iff (kind : CopyKind) (b : Block) (x : W64) : descBad kind b x = false ↔ descriptorOk kind b x := by
  have trays (k : Nat) : (∃ t, b.trays[k]? = some t ∧ t.stream = false) ↔ k < b.trays.length ∧ ((b.trays[k]?).map (·.stream)).getD false = false := by
    by_cases here : k < b.trays.length
    · simp [here]
    · simp [here]
  unfold descBad descriptorOk
  dsimp only
  simp only [slice_bit, trays, Bool.or_eq_false_iff, Bool.and_eq_false_iff, decide_eq_false_iff_not, Bool.not_eq_false', decide_eq_true_eq, Nat.not_le, not_not]
  obtain zero | one | two | other : slice x 63 60 = 0 ∨ slice x 63 60 = 1 ∨ slice x 63 60 = 2 ∨ 3 ≤ slice x 63 60 := by omega
  · simp [zero]; tauto
  · simp [one]; tauto
  · simp [two]; tauto
  · have k0 : slice x 63 60 ≠ 0 := by omega
    have k1 : slice x 63 60 ≠ 1 := by omega
    have k2 : slice x 63 60 ≠ 2 := by omega
    simp [k0, k1, k2, Nat.not_lt.mpr other]
theorem windowChecks_fits {b : Block} {x : W64} {lay : Layout} {k : State → Result} {u : State} (same : u.blk = b)
    (fits : descriptorFits b x lay.span) : windowChecks x lay k u = k u := by
  unfold windowChecks
  dsimp only
  by_cases near : slice x 63 60 = 0
  · obtain ⟨barrier, side⟩ := fits near
    rw [slice_bit] at barrier
    have barrier := fun set => barrier (if_pos set)
    rw [if_neg (not_not.mpr near), if_neg (fun h => h.2 (barrier h.1).1), if_neg (fun h => by have := (barrier h.1).2; rw [same] at h; omega),
      if_neg (by rw [same]; omega)]
  · rw [if_pos near]

theorem withWord_at {s u : State} {q : BitVec 6} {cw : Option Nat} {k : Option Nat → State → Result} (same : u.blk = s.blk)
    (word : WordAt s q cw) : withWord (src s q) k u = k cw u := by
  unfold withWord
  rcases word with ⟨zero, rfl⟩ | ⟨some, own, passes, rfl⟩
  · rw [if_pos zero]
  · rw [if_neg some, ownLocal_passes s u same _ _ _ own passes]

/-! ### The end of the word (01 R24; 02 R52) -/

/-- A strand whose word has walked no address. -/
def Strand.unwalked (t : Strand) : Strand := { t with memWait := none }

theorem timeless_walked {m : MemWait} {s t : State} (same : t.rested = s.rested) :
    ((s.walked m t.tlb t.uses).mapMe Strand.unwalked).timeless = (s.mapMe Strand.unwalked).timeless :=
  (congrArg (fun v => (State.mapMe Strand.unwalked v).timeless) (eq_of_rested same)).symm.trans
    (State.timeless_mapMe_congr (fun _ => rfl) (timeless_of_rested same))

/-- A copy's trap: nothing has changed but what its ports held and what the strand has walked. -/
def CopyTraps (rs : List (BitVec 6)) (s : State) (o : Out) (cause : Cause) (v a : W64) : Prop :=
  ∃ b : State, b.timeless = ((s.popped rs).mapMe Strand.unwalked).timeless ∧ ∃ w : Option MemWait,
    o = .next ((b.mapMe (fun t => { t with memWait := w })).takeTrap { cause := cause, tval := v, lanes := s.me.visible, taddr := a })

section
variable (f : Form) (eff : State → Result) (s : State) (h : Ready s) (a : Allowed f s) (scalar : f.vector = false)
include h a scalar

theorem issue_traps_walked {u : State} {c : Cause} {v ad : W64} (he : eff (begun f s) = .trap (u.trapAll c v ad) u)
    (same : (u.mapMe Strand.unwalked).timeless = ((begun f s).mapMe Strand.unwalked).timeless) :
    CopyTraps f.use.sr s (issue f eff s) c v ad := by
  have log : u.graftLog = s.graftLog := (congrArg State.graftLog same :).trans (begun_graftLog f s)
  have visible : u.me.visible = s.me.visible :=
    (congrArg (fun v => v.me.visible) same :).trans (congrArg Strand.visible (begun_me f s) :)
  refine ⟨u.mapMe Strand.unwalked, same.trans (State.timeless_mapMe_congr (fun _ => rfl) (begun_timeless f s)), u.me.memWait, ?_⟩
  rw [issue_trap_eq f eff s h a scalar he (log.trans h.noLog), State.trapAll, visible]
  rfl

end

section
variable (f : Form) (b s : State) (pc : W64) (cost : Nat) (lanes : f.use.readChans = [])
include lanes

theorem complete_core : (State.complete f b pc cost s).core = s.core := by
  simp [State.complete, popChans_nil _ _ lanes]

theorem complete_slices : (State.complete f b pc cost s).slices = s.slices := by
  simp [State.complete, popChans_nil _ _ lanes]

end

/-! ### The words -/

/-- What `cpg`, `cps` and `cpm` do with the bytes of their record. -/
def checkCopy (word : W32) (kind : CopyKind) (join : BitVec 3) (c d q : BitVec 6) (b : List Byte) (s : State) : Result :=
  match (Layout.of b).check b (s.copyOrigin c) with
  | some v => .trap (s.trapAll .format (BitVec.ofNat 64 v) 0) s
  | none =>
    if descBad kind s.blk (s.sreg d) then .trap (s.trapAll .illegal (word.setWidth 64) 0) s
    else windowChecks (s.sreg d) (Layout.of b) (withWord (s.sreg q) (fun cw t =>
      .done (t.forkCopy join (t.newCopy kind (Layout.of b) (s.copyOrigin c) (descSide (s.sreg d)) (s.sreg d) cw [])))) s

/-- What `cpx` does with the bytes of its two records. -/
def checkRemote (c q : BitVec 6) (b r : List Byte) (s : State) : Result :=
  match ((Layout.of b).check b (s.copyOrigin c)).or (remoteCheck r) with
  | some v => .trap (s.trapAll .format (BitVec.ofNat 64 v) 0) s
  | none => withWord (s.sreg q) (fun cw t =>
    .done (t.forkCopy (if decide (recField r 18 1 = 1) then 4 else 5)
      (t.newCopy (.cpx (decide (recField r 18 1 = 1))) (Layout.of b) (s.copyOrigin c) (.window 0) 0 cw r))) s

section
variable (l c d q : BitVec 6) (s : State)

theorem issueCopy_eq (word : W32) (kind : CopyKind) (join : BitVec 3) : issueCopy word kind join l c d q s =
    if ¬ s.copyRoom then .stall 10 s
    else if ¬ s.canPublish 1 then .stall 4 s
    else if (s.sreg l).toNat % 128 ≠ 0 then .trap (s.trapAll .misaligned 0 (s.sreg l)) s
    else readRecords true [128] [s.sreg l] (fun bs t => checkCopy word kind join c d q (bs.headD []) t) s := rfl

theorem issueRemote_eq : issueRemote l c d q s =
    if ¬ s.copyRoom ∨ ¬ s.initiatorRoom s.blk.vd then .stall 10 s
    else if ¬ s.canPublish 1 then .stall 4 s
    else if (s.sreg l).toNat % 128 ≠ 0 then .trap (s.trapAll .misaligned 0 (s.sreg l)) s
    else if (s.sreg d).toNat % 64 ≠ 0 then .trap (s.trapAll .misaligned 0 (s.sreg d)) s
    else readRecords true [128, 64] [s.sreg l, s.sreg d] (fun bs t => checkRemote c q (bs.headD []) (bs[1]?.getD []) t) s := rfl

variable (srcs : ∀ r ∈ [l, d, q], SrcOk s r) (range : c.toNat + 5 ≤ 56) (word : W32)
include srcs

theorem allowed_copyForm (range : c.toNat + 5 ≤ 56) : Allowed (copyForm word l c d q) s :=
  allowed_scalar _ s rfl (fun _ => rfl) (Nat.zero_le _) rfl srcs (by simp [copyForm]) (by simpa [copyForm] using range)
    (by simp [copyForm]) rfl rfl (by simp [copyForm])

theorem copy_source {r : BitVec 6} (hr : r ∈ [l, d, q]) : (begun (copyForm word l c d q) s).sreg r = src s r :=
  sreg_begun _ s r hr (srcs r hr)

omit srcs in
theorem copyOrigin_begun (f : Form) (range : c.toNat + 5 ≤ 56) : (begun f s).copyOrigin c = originOf s c := by
  refine List.map_congr_left fun k hk => ?_
  rw [srange_begun f s c k (by have := List.mem_range.mp hk; omega)]
  split <;> rfl

end

/-- A copy has entered the engine, and its strand goes on. -/
def CopyForked (s : State) (out : Out) (kind : CopyKind) (join : BitVec 3) (lay : Layout) (origin : List Int) (side : CoreSide)
    (cw : Option Nat) : Prop :=
  ∃ (t : State) (o : CopyOp), out = .next t ∧ t.copies = s.copies ++ [o] ∧ o.kind = kind ∧ o.lay = lay ∧ o.origin = origin ∧
    o.side = side ∧ o.cw = cw ∧ o.strand = s.me.id ∧ o.block = s.blk.id ∧ o.core = s.blk.core ∧ o.vd = s.blk.vd ∧ o.priv = s.me.priv ∧
    o.next = 0 ∧ o.finished = false ∧ o.stream = false ∧ o.id = s.nextId ∧
    t.me.cp = { s.me.cp with unsealed := s.me.cp.unsealed ++ [{ op := o.id, join := join, done := false, fault := none }] } ∧
    t.me.pc = s.me.pc + 4 ∧ t.me.s = s.me.s ∧ t.blk = s.blk ∧ t.dram = s.dram ∧ t.slices = s.slices ∧ t.core = s.core ∧
    { at_ := s.now, ev := .copyChunkLand o.id } ∈ t.agenda

section
variable (f : Form) (eff : State → Result) (s : State) (h : Ready s) (a : Allowed f s) (scalar : f.vector = false)
include h a scalar

/-- The state after a word whose effect is done: the effect's but for clocks, with its core and its slices. -/
theorem issue_done_exact (hint : f.hint = false) (lanes : f.use.vr = []) {u : State} (he : eff (begun f s) = .done u)
    (log : u.graftLog = []) (free : u.me.stepping = false) (whole : u.me.corrupt = []) :
    ∃ t, issue f eff s = .next t ∧ t.timeless = (u.wordDone (s.me.pc + 4)).timeless ∧ t.core = u.core ∧ t.slices = u.slices := by
  have chans : f.use.readChans = [] := by simp [Use.readChans, lanes]
  have same := complete_timeless f (begun f s) u (begun f s).nextPc 1 hint (by rwa [popChans_nil _ _ chans]) (by rwa [popChans_nil _ _ chans])
  rw [popChans_nil _ _ chans, nextPc_begun] at same
  refine ⟨_, ?_, same, complete_core f _ _ _ _ chans, complete_slices f _ _ _ _ chans⟩
  rw [issue_scalar f eff s h a scalar, he, ← nextPc_begun f s]
  simp only [finish]
  rw [State.writeGraftLog_nil _ ((complete_graftLog f _ _ _ _).trans log)]

end

section
variable (s : State) (join : BitVec 3) (c : CopyOp)

@[simp] theorem forkCopy_copies : (s.forkCopy join c).copies = s.copies ++ [{ c with id := s.nextId }] := rfl
@[simp] theorem forkCopy_agenda : (s.forkCopy join c).agenda = s.agenda ++ [{ at_ := s.now, ev := .copyChunkLand s.nextId }] := rfl

end

/-- What of the state at the start of a copy's word is still so when it forks the copy. -/
structure AsAtStart (s u : State) : Prop where
  strand : u.me.id = s.me.id ∧ u.me.priv = s.me.priv ∧ u.me.s = s.me.s ∧ u.me.cp = s.me.cp
  sound  : u.me.stepping = s.me.stepping ∧ u.me.corrupt = s.me.corrupt ∧ u.graftLog = s.graftLog
  places : u.blk = s.blk ∧ u.core = s.core
  memory : u.dram = s.dram ∧ u.slices = s.slices
  engine : u.copies = s.copies ∧ u.nextId = s.nextId ∧ u.now = s.now

theorem asAtStart_walked (f : Form) (s : State) (m : MemWait) (tlb : List TlbEntry) (uses : Nat) : AsAtStart s ((begun f s).walked m tlb uses) := by
  have me := begun_me f s
  exact {
    strand := ⟨(congrArg Strand.id me :), (congrArg Strand.priv me :), (congrArg Strand.s me :), (congrArg Strand.cp me :)⟩
    sound := ⟨(congrArg Strand.stepping me :), (congrArg Strand.corrupt me :), begun_graftLog f s⟩
    places := ⟨begun_blk f s, begun_core f s⟩
    memory := ⟨begun_dram f s, begun_slices f s⟩
    engine := ⟨begun_copies f s, begun_nextId f s, begun_now f s⟩ }

section
variable (f : Form) (eff : State → Result) (s : State) (h : Ready s) (a : Allowed f s) (scalar : f.vector = false)
include h a scalar

theorem issue_forks (hint : f.hint = false) (lanes : f.use.vr = []) {u : State} {kind : CopyKind} {join : BitVec 3} {lay : Layout}
    {origin : List Int} {side : CoreSide} {x : W64} {cw : Option Nat} {rem : List Byte} (start : AsAtStart s u)
    (he : eff (begun f s) = .done (u.forkCopy join (u.newCopy kind lay origin side x cw rem))) :
    CopyForked s (issue f eff s) kind join lay origin side cw := by
  obtain ⟨⟨id, priv, regs, batches⟩, ⟨stepping, corrupt, log⟩, ⟨blk, core⟩, ⟨dram, slices⟩, copies, next, now⟩ := start
  obtain ⟨t, runs, same, sameCore, sameSlices⟩ := issue_done_exact f eff s h a scalar hint lanes he (log.trans h.noLog)
    (stepping.trans h.free) (corrupt.trans h.whole)
  have tme : t.me.timeless = ((u.forkCopy join (u.newCopy kind lay origin side x cw rem)).wordDone (s.me.pc + 4)).me.timeless := (congrArg State.me same :)
  have tcopies : t.copies = (u.forkCopy join (u.newCopy kind lay origin side x cw rem)).copies := (congrArg State.copies same :)
  have tagenda : t.agenda = (u.forkCopy join (u.newCopy kind lay origin side x cw rem)).agenda := (congrArg State.agenda same :)
  have tblk : t.blk = u.blk := (congrArg State.blk same :)
  have tdram : t.dram = u.dram := (congrArg State.dram same :)
  have tcp : t.me.cp = u.me.cp.fork u.nextId join := (congrArg Strand.cp tme :)
  have ts : t.me.s = u.me.s := (congrArg Strand.s tme :)
  have tpc : t.me.pc = s.me.pc + 4 := (congrArg Strand.pc tme :)
  refine ⟨t, { u.newCopy kind lay origin side x cw rem with id := u.nextId }, runs, tcopies.trans (by rw [forkCopy_copies, copies]), rfl, rfl,
    rfl, rfl, rfl, id, congrArg Block.id blk, congrArg Block.core blk, congrArg Block.vd blk, priv, rfl, rfl, rfl, next,
    tcp.trans (congrArg (Batches.fork u.nextId join) batches), tpc, ts.trans regs, tblk.trans blk, tdram.trans dram, sameSlices.trans slices,
    sameCore.trans core, ?_⟩
  rw [tagenda, forkCopy_agenda, ← now]
  exact List.mem_append_right _ (List.mem_singleton_self _)

end

end Sys2Proof.Machine

namespace Sys2Proof.Machine

/-! ### Their records (09 R183, 14 R249) -/

theorem mapped_begun (f : Form) {s : State} {acc : Acc} {ea : W64} {pa : Nat} (maps : Mapped s acc ea pa) : Mapped (begun f s) acc ea pa := by
  have priv : (begun f s).me.priv = s.me.priv := by rw [begun_me]
  rw [mapped_iff_tlbMaps] at maps ⊢
  rw [begun_blk, priv]
  exact maps.of_tlb (begun_tlb f s) (begun_dies f s)

theorem cached_begun (f : Form) {s : State} (focused : Focused s) {pa : Nat} {bs : List Byte}
    (cached : s.core.records.find? (fun r => r.1 == pa) = some (pa, bs)) : Cached (begun f s) pa bs := by
  have core : (begun f s).coreOf (begun f s).blk.core = s.core := by
    rw [begun_blk]
    exact (if_pos (by rw [begun_core]; exact focused.core)).trans (begun_core f s)
  rw [Cached, core, cached]

/-- A state in which a copy's word goes on once its records are read: it reads what its strand held at the start, and nothing has
changed but what the strand has walked. -/
structure Onward (f : Form) (s u : State) (c : BitVec 6) (rs : List (BitVec 6)) : Prop extends AsAtStart s u where
  origin  : u.copyOrigin c = originOf s c
  sources : ∀ r ∈ rs, u.sreg r = src s r
  same    : (u.mapMe Strand.unwalked).timeless = ((begun f s).mapMe Strand.unwalked).timeless

theorem onward_walked (l c d q : BitVec 6) (s : State) (srcs : ∀ r ∈ [l, d, q], SrcOk s r) (range : c.toNat + 5 ≤ 56) (word : W32)
    (m : MemWait) {t : State} (same : t.rested = (begun (copyForm word l c d q) s).rested) :
    Onward (copyForm word l c d q) s ((begun (copyForm word l c d q) s).walked m t.tlb t.uses) c [l, d, q] where
  toAsAtStart := asAtStart_walked _ s m t.tlb t.uses
  origin := copyOrigin_begun c s _ range
  sources _ hr := copy_source l c d q s srcs word hr
  same := timeless_walked same

/-! ### Room, order, alignment (09 R182, R186; 14 R252; 22 R352) -/

section
variable (l c d q : BitVec 6) (s : State) (word : W32) (kind : CopyKind) (join : BitVec 3) (h : Ready s) (a : Allowed (copyForm word l c d q) s)
include h a

theorem copy_full (full : ¬ copiesOut s < 64) : Waits 10 (issue (copyForm word l c d q) (issueCopy word kind join l c d q) s) s := by
  refine issue_waits _ _ s h a rfl ?_
  rw [issueCopy_eq, if_pos ((copyRoom_begun _ s).not.mpr full)]

theorem remote_full (full : ¬ copiesOut s < 64 ∨ ¬ initiated s < 1024) : Waits 10 (issue (copyForm word l c d q) (issueRemote l c d q) s) s := by
  refine issue_waits _ _ s h a rfl ?_
  rw [issueRemote_eq, if_pos (full.imp (copyRoom_begun _ s).not.mpr (initiatorRoom_begun _ s).not.mpr)]

variable (room : copiesOut s < 64)
include room

omit h a in
theorem issueCopy_begun : issueCopy word kind join l c d q (begun (copyForm word l c d q) s) =
    let b := begun (copyForm word l c d q) s
    if ¬ b.canPublish 1 then .stall 4 b
    else if (b.sreg l).toNat % 128 ≠ 0 then .trap (b.trapAll .misaligned 0 (b.sreg l)) b
    else readRecords true [128] [b.sreg l] (fun bs t => checkCopy word kind join c d q (bs.headD []) t) b := by
  rw [issueCopy_eq, if_neg (not_not.mpr ((copyRoom_begun _ s).mpr room))]

omit h a in
theorem issueRemote_begun (remotes : initiated s < 1024) : issueRemote l c d q (begun (copyForm word l c d q) s) =
    let b := begun (copyForm word l c d q) s
    if ¬ b.canPublish 1 then .stall 4 b
    else if (b.sreg l).toNat % 128 ≠ 0 then .trap (b.trapAll .misaligned 0 (b.sreg l)) b
    else if (b.sreg d).toNat % 64 ≠ 0 then .trap (b.trapAll .misaligned 0 (b.sreg d)) b
    else readRecords true [128, 64] [b.sreg l, b.sreg d] (fun bs t => checkRemote c q (bs.headD []) (bs[1]?.getD []) t) b := by
  rw [issueRemote_eq, if_neg (not_or.mpr ⟨not_not.mpr ((copyRoom_begun _ s).mpr room), not_not.mpr ((initiatorRoom_begun _ s).mpr remotes)⟩)]

theorem copy_held (held : ¬ CanRelease 1 s) : Waits 4 (issue (copyForm word l c d q) (issueCopy word kind join l c d q) s) s := by
  refine issue_waits _ _ s h a rfl ?_
  rw [issueCopy_begun l c d q s word kind join room]
  exact if_pos ((canPublish_begun _ s).not.mpr held)

theorem remote_held (remotes : initiated s < 1024) (held : ¬ CanRelease 1 s) :
    Waits 4 (issue (copyForm word l c d q) (issueRemote l c d q) s) s := by
  refine issue_waits _ _ s h a rfl ?_
  rw [issueRemote_begun l c d q s word room remotes]
  exact if_pos ((canPublish_begun _ s).not.mpr held)

variable (free : CanRelease 1 s) (srcs : ∀ r ∈ [l, d, q], SrcOk s r)
include free srcs

theorem copy_misaligned (off : (src s l).toNat % 128 ≠ 0) :
    CopyTraps [l, d, q] s (issue (copyForm word l c d q) (issueCopy word kind join l c d q) s) .misaligned 0 (src s l) := by
  refine issue_traps_walked _ _ s h a rfl (u := begun (copyForm word l c d q) s) ?_ rfl
  rw [issueCopy_begun l c d q s word kind join room]
  dsimp only
  rw [if_neg (not_not.mpr ((canPublish_begun _ s).mpr free)), copy_source l c d q s srcs word (by simp), if_pos off]

theorem remote_misaligned (remotes : initiated s < 1024) (off : (src s l).toNat % 128 ≠ 0) :
    CopyTraps [l, d, q] s (issue (copyForm word l c d q) (issueRemote l c d q) s) .misaligned 0 (src s l) := by
  refine issue_traps_walked _ _ s h a rfl (u := begun (copyForm word l c d q) s) ?_ rfl
  rw [issueRemote_begun l c d q s word room remotes]
  dsimp only
  rw [if_neg (not_not.mpr ((canPublish_begun _ s).mpr free)), copy_source l c d q s srcs word (r := l) (by simp), if_pos off]

variable (still : Still s) (focused : Focused s) (range : c.toNat + 5 ≤ 56)
include still focused range

omit h a in
/-- The record of `cpg`, `cps` or `cpm` is read. -/
theorem copy_reads {bs : List Byte} (record : RecordAt s l 128 bs) : ∃ u,
    Onward (copyForm word l c d q) s u c [l, d, q] ∧
      issueCopy word kind join l c d q (begun (copyForm word l c d q) s) = checkCopy word kind join c d q bs u := by
  obtain ⟨aligned, pa, maps, cached⟩ := record
  obtain ⟨m, t, same, reads⟩ := readRecords_one (n := 128) (k := fun bs t => checkCopy word kind join c d q (bs.headD []) t)
    (s := begun (copyForm word l c d q) s) (by rw [begun_me]; exact still.walked) (mapped_begun _ maps) (cached_begun _ focused cached)
  refine ⟨_, onward_walked l c d q s srcs range word m same, ?_⟩
  rw [issueCopy_begun l c d q s word kind join room]
  dsimp only
  rw [if_neg (not_not.mpr ((canPublish_begun _ s).mpr free)), copy_source l c d q s srcs word (by simp), if_neg (not_not.mpr aligned), reads]
  rfl

omit h a in
/-- The two records of `cpx` are read. -/
theorem remote_reads (remotes : initiated s < 1024) {bs rs : List Byte} (record : RecordAt s l 128 bs) (target : RecordAt s d 64 rs) :
    ∃ u, Onward (copyForm word l c d q) s u c [l, d, q] ∧
      issueRemote l c d q (begun (copyForm word l c d q) s) = checkRemote c q bs rs u := by
  obtain ⟨aligned, pa, maps, cached⟩ := record
  obtain ⟨aligned', pb, maps', cached'⟩ := target
  obtain ⟨m, t, same, reads⟩ := readRecords_two (n := 128) (l := 64) (k := fun bs t => checkRemote c q (bs.headD []) (bs[1]?.getD []) t)
    (s := begun (copyForm word l c d q) s) (by rw [begun_me]; exact still.walked) (mapped_begun _ maps) (mapped_begun _ maps')
    (cached_begun _ focused cached) (cached_begun _ focused cached')
  refine ⟨_, onward_walked l c d q s srcs range word m same, ?_⟩
  rw [issueRemote_begun l c d q s word room remotes]
  dsimp only
  rw [if_neg (not_not.mpr ((canPublish_begun _ s).mpr free)), copy_source l c d q s srcs word (r := l) (by simp),
    copy_source l c d q s srcs word (r := d) (by simp), if_neg (not_not.mpr aligned), if_neg (not_not.mpr aligned'), reads]
  rfl

/-! ### The record's and the descriptor's rules (09 R183, R184; 22 R361) -/

variable {bs : List Byte} (record : RecordAt s l 128 bs)
include record

theorem copy_badRecord {v : Nat} (bad : (Layout.of bs).check bs (originOf s c) = some v) :
    CopyTraps [l, d, q] s (issue (copyForm word l c d q) (issueCopy word kind join l c d q) s) .format (BitVec.ofNat 64 v) 0 := by
  obtain ⟨u, on, reads⟩ := copy_reads l c d q s word kind join room free srcs still focused range record
  refine issue_traps_walked _ _ s h a rfl (reads.trans ?_) on.same
  rw [checkCopy, on.origin, bad]

variable (good : (Layout.of bs).check bs (originOf s c) = none)
include good

theorem copy_badDescriptor (bad : ¬ descriptorOk kind s.blk (src s d)) :
    CopyTraps [l, d, q] s (issue (copyForm word l c d q) (issueCopy word kind join l c d q) s) .illegal (word.setWidth 64) 0 := by
  obtain ⟨u, on, reads⟩ := copy_reads l c d q s word kind join room free srcs still focused range record
  refine issue_traps_walked _ _ s h a rfl (reads.trans ?_) on.same
  rw [checkCopy, on.origin, good, on.places.1, on.sources d (by simp)]
  exact if_pos (by rwa [← descBad_iff, Bool.not_eq_false] at bad)

variable {cw : Option Nat} (completion : WordAt s q cw)
include completion

theorem copy_forks (ok : descriptorOk kind s.blk (src s d)) (fits : descriptorFits s.blk (src s d) (Layout.of bs).span) :
    CopyForked s (issue (copyForm word l c d q) (issueCopy word kind join l c d q) s) kind join (Layout.of bs) (originOf s c)
      (namedSide (src s d)) cw := by
  obtain ⟨u, on, reads⟩ := copy_reads l c d q s word kind join room free srcs still focused range record
  refine issue_forks _ _ s h a rfl rfl rfl on.toAsAtStart (rem := []) (x := src s d) (reads.trans ?_)
  rw [checkCopy, on.origin, good, on.places.1, on.sources d (by simp), on.sources q (by simp)]
  dsimp only
  rw [if_neg (by rw [(descBad_iff _ _ _).mpr ok]; exact Bool.false_ne_true), windowChecks_fits on.places.1 fits,
    withWord_at on.places.1 completion]
  rfl

theorem remote_forks (remotes : initiated s < 1024) {rs : List Byte} (target : RecordAt s d 64 rs) (channel : recField rs 17 1 ≤ 63)
    (direction : recField rs 18 1 ≤ 1) (zero : recField rs 19 5 = 0) (zero' : recField rs 32 32 = 0) :
    CopyForked s (issue (copyForm word l c d q) (issueRemote l c d q) s) (.cpx (recField rs 18 1 == 1))
      (if recField rs 18 1 = 1 then 4 else 5) (Layout.of bs) (originOf s c) (.window 0) cw := by
  obtain ⟨u, on, reads⟩ := remote_reads l c d q s word room free srcs still focused range remotes record target
  have sound : remoteCheck rs = none := by
    simp [remoteCheck, zero, zero', Nat.not_lt.mpr channel, Nat.not_lt.mpr direction]
  refine issue_forks _ _ s h a rfl rfl rfl on.toAsAtStart (rem := rs) (x := 0) (reads.trans ?_)
  rw [checkRemote, on.origin, good, sound, on.sources q (by simp)]
  dsimp only [Option.or]
  rw [withWord_at on.places.1 completion]
  simp only [decide_eq_true_eq, beq_eq_decide]

end

/-! ### The four words -/

def copyCode (op : Nat) (l c d q : BitVec 6) : W32 := assemble op [(l.toNat, 18), (c.toNat, 12), (d.toNat, 6), (q.toNat, 0)]

section
variable (l c d q : BitVec 6) (s : State)

theorem exec_cpg : exec (.cpg l c d q) s =
    issue (copyForm (copyCode 0xD0000000 l c d q) l c d q) (issueCopy (copyCode 0xD0000000 l c d q) .cpg 1 l c d q) s := rfl
theorem exec_cps : exec (.cps l c d q) s =
    issue (copyForm (copyCode 0xD1000000 l c d q) l c d q) (issueCopy (copyCode 0xD1000000 l c d q) .cps 3 l c d q) s := rfl
theorem exec_cpm : exec (.cpm l c d q) s =
    issue (copyForm (copyCode 0xD2000000 l c d q) l c d q) (issueCopy (copyCode 0xD2000000 l c d q) .cpm 2 l c d q) s := rfl
theorem exec_cpx : exec (.cpx l c d q) s = issue (copyForm (copyCode 0xD3000000 l c d q) l c d q) (issueRemote l c d q) s := rfl

/-- What holds of the issue of each word holds of each word. -/
theorem forall_copyWords {P : Out → Prop}
    (copy : ∀ word kind join, P (issue (copyForm word l c d q) (issueCopy word kind join l c d q) s))
    (remote : ∀ word, P (issue (copyForm word l c d q) (issueRemote l c d q) s)) :
    ∀ i ∈ [Instr.cpg l c d q, .cps l c d q, .cpm l c d q, .cpx l c d q], P (exec i s) := by
  simp only [List.forall_mem_cons, exec_cpg, exec_cps, exec_cpm, exec_cpx]
  exact ⟨copy _ _ _, copy _ _ _, copy _ _ _, remote _, List.forall_mem_nil _⟩

/-- The same for the words with a descriptor. -/
theorem forall_describedCopies {P : Instr × CopyKind × BitVec 3 → Prop}
    (copy : ∀ i word kind join, exec i s = issue (copyForm word l c d q) (issueCopy word kind join l c d q) s → encode i = word → P (i, kind, join)) :
    ∀ p ∈ [(Instr.cpg l c d q, CopyKind.cpg, (1 : BitVec 3)), (.cps l c d q, .cps, 3), (.cpm l c d q, .cpm, 2)], P p := by
  simp only [List.forall_mem_cons]
  exact ⟨copy _ _ _ _ (exec_cpg l c d q s) rfl, copy _ _ _ _ (exec_cps l c d q s) rfl, copy _ _ _ _ (exec_cpm l c d q s) rfl,
    List.forall_mem_nil _⟩

end

/-- Settles O31: a copy that finds room, its strand's packets performed and its records cached is checked and forked. -/
theorem copyWords : Obligations.CopyWords := by
  intro l c d q s h still focused okl okd okq range
  have srcs : ∀ r ∈ [l, d, q], SrcOk s r := by simp [okl, okd, okq]
  have allowed (word : W32) := allowed_copyForm l c d q s srcs word range
  have held (busy : ∃ p ∈ s.core.packets, p.strand = s.me.id) : ¬ CanRelease 1 s := by
    obtain ⟨p, hp, mine⟩ := busy
    exact fun free => free p hp mine
  dsimp only
  refine ⟨fun full => ?_, fun full => remote_full l c d q s (copyCode 0xD3000000 l c d q) h (allowed _) (.inr (Nat.not_lt.mpr full)),
    fun room remotes busy => ?_, fun room remotes free off => ?_, fun bs cw room remotes free record completion => ⟨?_, ?_⟩⟩
  · exact forall_copyWords (P := fun o => Waits 10 o s) l c d q s (fun word kind join => copy_full l c d q s word kind join h (allowed word) (Nat.not_lt.mpr full))
      (fun word => remote_full l c d q s word h (allowed word) (.inl (Nat.not_lt.mpr full)))
  · exact forall_copyWords (P := fun o => Waits 4 o s) l c d q s (fun word kind join => copy_held l c d q s word kind join h (allowed word) room (held busy))
      (fun word => remote_held l c d q s word h (allowed word) room remotes (held busy))
  · exact forall_copyWords (P := fun o => CopyTraps [l, d, q] s o .misaligned 0 (src s l)) l c d q s
      (fun word kind join => copy_misaligned l c d q s word kind join h (allowed word) room free srcs off)
      (fun word => remote_misaligned l c d q s word h (allowed word) room free srcs remotes off)
  · refine forall_describedCopies l c d q s fun i word kind join runs code => ?_
    dsimp only
    rw [runs, code]
    exact ⟨fun v => copy_badRecord l c d q s word kind join h (allowed word) room free srcs still focused range record,
      copy_badDescriptor l c d q s word kind join h (allowed word) room free srcs still focused range record,
      fun good => copy_forks l c d q s word kind join h (allowed word) room free srcs still focused range record good completion⟩
  · intro rs target good channel direction zero zero'
    exact remote_forks l c d q s (copyCode 0xD3000000 l c d q) h (allowed _) room free srcs still focused range record good completion remotes
      target channel direction zero zero'

end Sys2Proof.Machine

namespace Sys2Proof.Machine

/-! ## The turns of the copy engine (07 R139, R146, 09 R185, R186) -/

section
variable {s : State} {c : CopyOp}

theorem buffered_undrained (undrained : Undrained s) (ev : Instr) (f : State → State) : s.buffered s.blk.core ev f = f s := by
  unfold State.buffered
  split
  next k draining => exact absurd draining (undrained k)
  · rfl

theorem mapCopy_copies (op : Nat) (f : CopyOp → CopyOp) (s : State) :
    (s.mapCopy op f).copies = s.copies.map (fun j => if j.id = op then f j else j) := by
  simp only [State.mapCopy, updIf, beq_iff_eq]

section
variable (turn : CopyTurn s c)
include turn

theorem CopyTurn.copy? : s.copy? c.id = some c := turn.named

theorem CopyTurn.block? : s.block? c.block = some s.blk := s.block?_blk _ turn.block.symm

theorem CopyTurn.copyCore : s.copyCore c.id = s.blk.core := by
  rw [State.copyCore, turn.copy?, ← turn.core]
  rfl

theorem CopyTurn.copyMoves : s.copyMoves c = true := by
  rw [State.copyMoves, turn.block?]
  simp [turn.open_.1, turn.runs]

theorem CopyTurn.copyHead : s.copyHead c = true := by
  have head := turn.head
  simp only [beq_eq_decide] at head
  simp only [State.copyHead, head, beq_self_eq_true, Bool.or_true]

end

/-- 09 R186: a copy of one position is not over while elements are left, it has no fault and nothing refused it. -/
theorem CopyOp.over_eq_false (sound : c.status = 0) (undecided : c.decided = []) (rest : c.next < c.lay.total) (single : c.kind ≠ .cpm) :
    c.over = false := by
  simp [CopyOp.over, sound, CopyOp.refused, undecided, CopyOp.places, single, Nat.not_le.mpr rest]

end

/-! ### The slot of a tray (07 R139, 09 R186) -/

section
variable {s : State} {c : CopyOp} {k : Nat} {y : Tray} (turn : CopyTurn s c) (kind : c.kind = .cpg) (side : c.side = .tray k)
  (unplaced : c.slot = none) (sound : c.status = 0) (undecided : c.decided = []) (rest : c.next < c.lay.total)
  (tray : s.blk.trays[k]? = some y) (agrees : c.conflict s.blk = none)
include turn kind side unplaced sound undecided rest tray agrees

/-- What is left of the turn is the choice by generation and by free slots. -/
theorem reserveTurn_eq : s.reserveTurn c.id =
    if c.gen.isSome ∧ c.gen ≠ some y.gen.toNat then (s.mapCopy c.id (fun c => { c with decided := [.refuse 3] })).dueOnce 0 (.copyComplete c.id)
    else if y.free = 0 then s.dueOnce acTicks (.trayReserve c.id)
    else ((s.mapBlock c.block (fun b => updTray b k (fun _ => y.reserve.2))).mapCopy c.id (fun c => { c with slot := some y.reserve.1 })).due acTicks
      (.copyChunkLand c.id) := by
  have needs : c.needsSlot = true := by simp [CopyOp.needsSlot, side, kind, unplaced]
  have unfinished := CopyOp.over_eq_false sound undecided rest (by simp [kind])
  unfold State.reserveTurn
  rw [turn.copy?]
  dsimp only
  rw [turn.block?, side]
  simp [turn.copyMoves, turn.settled, turn.copyHead, turn.open_.2, needs, unfinished, agrees, tray]

variable (log : s.graftLog = [])
include log

theorem happens_reserved (alone : ∀ b ∈ s.blocks, b.id ≠ s.blk.id) (current : c.gen = none ∨ c.gen = some y.gen.toNat) (room : y.free ≠ 0) :
    Happens (.trayReserve c.id) s (fun t =>
      t.blk = { s.blk with trays := s.blk.trays.set k { y with free := y.free - 1, res := y.res + 1, tail := (y.tail + 1) % y.nslot } } ∧
      t.copies = s.copies.map (fun j => if j.id = c.id then { j with slot := some y.tail } else j) ∧ t.me = s.me) := by
  have same : ¬ (c.gen.isSome = true ∧ c.gen ≠ some y.gen.toNat) := by rcases current with h | h <;> simp [h]
  have effect := reserveTurn_eq turn kind side unplaced sound undecided rest tray agrees
  rw [if_neg same, if_neg room, turn.block, s.mapBlock_blk_eq _ alone] at effect
  refine happens_of_effect rfl effect log ⟨?_, mapCopy_copies _ _ _, rfl⟩
  show updTray s.blk k (fun _ => y.reserve.2) = _
  rw [updTray, updAt_eq_set _ _ _ _ tray]
  rfl

theorem happens_refused (bound : c.gen ≠ none) (changed : c.gen ≠ some y.gen.toNat) : Happens (.trayReserve c.id) s (fun t =>
    t.blk = s.blk ∧ t.copies = s.copies.map (fun j => if j.id = c.id then { j with decided := [.refuse 3] } else j)) := by
  have effect := reserveTurn_eq turn kind side unplaced sound undecided rest tray agrees
  rw [if_pos ⟨Option.isSome_iff_ne_none.mpr bound, changed⟩] at effect
  refine happens_of_effect rfl effect (by simpa [State.mapCopy] using log) ⟨by simp [State.mapCopy], ?_⟩
  exact (State.dueOnce_copies _ _ _).trans (mapCopy_copies _ _ s)

end

end Sys2Proof.Machine

namespace Sys2Proof.Machine

/-! ### The completion of a copy (09 R185, R186) -/

section
variable (t : Strand)

@[simp] theorem woken_cp : t.woken.cp = t.cp := by unfold Strand.woken; split <;> rfl
@[simp] theorem woken_s : t.woken.s = t.s := by unfold Strand.woken; split <;> rfl
@[simp] theorem woken_pc : t.woken.pc = t.pc := by unfold Strand.woken; split <;> rfl

/-- What waking a strand leaves alone. -/
theorem wokenIf_keeps {α : Type} (g : Strand → α) (keeps : ∀ t, g (Strand.woken t) = g t) (c : Bool) : g (t.wokenIf c) = g t := by
  cases c with
  | false => rfl
  | true => exact keeps t

variable (op : Nat) (f : Option BatchFault)

theorem opDone_cp : (t.opDone op f).cp = opEnded op f t.cp := wokenIf_keeps _ Strand.cp woken_cp _
theorem opDone_s : (t.opDone op f).s = t.s := wokenIf_keeps _ Strand.s woken_s _
theorem opDone_pc : (t.opDone op f).pc = t.pc := wokenIf_keeps _ Strand.pc woken_pc _

end

/-- What the end of a copy at its receiver, whose barrier it does not update, leaves alone: it may land a slot of a tray, and wake strands. -/
structure SlotOnly (s t : State) : Prop where
  engine : t.copies = s.copies ∧ t.graftLog = s.graftLog
  strand : t.me.cp = s.me.cp ∧ t.me.s = s.me.s ∧ t.me.pc = s.me.pc
  block  : t.blk.id = s.blk.id ∧ t.blk.window = s.blk.window ∧ t.blk.eventOn = s.blk.eventOn ∧ t.blocks = s.blocks

theorem slotOnly_refl (s : State) : SlotOnly s s := ⟨⟨rfl, rfl⟩, ⟨rfl, rfl, rfl⟩, ⟨rfl, rfl, rfl, rfl⟩⟩

theorem slotOnly_landSlot {s : State} (alone : ∀ b ∈ s.blocks, b.id ≠ s.blk.id) (t k : Nat) : SlotOnly s (s.landSlot s.blk.id t k) := by
  unfold State.landSlot
  rw [s.mapBlock_blk_eq _ alone]
  refine ⟨⟨rfl, rfl⟩, ?_, rfl, rfl, rfl, rfl⟩
  unfold State.trayWoken State.wakeStrands State.mapStrands
  dsimp only
  split <;> simp

theorem slotOnly_endReceiver {s : State} {c : CopyOp} (alone : ∀ b ∈ s.blocks, b.id ≠ s.blk.id) (bare : c.bar = none) (k : Nat) :
    SlotOnly s (s.endReceiver c (s.blk.id, k)) := by
  unfold State.endReceiver
  rw [bare]
  dsimp only
  split
  · split
    · exact slotOnly_landSlot alone _ _
    · exact slotOnly_refl s
  · exact slotOnly_refl s

section
variable {c : CopyOp} (sound : c.status = 0) (undecided : c.decided = [])
include sound undecided

omit sound in
theorem CopyOp.refused_eq_false (single : c.kind ≠ .cpm) : c.refused = false := by
  simp [CopyOp.refused, undecided, CopyOp.places, single]

/-- 09 R185: the completion word of a copy without a fault. -/
theorem CopyOp.word_toNat (single : c.kind ≠ .cpm) (small : c.bytes < 2 ^ 35) : c.word.toNat = 2 ^ 63 + c.bytes / 8 := by
  have landed : Nat.min c.landedBytes (2 ^ 32 - 1) = c.bytes / 8 := by
    rw [CopyOp.landedBytes, CopyOp.refused_eq_false undecided single, if_neg Bool.false_ne_true]
    exact Nat.min_eq_left (by omega)
  have shown : c.statusShown = 0 := by simp [CopyOp.statusShown, undecided, sound]
  simp only [CopyOp.word, undecided, List.zipIdx_nil, List.filterMap_nil, List.foldl_nil, landed, shown, BitVec.toNat_ofNat]
  omega

omit undecided in
theorem CopyOp.fault_eq_none : c.fault = none := by simp [CopyOp.fault, sound]

end

/-- 09 R188: a copy that crosses no dies ends as its elements did. -/
theorem settleStatus_local {c : CopyOp} (kind : c.kind = .cps) (near : c.cross = false) (s : State) : s.settleStatus c = (c, s) := by
  simp [State.settleStatus, kind, near]

/-- The number that the bytes written last in the window stand for. -/
theorem windowNum_write {s : State} {off n x : Nat} {m : Memory} (rising : m.Rising) (fits : x < 256 ^ n)
    (window : s.blk.window = Memory.write m off (natBytes n x)) : windowNum s off n = x := by
  have bytes : (List.range n).map (fun k => Memory.get s.blk.window (off + k)) = natBytes n x := by
    apply List.ext_getElem (by simp)
    intro i hi _
    have inside : i < n := by simpa using hi
    rw [List.getElem_map, List.getElem_range, window, Memory.get_write_rising _ _ _ rising, natBytes_length, if_pos (by omega),
      Nat.add_sub_cancel_left, List.getElem?_eq_getElem (by simpa using inside), Option.getD_some]
  rw [windowNum, ← bytesNat_map_range, bytes, bytesNat_natBytes n x fits]

/-! ### The end of the engine's work on a copy -/

/-- 07 R147, 09 R185: a copy that leaves the engine. -/
theorem endCopy_eq {s : State} {c : CopyOp} (block : c.block = s.blk.id) (quiet : s.blk.eventOn = false) : s.endCopy c =
    State.checkBlock c.block { (s.count c.vd 0x05 c.landedBytes c.priv).opDone c.id c.fault with copies := s.copies.filter (fun k => k.id != c.id) } := by
  unfold State.endCopy State.recordCopy
  rw [s.block?_blk _ block.symm]
  dsimp only
  rw [if_neg (by rw [quiet]; exact Bool.false_ne_true)]
  rfl

/-- 09 R185: the completion word of a copy that names one. -/
def State.withCopyWord (c : CopyOp) (s : State) : State :=
  match c.cw with
  | some off => s.mapBlock c.block (Block.writeWindow off (natBytes 8 c.word.toNat))
  | none => s

theorem withCopyWord_none {c : CopyOp} (none : c.cw = none) (s : State) : s.withCopyWord c = s := by
  unfold State.withCopyWord
  rw [none]

theorem withCopyWord_some {c : CopyOp} {off : Nat} (some : c.cw = some off) {s : State} (block : s.blk.id = c.block)
    (alone : ∀ b ∈ s.blocks, b.id ≠ c.block) : s.withCopyWord c = s.mapBlk (Block.writeWindow off (natBytes 8 c.word.toNat)) := by
  unfold State.withCopyWord
  rw [some]
  exact mapBlock_focus s _ _ block alone

theorem withCopyWord_keeps {c : CopyOp} {s : State} (block : s.blk.id = c.block) (alone : ∀ b ∈ s.blocks, b.id ≠ c.block) :
    (s.withCopyWord c).copies = s.copies ∧ (s.withCopyWord c).graftLog = s.graftLog ∧ (s.withCopyWord c).me = s.me ∧
      (s.withCopyWord c).blk.id = s.blk.id ∧ (s.withCopyWord c).blk.eventOn = s.blk.eventOn := by
  cases word : c.cw with
  | none => rw [withCopyWord_none word]; exact ⟨rfl, rfl, rfl, rfl, rfl⟩
  | some off => rw [withCopyWord_some word block alone]; exact ⟨rfl, rfl, rfl, rfl, rfl⟩

section
variable {s : State} {c : CopyOp} (turn : CopyTurn s c) (kind : c.kind = .cps) (near : c.cross = false) (landed : c.lay.total ≤ c.next)
include turn kind near landed

/-- The turn of a `cps` whose elements have all landed. -/
theorem finishCopy_eq : s.finishCopy c.id = ((s.endReceiver c (c.block, 0)).withCopyWord c).endCopy c := by
  have ended : c.over = true := by simp [CopyOp.over, landed]
  have settles := settleStatus_local kind near s
  unfold State.finishCopy
  rw [turn.copy?]
  dsimp only
  rw [if_neg (by simp [turn.copyMoves, ended, kind, turn.open_.2]), if_neg (not_not.mpr turn.copyHead), settles]
  dsimp only
  rw [if_neg (by simp [kind]), if_pos kind]
  rfl

variable (log : s.graftLog = []) (alone : ∀ b ∈ s.blocks, b.id ≠ s.blk.id) (undrained : Undrained s) (sound : c.status = 0)
  (undecided : c.decided = []) (bare : c.bar = none) (small : c.bytes < 2 ^ 35) (quiet : s.blk.eventOn = false)
include log alone undrained sound undecided bare small quiet

theorem happens_completed : Happens (.copyComplete c.id) s (fun t =>
    t.copies = s.copies.filter (fun k => k.id != c.id) ∧ t.me.cp = opEnded c.id none s.me.cp ∧ t.me.s = s.me.s ∧ t.me.pc = s.me.pc ∧
    (∀ off, c.cw = some off → off % 8 = 0 → off + 8 ≤ s.blk.windowSize → (s.blk.window.map Prod.fst).Pairwise (· < ·) →
      windowNum t off 8 = 2 ^ 63 + c.bytes / 8)) := by
  have receives := slotOnly_endReceiver (c := c) alone bare 0
  rw [← turn.block] at receives
  obtain ⟨⟨copies, log'⟩, ⟨batches, regs, pc⟩, block, window, quiet', blocks⟩ := receives
  have effect := finishCopy_eq turn kind near landed
  generalize s.endReceiver c (c.block, 0) = r at *
  rw [← turn.block] at block
  have alone' : ∀ b ∈ r.blocks, b.id ≠ c.block := by rw [blocks, turn.block]; exact alone
  obtain ⟨wcopies, wlog, wme, wid, wquiet⟩ := withCopyWord_keeps block alone'
  rw [endCopy_eq (block.symm.trans wid.symm) (wquiet.trans (quiet'.trans quiet)), CopyOp.fault_eq_none sound] at effect
  have step : s.buffered (s.copyCore c.id) (.copyComplete c.id) (State.finishCopy c.id) = s.finishCopy c.id := by
    rw [turn.copyCore, buffered_undrained undrained]
  refine happens_of_effect rfl (step.trans effect) ?_ ⟨?_, ?_, ?_, ?_, ?_⟩
  · simp [State.opDone, State.count, wlog, log', log]
  · simp [wcopies, copies]
  · simp [State.opDone, State.mapStrands, opDone_cp, wme, batches]
  · simp [State.opDone, State.mapStrands, opDone_s, wme, regs]
  · simp [State.opDone, State.mapStrands, opDone_pc, wme, pc]
  · intro off word _ _ rising
    refine windowNum_write (m := s.blk.window) rising (by omega) ?_
    rw [← CopyOp.word_toNat sound undecided (by simp [kind]) small, ← window]
    simp [State.opDone, State.count, withCopyWord_some word block alone', Block.writeWindow]

end

end Sys2Proof.Machine

namespace Sys2Proof.Machine

/-! ## A chunk that the engine reads (07 R146, 09 R186, R188) -/

/-! ### Its translations -/

/-- The bytes of an element stand where their translations lead, none on a RAW page. -/
def LedTo (ps : List (W64 × Nat)) (l : List (W64 × UnitPa)) : Prop := l.map (fun e => (e.1, e.2.pa, e.2.raw)) = ps.map (fun p => (p.1, p.2, false))

theorem LedTo.mem {ps : List (W64 × Nat)} {l : List (W64 × UnitPa)} (led : LedTo ps l) {e : W64 × UnitPa} (he : e ∈ l) :
    (e.1, e.2.pa) ∈ ps ∧ e.2.raw = false := by
  have listed : (e.1, e.2.pa, e.2.raw) ∈ ps.map (fun p => (p.1, p.2, false)) := led ▸ List.mem_map_of_mem he
  obtain ⟨p, hp, same⟩ := List.mem_map.mp listed
  obtain ⟨va, pa, raw⟩ : p.1 = e.1 ∧ p.2 = e.2.pa ∧ false = e.2.raw := by simpa using same
  exact ⟨by rwa [← va, ← pa], raw.symm⟩

theorem LedTo.pas {ps : List (W64 × Nat)} {l : List (W64 × UnitPa)} (led : LedTo ps l) : l.map (fun e => e.2.pa) = ps.map Prod.snd := by
  simpa [Function.comp_def] using congrArg (List.map (fun x => x.2.1)) led

section
variable {c : CopyOp} {acc : Acc} {s : State}

theorem reach_held {va : W64} {pa : Nat} (maps : TlbMaps s c.core c.vd c.priv acc va pa) : ∃ (u : UnitPa) (t : State),
    s.reach c acc va = (.ok va u, t) ∧ u.pa = pa ∧ u.raw = false ∧ t.rested = s.rested := by
  obtain ⟨e, t, translates, raw, leads, same⟩ := maps.translate
  refine ⟨{ unit := 0, pa := e.addr va.toNat, raw := e.raw, discard := e.discard }, t, ?_, leads, raw, same⟩
  unfold State.reach
  rw [translates]

theorem reachAll_held (ps : List (W64 × Nat)) (s : State) (held : ∀ p ∈ ps, TlbMaps s c.core c.vd c.priv acc p.1 p.2) :
    ∃ (l : List (W64 × UnitPa)) (t : State), s.reachAll c acc (ps.map Prod.fst) = (.ok l, t) ∧ LedTo ps l ∧ t.rested = s.rested := by
  induction ps generalizing s with
  | nil => exact ⟨[], s, rfl, rfl, rfl⟩
  | cons p ps ih =>
    obtain ⟨u, t, reaches, leads, raw, same⟩ := reach_held (held p (List.mem_cons_self ..))
    obtain ⟨l, v, rest, led, same'⟩ := ih t (fun q hq => (held q (List.mem_cons_of_mem _ hq)).congr same)
    refine ⟨(p.1, u) :: l, v, ?_, ?_, same'.trans same⟩
    · rw [List.map_cons, State.reachAll, reaches]
      simp only [rest]
    · unfold LedTo at led ⊢
      rw [List.map_cons, List.map_cons, led, leads, raw]

/-- Elements whose bytes the core's TLB leads to their addresses are all there. -/
theorem gather_held (needs : Nat → List W64) (ps : Nat → List (W64 × Nat)) (ns : List Nat) (s : State)
    (named : ∀ n ∈ ns, needs n = (ps n).map Prod.fst) (held : ∀ n ∈ ns, ∀ p ∈ ps n, TlbMaps s c.core c.vd c.priv acc p.1 p.2) :
    ∃ (got : List (Nat × List (W64 × UnitPa))) (t : State), s.gather c acc needs ns = (got, none, t) ∧ got.map Prod.fst = ns ∧
      (∀ g ∈ got, LedTo (ps g.1) g.2) ∧ t.rested = s.rested := by
  induction ns generalizing s with
  | nil => exact ⟨[], s, rfl, rfl, by simp, rfl⟩
  | cons n ns ih =>
    obtain ⟨l, t, reaches, led, same⟩ := reachAll_held (ps n) s (held n (List.mem_cons_self ..))
    obtain ⟨got, v, rest, names, leds, same'⟩ := ih t (fun k hk => named k (List.mem_cons_of_mem _ hk))
      (fun k hk p hp => (held k (List.mem_cons_of_mem _ hk) p hp).congr same)
    refine ⟨(n, l) :: got, v, ?_, by rw [List.map_cons, names], ?_, same'.trans same⟩
    · rw [State.gather, named n (List.mem_cons_self ..), reaches]
      simp only [rest]
    · intro g hg
      rcases List.mem_cons.mp hg with rfl | hg
      · exact led
      · exact leds g hg

end

/-! ### Its bytes in near store (13 R236) -/

/-- A state without what a read of near store changes: translations, links, counts and free values. -/
def State.uncounted (s : State) : State := { s.untranslated with vds := [] }

theorem uncounted_of_untranslated {s t : State} (same : t.untranslated = s.untranslated) : t.uncounted = s.uncounted :=
  congrArg (fun v => ({ v with vds := [] } : State)) same

theorem uncounted_of_rested {s t : State} (same : t.rested = s.rested) : t.uncounted = s.uncounted :=
  by rw [eq_of_rested same]; rfl

section
variable {c : CopyOp} {sectors : List Nat}

/-- Lines of near store stand in no slice. -/
theorem readHomeLine_near (lines : List Nat) (near : ∀ l ∈ lines, isDram (l * 256) = false) (p : List SliceLine × State) :
    ∃ held t, lines.foldl (State.readHomeLine c sectors) p = (held, t) ∧ t.uncounted = p.2.uncounted := by
  induction lines generalizing p with
  | nil => exact ⟨p.1, p.2, rfl, rfl⟩
  | cons l ls ih =>
    have far : isDram (l * 256) = false := near l (List.mem_cons_self ..)
    obtain ⟨held, t, folds, same⟩ := ih (fun k hk => near k (List.mem_cons_of_mem _ hk)) (State.readHomeLine c sectors p l)
    refine ⟨held, t, folds, same.trans ?_⟩
    unfold State.readHomeLine State.homeFetch
    simp only [far, Bool.false_eq_true, if_false]
    rfl

end

/-- A byte of an element as a read of its home finds it: the lines as they stood when each request was served, RAW pages as they are stored. -/
def homeRead (view raw : State) (l : List (W64 × UnitPa)) (va : W64) : Byte :=
  match l.find? (fun e => decide (e.1 = va)) with
  | some e => if e.2.raw then raw.rawByte e.2.pa else view.homeByte e.2.pa
  | none => 0

def homeBad (view raw : State) (u : UnitPa) : Bool :=
  if u.raw then raw.poison.contains (u.pa / 64) else view.homePoison u.pa || view.homeMark u.pa

/-- An element on its way; one with a bad byte is undefined (09 R188). -/
def movedFrom (c : CopyOp) (view raw : State) (g : Nat × List (W64 × UnitPa)) : Moved :=
  if g.2.any (fun e => homeBad view raw e.2) then
    { n := g.1, code := freeCode raw.free g.1, scale := (c.convertRead (homeRead view raw g.2) g.1).2.map (fun _ => freeCode raw.free g.1 % 256), good := false }
  else { n := g.1, code := (c.convertRead (homeRead view raw g.2) g.1).1, scale := (c.convertRead (homeRead view raw g.2) g.1).2, good := true }

/-- The units of a chunk, and the sectors of those on no RAW page. -/
def chunkUnits (got : List (Nat × List (W64 × UnitPa))) : List UnitPa := got.flatMap (fun g => g.2.map (·.2))
def chunkSectors (got : List (Nat × List (W64 × UnitPa))) : List Nat :=
  ((chunkUnits got).filter (fun u => !u.raw)).foldl (fun l u => setInsert l (u.pa / 64)) []

theorem readElements_eq (c : CopyOp) (got : List (Nat × List (W64 × UnitPa))) (s : State) : s.readElements c got =
    let p := (linesOfSectors (chunkSectors got)).foldl (State.readHomeLine c (chunkSectors got)) ([], s)
    let view : State := { p.2 with slices := p.1 }
    let raw := p.2.rawReady (chunkUnits got)
    (got.map (movedFrom c view raw), ((got.flatMap (·.2)).find? (fun e => homeBad view raw e.2)).map (fun e => raw.badBlock e.1 e.2),
      { raw with free := raw.free + 1 }) := rfl

/-- The bytes of an element whose translations lead to near store. -/
def State.nearBytes (s : State) (l : List (W64 × UnitPa)) (va : W64) : Byte :=
  match l.find? (fun e => decide (e.1 = va)) with
  | some e => Memory.get s.dram e.2.pa
  | none => 0

/-- A byte of near store, on no RAW page, in a sector without poison. -/
structure NearUnit (s : State) (u : UnitPa) : Prop where
  raw   : u.raw = false
  near  : nearBase ≤ u.pa
  sound : u.pa / 64 ∉ s.poison

section
variable {s view raw : State} (poison : view.poison = s.poison)

theorem isDram_nearUnit {u : UnitPa} (h : NearUnit s u) : isDram u.pa = false := decide_eq_false (Nat.not_lt.mpr h.near)

include poison

theorem homeBad_near {u : UnitPa} (h : NearUnit s u) : homeBad view raw u = false := by
  simpa [homeBad, h.raw, State.homePoison, State.homeMark, isDram_nearUnit h, poison] using h.sound

variable (dram : view.dram = s.dram)
include dram

omit poison in
theorem homeRead_near {l : List (W64 × UnitPa)} (near : ∀ e ∈ l, NearUnit s e.2) : homeRead view raw l = s.nearBytes l := by
  funext va
  unfold homeRead State.nearBytes
  cases found : l.find? (fun e => decide (e.1 = va)) with
  | none => rfl
  | some e =>
    have unit := near e (List.mem_of_find?_eq_some found)
    simp [unit.raw, State.homeByte, isDram_nearUnit unit, dram]

theorem movedFrom_near (c : CopyOp) {g : Nat × List (W64 × UnitPa)} (near : ∀ e ∈ g.2, NearUnit s e.2) : movedFrom c view raw g =
    { n := g.1, code := (c.convertRead (s.nearBytes g.2) g.1).1, scale := (c.convertRead (s.nearBytes g.2) g.1).2, good := true } := by
  have sound : g.2.any (fun e => homeBad view raw e.2) = false :=
    List.any_eq_false.mpr fun e he => by rw [homeBad_near poison (near e he)]; exact Bool.false_ne_true
  rw [movedFrom, sound, homeRead_near dram near]
  rfl

end

/-- 09 R186, R187: elements read from near store. -/
theorem readElements_near {c : CopyOp} {got : List (Nat × List (W64 × UnitPa))} {s : State} (near : ∀ g ∈ got, ∀ e ∈ g.2, NearUnit s e.2) :
    ∃ t, t.uncounted = s.uncounted ∧ s.readElements c got = (got.map (fun g =>
      { n := g.1, code := (c.convertRead (s.nearBytes g.2) g.1).1, scale := (c.convertRead (s.nearBytes g.2) g.1).2, good := true : Moved }), none, t) := by
  have units : ∀ u ∈ chunkUnits got, NearUnit s u := by
    intro u hu
    obtain ⟨g, hg, listed⟩ := List.mem_flatMap.mp hu
    obtain ⟨e, he, rfl⟩ := List.mem_map.mp listed
    exact near g hg e he
  have plain (v : State) : v.rawReady (chunkUnits got) = v := by
    unfold State.rawReady
    rw [List.filter_eq_nil_iff.mpr (fun u hu => by rw [(units u hu).raw]; exact Bool.false_ne_true)]
    rfl
  have far (l : Nat) (hl : l ∈ linesOfSectors (chunkSectors got)) : isDram (l * 256) = false := by
    rw [linesOfSectors, mem_foldl_setInsert] at hl
    obtain ⟨sector, hs, rfl⟩ := hl.resolve_left (List.not_mem_nil)
    rw [chunkSectors, mem_foldl_setInsert] at hs
    obtain ⟨u, hu, rfl⟩ := hs.resolve_left (List.not_mem_nil)
    have above := (units u (List.mem_of_mem_filter hu)).near
    unfold isDram nearBase at *
    exact decide_eq_false (by omega)
  obtain ⟨held, t, folds, same⟩ := readHomeLine_near (c := c) (sectors := chunkSectors got) _ far ([], s)
  have dram : t.dram = s.dram := (congrArg State.dram same :)
  have poison : t.poison = s.poison := (congrArg State.poison same :)
  refine ⟨{ t with free := t.free + 1 }, same, ?_⟩
  rw [readElements_eq]
  simp only [folds, plain]
  refine Prod.ext (List.map_congr_left fun g hg => ?_) (Prod.ext ?_ rfl)
  · exact movedFrom_near (view := { t with slices := held }) poison dram c (near g hg)
  · refine Option.map_eq_none_iff.mpr (List.find?_eq_none.mpr fun e he => ?_)
    obtain ⟨g, hg, listed⟩ := List.mem_flatMap.mp he
    rw [Bool.not_eq_true]
    exact homeBad_near (view := { t with slices := held }) poison (near g hg e listed)

end Sys2Proof.Machine

namespace Sys2Proof.Machine

/-! ### A copy of 32-bit elements of one dimension (09 R182, R183) -/

/-- Dimensions in which an element's coordinate is 0 add nothing to its address. -/
theorem foldl_zeroCoords (xs : List Int) (ws : List W64) (acc : W64) (zeros : ∀ x ∈ xs, x = 0) :
    (List.zipWith (fun (k : Int) (w : W64) => BitVec.ofInt 64 k * w) xs ws).foldl (fun a b => a + b) acc = acc := by
  induction xs generalizing ws with
  | nil => simp
  | cons x xs ih =>
    cases ws with
    | nil => simp
    | cons w ws =>
      have rest := ih ws (fun y hy => zeros y (List.mem_cons_of_mem _ hy))
      simpa [zeros x (List.mem_cons_self ..)] using rest

namespace PlainCopy

/-- The bytes of element k: where they are, and where their translations lead. -/
def bytes (c : CopyOp) (o pa k : Nat) : List (W64 × Nat) :=
  (List.range 4).map (fun j => (c.lay.base + BitVec.ofNat 64 (4 * o + (4 * k + j)), pa + (4 * k + j)))

variable {s : State} {c : CopyOp} {n o off : Nat} (p : PlainCopy s c n o off)
include p

theorem bits : c.lay.gBits = 32 ∧ c.lay.cBits = 32 := by
  obtain ⟨same, width | width, _⟩ := p.types
  · simp [Layout.gBits, Layout.cBits, ← same, width, containerBits, operandClass]
  · simp [Layout.gBits, Layout.cBits, ← same, width, containerBits, operandClass]

theorem total : c.lay.total = n := by simp [Layout.total, p.shape.1]

theorem unscaled : c.gScaled = false ∧ c.cScaled = false := by simp [CopyOp.gScaled, CopyOp.cScaled, p.types.2.2]

theorem plain : c.plain = true := by
  obtain ⟨same, width, _⟩ := p.types
  have wide : c.lay.ctype ≠ 0 := by rw [← same]; omega
  simp [CopyOp.plain, same, wide, p.unscaled]

section
variable {k : Nat} (hk : k < n)
include hk

theorem index : c.index k = [k, 0, 0, 0, 0] := by
  simp [CopyOp.index, p.shape.1, boxIndex, Nat.mod_eq_of_lt hk, Nat.div_eq_of_lt hk]

theorem coord : c.coord k = [(o : Int) + k, 0, 0, 0, 0] := by
  simp [CopyOp.coord, p.index hk, p.shape.2.2]

theorem inside : c.inside k = true := by
  obtain ⟨e, fits, ext⟩ := p.shape.2.1
  simp [CopyOp.inside, insideExt, p.coord hk, ext]
  omega

theorem coreBit : c.coreBit k = 32 * k := by
  simp [CopyOp.coreBit, CopyOp.unitSide, p.side, p.index hk, p.bits.2]
  omega

theorem globalVa : c.globalVa k = c.lay.base + BitVec.ofNat 64 (4 * o + 4 * k) := by
  have first : BitVec.ofInt 64 (((o : Int) + k) * (32 : Nat) / 8) = BitVec.ofNat 64 (4 * o + 4 * k) := by
    rw [show ((o : Int) + k) * (32 : Nat) / 8 = ((4 * o + 4 * k : Nat) : Int) by omega, BitVec.ofInt_natCast]
  have rest := foldl_zeroCoords [0, 0, 0, 0] c.lay.stride 0 (by simp)
  unfold CopyOp.globalVa
  simp only [p.coord hk, List.tail_cons, List.headD_cons, rest, p.bits.1, first]
  exact BitVec.add_zero _

theorem globalBytes : c.globalBytes k = (List.range 4).map (fun j => c.lay.base + BitVec.ofNat 64 (4 * o + (4 * k + j))) := by
  unfold CopyOp.globalBytes
  rw [p.globalVa hk, p.bits.1]
  refine List.map_congr_left fun j _ => ?_
  rw [BitVec.add_assoc, BitVec.ofNat_add_ofNat, Nat.add_assoc]

theorem readNeeds (pa : Nat) : c.readNeeds k = (PlainCopy.bytes c o pa k).map Prod.fst := by
  have scale : c.scaleVa k = none := by simp [CopyOp.scaleVa, p.unscaled.1]
  simp [CopyOp.readNeeds, p.inside hk, p.unscaled.2, scale, p.globalBytes hk, PlainCopy.bytes]

/-- 09 R187: an element without conversion is taken as its bytes stand. -/
theorem convertRead (byte : W64 → Byte) : c.convertRead byte k = (bytesNat ((c.globalBytes k).map byte), none) := by
  simp [CopyOp.convertRead, p.unscaled.2, p.plain, p.inside hk, CopyOp.globalCode, p.bits.1]

end

/-- 07 R146: the box is one chunk. -/
theorem chunk (start : c.next = 0) (here : c.remoteEnd = none) : c.chunk = List.range n := by
  have small : Nat.min (32768 / 32) (n - 0) = n := Nat.min_eq_right (by have := p.size.2; omega)
  simp only [CopyOp.chunk, here, p.total, p.bits.2, start, small, Nat.zero_add, List.map_id']

theorem receivers : c.receivers = [(c.block, c.slot.getD 0)] := by simp [CopyOp.receivers, p.kind]

/-- Elements land one behind the other. -/
theorem landIn (slot : Nat) (es : List Moved) (b : Block) (named : ∀ e ∈ es, e.n < n) :
    (c.landIn slot es b).window = es.foldl (fun m e => Memory.write m (off + 4 * e.n) (natBytes 4 e.code)) b.window := by
  unfold CopyOp.landIn
  rw [p.side]
  refine List.foldl_ext _ _ _ fun m e he => ?_
  rw [p.coreBit (named e he), p.bits.2, putBits, if_neg (by decide), show (8 * off + 32 * e.n) / 8 = off + 4 * e.n by omega]

end PlainCopy

/-! ### Where the bytes land (09 R186) -/

theorem nearBytes_led {s : State} {ps : List (W64 × Nat)} {l : List (W64 × UnitPa)} (led : LedTo ps l) {va : W64} {pa : Nat}
    (there : (va, pa) ∈ ps) (only : ∀ q ∈ ps, q.1 = va → q.2 = pa) : s.nearBytes l va = Memory.get s.dram pa := by
  unfold State.nearBytes
  cases found : l.find? (fun e => decide (e.1 = va)) with
  | none =>
    have listed : (va, pa, false) ∈ l.map (fun e => (e.1, e.2.pa, e.2.raw)) := led ▸ List.mem_map_of_mem (f := fun p => (p.1, p.2, false)) there
    obtain ⟨e, he, same⟩ := List.mem_map.mp listed
    exact absurd (congrArg Prod.fst same) (by simpa using List.find?_eq_none.mp found e he)
  | some e =>
    have here : e.1 = va := by simpa using List.find?_some found
    exact congrArg (Memory.get s.dram) (only _ (led.mem (List.mem_of_find?_eq_some found)).1 here)

/-- Rows of four bytes written one behind the other. -/
theorem get_writeRows (w d : Memory) (rising : w.Rising) (off pa n x : Nat) :
    let rows := (List.range n).foldl (fun m k => Memory.write m (off + 4 * k) ((List.range 4).map (fun j => Memory.get d (pa + (4 * k + j))))) w
    rows.Rising ∧ rows.get x = if off ≤ x ∧ x < off + 4 * n then Memory.get d (pa + (x - off)) else w.get x := by
  induction n with
  | zero => exact ⟨rising, (if_neg (by omega)).symm⟩
  | succ n ih =>
    obtain ⟨rises, gets⟩ := ih
    simp only [List.range_succ (n := n), List.foldl_append, List.foldl_cons, List.foldl_nil]
    refine ⟨Memory.rising_write _ _ rises, ?_⟩
    rw [Memory.get_write_rising _ _ _ rises, gets, List.length_map, List.length_range]
    by_cases last : off + 4 * n ≤ x ∧ x < off + 4 * n + 4
    · obtain ⟨j, rfl⟩ : ∃ j, x = off + 4 * n + j := ⟨x - (off + 4 * n), by omega⟩
      have inside : j < 4 := by omega
      rw [if_pos last, if_pos (by omega), Nat.add_sub_cancel_left, show off + 4 * n + j - off = 4 * n + j by omega]
      simp [List.getElem?_range inside]
    · rw [if_neg last]
      by_cases before : off ≤ x ∧ x < off + 4 * n
      · rw [if_pos before, if_pos (by omega)]
      · rw [if_neg before, if_neg (by omega)]

end Sys2Proof.Machine

namespace Sys2Proof.Machine

theorem natBytes_bytesNat (bs : List Byte) : natBytes bs.length (bytesNat bs) = bs := by
  induction bs with
  | nil => rfl
  | cons b r ih =>
    have first : BitVec.ofNat 8 (b.toNat + 256 * bytesNat r) = b := by
      apply BitVec.eq_of_toNat_eq
      rw [BitVec.toNat_ofNat]
      have := b.isLt
      omega
    have rest : (b.toNat + 256 * bytesNat r) / 256 = bytesNat r := by
      have := b.isLt
      omega
    simp only [List.length_cons, bytesNat, natBytes, first, rest, ih]

theorem mapCoreOf_keeps {α : Type} (g : State → α) (core : ∀ s x, g { s with core := x } = g s) (cores : ∀ s l, g { s with cores := l } = g s)
    (id : Nat) (f : Core → Core) (s : State) : g (s.mapCoreOf id f) = g s := by
  unfold State.mapCoreOf
  (repeat' split)
  · exact core s _
  · exact cores s _
  · exact cores s _

/-! ### A chunk in near store (07 R146, 09 R186; 13 R236) -/

/-- What the statement of a plain copy says of its global side: near store, without poison, translated by the core's TLB byte by byte. -/
structure NearSource (s : State) (c : CopyOp) (n o pa : Nat) : Prop where
  near  : nearBase ≤ pa
  sound : ∀ k < 4 * n, (pa + k) / 64 ∉ s.poison
  held  : s.heldBack c.core ((List.range (4 * n)).map (pa + ·)) = false
  maps  : ∀ k < 4 * n, TlbMaps s c.core c.vd c.priv .read (c.lay.base + BitVec.ofNat 64 (4 * o + k)) (pa + k)

section
variable {s : State} {c : CopyOp} {n o off pa : Nat} (p : PlainCopy s c n o off) (source : NearSource s c n o pa)

theorem mem_bytes {k : Nat} {q : W64 × Nat} (hq : q ∈ PlainCopy.bytes c o pa k) :
    ∃ j < 4, q = (c.lay.base + BitVec.ofNat 64 (4 * o + (4 * k + j)), pa + (4 * k + j)) := by
  obtain ⟨j, hj, rfl⟩ := List.mem_map.mp hq
  exact ⟨j, List.mem_range.mp hj, rfl⟩

/-- The bytes of an element stand at addresses of their own. -/
theorem bytes_distinct {k j : Nat} (hj : j < 4) {q : W64 × Nat} (hq : q ∈ PlainCopy.bytes c o pa k)
    (same : q.1 = c.lay.base + BitVec.ofNat 64 (4 * o + (4 * k + j))) : q.2 = pa + (4 * k + j) := by
  obtain ⟨i, hi, rfl⟩ := mem_bytes hq
  have offs := congrArg BitVec.toNat (BitVec.add_right_inj _ |>.mp same)
  simp only [BitVec.toNat_ofNat] at offs
  have : i = j := by omega
  rw [this]

/-- The physical addresses of the chunk, byte by byte. -/
theorem flatMap_rows (n : Nat) : (List.range n).flatMap (fun k => (List.range 4).map (fun j => pa + (4 * k + j))) = (List.range (4 * n)).map (pa + ·) := by
  induction n with
  | zero => rfl
  | succ n ih =>
    rw [List.range_succ (n := n), List.flatMap_append, ih, Nat.mul_succ, List.range_add, List.map_append]
    simp [Function.comp_def]

/-- The elements that a chunk of the plain copy gathers. -/
structure Gathered (c : CopyOp) (n o pa : Nat) (got : List (Nat × List (W64 × UnitPa))) : Prop where
  names : got.map Prod.fst = List.range n
  led   : ∀ g ∈ got, LedTo (PlainCopy.bytes c o pa g.1) g.2

namespace Gathered

variable {got : List (Nat × List (W64 × UnitPa))} (gathered : Gathered c n o pa got)
include gathered

theorem lt {g : Nat × List (W64 × UnitPa)} (hg : g ∈ got) : g.1 < n :=
  List.mem_range.mp (gathered.names ▸ List.mem_map_of_mem hg)

theorem chunkPas : chunkPas got = (List.range (4 * n)).map (pa + ·) := by
  have rows : ∀ g ∈ got, g.2.map (fun e => e.2.pa) = (fun k => (List.range 4).map (fun j => pa + (4 * k + j))) g.1 := by
    intro g hg
    rw [(gathered.led g hg).pas, PlainCopy.bytes]
    simp [Function.comp_def]
  rw [Machine.chunkPas, List.flatMap_congr rows, ← flatMap_rows, ← gathered.names, List.flatMap_map]

theorem units (near : nearBase ≤ pa) (sound : ∀ k < 4 * n, (pa + k) / 64 ∉ s.poison) : ∀ g ∈ got, ∀ e ∈ g.2, NearUnit s e.2 := by
  intro g hg e he
  obtain ⟨listed, raw⟩ := (gathered.led g hg).mem he
  obtain ⟨j, hj, same⟩ := mem_bytes listed
  have place : e.2.pa = pa + (4 * g.1 + j) := congrArg Prod.snd same
  have inside := gathered.lt hg
  exact ⟨raw, by omega, by rw [place]; exact sound _ (by omega)⟩

include p

/-- The bytes that land for an element. -/
theorem landed {g : Nat × List (W64 × UnitPa)} (hg : g ∈ got) :
    natBytes 4 (c.convertRead (s.nearBytes g.2) g.1).1 = (List.range 4).map (fun j => Memory.get s.dram (pa + (4 * g.1 + j))) := by
  have bytes : (c.globalBytes g.1).map (s.nearBytes g.2) = (List.range 4).map (fun j => Memory.get s.dram (pa + (4 * g.1 + j))) := by
    rw [p.globalBytes (gathered.lt hg), List.map_map]
    refine List.map_congr_left fun j hj => ?_
    exact nearBytes_led (gathered.led g hg) (List.mem_map_of_mem hj) fun q hq same => bytes_distinct (List.mem_range.mp hj) hq same
  rw [p.convertRead (gathered.lt hg), bytes]
  exact natBytes_bytesNat ((List.range 4).map (fun j => Memory.get s.dram (pa + (4 * g.1 + j))))

end Gathered

end

/-- The elements of the box, as they land. -/
def landedElements (c : CopyOp) (s : State) (got : List (Nat × List (W64 × UnitPa))) : List Moved :=
  got.map (fun g => { n := g.1, code := (c.convertRead (s.nearBytes g.2) g.1).1, scale := (c.convertRead (s.nearBytes g.2) g.1).2, good := true })

/-- The window after the box has landed: its rows of four bytes, one behind the other. -/
theorem Gathered.window {s : State} {c : CopyOp} {n o off pa : Nat} {got : List (Nat × List (W64 × UnitPa))} (gathered : Gathered c n o pa got)
    (p : PlainCopy s c n o off) (slot : Nat) (b : Block) : (c.landIn slot (landedElements c s got) b).window =
      (List.range n).foldl (fun m k => Memory.write m (off + 4 * k) ((List.range 4).map (fun j => Memory.get s.dram (pa + (4 * k + j))))) b.window := by
  have named : ∀ e ∈ landedElements c s got, e.n < n := List.forall_mem_map.mpr fun g hg => gathered.lt hg
  rw [p.landIn slot _ b named, landedElements, List.foldl_map, ← gathered.names, List.foldl_map]
  exact List.foldl_ext _ _ _ fun m g hg => by rw [gathered.landed p hg]

/-! ### The turn of the copy (07 R146) -/

section
variable {s : State} {c : CopyOp} {n o off pa : Nat} (p : PlainCopy s c n o off) (source : NearSource s c n o pa)
include p source

/-- The engine gathers the whole box. -/
theorem gather_plain (start : c.next = 0) (here : c.remoteEnd = none) : ∃ got t, s.gather c .read c.readNeeds c.chunk = (got, none, t) ∧
    Gathered c n o pa got ∧ t.rested = s.rested := by
  rw [p.chunk start here]
  obtain ⟨got, t, gathers, names, led, same⟩ := gather_held (c := c) (acc := .read) c.readNeeds (PlainCopy.bytes c o pa) (List.range n) s
    (fun k hk => p.readNeeds (List.mem_range.mp hk) pa) (fun k hk q hq => by
      obtain ⟨j, hj, rfl⟩ := mem_bytes hq
      exact source.maps _ (by have := List.mem_range.mp hk; omega))
  exact ⟨got, t, gathers, ⟨names, led⟩, same⟩

omit source in
/-- The elements of a box land in its copy's block. -/
theorem landChunk_plain {u v : State} (focus : v.blk.id = c.block) (alone : ∀ b ∈ v.blocks, b.id ≠ c.block)
    {got : List (Nat × List (W64 × UnitPa))} (reads : u.readElements c got = (landedElements c u got, none, v)) : u.landChunk c got none =
      (v.mapBlk (c.landIn (c.slot.getD 0) (landedElements c u got))).mapCopy c.id
        (CopyOp.advance got.length (got.length * 32) none none (crosses c.core (got.flatMap (·.2)))) := by
  have good : (landedElements c u got).filter Moved.good = landedElements c u got :=
    List.filter_eq_self.mpr (List.forall_mem_map.mpr fun _ _ => rfl)
  have count : (landedElements c u got).length = got.length := List.length_map ..
  have lands : v.landCore c (landedElements c u got) = v.mapBlk (c.landIn (c.slot.getD 0) (landedElements c u got)) := by
    rw [State.landCore, p.receivers]
    exact mapBlock_focus v _ _ focus alone
  simp only [State.landChunk, reads, p.kind, good, count, lands, p.bits.2]

/-- 07 R146, 09 R186: the box is read, and lands in the block. -/
theorem readChunk_plain (focus : c.block = s.blk.id) (alone : ∀ b ∈ s.blocks, b.id ≠ s.blk.id) (start : c.next = 0) (here : c.remoteEnd = none) :
    ∃ (got : List (Nat × List (W64 × UnitPa))) (t : State) (cross : Bool), Gathered c n o pa got ∧ t.uncounted = s.uncounted ∧
      s.readChunk c = (t.mapBlk (c.landIn (c.slot.getD 0) (landedElements c s got))).mapCopy c.id (CopyOp.advance n (n * 32) none none cross) := by
  obtain ⟨got, t, gathers, gathered, same⟩ := gather_plain p source start here
  have count : got.length = n := by simpa using congrArg List.length gathered.names
  have whole : c.wholeBytes none got = got := by simp [CopyOp.wholeBytes, p.kind]
  have free : t.heldBack c.core (chunkPas got) = false := by
    rw [gathered.chunkPas, eq_of_rested same]
    exact source.held
  have kept := (uncounted_of_untranslated (untranslated_crossLinks c.core false (chunkPas got) t)).trans (uncounted_of_rested same)
  have poison : (t.crossLinks c.core false (chunkPas got)).poison = s.poison := (congrArg State.poison kept :)
  have bytes : landedElements c (t.crossLinks c.core false (chunkPas got)) got = landedElements c s got := by
    unfold landedElements State.nearBytes
    rw [show (t.crossLinks c.core false (chunkPas got)).dram = s.dram from (congrArg State.dram kept :)]
  obtain ⟨v, counted, reads⟩ := readElements_near (c := c) (gathered.units source.near (s := t.crossLinks c.core false (chunkPas got))
    (by rw [poison]; exact source.sound))
  have kept' := counted.trans kept
  have focus' : v.blk.id = c.block := (congrArg (fun u => u.blk.id) kept' :).trans focus.symm
  have blocks : v.blocks = s.blocks := (congrArg State.blocks kept' :)
  refine ⟨got, v, crosses c.core (got.flatMap (·.2)), gathered, kept', ?_⟩
  unfold State.readChunk
  rw [gathers]
  dsimp only
  rw [whole, free, if_neg Bool.false_ne_true, landChunk_plain p focus' (by rw [blocks, focus]; exact alone) reads, bytes, count]

end

section
variable {s : State} {c : CopyOp} (turn : CopyTurn s c)
include turn

/-- 07 R146: no other copy of the core has a chunk to move. -/
theorem copyNext_alone : s.copyNext c = true := by
  have idle (k : CopyOp) (hk : k ∈ s.copies) (other : k.id ≠ c.id) : s.copyReady k = false := by
    have undue : s.agenda.any (fun d => decide (d.ev = .copyChunkLand k.id)) = false :=
      List.any_eq_false.mpr fun d hd => by simpa using turn.alone k hk other d hd
    rw [State.copyReady, undue, Bool.and_false]
  have none : s.copies.filter (fun k => decide (k.core = c.core ∧ k.id ≠ c.id) && s.copyReady k) = [] := by
    refine List.filter_eq_nil_iff.mpr fun k hk ready => ?_
    simp only [Bool.and_eq_true, decide_eq_true_eq] at ready
    exact absurd ready.2 (by rw [idle k hk ready.1.2]; exact Bool.false_ne_true)
  rw [State.copyNext, none]
  rfl

variable {n o off : Nat} (p : PlainCopy s c n o off) (start : c.next = 0) (sound : c.status = 0) (undecided : c.decided = [])
include p start sound undecided

theorem copyTurn_plain (agrees : c.conflict s.blk = none) : s.copyTurn c.id =
    State.nextOfCopy c.id ((s.readChunk c).mapCoreOf c.core (fun k => { k with copyAt := c.id })) := by
  have unfinished : c.over = false := CopyOp.over_eq_false sound undecided (by rw [p.total, start]; exact p.size.1) (by simp [p.kind])
  have serves : s.serveCopy c s.blk = (s.readChunk c).mapCoreOf c.core (fun k => { k with copyAt := c.id }) := by
    simp [State.serveCopy, State.oneChunk, p.kind, CopyOp.undecided]
  unfold State.copyTurn
  rw [turn.copy?]
  dsimp only
  rw [turn.block?]
  simp [p.kind, turn.copyMoves, turn.settled, turn.open_.2, turn.copyHead, unfinished, CopyOp.needsSlot, p.side, State.planeHeld, start,
    agrees, copyNext_alone turn, serves]

omit start sound undecided in
/-- 09 R186: a copy whose elements have all landed ends at once. -/
theorem nextOfCopy_landed {u : State} {cross : Bool} (bits : Nat) (listed : u.copy? c.id = some (c.advance n bits none none cross)) (start : c.next = 0) :
    u.nextOfCopy c.id = u.dueOnce 0 (.copyComplete c.id) := by
  have ended : (c.advance n bits none none cross).over = true := by
    have landed : (c.advance n bits none none cross).lay.total ≤ (c.advance n bits none none cross).next := by
      show c.lay.total ≤ c.next + n
      rw [p.total, start, Nat.zero_add]
    simp [CopyOp.over, landed]
  have flows : (c.advance n bits none none cross).stream = false := turn.open_.2
  have waits : (c.advance n bits none none cross).waiting = none := rfl
  unfold State.nextOfCopy
  rw [listed]
  simp [waits, flows, ended]

end

section
variable {s : State} {c : CopyOp} (log : s.graftLog = []) (alone : ∀ b ∈ s.blocks, b.id ≠ s.blk.id) (turn : CopyTurn s c) (undrained : Undrained s)
  {n o off pa : Nat} (p : PlainCopy s c n o off) (source : NearSource s c n o pa) (start : c.next = 0) (sound : c.status = 0)
  (undecided : c.decided = []) (here : c.remoteEnd = none) (agrees : c.conflict s.blk = none) (rising : (s.blk.window.map Prod.fst).Pairwise (· < ·))
include log alone turn undrained p source start sound undecided here agrees rising

theorem happens_landed : Happens (.copyChunkLand c.id) s (fun t =>
    (∀ x, Memory.get t.blk.window x = if off ≤ x ∧ x < off + 4 * n then Memory.get s.dram (pa + (x - off)) else Memory.get s.blk.window x) ∧
    (∃ d, t.copies.find? (fun k => k.id == c.id) = some d ∧ d.next = n ∧ d.status = 0 ∧ d.bytes = c.bytes + 32 * n) ∧
    (∃ d ∈ t.agenda, d.ev = .copyComplete c.id ∧ d.at_ ≤ s.now) ∧ t.me = s.me) := by
  obtain ⟨got, t, cross, gathered, same, reads⟩ := readChunk_plain p source turn.block alone start here
  have effect := copyTurn_plain turn p start sound undecided agrees
  rw [reads] at effect
  generalize hu : State.mapCoreOf c.core (fun k => { k with copyAt := c.id }) _ = u at effect
  have copies : u.copies = updIf (fun k => k.id == c.id) (CopyOp.advance n (n * 32) none none cross) s.copies := by
    rw [← hu, mapCoreOf_keeps State.copies (fun _ _ => rfl) (fun _ _ => rfl)]
    exact congrArg (updIf _ _) (congrArg State.copies same :)
  have listed : u.copy? c.id = some (c.advance n (n * 32) none none cross) := by
    rw [State.copy?, copies, find?_updIf (fun k => k.id == c.id) (CopyOp.advance n (n * 32) none none cross) (fun _ h => h), turn.named]
    rfl
  have blk : u.blk = c.landIn (c.slot.getD 0) (landedElements c s got) s.blk := by
    rw [← hu, mapCoreOf_keeps State.blk (fun _ _ => rfl) (fun _ _ => rfl)]
    exact congrArg (c.landIn _ _) (congrArg State.blk same :)
  have me : u.me = s.me := by
    rw [← hu, mapCoreOf_keeps State.me (fun _ _ => rfl) (fun _ _ => rfl)]
    exact (congrArg State.me same :)
  have now : u.now = s.now := by
    rw [← hu, mapCoreOf_keeps State.now (fun _ _ => rfl) (fun _ _ => rfl)]
    exact (congrArg State.now same :)
  have log' : u.graftLog = [] := by
    rw [← hu, mapCoreOf_keeps State.graftLog (fun _ _ => rfl) (fun _ _ => rfl)]
    exact (congrArg State.graftLog same :).trans log
  rw [nextOfCopy_landed turn p (n * 32) listed start] at effect
  have step : s.buffered (s.copyCore c.id) (.copyChunkLand c.id) (State.copyTurn c.id) = s.copyTurn c.id := by
    rw [turn.copyCore, buffered_undrained undrained]
  obtain ⟨d, due, ev, soon⟩ := mem_agenda_dueOnce 0 (.copyComplete c.id) u
  refine happens_of_effect rfl (step.trans effect) (by simp [log']) ⟨fun x => ?_, ⟨c.advance n (n * 32) none none cross, ?_, ?_, ?_, ?_⟩,
    ⟨d, due, ev, by rw [← now]; exact soon⟩, by simp [me]⟩
  · rw [State.dueOnce_blk, blk, gathered.window p]
    exact (get_writeRows s.blk.window s.dram rising off pa n x).2
  · rw [State.dueOnce_copies]
    exact listed
  · show c.next + n = n
    rw [start, Nat.zero_add]
  · show (if c.status = 0 ∧ (none : Option W64).isSome then 4 else c.status) = 0
    simp [sound]
  · show c.bytes + n * 32 = c.bytes + 32 * n
    rw [Nat.mul_comm]

end

/-- Settles O41: the turn of a copy into a tray by generation and free slots; a chunk of near store byte by byte; the end of a `cps`. -/
theorem copyEvents : Obligations.CopyEvents := by
  intro s c log alone turn undrained _
  refine ⟨fun k y kind side unplaced sound undecided rest tray agrees =>
      ⟨happens_reserved turn kind side unplaced sound undecided rest tray agrees log alone,
        happens_refused turn kind side unplaced sound undecided rest tray agrees log⟩, ?_, ?_⟩
  · intro n o off pa p start sound undecided here agrees _ near _ unpoisoned held _ rising _ whole maps
    have source : NearSource s c n o pa := {
      near := near
      sound := unpoisoned
      held := held
      maps := fun k hk => by
        obtain ⟨e, found, low, permits, plain, leads⟩ := maps k hk
        exact ⟨low, fun e he _ _ _ => whole e he, e, found, permits, plain, leads.symm⟩ }
    exact happens_landed log alone turn undrained p source start sound undecided here agrees rising
  · intro kind sound near undecided landed bare small quiet _ _
    exact happens_completed turn kind near landed log alone undrained sound undecided bare small quiet

end Sys2Proof.Machine
